-- ==== Sys2Proof/Word.lean ====
section
/-! DEFINITION. The word and byte types of the block. Register space is 32 bits wide (R39); memories are byte
addressed. Bit-field helpers live in Machine/Bits.lean. -/

namespace Sys2Proof

/-- A 32-bit register word. -/
abbrev Word := BitVec 32

/-- A memory byte. -/
abbrev Byte := BitVec 8

end Sys2Proof
end

