-- ==== Sys2Proof/Syntax.lean ====
section
/-! DEFINITION. The commands of the block: one constructor per row of spec/opcode_table.json, with the operands that the
row's rule gives it and, for an event of the outside world, the values that come with it (measurements, counts, received
bytes). The structures before it are operand values. -/

namespace Sys2Proof

/-- A complex integer: ADC codes, samples and sums. -/
structure Iq where
  i : Int
  q : Int
deriving DecidableEq, Repr

/-- A frame that arrives at a port (R305): the port (0 to 3), whether its FCS is right, and its octets without FCS. -/
structure RxFrame where
  port : Nat
  fcsOk : Bool
  octets : List Byte
deriving DecidableEq, Repr

/-- What a primary's engine sends to the secondary (R337): one changed entry, the sequence numbers (Sync, Announce,
Delay_Req) of valid entries after a scheduling tick, or the whole table, whose entries not listed are all zero. -/
inductive MirrorMsg where
  | entry (idx : Nat) (bytes : List Byte)
  | sequence (sec tick : Nat) (seqs : List (Nat × Nat × Nat × Nat))
  | table (entries : List (Nat × List Byte))
deriving DecidableEq, Repr

/-- An access to shared SRAM that an initiator presents to a bank (R542): initiator, direction, byte address, size in bytes
and, for a write, the value. -/
structure BankReq where
  init : Nat
  write : Bool
  addr : Nat
  size : Nat
  value : Nat
deriving DecidableEq, Repr

/-- A PCIe configuration request of the host (R493, R497): Bus Master Enable, power state, MSI-X enable and function mask,
Max_Payload_Size and Max_Read_Request_Size in bytes, or AER status bits written with 1. -/
inductive PcieCfg where
  | busMaster (on : Bool)
  | power (d3hot : Bool)
  | msix (enable mask : Bool)
  | payload (size : Nat)
  | readRequest (size : Nat)
  | aerClear (mask : Nat)
deriving DecidableEq, Repr

/-- The verdict that the solution of an epoch carries (R29, R258, R263). -/
inductive Verdict where
  | missing
  | valid
  | rejected
deriving DecidableEq, Repr

/-- A satellite as a solution uses or sees it, for the sentences of R502: SYS code of Table 10-3, satellite number, signal
identifier, elevation and azimuth in degrees, C/N0 in dB-Hz, and whether the solution uses it. -/
structure SatView where
  sys : Nat
  prn : Nat
  signal : Nat
  elev : Nat
  azim : Nat
  cn0 : Nat
  used : Bool
deriving DecidableEq, Repr

/-- What a solution record of Table 10-5 holds of a solution, and what its sentences show beside it: position (0.1 mm) and
velocity (0.1 mm/s) in ECEF, the variance of the position in (0.1 mm)^2, the systems used (bit SYS), PDOP, HDOP and VDOP
times 100, and the satellites. -/
structure Solution where
  pos : List Int
  vel : List Int
  var : Nat
  systems : Nat
  pdop : Nat
  hdop : Nat
  vdop : Nat
  sats : List SatView
deriving DecidableEq, Repr

/-- What a firing of the epoch trigger finds beside the instants (R17, R207, R282): time from the instant to the latch's SAMP edge
in 2^-16 ns and SAMP edges up to it; the verdict that the solution of this epoch carries, as the solution cores write it before
the next latch (R29), and that solution where it is not missing. -/
structure EpochIn where
  off : Nat
  samp : Nat
  verdict : Verdict
  sol : Solution
deriving DecidableEq, Repr

/-- A measured status field and the value that its interval found (R546): VANT in 20 mV, current (0.25 mA) and voltage
(20 mV) of feed n, VBAT in 5 mV. -/
inductive Measured where
  | vant (volt : Nat)
  | feed (n cur vout : Nat)
  | vbat (volt : Nat)
deriving DecidableEq, Repr

/-- A command of the block. Each constructor names its row of spec/opcode_table.json and the row's rule. -/
inductive Instr where
  /-- REGISTER_WRITE (R50): A write to a register that has no row of its own, applied under the field's access code
  and update class and checked for width, rights, lock and mapping. -/
  | registerWrite (init addr width value : Nat)
  /-- RC_FIELD_READ (R14): A read of an RC field returns its value and then clears that field. -/
  | rcFieldRead (init addr width : Nat)
  /-- TBU_NOW_READ (R282): A read of TBU_NOW0 captures the TBU time and the SAMP count of one TIME cycle in TBU_NOW1
  to TBU_NOW5. -/
  | tbuNowRead (init : Nat)
  /-- RTC_CNT_READ (R14): A read of RTC_CNT0 latches RTC_CNT1 and RTC_SUB at the same edge. -/
  | rtcCntRead (init : Nat)
  /-- RTC_CAL_READ (R14): A read of RTC_CAL0 latches RTC_CAL1. -/
  | rtcCalRead (init : Nat)
  /-- AON_RAW_READ (R14): A read of AON_RAW0 latches AON_RAW1. -/
  | aonRawRead (init : Nat)
  /-- ACQ_CELLS_READ (R14): A read of ACQ_CELLSLO latches ACQ_CELLSHI. -/
  | acqCellsRead (init : Nat)
  /-- UART_DATA_READ (R14): A read of UART_DATAu pops the next received byte from the receive FIFO. -/
  | uartDataRead (init u : Nat)
  /-- UART_DATA_WRITE (R501): A write of UART_DATAu pushes a byte into the transmit FIFO. -/
  | uartDataWrite (init u value : Nat)
  /-- QSPI_DATA_ACCESS (R14): An access to QSPI_DATA moves the next word through the 256-byte QSPI FIFO. -/
  | qspiDataAccess (init : Nat) (write : Bool) (value : Nat)
  /-- PTP_RXDATA_READ (R321): A read of PTP_RXDATA returns the next four octets of the oldest receive FIFO entry. -/
  | ptpRxdataRead (init : Nat)
  /-- PMU_RETDATA_ACCESS (R14): An access to PMU_RETDATA reads or writes firmware word INDEX of the retention list and
  advances INDEX. -/
  | pmuRetdataAccess (init : Nat) (write : Bool) (value : Nat)
  /-- ENABLE_WRITE (R45): A write of PAGE_CTRL.ENABLE starts a block, or stops it at its stop point. -/
  | enableWrite (init page : Nat) (on : Bool)
  /-- BLOCK_STOPPED (R45): A block that was told to stop reaches its stop point after its drain and clears RUNNING. -/
  | blockStopped (page : Nat)
  /-- SOFT_RESET (R47): A write of 1 to PAGE_CTRL.SOFT_RESET starts a block reset: it discards shadows, clears IRQ_RAW
  and sets ENABLE to 0. -/
  | softReset (init page : Nat)
  /-- SOFT_RESET_DONE (R47): A soft reset completes, and SOFT_RESET and IN_RESET read 0. -/
  | softResetDone (page : Nat)
  /-- PAGE_COMMIT (R54): A write of 0xC0DE_0001 to PAGE_COMMIT transfers the page's shadowed fields. -/
  | pageCommit (init page value : Nat)
  /-- PAGE_LOCK (R56): A write to PAGE_LOCK locks the page, or unlocks it when the writer is NYM. -/
  | pageLock (init page value : Nat)
  /-- MEASUREMENT_SAMPLE (R546): The interval of a measured status field expires and the field takes the new
  measurement. -/
  | measurementSample (m : Measured)
  /-- MODE_COMMAND (R31): MC writes SYS_MODECMD.GO, which posts TARGET into the single pending command slot. -/
  | modeCommand (init target : Nat)
  /-- TRIGGER_FIRE (R287): TBU time reaches or passes an instant of a Drumline trigger, and the trigger acts on every
  target that names it. -/
  | triggerFire (dt ds : Nat) (raw : List (List Iq)) (e : EpochIn)
  /-- SOL_STALE (R279): No SOLQ has transferred for 2 s at LOCKED quality, so SOLQ becomes HOLDOVER. -/
  | solStale (dt ds : Nat)
  /-- LEAP_DUE (R280): TBU time is at or past LEAPSEC with a leap scheduled: OFFSET changes by one and LEAP clears. -/
  | leapDue (dt ds : Nat)
  /-- TBU_LOAD (R273): An enabled TBU that waited for a referenced ROOT loads its time from TBU_LD or from the RTC. -/
  | tbuLoad (edges : Nat)
  /-- TBU_UNC_UPDATE (R278): Every 1 ms TBU_UNC grows by UNCGROW over the TBU time elapsed. -/
  | tbuUncUpdate (dt ds : Nat)
  /-- TBU_RELOAD (R284): After a wake with a valid snapshot, the TBU reloads at an RTC edge from T_e and the elapsed
  RTC cycles. -/
  | tbuReload (edges : Nat)
  /-- TIO_SECOND (R290): TBU time reaches a whole second: PPS pulses, SECOND is set and TIO fields transfer. -/
  | tioSecond (dt ds : Nat)
  /-- PULSE_END (R292): The WIDTH of a PPS or TOUT pulse expires and the pin returns to its inactive level. -/
  | pulseEnd (dt ds : Nat)
  /-- EVIN_CAPTURE (R293): A selected edge on EVINm is timestamped into its four-event FIFO, or lost with OVR. -/
  | evinCapture (dt ds m : Nat) (rise : Bool) (off : Nat)
  /-- EVENT_POP (R293): A write of 1 to TIO_EVSEC1m.VALID removes the oldest event. -/
  | eventPop (init m : Nat)
  /-- DAC_TARGET_WRITE (R295): A write to AUX_DACNEXT sets the steering target and PEND. -/
  | dacTargetWrite (init value : Nat)
  /-- ADC_SCAN_DONE (R297): An aux ADC scan completes and writes the means to AUX_RESk. -/
  | adcScanDone (sums : List Nat)
  /-- COVARIANCE_BLOCK_END (R142): A 2^16-sample covariance block ends: AGC, estimator and ARR shadow transfers act at
  the boundary. -/
  | covarianceBlockEnd (raw : List (List Iq))
  /-- B0_SOLVE (R151): The B0 weights are solved from R_avg after every UPD-th block and are ready before the next
  block. -/
  | b0Solve (b : Nat)
  /-- JAM_REPORT_DONE (R154): The eigen-decomposition and jammer reports of a solve complete and SOLVED is set. -/
  | jamReportDone (b : Nat)
  /-- SM_BLOCK_END (R125): A 4,096-sample spectral-monitor block ends and the DFE shadow fields transfer. -/
  | smBlockEnd (raw : List (List Iq))
  /-- SM_REPORT (R126): The spectral monitor ends an interval of 2^NAVG blocks and reports FLOOR and peaks. -/
  | smReport (p : Nat)
  /-- SYN_CAL (R75): A write of SYN_CTRL.CAL transfers a pending frequency and starts a VCO calibration. -/
  | synCal (b init : Nat)
  /-- SYN_TEMP_SAMPLE (R75): The 1 ms temperature sample starts a calibration when the drift exceeds DELTA. -/
  | synTempSample (b : Nat) (t : Int)
  /-- SYN_LOCK_ACHIEVED (R77): The synthesiser reaches LOCKED from CAL, SETTLE or UNLOCKED and PHASE_EPOCH increments. -/
  | synLockAchieved (b : Nat)
  /-- SYN_LOCK_LOST (R77): The lock detector drops in LOCKED and the synthesiser goes to UNLOCKED. -/
  | synLockLost (b : Nat)
  /-- SYN_LOCK_TIMEOUT (R77): 1 ms passes in CAL or SETTLE without lock and the synthesiser goes to UNLOCKED. -/
  | synLockTimeout (b : Nat)
  /-- ANT_SHORT (R85): A feed current stays at its limit for 2 µs outside blanking and the switch folds back to 3 mA. -/
  | antShort (n : Nat)
  /-- ANT_OPEN (R85): A feed current stays below OPEN_TH for 100 ms and OPEN is set. -/
  | antOpen (n : Nat)
  /-- ANT_BLANK_END (R86): The short-detection blanking time of a switch expires. -/
  | antBlankEnd (n : Nat)
  /-- ANT_AUTORETRY (R87): A folded switch with AUTORETRY whose output has stayed above half VANT for 10 ms returns to
  normal. -/
  | antAutoretry (n : Nat)
  /-- ANT_REARM (R87): A write of ANT_REARM restarts a folded or hot switch with blanking. -/
  | antRearm (init mask : Nat)
  /-- ANT_OVERTEMP (R87): A switch reaches 150 °C, turns off and sets HOT. -/
  | antOvertemp (n : Nat)
  /-- VANT_UNDERVOLTAGE (R88): VANT falls below 2.8 V and every switch turns off. -/
  | vantUndervoltage
  /-- VANT_OVERVOLTAGE (R88): VANT rises above 16.8 V and every switch turns off. -/
  | vantOvervoltage
  /-- VANT_RECOVER (R88): VANT stays within range for 1 ms and the enabled switches turn on again with blanking. -/
  | vantRecover
  /-- CAL_GO (R96): A write of CAL_CMD.GO starts the injector, holds it for lock, or is refused or ignored. -/
  | calGo (init : Nat)
  /-- CAL_STOP (R96): A write of CAL_CMD.STOP stops the injector through SEQ_OFF. -/
  | calStop (init : Nat)
  /-- CAL_HOLD_TIMEOUT (R96): The hold timer reaches TIMEOUT in HELD, and the GO is dropped with GO_TIMEOUT. -/
  | calHoldTimeout
  /-- CAL_SEQ_STEP (R99): A programmed gap expires and the next CAL_CTL line asserts, with RF on at the last step. -/
  | calSeqStep
  /-- CAL_RELEASE_STEP (R99): A release gap expires and the next CAL_CTL line releases in reverse order, ending in
  IDLE. -/
  | calReleaseStep
  /-- CAL_RL_WINDOW (R101): A 10 µs return-loss window ends and stops the injector when RL is worse than RL_TH. -/
  | calRlWindow (rl pwr : Nat)
  /-- CAL_LEVEL_OK (R100): The output level has stayed within ±0.5 dB for 10 µs and LEVEL_OK is set. -/
  | calLevelOk
  /-- CAL_LEVEL_FAIL (R100): The level stays more than 1 dB off for 1 ms and LEVEL_FAIL is set. -/
  | calLevelFail
  /-- CAP_ARM (R132): A write of DFE_CAPCMD.ARM arms a capture channel, or refuses invalid parameters. -/
  | capArm (n init : Nat)
  /-- CAP_STOP (R132): A write of DFE_CAPCMD.STOP ends an armed or running capture. -/
  | capStop (n init : Nat)
  /-- CAP_RMS_BLOCK (R129): A capture channel completes a 4,096-output-sample rms block. -/
  | capRmsBlock (n time : Nat) (raw : List (List Iq))
  /-- CAP_BUFFER_FULL (R132): The capture buffer fills, which completes a snapshot or wraps a ring. -/
  | capBufferFull (n : Nat) (raw : List (List Iq))
  /-- CAP_POST_DONE (R132): The POST count of a ring capture is reached after its stop event. -/
  | capPostDone (n : Nat) (raw : List (List Iq))
  /-- CAP_FIFO_OVERFLOW (R134): A channel FIFO overflows and the capture completes with OVERRUN. -/
  | capFifoOverflow (n : Nat)
  /-- CAP_OWN_ERROR (R132): A capture write meets an ownership error and the channel returns to IDLE. -/
  | capOwnError (n : Nat)
  /-- CAP_COMPLETE (R133): After the last data write the header is written, the banks are handed over and CAP_DONE is
  set. -/
  | capComplete (n time : Nat)
  /-- ACQ_JOBPUSH (R165): A write of a descriptor address to ACQ_JOBPUSH posts a job into the queue. -/
  | acqJobpush (init addr : Nat)
  /-- ACQ_JOB_TAKE (R167): The engine takes the next queued job when enough pipes are free and checks ownership,
  parameters and snapshot. -/
  | acqJobTake
  /-- ACQ_JOB_FINISH (R181): The pipes of a job finish their search work. -/
  | acqJobFinish (k : Nat)
  /-- ACQ_JOB_RETIRE (R167): A finished job retires in posting order: it writes results and status, hands banks over
  and issues seeds. -/
  | acqJobRetire
  /-- SEEDING_EVENT (R238): Carillon receives a seeding event and accepts or refuses it for a channel in SEEK. -/
  | seedingEvent
  /-- CODE_EPOCH (R190): A slot's code NCO wraps, which steps the secondary indices and DUMP_CNT and applies pending
  NCO updates. -/
  | codeEpoch (k : Nat) (raw : List (List Iq))
  /-- DUMP_RECORD_ENQUEUE (R206): A dump or lane record enters the dump queue, and the oldest lowest-class task drops
  when the queue is full. -/
  | dumpRecordEnqueue
  /-- LATCH_DONE (R208): The latch table half is written, HALF toggles and measurement tasks are formed. -/
  | latchDone
  /-- SET_WANT (R218): CHS_VCCMD SET_WANT sets a channel's WANT, which acts at the next planning pass. -/
  | setWant (init v w : Nat)
  /-- SET_RANK (R242): CHS_VCCMD SET_RANK sets a channel's CLASS and PRIO. -/
  | setRank (init v cls prio : Nat)
  /-- PUT_HW (R242): CHS_VCCMD PUT_HW writes the staging into a channel's hardware part, refused while LIVE. -/
  | putHw (init v : Nat)
  /-- PUT_CB (R242): CHS_VCCMD PUT_CB writes the staging into the control block except STATE and LOC. -/
  | putCb (init v : Nat)
  /-- GET (R242): CHS_VCCMD GET copies a channel's hardware part and control block into the staging. -/
  | get (init v : Nat)
  /-- PLANNING_PASS (R221): The planning-pass period expires and Carillon ranks and places QUEUED channels, with
  preemption. -/
  | planningPass
  /-- PAGE_IN (R225): The paging engine loads a channel's hardware part into a slot, checked by the fabric. -/
  | pageIn (v : Nat)
  /-- PAGE_OUT (R226): The paging engine writes a marked slot's image back at its dump boundary. -/
  | pageOut (v : Nat)
  /-- SWAP (R225): The paging engine does a page-out followed by a page-in in one operation. -/
  | swap (v : Nat)
  /-- PAGE_OP_DONE (R225): A page operation ends after 0.5 µs per slot and the engine becomes free. -/
  | pageOpDone
  /-- DUMP_TASK_FORM (R229): All records of one channel's boundary are in the queue, and a dump task is formed with
  its deadline. -/
  | dumpTaskForm (v : Nat)
  /-- TASK_DISPATCH (R231): Carillon delivers the next task by class and deadline to a free loop-core buffer. -/
  | taskDispatch
  /-- TASK_DELIVERED (R231): A task transfer into X memory completes and raises the core's task-ready line. -/
  | taskDelivered
  /-- TASK_COMPLETE (R234): A CHS_CMPLc CTL write with ACTION 0 completes a task and frees its buffer. -/
  | taskComplete (init c ctl : Nat)
  /-- FIRMWARE_WRITE_BACK (R234): WB = 1 in a completion copies the buffer's firmware part into the context. -/
  | firmwareWriteBack (init c ctl : Nat) (same : Bool)
  /-- NCO_RATE_UPDATE (R228): UPD_CARR or UPD_CODE in a completion applies new rates in the slot or in the context. -/
  | ncoRateUpdate (init c ctl : Nat) (carr code same : Bool)
  /-- CMPL_WANT_DORMANT (R234): A completion with ACTION 1 sets the channel's WANT to 1. -/
  | cmplWantDormant (init c ctl : Nat) (same : Bool)
  /-- CMPL_WANT_SEEK (R234): A completion with ACTION 2 sets the channel's WANT to 4. -/
  | cmplWantSeek (init c ctl : Nat) (same : Bool)
  /-- CMPL_WANT_OFF (R234): A completion with ACTION 4 sets the channel's WANT to 0. -/
  | cmplWantOff (init c ctl : Nat) (same : Bool)
  /-- REIMAGE (R235): A completion with ACTION 3 patches the image at the next dump boundary and reloads it in the
  same slot. -/
  | reimage (init c ctl : Nat) (same : Bool)
  /-- DUTY_PERIOD_ELAPSED (R218): DUTY_PERIOD elapses for a channel in REST and it returns to QUEUED. -/
  | dutyPeriodElapsed (v : Nat)
  /-- EVICT_READ (R224): A read of CHS2_EVICT removes the oldest eviction entry. -/
  | evictRead (init : Nat)
  /-- OPP_ANNOUNCE (R239): The PMU sets CHS_OPP.REQ and Carillon re-plans for the lower budget until CLEAR. -/
  | oppAnnounce
  /-- OPP_CLEAR_TIMEOUT (R239): CHS_OPP.WAIT expires without CLEAR and the PMU proceeds, setting OPP_TIMEOUT. -/
  | oppClearTimeout
  /-- FRAME_RECEIVE (R321): A port receives a frame that is filtered by address and passed to the receive FIFO when
  the engine does not consume it. -/
  | frameReceive (f : RxFrame)
  /-- DELAY_REQ_RECEIVE (R315): A received Delay_Req is matched to a master session and answered with Delay_Resp, or
  passed to the FIFO. -/
  | delayReqReceive (f : RxFrame)
  /-- PDELAY_REQ_RECEIVE (R315): A received Pdelay_Req is answered one-step when PDRESP = 1, or passed to the FIFO. -/
  | pdelayReqReceive (f : RxFrame)
  /-- PTP_MESSAGE_RECEIVE (R314): A received Sync, Follow_Up, Delay_Resp, Announce, Signaling or Management message is
  verified and passed to the FIFO. -/
  | ptpMessageReceive (f : RxFrame)
  /-- SYNC_TRANSMIT (R317): A queued Sync leaves its port with one-step fields inserted, or two-step. -/
  | syncTransmit (n : Nat)
  /-- FOLLOW_UP_TRANSMIT (R318): The Follow_Up of a two-step Sync leaves with its precise origin time. -/
  | followUpTransmit (n : Nat)
  /-- ANNOUNCE_TRANSMIT (R316): A queued Announce built from PTP_ANN and the TBU leaves its port. -/
  | announceTransmit (n : Nat)
  /-- DELAY_REQ_TRANSMIT (R314): A client Delay_Req leaves and its egress report enters the receive FIFO. -/
  | delayReqTransmit (n : Nat)
  /-- DELAY_RESP_TRANSMIT (R315): A Delay_Resp answering a Delay_Req leaves its port. -/
  | delayRespTransmit (n : Nat)
  /-- PDELAY_RESP_TRANSMIT (R315): A one-step Pdelay_Resp leaves with its turnaround in correctionField. -/
  | pdelayRespTransmit (n : Nat)
  /-- FIRMWARE_FRAME_TRANSMIT (R322): A firmware frame leaves its port queue, with an egress report when TS = 1. -/
  | firmwareFrameTransmit (n : Nat)
  /-- TXDATA_PUSH (R322): A write to PTP_TXDATA pushes four octets of a firmware frame. -/
  | txdataPush (init w : Nat)
  /-- TX_GO (R322): A write of PTP_TXCMD.GO queues the staged firmware frame. -/
  | txGo (init : Nat)
  /-- RX_POP (R321): A write of PTP_RXPOP removes the oldest receive FIFO entry. -/
  | rxPop (init : Nat)
  /-- PUT (R311): PTP_SESSCMD PUT writes the staged session entry with staged sequence numbers. -/
  | put (init ix : Nat)
  /-- PUT_KEEP (R311): PTP_SESSCMD PUT_KEEP writes the staged entry and keeps the device fields. -/
  | putKeep (init ix : Nat)
  /-- SESSION_GET (R311): PTP_SESSCMD GET copies a session entry to the staging. -/
  | sessionGet (init ix : Nat)
  /-- SESSION_CLEAR (R311): PTP_SESSCMD CLEAR writes an all-zero session entry. -/
  | sessionClear (init ix : Nat)
  /-- GRANT (R311): PTP_SESSCMD GRANT copies the LOG and END fields of the chosen message types. -/
  | grant (init ix arg : Nat)
  /-- GRANT_END (R310): TBU SEC reaches a session's END and that grant ends. -/
  | grantEnd (ix : Nat)
  /-- LINK_CHANGE (R326): A port gains or loses link or block lock, and a squelched recovered clock is withdrawn. -/
  | linkChange (n stat : Nat)
  /-- ROLE_PRIMARY (R332): PAIR_CMD role PRIMARY sets ROLE, or is refused while the peer is alive or attestation has
  not passed. -/
  | rolePrimary (init : Nat)
  /-- ROLE_SECONDARY (R332): PAIR_CMD role SECONDARY sets ROLE to SECONDARY. -/
  | roleSecondary (init : Nat)
  /-- ROLE_NONE (R332): PAIR_CMD role NONE sets ROLE to NONE. -/
  | roleNone (init : Nat)
  /-- TAKEOVER_COMMAND (R340): PAIR_CMD TAKEOVER starts a COMMAND takeover, or a PLANNED takeover request. -/
  | takeoverCommand (init : Nat)
  /-- RE_ATTEST (R333): PAIR_CMD re-attest starts a new mutual attestation. -/
  | reAttest (init : Nat)
  /-- PAIR_LINK_UP (R333): Both pair lanes reach frame lock and attestation starts. -/
  | pairLinkUp
  /-- PAIR_LINK_DOWN (R340): The pair link drops, which stops mirroring without a takeover. -/
  | pairLinkDown
  /-- ATT_DONE (R333): The mutual attestation ends with PASSED or FAILED. -/
  | attDone (chain sig : Bool) (id : List Byte) (peer : Bool)
  /-- HEARTBEAT_PULSE (R331): At each whole TBU millisecond a PRIMARY pulls PAIR_HB low for 50 µs. -/
  | heartbeatPulse
  /-- TIMING_FRAME_SEND (R335): A device sends its timing frame on lane 0 each millisecond. -/
  | timingFrameSend
  /-- TIMING_FRAME_RECEIVE (R335): A timing frame is received and the secondary updates OFFSET and RTT. -/
  | timingFrameReceive (t1 t4 : Nat)
  /-- FAIL_FAST_DETECT (R340): PAIR_HB has stayed low for 200 µs and the secondary takes over with cause 1. -/
  | failFastDetect
  /-- MISSED_HEARTBEAT (R340): Three whole milliseconds pass without a pulse or a timing frame and the secondary takes
  over with cause 2. -/
  | missedHeartbeat
  /-- PAIR_FENCE (R345): A primary receiving a takeover request or announcement becomes SECONDARY and silences its
  outputs. -/
  | pairFence (request : Bool)
  /-- PLANNED_TAKEOVER_TIMEOUT (R344): No reply to a takeover request within 3 ms, and the takeover proceeds as
  COMMAND. -/
  | plannedTakeoverTimeout
  /-- MIRROR_SEND (R337): A write of PAIR_MTXCMD.GO sends a firmware mirror block to the secondary. -/
  | mirrorSend (init : Nat)
  /-- MTXDATA_PUSH (R337): A write to PAIR_MTXDATA pushes four octets of a mirror block. -/
  | mtxdataPush (init w : Nat)
  /-- MIRROR_RECEIVE (R337): The secondary writes a received mirror block into its mirror ring. -/
  | mirrorReceive (type : Nat) (octets : List Byte) (mode qual : Nat)
  /-- SESSION_MIRROR_RECEIVE (R337): The secondary writes a received table change or sequence block into its session
  table. -/
  | sessionMirrorReceive (m : MirrorMsg)
  /-- MIRROR_ACK (R338): The secondary's acknowledgement lets a primary PTP_SESSCMD complete. -/
  | mirrorAck
  /-- NOP (R380): No operation. -/
  | swNop (c : Nat) (stall : Nat)
  /-- DUP (R380): Duplicates T0. -/
  | swDup (c : Nat) (stall : Nat)
  /-- DROP (R380): Drops T0. -/
  | swDrop (c : Nat) (stall : Nat)
  /-- SWAP_T (R380): SWAP exchanges the top two stack entries. -/
  | swSwapT (c : Nat) (stall : Nat)
  /-- OVER (R380): Pushes a copy of the second entry. -/
  | swOver (c : Nat) (stall : Nat)
  /-- ROT (R380): Rotates the third entry to the top. -/
  | swRot (c : Nat) (stall : Nat)
  /-- PICK (R380): Pushes a copy of entry T_F. -/
  | swPick (c : Nat) (stall : Nat)
  /-- ADD (R380): Wrapping addition. -/
  | swAdd (c : Nat) (stall : Nat)
  /-- SUB (R380): Wrapping subtraction. -/
  | swSub (c : Nat) (stall : Nat)
  /-- ADDS (R380): Saturating addition. -/
  | swAdds (c : Nat) (stall : Nat)
  /-- SUBS (R380): Saturating subtraction. -/
  | swSubs (c : Nat) (stall : Nat)
  /-- AND (R380): Bitwise AND. -/
  | swAnd (c : Nat) (stall : Nat)
  /-- OR (R380): Bitwise OR. -/
  | swOr (c : Nat) (stall : Nat)
  /-- XOR (R380): Bitwise XOR. -/
  | swXor (c : Nat) (stall : Nat)
  /-- NOT (R380): Ones' complement. -/
  | swNot (c : Nat) (stall : Nat)
  /-- NEG (R380): Wrapping two's complement negation. -/
  | swNeg (c : Nat) (stall : Nat)
  /-- ABS (R380): Saturating absolute value. -/
  | swAbs (c : Nat) (stall : Nat)
  /-- MIN (R380): Signed minimum. -/
  | swMin (c : Nat) (stall : Nat)
  /-- MAX (R380): Signed maximum. -/
  | swMax (c : Nat) (stall : Nat)
  /-- SLT (R380): Signed set-less-than. -/
  | swSlt (c : Nat) (stall : Nat)
  /-- SLTU (R380): Unsigned set-less-than. -/
  | swSltu (c : Nat) (stall : Nat)
  /-- MUL (R380): Low 32 bits of a product. -/
  | swMul (c : Nat) (stall : Nat)
  /-- MULH (R380): High 32 bits of a signed product. -/
  | swMulh (c : Nat) (stall : Nat)
  /-- MULHU (R380): High 32 bits of an unsigned product. -/
  | swMulhu (c : Nat) (stall : Nat)
  /-- SHL (R380): Logical left shift by F. -/
  | swShl (c : Nat) (stall : Nat)
  /-- SHR (R380): Logical right shift by F. -/
  | swShr (c : Nat) (stall : Nat)
  /-- SAR (R380): Arithmetic right shift by F. -/
  | swSar (c : Nat) (stall : Nat)
  /-- SHLV (R380): Logical left shift by a stack operand. -/
  | swShlv (c : Nat) (stall : Nat)
  /-- SHRV (R380): Logical right shift by a stack operand. -/
  | swShrv (c : Nat) (stall : Nat)
  /-- SARV (R380): Arithmetic right shift by a stack operand. -/
  | swSarv (c : Nat) (stall : Nat)
  /-- SEXT (R380): Sign-extends T0 from bit F. -/
  | swSext (c : Nat) (stall : Nat)
  /-- EXP (R380): Counts the redundant sign bits of T0. -/
  | swExp (c : Nat) (stall : Nat)
  /-- NORM (R380): Normalises T0 and pushes the shift count. -/
  | swNorm (c : Nat) (stall : Nat)
  /-- JR (R386): Jumps to an I memory offset, with a delay slot. -/
  | swJr (c : Nat) (stall : Nat)
  /-- CALLR (R386): Calls an I memory offset from the stack, with a delay slot. -/
  | swCallr (c : Nat) (stall : Nat)
  /-- RET (R386): Returns through the return stack, with a delay slot. -/
  | swRet (c : Nat) (stall : Nat)
  /-- RTI (R387): Pops STATUS and the return address and returns from an interrupt or exception. -/
  | swRti (c : Nat) (stall : Nat)
  /-- FENCE (R356): Stalls until every earlier far store has completed. -/
  | swFence (c : Nat) (stall : Nat)
  /-- WAIT (R394): Stalls the core in WAIT until an enabled line is pending. -/
  | swWait (c : Nat) (stall : Nat)
  /-- TRAP (R394): Raises exception TRAP with F in EADDR. -/
  | swTrap (c : Nat) (stall : Nat)
  /-- LPOP (R389): Pops the loop stack. -/
  | swLpop (c : Nat) (stall : Nat)
  /-- PUSHI (R381): Pushes a sign-extended 12-bit literal. -/
  | swPushi (c : Nat) (stall : Nat)
  /-- PUSHA (R381): Pushes address register An. -/
  | swPusha (c : Nat) (stall : Nat)
  /-- POPA (R381): Pops into address register An. -/
  | swPopa (c : Nat) (stall : Nat)
  /-- PUSHM (R381): Pushes offset register Mn. -/
  | swPushm (c : Nat) (stall : Nat)
  /-- POPM (R381): Pops into offset register Mn. -/
  | swPopm (c : Nat) (stall : Nat)
  /-- PUSHL (R381): Pushes length register Ln. -/
  | swPushl (c : Nat) (stall : Nat)
  /-- POPL (R381): Pops into length register Ln. -/
  | swPopl (c : Nat) (stall : Nat)
  /-- ADDA (R381): Modifies An by 4 × IMM6 under circular addressing. -/
  | swAdda (c : Nat) (stall : Nat)
  /-- PUSHL24 (R381): Pushes a sign-extended 24-bit literal. -/
  | swPushl24 (c : Nat) (stall : Nat)
  /-- LUI (R381): Pushes IMM24 shifted left by 8. -/
  | swLui (c : Nat) (stall : Nat)
  /-- ADDI (R381): Adds a sign-extended 24-bit literal to T0. -/
  | swAddi (c : Nat) (stall : Nat)
  /-- LD (R382): A local load through An with optional post-modify. -/
  | swLd (c : Nat) (ecc : Option (Nat × Bool)) (stall : Nat)
  /-- ST (R382): A local store through An with optional post-modify. -/
  | swSt (c : Nat) (stall : Nat)
  /-- LDX (R382): A local load from an absolute X or Y offset. -/
  | swLdx (c : Nat) (ecc : Option (Nat × Bool)) (stall : Nat)
  /-- STX (R382): A local store to an absolute X or Y offset. -/
  | swStx (c : Nat) (stall : Nat)
  /-- LDF (R383): A far load at a + DISP16, stalling until the response arrives. -/
  | swLdf (c : Nat) (ecc : Option (Nat × Bool)) (stall : Nat)
  /-- STF (R383): A far store at a + DISP16 through the write buffer. -/
  | swStf (c : Nat) (stall : Nat)
  /-- MAC (R384): Adds an X × Y product to an accumulator and post-modifies both pointers. -/
  | swMac (c : Nat) (ecc : Option (Nat × Bool)) (stall : Nat)
  /-- MSU (R384): Subtracts an X × Y product from an accumulator. -/
  | swMsu (c : Nat) (ecc : Option (Nat × Bool)) (stall : Nat)
  /-- MPY (R384): Loads an accumulator with an X × Y product. -/
  | swMpy (c : Nat) (ecc : Option (Nat × Bool)) (stall : Nat)
  /-- MPYN (R384): Loads an accumulator with a negated X × Y product. -/
  | swMpyn (c : Nat) (ecc : Option (Nat × Bool)) (stall : Nat)
  /-- CLR (R384): Clears an accumulator. -/
  | swClr (c : Nat) (stall : Nat)
  /-- MACS (R384): Adds a stack product to an accumulator. -/
  | swMacs (c : Nat) (stall : Nat)
  /-- MSUS (R384): Subtracts a stack product from an accumulator. -/
  | swMsus (c : Nat) (stall : Nat)
  /-- MPYS (R384): Loads an accumulator with a stack product. -/
  | swMpys (c : Nat) (stall : Nat)
  /-- LDA (R384): Loads an accumulator with T0 × 2^s. -/
  | swLda (c : Nat) (stall : Nat)
  /-- ACCADD (R384): Adds T0 × 2^s to an accumulator. -/
  | swAccadd (c : Nat) (stall : Nat)
  /-- ACCSUB (R384): Subtracts T0 × 2^s from an accumulator. -/
  | swAccsub (c : Nat) (stall : Nat)
  /-- NEGA (R384): Negates an accumulator. -/
  | swNega (c : Nat) (stall : Nat)
  /-- MOVA (R384): Copies the other accumulator. -/
  | swMova (c : Nat) (stall : Nat)
  /-- SRA (R384): Shifts an accumulator arithmetically right by s. -/
  | swSra (c : Nat) (stall : Nat)
  /-- EXPA (R384): Pushes the redundant sign bits of an accumulator. -/
  | swExpa (c : Nat) (stall : Nat)
  /-- NORMA (R384): Normalises an accumulator and pushes the count. -/
  | swNorma (c : Nat) (stall : Nat)
  /-- PUSHAL (R384): Pushes accumulator bits [31:0]. -/
  | swPushal (c : Nat) (stall : Nat)
  /-- PUSHAH (R384): Pushes accumulator bits [63:32]. -/
  | swPushah (c : Nat) (stall : Nat)
  /-- PUSHAG (R384): Pushes the sign-extended accumulator guard bits. -/
  | swPushag (c : Nat) (stall : Nat)
  /-- POPACC (R384): Loads an accumulator whole from three stack entries. -/
  | swPopacc (c : Nat) (stall : Nat)
  /-- STACC (R361): Stores a rounded, saturated accumulator value to the stack, a local word or a far word. -/
  | swStacc (c : Nat) (stall : Nat)
  /-- BEQ (R385): Branches when a = b. -/
  | swBeq (c : Nat) (stall : Nat)
  /-- BNE (R385): Branches when a ≠ b. -/
  | swBne (c : Nat) (stall : Nat)
  /-- BLT (R385): Branches when a < b, signed. -/
  | swBlt (c : Nat) (stall : Nat)
  /-- BGE (R385): Branches when a ≥ b, signed. -/
  | swBge (c : Nat) (stall : Nat)
  /-- BLTU (R385): Branches when a < b, unsigned. -/
  | swBltu (c : Nat) (stall : Nat)
  /-- BGEU (R385): Branches when a ≥ b, unsigned. -/
  | swBgeu (c : Nat) (stall : Nat)
  /-- BZ (R385): Branches when a = 0. -/
  | swBz (c : Nat) (stall : Nat)
  /-- BNZ (R385): Branches when a ≠ 0. -/
  | swBnz (c : Nat) (stall : Nat)
  /-- BNEG (R385): Branches when a < 0. -/
  | swBneg (c : Nat) (stall : Nat)
  /-- BR (R385): Always branches. -/
  | swBr (c : Nat) (stall : Nat)
  /-- CALL (R386): Calls a relative target and pushes the return address. -/
  | swCall (c : Nat) (stall : Nat)
  /-- LOOP (R388): Sets up a hardware loop with an immediate count. -/
  | swLoop (c : Nat) (stall : Nat)
  /-- LOOPT (R388): Sets up a hardware loop with a count from the stack. -/
  | swLoopt (c : Nat) (stall : Nat)
  /-- REP (R391): Repeats the next instruction n times. -/
  | swRep (c : Nat) (stall : Nat)
  /-- REPT (R391): Repeats the next instruction a stack-given number of times. -/
  | swRept (c : Nat) (stall : Nat)
  /-- MFCR (R393): Pushes a control register. -/
  | swMfcr (c : Nat) (stall : Nat)
  /-- MTCR (R393): Writes a control register, such as WDKICK or SP, from the stack. -/
  | swMtcr (c : Nat) (stall : Nat)
  /-- INTERRUPT_ENTRY (R368): At an instruction boundary not held off, the lowest pending enabled line is taken. -/
  | interruptEntry (c : Nat)
  /-- NMI_ENTRY (R368): Tocsin's NMI is taken on MC at the next boundary not held off. -/
  | nmiEntry
  /-- STORE_ERROR (R371): An error response to a buffered far store arrives and raises ST_ERR. -/
  | storeError (c : Nat)
  /-- FAR_LOAD_RESPONSE (R355): The response to a stalled far load arrives, or raises BUS on an error. -/
  | farLoadResponse (c cycles : Nat)
  /-- WRITE_BUFFER_ISSUE (R355): The write buffer issues its oldest store in program order. -/
  | writeBufferIssue (c : Nat)
  /-- STORE_COMPLETE (R356): A far store receives its completion response from its target. -/
  | storeComplete (c : Nat)
  /-- WAIT_WAKE (R368): An enabled line becomes pending for a core in WAIT and the core resumes. -/
  | waitWake (c cycles : Nat)
  /-- CORE_WDT_EXPIRY (R372): A core watchdog expires: a first expiry warns, a second holds the core or flags MC. -/
  | coreWdtExpiry (c edges : Nat)
  /-- CORE_HOLD (R373): ENABLE = 0 on a core page stops the core, cancels its loads and abandons its tasks. -/
  | coreHold (init c : Nat)
  /-- CORE_RELEASE (R373): ENABLE = 1 on a core page starts the core at offset 0 with reset control registers. -/
  | coreRelease (init c : Nat)
  /-- DOORBELL_RING (R374): A write of CORE_DOORBELL drains the writer's buffer and sets line 5 of the core. -/
  | doorbellRing (init c : Nat)
  /-- WINDOW_WRITE (R374): MC or DBG writes a core memory through the window, refused while the core runs. -/
  | windowWrite (init addr size value : Nat)
  /-- HANDOVER_WRITE (R398): A write of a new OWNER to MEM_OWNERnn is accepted or refused, then waits for the writer's
  stores. -/
  | handoverWrite (init b w : Nat)
  /-- HANDOVER_COMPLETE (R399): Earlier accesses drain, and the new owner and flags take effect with PENDING cleared. -/
  | handoverComplete (b : Nat)
  /-- OWNER_FLAGS_WRITE (R398): A write of the same OWNER changes DMA_DELEGATE, DMA_RDONLY and ROT at once. -/
  | ownerFlagsWrite (init b w : Nat)
  /-- BANK_ACCESS (R542): An access to shared SRAM is checked for span, ownership, alignment and ECC and served by
  slot arbitration. -/
  | bankAccess (ecc : Option (Nat × Bool)) (p d : Option BankReq)
  /-- SCRUB_TICK (R402): Every SCRUB.PERIOD the scrubber reads one word per bank and rewrites corrected words. -/
  | scrubTick (busy : List Nat)
  /-- DMA_START (R413): CH_CTRL.START moves an IDLE channel to FETCH. -/
  | dmaStart (init n : Nat)
  /-- DMA_PAUSE (R413): A write of CH_CTRL.PAUSE pauses or resumes a channel. -/
  | dmaPause (init n : Nat) (on : Bool)
  /-- DMA_RESUME (R415): CH_CTRL.RESUME repeats the failing access of a HALTED channel. -/
  | dmaResume (init n : Nat)
  /-- DMA_SKIP (R415): CH_CTRL.SKIP drops the rest of the failing element and continues. -/
  | dmaSkip (init n : Nat)
  /-- DMA_ABORT (R413): CH_CTRL.ABORT completes the descriptor with ERR 9. -/
  | dmaAbort (init n k u : Nat)
  /-- DESCRIPTOR_FETCHED (R407): A descriptor read returns and is accepted, refused, or found with OWN = 0. -/
  | descriptorFetched (n : Nat)
  /-- DMA_TRIGGER (R412): A trigger event of SRC 1 to 3 starts a burst, or is held or dropped. -/
  | dmaTrigger (n : Nat)
  /-- DMA_TIMER (R411): The channel's peripheral timer expires and starts a burst. -/
  | dmaTimer (n : Nat)
  /-- DMA_REQUEST (R412): A peripheral request line is asserted and starts a burst. -/
  | dmaRequest (n : Nat) (spi : Bool)
  /-- DMA_BURST_END (R413): A burst ends and the channel waits, or goes to COMPLETE after the last element. -/
  | dmaBurstEnd (n : Nat)
  /-- DMA_PAUSED (R413): A PAUSING channel has written the data it read and becomes PAUSED. -/
  | dmaPaused (n k : Nat)
  /-- DMA_ACCESS_ERROR (R414): A DMA access receives an error response, and the channel retries or halts. -/
  | dmaAccessError (n k u : Nat) (collide : Bool)
  /-- DMA_RETRY (R414): The 640 ns backoff expires and the retryable access is issued again. -/
  | dmaRetry (n : Nat) (collide : Bool)
  /-- DMA_COMPLETE (R417): The completion sequence writes STATUS and then OWN, and signals done and chained channels. -/
  | dmaComplete (n : Nat)
  /-- GET_INFO (R425): Nymvis returns the lifecycle, module version, APPROVED and SVN counters. -/
  | getInfo (init ch : Nat)
  /-- SELF_TEST (R428): Nymvis runs its self-tests on demand and may leave the error state. -/
  | selfTest (init ch : Nat)
  /-- CO_NONCE (R423): Nymvis issues a fresh 32-byte nonce that replaces the previous one. -/
  | coNonce (init ch : Nat)
  /-- AUTH_USER (R423): A channel authenticates as User with an HMAC over a fresh nonce. -/
  | authUser (init ch idx : Nat)
  /-- AUTH_END (R423): A channel ends its User authentication. -/
  | authEnd (init ch : Nat)
  /-- AUTH_TIMEOUT (R423): 300 s pass without a request on an authenticated channel and the authentication ends. -/
  | authTimeout (ch : Nat)
  /-- GET_CARTOUCHE (R439): Nymvis returns the DER certificate chain in the buffer. -/
  | getCartouche (init ch : Nat)
  /-- HASH (R425): Nymvis computes the SHA-256 of the buffer. -/
  | hash (init ch : Nat)
  /-- HMAC (R425): Nymvis computes HMAC-SHA-256 with a supplied key. -/
  | hmac (init ch : Nat)
  /-- CMAC (R425): Nymvis computes AES-256 CMAC with a supplied key. -/
  | cmac (init ch : Nat)
  /-- GCM (R425): Nymvis encrypts or decrypts the buffer with AES-256 GCM. -/
  | gcm (init ch : Nat) (decrypt : Bool) (slot : Nat) (iv tag : List Byte)
  /-- VERIFY (R425): Nymvis verifies an ECDSA P-256 signature. -/
  | verify (init ch : Nat)
  /-- RANDOM (R425): Nymvis returns up to 64 bytes of DRBG output. -/
  | random (init ch count : Nat)
  /-- QUOTE (R442): Nymvis captures TBU time and signs a 224-byte time quote. -/
  | quote (init ch : Nat)
  /-- LOAD_IMAGE (R436): Nymvis verifies a class image in the buffer. -/
  | loadImage (init ch : Nat)
  /-- INSTALL_IMAGE (R438): LOAD_IMAGE with INSTALL writes the verified segments into held cores and updates the
  measurement. -/
  | installImage (init ch : Nat)
  /-- ADVANCE_SVN (R437): Nymvis raises a class anti-rollback counter to the running SVN. -/
  | advanceSvn (init ch cls : Nat)
  /-- OSNMA_KROOT (R444): Nymvis verifies a DSM-KROOT against the stored Merkle root. -/
  | osnmaKroot (init ch : Nat)
  /-- ZEROISE_SESSION (R430): Nymvis zeroises the session items of Table 17-3. -/
  | zeroiseSession (init ch : Nat)
  /-- TAKE_OWNERSHIP (R432): CO_COMMAND moves PROVISIONED to OWNED and writes owner slot 0. -/
  | takeOwnership (init ch : Nat) (keyHash : List Byte) (ownerReq : Bool)
  /-- ROTATE_OWNER (R432): CO_COMMAND writes the next owner slot and revokes the previous one. -/
  | rotateOwner (init ch : Nat) (keyHash : List Byte)
  /-- RMA (R432): CO_COMMAND or a Lanidan token moves the lifecycle to RMA and zeroises the key store. -/
  | rma (init ch : Nat) (token : Bool)
  /-- SCRAP (R432): The lifecycle moves to SCRAPPED, destroying the PUF data and the Cartouche key. -/
  | scrap (init ch : Nat) (token : Bool)
  /-- DEBUG_GRANT (R433): CO_COMMAND opens DBG to every core except NYC until reset. -/
  | debugGrant (init ch : Nat)
  /-- INSTALL_USER_KEY (R440): An encrypted User key is entered under a CDH-derived KEK. -/
  | installUserKey (init ch idx : Nat) (eph wrapped : List Byte)
  /-- INSTALL_PTP_KEY (R443): An encrypted PTP key is entered and loaded into its engine slot. -/
  | installPtpKey (init ch slot : Nat) (eph wrapped : List Byte) (keyId spp : Nat)
  /-- ZEROISE (R430): CO_COMMAND ZEROISE overwrites the keys and clears the PTP slots. -/
  | zeroise (init ch : Nat)
  /-- PAIR_BIND (R441): CO_COMMAND stores a pair-binding record. -/
  | pairBind (init ch version : Nat) (own peer clock : List Byte)
  /-- SERVICE_GRANT (R440): CO_COMMAND stores a single-use grant for entry to SERVICE. -/
  | serviceGrant (init ch : Nat)
  /-- OSNMA_ROOT (R440): CO_COMMAND stores the OSNMA Merkle tree root. -/
  | osnmaRoot (init ch : Nat) (root : List Byte)
  /-- SET_POLICY (R440): CO_COMMAND sets OWNER_REQ. -/
  | setPolicy (init ch : Nat) (ownerReq : Bool)
  /-- TAMPER_TRIP (R445): A voltage, temperature or clock sensor trips, which zeroises the RAM CSPs and enters the
  error state. -/
  | tamperTrip (sensor : Nat)
  /-- NYM_WDT_EXPIRY (R446): The Nymvis watchdog expires and restarts NYC, warm-resetting on a second expiry within 1
  s. -/
  | nymWdtExpiry (edges : Nat)
  /-- HOST_BUNDLE_READY (R434): The host writes the boot word at the last word of B21 and Nymvis takes the banks back
  to verify. -/
  | hostBundleReady
  /-- BUNDLE_VERIFIED (R436): Bundle verification ends, MC is released, or the bundle is rejected. -/
  | bundleVerified (a b : List Byte) (keyStoreOk : Bool)
  /-- POWER_REQ_RUN (R452): PMU_REQ RUN ends a standing IDLE request or aborts an entry. -/
  | powerReqRun (init : Nat)
  /-- POWER_REQ_IDLE (R452): PMU_REQ IDLE places a standing request to stop the IDLEMASK domains. -/
  | powerReqIdle (init : Nat)
  /-- POWER_REQ_SLEEP (R453): PMU_REQ SLEEP starts an entry sequence. -/
  | powerReqSleep (init : Nat)
  /-- POWER_REQ_DEEP (R453): PMU_REQ DEEP starts an entry sequence. -/
  | powerReqDeep (init : Nat)
  /-- POWER_REQ_OFF (R453): PMU_REQ OFF starts an entry sequence without retention. -/
  | powerReqOff (init : Nat)
  /-- RETENTION_SAVE (R458): PMU_REQ.SAVE writes the retention list now. -/
  | retentionSave (init : Nat)
  /-- IDLE_ENTER (R452): Every released core is in WAIT, and the IDLEMASK domains stop. -/
  | idleEnter
  /-- IDLE_EXIT (R452): An enabled line becomes pending, and the IDLE domains restart. -/
  | idleExit
  /-- QUIESCE_DONE (R453): Cores wait, buffers drain and the NoC idles, which ends the QUIESCE phase. -/
  | quiesceDone
  /-- QUIESCE_TIMEOUT (R453): QTO elapses in QUIESCE and the entry aborts. -/
  | quiesceTimeout
  /-- TBU_SNAPSHOT (R283): At the first RTC edge of the TBU phase, T_e and C_e are captured. -/
  | tbuSnapshot (edges : Nat)
  /-- SAVE_DONE (R453): The retention list is written with its CRC. -/
  | saveDone
  /-- ISOLATE (R453): The mode is stored, MODE is set to SAFE, the wake timer is armed and the clamps engage. -/
  | isolate
  /-- POWER_DOWN_DONE (R453): The last PMBus transaction of the POWER phase completes and the state is reached. -/
  | powerDownDone
  /-- WAKE_PIN (R457): The WAKE pin holds its active level for two AON cycles, which is a wake event. -/
  | wakePin
  /-- WAKE_TIMER_EXPIRY (R454): The AON wake comparator reaches its count, which is a wake event. -/
  | wakeTimerExpiry (edges : Nat)
  /-- EXIT_WAKE_DONE (R457): VDD_PROC is valid and acknowledged or ACKTO has passed, which ends the WAKE phase. -/
  | exitWakeDone (procAck engAck : Bool)
  /-- EXIT_RESTORE (R457): The retention list is checked and restored, isolation is released and the cores start. -/
  | exitRestore (upset : Option (Nat × Nat))
  /-- OPP_CHANGE (R460): A write of PMU_OPP.TARGET starts or queues an operating-point change. -/
  | oppChange (init target : Nat)
  /-- PMBUS_TRANSACTION_DONE (R450): A PMBus transaction to a regulator completes. -/
  | pmbusTransactionDone (eng : Bool) (data : Nat)
  /-- PMBUS_ACK (R450): A polled READ_VOUT lies within 10 mV of the target, which is an acknowledgement. -/
  | pmbusAck (eng : Bool) (mv : Nat)
  /-- PMBUS_ACK_TIMEOUT (R450): ACKTO passes without acknowledgement and PMB_TIMEOUT is set. -/
  | pmbusAckTimeout (eng : Bool)
  /-- DVFS_SETTLE_DONE (R460): SETTLE µs after a raised voltage is acknowledged, the dividers are written. -/
  | dvfsSettleDone
  /-- PMB_ALERT (R450): PMB_ALERT_N goes low and STATUS_WORD is read into PMU_PMBSTAT. -/
  | pmbAlert (low : Bool) (status : Nat) (proc : Bool)
  /-- PROCV_WRITE (R450): A write of PMU_PROCV commands VDD_PROC at once. -/
  | procvWrite (init value : Nat)
  /-- DIVIDER_APPLY (R461): A divider change takes effect at the next 40-ROOT-cycle boundary and changes the CORR and
  ACQ clocks. -/
  | dividerApply
  /-- PLL_LOCK (R463): The root PLL locks on a stable reference and sets LOCK. -/
  | pllLock
  /-- XO_STABLE (R463): Twenty consecutive in-window XO counts set XO_STABLE. -/
  | xoStable
  /-- REFIN_STABLE (R463): Ten consecutive in-window REF_IN counts set REFIN_STABLE. -/
  | refinStable
  /-- DOMAIN_RUN_WRITE (R464): A write of CLK_RUN starts or stops domains on a clock edge. -/
  | domainRunWrite (init value : Nat)
  /-- DOMAIN_SWITCH (R465): A write of CLK_SRC stops a domain to switch its source. -/
  | domainSwitch (init value : Nat)
  /-- SWITCH_RESTART (R465): The fourth edge of the new source restarts the switched domain. -/
  | switchRestart (d : Nat)
  /-- SWITCH_FORCED (R465): The old source gives no edge within the timed wait, so the switch is forced. -/
  | switchForced (d : Nat)
  /-- MONITOR_MEASURE (R467): A clock-monitor interval ends and its deviation is judged for trip or return. -/
  | monitorMeasure (m : Nat) (dev : Int)
  /-- ROOT_LOCK_LOST (R467): Monitor 4's lock detector sees ROOT lose lock and the policy acts. -/
  | rootLockLost
  /-- IRO_READY (R469): IRO becomes ready and a pending fallback is carried out. -/
  | iroReady
  /-- POWER_ON_RESET (R449): The marked rails qualify after 50 µs, or one falls, and power-on reset is released or
  asserted. -/
  | powerOnReset (rails : Nat)
  /-- RESET_N (R473): RESET_N held low for 20 µs saves retention and resets everything but AON. -/
  | resetN
  /-- RTC_SECOND (R479): SUB wraps, SEC increments, RTC_UNC grows and the calendar steps. -/
  | rtcSecond (edges : Nat)
  /-- AON_COMMIT_APPLY (R482): A committed RTC or AON value takes effect at the next AON edge. -/
  | aonCommitApply
  /-- SET_TBU (R482): A write of RTC_CTL.SET_TBU requests a load of the count from the TBU. -/
  | setTbu (init : Nat)
  /-- SET_TBU_LOAD (R482): At the next AON edge the count loads from the TBU, or SET_TBU is discarded. -/
  | setTbuLoad
  /-- VMAIN_FAIL (R486): VMAIN falls below 2.95 V and AON moves to VBAT. -/
  | vmainFail
  /-- VMAIN_VALID (R486): VMAIN stays above 2.95 V for 50 µs and AON takes VMAIN, reporting a brown-out if one
  occurred. -/
  | vmainValid
  /-- VBAT_LOW (R488): VBAT falls below 1.85 V while AON runs from VMAIN. -/
  | vbatLow
  /-- AON_BROWN_OUT (R487): AON loses its hold-up supply and browns out. -/
  | aonBrownOut
  /-- FIRSTSW_CLEAR (R486): A write of 1 to RTC_FIRSTSW1.VALID clears the first-switch record and AON_SWCNT. -/
  | firstswClear (init : Nat)
  /-- FATAL_RECORD_CLEAR (R490): AON_FATCTL.CLEAR empties the retained FATAL records. -/
  | fatalRecordClear (init : Nat)
  /-- BAR0_ACCESS (R494): A PCIe TLP to BAR0 reaches register space as HOST. -/
  | bar0Access (off width : Nat) (write : Bool) (value : Nat)
  /-- BAR2_ACCESS (R495): A PCIe TLP to BAR2 reaches a HOST-owned bank as word accesses. -/
  | bar2Access (off : Nat) (write : Bool) (words : List (Nat × Nat)) (count : Nat)
  /-- FETCH_START (R496): MC writes PCIE_FCMD.GO and the fetch engine starts a copy. -/
  | fetchStart (init value : Nat)
  /-- FETCH_DONE (R496): The last write of a copy completes, BUSY clears and FETCH_DONE is set. -/
  | fetchDone (data : List Byte)
  /-- FETCH_TIMEOUT (R496): No completion arrives within 50 ms and the copy ends with RESULT 2. -/
  | fetchTimeout (data : List Byte)
  /-- EOI_WRITE (R497): A write of PCIE_EOI rearms an MSI-X vector. -/
  | eoiWrite (init vec : Nat)
  /-- PCIE_LINK_CHANGE (R498): The PCIe link comes up or goes down. -/
  | pcieLinkChange (up : Bool) (speed width : Nat)
  /-- SPI_READ_FRAME (R500): An SPI frame with command 0x03 reads words as HOST. -/
  | spiReadFrame (cmd addr count n : Nat) (fill : List Nat)
  /-- SPI_WRITE_FRAME (R500): An SPI frame with command 0x02 writes words as HOST, checked by CRC when enabled. -/
  | spiWriteFrame (cmd addr count : Nat) (data : List Byte) (crc : Nat)
  /-- UART_RX_BYTE (R501): A UART receives a byte into its receive FIFO. -/
  | uartRxByte (u : Nat) (b : Byte)
  /-- UART_TX_BYTE (R501): A UART finishes sending a byte and frees FIFO space. -/
  | uartTxByte (u : Nat)
  /-- QSPI_COMMAND (R503): A write of QSPI_CMD.GO starts a flash command. -/
  | qspiCommand (init value : Nat)
  /-- QSPI_DONE (R503): A QSPI command completes and BUSY clears. -/
  | qspiDone (data : List Byte)
  /-- MDIO_COMMAND (R504): A write of MDIO_CMD starts a Clause 22 or 45 frame. -/
  | mdioCommand (init value : Nat)
  /-- MDIO_DONE (R504): An MDIO frame ends and BUSY clears. -/
  | mdioDone (data : Nat)
  /-- GPIO_SET (R505): A write of GPIO_SET sets the OUT bits written with 1. -/
  | gpioSet (init value : Nat)
  /-- GPIO_CLR (R505): A write of GPIO_CLR clears the OUT bits written with 1. -/
  | gpioClr (init value : Nat)
  /-- GPIO_EDGE (R505): A selected, debounced input edge sets IRQ_RAW bit n. -/
  | gpioEdge (n : Nat) (level held : Bool)
  /-- CMDPI_WRITE (R508): The host writes MBX_CMDPI, which waits for earlier host writes and rings MC line 4. -/
  | cmdpiWrite (init value : Nat)
  /-- RSPPI_WRITE (R508): MC advances MBX_RSPPI, which publishes responses and sets RSP. -/
  | rsppiWrite (init value : Nat)
  /-- RSPCI_WRITE (R508): The host advances MBX_RSPCI and RSP is re-evaluated. -/
  | rspciWrite (init value : Nat)
  /-- CMDCI_WRITE (R508): MC advances MBX_CMDCI after reading commands. -/
  | cmdciWrite (init value : Nat)
  /-- GET_STATUS (R509): The mailbox command returns mode, quality, time and status. -/
  | getStatus
  /-- SET_MODE (R509): The mailbox command asks for a mode transition. -/
  | setMode
  /-- MBX_POWER (R509): The mailbox POWER command asks for a power state. -/
  | mbxPower
  /-- SURVEY (R265): The mailbox command sets the survey duration and limit. -/
  | survey
  /-- SET_POSITION (R266): The mailbox command loads a fixed position. -/
  | setPosition
  /-- SET_GEOMETRY (R509): The mailbox command loads the antenna geometry and frame. -/
  | setGeometry
  /-- LOAD_GRATICULE (R107): The mailbox command loads a Graticule image, checked under R107. -/
  | loadGraticule
  /-- PTP_CONFIG (R509): The mailbox command sets the clock identity, Announce data and port enables. -/
  | ptpConfig
  /-- PTP_SESSION (R509): The mailbox command runs a session-table operation. -/
  | ptpSession
  /-- MBX_PAIR (R509): The mailbox PAIR command issues a PAIR_CMD operation. -/
  | mbxPair
  /-- MBX_QUOTE (R509): The mailbox QUOTE command returns a signed time quote. -/
  | mbxQuote
  /-- FW_UPDATE (R509): The mailbox command verifies and installs a firmware class image. -/
  | fwUpdate
  /-- GET_LOG (R509): The mailbox command returns Tocsin log or retained FATAL records. -/
  | getLog
  /-- NMEA_CONFIG (R502): The mailbox command configures NMEA output on UART1. -/
  | nmeaConfig
  /-- FAULT_ENTRY (R513): Tocsin receives an ERR_STICKY 0-to-1 transition and logs it, raises NMI or escalates by
  class. -/
  | faultEntry
  /-- TOC_NMIACK (R516): MC writes the acknowledge key, clearing NMI_ACTIVE and re-raising NMI if MISSED. -/
  | tocNmiack (init value : Nat)
  /-- WINDOW_EXPIRY (R518): The NMI handling window ends with NMI_ACTIVE set, which sets WIN_EXPIRED and escalates. -/
  | windowExpiry (edges : Nat)
  /-- RELEASE (R519): TOC_ESC ACTION 1 ends the escalation at once. -/
  | release (init : Nat) (keepTime : Bool)
  /-- PLANE_RESET (R520): TOC_ESC ACTION 2 soft-resets the data and control planes and holds the loop and solution
  cores. -/
  | planeReset (init : Nat) (keepTime : Bool)
  /-- PLANE_DONE (R520): The plane reset completes and ends the escalation. -/
  | planeDone
  /-- ESCALATION_TIMEOUT (R519): ESCTO passes without a valid TOC_ESC write and the device warm-resets. -/
  | escalationTimeout (edges : Nat)
  /-- TOC_LOGPOP (R515): A write of TOC_LOGPOP removes the oldest log entry. -/
  | tocLogpop (init value : Nat)
  /-- LNA_OVERLOAD (R73): The LNA input overload detector of a path becomes active or inactive, which changes
  RFE_STAT.OVL and on activation sets ERR_STICKY.OVERLOAD. -/
  | lnaOverload (p : Nat) (active : Bool)
  /-- LNA_STEP_WINDOW_END (R67): 64 SAMP cycles after an LNA step change, the path stops marking its samples invalid
  with cause 4. -/
  | lnaStepWindowEnd (p : Nat)
  /-- PAIR_HB_EDGE (R331): The peer pulls PAIR_HB low or releases it, which is seen as a heartbeat pulse or as the
  start of a fail-fast low. -/
  | pairHbEdge (low : Bool)
  /-- HEARTBEAT_WINDOW_END (R340): 100 µs after each whole TBU millisecond the device judges whether a peer pulse or
  timing frame arrived, updating PAIR_STAT.MISS and HB_OK and setting HB_LINE when only the frame came. -/
  | heartbeatWindowEnd
  /-- TAKEOVER_REPLY_RECEIVE (R344): The secondary receives the primary's reply to a takeover request, which names the
  handover tick k_h. -/
  | takeoverReplyReceive (sec k : Nat)
  /-- UNDEFINED_ENCODING (R378): A core fetches a halfword or long form that no instruction table defines, such as
  0x0000, and raises ILLEGAL at its address. -/
  | undefinedEncoding (c : Nat) (ecc : Option (Nat × Bool))
  /-- POWER_ON_SELF_TESTS_DONE (R428): The power-on self-tests of NYC finish at every start of NYC, which enters the
  error state on failure or begins the bundle fetch. -/
  | powerOnSelfTestsDone (pass : Bool)
  /-- NYM_REQUEST_DONE (R424): Nymvis finishes a service request, writes the output words and RESULT, clears BUSY,
  sets the channel's IRQ_RAW bit and hands back the buffer banks. -/
  | nymRequestDone (ch : Nat) (pass : Bool)
  /-- CMD_DONE (R242): A CHS_VCCMD command completes within 2 µs, clearing CHS_VCSTAT2.BUSY and setting
  IRQ_RAW.CMD_DONE. -/
  | cmdDone
  /-- SESS_DONE (R311): A PTP_SESSCMD command completes locally, clearing PTP_SESSSTAT.BUSY and setting
  IRQ_RAW.SESS_DONE. -/
  | sessDone
  /-- TAMPER_CONDITION_CLEARED (R445): A voltage, temperature or clock condition that tripped a tamper sensor goes
  away, which clears its NYM_TAMPER.NOW bit. -/
  | tamperConditionCleared (sensor : Nat)
  /-- TRIM_WINDOW_START (R480): The AON raw count reaches a multiple of 2^25, which starts a new trim window in which
  a committed RTC_TRIM.N takes effect. -/
  | trimWindowStart (edges : Nat)
  /-- VBAT_RECOVER (R488): VBAT rises back above 1.85 V while AON runs from VMAIN, which clears AON_STAT.VBAT_LOW. -/
  | vbatRecover
  /-- RESET_N_RELEASE (R473): RESET_N rises after a reset of 20 µs or more, and the device starts at the immediate
  stage. -/
  | resetNRelease
  /-- PCIE_CONFIG_ACCESS (R493): The host makes a PCIe configuration request that sets or clears Bus Master Enable,
  changes the power state to D3hot or D0, or configures MSI-X. -/
  | pcieConfigAccess (cfg : PcieCfg)
deriving DecidableEq, Repr

end Sys2Proof
end

