-- ==== Sys2Proof/Decode.lean ====
section
/-! DEFINITION. The table's bits: no row of spec/opcode_table.json gives any (every "fields" list is empty), so no word spells a
command, and commands reach the queue from outside. -/

namespace Sys2Proof

/-- The command that a word spells by the table's bits: none. -/
def decodeTableWord (_nbits _w : Nat) : Option Instr := none

end Sys2Proof
end

