-- ==== Sys2Proof/Config.lean ====
section
/-! DEFINITION. What a device fixes at production or what the spec leaves open: opaque constants without a body, so that
nothing can evaluate them and a claim holds whatever they are. Each is named in an assumption log entry. -/

namespace Sys2Proof.Config

/-- Free value number `n`: the value of a result the spec leaves undefined or unstated (DESIGN CHOICE, log entry 3). -/
opaque freeValue : Nat → BitVec 64

/-- Factory values of R547 before their bounds are applied, one per register field. -/
opaque factory : Nat → Nat

/-- The device's serial number in OTP, 16 bytes, and its factory trim, 16 bytes (Table 17-4; their split is log entry 33). -/
opaque serial : List Byte
opaque factoryTrim : List Byte

/-- The PUF helper data and the wrapped Cartouche private key in OTP, while they are not destroyed (Table 17-4). -/
opaque pufData : List Byte
opaque wrappedKey : List Byte

/-- The Cartouche private key (R439): a secret of the device. -/
opaque deviceKey : BitVec 256

/-- The device certificate in DER, whose subject serial number and public key are these, and its Lanidan intermediate (R439). -/
opaque deviceCert : (serial pub : List Byte) → List Byte
opaque interCert : List Byte

/-- Module version that GET_INFO answers (Table 17-2). -/
opaque moduleVersion : Word

/-- SHA-256 of the Lanidan image keys of OTP slots 0 and 1 (Table 17-4). -/
opaque lanidanHash : Nat → List Byte

/-- Bytes of the Nymvis ROM (Table 2-6). -/
opaque nymRom : Nat → Byte

/-- Tap `k` of the decimation filter of a decimation by 2^d, in 2^-16: R128 gives its passband and rejection and no
coefficients (DESIGN CHOICE, log entry 67). -/
opaque decimTap : Nat → Nat → Int

/-- Tap `k` (0 to 15) of the fractional-delay filter for a fraction of `f` / 256 sample, in 2^-16: R143 gives its flatness and
group delay and no coefficients (DESIGN CHOICE, log entry 67). -/
opaque delayTap : Nat → Nat → Int

/-- What the tracking loop of a notch at FREQ `f` finds of the tone's distance from it, in FREQ units, from the part of the
signal that the notch takes away of a sample (`ui`, `uq`) and of the one before (`vi`, `vq`), in 2^-24 LSB: R118 gives the
loop's gain and range and no formula of its error (DESIGN CHOICE, log entry 67). -/
opaque notchError : (f : Nat) → (ui uq vi vq : Int) → Int

/-- A code chip that the spec leaves without a value: bit `b` of word `a` at sample `n` (DESIGN CHOICE, log entry 71). -/
opaque openChip : (n a b : Nat) → Bool

/-- Octets of an IP header that the spec leaves to the device: identification (0, 1), flags and fragment offset (2, 3), time
to live (4), hop limit (5) (log entry 78). -/
opaque ipFill : Nat → Byte

end Sys2Proof.Config
end

