-- ==== Sys2Proof/Machine/Frac.lean ====
section
/-! DEFINITION. Exact fractions and complex fractions, in lowest terms, for the formulas that the spec gives without an
internal precision (the covariance average and the B0 solve, R149 and R150, the estimators, R116): they are computed
exactly and rounded only where the spec rounds (DESIGN CHOICE, log entry 21). -/

namespace Sys2Proof.Machine

/-- A fraction in lowest terms with a positive denominator. -/
structure Frac where
  num : Int
  den : Nat
deriving DecidableEq, Repr

def Frac.make (n : Int) (d : Nat) : Frac :=
  let g := Nat.gcd n.natAbs d
  if g = 0 then ⟨0, 1⟩ else if d = 0 then ⟨0, 1⟩ else ⟨n / (g : Int), d / g⟩

def Frac.ofInt (n : Int) : Frac := ⟨n, 1⟩
def Frac.zero : Frac := ⟨0, 1⟩
def Frac.add (a b : Frac) : Frac := Frac.make (a.num * b.den + b.num * a.den) (a.den * b.den)
def Frac.neg (a : Frac) : Frac := ⟨-a.num, a.den⟩
def Frac.sub (a b : Frac) : Frac := a.add b.neg
def Frac.mul (a b : Frac) : Frac := Frac.make (a.num * b.num) (a.den * b.den)
def Frac.inv (a : Frac) : Frac := if a.num < 0 then Frac.make (-(a.den : Int)) a.num.natAbs else Frac.make a.den a.num.natAbs
def Frac.div (a b : Frac) : Frac := a.mul b.inv
def Frac.le (a b : Frac) : Bool := a.num * b.den ≤ b.num * a.den
def Frac.lt (a b : Frac) : Bool := a.num * b.den < b.num * a.den

/-- Rounded to nearest, ties away from zero. -/
def Frac.round (a : Frac) : Int :=
  if a.num < 0 then -(((-a.num) * 2 + a.den) / (2 * a.den)) else (a.num * 2 + a.den) / (2 * a.den)

def Frac.floor (a : Frac) : Int := a.num / (a.den : Int)

/-- A complex fraction. -/
structure Cx where
  re : Frac
  im : Frac
deriving DecidableEq, Repr

def Cx.zero : Cx := ⟨Frac.zero, Frac.zero⟩
def Cx.ofInts (a b : Int) : Cx := ⟨Frac.ofInt a, Frac.ofInt b⟩
def Cx.add (a b : Cx) : Cx := ⟨a.re.add b.re, a.im.add b.im⟩
def Cx.sub (a b : Cx) : Cx := ⟨a.re.sub b.re, a.im.sub b.im⟩
def Cx.mul (a b : Cx) : Cx := ⟨(a.re.mul b.re).sub (a.im.mul b.im), (a.re.mul b.im).add (a.im.mul b.re)⟩
def Cx.conj (a : Cx) : Cx := ⟨a.re, a.im.neg⟩
def Cx.scale (k : Frac) (a : Cx) : Cx := ⟨k.mul a.re, k.mul a.im⟩
def Cx.isZero (a : Cx) : Bool := a.re.num = 0 && a.im.num = 0
def Cx.inv (a : Cx) : Cx :=
  let n := ((a.re.mul a.re).add (a.im.mul a.im)).inv
  ⟨a.re.mul n, (a.im.mul n).neg⟩

/-- A row minus a multiple of another. -/
def rowSub (k : Cx) (p r : List Cx) : List Cx := List.zipWith (fun x y => x.sub (k.mul y)) r p

/-- Gauss-Jordan elimination on column `c`: the first row from `done` on with a non-zero entry is the pivot. -/
def elimCol (c : Nat) (done rest : List (List Cx)) : Option (List (List Cx) × List (List Cx)) :=
  match rest.find? (fun r => !((r.getD c Cx.zero).isZero)) with
  | none => none
  | some p =>
    let piv := p.map ((p.getD c Cx.zero).inv.mul ·)
    let red := fun r => rowSub (r.getD c Cx.zero) piv r
    some (done.map red ++ [piv], (rest.erase p).map red)

def elim : Nat → Nat → List (List Cx) → List (List Cx) → Option (List (List Cx))
  | 0, _, done, _ => some done
  | n + 1, c, done, rest =>
    match elimCol c done rest with
    | none => none
    | some (d, r) => elim n (c + 1) d r

/-- The solution of `m x = b` for a square matrix, `none` when it is singular. -/
def linSolve (m : List (List Cx)) (b : List Cx) : Option (List Cx) :=
  let aug := List.zipWith (fun r x => r ++ [x]) m b
  (elim m.length 0 [] aug).map fun rows => rows.map fun r => r.getD m.length Cx.zero

/-- `a^H b`. -/
def cdot (a b : List Cx) : Cx := (List.zipWith (fun x y => x.conj.mul y) a b).foldl Cx.add Cx.zero

end Sys2Proof.Machine
end

