-- ==== Sys2Proof/Machine/State.lean ====
section
/-! DEFINITION. The state of the block, plain data, and its reset state. Registers are held in one sparse store keyed by
address; the records below hold what the spec gives each block beyond its registers. -/

namespace Sys2Proof.Machine

/-- Why the block stops with a fault. No command stops with one: the spec answers a bad access with a response, which
is part of the state, and has no other way for the block to stop. Raised by nobody; kept closed so that a claim can
list the reasons. Safe. -/
inductive Fault where
  /-- Nobody raises it. Safe. -/
  | never
deriving DecidableEq, Repr

/-- Why a command is refused. -/
inductive Refusal where
  /-- Raised by an arm of `exec` that has no meaning yet. Safe. -/
  | notModelled (mnemonic : String)
deriving DecidableEq, Repr


/-- How an access ended for its initiator (R39, R40, R58, R62, R397, R401, R402). `served` also covers a write that was
refused with a sticky bit only; `none` means no access has been made. -/
inductive Resp where
  | none | served | decode | align | own | ecc | targetReset | collide
deriving DecidableEq, Repr

/-- An ERR_STICKY bit that rose from 0 to 1 and that Tocsin has not yet taken (R513). -/
structure StickyEvent where
  page : Nat
  bit : Nat
  info : Word
deriving DecidableEq, Repr

/-- A survey (R265): survey time in ns, the sum of the weights (inverse variances, in (0.1 mm)^-2), the weighted sums of X, Y
and Z (0.1 mm), and whether it has completed. -/
structure Survey where
  time : Nat
  weight : Frac
  sum : List Frac
  complete : Bool
deriving DecidableEq, Repr

def Survey.reset : Survey := ⟨0, Frac.zero, [Frac.zero, Frac.zero, Frac.zero], false⟩

/-- State of the mode logic of SYS beyond its registers (R26 to R31, R543): the target of the pending command, the TBU times
(ns) at which the present runs of missing and of valid solutions began, TBU time and mode of the last epoch, the last
solution judged was valid, a fixed position is loaded, and the survey of R265. -/
structure Sys where
  cmdTarget : Nat
  missStart : Option Nat
  validStart : Option Nat
  lastEpoch : Option (Nat × Nat)
  ownValid : Bool
  fixedPos : Bool
  survey : Survey
  solved : Verdict × Solution
  fixed : Bool
deriving DecidableEq, Repr

def Sys.reset : Sys := ⟨0, none, none, none, false, false, Survey.reset, (.missing, ⟨[0, 0, 0], [0, 0, 0], 0, 0, 0, 0, 0, []⟩), false⟩

/-- A synthesiser beyond its registers: a retune transferred while it settled or calibrated (acted on at LOCKED, Table
3-2) and the frequency it is settling to or calibrating at. -/
structure Syn where
  retune : Bool
  target : Nat
deriving DecidableEq, Repr

/-- RF paths beyond their registers: the VGA code decided for the next block (R69, R70), the window after an LNA step
change (R67), whether the code has not changed since the present block began (R72), and whether a covariance block has completed,
so that RFE_AGCSTAT.RMS is the rms of one (R122). -/
structure Path where
  nextCode : Nat
  lnaWindow : Bool
  steady : Bool
  rmsV : Bool
deriving DecidableEq, Repr

def Path.reset : Path := ⟨48, false, true, false⟩

/-- RF, synthesiser and antenna-feed state beyond the registers; `calStop` is the last stop of the injector: the SAMP count and
the TBU time of its cycle and the state it left (R98); `code` is the phase of the injector's code at the DAC (R102): a SAMP count and
the phase there in 1/25,000 of 2^-18 chip. -/
structure Rf where
  syn : List Syn
  path : List Path
  blank : List Bool
  calStop : Option (Nat × Nat × Nat)
  code : Nat × Nat
deriving DecidableEq, Repr

def Rf.reset : Rf :=
  ⟨[⟨false, 0⟩, ⟨false, 0⟩], List.replicate 16 Path.reset, List.replicate 8 false, none, (0, 0)⟩

/-- A sample on its way: I and Q and the invalid flag (R113). The unit is that of the stage: LSB of the ADC in the front end,
1/16 LSB behind a decimation filter. -/
structure Sample where
  v : Iq
  flag : Bool
deriving DecidableEq, Repr

/-- A flagged sample: its value is zero (R113, R146). -/
def Sample.none : Sample := ⟨⟨0, 0⟩, true⟩

/-- A notch filter between samples (R117, R118), in 2^-24 LSB: the last input and output, the part it last took away; what its
tracking loop has gained below one FREQ unit, in 2^-32 of it; and the power taken away since the last report, in 2^-24 LSB^2. -/
structure NotchSig where
  x1 : Iq
  y1 : Iq
  u1 : Iq
  sub : Int
  removed : Nat
deriving DecidableEq, Repr

def NotchSig.zero : NotchSig := ⟨⟨0, 0⟩, ⟨0, 0⟩, ⟨0, 0⟩, 0, 0⟩

/-- A sample that waits in the blanker for the PRE samples it may still lose (R122): its ADC code, the correction output, the
notch output, whether the RF path marked it invalid, whether a trigger has reached it, and of each notch the parts that it took away
of this sample and of the one before (R118). -/
structure Held where
  raw : Iq
  corr : Iq
  out : Iq
  flag : Bool
  blank : Bool
  took : List (Iq × Iq)
deriving DecidableEq, Repr

/-- What a path gathers over a covariance block (R66, R70, R116, R127): valid and blanked samples, the sum of I^2 + Q^2 of the
valid ones, clipped ADC samples, and over the valid ones the sums of the ADC codes and of their products. -/
structure PathStats where
  valid : Nat
  blanked : Nat
  sumSq : Nat
  clipped : Nat
  sI : Int
  sQ : Int
  sII : Nat
  sQQ : Nat
  sIQ : Int
deriving DecidableEq, Repr

def PathStats.zero : PathStats := ⟨0, 0, 0, 0, 0, 0, 0, 0, 0⟩

/-- The spectral monitor of a path (R125, R126): the samples of the present block, newest first, how many of them are flagged
and how many blanked; the power of each bin summed over the blocks of the interval that count, in the order of the
transform; blocks that count and blocks ended; valid samples of the interval; and an interval that has ended, whose report
is to come, as its sums and its number of blocks that count. -/
structure Monit where
  buf : List Iq
  flagged : Nat
  blanked : Nat
  sum : List Nat
  used : Nat
  blocks : Nat
  valid : Nat
  report : Option (List Nat × Nat)
deriving DecidableEq, Repr

def Monit.reset : Monit := ⟨[], 0, 0, [], 0, 0, 0, none⟩

/-- A front-end path between samples: its notches, the samples in the blanker (newest first), samples still to blank after the
last trigger, the statistics of the present block, and the monitor. -/
structure PathSig where
  notch : List NotchSig
  line : List Held
  hold : Nat
  stats : PathStats
  mon : Monit
deriving DecidableEq, Repr

def PathSig.reset : PathSig := ⟨List.replicate 8 NotchSig.zero, [], 0, PathStats.zero, Monit.reset⟩

/-- An array processor between samples: the front-end outputs of its eight paths, newest first; over the present block the
samples valid on all eight elements, the sum of x' x'^H over them in units of (1/16 LSB)^2, and the saturated samples of B0
to B3; since the last solve the power of the eight elements together and of B0 in units of (1/16 LSB)^2 over the samples
valid on all of them (R156); and the elements and beams that have been formed and have not left, newest first (R141). -/
structure BandSig where
  hist : List (List Sample)
  valid : Nat
  cov : List (List Iq)
  sat : List Nat
  pElem : Nat
  pB0 : Nat
  out : List (List Sample)
deriving DecidableEq, Repr

def BandSig.reset : BandSig := ⟨[], 0, [], [0, 0, 0, 0], 0, 0, []⟩

/-- A mixer, decimator and scale (R128, R129, R160): the mixer's phase (2^-32 turn); the mixed samples in the filter, newest
first (2^-14 LSB); samples taken of the present output sample and whether one of them was flagged; input samples for which
the filter still spans a change of settings; output samples and the sum of their I^2 + Q^2 in the present block of 4,096
(1/16 LSB); and the rms of the last complete one. -/
structure Mixer where
  phase : Nat
  taps : List Iq
  count : Nat
  flag : Bool
  spans : Nat
  outs : Nat
  sumSq : Nat
  rms : Option Nat
deriving DecidableEq, Repr

def Mixer.reset : Mixer := ⟨0, [], 0, false, 0, 0, 0, none⟩

/-- The signal path between samples (R112 to R129, R141 to R147, R160, R161): a monitor block and a covariance block that have
ended by the device-wide SAMP counter (R125, R142) and whose rows are to come; the
samples that an ended covariance block still has on their way to the array processors' stages; ADC samples on their way to the front end's output and array outputs on their way to the fabric, newest first; the paths,
bands and streams; the common scale of each band's sensing-lane streams. -/
structure Sig where
  smDue : Bool
  covDue : Bool
  tail : Option Nat
  adc : List (List Sample)
  fab : List (List Sample)
  path : List PathSig
  band : List BandSig
  stream : List Mixer
  scale : List Mixer
deriving DecidableEq, Repr

def Sig.reset : Sig :=
  ⟨false, false, none, [], [], List.replicate 16 PathSig.reset, List.replicate 2 BandSig.reset, List.replicate 64 Mixer.reset,
   List.replicate 2 Mixer.reset⟩

/-- A notch filter beyond its registers (R118 to R121): the frequency it is centred on and the one in force (FREQ format),
whether an AUTO notch is assigned, the reports in a row at or below REL_TH, and an assignment (`some (some f)`) or
release (`some none`) that waits for the next covariance block boundary. -/
structure Notch where
  base : Nat
  freq : Nat
  assigned : Bool
  low : Nat
  change : Option (Option Nat)
deriving DecidableEq, Repr

/-- Coefficients of the DC and I/Q correction, in the units of DFE_DC and DFE_IQ (R115). -/
structure Coefs where
  dcI : Frac
  dcQ : Frac
  g : Frac
  p : Frac
deriving DecidableEq, Repr

def Coefs.zero : Coefs := ⟨Frac.zero, Frac.zero, Frac.zero, Frac.zero⟩

/-- A quantised capture sample: sign and magnitude of I and Q, and its flag (R129). -/
structure QSample where
  iNeg : Nat
  iMag : Nat
  qNeg : Nat
  qMag : Nat
  flag : Bool
deriving DecidableEq, Repr

/-- A group of samples that a capture buffer holds: samples, flagged ones, and RMS_c, time quality and PHASE_EPOCH at its first
sample, which the header of a wrapped ring shows (Table 5-3). -/
structure CapGroup where
  count : Nat
  flagged : Nat
  rms : Nat
  qual : Nat
  phase : Nat
deriving DecidableEq, Repr

/-- A capture channel beyond its registers (R128 to R133): mixer, decimator and RMS_c; input samples until sample 0; a spectrum
of its source completed since ARM; byte offset of the next write from CAPBASE, samples of a group not yet complete with
RMS_c, quality and PHASE_EPOCH at its first sample, the groups held (oldest first), bytes still to write in POST, the STATUS
of a completion in progress, and the time of sample 0 (2^-16 ns TAI). -/
structure CapChan where
  mix : Mixer
  skip : Nat
  spectrum : Bool
  ptr : Nat
  part : List QSample
  partInfo : Nat × Nat × Nat
  held : List CapGroup
  postLeft : Nat
  closing : Option Nat
  t0 : Option Nat
deriving DecidableEq, Repr

def CapChan.reset : CapChan := ⟨Mixer.reset, 0, false, 64, [], (0, 0, 0), [], 0, none, none⟩

/-- A DFE page beyond its registers: the eight notches, the adaptive coefficients of this block and the next (R116), the
peaks of the previous report (R126), and its capture channel. -/
structure DfePath where
  notch : List Notch
  est : Coefs
  estNext : Coefs
  peaks : List Int
  cap : CapChan
deriving DecidableEq, Repr

def DfePath.reset : DfePath :=
  ⟨List.replicate 8 ⟨0, 0, false, 0, none⟩, Coefs.zero, Coefs.zero, [], CapChan.reset⟩

/-- A B0 solve that is due (R151) or whose reports are still to come (R154): ARR_B0CFG and ARR_B0Ce as in force at the block
end, R_avg, whether a valid block has entered it since the last solve; ARR_CTL, the elements' positions (ARR_POSXYe, then
ARR_POSZe) and the LO frequency in SYN_FREQ units at that instant; and the power of the eight elements together and of B0
over the update interval (R156). -/
structure SolveJob where
  cfg : Word
  c : List Word
  ravg : Option (List (List Cx))
  fresh : Bool
  ctl : Word
  pos : List Word
  lo : Nat
  pElem : Nat
  pB0 : Nat
deriving DecidableEq, Repr

/-- An array processor beyond its registers: R_avg (`none` after its reset), blocks since the last solve, a valid block
since the last solve, a solve forced at the next block end (R152), the solve that is due, and the solve whose reports are
still to come (R154). -/
structure Arr where
  ravg : Option (List (List Cx))
  blocks : Nat
  fresh : Bool
  forced : Bool
  due : Option SolveJob
  reportDue : Option SolveJob
deriving DecidableEq, Repr

def Arr.reset : Arr := ⟨none, 0, false, false, none, none⟩

/-- A channel-seeding event (R180): virtual channel, code phase in 2^-8 chip, Doppler in 1/16 Hz, RATIO_PK and T0 in
2^-16 ns TAI. -/
structure Seed where
  vc : Nat
  code : Nat
  doppler : Int
  ratio : Nat
  t0 : Nat
deriving DecidableEq, Repr

/-- A peak of one PRN index as its entry reports it (R179, R180): RATIO_PK and RATIO_2ND, CODE, DOPPLER, EDGE. -/
structure AcqPeak where
  ratioPk : Nat
  ratio2nd : Nat
  code : Nat
  doppler : Int
  edge : Bool
deriving DecidableEq, Repr

/-- A job taken by the acquisition engine (R167, R178): descriptor address and words, the pipes it works on, SEED_EN as it took
the job, its status, whether its work is finished, the byte range of its snapshot, the snapshot's header, T0 (2^-16 ns), quality
and PHASE_EPOCH of the snapshot, the peaks found, one for each index searched, and the cells evaluated. -/
structure AcqJob where
  addr : Nat
  desc : List Word
  pipes : List Nat
  seedEn : Bool
  status : Nat
  done : Bool
  snap : Nat × Nat
  header : List Byte
  t0 : Nat
  qual : Nat
  phase : Nat
  peaks : List AcqPeak
  cells : Nat
deriving DecidableEq, Repr

/-- The acquisition engine beyond its registers: posted jobs (descriptor addresses), jobs in flight, both oldest first,
the count of cells, and seeding events that Carillon has not yet received. -/
structure Acq where
  queue : List Nat
  jobs : List AcqJob
  cells : Nat
  seeds : List Seed
deriving DecidableEq, Repr

def Acq.reset : Acq := ⟨[], [], 0, []⟩

/-- A loaded slot (R186 to R191): its image, whose phases hold at the first of the stream samples taken since, and their
number; whether it accumulates, is stopped for want of budget (R185), or holds its image at the boundary for the write-back
(R226); the sums of the present dump interval (VE, E, P, L, VL, DP, NZ, each I and Q), samples accumulated, flagged samples; the
flags its next dump record carries; rates delivered and not yet in force (R191), and the rates from before an update that took
effect where the image's phases hold, until the next sample (R210). -/
structure Slot where
  img : List Word
  taken : Nat
  live : Bool
  overrun : Bool
  held : Bool
  acc : List Int
  nsamp : Nat
  nflag : Nat
  sat : Bool
  updated : Bool
  loaded : Bool
  xbar : Bool
  codeErr : Bool
  pendCarr : Option Nat
  pendCode : Option Nat
  before : Option (Nat × Nat)
deriving DecidableEq, Repr

/-- A sensing lane that serves a slot (R202 to R204): the eight element prompts, I and Q, of its interval, samples and flagged
samples, a saturation; SAMP cycles since the slot's last stream sample, and the carrier turned by the stream's OFFSET since the
interval began, in 2^-35 cycle. -/
structure Lane where
  acc : List Int
  nsamp : Nat
  nflag : Nat
  sat : Bool
  sub : Nat
  turn : Int
deriving DecidableEq, Repr

def Lane.start : Lane := ⟨List.replicate 16 0, 0, 0, false, 0, 0⟩

/-- A latch that has been captured and whose table is still to be written (R208, R209): the epoch number, the SAMP count of the
latch cycle, and the record of each slot position that holds a channel. -/
structure LatchCap where
  epoch : Nat
  samp : Nat
  records : List (Nat × List Byte)
deriving DecidableEq, Repr

/-- A record on its way to the dump queue (R205, R206): slot position, channel, TYPE, SAMP count of its boundary, bytes. -/
structure OutRec where
  slot : Nat
  vc : Nat
  type : Nat
  boundary : Nat
  bytes : List Byte
deriving DecidableEq, Repr

/-- The correlator fabric beyond its registers: the loaded slots by `8 * unit + slot`, the lanes that serve a slot by unit,
records pushed and not yet in the dump queue, the first to go first, and captured latches. -/
structure Cor where
  slots : List (Nat × Option Slot)
  lanes : List (Nat × Option Lane)
  out : List OutRec
  latches : List LatchCap
deriving DecidableEq, Repr

def Cor.reset : Cor := ⟨[], [], [], []⟩

/-- What becomes of a LIVE channel at its next dump boundary (R218, R222, R239): it leaves to a state of Table 9-2, with the
cause of its eviction entry, or it moves to the place planned for it. -/
inductive ChsOut where
  | leave (st : Nat) (cause : Option Nat)
  | move
deriving DecidableEq, Repr

/-- A virtual channel as Carillon keeps it (R216 to R240): STATE, and WANT, CLASS and PRIO of its control block; a WANT
change that the next planning pass takes; cost and stream of its image when it was placed (slots, STREAM); its place
(LOC) and the place that holds its image; a page-out mark; stopped at its boundary with the write-back to come; a
REIMAGE patch; rates that arrived between boundary and write-back; dumps and SAMP count since the last page-in; what its
next task tells (DROPPED, ABANDONED). -/
structure ChsVc where
  st : Nat
  want : Nat
  inForce : Nat
  cls : Nat
  prio : Nat
  pend : Bool
  len : Nat
  stream : Nat
  loc : Option Nat
  phys : Option Nat
  out : Option ChsOut
  held : Bool
  patch : Option (List Word)
  lateCarr : Option Nat
  lateCode : Option Nat
  dumps : Nat
  inAt : Nat
  dropped : Bool
  abandoned : Bool
deriving DecidableEq, Repr

def ChsVc.reset : ChsVc :=
  ⟨0, 0, 0, 0, 0, false, 1, 0, none, none, none, false, none, none, none, 0, 0, false, false⟩

/-- A task, or the records of a dump boundary that are to form one (R229, R230): TYPE 0 dump or 1 measurement, channel
(dump) or first slot position (measurement), class, SAMP count of the boundary or latch, deadline, and the records: for
a measurement task latch records of the channels that `vcs` lists. -/
structure ChsTask where
  meas : Bool
  vc : Nat
  cls : Nat
  boundary : Nat
  deadline : Nat
  recs : List (List Byte)
  vcs : List Nat
  epoch : Nat
  formed : Bool
deriving DecidableEq, Repr

/-- A task buffer in use (R231): the task, its sequence number, and whether its transfer has completed. -/
structure ChsBuf where
  task : ChsTask
  seq : Nat
  delivered : Bool
deriving DecidableEq, Repr

/-- Carillon beyond its registers: channels, queued tasks oldest first, the task sequence, task buffers by
`2 * core + buffer`, the transfers under way (oldest first), a page operation in progress, an announcement or stream-rate
change that the next planning pass takes (eviction cause), an announcement taken, and the eviction FIFO. -/
structure Chs where
  vcs : List (Nat × ChsVc)
  queue : List ChsTask
  seq : Nat
  bufs : List (Nat × Option ChsBuf)
  transit : List Nat
  busy : Bool
  replan : Option Nat
  oppTaken : Bool
  evict : List Nat
deriving DecidableEq, Repr

def Chs.reset : Chs := ⟨[], [], 0, [], [], false, none, false, []⟩

/-- A slew or step that changed TBU time (R282): TBU time before and after the advance that it was part of, and its own amount, in
2^-56 / 125 ns. -/
structure EpShift where
  before : Nat
  after_ : Nat
  amount : Int
deriving DecidableEq, Repr

/-- An epoch latch that related TBU time to the SAMP counter (R282): its TBU time in 2^-16 ns and SAMP count; the slew and steps
applied since, up to the next latch, and the RATE over that time, `none` for the last latch. -/
structure EpPoint where
  time : Nat
  samp : Nat
  shifts : List EpShift
  rate : Option Int
deriving DecidableEq, Repr

/-- The time base beyond its registers: TBU time in units of 2^-56 / 125 ns (R270; a whole number of 2^-56 ns as R271 keeps it, in
a unit that also holds a picosecond and 2^-16 ns exactly), the SAMP count (R282), the remaining slew in the same unit (R277), a forward step not yet judged
by the triggers (time before, time after; R287), the TBU time of the last SOLQ transfer (R279) and of the last growth of
TBU_UNC (R278), what TBU_UNC has grown beyond its whole ns (10^-9 of that unit; below 0 after the rounding up), the sleep snapshot T_e,
C_e, RATE (R283), and the latest 300 epoch latches, the last one first. -/
structure Tbu where
  time : Nat
  samp : Nat
  slew : Int
  stepSpan : Option (Nat × Nat)
  lastSolq : Nat
  uncAt : Nat
  uncPart : Int
  snapT : Nat
  snapC : Nat
  snapRate : Nat
  eps : List EpPoint
deriving DecidableEq, Repr

def Tbu.reset : Tbu := ⟨0, 0, 0, none, 0, 0, 0, 0, 0, 0, []⟩

/-- A Drumline trigger beyond its registers: its next instant and the latest one fired, in ns of TBU time (R287). -/
structure Trigger where
  next : Option Nat
  latest : Option Nat
deriving DecidableEq, Repr

/-- Settings of a PPS output that an edge takes: EN, POL, QMIN, and WIDTH in steps of 25 ps (R290). -/
structure PpsCfg where
  en : Bool
  pol : Bool
  qmin : Nat
  width : Nat
deriving DecidableEq, Repr

/-- A start or toggle of an output still to come: the second or trigger instant it belongs to (ns), when it acts, in steps
of 25 ps of TBU time, whether a toggle takes the active level, and the settings of a PPS edge (R290, R292). -/
structure OutStart where
  of_ : Nat
  at_ : Int
  force : Bool
  cfg : Option PpsCfg
deriving DecidableEq, Repr

/-- A PPS or TOUT output: at its active level, the starts or toggles still to come, the end of the pulse in steps of
25 ps of TBU time, and the POL of a PPS output where it is not that of its register (R290, R292). -/
structure OutPin where
  active : Bool
  starts : List OutStart
  endAt : Option Int
  pol : Option Bool
deriving DecidableEq, Repr

def OutPin.reset : OutPin := ⟨false, [], none, none⟩

/-- One captured edge (R293): TBU time in 2^-16 ns, edge and quality. -/
structure EvEdge where
  time : Nat
  rise : Bool
  qual : Nat
deriving DecidableEq, Repr

/-- Time outputs and event inputs: PPS0, PPS1, TOUT0 to TOUT7, the last whole second acted on (R545), the four event
FIFOs, and the time of the last captured edge of each input. -/
structure Tio where
  pps : List OutPin
  tout : List OutPin
  second : Option Nat
  ev : List (List EvEdge)
  evLast : List (Option Nat)
deriving DecidableEq, Repr

def Tio.reset : Tio :=
  ⟨List.replicate 2 OutPin.reset, List.replicate 8 OutPin.reset, none, List.replicate 4 [], List.replicate 4 none⟩

/-- A message that the engine or firmware sends. -/
inductive MsgKind where
  | sync | followUp | announce | delayReq | delayResp | pdelayResp | frame
deriving DecidableEq, Repr

/-- A message waiting in a port queue (R313): its kind, its session, its sequenceId, its instant in 25 ps of TBU time (due
instant of a Sync, egress of the Sync for a Follow_Up, ingress of the request for a response), and for a response the
requester's sequenceId, portIdentity, correctionField, MAC and IP address and mapping; for a firmware frame its octets and
descriptor. -/
structure PtpJob where
  kind : MsgKind
  session : Nat
  seq : Nat
  at25 : Nat
  identity : List Byte
  corr : Int
  dest : List Byte
  destIp : List Byte
  map : Nat
  domain : Nat
  octets : List Byte
  desc : Word
deriving DecidableEq, Repr

/-- A message as it left its port: the fields that chapter 12 gives it. Times are SEC and NS; `comp` is the value of the
trailing octets of a one-step Sync over IPv6, `udpZero` a UDP checksum written 0 (Table 12-8); `auth` is SPP, keyID and
ICV of an AUTHENTICATION TLV (R320); `ann` the Announce fields in the order of R316; `octets` the frame without FCS, and `fcs`
its FCS, computed over the octets as they left (R317). -/
structure TxMsg where
  kind : MsgKind
  session : Nat
  egress : Nat
  srcMac : List Byte
  dest : List Byte
  destIp : List Byte
  map : Nat
  domain : Nat
  vlan : Option (Nat × Nat)
  dscp : Nat
  identity : List Byte
  seq : Nat
  twoStep : Bool
  corr : Int
  sec : Nat
  ns : Nat
  requester : List Byte
  logInterval : Int
  ann : List Nat
  comp : Option Nat
  udpZero : Bool
  auth : Option (Nat × Nat × List Byte)
  octets : List Byte
  fcs : Nat
deriving DecidableEq, Repr

/-- An entry of the receive FIFO (R321). -/
structure RxEntry where
  port : Nat
  kind : Nat
  unmatched : Bool
  expired : Bool
  authOk : Bool
  session : Nat
  len : Nat
  time : Nat
  qual : Nat
  seq : Nat
  data : List Byte
deriving DecidableEq, Repr

/-- A key slot of the engine (R319): key, keyID and SPP. -/
structure PtpKey where
  key : List Byte
  keyId : Nat
  spp : Nat
deriving DecidableEq, Repr

/-- Ethernet ports and the PTP engine beyond their registers: port queues, receive FIFO (oldest first) and the words read
of its oldest entry, octets pushed for a firmware frame, a frame that waits in the staging with its descriptor, key
slots, every session stopped by an ownership error (R310), the last message each port sent, the SAMP counts of each
port's recent FCS errors (R326), and of each session the message types with a grant that has not yet ended, as bits 0 (Sync),
1 (Announce) and 2 (Delay) (R328). -/
structure Ptp where
  queue : List (List PtpJob)
  rx : List RxEntry
  rxIdx : Nat
  stage : List Byte
  staged : Option (Word × List Byte)
  keys : List (Option PtpKey)
  ownErr : Bool
  sent : List (Option TxMsg)
  fcs : List (List Nat)
  grants : List (Nat × Nat)
deriving DecidableEq, Repr

def Ptp.reset : Ptp :=
  ⟨List.replicate 4 [], [], 0, [], none, List.replicate 16 none, false, List.replicate 4 none, List.replicate 4 [], []⟩

/-- The pair link beyond its registers (R330 to R346): the primary's last mirrored mode and quality; the peer holds PAIR_HB
low, and since when it counts as low (ns of TBU time); when this device last stopped pulling the line low itself
(R341); the last peer pulse and timing frame (ns); pulse and timing frame seen since the last heartbeat window; end of
this device's own heartbeat pulse (ns); a planned takeover asked for and not answered; the handover tick k_h as
`128 * SEC + tick` (R344); octets pushed for a mirror block and the last block sent; what the engine last sent of its session table; records written to the mirror ring;
a PTP_SESSCMD that waits for the secondary's acknowledgement (R338); the egress time of the last own timing frame (25 ps), the
ingress time of the peer's last one, and the two times that the last frame of a primary carried (R335); the TBU time of the last
takeover.
Until a block of type 5 has been mirrored the mirrored mode is SAFE and the mirrored quality INVALID, so the ceiling of
STANDBY (R34) is INVALID; `mirOrigin` is the last mirrored mode that was TIMING or NAVIGATE, TIMING before one (DESIGN
CHOICE, log entry 48). -/
structure Pair where
  mirMode : Nat
  mirOrigin : Nat
  mirQual : Nat
  peerLow : Bool
  lowSince : Option Nat
  released : Option Nat
  lastPulse : Option Nat
  lastFrame : Option Nat
  pulse : Bool
  frame : Bool
  pulseEnd : Option Nat
  asked : Bool
  handTick : Option Nat
  stage : List Byte
  sent : Option (Nat × List Byte)
  table : Option MirrorMsg
  ringWr : Nat
  waitAck : Bool
  t3 : Nat
  ingress : Nat
  frameOut : Option (Nat × Nat)
  tookAt : Option Nat
deriving DecidableEq, Repr

def Pair.reset : Pair :=
  ⟨0, 2, 0, false, none, none, none, none, false, false, none, false, none, [], none, none, 0, false, 0, 0, none, none⟩

/-- A far store of a core (R355): address, size in bytes, value; `handover` marks a handover write that waits for step 5
of R399. -/
structure StoreReq where
  addr : Nat
  size : Nat
  value : Nat
deriving DecidableEq, Repr

/-- A far load that stalls its core: address, size in bytes, sign extension. -/
structure LoadReq where
  addr : Nat
  size : Nat
  signExt : Bool
deriving DecidableEq, Repr

/-- One entry of the loop stack (R362). -/
structure LoopEntry where
  ls : Nat
  le : Nat
  lc : Nat
deriving DecidableEq, Repr

/-- A transfer whose delay slot has not executed (R387): where execution continues (`none`: it falls through), and what
is restored when the delay slot raises an exception: the transfer's address, both stacks with their pointers, and a word
of Y memory that the transfer's push spilled over. -/
structure DelaySlot where
  target : Option Nat
  at_ : Nat
  stack : List Word
  sp : Nat
  rstack : List Word
  rsp : Nat
  spilledY : Option (Nat × Word)
deriving DecidableEq, Repr

/-- CORE_STAT.STATE. -/
inductive CoreRun where
  | held | running | wait | halted
deriving DecidableEq, Repr

/-- A Swiale core (R349 to R375): program counter, operand stack (T0 first) and return stack (top first) as held in the
core, loop stack (top first), address, offset and length registers, accumulators, control registers (Table 14-4), the
REP in progress (count, repetitions done), a delay slot to come, a stalled far load, the write buffer (not yet issued,
oldest first), the stores under way, what was under way when the core was last held and has still to be answered (R523:
cancelled loads, issued stores, handover writes), store errors not yet taken (addresses), the watchdog, the three memories, the
words of them with errors, and a corrected error that the page has still to record. The watchdog is its warning, the AON count
from which it counts, and a kick that has still to restart it (R372); `rom`: the core runs its ROM, not its I memory (NYC, R446,
R472). -/
structure Core where
  run : CoreRun
  pc : Nat
  lastPc : Nat
  stack : List Word
  rstack : List Word
  loops : List LoopEntry
  a : List Nat
  m : List Nat
  l : List Nat
  acc : List Int
  ie : Bool
  nmiAct : Bool
  excAct : Bool
  sat : Bool
  ovf : Bool
  sp : Nat
  spLo : Nat
  spHi : Nat
  rsp : Nat
  rspLo : Nat
  rspHi : Nat
  vbar : Nat
  epc : Nat
  ecause : Nat
  eaddr : Nat
  imask : Nat
  events : Nat
  replim : Nat
  cycle : Nat
  retired : Nat
  wbdrop : Nat
  rep : Option (Nat × Nat)
  slot : Option DelaySlot
  windowEnded : Bool
  load : Option LoadReq
  wbuf : List StoreReq
  flight : List StoreReq
  hand : Nat
  lost : List LoadReq
  old : List StoreReq
  oldHand : Nat
  stErr : List Nat
  wdtWarned : Bool
  wdtAt : Nat
  wdtKick : Bool
  rom : Bool
  imem : List (Nat × Word)
  xmem : List (Nat × Word)
  ymem : List (Nat × Word)
  eccUnc : List Nat
  eccCorr : List Nat
  corrSeen : Bool
deriving DecidableEq, Repr

/-- A core held in reset, with the control-register reset values of Table 14-4. -/
def Core.reset : Core where
  run := .held
  pc := 0
  lastPc := 0
  stack := []
  rstack := []
  loops := []
  a := List.replicate 8 0
  m := List.replicate 8 0
  l := List.replicate 8 0
  acc := [0, 0]
  ie := false
  nmiAct := false
  excAct := false
  sat := false
  ovf := false
  sp := 0xEF00
  spLo := 0xE000
  spHi := 0xEF00
  rsp := 0xFF00
  rspLo := 0xF000
  rspHi := 0xFF00
  vbar := 0
  epc := 0
  ecause := 0
  eaddr := 0
  imask := 0
  events := 0
  replim := 4096
  cycle := 0
  retired := 0
  wbdrop := 0
  rep := none
  slot := none
  windowEnded := false
  load := none
  wbuf := []
  flight := []
  hand := 0
  lost := []
  old := []
  oldHand := 0
  stErr := []
  wdtWarned := false
  wdtAt := 0
  wdtKick := false
  rom := false
  imem := []
  xmem := []
  ymem := []
  eccUnc := []
  eccCorr := []
  corrSeen := false

/-- One access to shared SRAM: initiator, direction, byte address, size in bytes and, for a write, the value
(little-endian). -/
structure Access where
  init : Nat
  write : Bool
  addr : Nat
  size : Nat
  value : Nat
deriving DecidableEq, Repr

/-- Where a held write of the host came from, for the error that it may meet (R494, R499). -/
inductive HostPost where
  | none | pcie | spi
deriving DecidableEq, Repr

/-- An access held under step 2 of R399; `dport` tells port D from port P, `post` a write of the host that has no response. -/
structure HeldAccess where
  bank : Nat
  dport : Bool
  acc : Access
  post : HostPost
deriving DecidableEq, Repr

/-- A handover accepted under R398 and not yet complete: the bank, its new owner and flags, the writer, and whether
step 2 of R399 has begun (`started`) or the writer's stores are still awaited. -/
structure Handover where
  bank : Nat
  owner : Nat
  delegate : Bool
  rdonly : Bool
  rot : Bool
  writer : Nat
  started : Bool
deriving DecidableEq, Repr

/-- Shared SRAM beyond the MEM registers: contents (R395), words with a correctable or an uncorrectable error (R402),
handovers in progress and held accesses (R399), and the last read data of each port. -/
structure Mem where
  sram : List Host.Cell
  eccCorr : List Nat
  eccUnc : List Nat
  hand : List Handover
  heldAcc : List HeldAccess
  respD : Resp
  rdataP : Nat
  rdataD : Nat
  scrubWord : Nat
deriving DecidableEq, Repr

def Mem.reset : Mem := ⟨[], [], [], [], [], .none, 0, 0, 0⟩

/-- What a DMA channel is doing with its descriptor, as the spec's halt and completion rules need it (R413 to R417). -/
inductive DmaStage where
  | fetch | data | readBack | status | own
deriving DecidableEq, Repr

/-- A DMA channel beyond its registers (R406 to R417): the descriptor as fetched (words 0 to 15), the indices of the next
element, elements left of the burst, the state paused from, the stage of a halt or of a completion, retries made on the
present access and for the descriptor, bytes of the present element read and the number already written, an element
skipped, the status so far, a retry that waits for its backoff, a fetch that waits for a trigger (POLL), and the last
address written. -/
structure DmaChan where
  desc : List Word
  x : Nat
  y : Nat
  z : Nat
  p : Nat
  left : Nat
  from_ : Nat
  stage : DmaStage
  tries : Nat
  used : Nat
  got : List Byte
  put : Nat
  skipped : Bool
  err : Nat
  backoff : Bool
  pollWait : Bool
  lastAddr : Option Nat
deriving DecidableEq, Repr

def DmaChan.reset : DmaChan := ⟨[], 0, 0, 0, 0, 0, 0, .data, 0, 0, [], 0, false, 0, false, false, none⟩

/-- What a CO_COMMAND asks for (R432, R433, R440). Hashes and key IDs are bytes; a key comes encrypted, with the owner's
ephemeral public key. -/
inductive CoCmd where
  | takeOwnership (keyHash : List Byte) (ownerReq : Bool)
  | rotateOwner (keyHash : List Byte)
  | rma (token : Bool)
  | scrap (token : Bool)
  | debugGrant
  | userKey (idx : Nat) (eph wrapped : List Byte)
  | ptpKey (slot : Nat) (eph wrapped : List Byte) (keyId spp : Nat)
  | zeroise
  | pairBind (version : Nat) (own peer clock : List Byte)
  | serviceGrant
  | osnmaRoot (root : List Byte)
  | setPolicy (ownerReq : Bool)
deriving DecidableEq, Repr

/-- A service of Table 17-2 with the inputs whose place in DATA the spec does not state. A CO_COMMAND carries its command in the
buffer; `some c` says which one the sender means it to be. -/
inductive NymOp where
  | getInfo | selfTest | coNonce
  | authUser (idx : Nat)
  | authEnd | getCartouche | hash | hmac | cmac
  | gcm (decrypt : Bool) (slot : Nat) (iv tag : List Byte)
  | verify
  | random (n : Nat)
  | quote
  | loadImage (install : Bool)
  | advanceSvn (cls : Nat)
  | osnmaKroot
  | co (c : Option CoCmd)
  | zeroiseSession
  | unknown
deriving DecidableEq, Repr

/-- A service request (R424): channel, service, buffer, the RESULT that its checks found at the write, and TBU time (2^-16
ns), QUAL and TBU_UNC at the start of a quote. -/
structure NymReq where
  ch : Nat
  op : NymOp
  buf : Nat
  len : Nat
  fail : Option Nat
  cap : Option (Nat × Nat × Nat)
deriving DecidableEq, Repr

/-- A pair-binding record (R441): version, the two device key IDs (this device's first) and the pair clock identity. -/
structure PairRec where
  version : Nat
  own : List Byte
  peer : List Byte
  clock : List Byte
deriving DecidableEq, Repr

/-- The keys of the key store (Table 17-3). -/
structure KeyStore where
  user : List (Option (List Byte))
  ptp : List (Option PtpKey)
  transport : List (List Byte)
deriving DecidableEq, Repr

def KeyStore.empty : KeyStore := ⟨List.replicate 4 none, List.replicate 16 none, []⟩

/-- Nymvis beyond the NYM registers (R421 to R447): NYC started and its self-tests not yet finished, requests (the first
is being served), User authentication of each channel, the nonce in force with the private half of the ephemeral key
issued beside it and the Cartouche key's signature of its public half (R440),
the raw AON count at the nonce's issue and at the last request of each channel, OTP policy, owner slots and their
revocation, PUF data and Cartouche key not destroyed, the key store as flash holds it wrapped and as Nymvis RAM holds it
unwrapped (R430), RAM-held CSPs present, the stored pair-binding record, OSNMA root and key, digest and SVN of the running class images, classes whose cores were written since
(R438), the quote counter, the signal that the monitors set while IRO fails (R470), and the raw AON count at the
last watchdog expiry (R446). -/
structure Nym where
  starting : Bool
  queue : List NymReq
  auth : List Bool
  nonce : Option (List Word)
  nonceAt : Nat
  eph : Option (Nat × List Byte)
  reqAt : List Nat
  ownerReq : Bool
  jtagFuse : Bool
  owner : List (Option (List Byte))
  revoked : List Bool
  puf : Bool
  certKey : Bool
  store : KeyStore
  userKeys : List (Option (List Byte))
  ptpKeys : List (Option PtpKey)
  transport : List (List Byte)
  rootKey : Bool
  drbg : Bool
  pairRec : Option PairRec
  osnmaRoot : Option (List Byte)
  osnmaKey : Option (List Byte)
  digests : List (List Byte)
  svns : List Nat
  unmeasured : List Nat
  quotes : Nat
  iroSignal : Bool
  expiryAt : Option Nat
deriving DecidableEq, Repr

def Nym.reset : Nym :=
  ⟨true, [], [false, false], none, 0, none, [0, 0], false, false, List.replicate 4 none, List.replicate 4 false, true, true,
   KeyStore.empty, List.replicate 4 none, List.replicate 16 none, [], false, false, none, none, none,
   List.replicate 4 [], List.replicate 4 0, [], 0, false, none⟩

/-- The power state reached: RUN covers IDLE, which PMU_STAT.STATE shows (R451, Table 18-2). -/
inductive Power where
  | run | sleep | deep | off
deriving DecidableEq, Repr

/-- Step of an operating-point change (R460). -/
inductive OppStep where
  | idle
  | waitClear
  | divDown
  | waitAckDown
  | waitAckUp
  | settle
  | divUp
deriving DecidableEq, Repr

/-- The PMBus commands that the device uses (R450): OPERATION, VOUT_COMMAND with its data word, and the reads of READ_VOUT,
STATUS_WORD and VOUT_MODE. -/
inductive PmbCmd where
  | operation (on : Bool)
  | voutCommand (word : Nat)
  | readVout
  | statusWord
  | voutMode
deriving DecidableEq, Repr

/-- A PMBus transaction that the device has sent: regulator address, command, and whether it carries a PEC (R450). -/
structure PmbTx where
  addr : Nat
  cmd : PmbCmd
  pec : Bool
deriving DecidableEq, Repr

/-- The PMU beyond its registers (R449 to R460). Power state reached; the device held in reset, by power-on reset or by
RESET_N; pages powered down, isolation engaged; domains stopped for IDLE; a TBU snapshot taken by this entry; a wake
event at or after isolation and the wake comparator; the retention list; voltages in mV that the regulators are commanded to
and that they last acknowledged (`none` is off or none), whether an acknowledgement is awaited, a PMBus transaction in progress on
each, the transactions last sent and the VOUT_MODE read from each; the operating-point change with its target and the pending one;
VDD_ENG not acknowledged at a wake, which keeps CORR and ACQ off ROOT; the level of PMB_ALERT_N. -/
structure Pmu where
  power : Power
  deviceReset : Bool
  porHeld : Bool
  resetLow : Bool
  poweredDown : Bool
  isolated : Bool
  idleDomains : List Nat
  snapshot : Bool
  wakeAfterIso : Option Nat
  wakeCmp : Option Nat
  retMem : List (Nat × Word)
  engCmd : Option Nat
  engAck : Option Nat
  procCmd : Option Nat
  procAck : Option Nat
  engAwait : Bool
  procAwait : Bool
  engBusy : Bool
  procBusy : Bool
  pmbSent : List PmbTx
  engMode : Option Nat
  procMode : Option Nat
  opp : OppStep
  oppNext : Nat
  oppPend : Option Nat
  engHold : Bool
  alertN : Bool
deriving DecidableEq, Repr

def Pmu.reset : Pmu :=
  ⟨.run, false, false, false, false, false, [], false, none, none, [], some 700, none,
   some 750, none, false, false, false, false, [], none, none, .idle, 1, none, false, true⟩

/-- The clock tree beyond the CLK registers: whether the PLL runs, a reference being taken, the domains that SAFE_WAIT
stopped, the domains a switch holds and its new source (1 = IRO), the dividers in force and a pending divider write
(R461 to R465). -/
structure Clk where
  pllOn : Bool
  everLocked : Bool
  stopped : List Nat
  switching : List (Nat × Nat)
  divCorr : Nat
  divAcq : Nat
  divNext : Option (Nat × Nat)
  refWait : Option Nat
deriving DecidableEq, Repr

def Clk.reset : Clk := ⟨false, false, [], [], 1, 1, none, none⟩

/-- One monitor of CMON: tripped, consecutive in-window measurements since, and a fallback that waits for IRO (R469). -/
structure Monitor where
  tripped : Bool
  inCount : Nat
  safeWait : Bool
  fallback : Bool
deriving DecidableEq, Repr

/-- The clock monitor beyond its registers (R467 to R471) and the stability counts of R463. -/
structure Cmon where
  mon : List Monitor
  xoCount : Nat
  refCount : Nat
  iroFailed : Bool
deriving DecidableEq, Repr

def Cmon.reset : Cmon := ⟨List.replicate 6 ⟨false, 0, false, false⟩, 0, 0, false⟩

/-- The AON domain beyond the RTC and AON registers (R478 to R487): the raw count, SEC and SUB, the calendar (SEC, MIN,
HOUR, DAY, MONTH, YEAR), the trim in force in this window, a commit of RTC, one of AON and a SET_TBU that wait for the next AON
edge, a fired alarm that stays spent, the supply, a brown-out since VMAIN was last valid, a first-switch capture that waits
for the next edge, whether the first power-up of AON lies behind, and the level that the output stage of OCXO_CV holds
while the device is in reset (R296, R529; `none`: high-impedance). -/
structure Aon where
  raw : Nat
  sec : Nat
  sub : Nat
  cal : List Nat
  trim : Int
  commit : Bool
  commitAon : Bool
  setTbu : Bool
  spent : Bool
  onVbat : Bool
  brown : Bool
  swPend : Bool
  powered : Bool
  cv : Option Nat
deriving DecidableEq, Repr

def Aon.reset : Aon := ⟨0, 0, 0, [0, 0, 0, 1, 1, 0], 0, false, false, false, false, false, false, false, false, none⟩

/-- A mailbox command that MC has taken and not yet answered (R508, R509): OP, FLAGS.HOSTMEM, TAG and payload, and how far
its work has come. -/
structure MbxCmd where
  op : Nat
  hostmem : Bool
  tag : Nat
  payload : List Byte
  step : Nat
deriving DecidableEq, Repr

/-- What MC firmware keeps of the mailbox commands: survey duration (s) and limit (0.1 mm), fixed position (ECEF, 0.1 mm),
geometry of each band (element positions, azimuth, tilt), the Graticule image in use,
for each band the temperature (0.0625 degC) of the set last applied and whether that set was extrapolated (R109, R110), the DELAY
values (ps) of each band's set that the solution cores have (R110),
the NMEA sentence mask, rate code and epoch divider, and the epoch of the last set sent (R107, R265, R266, R502, Table 20-4). -/
structure Fw where
  survey : Option (Nat × Nat)
  position : Option (Int × Int × Int)
  geometry : List (Option (List Int × Int × Int))
  graticule : Option (List Byte)
  gratSet : List (Option (Int × Bool))
  delays : List (List Int)
  nmea : Option (Nat × Nat × Nat)
  nmeaAt : Option Nat
deriving DecidableEq, Repr

def Fw.reset : Fw := ⟨none, none, [none, none], none, [none, none], [[], []], none, none⟩

/-- A read of the host that meets a bank in handover and waits for step 4 of R399: from the SPI target or from PCI Express, its
address and words; of an SPI frame also whether all its words leave, and the fill bytes before each marker. -/
structure HostRead where
  spi : Bool
  addr : Nat
  count : Nat
  whole : Bool
  fill : List Nat
deriving DecidableEq, Repr

/-- The host interfaces beyond their registers (R493 to R511): receive and transmit FIFOs of the two UARTs; the QSPI FIFO,
its command in progress; the MDIO frame in progress; the levels that the outside gives the GPIO balls, the levels counted at
them, and output enables and levels held by pad retention; MSI-X enable and function mask, the PBA, vectors that have sent
and wait for PCIE_EOI or their source's end, messages sent by each vector; Max_Payload_Size, Max_Read_Request_Size and the AER
uncorrectable status; a copy of the fetch engine in progress (direction, local address, length, host address), the reads it
issued and the posted writes it sent to the host; status of the last SPI frame, and the bytes that left on SPIT_MISO in it;
words the last read of the host returned (`none` for an error), and reads that wait, or waited when their page was reset (R523);
a CMDPI write that waits; a mailbox command in work; what firmware keeps, and the sentences it has yet to write to UART1. -/
structure HostIf where
  uartRx : List (List Byte)
  uartTx : List (List Byte)
  qspi : List Byte
  qspiCmd : Option Word
  mdio : Option Word
  ext : Nat
  balls : Nat
  padHeld : Option (Nat × Nat)
  msixEn : Bool
  msixMask : Bool
  pba : Nat
  vecWait : Nat
  vecSent : List Nat
  mps : Nat
  mrrs : Nat
  aer : Nat
  fetch : Option (Nat × Nat × Nat × Nat)
  fetchReq : List (Nat × Nat)
  fetchOut : List (Nat × List Byte)
  spiErr : Bool
  spiCrc : Bool
  miso : List Byte
  words : List (Option Word)
  waiting : List HostRead
  lost : List HostRead
  cmdpi : Option Nat
  taken : Option MbxCmd
  flash : Option (List Byte)
  fw : Fw
  nmeaOut : List Byte
deriving DecidableEq, Repr

def HostIf.reset : HostIf where
  uartRx := [[], []]
  uartTx := [[], []]
  qspi := []
  qspiCmd := none
  mdio := none
  ext := 0
  balls := 0
  padHeld := none
  msixEn := false
  msixMask := false
  pba := 0
  vecWait := 0
  vecSent := List.replicate 32 0
  mps := 128
  mrrs := 512
  aer := 0
  fetch := none
  fetchReq := []
  fetchOut := []
  spiErr := false
  spiCrc := false
  miso := []
  words := []
  waiting := []
  lost := []
  cmdpi := none
  taken := none
  flash := none
  fw := Fw.reset
  nmeaOut := []

/-- The ERR_STICKY transitions of one cycle as Tocsin takes them (R513): words 0 and 1 of their entries (Table 21-2), MODE
at the event, and the transitions in ascending page base, then bit. -/
structure TocBatch where
  w0 : Word
  w1 : Word
  mode : Nat
  evs : List StickyEvent
deriving DecidableEq, Repr

/-- Tocsin beyond its registers (R513 to R520): transitions that wait to be taken, the log FIFO of four-word entries, both
oldest first, the sequence number, the raw AON counts at which the handling window and the escalation timer end, a plane
reset in progress and its KEEP_TIME, and the level at which AON holds FAULT_N. -/
structure Toc where
  inbox : List TocBatch
  log : List (List Word)
  seq : Nat
  window : Option Nat
  escTimer : Option Nat
  planeReset : Bool
  keepTime : Bool
  faultHeld : Option Bool
deriving DecidableEq, Repr

def Toc.reset : Toc := ⟨[], [], 0, none, none, false, false, none⟩

/-- The whole state of the block (INVENTORY.md, heading State). Registers live in `rf`, each at its address, with the
spec's reset value where nothing is listed; what the spec gives a block beyond its registers lives in the block's own
record; `pending` is the queue of commands waiting, first in, first out. -/
structure State where
  /-- Commands waiting, first in, first out. -/
  pending : List Instr
  /-- Register values in force, sparse by address; an unlisted address reads its reset value. -/
  rf : List (Nat × Word)
  /-- Last value written to shadowed (S) bits, by address (R50, R51). -/
  shV : List (Nat × Word)
  /-- Which bits of a register have been written since the last transfer (COMMIT_PENDING). -/
  shM : List (Nat × Word)
  /-- How the last access ended for its initiator. -/
  resp : Resp
  /-- Data that the last read returned. -/
  rdata : Word
  /-- ERR_STICKY transitions that Tocsin has not yet taken, oldest first. -/
  tocPend : List StickyEvent
  /-- The model's own field: how many free values have been used (log entry 3). -/
  freeCount : Nat
  /-- Mode logic of SYS. -/
  sys : Sys
  /-- Shared SRAM. -/
  mem : Mem
  /-- DMA channels 0 to 31. -/
  dma : List DmaChan
  /-- Time base. -/
  tbu : Tbu
  /-- Drumline triggers 0 to 31. -/
  drl : List Trigger
  /-- Time outputs and event inputs. -/
  tio : Tio
  /-- Power management. -/
  pmu : Pmu
  /-- Clock tree. -/
  clk : Clk
  /-- Clock monitor. -/
  cmon : Cmon
  /-- RF paths, synthesisers and antenna feeds. -/
  rfs : Rf
  /-- Tocsin. -/
  toc : Toc
  /-- Cores LC0 to LC7, SC0, SC1, MC and NYC, by initiator ID less 1. -/
  cores : List Core
  /-- DFE pages 0 to 15. -/
  dfe : List DfePath
  /-- Array processors of Band U and Band L. -/
  arr : List Arr
  /-- Pair link. -/
  pair : Pair
  /-- Acquisition engine. -/
  acq : Acq
  /-- Correlator fabric. -/
  cor : Cor
  /-- Carillon. -/
  chs : Chs
  /-- Ethernet ports and PTP engine. -/
  ptp : Ptp
  /-- Nymvis. -/
  nym : Nym
  /-- The always-on domain. -/
  aon : Aon
  /-- Host interfaces and mailbox. -/
  host : HostIf
  /-- The signal path between samples. -/
  sig : Sig
deriving DecidableEq, Repr

/-- The machine right after reset: every register at its reset value, nothing listed in memory, the queue empty. -/
def State.reset : State where
  pending := []
  rf := []
  shV := []
  shM := []
  resp := .none
  rdata := 0
  tocPend := []
  freeCount := 0
  sys := Sys.reset
  mem := Mem.reset
  dma := List.replicate 32 DmaChan.reset
  tbu := Tbu.reset
  drl := List.replicate 32 ⟨none, none⟩
  tio := Tio.reset
  pmu := Pmu.reset
  clk := Clk.reset
  cmon := Cmon.reset
  rfs := Rf.reset
  toc := Toc.reset
  cores := List.replicate 12 Core.reset
  dfe := List.replicate 16 DfePath.reset
  arr := List.replicate 2 Arr.reset
  pair := Pair.reset
  acq := Acq.reset
  cor := Cor.reset
  chs := Chs.reset
  ptp := Ptp.reset
  nym := Nym.reset
  aon := Aon.reset
  host := HostIf.reset
  sig := Sig.reset

end Sys2Proof.Machine
end

