-- ==== Sys2Proof/Machine/Bits.lean ====
section
/-! DEFINITION. Bit-field, two's complement and byte-order helpers, and the saturating and wrapping counters the
register tables speak of. Bit 0 is the least significant bit (R6). -/

namespace Sys2Proof.Machine

/-- The field of `width` bits whose lowest bit is `lsb`, as a number. -/
def getBits (w : Word) (lsb width : Nat) : Nat := w.toNat / 2 ^ lsb % 2 ^ width

/-- `w` with that field replaced by `v` (taken modulo the field's range). -/
def putBits (w : Word) (lsb width v : Nat) : Word :=
  BitVec.ofNat 32 (w.toNat - getBits w lsb width * 2 ^ lsb + v % 2 ^ width * 2 ^ lsb)

/-- Mask of a field. -/
def maskBits (lsb width : Nat) : Word := BitVec.ofNat 32 ((2 ^ width - 1) * 2 ^ lsb)

/-- Two's complement reading of an unsigned field of `width` bits. -/
def signed (width v : Nat) : Int := if 2 * v < 2 ^ width then (v : Int) else (v : Int) - (2 ^ width : Nat)

/-- The two's complement field of `width` bits that holds `v` modulo its range. -/
def unsigned (width : Nat) (v : Int) : Nat := (v % (2 ^ width : Nat)).toNat

/-- A number clamped to a range. -/
def clampNat (lo hi v : Nat) : Nat := max lo (min hi v)

/-- An integer clamped to a range. -/
def clampInt (lo hi v : Int) : Int := max lo (min hi v)

/-- Add `k` to a counter of `width` bits that saturates. -/
def satAdd (width v k : Nat) : Nat := min (2 ^ width - 1) (v + k)

/-- The number whose 32-bit word is `w` with a field replaced. -/
def withBits (w lsb width v : Nat) : Nat := (putBits (BitVec.ofNat 32 w) lsb width v).toNat

/-- Test bit `i` of a number. -/
def bit (v i : Nat) : Bool := v / 2 ^ i % 2 = 1

/-- `v` with bit `i` set to `b`. -/
def setBit (v i : Nat) (b : Bool) : Nat :=
  v - (v / 2 ^ i % 2) * 2 ^ i + (if b then 2 ^ i else 0)

/-- A Boolean as a one-bit field. -/
def b2n (b : Bool) : Nat := if b then 1 else 0

/-- Byte `k` of a word, little-endian. -/
def byteOf (w : Word) (k : Nat) : Byte := BitVec.ofNat 8 (w.toNat / 2 ^ (8 * k))

/-- `n` steps of the CRC-32 register of IEEE 802.3, least significant bit first. -/
def crc32Steps : Nat → Nat → Nat
  | 0, c => c
  | n + 1, c => crc32Steps n (if c % 2 = 1 then (c / 2).xor 0xEDB88320 else c / 2)

/-- The CRC-32 register after words of `w` bits, given as numbers, least significant bit first. -/
def crc32Run (w : Nat) : List Nat → Nat → Nat
  | [], c => c
  | x :: xs, c => crc32Run w xs (crc32Steps w (c.xor x))

/-- CRC-32 of IEEE 802.3 over items of `w` bits. -/
def crc32Of (w : Nat) (l : List Nat) : Nat := (crc32Run w l 0xFFFFFFFF).xor 0xFFFFFFFF

/-- CRC-32 of IEEE 802.3 of a list of bytes. -/
def crc32 (l : List Byte) : Nat := crc32Of 8 (l.map BitVec.toNat)

/-- Little-endian value of a list of bytes. -/
def leValue : List Byte → Nat
  | [] => 0
  | b :: bs => b.toNat + 256 * leValue bs

/-- The `n` little-endian bytes of a value. -/
def leBytes : Nat → Nat → List Byte
  | 0, _ => []
  | n + 1, v => BitVec.ofNat 8 v :: leBytes n (v / 256)

/-- Little-endian words of a list of bytes; a last part of a word is filled with zeros. -/
def toWords : List Byte → List Word
  | [] => []
  | a :: b :: c :: d :: r => BitVec.ofNat 32 (leValue [a, b, c, d]) :: toWords r
  | l => [BitVec.ofNat 32 (leValue l)]

/-- Bytes of a list of words, little-endian. -/
def wordBytes (l : List Word) : List Byte := l.flatMap fun w => leBytes 4 w.toNat

/-- Big-endian (network order) value of a list of bytes. -/
def beValue (l : List Byte) : Nat := leValue l.reverse

/-- The `n` big-endian bytes of a value. -/
def beBytes (n v : Nat) : List Byte := (leBytes n v).reverse

/-- Number of bits set among bits `0 .. n - 1`. -/
def popCount : Nat → Nat → Nat
  | 0, _ => 0
  | n + 1, v => v % 2 + popCount n (v / 2)

/-- The lowest set bit among bits `0 .. n - 1`, counted from `i`. -/
def lowestBit : Nat → Nat → Nat → Option Nat
  | 0, _, _ => none
  | n + 1, i, v => if v % 2 = 1 then some i else lowestBit n (i + 1) (v / 2)

/-- Quotient rounded up. -/
def ceilDiv (a b : Nat) : Nat := if b = 0 then 0 else (a + b - 1) / b

/-- Quotient of an integer rounded to nearest, ties away from zero. -/
def roundDiv (a : Int) (b : Nat) : Int :=
  if a < 0 then -(((-a) * 2 + b) / (2 * b)) else (a * 2 + b) / (2 * b)

/-- `b ^ e` modulo `m` over the low `n` bits of `e`. -/
def powMod (m : Nat) : Nat → Nat → Nat → Nat
  | 0, _, _ => 1 % m
  | n + 1, b, e => (if e % 2 = 1 then b else 1) * powMod m n (b * b % m) (e / 2) % m

/-- The largest `r` below `2 ^ k`, built on `r`, with `r ^ e <= v`. -/
def rootBits (e v : Nat) : Nat → Nat → Nat
  | 0, r => r
  | k + 1, r => let c := r + 2 ^ k; rootBits e v k (if c ^ e ≤ v then c else r)

end Sys2Proof.Machine
end

