-- ==== Sys2Proof/Machine/Trig.lean ====
section
/-! DEFINITION. Fixed-point arithmetic for the signal path: complex integers, roots, cosine and sine, angles, logarithms, the
discrete Fourier transform. The spec gives its formulas over real numbers and rounds only their results; the model computes
them in integers of a stated unit, finer than any result of the spec (DESIGN CHOICE, log entry 64). -/

namespace Sys2Proof

/-! ### Complex integers -/

def Iq.zero : Iq := ⟨0, 0⟩
def Iq.add (a b : Iq) : Iq := ⟨a.i + b.i, a.q + b.q⟩
def Iq.sub (a b : Iq) : Iq := ⟨a.i - b.i, a.q - b.q⟩
def Iq.conj (a : Iq) : Iq := ⟨a.i, -a.q⟩
def Iq.mul (a b : Iq) : Iq := ⟨a.i * b.i - a.q * b.q, a.i * b.q + a.q * b.i⟩
def Iq.scale (k : Int) (a : Iq) : Iq := ⟨k * a.i, k * a.q⟩

/-- Divided by `d`, each part rounded to nearest, ties away from zero. -/
def Iq.div (a : Iq) (d : Nat) : Iq := ⟨Machine.roundDiv a.i d, Machine.roundDiv a.q d⟩

/-- Squared magnitude. -/
def Iq.power (a : Iq) : Nat := a.i.natAbs * a.i.natAbs + a.q.natAbs * a.q.natAbs

/-- Both parts saturated to -127 to 127. -/
def Iq.sat127 (a : Iq) : Iq := ⟨Machine.clampInt (-127) 127 a.i, Machine.clampInt (-127) 127 a.q⟩

/-- Both parts saturated to `lim`. -/
def Iq.clamp (lim : Int) (a : Iq) : Iq := ⟨Machine.clampInt (-lim) lim a.i, Machine.clampInt (-lim) lim a.q⟩

end Sys2Proof

namespace Sys2Proof.Machine

def sumIq (l : List Iq) : Iq := l.foldl Iq.add Iq.zero

/-! ### Roots -/

/-- Integer square root of a number below `2 ^ (2 k)`. -/
def sqrtNat (k v : Nat) : Nat := rootBits 2 v k 0

/-! ### Cosine and sine -/

/-- 2 pi in units of 2^-40. -/
def twoPi40 : Nat := 6908435304715

/-- `n` terms of an alternating series from term `t` of index `k`, in units of 2^-40; `x2` is the square of the angle. -/
def trigSeries (x2 : Int) : Nat → Nat → Int → Int
  | 0, _, _ => 0
  | n + 1, k, t => t + trigSeries x2 n (k + 2) (-(t * x2 / (2 ^ 40 * ((k + 1) * (k + 2) : Nat))))

/-- Cosine and sine of an angle up to an eighth of a turn, `a` in 2^-32 turn; results in 2^-40. -/
def cisOctant (a : Nat) : Iq :=
  let x : Int := (a * twoPi40 / 2 ^ 32 : Nat)
  let x2 := x * x / 2 ^ 40
  ⟨trigSeries x2 9 0 (2 ^ 40), trigSeries x2 9 1 x⟩

/-- e^(j angle) for an angle in 2^-32 turn; results in 2^-40. -/
def cisFine (a : Nat) : Iq :=
  let r := a % 2 ^ 30
  let z := if r ≤ 2 ^ 29 then cisOctant r else let c := cisOctant (2 ^ 30 - r); ⟨c.q, c.i⟩
  match a / 2 ^ 30 % 4 with
  | 0 => z
  | 1 => ⟨-z.q, z.i⟩
  | 2 => ⟨-z.i, -z.q⟩
  | _ => ⟨z.q, -z.i⟩

/-- e^(j angle) for an angle in 2^-32 turn; results in 2^-30. -/
def cis (a : Nat) : Iq := (cisFine a).div (2 ^ 10)

/-- e^(j angle) for an angle in 2^-32 turn that may be negative. -/
def cisInt (a : Int) : Iq := cis (a % (2 ^ 32 : Nat)).toNat

/-- The largest angle of the first quadrant, built on `a`, whose sine does not pass the direction (x, y). -/
def angleBits (x y : Int) : Nat → Nat → Nat
  | 0, a => a
  | k + 1, a =>
    let c := a + 2 ^ k
    let z := cis c
    angleBits x y k (if z.q * x ≤ z.i * y then c else a)

/-- The angle of the vector (x, y) in 2^-32 turn, 0 for the zero vector. -/
def angleOf (x y : Int) : Nat :=
  if 0 < x ∧ 0 ≤ y then angleBits x y 30 0
  else if x ≤ 0 ∧ 0 < y then 2 ^ 30 + angleBits y (-x) 30 0
  else if x < 0 ∧ y ≤ 0 then 2 ^ 31 + angleBits (-x) (-y) 30 0
  else if 0 ≤ x ∧ y < 0 then 3 * 2 ^ 30 + angleBits (-y) x 30 0
  else 0

/-! ### Logarithms -/

/-- `n` binary digits of the logarithm of a mantissa in units of 2^-62, below `acc`. -/
def logBits : Nat → Nat → Nat → Nat
  | 0, _, acc => acc
  | n + 1, m, acc =>
    let v := m * m / 2 ^ 62
    if 2 ^ 63 ≤ v then logBits n (v / 2) (2 * acc + 1) else logBits n v (2 * acc)

/-- log2 of a positive number in 2^-32. -/
def log2Nat (v : Nat) : Int :=
  let e := Nat.log2 v
  let m := if e ≤ 62 then v * 2 ^ (62 - e) else v / 2 ^ (e - 62)
  ((e * 2 ^ 32 + logBits 32 m 0 : Nat) : Int)

/-- 10 log10 of the ratio of two positive numbers in units of 1/k dB, rounded to nearest. -/
def decibel (k num den : Nat) : Int :=
  roundDiv ((log2Nat num - log2Nat den) * ((10 * k * 30102999566398120 : Nat) : Int)) (10 ^ 17 * 2 ^ 32)

/-! ### The transform of R125 and of the acquisition search -/

def evens {α : Type} : List α → List α
  | [] => []
  | [a] => [a]
  | a :: _ :: r => a :: evens r

def odds {α : Type} : List α → List α
  | [] => []
  | [_] => []
  | _ :: b :: r => b :: odds r

/-- Discrete Fourier transform of `2 ^ n` points; `dir` is -1 for the forward transform and 1 for the inverse without its
scaling. -/
def dft (dir : Int) : Nat → List Iq → List Iq
  | 0, l => l
  | n + 1, l =>
    let e := dft dir n (evens l)
    let o := (dft dir n (odds l)).mapIdx fun k x => (x.mul (cisInt (dir * ((k * 2 ^ (31 - n) : Nat) : Int)))).div (2 ^ 30)
    List.zipWith Iq.add e o ++ List.zipWith Iq.sub e o

end Sys2Proof.Machine
end

