-- ==== Sys2Proof/Machine/Mixer.lean ====
section
/-! DEFINITION. The frequency shift, the decimation and the scale that the capture port and the crossbar share (R128, R129,
R160), and the quantisers of R129.
Readings: log entry 67 (DESIGN CHOICE). -/

namespace Sys2Proof.Machine

/-- Input samples in the decimation filter of a decimation by `2 ^ d`: the spec gives the filter's passband and rejection, which
about 27 x 2^d taps can meet, and no length (DESIGN CHOICE, log entry 67). -/
def filterLen (d : Nat) : Nat := if d = 0 then 1 else 32 * 2 ^ d

/-- The output of the decimation filter in 1/16 LSB from the mixed samples, newest first. The spec gives the filter's passband
and rejection and no coefficients: they are free values, in 2^-16. It states no rounding here: the model rounds to 1/16 LSB, to
nearest (DESIGN CHOICE, log entry 67). -/
def filterOut (d : Nat) (taps : List Iq) : Iq :=
  if d = 0 then (taps.headD Iq.zero).div (2 ^ 10)
  else (sumIq (taps.mapIdx fun k z => z.scale (Config.decimTap d k))).div (2 ^ 26)

namespace Mixer

/-- One input sample (LSB): shifted by -`offset`, filtered, and after every `2 ^ d` inputs an output sample (1/16 LSB), flagged
when one of the inputs it replaces is flagged or the filter spans a change of settings (R162). -/
def step (m : Mixer) (offset d : Nat) (x : Sample) : Mixer × Option Sample :=
  let z := (x.v.mul (cisInt (-(m.phase : Int)))).div (2 ^ 16)
  let taps := (z :: m.taps).take (filterLen d)
  let flag := m.flag || x.flag
  let m1 := { m with phase := (m.phase + offset) % 2 ^ 32, taps := taps, spans := m.spans - 1 }
  if m.count + 1 < 2 ^ d then ({ m1 with count := m.count + 1, flag := flag }, none)
  else ({ m1 with count := 0, flag := false }, some (if flag || 0 < m.spans then Sample.none else ⟨filterOut d taps, false⟩))

/-- One output sample enters the rms block. -/
def count1 (m : Mixer) (y : Sample) : Mixer := { m with outs := m.outs + 1, sumSq := m.sumSq + y.v.power }

/-- The rms of I and Q over a block of output samples, in 1/16 LSB, rounded to nearest: the spec states no rounding (DESIGN CHOICE, log
entry 67). -/
def level (m : Mixer) : Nat := (sqrtNat 24 (4 * m.sumSq / (2 * m.outs)) + 1) / 2

/-- The rms block has its 4,096 samples. -/
def full (m : Mixer) : Bool := 4096 ≤ m.outs

/-- A complete rms block gives the scale of the next. -/
def close (m : Mixer) : Mixer := { m with outs := 0, sumSq := 0, rms := some m.level }

/-- The output grid begins anew with the next input sample. -/
def align (m : Mixer) : Mixer := { m with count := 0, flag := false }

end Mixer

/-- Requantise one component to 2-bit magnitude (R129); all values in 1/16 LSB. -/
def quant2 (x : Int) (qth rms : Nat) : Nat := if qth * rms ≤ 16 * x.natAbs then 1 else 0

/-- Requantise one component to 4-bit magnitude (R129). -/
def quant4 (x : Int) (qth rms : Nat) : Nat := min 7 (32 * x.natAbs / (qth * rms))

/-- The value (1 - 2s)(2m + 1) of a sign and a magnitude (R129). -/
def quantValue (neg : Bool) (mag : Nat) : Int := if neg then -(2 * (mag : Int) + 1) else 2 * (mag : Int) + 1

end Sys2Proof.Machine
end

