-- ==== Sys2Proof/Machine/RegMap.lean ====
section
/-! DEFINITION. The register map of the block: Table 2-5 of spec/02_register_pages.md (page bases, PAGE_ID codes,
register counts, commit points) and, page by page, every register the spec describes, with each field's bits, access
code (Table 2-1), update class (R50) and reset value. A reserved field has no entry: it reads 0 and takes no write (R8). -/

namespace Sys2Proof.Machine

/-- Access codes of Table 2-1 (R41). -/
inductive Acc where
  | ro | rw | w1c | wo | rc
deriving DecidableEq, Repr

/-- Update classes of R50; `fixed` is the class shown as a dash. -/
inductive Upd where
  | live | shadow | halted | fixed
deriving DecidableEq, Repr

/-- Commit points of S fields (last column of Table 2-5). -/
inductive Commit where
  | epoch | commit | commitAon | noShadow | smBlock | covBlock | unit | drl | second
deriving DecidableEq, Repr

/-- One field of a register: lowest bit, width, access code, update class and reset value. -/
structure FieldRow where
  lsb : Nat
  width : Nat
  acc : Acc
  upd : Upd
  reset : Nat
deriving DecidableEq, Repr

/-- One register or array of registers of a page: the registers lie at
`off + stride * i + stride2 * k` for `i < count`, `k < count2`. -/
structure RegRow where
  off : Nat
  stride : Nat
  count : Nat
  stride2 : Nat
  count2 : Nat
  fields : List FieldRow
deriving DecidableEq, Repr

/-- One row of Table 2-5. The pages of the row lie at `base + 0x1000 * n` for `n < count`. -/
structure PageKind where
  base : Nat
  count : Nat
  type : Nat
  nreg : Nat
  commit : Commit
  enable : Nat
  regs : List RegRow
deriving DecidableEq, Repr


/-- Registers of the SYS page (spec file 01). -/
def regsSYS : List RegRow :=
  [
⟨0x40, 0x0, 1, 0x0, 1, [⟨0, 3, .ro, .live, 0⟩, ⟨4, 3, .ro, .live, 0⟩, ⟨8, 4, .ro, .live, 0⟩, ⟨12, 3, .ro, .live, 0⟩, ⟨15, 1, .ro, .live, 0⟩, ⟨16, 1, .w1c, .live, 0⟩, ⟨17, 1, .w1c, .live, 0⟩, ⟨18, 1, .ro, .live, 0⟩, ⟨19, 3, .ro, .live, 0⟩]⟩,
   ⟨0x44, 0x0, 1, 0x0, 1, [⟨0, 3, .rw, .live, 0⟩, ⟨16, 1, .rw, .live, 1⟩, ⟨31, 1, .wo, .live, 0⟩]⟩,
   ⟨0x48, 0x0, 1, 0x0, 1, [⟨0, 8, .rw, .shadow, 10⟩, ⟨8, 8, .rw, .shadow, 10⟩, ⟨16, 16, .rw, .shadow, 150⟩]⟩]

/-- Registers of the PMU page (spec file 18). -/
def regsPMU : List RegRow :=
  [
⟨0x40, 0x0, 1, 0x0, 1, [⟨0, 3, .wo, .live, 0⟩, ⟨8, 1, .wo, .live, 0⟩, ⟨31, 1, .wo, .live, 0⟩]⟩,
   ⟨0x44, 0x0, 1, 0x0, 1, [⟨0, 3, .ro, .live, 0⟩, ⟨4, 3, .ro, .live, 0⟩, ⟨8, 3, .ro, .live, 0⟩, ⟨12, 3, .ro, .live, 0⟩, ⟨15, 1, .ro, .live, 0⟩, ⟨16, 3, .ro, .live, 0⟩, ⟨20, 3, .ro, .live, 0⟩]⟩,
   ⟨0x48, 0x0, 1, 0x0, 1, [⟨2, 11, .rw, .shadow, 7⟩, ⟨16, 1, .rw, .shadow, 0⟩, ⟨17, 1, .rw, .shadow, 0⟩, ⟨18, 1, .rw, .shadow, 0⟩, ⟨19, 1, .rw, .shadow, 1⟩, ⟨24, 8, .rw, .shadow, 10⟩]⟩,
   ⟨0x4C, 0x0, 1, 0x0, 1, [⟨0, 2, .rw, .live, 1⟩, ⟨4, 2, .ro, .live, 1⟩, ⟨6, 1, .ro, .live, 0⟩, ⟨7, 1, .ro, .live, 0⟩, ⟨8, 1, .w1c, .live, 0⟩]⟩,
   ⟨0x50, 0x0, 1, 0x0, 1, [⟨0, 8, .rw, .shadow, 20⟩, ⟨8, 8, .rw, .shadow, 20⟩, ⟨16, 1, .rw, .shadow, 1⟩]⟩,
   ⟨0x54, 0x0, 1, 0x0, 1, [⟨0, 16, .rw, .shadow, 50⟩]⟩,
   ⟨0x58, 0x4, 3, 0x0, 1, [⟨0, 10, .ro, .fixed, 0⟩]⟩,
   ⟨0x64, 0x0, 1, 0x0, 1, [⟨0, 10, .rw, .live, 750⟩]⟩,
   ⟨0x68, 0x0, 1, 0x0, 1, [⟨0, 7, .rw, .shadow, 64⟩, ⟨8, 7, .rw, .shadow, 65⟩, ⟨16, 1, .rw, .shadow, 0⟩]⟩,
   ⟨0x6C, 0x0, 1, 0x0, 1, [⟨0, 16, .ro, .live, 0⟩, ⟨16, 1, .ro, .live, 0⟩, ⟨17, 1, .ro, .live, 0⟩]⟩,
   ⟨0x70, 0x0, 1, 0x0, 1, [⟨0, 9, .ro, .live, 0⟩]⟩,
   ⟨0x74, 0x0, 1, 0x0, 1, [⟨0, 8, .w1c, .live, 0⟩]⟩,
   ⟨0x78, 0x0, 1, 0x0, 1, [⟨0, 1, .ro, .live, 0⟩, ⟨1, 1, .ro, .live, 0⟩, ⟨2, 2, .ro, .live, 0⟩, ⟨16, 16, .ro, .live, 0⟩]⟩,
   ⟨0x7C, 0x0, 1, 0x0, 1, [⟨0, 6, .rw, .live, 0⟩]⟩,
   ⟨0x80, 0x0, 1, 0x0, 1, [⟨0, 32, .rw, .live, 0⟩]⟩,
   ⟨0x84, 0x0, 1, 0x0, 1, [⟨0, 30, .ro, .live, 0⟩, ⟨31, 1, .ro, .live, 0⟩]⟩,
   ⟨0x88, 0x0, 1, 0x0, 1, [⟨0, 32, .ro, .live, 0⟩]⟩]

/-- Registers of the CLK page (spec file 18). -/
def regsCLK : List RegRow :=
  [
⟨0x40, 0x0, 1, 0x0, 1, [⟨0, 3, .rw, .shadow, 0⟩, ⟨8, 1, .rw, .shadow, 0⟩]⟩,
   ⟨0x44, 0x0, 1, 0x0, 1, [⟨0, 1, .ro, .live, 0⟩, ⟨1, 3, .ro, .live, 0⟩, ⟨4, 1, .ro, .live, 0⟩, ⟨5, 1, .ro, .live, 0⟩, ⟨6, 1, .ro, .live, 0⟩, ⟨7, 1, .ro, .live, 0⟩]⟩,
   ⟨0x48, 0x0, 1, 0x0, 1, [⟨2, 11, .rw, .live, 192⟩]⟩,
   ⟨0x4C, 0x0, 1, 0x0, 1, [⟨2, 11, .rw, .live, 2047⟩]⟩,
   ⟨0x50, 0x0, 1, 0x0, 1, [⟨2, 11, .ro, .live, 0⟩, ⟨18, 11, .w1c, .live, 0⟩]⟩,
   ⟨0x54, 0x0, 1, 0x0, 1, [⟨0, 2, .rw, .live, 1⟩, ⟨4, 2, .rw, .live, 1⟩]⟩,
   ⟨0x58, 0x0, 1, 0x0, 1, [⟨0, 32, .rw, .live, 0⟩]⟩,
   ⟨0x5C, 0x0, 1, 0x0, 1, [⟨0, 32, .rw, .live, 0x000E0000⟩]⟩]

/-- Registers of the CMON page (spec file 18). -/
def regsCMON : List RegRow :=
  [
⟨0x40, 0x0, 1, 0x0, 1, [⟨0, 12, .rw, .shadow, 0x565⟩]⟩,
   ⟨0x44, 0x0, 1, 0x0, 1, [⟨0, 6, .ro, .live, 0⟩, ⟨8, 6, .ro, .live, 0⟩, ⟨16, 1, .ro, .live, 0⟩, ⟨17, 1, .ro, .live, 0⟩]⟩,
   ⟨0x48, 0x0, 1, 0x0, 1, [⟨0, 6, .w1c, .live, 0⟩, ⟨8, 1, .w1c, .live, 0⟩, ⟨9, 1, .w1c, .live, 0⟩]⟩,
   ⟨0x50, 0x4, 6, 0x0, 1, [⟨0, 16, .rw, .shadow, 0⟩]⟩,
   ⟨0x70, 0x4, 6, 0x0, 1, [⟨0, 32, .ro, .live, 0⟩]⟩]

/-- Registers of the RTC page (spec file 19). -/
def regsRTC : List RegRow :=
  [
⟨0x40, 0x0, 1, 0x0, 1, [⟨0, 32, .ro, .live, 0⟩]⟩,
   ⟨0x44, 0x0, 1, 0x0, 1, [⟨0, 16, .ro, .live, 0⟩]⟩,
   ⟨0x48, 0x0, 1, 0x0, 1, [⟨0, 15, .ro, .live, 0⟩]⟩,
   ⟨0x4C, 0x0, 1, 0x0, 1, [⟨0, 32, .rw, .shadow, 0⟩]⟩,
   ⟨0x50, 0x0, 1, 0x0, 1, [⟨0, 16, .rw, .shadow, 0⟩]⟩,
   ⟨0x54, 0x0, 1, 0x0, 1, [⟨0, 15, .rw, .shadow, 0⟩]⟩,
   ⟨0x58, 0x0, 1, 0x0, 1, [⟨0, 6, .ro, .live, 0⟩, ⟨8, 6, .ro, .live, 0⟩, ⟨16, 5, .ro, .live, 0⟩, ⟨24, 6, .ro, .live, 1⟩]⟩,
   ⟨0x5C, 0x0, 1, 0x0, 1, [⟨0, 4, .ro, .live, 1⟩, ⟨8, 8, .ro, .live, 0⟩]⟩,
   ⟨0x60, 0x0, 1, 0x0, 1, [⟨0, 6, .rw, .shadow, 0⟩, ⟨8, 6, .rw, .shadow, 0⟩, ⟨16, 5, .rw, .shadow, 0⟩, ⟨24, 6, .rw, .shadow, 1⟩]⟩,
   ⟨0x64, 0x0, 1, 0x0, 1, [⟨0, 4, .rw, .shadow, 1⟩, ⟨8, 8, .rw, .shadow, 0⟩]⟩,
   ⟨0x68, 0x0, 1, 0x0, 1, [⟨0, 11, .rw, .shadow, 0⟩]⟩,
   ⟨0x6C, 0x0, 1, 0x0, 1, [⟨0, 20, .rw, .shadow, 50000⟩]⟩,
   ⟨0x70, 0x0, 1, 0x0, 1, [⟨0, 32, .rw, .shadow, 0xFFFFFFFF⟩]⟩,
   ⟨0x74, 0x0, 1, 0x0, 1, [⟨0, 32, .ro, .live, 0xFFFFFFFF⟩]⟩,
   ⟨0x78, 0x0, 1, 0x0, 1, [⟨0, 32, .rw, .shadow, 0⟩]⟩,
   ⟨0x7C, 0x0, 1, 0x0, 1, [⟨0, 16, .rw, .shadow, 0⟩]⟩,
   ⟨0x80, 0x0, 1, 0x0, 1, [⟨0, 1, .rw, .shadow, 0⟩, ⟨1, 1, .rw, .shadow, 0⟩]⟩,
   ⟨0x84, 0x0, 1, 0x0, 1, [⟨0, 1, .ro, .live, 0⟩, ⟨1, 1, .ro, .live, 0⟩, ⟨2, 1, .ro, .live, 0⟩, ⟨4, 1, .w1c, .live, 0⟩, ⟨5, 1, .w1c, .live, 0⟩, ⟨6, 1, .w1c, .live, 0⟩]⟩,
   ⟨0x88, 0x0, 1, 0x0, 1, [⟨0, 1, .wo, .live, 0⟩]⟩,
   ⟨0x8C, 0x0, 1, 0x0, 1, [⟨0, 32, .ro, .live, 0⟩]⟩,
   ⟨0x90, 0x0, 1, 0x0, 1, [⟨0, 16, .ro, .live, 0⟩, ⟨16, 15, .ro, .live, 0⟩, ⟨31, 1, .w1c, .live, 0⟩]⟩]

/-- Registers of the AON page (spec file 19). -/
def regsAON : List RegRow :=
  [
⟨0x40, 0x0, 1, 0x0, 1, [⟨0, 1, .w1c, .live, 0⟩, ⟨1, 1, .ro, .live, 0⟩]⟩,
   ⟨0x44, 0x0, 1, 0x0, 1, [⟨0, 16, .ro, .live, 0⟩]⟩,
   ⟨0x48, 0x0, 1, 0x0, 1, [⟨0, 32, .ro, .live, 0⟩]⟩,
   ⟨0x4C, 0x0, 1, 0x0, 1, [⟨0, 16, .ro, .live, 0⟩]⟩,
   ⟨0x50, 0x0, 1, 0x0, 1, [⟨0, 10, .ro, .live, 0⟩]⟩,
   ⟨0x54, 0x0, 1, 0x0, 1, [⟨0, 3, .ro, .live, 0⟩, ⟨3, 8, .ro, .live, 0⟩, ⟨16, 8, .ro, .live, 0⟩]⟩,
   ⟨0x58, 0x0, 1, 0x0, 1, [⟨0, 1, .wo, .live, 0⟩]⟩,
   ⟨0x80, 0x10, 8, 0x4, 4, [⟨0, 32, .ro, .live, 0⟩]⟩]

/-- Registers of the TOC page (spec file 21). -/
def regsTOC : List RegRow :=
  [
⟨0x40, 0x0, 1, 0x0, 1, [⟨0, 1, .ro, .live, 0⟩, ⟨1, 1, .ro, .live, 0⟩, ⟨2, 1, .ro, .live, 0⟩, ⟨3, 1, .ro, .live, 0⟩, ⟨4, 6, .ro, .live, 0⟩]⟩,
   ⟨0x44, 0x0, 1, 0x0, 1, [⟨0, 1, .rw, .shadow, 0⟩, ⟨8, 8, .rw, .shadow, 20⟩, ⟨16, 8, .ro, .fixed, 10⟩]⟩,
   ⟨0x48, 0x0, 1, 0x0, 1, [⟨0, 32, .wo, .live, 0⟩]⟩,
   ⟨0x4C, 0x0, 1, 0x0, 1, [⟨0, 2, .wo, .live, 0⟩, ⟨2, 1, .wo, .live, 0⟩]⟩,
   ⟨0x50, 0x4, 4, 0x0, 1, [⟨0, 32, .ro, .live, 0⟩]⟩,
   ⟨0x60, 0x0, 1, 0x0, 1, [⟨0, 1, .wo, .live, 0⟩]⟩,
   ⟨0x64, 0x0, 1, 0x0, 1, [⟨0, 16, .rc, .live, 0⟩]⟩,
   ⟨0x68, 0x0, 1, 0x0, 1, [⟨0, 32, .rc, .live, 0⟩]⟩,
   ⟨0x6C, 0x0, 1, 0x0, 1, [⟨0, 16, .ro, .live, 0⟩, ⟨16, 16, .ro, .live, 0⟩]⟩]

/-- Registers of the NYM page (spec file 17). -/
def regsNYM : List RegRow :=
  [
⟨0x40, 0x0, 1, 0x0, 1, [⟨0, 3, .ro, .live, 0⟩, ⟨3, 1, .ro, .live, 0⟩, ⟨4, 1, .ro, .live, 0⟩, ⟨5, 1, .ro, .live, 0⟩, ⟨6, 1, .ro, .live, 0⟩, ⟨7, 1, .ro, .live, 0⟩, ⟨8, 4, .ro, .live, 0⟩, ⟨12, 2, .ro, .live, 0⟩, ⟨14, 2, .ro, .live, 0⟩]⟩,
   ⟨0x44, 0x0, 1, 0x0, 1, [⟨0, 32, .ro, .live, 0⟩]⟩,
   ⟨0x48, 0x0, 1, 0x0, 1, [⟨0, 3, .ro, .live, 0⟩, ⟨8, 3, .w1c, .live, 0⟩, ⟨16, 16, .ro, .live, 0⟩]⟩,
   ⟨0x4C, 0x0, 1, 0x0, 1, [⟨0, 32, .rw, .live, 0⟩]⟩,
   ⟨0x50, 0x0, 1, 0x0, 1, [⟨0, 8, .rw, .live, 0⟩]⟩,
   ⟨0x80, 0x80, 2, 0x0, 1, [⟨0, 8, .wo, .live, 0⟩, ⟨8, 8, .wo, .live, 0⟩]⟩,
   ⟨0x84, 0x80, 2, 0x0, 1, [⟨0, 1, .ro, .live, 0⟩, ⟨1, 1, .ro, .live, 0⟩, ⟨8, 4, .ro, .live, 0⟩, ⟨16, 8, .ro, .live, 0⟩]⟩,
   ⟨0x88, 0x80, 2, 0x0, 1, [⟨0, 32, .rw, .live, 0⟩]⟩,
   ⟨0x8C, 0x80, 2, 0x0, 1, [⟨0, 24, .rw, .live, 0⟩]⟩,
   ⟨0x90, 0x80, 2, 0x4, 16, [⟨0, 32, .rw, .live, 0⟩]⟩]

/-- Registers of the RFE page (spec file 03). -/
def regsRFE : List RegRow :=
  [
⟨0x40, 0x0, 1, 0x0, 1, [⟨0, 1, .ro, .fixed, 0⟩, ⟨1, 3, .ro, .fixed, 0⟩, ⟨4, 2, .rw, .halted, 2⟩]⟩,
   ⟨0x44, 0x0, 1, 0x0, 1, [⟨0, 3, .rw, .shadow, 4⟩, ⟨8, 7, .rw, .shadow, 48⟩]⟩,
   ⟨0x48, 0x0, 1, 0x0, 1, [⟨0, 2, .rw, .shadow, 2⟩, ⟨8, 8, .rw, .shadow, 24⟩, ⟨16, 4, .rw, .shadow, 4⟩]⟩,
   ⟨0x4C, 0x0, 1, 0x0, 1, [⟨0, 7, .ro, .live, 48⟩, ⟨8, 3, .ro, .live, 4⟩, ⟨16, 8, .ro, .live, 0⟩, ⟨24, 1, .ro, .live, 0⟩, ⟨25, 1, .ro, .live, 0⟩, ⟨26, 1, .ro, .live, 0⟩]⟩,
   ⟨0x50, 0x0, 1, 0x0, 1, [⟨0, 1, .ro, .live, 1⟩, ⟨1, 3, .ro, .live, 1⟩, ⟨4, 1, .ro, .live, 0⟩]⟩,
   ⟨0x54, 0x0, 1, 0x0, 1, [⟨0, 32, .rc, .live, 0⟩]⟩]

/-- Registers of the SYN page (spec file 03). -/
def regsSYN : List RegRow :=
  [
⟨0x40, 0x0, 1, 0x0, 1, [⟨0, 1, .wo, .live, 0⟩]⟩,
   ⟨0x44, 0x0, 1, 0x0, 1, [⟨0, 24, .rw, .shadow, 0⟩, ⟨24, 6, .rw, .shadow, 0⟩]⟩,
   ⟨0x48, 0x0, 1, 0x0, 1, [⟨0, 1, .ro, .live, 0⟩, ⟨1, 1, .ro, .live, 0⟩, ⟨2, 1, .ro, .live, 0⟩, ⟨3, 1, .ro, .live, 0⟩, ⟨8, 8, .ro, .live, 0⟩, ⟨16, 2, .ro, .live, 0⟩]⟩,
   ⟨0x4C, 0x0, 1, 0x0, 1, [⟨0, 30, .ro, .live, 0⟩]⟩,
   ⟨0x50, 0x0, 1, 0x0, 1, [⟨0, 30, .ro, .live, 0⟩]⟩,
   ⟨0x54, 0x0, 1, 0x0, 1, [⟨0, 6, .rw, .live, 15⟩]⟩,
   ⟨0x58, 0x0, 1, 0x0, 1, [⟨0, 12, .ro, .live, 0⟩, ⟨16, 12, .ro, .live, 0⟩, ⟨31, 1, .ro, .live, 0⟩]⟩,
   ⟨0x5C, 0x0, 1, 0x0, 1, [⟨0, 16, .ro, .live, 0⟩, ⟨16, 16, .ro, .live, 0⟩]⟩]

/-- Registers of the CAL page (spec file 04). -/
def regsCAL : List RegRow :=
  [
⟨0x40, 0x0, 1, 0x0, 1, [⟨0, 1, .wo, .live, 0⟩, ⟨1, 1, .wo, .live, 0⟩]⟩,
   ⟨0x44, 0x0, 1, 0x0, 1, [⟨0, 1, .rw, .halted, 0⟩, ⟨1, 1, .rw, .halted, 0⟩, ⟨2, 6, .rw, .halted, 0⟩]⟩,
   ⟨0x48, 0x0, 1, 0x0, 1, [⟨0, 32, .rw, .halted, 0⟩]⟩,
   ⟨0x4C, 0x0, 1, 0x0, 1, [⟨0, 8, .rw, .shadow, 110⟩]⟩,
   ⟨0x50, 0x0, 1, 0x0, 1, [⟨0, 10, .rw, .halted, 10⟩, ⟨10, 10, .rw, .halted, 50⟩, ⟨20, 10, .rw, .halted, 20⟩]⟩,
   ⟨0x54, 0x0, 1, 0x0, 1, [⟨0, 4, .rw, .halted, 15⟩]⟩,
   ⟨0x58, 0x0, 1, 0x0, 1, [⟨0, 4, .rw, .halted, 8⟩, ⟨4, 4, .rw, .halted, 8⟩, ⟨8, 6, .rw, .halted, 20⟩]⟩,
   ⟨0x5C, 0x0, 1, 0x0, 1, [⟨0, 8, .rw, .halted, 20⟩]⟩,
   ⟨0x60, 0x0, 1, 0x0, 1, [⟨0, 3, .ro, .live, 0⟩, ⟨4, 4, .ro, .live, 0⟩, ⟨8, 1, .ro, .live, 0⟩, ⟨16, 1, .w1c, .live, 0⟩, ⟨17, 1, .w1c, .live, 0⟩, ⟨18, 1, .w1c, .live, 0⟩, ⟨19, 1, .w1c, .live, 0⟩, ⟨20, 1, .w1c, .live, 0⟩, ⟨24, 3, .ro, .live, 0⟩]⟩,
   ⟨0x64, 0x0, 1, 0x0, 1, [⟨0, 18, .ro, .live, 0⟩, ⟨18, 14, .ro, .live, 0⟩]⟩,
   ⟨0x68, 0x0, 1, 0x0, 1, [⟨0, 1, .ro, .live, 0⟩]⟩,
   ⟨0x6C, 0x0, 1, 0x0, 1, [⟨0, 10, .ro, .live, 0⟩, ⟨16, 10, .ro, .live, 0⟩]⟩,
   ⟨0x70, 0x0, 1, 0x0, 1, [⟨0, 16, .ro, .fixed, 0⟩, ⟨16, 16, .ro, .fixed, 0⟩]⟩]

/-- Registers of the ANT page (spec file 03). -/
def regsANT : List RegRow :=
  [
⟨0x40, 0x0, 1, 0x0, 1, [⟨0, 8, .rw, .live, 0⟩]⟩,
   ⟨0x44, 0x0, 1, 0x0, 1, [⟨0, 8, .rw, .live, 0⟩, ⟨8, 1, .ro, .live, 0⟩]⟩,
   ⟨0x48, 0x0, 1, 0x0, 1, [⟨0, 10, .ro, .live, 0⟩, ⟨16, 1, .ro, .live, 0⟩, ⟨17, 1, .ro, .live, 0⟩]⟩,
   ⟨0x4C, 0x0, 1, 0x0, 1, [⟨0, 8, .wo, .live, 0⟩]⟩,
   ⟨0x50, 0x0, 1, 0x0, 1, [⟨0, 8, .ro, .live, 0⟩, ⟨8, 8, .ro, .live, 0⟩, ⟨16, 8, .ro, .live, 0⟩, ⟨24, 8, .ro, .live, 0⟩]⟩,
   ⟨0x54, 0x0, 1, 0x0, 1, [⟨0, 8, .ro, .live, 0⟩]⟩,
   ⟨0x60, 0x4, 8, 0x0, 1, [⟨0, 8, .rw, .shadow, 10⟩, ⟨8, 4, .rw, .shadow, 4⟩, ⟨12, 8, .rw, .shadow, 20⟩, ⟨20, 1, .rw, .shadow, 0⟩]⟩,
   ⟨0x80, 0x4, 8, 0x0, 1, [⟨0, 10, .ro, .live, 0⟩, ⟨16, 10, .ro, .live, 0⟩]⟩]

/-- Registers of the DFE page (spec file 05). -/
def regsDFE : List RegRow :=
  [
⟨0x40, 0x0, 1, 0x0, 1, [⟨0, 2, .rw, .shadow, 2⟩, ⟨2, 1, .rw, .shadow, 1⟩, ⟨3, 1, .rw, .shadow, 1⟩, ⟨4, 1, .rw, .shadow, 0⟩, ⟨5, 3, .rw, .shadow, 4⟩]⟩,
   ⟨0x44, 0x0, 1, 0x0, 1, [⟨0, 12, .rw, .shadow, 0⟩, ⟨16, 12, .rw, .shadow, 0⟩]⟩,
   ⟨0x48, 0x0, 1, 0x0, 1, [⟨0, 16, .rw, .shadow, 0⟩, ⟨16, 16, .rw, .shadow, 0⟩]⟩,
   ⟨0x4C, 0x0, 1, 0x0, 1, [⟨0, 12, .ro, .live, 0⟩, ⟨16, 12, .ro, .live, 0⟩]⟩,
   ⟨0x50, 0x0, 1, 0x0, 1, [⟨0, 16, .ro, .live, 0⟩, ⟨16, 16, .ro, .live, 0⟩]⟩,
   ⟨0x60, 0x8, 4, 0x0, 1, [⟨0, 2, .rw, .shadow, 0⟩, ⟨2, 4, .rw, .shadow, 8⟩, ⟨6, 4, .rw, .shadow, 8⟩, ⟨16, 8, .rw, .shadow, 16⟩]⟩,
   ⟨0x80, 0x8, 4, 0x0, 1, [⟨0, 2, .rw, .shadow, 3⟩, ⟨2, 4, .rw, .shadow, 8⟩, ⟨6, 4, .rw, .shadow, 8⟩, ⟨16, 8, .rw, .shadow, 16⟩]⟩,
   ⟨0x64, 0x8, 8, 0x0, 1, [⟨0, 32, .rw, .shadow, 0⟩]⟩,
   ⟨0xA0, 0x4, 8, 0x0, 1, [⟨0, 16, .ro, .live, 0⟩, ⟨16, 8, .ro, .live, 0⟩, ⟨24, 1, .ro, .live, 0⟩, ⟨25, 1, .ro, .live, 0⟩, ⟨26, 1, .ro, .live, 0⟩]⟩,
   ⟨0xC0, 0x0, 1, 0x0, 1, [⟨0, 4, .rw, .shadow, 6⟩, ⟨4, 8, .rw, .shadow, 40⟩, ⟨12, 8, .rw, .shadow, 60⟩, ⟨20, 8, .rw, .shadow, 12⟩, ⟨28, 4, .rw, .shadow, 8⟩]⟩,
   ⟨0xC8, 0x0, 1, 0x0, 1, [⟨0, 16, .ro, .live, 0⟩, ⟨16, 4, .ro, .live, 0⟩, ⟨20, 1, .ro, .live, 0⟩, ⟨24, 8, .ro, .live, 0⟩]⟩,
   ⟨0xD0, 0x4, 8, 0x0, 1, [⟨0, 12, .ro, .live, 0⟩, ⟨12, 8, .ro, .live, 0⟩, ⟨20, 1, .ro, .live, 0⟩]⟩,
   ⟨0xF0, 0x0, 1, 0x0, 1, [⟨0, 2, .rw, .shadow, 2⟩, ⟨2, 8, .rw, .shadow, 48⟩, ⟨10, 4, .rw, .shadow, 4⟩, ⟨14, 8, .rw, .shadow, 32⟩]⟩,
   ⟨0xF4, 0x0, 1, 0x0, 1, [⟨0, 32, .rc, .live, 0⟩]⟩,
   ⟨0xF8, 0x0, 1, 0x0, 1, [⟨0, 8, .rw, .shadow, 64⟩]⟩,
   ⟨0x100, 0x0, 1, 0x0, 1, [⟨0, 17, .ro, .live, 0⟩]⟩,
   ⟨0x104, 0x0, 1, 0x0, 1, [⟨0, 17, .ro, .live, 0⟩]⟩,
   ⟨0x120, 0x0, 1, 0x0, 1, [⟨0, 2, .rw, .halted, 0⟩, ⟨2, 4, .rw, .halted, 0⟩, ⟨6, 1, .rw, .halted, 0⟩]⟩,
   ⟨0x124, 0x0, 1, 0x0, 1, [⟨0, 1, .rw, .halted, 0⟩, ⟨1, 1, .rw, .halted, 0⟩, ⟨2, 1, .rw, .halted, 0⟩, ⟨3, 2, .rw, .halted, 0⟩, ⟨5, 8, .rw, .halted, 16⟩, ⟨13, 1, .rw, .halted, 0⟩, ⟨16, 5, .rw, .halted, 0⟩]⟩,
   ⟨0x128, 0x0, 1, 0x0, 1, [⟨0, 32, .rw, .halted, 0⟩]⟩,
   ⟨0x12C, 0x0, 1, 0x0, 1, [⟨0, 32, .rw, .halted, 0⟩]⟩,
   ⟨0x130, 0x0, 1, 0x0, 1, [⟨0, 24, .rw, .halted, 0⟩]⟩,
   ⟨0x134, 0x0, 1, 0x0, 1, [⟨0, 2, .rw, .halted, 0⟩, ⟨2, 5, .rw, .halted, 0⟩, ⟨8, 24, .rw, .halted, 0⟩]⟩,
   ⟨0x138, 0x0, 1, 0x0, 1, [⟨0, 1, .wo, .live, 0⟩, ⟨1, 1, .wo, .live, 0⟩]⟩,
   ⟨0x13C, 0x0, 1, 0x0, 1, [⟨0, 3, .ro, .live, 0⟩, ⟨3, 1, .ro, .live, 0⟩, ⟨16, 1, .w1c, .live, 0⟩, ⟨17, 1, .w1c, .live, 0⟩, ⟨18, 1, .w1c, .live, 0⟩, ⟨19, 1, .w1c, .live, 0⟩]⟩,
   ⟨0x140, 0x0, 1, 0x0, 1, [⟨0, 24, .ro, .live, 0⟩]⟩]

/-- Registers of the ARR page (spec file 06). -/
def regsARR : List RegRow :=
  [
⟨0x40, 0x0, 1, 0x0, 1, [⟨0, 1, .rw, .shadow, 0⟩, ⟨1, 1, .rw, .shadow, 0⟩, ⟨2, 3, .rw, .shadow, 4⟩, ⟨5, 3, .rw, .shadow, 2⟩]⟩,
   ⟨0x44, 0x0, 1, 0x0, 1, [⟨0, 2, .rw, .shadow, 0⟩, ⟨2, 3, .rw, .shadow, 0⟩, ⟨5, 4, .rw, .shadow, 6⟩, ⟨16, 8, .rw, .shadow, 40⟩, ⟨24, 8, .rw, .shadow, 120⟩]⟩,
   ⟨0x48, 0x0, 1, 0x0, 1, [⟨0, 32, .rw, .shadow, 0⟩]⟩,
   ⟨0x4C, 0x0, 1, 0x0, 1, [⟨0, 8, .ro, .live, 0⟩, ⟨8, 2, .ro, .live, 0⟩, ⟨10, 1, .ro, .live, 0⟩]⟩,
   ⟨0x50, 0x0, 1, 0x0, 1, [⟨0, 8, .ro, .live, 0⟩, ⟨8, 3, .ro, .live, 0⟩]⟩,
   ⟨0x54, 0x0, 1, 0x0, 1, [⟨0, 16, .ro, .live, 0⟩, ⟨16, 16, .ro, .live, 0⟩]⟩,
   ⟨0x58, 0x0, 1, 0x0, 1, [⟨0, 32, .rc, .live, 0⟩]⟩,
   ⟨0x60, 0x4, 8, 0x0, 1, [⟨0, 16, .rw, .shadow, 0x4000⟩, ⟨16, 16, .rw, .shadow, 0⟩]⟩,
   ⟨0x80, 0x4, 8, 0x0, 1, [⟨0, 32, .rw, .shadow, 0⟩]⟩,
   ⟨0xA0, 0x4, 8, 0x0, 1, [⟨0, 16, .rw, .shadow, 0⟩, ⟨16, 16, .rw, .shadow, 0⟩]⟩,
   ⟨0xC0, 0x4, 8, 0x0, 1, [⟨0, 16, .rw, .shadow, 0⟩]⟩,
   ⟨0xE0, 0x4, 8, 0x0, 1, [⟨0, 16, .rw, .shadow, 0x4000⟩, ⟨16, 16, .rw, .shadow, 0⟩]⟩,
   ⟨0x100, 0x4, 8, 0x0, 1, [⟨0, 16, .ro, .live, 0⟩, ⟨16, 16, .ro, .live, 0⟩]⟩,
   ⟨0x120, 0x4, 8, 0x0, 1, [⟨0, 16, .rw, .shadow, 0⟩, ⟨16, 16, .rw, .shadow, 0⟩]⟩,
   ⟨0x140, 0x4, 8, 0x0, 1, [⟨0, 16, .rw, .shadow, 0⟩, ⟨16, 16, .rw, .shadow, 0⟩]⟩,
   ⟨0x160, 0x4, 8, 0x0, 1, [⟨0, 16, .rw, .shadow, 0⟩, ⟨16, 16, .rw, .shadow, 0⟩]⟩,
   ⟨0x180, 0x8, 4, 0x0, 1, [⟨0, 12, .ro, .live, 0⟩, ⟨12, 12, .ro, .live, 0⟩, ⟨24, 1, .ro, .live, 0⟩, ⟨25, 1, .ro, .live, 0⟩]⟩,
   ⟨0x184, 0x8, 4, 0x0, 1, [⟨0, 8, .ro, .live, 0⟩, ⟨8, 8, .ro, .live, 0⟩]⟩]

/-- Registers of the XBAR page (spec file 06). -/
def regsXBAR : List RegRow :=
  [
⟨0x40, 0x8, 64, 0x0, 1, [⟨0, 1, .rw, .shadow, 0⟩, ⟨1, 2, .rw, .shadow, 0⟩, ⟨3, 4, .rw, .shadow, 0⟩, ⟨7, 1, .rw, .shadow, 0⟩, ⟨8, 2, .rw, .shadow, 0⟩, ⟨10, 8, .rw, .shadow, 16⟩]⟩,
   ⟨0x44, 0x8, 64, 0x0, 1, [⟨0, 32, .rw, .shadow, 0⟩]⟩]

/-- Registers of the ACQ page (spec file 07). -/
def regsACQ : List RegRow :=
  [
⟨0x40, 0x0, 1, 0x0, 1, [⟨0, 8, .rw, .shadow, 255⟩, ⟨8, 1, .rw, .shadow, 1⟩]⟩,
   ⟨0x44, 0x0, 1, 0x0, 1, [⟨0, 32, .wo, .live, 0⟩]⟩,
   ⟨0x48, 0x0, 1, 0x0, 1, [⟨0, 6, .ro, .live, 0⟩, ⟨8, 6, .ro, .live, 0⟩, ⟨16, 8, .ro, .live, 0⟩]⟩,
   ⟨0x4C, 0x0, 1, 0x0, 1, [⟨0, 16, .ro, .live, 0⟩, ⟨16, 16, .ro, .live, 0⟩]⟩,
   ⟨0x50, 0x0, 1, 0x0, 1, [⟨0, 32, .ro, .live, 0⟩]⟩,
   ⟨0x54, 0x0, 1, 0x0, 1, [⟨0, 32, .ro, .live, 0⟩]⟩,
   ⟨0x58, 0x0, 1, 0x0, 1, [⟨0, 32, .ro, .live, 0⟩]⟩,
   ⟨0x5C, 0x0, 1, 0x0, 1, [⟨0, 8, .ro, .live, 0⟩]⟩]

/-- Registers of the COR page (spec file 08). -/
def regsCOR : List RegRow :=
  [
⟨0x40, 0x0, 1, 0x0, 1, [⟨0, 5, .rw, .halted, 0⟩, ⟨8, 1, .rw, .shadow, 1⟩]⟩,
   ⟨0x44, 0x0, 1, 0x0, 1, [⟨0, 7, .rw, .halted, 0⟩]⟩,
   ⟨0x48, 0x0, 1, 0x0, 1, [⟨0, 7, .rw, .halted, 0⟩]⟩,
   ⟨0x4C, 0x0, 1, 0x0, 1, [⟨0, 1, .ro, .live, 0⟩, ⟨1, 1, .ro, .live, 0⟩, ⟨8, 24, .ro, .live, 0⟩]⟩,
   ⟨0x50, 0x0, 1, 0x0, 1, [⟨0, 12, .ro, .live, 0⟩, ⟨16, 9, .ro, .live, 0⟩]⟩,
   ⟨0x54, 0x0, 1, 0x0, 1, [⟨0, 32, .rc, .live, 0⟩]⟩,
   ⟨0x58, 0x0, 1, 0x0, 1, [⟨0, 32, .ro, .live, 0⟩]⟩,
   ⟨0x5C, 0x0, 1, 0x0, 1, [⟨0, 5, .ro, .live, 8⟩]⟩]

/-- Registers of the CORU page (spec file 08). -/
def regsCORU : List RegRow :=
  [
⟨0x40, 0x10, 64, 0x0, 1, [⟨0, 1, .rw, .shadow, 1⟩]⟩,
   ⟨0x44, 0x10, 64, 0x0, 1, [⟨0, 8, .ro, .live, 0⟩, ⟨8, 5, .ro, .live, 0⟩, ⟨13, 3, .ro, .live, 0⟩, ⟨16, 1, .ro, .live, 0⟩, ⟨17, 8, .ro, .live, 0⟩]⟩,
   ⟨0x48, 0x10, 64, 0x0, 1, [⟨0, 8, .rw, .shadow, 0⟩]⟩]

/-- Registers of the CHS page (spec file 09). -/
def regsCHS : List RegRow :=
  [
⟨0x40, 0x0, 1, 0x0, 1, [⟨0, 1, .rw, .live, 1⟩, ⟨1, 1, .rw, .live, 1⟩, ⟨2, 1, .rw, .live, 1⟩, ⟨8, 8, .rw, .shadow, 10⟩, ⟨16, 8, .rw, .shadow, 16⟩]⟩,
   ⟨0x44, 0x0, 1, 0x0, 1, [⟨0, 7, .rw, .halted, 0⟩]⟩,
   ⟨0x48, 0x0, 1, 0x0, 1, [⟨0, 8, .rw, .live, 255⟩]⟩,
   ⟨0x4C, 0x0, 1, 0x0, 1, [⟨0, 2, .rw, .shadow, 1⟩, ⟨8, 8, .rw, .shadow, 40⟩]⟩,
   ⟨0x50, 0x0, 1, 0x0, 1, [⟨0, 8, .rw, .shadow, 0⟩, ⟨8, 8, .rw, .shadow, 255⟩]⟩,
   ⟨0x54, 0x0, 1, 0x0, 1, [⟨0, 13, .ro, .live, 0⟩, ⟨16, 13, .ro, .live, 0⟩]⟩,
   ⟨0x58, 0x0, 1, 0x0, 1, [⟨0, 11, .ro, .live, 0⟩, ⟨16, 11, .rc, .live, 0⟩]⟩,
   ⟨0x5C, 0x0, 1, 0x0, 1, [⟨0, 16, .rc, .live, 0⟩, ⟨16, 16, .rc, .live, 0⟩]⟩,
   ⟨0x60, 0x4, 4, 0x0, 1, [⟨0, 32, .rc, .live, 0⟩]⟩,
   ⟨0x70, 0x4, 4, 0x0, 1, [⟨0, 32, .ro, .live, 0⟩]⟩,
   ⟨0x80, 0x0, 1, 0x0, 1, [⟨0, 16, .ro, .live, 0⟩, ⟨16, 16, .ro, .live, 0⟩]⟩,
   ⟨0x84, 0x0, 1, 0x0, 1, [⟨0, 32, .ro, .live, 0⟩]⟩,
   ⟨0x88, 0x0, 1, 0x0, 1, [⟨0, 2, .ro, .live, 0⟩, ⟨2, 1, .ro, .live, 0⟩, ⟨3, 1, .ro, .live, 0⟩, ⟨8, 8, .rw, .live, 120⟩]⟩,
   ⟨0x90, 0x0, 1, 0x0, 1, [⟨0, 12, .wo, .live, 0⟩, ⟨12, 4, .wo, .live, 0⟩, ⟨16, 16, .wo, .live, 0⟩]⟩,
   ⟨0x94, 0x0, 1, 0x0, 1, [⟨0, 1, .ro, .live, 0⟩, ⟨1, 3, .ro, .live, 0⟩]⟩,
   ⟨0x98, 0x0, 1, 0x0, 1, [⟨0, 32, .rc, .live, 0⟩]⟩,
   ⟨0x100, 0x10, 8, 0x0, 1, [⟨0, 32, .rw, .live, 0⟩]⟩,
   ⟨0x104, 0x10, 8, 0x0, 1, [⟨0, 32, .rw, .live, 0⟩]⟩,
   ⟨0x108, 0x10, 8, 0x0, 1, [⟨0, 1, .wo, .live, 0⟩, ⟨1, 1, .wo, .live, 0⟩, ⟨2, 1, .wo, .live, 0⟩, ⟨3, 1, .wo, .live, 0⟩, ⟨4, 3, .wo, .live, 0⟩]⟩]

/-- Registers of the CHS2 page (spec file 09). -/
def regsCHS2 : List RegRow :=
  [
⟨0x40, 0x4, 36, 0x0, 1, [⟨0, 32, .rw, .live, 0⟩]⟩,
   ⟨0xE0, 0x0, 1, 0x0, 1, [⟨0, 12, .rc, .live, 0⟩, ⟨12, 1, .rc, .live, 0⟩, ⟨13, 3, .rc, .live, 0⟩]⟩,
   ⟨0xE4, 0x0, 1, 0x0, 1, [⟨0, 16, .rc, .live, 0⟩]⟩]

/-- Registers of the TBU page (spec file 11). -/
def regsTBU : List RegRow :=
  [
⟨0x40, 0x0, 1, 0x0, 1, [⟨0, 16, .ro, .live, 0⟩]⟩,
   ⟨0x44, 0x0, 1, 0x0, 1, [⟨0, 30, .ro, .live, 0⟩]⟩,
   ⟨0x48, 0x0, 1, 0x0, 1, [⟨0, 32, .ro, .live, 0⟩]⟩,
   ⟨0x4C, 0x0, 1, 0x0, 1, [⟨0, 16, .ro, .live, 0⟩]⟩,
   ⟨0x50, 0x0, 1, 0x0, 1, [⟨0, 32, .ro, .live, 0⟩]⟩,
   ⟨0x54, 0x0, 1, 0x0, 1, [⟨0, 16, .ro, .live, 0⟩]⟩,
   ⟨0x58, 0x0, 1, 0x0, 1, [⟨0, 32, .rw, .shadow, 0⟩]⟩,
   ⟨0x5C, 0x0, 1, 0x0, 1, [⟨0, 8, .rw, .shadow, 0⟩]⟩,
   ⟨0x60, 0x0, 1, 0x0, 1, [⟨0, 32, .rw, .shadow, 0⟩]⟩,
   ⟨0x64, 0x0, 1, 0x0, 1, [⟨0, 32, .rw, .shadow, 0⟩]⟩,
   ⟨0x68, 0x0, 1, 0x0, 1, [⟨0, 32, .rw, .shadow, 0⟩]⟩,
   ⟨0x6C, 0x0, 1, 0x0, 1, [⟨0, 16, .rw, .shadow, 100⟩, ⟨16, 16, .rw, .shadow, 0⟩]⟩,
   ⟨0x70, 0x0, 1, 0x0, 1, [⟨0, 32, .ro, .live, 0⟩]⟩,
   ⟨0x74, 0x0, 1, 0x0, 1, [⟨0, 3, .ro, .live, 0⟩, ⟨3, 3, .ro, .live, 0⟩, ⟨6, 1, .ro, .live, 0⟩, ⟨7, 1, .ro, .live, 0⟩, ⟨8, 1, .ro, .live, 0⟩, ⟨9, 1, .ro, .live, 0⟩]⟩,
   ⟨0x78, 0x0, 1, 0x0, 1, [⟨0, 3, .rw, .shadow, 0⟩]⟩,
   ⟨0x7C, 0x0, 1, 0x0, 1, [⟨0, 32, .ro, .live, 0xFFFFFFFF⟩]⟩,
   ⟨0x80, 0x0, 1, 0x0, 1, [⟨0, 32, .rw, .shadow, 0⟩]⟩,
   ⟨0x84, 0x0, 1, 0x0, 1, [⟨0, 16, .rw, .shadow, 1000⟩]⟩,
   ⟨0x88, 0x0, 1, 0x0, 1, [⟨0, 16, .rw, .shadow, 37⟩, ⟨16, 2, .rw, .shadow, 0⟩]⟩,
   ⟨0x8C, 0x0, 1, 0x0, 1, [⟨0, 32, .rw, .shadow, 0⟩]⟩,
   ⟨0x90, 0x0, 1, 0x0, 1, [⟨0, 16, .rw, .shadow, 0⟩]⟩,
   ⟨0x94, 0x0, 1, 0x0, 1, [⟨0, 32, .rw, .halted, 0⟩]⟩,
   ⟨0x98, 0x0, 1, 0x0, 1, [⟨0, 16, .rw, .halted, 0⟩]⟩,
   ⟨0x9C, 0x0, 1, 0x0, 1, [⟨0, 30, .rw, .halted, 0⟩]⟩,
   ⟨0xA0, 0x0, 1, 0x0, 1, [⟨0, 16, .ro, .live, 0⟩]⟩,
   ⟨0xA4, 0x0, 1, 0x0, 1, [⟨0, 30, .ro, .live, 0⟩]⟩,
   ⟨0xA8, 0x0, 1, 0x0, 1, [⟨0, 32, .ro, .live, 0⟩]⟩,
   ⟨0xAC, 0x0, 1, 0x0, 1, [⟨0, 16, .ro, .live, 0⟩]⟩,
   ⟨0xB0, 0x0, 1, 0x0, 1, [⟨0, 32, .ro, .live, 0⟩]⟩,
   ⟨0xB4, 0x0, 1, 0x0, 1, [⟨0, 16, .ro, .live, 0⟩]⟩,
   ⟨0xB8, 0x0, 1, 0x0, 1, [⟨0, 32, .ro, .live, 0⟩]⟩,
   ⟨0xBC, 0x0, 1, 0x0, 1, [⟨0, 16, .ro, .live, 0⟩]⟩,
   ⟨0xC0, 0x0, 1, 0x0, 1, [⟨0, 1, .ro, .live, 0⟩, ⟨1, 1, .ro, .live, 0⟩, ⟨2, 1, .ro, .live, 0⟩]⟩]

/-- Registers of the DRL page (spec file 11). -/
def regsDRL : List RegRow :=
  [
⟨0x40, 0x10, 32, 0x0, 1, [⟨0, 1, .rw, .shadow, 0⟩, ⟨1, 1, .rw, .shadow, 0⟩, ⟨8, 4, .rw, .shadow, 15⟩, ⟨16, 8, .rw, .shadow, 1⟩]⟩,
   ⟨0x44, 0x10, 32, 0x0, 1, [⟨0, 30, .rw, .shadow, 0⟩]⟩,
   ⟨0x48, 0x10, 32, 0x0, 1, [⟨0, 30, .rw, .shadow, 0⟩]⟩,
   ⟨0x4C, 0x10, 32, 0x0, 1, [⟨0, 1, .ro, .live, 0⟩, ⟨1, 1, .w1c, .live, 0⟩, ⟨2, 1, .w1c, .live, 0⟩, ⟨8, 24, .ro, .live, 0⟩]⟩]

/-- Registers of the TIO page (spec file 11). -/
def regsTIO : List RegRow :=
  [
⟨0x40, 0xC, 2, 0x0, 1, [⟨0, 1, .rw, .shadow, 1⟩, ⟨1, 1, .rw, .shadow, 0⟩, ⟨2, 3, .rw, .shadow, 2⟩]⟩,
   ⟨0x44, 0xC, 2, 0x0, 1, [⟨0, 20, .rw, .shadow, 0⟩]⟩,
   ⟨0x48, 0xC, 2, 0x0, 1, [⟨0, 20, .rw, .shadow, 100000⟩]⟩,
   ⟨0x60, 0x10, 8, 0x0, 1, [⟨0, 2, .rw, .shadow, 0⟩, ⟨2, 1, .rw, .shadow, 0⟩, ⟨3, 1, .rw, .shadow, 0⟩, ⟨4, 5, .rw, .shadow, 0⟩, ⟨9, 3, .rw, .shadow, 2⟩]⟩,
   ⟨0x64, 0x10, 8, 0x0, 1, [⟨0, 20, .rw, .shadow, 0⟩]⟩,
   ⟨0x68, 0x10, 8, 0x0, 1, [⟨0, 30, .rw, .shadow, 1000⟩]⟩,
   ⟨0x100, 0x20, 4, 0x0, 1, [⟨0, 2, .rw, .shadow, 0⟩]⟩,
   ⟨0x104, 0x20, 4, 0x0, 1, [⟨0, 16, .ro, .live, 0⟩, ⟨16, 1, .ro, .live, 0⟩, ⟨17, 3, .ro, .live, 0⟩]⟩,
   ⟨0x108, 0x20, 4, 0x0, 1, [⟨0, 30, .ro, .live, 0⟩]⟩,
   ⟨0x10C, 0x20, 4, 0x0, 1, [⟨0, 32, .ro, .live, 0⟩]⟩,
   ⟨0x110, 0x20, 4, 0x0, 1, [⟨0, 16, .ro, .live, 0⟩, ⟨16, 3, .ro, .live, 0⟩, ⟨30, 1, .w1c, .live, 0⟩, ⟨31, 1, .w1c, .live, 0⟩]⟩,
   ⟨0x180, 0x0, 1, 0x0, 1, [⟨0, 2, .ro, .live, 0⟩, ⟨2, 8, .ro, .live, 0⟩, ⟨16, 1, .ro, .live, 0⟩]⟩]

/-- Registers of the PTP page (spec file 12). -/
def regsPTP : List RegRow :=
  [
⟨0x40, 0x0, 1, 0x0, 1, [⟨0, 1, .rw, .shadow, 0⟩, ⟨1, 3, .rw, .shadow, 2⟩, ⟨4, 5, .rw, .halted, 0⟩]⟩,
   ⟨0x44, 0x0, 1, 0x0, 1, [⟨0, 32, .rw, .halted, 0⟩]⟩,
   ⟨0x48, 0x0, 1, 0x0, 1, [⟨0, 32, .rw, .halted, 0⟩]⟩,
   ⟨0x4C, 0x0, 1, 0x0, 1, [⟨0, 7, .rw, .halted, 0⟩]⟩,
   ⟨0x50, 0x0, 1, 0x0, 1, [⟨0, 12, .wo, .live, 0⟩, ⟨12, 4, .wo, .live, 0⟩, ⟨16, 16, .wo, .live, 0⟩]⟩,
   ⟨0x54, 0x0, 1, 0x0, 1, [⟨0, 1, .ro, .live, 0⟩, ⟨1, 3, .ro, .live, 0⟩]⟩,
   ⟨0x60, 0x4, 16, 0x0, 1, [⟨0, 32, .rw, .live, 0⟩]⟩,
   ⟨0xA0, 0x0, 1, 0x0, 1, [⟨0, 32, .rw, .shadow, 0x21268080⟩]⟩,
   ⟨0xA4, 0x0, 1, 0x0, 1, [⟨0, 16, .rw, .shadow, 0x4E5D⟩, ⟨16, 8, .rw, .shadow, 0x20⟩]⟩,
   ⟨0xA8, 0x0, 1, 0x0, 1, [⟨0, 16, .rw, .shadow, 0⟩, ⟨16, 1, .rw, .shadow, 0⟩, ⟨17, 1, .rw, .shadow, 0⟩, ⟨18, 1, .rw, .shadow, 0⟩]⟩,
   ⟨0xAC, 0x0, 1, 0x0, 1, [⟨0, 32, .rw, .shadow, 0⟩]⟩,
   ⟨0xB0, 0x0, 1, 0x0, 1, [⟨0, 32, .rw, .shadow, 0⟩]⟩,
   ⟨0xC0, 0x0, 1, 0x0, 1, [⟨0, 2, .rw, .live, 0⟩, ⟨2, 9, .rw, .live, 0⟩, ⟨11, 1, .rw, .live, 0⟩, ⟨12, 1, .rw, .live, 0⟩, ⟨24, 8, .rw, .live, 0⟩]⟩,
   ⟨0xC4, 0x0, 1, 0x0, 1, [⟨0, 32, .wo, .live, 0⟩]⟩,
   ⟨0xC8, 0x0, 1, 0x0, 1, [⟨0, 1, .wo, .live, 0⟩]⟩,
   ⟨0xCC, 0x0, 1, 0x0, 1, [⟨0, 1, .ro, .live, 0⟩, ⟨1, 1, .w1c, .live, 0⟩]⟩,
   ⟨0xD0, 0x0, 1, 0x0, 1, [⟨0, 16, .ro, .live, 0⟩]⟩,
   ⟨0xD4, 0x0, 1, 0x0, 1, [⟨0, 30, .ro, .live, 0⟩]⟩,
   ⟨0xD8, 0x0, 1, 0x0, 1, [⟨0, 32, .ro, .live, 0⟩]⟩,
   ⟨0xDC, 0x0, 1, 0x0, 1, [⟨0, 16, .ro, .live, 0⟩, ⟨16, 8, .ro, .live, 0⟩]⟩,
   ⟨0xE0, 0x0, 1, 0x0, 1, [⟨0, 2, .ro, .live, 0⟩, ⟨2, 3, .ro, .live, 0⟩, ⟨5, 1, .ro, .live, 0⟩, ⟨6, 1, .ro, .live, 0⟩, ⟨7, 1, .ro, .live, 0⟩, ⟨8, 1, .ro, .live, 0⟩, ⟨9, 12, .ro, .live, 0⟩, ⟨21, 11, .ro, .live, 0⟩]⟩,
   ⟨0xE4, 0x0, 1, 0x0, 1, [⟨0, 16, .ro, .live, 0⟩, ⟨16, 3, .ro, .live, 0⟩]⟩,
   ⟨0xE8, 0x0, 1, 0x0, 1, [⟨0, 30, .ro, .live, 0⟩]⟩,
   ⟨0xEC, 0x0, 1, 0x0, 1, [⟨0, 32, .ro, .live, 0⟩]⟩,
   ⟨0xF0, 0x0, 1, 0x0, 1, [⟨0, 16, .ro, .live, 0⟩, ⟨16, 16, .ro, .live, 0⟩]⟩,
   ⟨0xF4, 0x0, 1, 0x0, 1, [⟨0, 32, .ro, .live, 0⟩]⟩,
   ⟨0xF8, 0x0, 1, 0x0, 1, [⟨0, 1, .wo, .live, 0⟩]⟩,
   ⟨0xFC, 0x0, 1, 0x0, 1, [⟨0, 11, .ro, .live, 0⟩, ⟨16, 16, .rc, .live, 0⟩]⟩,
   ⟨0x100, 0x0, 1, 0x0, 1, [⟨0, 16, .ro, .live, 0⟩]⟩,
   ⟨0x104, 0x4, 16, 0x0, 1, [⟨0, 32, .ro, .live, 0⟩]⟩,
   ⟨0x150, 0x0, 1, 0x0, 1, [⟨0, 32, .rc, .live, 0⟩]⟩,
   ⟨0x154, 0x0, 1, 0x0, 1, [⟨0, 32, .rc, .live, 0⟩]⟩,
   ⟨0x158, 0x0, 1, 0x0, 1, [⟨0, 32, .rc, .live, 0⟩]⟩,
   ⟨0x15C, 0x0, 1, 0x0, 1, [⟨0, 32, .rc, .live, 0⟩]⟩]

/-- Registers of the PTPP page (spec file 12). -/
def regsPTPP : List RegRow :=
  [
⟨0x40, 0x0, 1, 0x0, 1, [⟨0, 1, .rw, .shadow, 0⟩, ⟨1, 1, .rw, .shadow, 0⟩]⟩,
   ⟨0x44, 0x0, 1, 0x0, 1, [⟨0, 32, .rw, .shadow, 0⟩]⟩,
   ⟨0x48, 0x4, 4, 0x0, 1, [⟨0, 32, .rw, .shadow, 0⟩]⟩,
   ⟨0x60, 0x4, 4, 0x0, 1, [⟨0, 32, .ro, .live, 0⟩]⟩,
   ⟨0x70, 0x0, 1, 0x0, 1, [⟨0, 32, .ro, .live, 0⟩]⟩]

/-- Registers of the ETH page (spec file 12). -/
def regsETH : List RegRow :=
  [
⟨0x40, 0x0, 1, 0x0, 1, [⟨0, 2, .rw, .halted, 2⟩, ⟨2, 2, .rw, .halted, 0⟩, ⟨4, 1, .rw, .halted, 1⟩, ⟨5, 1, .rw, .halted, 0⟩, ⟨16, 14, .rw, .halted, 1522⟩]⟩,
   ⟨0x44, 0x0, 1, 0x0, 1, [⟨0, 32, .rw, .halted, 0⟩]⟩,
   ⟨0x48, 0x0, 1, 0x0, 1, [⟨0, 16, .rw, .halted, 0⟩]⟩,
   ⟨0x4C, 0x0, 1, 0x0, 1, [⟨0, 1, .ro, .live, 0⟩, ⟨1, 1, .ro, .live, 0⟩, ⟨2, 1, .ro, .live, 0⟩, ⟨3, 1, .ro, .live, 0⟩, ⟨4, 1, .ro, .live, 0⟩, ⟨5, 1, .ro, .live, 0⟩, ⟨6, 1, .ro, .live, 0⟩]⟩,
   ⟨0x50, 0x0, 1, 0x0, 1, [⟨0, 16, .rw, .shadow, 0⟩, ⟨16, 16, .rw, .shadow, 0⟩]⟩,
   ⟨0x54, 0x0, 1, 0x0, 1, [⟨0, 1, .rw, .shadow, 0⟩, ⟨1, 1, .rw, .shadow, 1⟩]⟩,
   ⟨0x58, 0x0, 1, 0x0, 1, [⟨0, 32, .rc, .live, 0⟩]⟩,
   ⟨0x5C, 0x0, 1, 0x0, 1, [⟨0, 32, .rc, .live, 0⟩]⟩,
   ⟨0x60, 0x0, 1, 0x0, 1, [⟨0, 32, .rc, .live, 0⟩]⟩,
   ⟨0x64, 0x0, 1, 0x0, 1, [⟨0, 32, .rc, .live, 0⟩]⟩]

/-- Registers of the DMA page (spec file 16). -/
def regsDMA : List RegRow :=
  [
⟨0x40, 0x0, 1, 0x0, 1, [⟨0, 32, .ro, .live, 0⟩]⟩,
   ⟨0x44, 0x0, 1, 0x0, 1, [⟨0, 32, .ro, .live, 0⟩]⟩,
   ⟨0x48, 0x0, 1, 0x0, 1, [⟨0, 32, .ro, .live, 0⟩]⟩,
   ⟨0x4C, 0x0, 1, 0x0, 1, [⟨0, 32, .rw, .shadow, 0⟩]⟩]

/-- Registers of the DMAC page (spec file 16). -/
def regsDMAC : List RegRow :=
  [
⟨0x40, 0x80, 32, 0x0, 1, [⟨0, 1, .wo, .live, 0⟩, ⟨1, 1, .rw, .live, 0⟩, ⟨2, 1, .wo, .live, 0⟩, ⟨3, 1, .wo, .live, 0⟩, ⟨4, 1, .wo, .live, 0⟩]⟩,
   ⟨0x44, 0x80, 32, 0x0, 1, [⟨0, 3, .rw, .halted, 3⟩, ⟨3, 1, .rw, .halted, 0⟩, ⟨16, 16, .rw, .halted, 0⟩]⟩,
   ⟨0x48, 0x80, 32, 0x0, 1, [⟨0, 32, .rw, .halted, 0⟩]⟩,
   ⟨0x4C, 0x80, 32, 0x0, 1, [⟨0, 4, .ro, .live, 0⟩, ⟨4, 1, .ro, .live, 0⟩, ⟨5, 1, .w1c, .live, 0⟩, ⟨6, 1, .w1c, .live, 0⟩, ⟨7, 1, .w1c, .live, 0⟩, ⟨8, 4, .ro, .live, 0⟩]⟩,
   ⟨0x50, 0x80, 32, 0x0, 1, [⟨0, 3, .rw, .halted, 0⟩, ⟨4, 5, .rw, .halted, 0⟩]⟩,
   ⟨0x54, 0x80, 32, 0x0, 1, [⟨0, 32, .ro, .live, 0⟩]⟩,
   ⟨0x58, 0x80, 32, 0x0, 1, [⟨0, 4, .ro, .live, 0⟩, ⟨4, 1, .ro, .live, 0⟩, ⟨5, 1, .ro, .live, 0⟩, ⟨6, 3, .ro, .live, 0⟩]⟩,
   ⟨0x5C, 0x80, 32, 0x0, 1, [⟨0, 32, .ro, .live, 0⟩]⟩,
   ⟨0x60, 0x80, 32, 0x0, 1, [⟨0, 32, .ro, .live, 0⟩]⟩,
   ⟨0x64, 0x80, 32, 0x0, 1, [⟨0, 16, .ro, .live, 0⟩]⟩,
   ⟨0x68, 0x80, 32, 0x0, 1, [⟨0, 16, .ro, .live, 0⟩, ⟨16, 16, .ro, .live, 0⟩]⟩,
   ⟨0x6C, 0x80, 32, 0x0, 1, [⟨0, 32, .ro, .live, 0⟩]⟩,
   ⟨0x70, 0x80, 32, 0x0, 1, [⟨0, 32, .ro, .live, 0⟩]⟩,
   ⟨0x74, 0x80, 32, 0x0, 1, [⟨0, 24, .rw, .halted, 1⟩]⟩,
   ⟨0x78, 0x80, 32, 0x0, 1, [⟨0, 32, .ro, .live, 0⟩]⟩,
   ⟨0x7C, 0x80, 32, 0x0, 1, [⟨0, 16, .ro, .live, 0⟩]⟩]

/-- Registers of the MEM page (spec file 16). -/
def regsMEM : List RegRow :=
  [
⟨0x40, 0x4, 96, 0x0, 1, [⟨0, 5, .rw, .live, 12⟩, ⟨8, 5, .wo, .live, 0⟩, ⟨16, 1, .rw, .live, 0⟩, ⟨17, 1, .rw, .live, 0⟩, ⟨18, 1, .rw, .live, 0⟩, ⟨24, 1, .ro, .live, 0⟩, ⟨25, 5, .ro, .live, 0⟩]⟩,
   ⟨0x1C0, 0x4, 3, 0x0, 1, [⟨0, 32, .w1c, .live, 0⟩]⟩,
   ⟨0x1CC, 0x0, 1, 0x0, 1, [⟨0, 32, .rc, .live, 0⟩]⟩,
   ⟨0x1D0, 0x0, 1, 0x0, 1, [⟨0, 32, .ro, .live, 0⟩]⟩,
   ⟨0x1D4, 0x0, 1, 0x0, 1, [⟨0, 8, .rw, .live, 16⟩]⟩]

/-- Registers of the CORE page (spec file 14). -/
def regsCORE : List RegRow :=
  [
⟨0x40, 0x0, 1, 0x0, 1, [⟨0, 2, .ro, .live, 0⟩, ⟨2, 1, .ro, .live, 0⟩, ⟨3, 1, .ro, .live, 0⟩, ⟨4, 4, .ro, .live, 0⟩, ⟨8, 8, .ro, .live, 0⟩]⟩,
   ⟨0x44, 0x0, 1, 0x0, 1, [⟨0, 17, .ro, .live, 0⟩]⟩,
   ⟨0x48, 0x0, 1, 0x0, 1, [⟨0, 32, .ro, .live, 0⟩]⟩,
   ⟨0x4C, 0x0, 1, 0x0, 1, [⟨0, 32, .ro, .live, 0⟩]⟩,
   ⟨0x50, 0x0, 1, 0x0, 1, [⟨0, 1, .wo, .live, 0⟩]⟩,
   ⟨0x60, 0x4, 12, 0x0, 1, [⟨0, 12, .rw, .halted, 0⟩, ⟨15, 1, .rw, .halted, 0⟩, ⟨16, 12, .rw, .halted, 0⟩, ⟨31, 1, .rw, .halted, 0⟩]⟩,
   ⟨0x90, 0x0, 1, 0x0, 1, [⟨0, 16, .rw, .live, 0⟩]⟩,
   ⟨0x94, 0x0, 1, 0x0, 1, [⟨0, 32, .ro, .live, 0⟩]⟩,
   ⟨0x98, 0x0, 1, 0x0, 1, [⟨0, 32, .ro, .live, 0⟩]⟩]

/-- Registers of the PCIE page (spec file 20). -/
def regsPCIE : List RegRow :=
  [
⟨0x40, 0x0, 1, 0x0, 1, [⟨0, 1, .ro, .live, 0⟩, ⟨1, 2, .ro, .live, 0⟩, ⟨3, 2, .ro, .live, 0⟩, ⟨5, 1, .ro, .live, 0⟩, ⟨6, 1, .ro, .live, 0⟩]⟩,
   ⟨0x44, 0x0, 1, 0x0, 1, [⟨0, 7, .rw, .live, 18⟩]⟩,
   ⟨0x48, 0x0, 1, 0x0, 1, [⟨0, 32, .ro, .live, 0⟩]⟩,
   ⟨0x4C, 0x0, 1, 0x0, 1, [⟨0, 5, .wo, .live, 0⟩]⟩,
   ⟨0x50, 0x0, 1, 0x0, 1, [⟨0, 32, .rw, .live, 0⟩]⟩,
   ⟨0x54, 0x0, 1, 0x0, 1, [⟨0, 32, .rw, .live, 0⟩]⟩,
   ⟨0x58, 0x0, 1, 0x0, 1, [⟨0, 32, .rw, .live, 0⟩]⟩,
   ⟨0x5C, 0x0, 1, 0x0, 1, [⟨0, 32, .rw, .live, 0⟩]⟩,
   ⟨0x60, 0x0, 1, 0x0, 1, [⟨0, 21, .rw, .live, 0⟩]⟩,
   ⟨0x64, 0x0, 1, 0x0, 1, [⟨0, 1, .wo, .live, 0⟩, ⟨1, 1, .rw, .live, 0⟩]⟩,
   ⟨0x68, 0x0, 1, 0x0, 1, [⟨0, 1, .ro, .live, 0⟩, ⟨1, 3, .ro, .live, 0⟩]⟩,
   ⟨0x80, 0x4, 32, 0x0, 1, [⟨0, 12, .rw, .live, 0⟩, ⟨15, 1, .rw, .live, 0⟩]⟩,
   ⟨0x400, 0x4, 128, 0x0, 1, [⟨0, 32, .rw, .live, 0⟩]⟩,
   ⟨0x600, 0x4, 2, 0x0, 1, [⟨0, 32, .ro, .live, 0⟩]⟩]

/-- Registers of the SPIT page (spec file 20). -/
def regsSPIT : List RegRow :=
  [
⟨0x40, 0x0, 1, 0x0, 1, [⟨0, 1, .rw, .shadow, 0⟩]⟩,
   ⟨0x44, 0x0, 1, 0x0, 1, [⟨0, 8, .ro, .live, 0⟩]⟩]

/-- Registers of the UART page (spec file 20). -/
def regsUART : List RegRow :=
  [
⟨0x40, 0x10, 2, 0x0, 1, [⟨0, 3, .rw, .shadow, 4⟩, ⟨3, 1, .rw, .shadow, 1⟩]⟩,
   ⟨0x44, 0x10, 2, 0x0, 1, [⟨0, 8, .rw, .live, 0⟩, ⟨8, 1, .ro, .live, 0⟩]⟩,
   ⟨0x48, 0x10, 2, 0x0, 1, [⟨0, 7, .ro, .live, 64⟩, ⟨8, 7, .ro, .live, 0⟩, ⟨16, 1, .w1c, .live, 0⟩]⟩,
   ⟨0x60, 0x0, 1, 0x0, 1, [⟨0, 2, .rw, .shadow, 1⟩, ⟨2, 2, .rw, .shadow, 0⟩]⟩,
   ⟨0x64, 0x0, 1, 0x0, 1, [⟨0, 8, .rw, .live, 0⟩, ⟨8, 1, .rw, .live, 0⟩, ⟨9, 5, .rw, .live, 0⟩, ⟨14, 9, .rw, .live, 0⟩, ⟨23, 1, .rw, .live, 0⟩, ⟨31, 1, .wo, .live, 0⟩]⟩,
   ⟨0x68, 0x0, 1, 0x0, 1, [⟨0, 32, .rw, .live, 0⟩]⟩,
   ⟨0x6C, 0x0, 1, 0x0, 1, [⟨0, 32, .rw, .live, 0⟩]⟩,
   ⟨0x70, 0x0, 1, 0x0, 1, [⟨0, 1, .ro, .live, 0⟩]⟩,
   ⟨0x80, 0x0, 1, 0x0, 1, [⟨0, 5, .rw, .live, 0⟩, ⟨5, 5, .rw, .live, 0⟩, ⟨10, 2, .rw, .live, 0⟩, ⟨12, 1, .rw, .live, 0⟩, ⟨13, 1, .rw, .live, 0⟩, ⟨16, 16, .rw, .live, 0⟩]⟩,
   ⟨0x84, 0x0, 1, 0x0, 1, [⟨0, 1, .ro, .live, 0⟩, ⟨16, 16, .ro, .live, 0⟩]⟩]

/-- Registers of the MBX page (spec file 20). -/
def regsMBX : List RegRow :=
  [
⟨0x40, 0x0, 1, 0x0, 1, [⟨0, 7, .rw, .halted, 18⟩, ⟨8, 7, .rw, .halted, 19⟩]⟩,
   ⟨0x44, 0x0, 1, 0x0, 1, [⟨0, 16, .rw, .live, 0⟩]⟩,
   ⟨0x48, 0x0, 1, 0x0, 1, [⟨0, 16, .rw, .live, 0⟩]⟩,
   ⟨0x4C, 0x0, 1, 0x0, 1, [⟨0, 16, .rw, .live, 0⟩]⟩,
   ⟨0x50, 0x0, 1, 0x0, 1, [⟨0, 16, .rw, .live, 0⟩]⟩]

/-- Registers of the AUX page (spec file 11). -/
def regsAUX : List RegRow :=
  [
⟨0x40, 0x0, 1, 0x0, 1, [⟨0, 2, .rw, .shadow, 0⟩, ⟨2, 5, .rw, .shadow, 0⟩, ⟨7, 1, .rw, .live, 0⟩, ⟨8, 20, .rw, .shadow, 0xFFFFF⟩]⟩,
   ⟨0x44, 0x0, 1, 0x0, 1, [⟨0, 20, .rw, .live, 0x80000⟩, ⟨31, 1, .ro, .live, 0⟩]⟩,
   ⟨0x48, 0x0, 1, 0x0, 1, [⟨0, 20, .ro, .live, 0x80000⟩]⟩,
   ⟨0x4C, 0x0, 1, 0x0, 1, [⟨0, 20, .rw, .shadow, 0⟩]⟩,
   ⟨0x50, 0x0, 1, 0x0, 1, [⟨0, 20, .rw, .shadow, 0xFFFFF⟩]⟩,
   ⟨0x54, 0x0, 1, 0x0, 1, [⟨0, 8, .rw, .shadow, 1⟩, ⟨8, 5, .rw, .shadow, 0⟩, ⟨13, 1, .rw, .shadow, 0⟩, ⟨14, 3, .rw, .shadow, 0⟩]⟩,
   ⟨0x58, 0x0, 1, 0x0, 1, [⟨0, 16, .ro, .live, 0⟩, ⟨16, 1, .ro, .live, 0⟩]⟩,
   ⟨0x5C, 0x0, 1, 0x0, 1, [⟨0, 30, .ro, .live, 0⟩]⟩,
   ⟨0x60, 0x4, 8, 0x0, 1, [⟨0, 16, .ro, .live, 0⟩, ⟨16, 1, .ro, .live, 0⟩, ⟨24, 8, .ro, .live, 0⟩]⟩]

/-- Registers of the GPIO page (spec file 20). -/
def regsGPIO : List RegRow :=
  [
⟨0x40, 0x0, 1, 0x0, 1, [⟨0, 16, .ro, .live, 0⟩]⟩,
   ⟨0x44, 0x0, 1, 0x0, 1, [⟨0, 16, .rw, .live, 0⟩]⟩,
   ⟨0x48, 0x0, 1, 0x0, 1, [⟨0, 16, .wo, .live, 0⟩]⟩,
   ⟨0x4C, 0x0, 1, 0x0, 1, [⟨0, 16, .wo, .live, 0⟩]⟩,
   ⟨0x50, 0x0, 1, 0x0, 1, [⟨0, 16, .rw, .live, 0⟩]⟩,
   ⟨0x54, 0x0, 1, 0x0, 1, [⟨0, 16, .rw, .live, 0⟩]⟩,
   ⟨0x58, 0x0, 1, 0x0, 1, [⟨0, 32, .rw, .live, 0⟩]⟩,
   ⟨0x5C, 0x0, 1, 0x0, 1, [⟨0, 32, .rw, .live, 0⟩]⟩,
   ⟨0x60, 0x0, 1, 0x0, 1, [⟨0, 16, .rw, .live, 0⟩]⟩,
   ⟨0x64, 0x0, 1, 0x0, 1, [⟨0, 32, .rw, .live, 0x55555555⟩]⟩]

/-- Registers of the PAIR page (spec file 13). -/
def regsPAIR : List RegRow :=
  [
⟨0x40, 0x0, 1, 0x0, 1, [⟨0, 1, .rw, .halted, 0⟩, ⟨1, 1, .rw, .shadow, 1⟩, ⟨8, 4, .rw, .halted, 0⟩]⟩,
   ⟨0x44, 0x0, 1, 0x0, 1, [⟨0, 3, .wo, .live, 0⟩]⟩,
   ⟨0x48, 0x0, 1, 0x0, 1, [⟨0, 1, .ro, .live, 0⟩, ⟨1, 2, .ro, .live, 0⟩, ⟨3, 2, .ro, .live, 0⟩, ⟨5, 1, .ro, .live, 0⟩, ⟨6, 1, .ro, .live, 0⟩, ⟨7, 1, .ro, .live, 0⟩, ⟨8, 2, .ro, .live, 0⟩]⟩,
   ⟨0x4C, 0x0, 1, 0x0, 1, [⟨0, 32, .ro, .live, 0⟩]⟩,
   ⟨0x50, 0x0, 1, 0x0, 1, [⟨0, 32, .ro, .live, 0⟩]⟩,
   ⟨0x54, 0x0, 1, 0x0, 1, [⟨0, 32, .rw, .shadow, 0⟩]⟩,
   ⟨0x58, 0x0, 1, 0x0, 1, [⟨0, 32, .rw, .halted, 0⟩]⟩,
   ⟨0x5C, 0x0, 1, 0x0, 1, [⟨0, 16, .rw, .halted, 0⟩]⟩,
   ⟨0x60, 0x0, 1, 0x0, 1, [⟨0, 7, .rw, .halted, 0⟩]⟩,
   ⟨0x64, 0x0, 1, 0x0, 1, [⟨0, 8, .rw, .live, 0⟩, ⟨8, 9, .rw, .live, 0⟩]⟩,
   ⟨0x68, 0x0, 1, 0x0, 1, [⟨0, 32, .wo, .live, 0⟩]⟩,
   ⟨0x6C, 0x0, 1, 0x0, 1, [⟨0, 1, .wo, .live, 0⟩, ⟨1, 1, .ro, .live, 0⟩]⟩,
   ⟨0x70, 0x0, 1, 0x0, 1, [⟨0, 3, .ro, .live, 0⟩, ⟨8, 24, .ro, .live, 0⟩]⟩,
   ⟨0x74, 0x0, 1, 0x0, 1, [⟨0, 7, .ro, .live, 0⟩, ⟨8, 24, .ro, .live, 0⟩]⟩]

/-- Registers of the DBG page (spec file 22). -/
def regsDBG : List RegRow :=
  [
]

/-- Table 2-5, with the DBG page of R60. -/
def pageKinds : List PageKind :=
  [
⟨0x40000000, 1, 0x1, 40, .epoch, 1, regsSYS⟩,
   ⟨0x40001000, 1, 0x2, 48, .commit, 1, regsPMU⟩,
   ⟨0x40002000, 1, 0x3, 56, .commit, 1, regsCLK⟩,
   ⟨0x40003000, 1, 0x4, 40, .commit, 1, regsCMON⟩,
   ⟨0x40004000, 1, 0x5, 44, .commitAon, 1, regsRTC⟩,
   ⟨0x40005000, 1, 0x6, 50, .commitAon, 1, regsAON⟩,
   ⟨0x40006000, 1, 0x7, 72, .commit, 1, regsTOC⟩,
   ⟨0x40008000, 1, 0x8, 64, .noShadow, 1, regsNYM⟩,
   ⟨0x40010000, 16, 0x101, 24, .commit, 0, regsRFE⟩,
   ⟨0x40020000, 2, 0x102, 40, .commit, 0, regsSYN⟩,
   ⟨0x40022000, 1, 0x103, 64, .commit, 0, regsCAL⟩,
   ⟨0x40023000, 1, 0x104, 56, .commit, 1, regsANT⟩,
   ⟨0x40030000, 16, 0x105, 72, .smBlock, 0, regsDFE⟩,
   ⟨0x40040000, 2, 0x106, 120, .covBlock, 0, regsARR⟩,
   ⟨0x40042000, 1, 0x107, 139, .epoch, 0, regsXBAR⟩,
   ⟨0x40050000, 1, 0x108, 64, .commit, 0, regsACQ⟩,
   ⟨0x40060000, 1, 0x109, 80, .epoch, 0, regsCOR⟩,
   ⟨0x40061000, 4, 0x10A, 203, .unit, 0, regsCORU⟩,
   ⟨0x40070000, 1, 0x201, 96, .commit, 0, regsCHS⟩,
   ⟨0x40071000, 1, 0x202, 64, .commit, 0, regsCHS2⟩,
   ⟨0x40080000, 1, 0x203, 72, .epoch, 0, regsTBU⟩,
   ⟨0x40081000, 1, 0x204, 139, .drl, 0, regsDRL⟩,
   ⟨0x40082000, 1, 0x205, 64, .second, 0, regsTIO⟩,
   ⟨0x40090000, 1, 0x206, 96, .commit, 0, regsPTP⟩,
   ⟨0x40091000, 4, 0x207, 80, .commit, 0, regsPTPP⟩,
   ⟨0x400A0000, 4, 0x208, 80, .commit, 0, regsETH⟩,
   ⟨0x400B0000, 1, 0x301, 48, .commit, 0, regsDMA⟩,
   ⟨0x400B1000, 1, 0x302, 523, .noShadow, 0, regsDMAC⟩,
   ⟨0x400C0000, 1, 0x303, 128, .noShadow, 1, regsMEM⟩,
   ⟨0x400D0000, 12, 0x304, 40, .noShadow, 0, regsCORE⟩,
   ⟨0x400E0000, 1, 0x401, 72, .commit, 0, regsPCIE⟩,
   ⟨0x400E1000, 1, 0x402, 24, .commit, 0, regsSPIT⟩,
   ⟨0x400E2000, 1, 0x403, 40, .commit, 0, regsUART⟩,
   ⟨0x400E3000, 1, 0x404, 32, .commit, 0, regsMBX⟩,
   ⟨0x400F0000, 1, 0x20A, 40, .commit, 0, regsAUX⟩,
   ⟨0x400F1000, 1, 0x405, 32, .noShadow, 0, regsGPIO⟩,
   ⟨0x40100000, 1, 0x209, 64, .commit, 0, regsPAIR⟩,
   ⟨0x40110000, 1, 0xF01, 11, .noShadow, 0, regsDBG⟩]


end Sys2Proof.Machine
end

