-- ==== Sys2Proof/Machine/RegNames.lean ====
section
/-! DEFINITION. The spec's names for the register addresses and fields of the register map: `R.X` is the address of
register X, `F.X_Y` its field Y (bits as in the register tables of spec/01 to spec/21), `P.X` the base of page X. -/

namespace Sys2Proof.Machine

/-- A field of a register: its address, lowest bit and width. -/
structure Fld where
  addr : Nat
  lsb : Nat
  width : Nat
deriving DecidableEq, Repr

def P.SYS : Nat := 0x40000000
def P.PMU : Nat := 0x40001000
def P.CLK : Nat := 0x40002000
def P.CMON : Nat := 0x40003000
def P.RTC : Nat := 0x40004000
def P.AON : Nat := 0x40005000
def P.TOC : Nat := 0x40006000
def P.NYM : Nat := 0x40008000
def P.RFE (n : Nat) : Nat := 0x40010000 + 0x1000 * n
def P.SYN (n : Nat) : Nat := 0x40020000 + 0x1000 * n
def P.CAL : Nat := 0x40022000
def P.ANT : Nat := 0x40023000
def P.DFE (n : Nat) : Nat := 0x40030000 + 0x1000 * n
def P.ARR (n : Nat) : Nat := 0x40040000 + 0x1000 * n
def P.XBAR : Nat := 0x40042000
def P.ACQ : Nat := 0x40050000
def P.COR : Nat := 0x40060000
def P.CORU (n : Nat) : Nat := 0x40061000 + 0x1000 * n
def P.CHS : Nat := 0x40070000
def P.CHS2 : Nat := 0x40071000
def P.TBU : Nat := 0x40080000
def P.DRL : Nat := 0x40081000
def P.TIO : Nat := 0x40082000
def P.PTP : Nat := 0x40090000
def P.PTPP (n : Nat) : Nat := 0x40091000 + 0x1000 * n
def P.ETH (n : Nat) : Nat := 0x400A0000 + 0x1000 * n
def P.DMA : Nat := 0x400B0000
def P.DMAC : Nat := 0x400B1000
def P.MEM : Nat := 0x400C0000
def P.CORE (n : Nat) : Nat := 0x400D0000 + 0x1000 * n
def P.PCIE : Nat := 0x400E0000
def P.SPIT : Nat := 0x400E1000
def P.UART : Nat := 0x400E2000
def P.MBX : Nat := 0x400E3000
def P.AUX : Nat := 0x400F0000
def P.GPIO : Nat := 0x400F1000
def P.PAIR : Nat := 0x40100000
def P.DBG : Nat := 0x40110000
/-- R23 -/
def R.SYS_MODE : Nat := 0x40000040
def F.SYS_MODE_MODE : Fld := ⟨R.SYS_MODE, 0, 3⟩
def F.SYS_MODE_PREV : Fld := ⟨R.SYS_MODE, 4, 3⟩
def F.SYS_MODE_CAUSE : Fld := ⟨R.SYS_MODE, 8, 4⟩
def F.SYS_MODE_RESUME : Fld := ⟨R.SYS_MODE, 12, 3⟩
def F.SYS_MODE_RESUME_V : Fld := ⟨R.SYS_MODE, 15, 1⟩
def F.SYS_MODE_CMD_DROPPED : Fld := ⟨R.SYS_MODE, 16, 1⟩
def F.SYS_MODE_CMD_REFUSED : Fld := ⟨R.SYS_MODE, 17, 1⟩
def F.SYS_MODE_CMD_PEND : Fld := ⟨R.SYS_MODE, 18, 1⟩
def F.SYS_MODE_ORIGIN : Fld := ⟨R.SYS_MODE, 19, 3⟩
/-- R25 -/
def R.SYS_MODECMD : Nat := 0x40000044
def F.SYS_MODECMD_TARGET : Fld := ⟨R.SYS_MODECMD, 0, 3⟩
def F.SYS_MODECMD_AUTO_TIMING : Fld := ⟨R.SYS_MODECMD, 16, 1⟩
def F.SYS_MODECMD_GO : Fld := ⟨R.SYS_MODECMD, 31, 1⟩
/-- R543 -/
def R.SYS_HOLDCFG : Nat := 0x40000048
def F.SYS_HOLDCFG_ENTRY : Fld := ⟨R.SYS_HOLDCFG, 0, 8⟩
def F.SYS_HOLDCFG_RECOVER : Fld := ⟨R.SYS_HOLDCFG, 8, 8⟩
def F.SYS_HOLDCFG_LIMIT : Fld := ⟨R.SYS_HOLDCFG, 16, 16⟩
/-- R452 -/
def R.PMU_REQ : Nat := 0x40001040
def F.PMU_REQ_TARGET : Fld := ⟨R.PMU_REQ, 0, 3⟩
def F.PMU_REQ_SAVE : Fld := ⟨R.PMU_REQ, 8, 1⟩
def F.PMU_REQ_GO : Fld := ⟨R.PMU_REQ, 31, 1⟩
/-- R452 -/
def R.PMU_STAT : Nat := 0x40001044
def F.PMU_STAT_STATE : Fld := ⟨R.PMU_STAT, 0, 3⟩
def F.PMU_STAT_TARGET : Fld := ⟨R.PMU_STAT, 4, 3⟩
def F.PMU_STAT_PHASE : Fld := ⟨R.PMU_STAT, 8, 3⟩
def F.PMU_STAT_PEND : Fld := ⟨R.PMU_STAT, 12, 3⟩
def F.PMU_STAT_PEND_V : Fld := ⟨R.PMU_STAT, 15, 1⟩
def F.PMU_STAT_ABORT : Fld := ⟨R.PMU_STAT, 16, 3⟩
def F.PMU_STAT_WAKE_SRC : Fld := ⟨R.PMU_STAT, 20, 3⟩
/-- R452 -/
def R.PMU_CFG : Nat := 0x40001048
def F.PMU_CFG_IDLEMASK : Fld := ⟨R.PMU_CFG, 2, 11⟩
def F.PMU_CFG_WTIMER : Fld := ⟨R.PMU_CFG, 16, 1⟩
def F.PMU_CFG_XO_SLEEP : Fld := ⟨R.PMU_CFG, 17, 1⟩
def F.PMU_CFG_WAKE_POL : Fld := ⟨R.PMU_CFG, 18, 1⟩
def F.PMU_CFG_WAKE_EN : Fld := ⟨R.PMU_CFG, 19, 1⟩
def F.PMU_CFG_QTO : Fld := ⟨R.PMU_CFG, 24, 8⟩
/-- R460 -/
def R.PMU_OPP : Nat := 0x4000104C
def F.PMU_OPP_TARGET : Fld := ⟨R.PMU_OPP, 0, 2⟩
def F.PMU_OPP_CUR : Fld := ⟨R.PMU_OPP, 4, 2⟩
def F.PMU_OPP_BUSY : Fld := ⟨R.PMU_OPP, 6, 1⟩
def F.PMU_OPP_PEND : Fld := ⟨R.PMU_OPP, 7, 1⟩
def F.PMU_OPP_FAILED : Fld := ⟨R.PMU_OPP, 8, 1⟩
/-- R460 -/
def R.PMU_DVFS : Nat := 0x40001050
def F.PMU_DVFS_SETTLE : Fld := ⟨R.PMU_DVFS, 0, 8⟩
def F.PMU_DVFS_ACKTO : Fld := ⟨R.PMU_DVFS, 8, 8⟩
def F.PMU_DVFS_AVS : Fld := ⟨R.PMU_DVFS, 16, 1⟩
/-- R454 -/
def R.PMU_WTIMER : Nat := 0x40001054
def F.PMU_WTIMER_LEAD : Fld := ⟨R.PMU_WTIMER, 0, 16⟩
/-- R547 -/
def R.PMU_OPPV (i : Nat) : Nat := 0x40001058 + 0x4 * i
def F.PMU_OPPV_MV (i : Nat) : Fld := ⟨R.PMU_OPPV i, 0, 10⟩
/-- R450 -/
def R.PMU_PROCV : Nat := 0x40001064
def F.PMU_PROCV_MV : Fld := ⟨R.PMU_PROCV, 0, 10⟩
/-- R450 -/
def R.PMU_PMB : Nat := 0x40001068
def F.PMU_PMB_ENG_ADDR : Fld := ⟨R.PMU_PMB, 0, 7⟩
def F.PMU_PMB_PROC_ADDR : Fld := ⟨R.PMU_PMB, 8, 7⟩
def F.PMU_PMB_PEC : Fld := ⟨R.PMU_PMB, 16, 1⟩
/-- R450 -/
def R.PMU_PMBSTAT : Nat := 0x4000106C
def F.PMU_PMBSTAT_STATUS_WORD : Fld := ⟨R.PMU_PMBSTAT, 0, 16⟩
def F.PMU_PMBSTAT_ALERT : Fld := ⟨R.PMU_PMBSTAT, 16, 1⟩
def F.PMU_PMBSTAT_SOURCE : Fld := ⟨R.PMU_PMBSTAT, 17, 1⟩
/-- R449 -/
def R.PMU_RAILS : Nat := 0x40001070
def F.PMU_RAILS_RAILS : Fld := ⟨R.PMU_RAILS, 0, 9⟩
/-- R473 -/
def R.PMU_RSTCAUSE : Nat := 0x40001074
def F.PMU_RSTCAUSE_CAUSE : Fld := ⟨R.PMU_RSTCAUSE, 0, 8⟩
/-- R458 -/
def R.PMU_RETSTAT : Nat := 0x40001078
def F.PMU_RETSTAT_VALID : Fld := ⟨R.PMU_RETSTAT, 0, 1⟩
def F.PMU_RETSTAT_CRC_BAD : Fld := ⟨R.PMU_RETSTAT, 1, 1⟩
def F.PMU_RETSTAT_KIND : Fld := ⟨R.PMU_RETSTAT, 2, 2⟩
def F.PMU_RETSTAT_SAVES : Fld := ⟨R.PMU_RETSTAT, 16, 16⟩
/-- R458 -/
def R.PMU_RETIDX : Nat := 0x4000107C
def F.PMU_RETIDX_INDEX : Fld := ⟨R.PMU_RETIDX, 0, 6⟩
/-- R458 -/
def R.PMU_RETDATA : Nat := 0x40001080
def F.PMU_RETDATA_DATA : Fld := ⟨R.PMU_RETDATA, 0, 32⟩
/-- R454 -/
def R.PMU_WSHAD0 : Nat := 0x40001084
def F.PMU_WSHAD0_NS : Fld := ⟨R.PMU_WSHAD0, 0, 30⟩
def F.PMU_WSHAD0_VALID : Fld := ⟨R.PMU_WSHAD0, 31, 1⟩
/-- R454 -/
def R.PMU_WSHAD1 : Nat := 0x40001088
def F.PMU_WSHAD1_SEC : Fld := ⟨R.PMU_WSHAD1, 0, 32⟩
/-- R463 -/
def R.CLK_ROOTCFG : Nat := 0x40002040
def F.CLK_ROOTCFG_REF : Fld := ⟨R.CLK_ROOTCFG, 0, 3⟩
def F.CLK_ROOTCFG_EN : Fld := ⟨R.CLK_ROOTCFG, 8, 1⟩
/-- R463 -/
def R.CLK_ROOTSTAT : Nat := 0x40002044
def F.CLK_ROOTSTAT_LOCK : Fld := ⟨R.CLK_ROOTSTAT, 0, 1⟩
def F.CLK_ROOTSTAT_REF : Fld := ⟨R.CLK_ROOTSTAT, 1, 3⟩
def F.CLK_ROOTSTAT_HOLD : Fld := ⟨R.CLK_ROOTSTAT, 4, 1⟩
def F.CLK_ROOTSTAT_XO_STABLE : Fld := ⟨R.CLK_ROOTSTAT, 5, 1⟩
def F.CLK_ROOTSTAT_REFIN_STABLE : Fld := ⟨R.CLK_ROOTSTAT, 6, 1⟩
def F.CLK_ROOTSTAT_IRO_READY : Fld := ⟨R.CLK_ROOTSTAT, 7, 1⟩
/-- R464 -/
def R.CLK_RUN : Nat := 0x40002048
def F.CLK_RUN_RUN : Fld := ⟨R.CLK_RUN, 2, 11⟩
/-- R464 -/
def R.CLK_SRC : Nat := 0x4000204C
def F.CLK_SRC_SRC : Fld := ⟨R.CLK_SRC, 2, 11⟩
/-- R465 -/
def R.CLK_STAT : Nat := 0x40002050
def F.CLK_STAT_BUSY : Fld := ⟨R.CLK_STAT, 2, 11⟩
def F.CLK_STAT_FORCED : Fld := ⟨R.CLK_STAT, 18, 11⟩
/-- R461 -/
def R.CLK_DIV : Nat := 0x40002054
def F.CLK_DIV_CORR : Fld := ⟨R.CLK_DIV, 0, 2⟩
def F.CLK_DIV_ACQ : Fld := ⟨R.CLK_DIV, 4, 2⟩
/-- R466 -/
def R.CLK_GATE0 : Nat := 0x40002058
def F.CLK_GATE0_GATE : Fld := ⟨R.CLK_GATE0, 0, 32⟩
/-- R466 -/
def R.CLK_GATE1 : Nat := 0x4000205C
def F.CLK_GATE1_GATE : Fld := ⟨R.CLK_GATE1, 0, 32⟩
/-- R468 -/
def R.CMON_POLICY : Nat := 0x40003040
def F.CMON_POLICY_POLICY : Fld := ⟨R.CMON_POLICY, 0, 12⟩
/-- R468 -/
def R.CMON_STAT : Nat := 0x40003044
def F.CMON_STAT_ARMED : Fld := ⟨R.CMON_STAT, 0, 6⟩
def F.CMON_STAT_TRIP : Fld := ⟨R.CMON_STAT, 8, 6⟩
def F.CMON_STAT_SAFE_WAIT : Fld := ⟨R.CMON_STAT, 16, 1⟩
def F.CMON_STAT_IRO_READY : Fld := ⟨R.CMON_STAT, 17, 1⟩
/-- R468 -/
def R.CMON_ERR : Nat := 0x40003048
def F.CMON_ERR_TRIPPED : Fld := ⟨R.CMON_ERR, 0, 6⟩
def F.CMON_ERR_FALLBACK_NOT_READY : Fld := ⟨R.CMON_ERR, 8, 1⟩
def F.CMON_ERR_IRO_FAIL : Fld := ⟨R.CMON_ERR, 9, 1⟩
/-- R467 -/
def R.CMON_WIN (i : Nat) : Nat := 0x40003050 + 0x4 * i
def F.CMON_WIN_WIN (i : Nat) : Fld := ⟨R.CMON_WIN i, 0, 16⟩
/-- R467 -/
def R.CMON_MEAS (i : Nat) : Nat := 0x40003070 + 0x4 * i
def F.CMON_MEAS_DEV (i : Nat) : Fld := ⟨R.CMON_MEAS i, 0, 32⟩
/-- R478 -/
def R.RTC_CNT0 : Nat := 0x40004040
def F.RTC_CNT0_SEC : Fld := ⟨R.RTC_CNT0, 0, 32⟩
/-- R478 -/
def R.RTC_CNT1 : Nat := 0x40004044
def F.RTC_CNT1_SEC : Fld := ⟨R.RTC_CNT1, 0, 16⟩
/-- R478 -/
def R.RTC_SUB : Nat := 0x40004048
def F.RTC_SUB_SUB : Fld := ⟨R.RTC_SUB, 0, 15⟩
/-- R482 -/
def R.RTC_SET0 : Nat := 0x4000404C
def F.RTC_SET0_SEC : Fld := ⟨R.RTC_SET0, 0, 32⟩
/-- R482 -/
def R.RTC_SET1 : Nat := 0x40004050
def F.RTC_SET1_SEC : Fld := ⟨R.RTC_SET1, 0, 16⟩
/-- R482 -/
def R.RTC_SETSUB : Nat := 0x40004054
def F.RTC_SETSUB_SUB : Fld := ⟨R.RTC_SETSUB, 0, 15⟩
/-- R483 -/
def R.RTC_CAL0 : Nat := 0x40004058
def F.RTC_CAL0_SEC : Fld := ⟨R.RTC_CAL0, 0, 6⟩
def F.RTC_CAL0_MIN : Fld := ⟨R.RTC_CAL0, 8, 6⟩
def F.RTC_CAL0_HOUR : Fld := ⟨R.RTC_CAL0, 16, 5⟩
def F.RTC_CAL0_DAY : Fld := ⟨R.RTC_CAL0, 24, 6⟩
/-- R483 -/
def R.RTC_CAL1 : Nat := 0x4000405C
def F.RTC_CAL1_MONTH : Fld := ⟨R.RTC_CAL1, 0, 4⟩
def F.RTC_CAL1_YEAR : Fld := ⟨R.RTC_CAL1, 8, 8⟩
/-- R483 -/
def R.RTC_CALSET0 : Nat := 0x40004060
def F.RTC_CALSET0_SEC : Fld := ⟨R.RTC_CALSET0, 0, 6⟩
def F.RTC_CALSET0_MIN : Fld := ⟨R.RTC_CALSET0, 8, 6⟩
def F.RTC_CALSET0_HOUR : Fld := ⟨R.RTC_CALSET0, 16, 5⟩
def F.RTC_CALSET0_DAY : Fld := ⟨R.RTC_CALSET0, 24, 6⟩
/-- R483 -/
def R.RTC_CALSET1 : Nat := 0x40004064
def F.RTC_CALSET1_MONTH : Fld := ⟨R.RTC_CALSET1, 0, 4⟩
def F.RTC_CALSET1_YEAR : Fld := ⟨R.RTC_CALSET1, 8, 8⟩
/-- R480 -/
def R.RTC_TRIM : Nat := 0x40004068
def F.RTC_TRIM_N : Fld := ⟨R.RTC_TRIM, 0, 11⟩
/-- R481 -/
def R.RTC_UNCPPB : Nat := 0x4000406C
def F.RTC_UNCPPB_PPB : Fld := ⟨R.RTC_UNCPPB, 0, 20⟩
/-- R482 -/
def R.RTC_SETUNC : Nat := 0x40004070
def F.RTC_SETUNC_UNC : Fld := ⟨R.RTC_SETUNC, 0, 32⟩
/-- R481 -/
def R.RTC_UNC : Nat := 0x40004074
def F.RTC_UNC_UNC : Fld := ⟨R.RTC_UNC, 0, 32⟩
/-- R484 -/
def R.RTC_ALARM0 : Nat := 0x40004078
def F.RTC_ALARM0_SEC : Fld := ⟨R.RTC_ALARM0, 0, 32⟩
/-- R484 -/
def R.RTC_ALARM1 : Nat := 0x4000407C
def F.RTC_ALARM1_SEC : Fld := ⟨R.RTC_ALARM1, 0, 16⟩
/-- R484 -/
def R.RTC_ALARMCTL : Nat := 0x40004080
def F.RTC_ALARMCTL_EN : Fld := ⟨R.RTC_ALARMCTL, 0, 1⟩
def F.RTC_ALARMCTL_REARM : Fld := ⟨R.RTC_ALARMCTL, 1, 1⟩
/-- R484 -/
def R.RTC_STAT : Nat := 0x40004084
def F.RTC_STAT_VALID : Fld := ⟨R.RTC_STAT, 0, 1⟩
def F.RTC_STAT_SUSPECT : Fld := ⟨R.RTC_STAT, 1, 1⟩
def F.RTC_STAT_ARMED : Fld := ⟨R.RTC_STAT, 2, 1⟩
def F.RTC_STAT_ALARM_FIRED : Fld := ⟨R.RTC_STAT, 4, 1⟩
def F.RTC_STAT_ALARM_SKIPPED : Fld := ⟨R.RTC_STAT, 5, 1⟩
def F.RTC_STAT_ALARM_PAST : Fld := ⟨R.RTC_STAT, 6, 1⟩
/-- R482 -/
def R.RTC_CTL : Nat := 0x40004088
def F.RTC_CTL_SET_TBU : Fld := ⟨R.RTC_CTL, 0, 1⟩
/-- R486 -/
def R.RTC_FIRSTSW0 : Nat := 0x4000408C
def F.RTC_FIRSTSW0_SEC : Fld := ⟨R.RTC_FIRSTSW0, 0, 32⟩
/-- R486 -/
def R.RTC_FIRSTSW1 : Nat := 0x40004090
def F.RTC_FIRSTSW1_SEC : Fld := ⟨R.RTC_FIRSTSW1, 0, 16⟩
def F.RTC_FIRSTSW1_SUB : Fld := ⟨R.RTC_FIRSTSW1, 16, 15⟩
def F.RTC_FIRSTSW1_VALID : Fld := ⟨R.RTC_FIRSTSW1, 31, 1⟩
/-- R487 -/
def R.AON_STAT : Nat := 0x40005040
def F.AON_STAT_BOR : Fld := ⟨R.AON_STAT, 0, 1⟩
def F.AON_STAT_VBAT_LOW : Fld := ⟨R.AON_STAT, 1, 1⟩
/-- R486 -/
def R.AON_SWCNT : Nat := 0x40005044
def F.AON_SWCNT_COUNT : Fld := ⟨R.AON_SWCNT, 0, 16⟩
/-- R478 -/
def R.AON_RAW0 : Nat := 0x40005048
def F.AON_RAW0_RAW : Fld := ⟨R.AON_RAW0, 0, 32⟩
/-- R478 -/
def R.AON_RAW1 : Nat := 0x4000504C
def F.AON_RAW1_RAW : Fld := ⟨R.AON_RAW1, 0, 16⟩
/-- R488 -/
def R.AON_VBAT : Nat := 0x40005050
def F.AON_VBAT_VBAT : Fld := ⟨R.AON_VBAT, 0, 10⟩
/-- R490 -/
def R.AON_FATSTAT : Nat := 0x40005054
def F.AON_FATSTAT_NEWEST : Fld := ⟨R.AON_FATSTAT, 0, 3⟩
def F.AON_FATSTAT_VALID : Fld := ⟨R.AON_FATSTAT, 3, 8⟩
def F.AON_FATSTAT_COUNT : Fld := ⟨R.AON_FATSTAT, 16, 8⟩
/-- R490 -/
def R.AON_FATCTL : Nat := 0x40005058
def F.AON_FATCTL_CLEAR : Fld := ⟨R.AON_FATCTL, 0, 1⟩
/-- R490 -/
def R.AON_FAT (i k : Nat) : Nat := 0x40005080 + 0x10 * i + 0x4 * k
def F.AON_FAT_WORD (i k : Nat) : Fld := ⟨R.AON_FAT i k, 0, 32⟩
/-- R514 -/
def R.TOC_STAT : Nat := 0x40006040
def F.TOC_STAT_NMI_ACTIVE : Fld := ⟨R.TOC_STAT, 0, 1⟩
def F.TOC_STAT_MISSED : Fld := ⟨R.TOC_STAT, 1, 1⟩
def F.TOC_STAT_ESC : Fld := ⟨R.TOC_STAT, 2, 1⟩
def F.TOC_STAT_FAULT_ACTIVE : Fld := ⟨R.TOC_STAT, 3, 1⟩
def F.TOC_STAT_DEPTH : Fld := ⟨R.TOC_STAT, 4, 6⟩
/-- R514 -/
def R.TOC_CFG : Nat := 0x40006044
def F.TOC_CFG_LOG_INFO : Fld := ⟨R.TOC_CFG, 0, 1⟩
def F.TOC_CFG_WIN : Fld := ⟨R.TOC_CFG, 8, 8⟩
def F.TOC_CFG_ESCTO : Fld := ⟨R.TOC_CFG, 16, 8⟩
/-- R516 -/
def R.TOC_NMIACK : Nat := 0x40006048
def F.TOC_NMIACK_KEY : Fld := ⟨R.TOC_NMIACK, 0, 32⟩
/-- R519 -/
def R.TOC_ESC : Nat := 0x4000604C
def F.TOC_ESC_ACTION : Fld := ⟨R.TOC_ESC, 0, 2⟩
def F.TOC_ESC_KEEP_TIME : Fld := ⟨R.TOC_ESC, 2, 1⟩
/-- R515 -/
def R.TOC_LOG (i : Nat) : Nat := 0x40006050 + 0x4 * i
def F.TOC_LOG_WORD (i : Nat) : Fld := ⟨R.TOC_LOG i, 0, 32⟩
/-- R515 -/
def R.TOC_LOGPOP : Nat := 0x40006060
def F.TOC_LOGPOP_POP : Fld := ⟨R.TOC_LOGPOP, 0, 1⟩
/-- R515 -/
def R.TOC_OVF : Nat := 0x40006064
def F.TOC_OVF_COUNT : Fld := ⟨R.TOC_OVF, 0, 16⟩
/-- R523 -/
def R.TOC_NOCDISC : Nat := 0x40006068
def F.TOC_NOCDISC_COUNT : Fld := ⟨R.TOC_NOCDISC, 0, 32⟩
/-- R519 -/
def R.TOC_ESCCNT : Nat := 0x4000606C
def F.TOC_ESCCNT_ESC : Fld := ⟨R.TOC_ESCCNT, 0, 16⟩
def F.TOC_ESCCNT_PLANE : Fld := ⟨R.TOC_ESCCNT, 16, 16⟩
/-- R432 -/
def R.NYM_STAT : Nat := 0x40008040
def F.NYM_STAT_LCS : Fld := ⟨R.NYM_STAT, 0, 3⟩
def F.NYM_STAT_APPROVED : Fld := ⟨R.NYM_STAT, 3, 1⟩
def F.NYM_STAT_ERROR : Fld := ⟨R.NYM_STAT, 4, 1⟩
def F.NYM_STAT_MEAS_V : Fld := ⟨R.NYM_STAT, 5, 1⟩
def F.NYM_STAT_DEBUG : Fld := ⟨R.NYM_STAT, 6, 1⟩
def F.NYM_STAT_SVC_GRANT : Fld := ⟨R.NYM_STAT, 7, 1⟩
def F.NYM_STAT_BOOT : Fld := ⟨R.NYM_STAT, 8, 4⟩
def F.NYM_STAT_SOURCE : Fld := ⟨R.NYM_STAT, 12, 2⟩
def F.NYM_STAT_OWNER_SLOT : Fld := ⟨R.NYM_STAT, 14, 2⟩
/-- R437 -/
def R.NYM_SVN : Nat := 0x40008044
def F.NYM_SVN_SVN : Fld := ⟨R.NYM_SVN, 0, 32⟩
/-- R445 -/
def R.NYM_TAMPER : Nat := 0x40008048
def F.NYM_TAMPER_NOW : Fld := ⟨R.NYM_TAMPER, 0, 3⟩
def F.NYM_TAMPER_SEEN : Fld := ⟨R.NYM_TAMPER, 8, 3⟩
def F.NYM_TAMPER_COUNT : Fld := ⟨R.NYM_TAMPER, 16, 16⟩
/-- R425 -/
def R.NYM_INTEG : Nat := 0x4000804C
def F.NYM_INTEG_WORD : Fld := ⟨R.NYM_INTEG, 0, 32⟩
/-- R425 -/
def R.NYM_INTEGEP : Nat := 0x40008050
def F.NYM_INTEGEP_EPOCH : Fld := ⟨R.NYM_INTEGEP, 0, 8⟩
/-- R424 -/
def R.NYM_CMD (i : Nat) : Nat := 0x40008080 + 0x80 * i
def F.NYM_CMD_OP (i : Nat) : Fld := ⟨R.NYM_CMD i, 0, 8⟩
def F.NYM_CMD_ARG (i : Nat) : Fld := ⟨R.NYM_CMD i, 8, 8⟩
/-- R424 -/
def R.NYM_RSTAT (i : Nat) : Nat := 0x40008084 + 0x80 * i
def F.NYM_RSTAT_BUSY (i : Nat) : Fld := ⟨R.NYM_RSTAT i, 0, 1⟩
def F.NYM_RSTAT_APPROVED (i : Nat) : Fld := ⟨R.NYM_RSTAT i, 1, 1⟩
def F.NYM_RSTAT_RESULT (i : Nat) : Fld := ⟨R.NYM_RSTAT i, 8, 4⟩
def F.NYM_RSTAT_OUTLEN (i : Nat) : Fld := ⟨R.NYM_RSTAT i, 16, 8⟩
/-- R424 -/
def R.NYM_BUF (i : Nat) : Nat := 0x40008088 + 0x80 * i
def F.NYM_BUF_ADDR (i : Nat) : Fld := ⟨R.NYM_BUF i, 0, 32⟩
/-- R424 -/
def R.NYM_LEN (i : Nat) : Nat := 0x4000808C + 0x80 * i
def F.NYM_LEN_LEN (i : Nat) : Fld := ⟨R.NYM_LEN i, 0, 24⟩
/-- R424 -/
def R.NYM_DATA (i k : Nat) : Nat := 0x40008090 + 0x80 * i + 0x4 * k
def F.NYM_DATA_DATA (i k : Nat) : Fld := ⟨R.NYM_DATA i k, 0, 32⟩
/-- R63 -/
def R.RFE_CFG (n : Nat) : Nat := 0x40010040 + 0x1000 * n
def F.RFE_CFG_BAND (n : Nat) : Fld := ⟨R.RFE_CFG n, 0, 1⟩
def F.RFE_CFG_ELEMENT (n : Nat) : Fld := ⟨R.RFE_CFG n, 1, 3⟩
def F.RFE_CFG_IF_BW (n : Nat) : Fld := ⟨R.RFE_CFG n, 4, 2⟩
/-- R69 -/
def R.RFE_GAIN (n : Nat) : Nat := 0x40010044 + 0x1000 * n
def F.RFE_GAIN_LNA_STEP (n : Nat) : Fld := ⟨R.RFE_GAIN n, 0, 3⟩
def F.RFE_GAIN_VGA_MAN (n : Nat) : Fld := ⟨R.RFE_GAIN n, 8, 7⟩
/-- R69 -/
def R.RFE_AGC (n : Nat) : Nat := 0x40010048 + 0x1000 * n
def F.RFE_AGC_MODE (n : Nat) : Fld := ⟨R.RFE_AGC n, 0, 2⟩
def F.RFE_AGC_TARGET (n : Nat) : Fld := ⟨R.RFE_AGC n, 8, 8⟩
def F.RFE_AGC_STEP_MAX (n : Nat) : Fld := ⟨R.RFE_AGC n, 16, 4⟩
/-- R70 -/
def R.RFE_AGCSTAT (n : Nat) : Nat := 0x4001004C + 0x1000 * n
def F.RFE_AGCSTAT_VGA (n : Nat) : Fld := ⟨R.RFE_AGCSTAT n, 0, 7⟩
def F.RFE_AGCSTAT_LNA (n : Nat) : Fld := ⟨R.RFE_AGCSTAT n, 8, 3⟩
def F.RFE_AGCSTAT_RMS (n : Nat) : Fld := ⟨R.RFE_AGCSTAT n, 16, 8⟩
def F.RFE_AGCSTAT_AT_MIN (n : Nat) : Fld := ⟨R.RFE_AGCSTAT n, 24, 1⟩
def F.RFE_AGCSTAT_AT_MAX (n : Nat) : Fld := ⟨R.RFE_AGCSTAT n, 25, 1⟩
def F.RFE_AGCSTAT_NO_UPDATE (n : Nat) : Fld := ⟨R.RFE_AGCSTAT n, 26, 1⟩
/-- R67 -/
def R.RFE_STAT (n : Nat) : Nat := 0x40010050 + 0x1000 * n
def F.RFE_STAT_INVALID (n : Nat) : Fld := ⟨R.RFE_STAT n, 0, 1⟩
def F.RFE_STAT_INV_CAUSE (n : Nat) : Fld := ⟨R.RFE_STAT n, 1, 3⟩
def F.RFE_STAT_OVL (n : Nat) : Fld := ⟨R.RFE_STAT n, 4, 1⟩
/-- R72 -/
def R.RFE_CLIPCNT (n : Nat) : Nat := 0x40010054 + 0x1000 * n
def F.RFE_CLIPCNT_COUNT (n : Nat) : Fld := ⟨R.RFE_CLIPCNT n, 0, 32⟩
/-- R75 -/
def R.SYN_CTRL (n : Nat) : Nat := 0x40020040 + 0x1000 * n
def F.SYN_CTRL_CAL (n : Nat) : Fld := ⟨R.SYN_CTRL n, 0, 1⟩
/-- R74 -/
def R.SYN_FREQ (n : Nat) : Nat := 0x40020044 + 0x1000 * n
def F.SYN_FREQ_FRAC (n : Nat) : Fld := ⟨R.SYN_FREQ n, 0, 24⟩
def F.SYN_FREQ_INT (n : Nat) : Fld := ⟨R.SYN_FREQ n, 24, 6⟩
/-- R77 -/
def R.SYN_STAT (n : Nat) : Nat := 0x40020048 + 0x1000 * n
def F.SYN_STAT_LOCK (n : Nat) : Fld := ⟨R.SYN_STAT n, 0, 1⟩
def F.SYN_STAT_CALIBRATING (n : Nat) : Fld := ⟨R.SYN_STAT n, 1, 1⟩
def F.SYN_STAT_SETTLING (n : Nat) : Fld := ⟨R.SYN_STAT n, 2, 1⟩
def F.SYN_STAT_ON (n : Nat) : Fld := ⟨R.SYN_STAT n, 3, 1⟩
def F.SYN_STAT_PHASE_EPOCH (n : Nat) : Fld := ⟨R.SYN_STAT n, 8, 8⟩
def F.SYN_STAT_LAST_CAL (n : Nat) : Fld := ⟨R.SYN_STAT n, 16, 2⟩
/-- R76 -/
def R.SYN_ACT (n : Nat) : Nat := 0x4002004C + 0x1000 * n
def F.SYN_ACT_FREQ (n : Nat) : Fld := ⟨R.SYN_ACT n, 0, 30⟩
/-- R75 -/
def R.SYN_CALFREQ (n : Nat) : Nat := 0x40020050 + 0x1000 * n
def F.SYN_CALFREQ_FREQ (n : Nat) : Fld := ⟨R.SYN_CALFREQ n, 0, 30⟩
/-- R75 -/
def R.SYN_TCAL (n : Nat) : Nat := 0x40020054 + 0x1000 * n
def F.SYN_TCAL_DELTA (n : Nat) : Fld := ⟨R.SYN_TCAL n, 0, 6⟩
/-- R75 -/
def R.SYN_TEMP (n : Nat) : Nat := 0x40020058 + 0x1000 * n
def F.SYN_TEMP_NOW (n : Nat) : Fld := ⟨R.SYN_TEMP n, 0, 12⟩
def F.SYN_TEMP_AT_CAL (n : Nat) : Fld := ⟨R.SYN_TEMP n, 16, 12⟩
def F.SYN_TEMP_CAL_V (n : Nat) : Fld := ⟨R.SYN_TEMP n, 31, 1⟩
/-- R80 -/
def R.SYN_COUNT (n : Nat) : Nat := 0x4002005C + 0x1000 * n
def F.SYN_COUNT_CALS (n : Nat) : Fld := ⟨R.SYN_COUNT n, 0, 16⟩
def F.SYN_COUNT_LOSSES (n : Nat) : Fld := ⟨R.SYN_COUNT n, 16, 16⟩
/-- R94 -/
def R.CAL_CMD : Nat := 0x40022040
def F.CAL_CMD_GO : Fld := ⟨R.CAL_CMD, 0, 1⟩
def F.CAL_CMD_STOP : Fld := ⟨R.CAL_CMD, 1, 1⟩
/-- R93 -/
def R.CAL_CFG : Nat := 0x40022044
def F.CAL_CFG_SYN : Fld := ⟨R.CAL_CFG, 0, 1⟩
def F.CAL_CFG_ROUTE : Fld := ⟨R.CAL_CFG, 1, 1⟩
def F.CAL_CFG_CODE : Fld := ⟨R.CAL_CFG, 2, 6⟩
/-- R93 -/
def R.CAL_OFFSET : Nat := 0x40022048
def F.CAL_OFFSET_OFFSET : Fld := ⟨R.CAL_OFFSET, 0, 32⟩
/-- R100 -/
def R.CAL_LEVEL : Nat := 0x4002204C
def F.CAL_LEVEL_LEVEL : Fld := ⟨R.CAL_LEVEL, 0, 8⟩
/-- R99 -/
def R.CAL_SEQ : Nat := 0x40022050
def F.CAL_SEQ_GAP1 : Fld := ⟨R.CAL_SEQ, 0, 10⟩
def F.CAL_SEQ_GAP2 : Fld := ⟨R.CAL_SEQ, 10, 10⟩
def F.CAL_SEQ_GAP3 : Fld := ⟨R.CAL_SEQ, 20, 10⟩
/-- R99 -/
def R.CAL_POL : Nat := 0x40022054
def F.CAL_POL_POL : Fld := ⟨R.CAL_POL, 0, 4⟩
/-- R101 -/
def R.CAL_MATCH : Nat := 0x40022058
def F.CAL_MATCH_SHUNT : Fld := ⟨R.CAL_MATCH, 0, 4⟩
def F.CAL_MATCH_SERIES : Fld := ⟨R.CAL_MATCH, 4, 4⟩
def F.CAL_MATCH_RL_TH : Fld := ⟨R.CAL_MATCH, 8, 6⟩
/-- R98 -/
def R.CAL_HOLD : Nat := 0x4002205C
def F.CAL_HOLD_TIMEOUT : Fld := ⟨R.CAL_HOLD, 0, 8⟩
/-- R96 -/
def R.CAL_STAT : Nat := 0x40022060
def F.CAL_STAT_STATE : Fld := ⟨R.CAL_STAT, 0, 3⟩
def F.CAL_STAT_LINES : Fld := ⟨R.CAL_STAT, 4, 4⟩
def F.CAL_STAT_LEVEL_OK : Fld := ⟨R.CAL_STAT, 8, 1⟩
def F.CAL_STAT_GO_TIMEOUT : Fld := ⟨R.CAL_STAT, 16, 1⟩
def F.CAL_STAT_GO_BUSY : Fld := ⟨R.CAL_STAT, 17, 1⟩
def F.CAL_STAT_SYN_STOP : Fld := ⟨R.CAL_STAT, 18, 1⟩
def F.CAL_STAT_MISMATCH_STOP : Fld := ⟨R.CAL_STAT, 19, 1⟩
def F.CAL_STAT_MODE_STOP : Fld := ⟨R.CAL_STAT, 20, 1⟩
def F.CAL_STAT_REFUSE : Fld := ⟨R.CAL_STAT, 24, 3⟩
/-- R102 -/
def R.CAL_LATCH : Nat := 0x40022064
def F.CAL_LATCH_FRAC : Fld := ⟨R.CAL_LATCH, 0, 18⟩
def F.CAL_LATCH_CHIP : Fld := ⟨R.CAL_LATCH, 18, 14⟩
/-- R102 -/
def R.CAL_LATCHV : Nat := 0x40022068
def F.CAL_LATCHV_VALID : Fld := ⟨R.CAL_LATCHV, 0, 1⟩
/-- R101 -/
def R.CAL_RL : Nat := 0x4002206C
def F.CAL_RL_RL : Fld := ⟨R.CAL_RL, 0, 10⟩
def F.CAL_RL_PWR : Fld := ⟨R.CAL_RL, 16, 10⟩
/-- R547 -/
def R.CAL_INTDLY : Nat := 0x40022070
def F.CAL_INTDLY_BAND_U : Fld := ⟨R.CAL_INTDLY, 0, 16⟩
def F.CAL_INTDLY_BAND_L : Fld := ⟨R.CAL_INTDLY, 16, 16⟩
/-- R89 -/
def R.ANT_EN : Nat := 0x40023040
def F.ANT_EN_PATTERN : Fld := ⟨R.ANT_EN, 0, 8⟩
/-- R89 -/
def R.ANT_RETAIN : Nat := 0x40023044
def F.ANT_RETAIN_PATTERN : Fld := ⟨R.ANT_RETAIN, 0, 8⟩
def F.ANT_RETAIN_VALID : Fld := ⟨R.ANT_RETAIN, 8, 1⟩
/-- R88 -/
def R.ANT_VANT : Nat := 0x40023048
def F.ANT_VANT_VOLT : Fld := ⟨R.ANT_VANT, 0, 10⟩
def F.ANT_VANT_UV : Fld := ⟨R.ANT_VANT, 16, 1⟩
def F.ANT_VANT_OV : Fld := ⟨R.ANT_VANT, 17, 1⟩
/-- R87 -/
def R.ANT_REARM : Nat := 0x4002304C
def F.ANT_REARM_REARM : Fld := ⟨R.ANT_REARM, 0, 8⟩
/-- R85 -/
def R.ANT_STAT : Nat := 0x40023050
def F.ANT_STAT_ON : Fld := ⟨R.ANT_STAT, 0, 8⟩
def F.ANT_STAT_LIMITING : Fld := ⟨R.ANT_STAT, 8, 8⟩
def F.ANT_STAT_FOLDED : Fld := ⟨R.ANT_STAT, 16, 8⟩
def F.ANT_STAT_OPEN : Fld := ⟨R.ANT_STAT, 24, 8⟩
/-- R87 -/
def R.ANT_STAT2 : Nat := 0x40023054
def F.ANT_STAT2_HOT : Fld := ⟨R.ANT_STAT2, 0, 8⟩
/-- R85 -/
def R.ANT_CFG (i : Nat) : Nat := 0x40023060 + 0x4 * i
def F.ANT_CFG_ILIM (i : Nat) : Fld := ⟨R.ANT_CFG i, 0, 8⟩
def F.ANT_CFG_OPEN_TH (i : Nat) : Fld := ⟨R.ANT_CFG i, 8, 4⟩
def F.ANT_CFG_BLANK (i : Nat) : Fld := ⟨R.ANT_CFG i, 12, 8⟩
def F.ANT_CFG_AUTORETRY (i : Nat) : Fld := ⟨R.ANT_CFG i, 20, 1⟩
/-- R546 -/
def R.ANT_MEAS (i : Nat) : Nat := 0x40023080 + 0x4 * i
def F.ANT_MEAS_CUR (i : Nat) : Fld := ⟨R.ANT_MEAS i, 0, 10⟩
def F.ANT_MEAS_VOUT (i : Nat) : Fld := ⟨R.ANT_MEAS i, 16, 10⟩
/-- R116 -/
def R.DFE_CTL (n : Nat) : Nat := 0x40030040 + 0x1000 * n
def F.DFE_CTL_CORR_MODE (n : Nat) : Fld := ⟨R.DFE_CTL n, 0, 2⟩
def F.DFE_CTL_NLINK (n : Nat) : Fld := ⟨R.DFE_CTL n, 2, 1⟩
def F.DFE_CTL_BLINK (n : Nat) : Fld := ⟨R.DFE_CTL n, 3, 1⟩
def F.DFE_CTL_SM_SRC (n : Nat) : Fld := ⟨R.DFE_CTL n, 4, 1⟩
def F.DFE_CTL_TC (n : Nat) : Fld := ⟨R.DFE_CTL n, 5, 3⟩
/-- R116 -/
def R.DFE_DC (n : Nat) : Nat := 0x40030044 + 0x1000 * n
def F.DFE_DC_DC_I (n : Nat) : Fld := ⟨R.DFE_DC n, 0, 12⟩
def F.DFE_DC_DC_Q (n : Nat) : Fld := ⟨R.DFE_DC n, 16, 12⟩
/-- R116 -/
def R.DFE_IQ (n : Nat) : Nat := 0x40030048 + 0x1000 * n
def F.DFE_IQ_G (n : Nat) : Fld := ⟨R.DFE_IQ n, 0, 16⟩
def F.DFE_IQ_P (n : Nat) : Fld := ⟨R.DFE_IQ n, 16, 16⟩
/-- R116 -/
def R.DFE_DCEST (n : Nat) : Nat := 0x4003004C + 0x1000 * n
def F.DFE_DCEST_DC_I (n : Nat) : Fld := ⟨R.DFE_DCEST n, 0, 12⟩
def F.DFE_DCEST_DC_Q (n : Nat) : Fld := ⟨R.DFE_DCEST n, 16, 12⟩
/-- R116 -/
def R.DFE_IQEST (n : Nat) : Nat := 0x40030050 + 0x1000 * n
def F.DFE_IQEST_G (n : Nat) : Fld := ⟨R.DFE_IQEST n, 0, 16⟩
def F.DFE_IQEST_P (n : Nat) : Fld := ⟨R.DFE_IQEST n, 16, 16⟩
/-- R118 -/
def R.DFE_NCFG (n i : Nat) : Nat := 0x40030060 + 0x1000 * n + 0x8 * i
def F.DFE_NCFG_MODE (n i : Nat) : Fld := ⟨R.DFE_NCFG n i, 0, 2⟩
def F.DFE_NCFG_WIDTH (n i : Nat) : Fld := ⟨R.DFE_NCFG n i, 2, 4⟩
def F.DFE_NCFG_MU (n i : Nat) : Fld := ⟨R.DFE_NCFG n i, 6, 4⟩
def F.DFE_NCFG_SPAN (n i : Nat) : Fld := ⟨R.DFE_NCFG n i, 16, 8⟩
/-- R118 -/
def R.DFE_NFREQ (n i : Nat) : Nat := 0x40030064 + 0x1000 * n + 0x8 * i
def F.DFE_NFREQ_FREQ (n i : Nat) : Fld := ⟨R.DFE_NFREQ n i, 0, 32⟩
/-- R119 -/
def R.DFE_NSTAT (n i : Nat) : Nat := 0x400300A0 + 0x1000 * n + 0x4 * i
def F.DFE_NSTAT_FREQ (n i : Nat) : Fld := ⟨R.DFE_NSTAT n i, 0, 16⟩
def F.DFE_NSTAT_PWR (n i : Nat) : Fld := ⟨R.DFE_NSTAT n i, 16, 8⟩
def F.DFE_NSTAT_ACTIVE (n i : Nat) : Fld := ⟨R.DFE_NSTAT n i, 24, 1⟩
def F.DFE_NSTAT_AT_LIMIT (n i : Nat) : Fld := ⟨R.DFE_NSTAT n i, 25, 1⟩
def F.DFE_NSTAT_ASSIGNED (n i : Nat) : Fld := ⟨R.DFE_NSTAT n i, 26, 1⟩
/-- R126 -/
def R.DFE_SMCFG (n : Nat) : Nat := 0x400300C0 + 0x1000 * n
def F.DFE_SMCFG_NAVG (n : Nat) : Fld := ⟨R.DFE_SMCFG n, 0, 4⟩
def F.DFE_SMCFG_PK_TH (n : Nat) : Fld := ⟨R.DFE_SMCFG n, 4, 8⟩
def F.DFE_SMCFG_AUTO_TH (n : Nat) : Fld := ⟨R.DFE_SMCFG n, 12, 8⟩
def F.DFE_SMCFG_REL_TH (n : Nat) : Fld := ⟨R.DFE_SMCFG n, 20, 8⟩
def F.DFE_SMCFG_RELEASE (n : Nat) : Fld := ⟨R.DFE_SMCFG n, 28, 4⟩
/-- R126 -/
def R.DFE_SMSTAT (n : Nat) : Nat := 0x400300C8 + 0x1000 * n
def F.DFE_SMSTAT_FLOOR (n : Nat) : Fld := ⟨R.DFE_SMSTAT n, 0, 16⟩
def F.DFE_SMSTAT_NPEAK (n : Nat) : Fld := ⟨R.DFE_SMSTAT n, 16, 4⟩
def F.DFE_SMSTAT_VALID (n : Nat) : Fld := ⟨R.DFE_SMSTAT n, 20, 1⟩
def F.DFE_SMSTAT_NEPOCH (n : Nat) : Fld := ⟨R.DFE_SMSTAT n, 24, 8⟩
/-- R126 -/
def R.DFE_PEAK (n i : Nat) : Nat := 0x400300D0 + 0x1000 * n + 0x4 * i
def F.DFE_PEAK_BIN (n i : Nat) : Fld := ⟨R.DFE_PEAK n i, 0, 12⟩
def F.DFE_PEAK_LEVEL (n i : Nat) : Fld := ⟨R.DFE_PEAK n i, 12, 8⟩
def F.DFE_PEAK_NOTCHED (n i : Nat) : Fld := ⟨R.DFE_PEAK n i, 20, 1⟩
/-- R121 -/
def R.DFE_BLK (n : Nat) : Nat := 0x400300F0 + 0x1000 * n
def F.DFE_BLK_MODE (n : Nat) : Fld := ⟨R.DFE_BLK n, 0, 2⟩
def F.DFE_BLK_TH (n : Nat) : Fld := ⟨R.DFE_BLK n, 2, 8⟩
def F.DFE_BLK_PRE (n : Nat) : Fld := ⟨R.DFE_BLK n, 10, 4⟩
def F.DFE_BLK_HOLD (n : Nat) : Fld := ⟨R.DFE_BLK n, 14, 8⟩
/-- R124 -/
def R.DFE_BLKCNT (n : Nat) : Nat := 0x400300F4 + 0x1000 * n
def F.DFE_BLKCNT_COUNT (n : Nat) : Fld := ⟨R.DFE_BLKCNT n, 0, 32⟩
/-- R124 -/
def R.DFE_BLKMAX (n : Nat) : Nat := 0x400300F8 + 0x1000 * n
def F.DFE_BLKMAX_DUTY_MAX (n : Nat) : Fld := ⟨R.DFE_BLKMAX n, 0, 8⟩
/-- R127 -/
def R.DFE_VCNT (n : Nat) : Nat := 0x40030100 + 0x1000 * n
def F.DFE_VCNT_COUNT (n : Nat) : Fld := ⟨R.DFE_VCNT n, 0, 17⟩
/-- R127 -/
def R.DFE_BCNT (n : Nat) : Nat := 0x40030104 + 0x1000 * n
def F.DFE_BCNT_COUNT (n : Nat) : Fld := ⟨R.DFE_BCNT n, 0, 17⟩
/-- R128 -/
def R.DFE_CAPSRC (n : Nat) : Nat := 0x40030120 + 0x1000 * n
def F.DFE_CAPSRC_KIND (n : Nat) : Fld := ⟨R.DFE_CAPSRC n, 0, 2⟩
def F.DFE_CAPSRC_INDEX (n : Nat) : Fld := ⟨R.DFE_CAPSRC n, 2, 4⟩
def F.DFE_CAPSRC_BAND (n : Nat) : Fld := ⟨R.DFE_CAPSRC n, 6, 1⟩
/-- R130 -/
def R.DFE_CAPFMT (n : Nat) : Nat := 0x40030124 + 0x1000 * n
def F.DFE_CAPFMT_BITS (n : Nat) : Fld := ⟨R.DFE_CAPFMT n, 0, 1⟩
def F.DFE_CAPFMT_PLANES (n : Nat) : Fld := ⟨R.DFE_CAPFMT n, 1, 1⟩
def F.DFE_CAPFMT_FLAGS (n : Nat) : Fld := ⟨R.DFE_CAPFMT n, 2, 1⟩
def F.DFE_CAPFMT_DECIM (n : Nat) : Fld := ⟨R.DFE_CAPFMT n, 3, 2⟩
def F.DFE_CAPFMT_QTH (n : Nat) : Fld := ⟨R.DFE_CAPFMT n, 5, 8⟩
def F.DFE_CAPFMT_MODE (n : Nat) : Fld := ⟨R.DFE_CAPFMT n, 13, 1⟩
def F.DFE_CAPFMT_HANDTO (n : Nat) : Fld := ⟨R.DFE_CAPFMT n, 16, 5⟩
/-- R128 -/
def R.DFE_CAPMIX (n : Nat) : Nat := 0x40030128 + 0x1000 * n
def F.DFE_CAPMIX_OFFSET (n : Nat) : Fld := ⟨R.DFE_CAPMIX n, 0, 32⟩
/-- R131 -/
def R.DFE_CAPBASE (n : Nat) : Nat := 0x4003012C + 0x1000 * n
def F.DFE_CAPBASE_BASE (n : Nat) : Fld := ⟨R.DFE_CAPBASE n, 0, 32⟩
/-- R131 -/
def R.DFE_CAPLEN (n : Nat) : Nat := 0x40030130 + 0x1000 * n
def F.DFE_CAPLEN_LEN (n : Nat) : Fld := ⟨R.DFE_CAPLEN n, 0, 24⟩
/-- R132 -/
def R.DFE_CAPTRIG (n : Nat) : Nat := 0x40030134 + 0x1000 * n
def F.DFE_CAPTRIG_START (n : Nat) : Fld := ⟨R.DFE_CAPTRIG n, 0, 2⟩
def F.DFE_CAPTRIG_DRL_IDX (n : Nat) : Fld := ⟨R.DFE_CAPTRIG n, 2, 5⟩
def F.DFE_CAPTRIG_POST (n : Nat) : Fld := ⟨R.DFE_CAPTRIG n, 8, 24⟩
/-- R132 -/
def R.DFE_CAPCMD (n : Nat) : Nat := 0x40030138 + 0x1000 * n
def F.DFE_CAPCMD_ARM (n : Nat) : Fld := ⟨R.DFE_CAPCMD n, 0, 1⟩
def F.DFE_CAPCMD_STOP (n : Nat) : Fld := ⟨R.DFE_CAPCMD n, 1, 1⟩
/-- R132 -/
def R.DFE_CAPSTAT (n : Nat) : Nat := 0x4003013C + 0x1000 * n
def F.DFE_CAPSTAT_STATE (n : Nat) : Fld := ⟨R.DFE_CAPSTAT n, 0, 3⟩
def F.DFE_CAPSTAT_WRAPPED (n : Nat) : Fld := ⟨R.DFE_CAPSTAT n, 3, 1⟩
def F.DFE_CAPSTAT_EARLY (n : Nat) : Fld := ⟨R.DFE_CAPSTAT n, 16, 1⟩
def F.DFE_CAPSTAT_OVERRUN (n : Nat) : Fld := ⟨R.DFE_CAPSTAT n, 17, 1⟩
def F.DFE_CAPSTAT_OWN_ERR (n : Nat) : Fld := ⟨R.DFE_CAPSTAT n, 18, 1⟩
def F.DFE_CAPSTAT_REFUSED (n : Nat) : Fld := ⟨R.DFE_CAPSTAT n, 19, 1⟩
/-- R132 -/
def R.DFE_CAPPTR (n : Nat) : Nat := 0x40030140 + 0x1000 * n
def F.DFE_CAPPTR_PTR (n : Nat) : Fld := ⟨R.DFE_CAPPTR n, 0, 24⟩
/-- R151 -/
def R.ARR_CTL (n : Nat) : Nat := 0x40040040 + 0x1000 * n
def F.ARR_CTL_GRAT_V (n : Nat) : Fld := ⟨R.ARR_CTL n, 0, 1⟩
def F.ARR_CTL_GEOM_V (n : Nat) : Fld := ⟨R.ARR_CTL n, 1, 1⟩
def F.ARR_CTL_UPD (n : Nat) : Fld := ⟨R.ARR_CTL n, 2, 3⟩
def F.ARR_CTL_FF (n : Nat) : Fld := ⟨R.ARR_CTL n, 5, 3⟩
/-- R150 -/
def R.ARR_B0CFG (n : Nat) : Nat := 0x40040044 + 0x1000 * n
def F.ARR_B0CFG_MODE (n : Nat) : Fld := ⟨R.ARR_B0CFG n, 0, 2⟩
def F.ARR_B0CFG_REF (n : Nat) : Fld := ⟨R.ARR_B0CFG n, 2, 3⟩
def F.ARR_B0CFG_LOAD (n : Nat) : Fld := ⟨R.ARR_B0CFG n, 5, 4⟩
def F.ARR_B0CFG_JAM_TH (n : Nat) : Fld := ⟨R.ARR_B0CFG n, 16, 8⟩
def F.ARR_B0CFG_NULL_MIN (n : Nat) : Fld := ⟨R.ARR_B0CFG n, 24, 8⟩
/-- R143 -/
def R.ARR_FREF (n : Nat) : Nat := 0x40040048 + 0x1000 * n
def F.ARR_FREF_FREF (n : Nat) : Fld := ⟨R.ARR_FREF n, 0, 32⟩
/-- R151 -/
def R.ARR_WSTAT (n : Nat) : Nat := 0x4004004C + 0x1000 * n
def F.ARR_WSTAT_WEPOCH (n : Nat) : Fld := ⟨R.ARR_WSTAT n, 0, 8⟩
def F.ARR_WSTAT_LAST (n : Nat) : Fld := ⟨R.ARR_WSTAT n, 8, 2⟩
def F.ARR_WSTAT_GRAT (n : Nat) : Fld := ⟨R.ARR_WSTAT n, 10, 1⟩
/-- R153 -/
def R.ARR_NULL (n : Nat) : Nat := 0x40040050 + 0x1000 * n
def F.ARR_NULL_SUPP (n : Nat) : Fld := ⟨R.ARR_NULL n, 0, 8⟩
def F.ARR_NULL_NJAM (n : Nat) : Fld := ⟨R.ARR_NULL n, 8, 3⟩
/-- R149 -/
def R.ARR_BLKCNT (n : Nat) : Nat := 0x40040054 + 0x1000 * n
def F.ARR_BLKCNT_USED (n : Nat) : Fld := ⟨R.ARR_BLKCNT n, 0, 16⟩
def F.ARR_BLKCNT_SKIPPED (n : Nat) : Fld := ⟨R.ARR_BLKCNT n, 16, 16⟩
/-- R147 -/
def R.ARR_SATCNT (n : Nat) : Nat := 0x40040058 + 0x1000 * n
def F.ARR_SATCNT_COUNT (n : Nat) : Fld := ⟨R.ARR_SATCNT n, 0, 32⟩
/-- R143 -/
def R.ARR_GRATGAIN (n i : Nat) : Nat := 0x40040060 + 0x1000 * n + 0x4 * i
def F.ARR_GRATGAIN_GAIN_I (n i : Nat) : Fld := ⟨R.ARR_GRATGAIN n i, 0, 16⟩
def F.ARR_GRATGAIN_GAIN_Q (n i : Nat) : Fld := ⟨R.ARR_GRATGAIN n i, 16, 16⟩
/-- R143 -/
def R.ARR_GRATDLY (n i : Nat) : Nat := 0x40040080 + 0x1000 * n + 0x4 * i
def F.ARR_GRATDLY_DELAY (n i : Nat) : Fld := ⟨R.ARR_GRATDLY n i, 0, 32⟩
/-- R154 -/
def R.ARR_POSXY (n i : Nat) : Nat := 0x400400A0 + 0x1000 * n + 0x4 * i
def F.ARR_POSXY_X (n i : Nat) : Fld := ⟨R.ARR_POSXY n i, 0, 16⟩
def F.ARR_POSXY_Y (n i : Nat) : Fld := ⟨R.ARR_POSXY n i, 16, 16⟩
/-- R154 -/
def R.ARR_POSZ (n i : Nat) : Nat := 0x400400C0 + 0x1000 * n + 0x4 * i
def F.ARR_POSZ_Z (n i : Nat) : Fld := ⟨R.ARR_POSZ n i, 0, 16⟩
/-- R150 -/
def R.ARR_B0C (n i : Nat) : Nat := 0x400400E0 + 0x1000 * n + 0x4 * i
def F.ARR_B0C_C_I (n i : Nat) : Fld := ⟨R.ARR_B0C n i, 0, 16⟩
def F.ARR_B0C_C_Q (n i : Nat) : Fld := ⟨R.ARR_B0C n i, 16, 16⟩
/-- R151 -/
def R.ARR_B0W (n i : Nat) : Nat := 0x40040100 + 0x1000 * n + 0x4 * i
def F.ARR_B0W_W_I (n i : Nat) : Fld := ⟨R.ARR_B0W n i, 0, 16⟩
def F.ARR_B0W_W_Q (n i : Nat) : Fld := ⟨R.ARR_B0W n i, 16, 16⟩
/-- R145 -/
def R.ARR_B1W (n i : Nat) : Nat := 0x40040120 + 0x1000 * n + 0x4 * i
def F.ARR_B1W_W_I (n i : Nat) : Fld := ⟨R.ARR_B1W n i, 0, 16⟩
def F.ARR_B1W_W_Q (n i : Nat) : Fld := ⟨R.ARR_B1W n i, 16, 16⟩
/-- R145 -/
def R.ARR_B2W (n i : Nat) : Nat := 0x40040140 + 0x1000 * n + 0x4 * i
def F.ARR_B2W_W_I (n i : Nat) : Fld := ⟨R.ARR_B2W n i, 0, 16⟩
def F.ARR_B2W_W_Q (n i : Nat) : Fld := ⟨R.ARR_B2W n i, 16, 16⟩
/-- R145 -/
def R.ARR_B3W (n i : Nat) : Nat := 0x40040160 + 0x1000 * n + 0x4 * i
def F.ARR_B3W_W_I (n i : Nat) : Fld := ⟨R.ARR_B3W n i, 0, 16⟩
def F.ARR_B3W_W_Q (n i : Nat) : Fld := ⟨R.ARR_B3W n i, 16, 16⟩
/-- R155 -/
def R.ARR_JAMA (n i : Nat) : Nat := 0x40040180 + 0x1000 * n + 0x8 * i
def F.ARR_JAMA_AZ (n i : Nat) : Fld := ⟨R.ARR_JAMA n i, 0, 12⟩
def F.ARR_JAMA_EL (n i : Nat) : Fld := ⟨R.ARR_JAMA n i, 12, 12⟩
def F.ARR_JAMA_VALID (n i : Nat) : Fld := ⟨R.ARR_JAMA n i, 24, 1⟩
def F.ARR_JAMA_DIR_V (n i : Nat) : Fld := ⟨R.ARR_JAMA n i, 25, 1⟩
/-- R155 -/
def R.ARR_JAMB (n i : Nat) : Nat := 0x40040184 + 0x1000 * n + 0x8 * i
def F.ARR_JAMB_PWR (n i : Nat) : Fld := ⟨R.ARR_JAMB n i, 0, 8⟩
def F.ARR_JAMB_DEPTH (n i : Nat) : Fld := ⟨R.ARR_JAMB n i, 8, 8⟩
/-- R160 -/
def R.XBAR_SRC (i : Nat) : Nat := 0x40042040 + 0x8 * i
def F.XBAR_SRC_EN (i : Nat) : Fld := ⟨R.XBAR_SRC i, 0, 1⟩
def F.XBAR_SRC_KIND (i : Nat) : Fld := ⟨R.XBAR_SRC i, 1, 2⟩
def F.XBAR_SRC_INDEX (i : Nat) : Fld := ⟨R.XBAR_SRC i, 3, 4⟩
def F.XBAR_SRC_BAND (i : Nat) : Fld := ⟨R.XBAR_SRC i, 7, 1⟩
def F.XBAR_SRC_RATE (i : Nat) : Fld := ⟨R.XBAR_SRC i, 8, 2⟩
def F.XBAR_SRC_QTH (i : Nat) : Fld := ⟨R.XBAR_SRC i, 10, 8⟩
/-- R160 -/
def R.XBAR_OFF (i : Nat) : Nat := 0x40042044 + 0x8 * i
def F.XBAR_OFF_OFFSET (i : Nat) : Fld := ⟨R.XBAR_OFF i, 0, 32⟩
/-- R182 -/
def R.ACQ_CFG : Nat := 0x40050040
def F.ACQ_CFG_PIPE_EN : Fld := ⟨R.ACQ_CFG, 0, 8⟩
def F.ACQ_CFG_SEED_EN : Fld := ⟨R.ACQ_CFG, 8, 1⟩
/-- R165 -/
def R.ACQ_JOBPUSH : Nat := 0x40050044
def F.ACQ_JOBPUSH_ADDR : Fld := ⟨R.ACQ_JOBPUSH, 0, 32⟩
/-- R182 -/
def R.ACQ_QSTAT : Nat := 0x40050048
def F.ACQ_QSTAT_QUEUED : Fld := ⟨R.ACQ_QSTAT, 0, 6⟩
def F.ACQ_QSTAT_INFLIGHT : Fld := ⟨R.ACQ_QSTAT, 8, 6⟩
def F.ACQ_QSTAT_BUSY : Fld := ⟨R.ACQ_QSTAT, 16, 8⟩
/-- R182 -/
def R.ACQ_COUNT : Nat := 0x4005004C
def F.ACQ_COUNT_RETIRED : Fld := ⟨R.ACQ_COUNT, 0, 16⟩
def F.ACQ_COUNT_FAILED : Fld := ⟨R.ACQ_COUNT, 16, 16⟩
/-- R182 -/
def R.ACQ_CELLSLO : Nat := 0x40050050
def F.ACQ_CELLSLO_CELLS : Fld := ⟨R.ACQ_CELLSLO, 0, 32⟩
/-- R182 -/
def R.ACQ_CELLSHI : Nat := 0x40050054
def F.ACQ_CELLSHI_CELLS : Fld := ⟨R.ACQ_CELLSHI, 0, 32⟩
/-- R182 -/
def R.ACQ_ERRADDR : Nat := 0x40050058
def F.ACQ_ERRADDR_ADDR : Fld := ⟨R.ACQ_ERRADDR, 0, 32⟩
/-- R182 -/
def R.ACQ_ERRSTAT : Nat := 0x4005005C
def F.ACQ_ERRSTAT_STATUS : Fld := ⟨R.ACQ_ERRSTAT, 0, 8⟩
/-- R212 -/
def R.COR_CTL : Nat := 0x40060040
def F.COR_CTL_EPOCH_DRL : Fld := ⟨R.COR_CTL, 0, 5⟩
def F.COR_CTL_LATCH_EN : Fld := ⟨R.COR_CTL, 8, 1⟩
/-- R194 -/
def R.COR_CSBASE : Nat := 0x40060044
def F.COR_CSBASE_BANK : Fld := ⟨R.COR_CSBASE, 0, 7⟩
/-- R208 -/
def R.COR_LATBASE : Nat := 0x40060048
def F.COR_LATBASE_BANK : Fld := ⟨R.COR_LATBASE, 0, 7⟩
/-- R208 -/
def R.COR_LATSTAT : Nat := 0x4006004C
def F.COR_LATSTAT_HALF : Fld := ⟨R.COR_LATSTAT, 0, 1⟩
def F.COR_LATSTAT_BUSY : Fld := ⟨R.COR_LATSTAT, 1, 1⟩
def F.COR_LATSTAT_EPOCHS : Fld := ⟨R.COR_LATSTAT, 8, 24⟩
/-- R212 -/
def R.COR_LOAD : Nat := 0x40060050
def F.COR_LOAD_SLOTS : Fld := ⟨R.COR_LOAD, 0, 12⟩
def F.COR_LOAD_OVER_UNITS : Fld := ⟨R.COR_LOAD, 16, 9⟩
/-- R199 -/
def R.COR_SATCNT : Nat := 0x40060054
def F.COR_SATCNT_COUNT : Fld := ⟨R.COR_SATCNT, 0, 32⟩
/-- R206 -/
def R.COR_DUMPCNT : Nat := 0x40060058
def F.COR_DUMPCNT_COUNT : Fld := ⟨R.COR_DUMPCNT, 0, 32⟩
/-- R183 -/
def R.COR_BUDGET : Nat := 0x4006005C
def F.COR_BUDGET_UNITS : Fld := ⟨R.COR_BUDGET, 0, 5⟩
/-- R213 -/
def R.COR_UCFG (n i : Nat) : Nat := 0x40061040 + 0x1000 * n + 0x10 * i
def F.COR_UCFG_EN (n i : Nat) : Fld := ⟨R.COR_UCFG n i, 0, 1⟩
/-- R213 -/
def R.COR_USTAT (n i : Nat) : Nat := 0x40061044 + 0x1000 * n + 0x10 * i
def F.COR_USTAT_LOADED (n i : Nat) : Fld := ⟨R.COR_USTAT n i, 0, 8⟩
def F.COR_USTAT_USED (n i : Nat) : Fld := ⟨R.COR_USTAT n i, 8, 5⟩
def F.COR_USTAT_LANE_SLOT (n i : Nat) : Fld := ⟨R.COR_USTAT n i, 13, 3⟩
def F.COR_USTAT_LANE_BUSY (n i : Nat) : Fld := ⟨R.COR_USTAT n i, 16, 1⟩
def F.COR_USTAT_OVER (n i : Nat) : Fld := ⟨R.COR_USTAT n i, 17, 8⟩
/-- R203 -/
def R.COR_ULANE (n i : Nat) : Nat := 0x40061048 + 0x1000 * n + 0x10 * i
def F.COR_ULANE_MASK (n i : Nat) : Fld := ⟨R.COR_ULANE n i, 0, 8⟩
/-- R221 -/
def R.CHS_CTL : Nat := 0x40070040
def F.CHS_CTL_PLACE_EN : Fld := ⟨R.CHS_CTL, 0, 1⟩
def F.CHS_CTL_SEED_EN : Fld := ⟨R.CHS_CTL, 1, 1⟩
def F.CHS_CTL_PREEMPT : Fld := ⟨R.CHS_CTL, 2, 1⟩
def F.CHS_CTL_PERIOD : Fld := ⟨R.CHS_CTL, 8, 8⟩
def F.CHS_CTL_HYST : Fld := ⟨R.CHS_CTL, 16, 8⟩
/-- R216 -/
def R.CHS_CTXBASE : Nat := 0x40070044
def F.CHS_CTXBASE_BANK : Fld := ⟨R.CHS_CTXBASE, 0, 7⟩
/-- R231 -/
def R.CHS_CORES : Nat := 0x40070048
def F.CHS_CORES_MASK : Fld := ⟨R.CHS_CORES, 0, 8⟩
/-- R230 -/
def R.CHS_MEASCFG : Nat := 0x4007004C
def F.CHS_MEASCFG_CLASS : Fld := ⟨R.CHS_MEASCFG, 0, 2⟩
def F.CHS_MEASCFG_DL : Fld := ⟨R.CHS_MEASCFG, 8, 8⟩
/-- R221 -/
def R.CHS_UNITS : Nat := 0x40070050
def F.CHS_UNITS_FIRST : Fld := ⟨R.CHS_UNITS, 0, 8⟩
def F.CHS_UNITS_LAST : Fld := ⟨R.CHS_UNITS, 8, 8⟩
/-- R242 -/
def R.CHS_VCSTAT : Nat := 0x40070054
def F.CHS_VCSTAT_LIVE : Fld := ⟨R.CHS_VCSTAT, 0, 13⟩
def F.CHS_VCSTAT_QUEUED : Fld := ⟨R.CHS_VCSTAT, 16, 13⟩
/-- R237 -/
def R.CHS_QSTAT : Nat := 0x40070058
def F.CHS_QSTAT_DEPTH : Fld := ⟨R.CHS_QSTAT, 0, 11⟩
def F.CHS_QSTAT_HIGH : Fld := ⟨R.CHS_QSTAT, 16, 11⟩
/-- R237 -/
def R.CHS_DROP : Nat := 0x4007005C
def F.CHS_DROP_QFULL : Fld := ⟨R.CHS_DROP, 0, 16⟩
def F.CHS_DROP_VCBUSY : Fld := ⟨R.CHS_DROP, 16, 16⟩
/-- R233 -/
def R.CHS_MISS (i : Nat) : Nat := 0x40070060 + 0x4 * i
def F.CHS_MISS_COUNT (i : Nat) : Fld := ⟨R.CHS_MISS i, 0, 32⟩
/-- R233 -/
def R.CHS_TASK (i : Nat) : Nat := 0x40070070 + 0x4 * i
def F.CHS_TASK_COUNT (i : Nat) : Fld := ⟨R.CHS_TASK i, 0, 32⟩
/-- R238 -/
def R.CHS_SEEDCNT : Nat := 0x40070080
def F.CHS_SEEDCNT_ACCEPTED : Fld := ⟨R.CHS_SEEDCNT, 0, 16⟩
def F.CHS_SEEDCNT_REFUSED : Fld := ⟨R.CHS_SEEDCNT, 16, 16⟩
/-- R225 -/
def R.CHS_PAGECNT : Nat := 0x40070084
def F.CHS_PAGECNT_COUNT : Fld := ⟨R.CHS_PAGECNT, 0, 32⟩
/-- R239 -/
def R.CHS_OPP : Nat := 0x40070088
def F.CHS_OPP_TARGET : Fld := ⟨R.CHS_OPP, 0, 2⟩
def F.CHS_OPP_REQ : Fld := ⟨R.CHS_OPP, 2, 1⟩
def F.CHS_OPP_CLEAR : Fld := ⟨R.CHS_OPP, 3, 1⟩
def F.CHS_OPP_WAIT : Fld := ⟨R.CHS_OPP, 8, 8⟩
/-- R242 -/
def R.CHS_VCCMD : Nat := 0x40070090
def F.CHS_VCCMD_VC : Fld := ⟨R.CHS_VCCMD, 0, 12⟩
def F.CHS_VCCMD_OP : Fld := ⟨R.CHS_VCCMD, 12, 4⟩
def F.CHS_VCCMD_ARG : Fld := ⟨R.CHS_VCCMD, 16, 16⟩
/-- R242 -/
def R.CHS_VCSTAT2 : Nat := 0x40070094
def F.CHS_VCSTAT2_BUSY : Fld := ⟨R.CHS_VCSTAT2, 0, 1⟩
def F.CHS_VCSTAT2_RESULT : Fld := ⟨R.CHS_VCSTAT2, 1, 3⟩
/-- R236 -/
def R.CHS_ABANDON : Nat := 0x40070098
def F.CHS_ABANDON_COUNT : Fld := ⟨R.CHS_ABANDON, 0, 32⟩
/-- R234 -/
def R.CHS_CMPL_CARR (i : Nat) : Nat := 0x40070100 + 0x10 * i
def F.CHS_CMPL_CARR_CARR (i : Nat) : Fld := ⟨R.CHS_CMPL_CARR i, 0, 32⟩
/-- R234 -/
def R.CHS_CMPL_CODE (i : Nat) : Nat := 0x40070104 + 0x10 * i
def F.CHS_CMPL_CODE_CODE (i : Nat) : Fld := ⟨R.CHS_CMPL_CODE i, 0, 32⟩
/-- R234 -/
def R.CHS_CMPL_CTL (i : Nat) : Nat := 0x40070108 + 0x10 * i
def F.CHS_CMPL_CTL_BUF (i : Nat) : Fld := ⟨R.CHS_CMPL_CTL i, 0, 1⟩
def F.CHS_CMPL_CTL_UPD_CARR (i : Nat) : Fld := ⟨R.CHS_CMPL_CTL i, 1, 1⟩
def F.CHS_CMPL_CTL_UPD_CODE (i : Nat) : Fld := ⟨R.CHS_CMPL_CTL i, 2, 1⟩
def F.CHS_CMPL_CTL_WB (i : Nat) : Fld := ⟨R.CHS_CMPL_CTL i, 3, 1⟩
def F.CHS_CMPL_CTL_ACTION (i : Nat) : Fld := ⟨R.CHS_CMPL_CTL i, 4, 3⟩
/-- R242 -/
def R.CHS2_STAGE (i : Nat) : Nat := 0x40071040 + 0x4 * i
def F.CHS2_STAGE_DATA (i : Nat) : Fld := ⟨R.CHS2_STAGE i, 0, 32⟩
/-- R224 -/
def R.CHS2_EVICT : Nat := 0x400710E0
def F.CHS2_EVICT_VC : Fld := ⟨R.CHS2_EVICT, 0, 12⟩
def F.CHS2_EVICT_VALID : Fld := ⟨R.CHS2_EVICT, 12, 1⟩
def F.CHS2_EVICT_CAUSE : Fld := ⟨R.CHS2_EVICT, 13, 3⟩
/-- R224 -/
def R.CHS2_EVOVF : Nat := 0x400710E4
def F.CHS2_EVOVF_COUNT : Fld := ⟨R.CHS2_EVOVF, 0, 16⟩
/-- R282 -/
def R.TBU_NOW0 : Nat := 0x40080040
def F.TBU_NOW0_FRAC : Fld := ⟨R.TBU_NOW0, 0, 16⟩
/-- R282 -/
def R.TBU_NOW1 : Nat := 0x40080044
def F.TBU_NOW1_NS : Fld := ⟨R.TBU_NOW1, 0, 30⟩
/-- R282 -/
def R.TBU_NOW2 : Nat := 0x40080048
def F.TBU_NOW2_SEC : Fld := ⟨R.TBU_NOW2, 0, 32⟩
/-- R282 -/
def R.TBU_NOW3 : Nat := 0x4008004C
def F.TBU_NOW3_SEC : Fld := ⟨R.TBU_NOW3, 0, 16⟩
/-- R282 -/
def R.TBU_NOW4 : Nat := 0x40080050
def F.TBU_NOW4_SAMP : Fld := ⟨R.TBU_NOW4, 0, 32⟩
/-- R282 -/
def R.TBU_NOW5 : Nat := 0x40080054
def F.TBU_NOW5_SAMP : Fld := ⟨R.TBU_NOW5, 0, 16⟩
/-- R272 -/
def R.TBU_RATE0 : Nat := 0x40080058
def F.TBU_RATE0_RATE : Fld := ⟨R.TBU_RATE0, 0, 32⟩
/-- R272 -/
def R.TBU_RATE1 : Nat := 0x4008005C
def F.TBU_RATE1_RATE : Fld := ⟨R.TBU_RATE1, 0, 8⟩
/-- R276 -/
def R.TBU_STEP0 : Nat := 0x40080060
def F.TBU_STEP0_STEP : Fld := ⟨R.TBU_STEP0, 0, 32⟩
/-- R276 -/
def R.TBU_STEP1 : Nat := 0x40080064
def F.TBU_STEP1_STEP : Fld := ⟨R.TBU_STEP1, 0, 32⟩
/-- R277 -/
def R.TBU_SLEW : Nat := 0x40080068
def F.TBU_SLEW_SLEW : Fld := ⟨R.TBU_SLEW, 0, 32⟩
/-- R277 -/
def R.TBU_LIM : Nat := 0x4008006C
def F.TBU_LIM_SLEW_MAX : Fld := ⟨R.TBU_LIM, 0, 16⟩
def F.TBU_LIM_STEP_MAX : Fld := ⟨R.TBU_LIM, 16, 16⟩
/-- R277 -/
def R.TBU_SLEWREM : Nat := 0x40080070
def F.TBU_SLEWREM_REM : Fld := ⟨R.TBU_SLEWREM, 0, 32⟩
/-- R279 -/
def R.TBU_QUAL : Nat := 0x40080074
def F.TBU_QUAL_QUAL : Fld := ⟨R.TBU_QUAL, 0, 3⟩
def F.TBU_QUAL_SOLQ : Fld := ⟨R.TBU_QUAL, 3, 3⟩
def F.TBU_QUAL_LOADED : Fld := ⟨R.TBU_QUAL, 6, 1⟩
def F.TBU_QUAL_WAIT : Fld := ⟨R.TBU_QUAL, 7, 1⟩
def F.TBU_QUAL_SLEWING : Fld := ⟨R.TBU_QUAL, 8, 1⟩
def F.TBU_QUAL_ON_IRO : Fld := ⟨R.TBU_QUAL, 9, 1⟩
/-- R279 -/
def R.TBU_SOLQ : Nat := 0x40080078
def F.TBU_SOLQ_SOLQ : Fld := ⟨R.TBU_SOLQ, 0, 3⟩
/-- R278 -/
def R.TBU_UNC : Nat := 0x4008007C
def F.TBU_UNC_UNC : Fld := ⟨R.TBU_UNC, 0, 32⟩
/-- R278 -/
def R.TBU_UNCSET : Nat := 0x40080080
def F.TBU_UNCSET_UNC : Fld := ⟨R.TBU_UNCSET, 0, 32⟩
/-- R278 -/
def R.TBU_UNCGROW : Nat := 0x40080084
def F.TBU_UNCGROW_GROW : Fld := ⟨R.TBU_UNCGROW, 0, 16⟩
/-- R280 -/
def R.TBU_UTC : Nat := 0x40080088
def F.TBU_UTC_OFFSET : Fld := ⟨R.TBU_UTC, 0, 16⟩
def F.TBU_UTC_LEAP : Fld := ⟨R.TBU_UTC, 16, 2⟩
/-- R280 -/
def R.TBU_LEAP0 : Nat := 0x4008008C
def F.TBU_LEAP0_SEC : Fld := ⟨R.TBU_LEAP0, 0, 32⟩
/-- R280 -/
def R.TBU_LEAP1 : Nat := 0x40080090
def F.TBU_LEAP1_SEC : Fld := ⟨R.TBU_LEAP1, 0, 16⟩
/-- R273 -/
def R.TBU_LD0 : Nat := 0x40080094
def F.TBU_LD0_SEC : Fld := ⟨R.TBU_LD0, 0, 32⟩
/-- R273 -/
def R.TBU_LD1 : Nat := 0x40080098
def F.TBU_LD1_SEC : Fld := ⟨R.TBU_LD1, 0, 16⟩
/-- R273 -/
def R.TBU_LD2 : Nat := 0x4008009C
def F.TBU_LD2_NS : Fld := ⟨R.TBU_LD2, 0, 30⟩
/-- R282 -/
def R.TBU_EP0 : Nat := 0x400800A0
def F.TBU_EP0_FRAC : Fld := ⟨R.TBU_EP0, 0, 16⟩
/-- R282 -/
def R.TBU_EP1 : Nat := 0x400800A4
def F.TBU_EP1_NS : Fld := ⟨R.TBU_EP1, 0, 30⟩
/-- R282 -/
def R.TBU_EP2 : Nat := 0x400800A8
def F.TBU_EP2_SEC : Fld := ⟨R.TBU_EP2, 0, 32⟩
/-- R282 -/
def R.TBU_EP3 : Nat := 0x400800AC
def F.TBU_EP3_SEC : Fld := ⟨R.TBU_EP3, 0, 16⟩
/-- R282 -/
def R.TBU_EP4 : Nat := 0x400800B0
def F.TBU_EP4_SAMP : Fld := ⟨R.TBU_EP4, 0, 32⟩
/-- R282 -/
def R.TBU_EP5 : Nat := 0x400800B4
def F.TBU_EP5_SAMP : Fld := ⟨R.TBU_EP5, 0, 16⟩
/-- R284 -/
def R.TBU_SLPCYC0 : Nat := 0x400800B8
def F.TBU_SLPCYC0_CYC : Fld := ⟨R.TBU_SLPCYC0, 0, 32⟩
/-- R284 -/
def R.TBU_SLPCYC1 : Nat := 0x400800BC
def F.TBU_SLPCYC1_CYC : Fld := ⟨R.TBU_SLPCYC1, 0, 16⟩
/-- R284 -/
def R.TBU_SLPSTAT : Nat := 0x400800C0
def F.TBU_SLPSTAT_PENDING : Fld := ⟨R.TBU_SLPSTAT, 0, 1⟩
def F.TBU_SLPSTAT_RELOADED : Fld := ⟨R.TBU_SLPSTAT, 1, 1⟩
def F.TBU_SLPSTAT_LOST : Fld := ⟨R.TBU_SLPSTAT, 2, 1⟩
/-- R286 -/
def R.DRL_CFG (i : Nat) : Nat := 0x40081040 + 0x10 * i
def F.DRL_CFG_EN (i : Nat) : Fld := ⟨R.DRL_CFG i, 0, 1⟩
def F.DRL_CFG_WAKE (i : Nat) : Fld := ⟨R.DRL_CFG i, 1, 1⟩
def F.DRL_CFG_CORE (i : Nat) : Fld := ⟨R.DRL_CFG i, 8, 4⟩
def F.DRL_CFG_SECS (i : Nat) : Fld := ⟨R.DRL_CFG i, 16, 8⟩
/-- R286 -/
def R.DRL_PERIOD (i : Nat) : Nat := 0x40081044 + 0x10 * i
def F.DRL_PERIOD_NS (i : Nat) : Fld := ⟨R.DRL_PERIOD i, 0, 30⟩
/-- R286 -/
def R.DRL_PHASE (i : Nat) : Nat := 0x40081048 + 0x10 * i
def F.DRL_PHASE_NS (i : Nat) : Fld := ⟨R.DRL_PHASE i, 0, 30⟩
/-- R287 -/
def R.DRL_STAT (i : Nat) : Nat := 0x4008104C + 0x10 * i
def F.DRL_STAT_ARMED (i : Nat) : Fld := ⟨R.DRL_STAT i, 0, 1⟩
def F.DRL_STAT_SKIP (i : Nat) : Fld := ⟨R.DRL_STAT i, 1, 1⟩
def F.DRL_STAT_BAD (i : Nat) : Fld := ⟨R.DRL_STAT i, 2, 1⟩
def F.DRL_STAT_COUNT (i : Nat) : Fld := ⟨R.DRL_STAT i, 8, 24⟩
/-- R290 -/
def R.TIO_PPSCFG (i : Nat) : Nat := 0x40082040 + 0xC * i
def F.TIO_PPSCFG_EN (i : Nat) : Fld := ⟨R.TIO_PPSCFG i, 0, 1⟩
def F.TIO_PPSCFG_POL (i : Nat) : Fld := ⟨R.TIO_PPSCFG i, 1, 1⟩
def F.TIO_PPSCFG_QMIN (i : Nat) : Fld := ⟨R.TIO_PPSCFG i, 2, 3⟩
/-- R290 -/
def R.TIO_PPSDLY (i : Nat) : Nat := 0x40082044 + 0xC * i
def F.TIO_PPSDLY_DELAY (i : Nat) : Fld := ⟨R.TIO_PPSDLY i, 0, 20⟩
/-- R290 -/
def R.TIO_PPSWID (i : Nat) : Nat := 0x40082048 + 0xC * i
def F.TIO_PPSWID_WIDTH (i : Nat) : Fld := ⟨R.TIO_PPSWID i, 0, 20⟩
/-- R292 -/
def R.TIO_TOUTCFG (i : Nat) : Nat := 0x40082060 + 0x10 * i
def F.TIO_TOUTCFG_MODE (i : Nat) : Fld := ⟨R.TIO_TOUTCFG i, 0, 2⟩
def F.TIO_TOUTCFG_POL (i : Nat) : Fld := ⟨R.TIO_TOUTCFG i, 2, 1⟩
def F.TIO_TOUTCFG_LEVEL (i : Nat) : Fld := ⟨R.TIO_TOUTCFG i, 3, 1⟩
def F.TIO_TOUTCFG_DRL (i : Nat) : Fld := ⟨R.TIO_TOUTCFG i, 4, 5⟩
def F.TIO_TOUTCFG_QMIN (i : Nat) : Fld := ⟨R.TIO_TOUTCFG i, 9, 3⟩
/-- R292 -/
def R.TIO_TOUTDLY (i : Nat) : Nat := 0x40082064 + 0x10 * i
def F.TIO_TOUTDLY_DELAY (i : Nat) : Fld := ⟨R.TIO_TOUTDLY i, 0, 20⟩
/-- R292 -/
def R.TIO_TOUTWID (i : Nat) : Nat := 0x40082068 + 0x10 * i
def F.TIO_TOUTWID_WIDTH (i : Nat) : Fld := ⟨R.TIO_TOUTWID i, 0, 30⟩
/-- R293 -/
def R.TIO_EVCFG (i : Nat) : Nat := 0x40082100 + 0x20 * i
def F.TIO_EVCFG_EDGE (i : Nat) : Fld := ⟨R.TIO_EVCFG i, 0, 2⟩
/-- R293 -/
def R.TIO_EVFRAC (i : Nat) : Nat := 0x40082104 + 0x20 * i
def F.TIO_EVFRAC_FRAC (i : Nat) : Fld := ⟨R.TIO_EVFRAC i, 0, 16⟩
def F.TIO_EVFRAC_RISE (i : Nat) : Fld := ⟨R.TIO_EVFRAC i, 16, 1⟩
def F.TIO_EVFRAC_QUAL (i : Nat) : Fld := ⟨R.TIO_EVFRAC i, 17, 3⟩
/-- R293 -/
def R.TIO_EVNS (i : Nat) : Nat := 0x40082108 + 0x20 * i
def F.TIO_EVNS_NS (i : Nat) : Fld := ⟨R.TIO_EVNS i, 0, 30⟩
/-- R293 -/
def R.TIO_EVSEC0 (i : Nat) : Nat := 0x4008210C + 0x20 * i
def F.TIO_EVSEC0_SEC (i : Nat) : Fld := ⟨R.TIO_EVSEC0 i, 0, 32⟩
/-- R293 -/
def R.TIO_EVSEC1 (i : Nat) : Nat := 0x40082110 + 0x20 * i
def F.TIO_EVSEC1_SEC (i : Nat) : Fld := ⟨R.TIO_EVSEC1 i, 0, 16⟩
def F.TIO_EVSEC1_DEPTH (i : Nat) : Fld := ⟨R.TIO_EVSEC1 i, 16, 3⟩
def F.TIO_EVSEC1_OVR (i : Nat) : Fld := ⟨R.TIO_EVSEC1 i, 30, 1⟩
def F.TIO_EVSEC1_VALID (i : Nat) : Fld := ⟨R.TIO_EVSEC1 i, 31, 1⟩
/-- R291 -/
def R.TIO_STAT : Nat := 0x40082180
def F.TIO_STAT_PPS : Fld := ⟨R.TIO_STAT, 0, 2⟩
def F.TIO_STAT_TOUT : Fld := ⟨R.TIO_STAT, 2, 8⟩
def F.TIO_STAT_HIZ : Fld := ⟨R.TIO_STAT, 16, 1⟩
/-- R312 -/
def R.PTP_CFG : Nat := 0x40090040
def F.PTP_CFG_BC : Fld := ⟨R.PTP_CFG, 0, 1⟩
def F.PTP_CFG_QMIN : Fld := ⟨R.PTP_CFG, 1, 3⟩
def F.PTP_CFG_DRL : Fld := ⟨R.PTP_CFG, 4, 5⟩
/-- R547 -/
def R.PTP_CLKID0 : Nat := 0x40090044
def F.PTP_CLKID0_ID : Fld := ⟨R.PTP_CLKID0, 0, 32⟩
/-- R547 -/
def R.PTP_CLKID1 : Nat := 0x40090048
def F.PTP_CLKID1_ID : Fld := ⟨R.PTP_CLKID1, 0, 32⟩
/-- R310 -/
def R.PTP_BASE : Nat := 0x4009004C
def F.PTP_BASE_BANK : Fld := ⟨R.PTP_BASE, 0, 7⟩
/-- R311 -/
def R.PTP_SESSCMD : Nat := 0x40090050
def F.PTP_SESSCMD_IDX : Fld := ⟨R.PTP_SESSCMD, 0, 12⟩
def F.PTP_SESSCMD_OP : Fld := ⟨R.PTP_SESSCMD, 12, 4⟩
def F.PTP_SESSCMD_ARG : Fld := ⟨R.PTP_SESSCMD, 16, 16⟩
/-- R311 -/
def R.PTP_SESSSTAT : Nat := 0x40090054
def F.PTP_SESSSTAT_BUSY : Fld := ⟨R.PTP_SESSSTAT, 0, 1⟩
def F.PTP_SESSSTAT_RESULT : Fld := ⟨R.PTP_SESSSTAT, 1, 3⟩
/-- R311 -/
def R.PTP_STAGE (i : Nat) : Nat := 0x40090060 + 0x4 * i
def F.PTP_STAGE_DATA (i : Nat) : Fld := ⟨R.PTP_STAGE i, 0, 32⟩
/-- R316 -/
def R.PTP_ANN0 : Nat := 0x400900A0
def F.PTP_ANN0_DATA : Fld := ⟨R.PTP_ANN0, 0, 32⟩
/-- R316 -/
def R.PTP_ANN1 : Nat := 0x400900A4
def F.PTP_ANN1_OSLV : Fld := ⟨R.PTP_ANN1, 0, 16⟩
def F.PTP_ANN1_TIMESRC : Fld := ⟨R.PTP_ANN1, 16, 8⟩
/-- R316 -/
def R.PTP_ANN2 : Nat := 0x400900A8
def F.PTP_ANN2_STEPS : Fld := ⟨R.PTP_ANN2, 0, 16⟩
def F.PTP_ANN2_TTRACE : Fld := ⟨R.PTP_ANN2, 16, 1⟩
def F.PTP_ANN2_FTRACE : Fld := ⟨R.PTP_ANN2, 17, 1⟩
def F.PTP_ANN2_UTCV : Fld := ⟨R.PTP_ANN2, 18, 1⟩
/-- R316 -/
def R.PTP_ANN3 : Nat := 0x400900AC
def F.PTP_ANN3_ID : Fld := ⟨R.PTP_ANN3, 0, 32⟩
/-- R316 -/
def R.PTP_ANN4 : Nat := 0x400900B0
def F.PTP_ANN4_ID : Fld := ⟨R.PTP_ANN4, 0, 32⟩
/-- R322 -/
def R.PTP_TXDESC : Nat := 0x400900C0
def F.PTP_TXDESC_PORT : Fld := ⟨R.PTP_TXDESC, 0, 2⟩
def F.PTP_TXDESC_LEN : Fld := ⟨R.PTP_TXDESC, 2, 9⟩
def F.PTP_TXDESC_TS : Fld := ⟨R.PTP_TXDESC, 11, 1⟩
def F.PTP_TXDESC_ONESTEP : Fld := ⟨R.PTP_TXDESC, 12, 1⟩
def F.PTP_TXDESC_TAG : Fld := ⟨R.PTP_TXDESC, 24, 8⟩
/-- R322 -/
def R.PTP_TXDATA : Nat := 0x400900C4
def F.PTP_TXDATA_DATA : Fld := ⟨R.PTP_TXDATA, 0, 32⟩
/-- R322 -/
def R.PTP_TXCMD : Nat := 0x400900C8
def F.PTP_TXCMD_GO : Fld := ⟨R.PTP_TXCMD, 0, 1⟩
/-- R322 -/
def R.PTP_TXSTAT : Nat := 0x400900CC
def F.PTP_TXSTAT_BUSY : Fld := ⟨R.PTP_TXSTAT, 0, 1⟩
def F.PTP_TXSTAT_BUSY_ERR : Fld := ⟨R.PTP_TXSTAT, 1, 1⟩
/-- R322 -/
def R.PTP_TXTS0 : Nat := 0x400900D0
def F.PTP_TXTS0_FRAC : Fld := ⟨R.PTP_TXTS0, 0, 16⟩
/-- R322 -/
def R.PTP_TXTS1 : Nat := 0x400900D4
def F.PTP_TXTS1_NS : Fld := ⟨R.PTP_TXTS1, 0, 30⟩
/-- R322 -/
def R.PTP_TXTS2 : Nat := 0x400900D8
def F.PTP_TXTS2_SEC : Fld := ⟨R.PTP_TXTS2, 0, 32⟩
/-- R322 -/
def R.PTP_TXTS3 : Nat := 0x400900DC
def F.PTP_TXTS3_SEC : Fld := ⟨R.PTP_TXTS3, 0, 16⟩
def F.PTP_TXTS3_TAG : Fld := ⟨R.PTP_TXTS3, 16, 8⟩
/-- R321 -/
def R.PTP_RXDESC0 : Nat := 0x400900E0
def F.PTP_RXDESC0_PORT : Fld := ⟨R.PTP_RXDESC0, 0, 2⟩
def F.PTP_RXDESC0_KIND : Fld := ⟨R.PTP_RXDESC0, 2, 3⟩
def F.PTP_RXDESC0_UNMATCHED : Fld := ⟨R.PTP_RXDESC0, 5, 1⟩
def F.PTP_RXDESC0_EXPIRED : Fld := ⟨R.PTP_RXDESC0, 6, 1⟩
def F.PTP_RXDESC0_AUTH_OK : Fld := ⟨R.PTP_RXDESC0, 7, 1⟩
def F.PTP_RXDESC0_VALID : Fld := ⟨R.PTP_RXDESC0, 8, 1⟩
def F.PTP_RXDESC0_SESSION : Fld := ⟨R.PTP_RXDESC0, 9, 12⟩
def F.PTP_RXDESC0_LEN : Fld := ⟨R.PTP_RXDESC0, 21, 11⟩
/-- R321 -/
def R.PTP_RXDESC1 : Nat := 0x400900E4
def F.PTP_RXDESC1_FRAC : Fld := ⟨R.PTP_RXDESC1, 0, 16⟩
def F.PTP_RXDESC1_QUAL : Fld := ⟨R.PTP_RXDESC1, 16, 3⟩
/-- R321 -/
def R.PTP_RXDESC2 : Nat := 0x400900E8
def F.PTP_RXDESC2_NS : Fld := ⟨R.PTP_RXDESC2, 0, 30⟩
/-- R321 -/
def R.PTP_RXDESC3 : Nat := 0x400900EC
def F.PTP_RXDESC3_SEC : Fld := ⟨R.PTP_RXDESC3, 0, 32⟩
/-- R321 -/
def R.PTP_RXDESC4 : Nat := 0x400900F0
def F.PTP_RXDESC4_SEC : Fld := ⟨R.PTP_RXDESC4, 0, 16⟩
def F.PTP_RXDESC4_SEQID : Fld := ⟨R.PTP_RXDESC4, 16, 16⟩
/-- R321 -/
def R.PTP_RXDATA : Nat := 0x400900F4
def F.PTP_RXDATA_DATA : Fld := ⟨R.PTP_RXDATA, 0, 32⟩
/-- R321 -/
def R.PTP_RXPOP : Nat := 0x400900F8
def F.PTP_RXPOP_POP : Fld := ⟨R.PTP_RXPOP, 0, 1⟩
/-- R321 -/
def R.PTP_RXSTAT : Nat := 0x400900FC
def F.PTP_RXSTAT_DEPTH : Fld := ⟨R.PTP_RXSTAT, 0, 11⟩
def F.PTP_RXSTAT_OVF : Fld := ⟨R.PTP_RXSTAT, 16, 16⟩
/-- R319 -/
def R.PTP_KEYSTAT : Nat := 0x40090100
def F.PTP_KEYSTAT_VALID : Fld := ⟨R.PTP_KEYSTAT, 0, 16⟩
/-- R319 -/
def R.PTP_KEYID (i : Nat) : Nat := 0x40090104 + 0x4 * i
def F.PTP_KEYID_ID (i : Nat) : Fld := ⟨R.PTP_KEYID i, 0, 32⟩
/-- R313 -/
def R.PTP_LATE : Nat := 0x40090150
def F.PTP_LATE_COUNT : Fld := ⟨R.PTP_LATE, 0, 32⟩
/-- R320 -/
def R.PTP_AUTHFAIL : Nat := 0x40090154
def F.PTP_AUTHFAIL_COUNT : Fld := ⟨R.PTP_AUTHFAIL, 0, 32⟩
/-- R311 -/
def R.PTP_HELDDROP : Nat := 0x40090158
def F.PTP_HELDDROP_COUNT : Fld := ⟨R.PTP_HELDDROP, 0, 32⟩
/-- R313 -/
def R.PTP_QDROP : Nat := 0x4009015C
def F.PTP_QDROP_COUNT : Fld := ⟨R.PTP_QDROP, 0, 32⟩
/-- R327 -/
def R.PTPP_CFG (n : Nat) : Nat := 0x40091040 + 0x1000 * n
def F.PTPP_CFG_EN (n : Nat) : Fld := ⟨R.PTPP_CFG n, 0, 1⟩
def F.PTPP_CFG_PDRESP (n : Nat) : Fld := ⟨R.PTPP_CFG n, 1, 1⟩
/-- R327 -/
def R.PTPP_IP4 (n : Nat) : Nat := 0x40091044 + 0x1000 * n
def F.PTPP_IP4_ADDR (n : Nat) : Fld := ⟨R.PTPP_IP4 n, 0, 32⟩
/-- R327 -/
def R.PTPP_IP6 (n i : Nat) : Nat := 0x40091048 + 0x1000 * n + 0x4 * i
def F.PTPP_IP6_ADDR (n i : Nat) : Fld := ⟨R.PTPP_IP6 n i, 0, 32⟩
/-- R327 -/
def R.PTPP_TXCNT (n i : Nat) : Nat := 0x40091060 + 0x1000 * n + 0x4 * i
def F.PTPP_TXCNT_COUNT (n i : Nat) : Fld := ⟨R.PTPP_TXCNT n i, 0, 32⟩
/-- R327 -/
def R.PTPP_RXCNT (n : Nat) : Nat := 0x40091070 + 0x1000 * n
def F.PTPP_RXCNT_COUNT (n : Nat) : Fld := ⟨R.PTPP_RXCNT n, 0, 32⟩
/-- R304 -/
def R.ETH_CFG (n : Nat) : Nat := 0x400A0040 + 0x1000 * n
def F.ETH_CFG_RATE (n : Nat) : Fld := ⟨R.ETH_CFG n, 0, 2⟩
def F.ETH_CFG_FEC (n : Nat) : Fld := ⟨R.ETH_CFG n, 2, 2⟩
def F.ETH_CFG_AN (n : Nat) : Fld := ⟨R.ETH_CFG n, 4, 1⟩
def F.ETH_CFG_LOOP (n : Nat) : Fld := ⟨R.ETH_CFG n, 5, 1⟩
def F.ETH_CFG_MTU (n : Nat) : Fld := ⟨R.ETH_CFG n, 16, 14⟩
/-- R547 -/
def R.ETH_MAC0 (n : Nat) : Nat := 0x400A0044 + 0x1000 * n
def F.ETH_MAC0_OCT (n : Nat) : Fld := ⟨R.ETH_MAC0 n, 0, 32⟩
/-- R547 -/
def R.ETH_MAC1 (n : Nat) : Nat := 0x400A0048 + 0x1000 * n
def F.ETH_MAC1_OCT (n : Nat) : Fld := ⟨R.ETH_MAC1 n, 0, 16⟩
/-- R304 -/
def R.ETH_STAT (n : Nat) : Nat := 0x400A004C + 0x1000 * n
def F.ETH_STAT_LINK (n : Nat) : Fld := ⟨R.ETH_STAT n, 0, 1⟩
def F.ETH_STAT_BLOCK_LOCK (n : Nat) : Fld := ⟨R.ETH_STAT n, 1, 1⟩
def F.ETH_STAT_FEC_ALIGN (n : Nat) : Fld := ⟨R.ETH_STAT n, 2, 1⟩
def F.ETH_STAT_AN_DONE (n : Nat) : Fld := ⟨R.ETH_STAT n, 3, 1⟩
def F.ETH_STAT_LFAULT (n : Nat) : Fld := ⟨R.ETH_STAT n, 4, 1⟩
def F.ETH_STAT_RFAULT (n : Nat) : Fld := ⟨R.ETH_STAT n, 5, 1⟩
def F.ETH_STAT_RCLK_V (n : Nat) : Fld := ⟨R.ETH_STAT n, 6, 1⟩
/-- R307 -/
def R.ETH_TSCAL (n : Nat) : Nat := 0x400A0050 + 0x1000 * n
def F.ETH_TSCAL_TXDLY (n : Nat) : Fld := ⟨R.ETH_TSCAL n, 0, 16⟩
def F.ETH_TSCAL_RXDLY (n : Nat) : Fld := ⟨R.ETH_TSCAL n, 16, 16⟩
/-- R323 -/
def R.ETH_SYNCE (n : Nat) : Nat := 0x400A0054 + 0x1000 * n
def F.ETH_SYNCE_RCLK_EN (n : Nat) : Fld := ⟨R.ETH_SYNCE n, 0, 1⟩
def F.ETH_SYNCE_SQUELCH (n : Nat) : Fld := ⟨R.ETH_SYNCE n, 1, 1⟩
/-- R305 -/
def R.ETH_RXFRM (n : Nat) : Nat := 0x400A0058 + 0x1000 * n
def F.ETH_RXFRM_COUNT (n : Nat) : Fld := ⟨R.ETH_RXFRM n, 0, 32⟩
/-- R305 -/
def R.ETH_TXFRM (n : Nat) : Nat := 0x400A005C + 0x1000 * n
def F.ETH_TXFRM_COUNT (n : Nat) : Fld := ⟨R.ETH_TXFRM n, 0, 32⟩
/-- R305 -/
def R.ETH_RXFCS (n : Nat) : Nat := 0x400A0060 + 0x1000 * n
def F.ETH_RXFCS_COUNT (n : Nat) : Fld := ⟨R.ETH_RXFCS n, 0, 32⟩
/-- R305 -/
def R.ETH_RXDROP (n : Nat) : Nat := 0x400A0064 + 0x1000 * n
def F.ETH_RXDROP_COUNT (n : Nat) : Fld := ⟨R.ETH_RXDROP n, 0, 32⟩
/-- R418 -/
def R.DMA_ACTIVE : Nat := 0x400B0040
def F.DMA_ACTIVE_CH : Fld := ⟨R.DMA_ACTIVE, 0, 32⟩
/-- R418 -/
def R.DMA_HALTED : Nat := 0x400B0044
def F.DMA_HALTED_CH : Fld := ⟨R.DMA_HALTED, 0, 32⟩
/-- R418 -/
def R.DMA_PAUSED : Nat := 0x400B0048
def F.DMA_PAUSED_CH : Fld := ⟨R.DMA_PAUSED, 0, 32⟩
/-- R405 -/
def R.DMA_PRIO : Nat := 0x400B004C
def F.DMA_PRIO_CH : Fld := ⟨R.DMA_PRIO, 0, 32⟩
/-- R413 -/
def R.CH_CTRL (i : Nat) : Nat := 0x400B1040 + 0x80 * i
def F.CH_CTRL_START (i : Nat) : Fld := ⟨R.CH_CTRL i, 0, 1⟩
def F.CH_CTRL_PAUSE (i : Nat) : Fld := ⟨R.CH_CTRL i, 1, 1⟩
def F.CH_CTRL_RESUME (i : Nat) : Fld := ⟨R.CH_CTRL i, 2, 1⟩
def F.CH_CTRL_SKIP (i : Nat) : Fld := ⟨R.CH_CTRL i, 3, 1⟩
def F.CH_CTRL_ABORT (i : Nat) : Fld := ⟨R.CH_CTRL i, 4, 1⟩
/-- R407 -/
def R.CH_CFG (i : Nat) : Nat := 0x400B1044 + 0x80 * i
def F.CH_CFG_RETRY (i : Nat) : Fld := ⟨R.CH_CFG i, 0, 3⟩
def F.CH_CFG_POLL (i : Nat) : Fld := ⟨R.CH_CFG i, 3, 1⟩
def F.CH_CFG_BURST (i : Nat) : Fld := ⟨R.CH_CFG i, 16, 16⟩
/-- R407 -/
def R.CH_DESC (i : Nat) : Nat := 0x400B1048 + 0x80 * i
def F.CH_DESC_ADDR (i : Nat) : Fld := ⟨R.CH_DESC i, 0, 32⟩
/-- R413 -/
def R.CH_STAT (i : Nat) : Nat := 0x400B104C + 0x80 * i
def F.CH_STAT_STATE (i : Nat) : Fld := ⟨R.CH_STAT i, 0, 4⟩
def F.CH_STAT_PEND (i : Nat) : Fld := ⟨R.CH_STAT i, 4, 1⟩
def F.CH_STAT_EMPTY (i : Nat) : Fld := ⟨R.CH_STAT i, 5, 1⟩
def F.CH_STAT_DESC_LOST (i : Nat) : Fld := ⟨R.CH_STAT i, 6, 1⟩
def F.CH_STAT_TRIG_OVR (i : Nat) : Fld := ⟨R.CH_STAT i, 7, 1⟩
def F.CH_STAT_LAST_ERR (i : Nat) : Fld := ⟨R.CH_STAT i, 8, 4⟩
/-- R411 -/
def R.CH_TRIG (i : Nat) : Nat := 0x400B1050 + 0x80 * i
def F.CH_TRIG_SRC (i : Nat) : Fld := ⟨R.CH_TRIG i, 0, 3⟩
def F.CH_TRIG_IDX (i : Nat) : Fld := ⟨R.CH_TRIG i, 4, 5⟩
/-- R414 -/
def R.CH_ERRADDR (i : Nat) : Nat := 0x400B1054 + 0x80 * i
def F.CH_ERRADDR_ADDR (i : Nat) : Fld := ⟨R.CH_ERRADDR i, 0, 32⟩
/-- R414 -/
def R.CH_ERRINFO (i : Nat) : Nat := 0x400B1058 + 0x80 * i
def F.CH_ERRINFO_ERR (i : Nat) : Fld := ⟨R.CH_ERRINFO i, 0, 4⟩
def F.CH_ERRINFO_WRITE (i : Nat) : Fld := ⟨R.CH_ERRINFO i, 4, 1⟩
def F.CH_ERRINFO_DESC (i : Nat) : Fld := ⟨R.CH_ERRINFO i, 5, 1⟩
def F.CH_ERRINFO_TRIES (i : Nat) : Fld := ⟨R.CH_ERRINFO i, 6, 3⟩
/-- R413 -/
def R.CH_SRC (i : Nat) : Nat := 0x400B105C + 0x80 * i
def F.CH_SRC_ADDR (i : Nat) : Fld := ⟨R.CH_SRC i, 0, 32⟩
/-- R413 -/
def R.CH_DST (i : Nat) : Nat := 0x400B1060 + 0x80 * i
def F.CH_DST_ADDR (i : Nat) : Fld := ⟨R.CH_DST i, 0, 32⟩
/-- R413 -/
def R.CH_POSX (i : Nat) : Nat := 0x400B1064 + 0x80 * i
def F.CH_POSX_X (i : Nat) : Fld := ⟨R.CH_POSX i, 0, 16⟩
/-- R413 -/
def R.CH_POSYZ (i : Nat) : Nat := 0x400B1068 + 0x80 * i
def F.CH_POSYZ_Y (i : Nat) : Fld := ⟨R.CH_POSYZ i, 0, 16⟩
def F.CH_POSYZ_Z (i : Nat) : Fld := ⟨R.CH_POSYZ i, 16, 16⟩
/-- R413 -/
def R.CH_BYTES (i : Nat) : Nat := 0x400B106C + 0x80 * i
def F.CH_BYTES_COUNT (i : Nat) : Fld := ⟨R.CH_BYTES i, 0, 32⟩
/-- R413 -/
def R.CH_DONE (i : Nat) : Nat := 0x400B1070 + 0x80 * i
def F.CH_DONE_COUNT (i : Nat) : Fld := ⟨R.CH_DONE i, 0, 32⟩
/-- R411 -/
def R.CH_PERIOD (i : Nat) : Nat := 0x400B1074 + 0x80 * i
def F.CH_PERIOD_PERIOD (i : Nat) : Fld := ⟨R.CH_PERIOD i, 0, 24⟩
/-- R413 -/
def R.CH_LAST (i : Nat) : Nat := 0x400B1078 + 0x80 * i
def F.CH_LAST_ADDR (i : Nat) : Fld := ⟨R.CH_LAST i, 0, 32⟩
/-- R414 -/
def R.CH_TRIES (i : Nat) : Nat := 0x400B107C + 0x80 * i
def F.CH_TRIES_COUNT (i : Nat) : Fld := ⟨R.CH_TRIES i, 0, 16⟩
/-- R398 -/
def R.MEM_OWNER (i : Nat) : Nat := 0x400C0040 + 0x4 * i
def F.MEM_OWNER_OWNER (i : Nat) : Fld := ⟨R.MEM_OWNER i, 0, 5⟩
def F.MEM_OWNER_EXPECT (i : Nat) : Fld := ⟨R.MEM_OWNER i, 8, 5⟩
def F.MEM_OWNER_DMA_DELEGATE (i : Nat) : Fld := ⟨R.MEM_OWNER i, 16, 1⟩
def F.MEM_OWNER_DMA_RDONLY (i : Nat) : Fld := ⟨R.MEM_OWNER i, 17, 1⟩
def F.MEM_OWNER_ROT (i : Nat) : Fld := ⟨R.MEM_OWNER i, 18, 1⟩
def F.MEM_OWNER_PENDING (i : Nat) : Fld := ⟨R.MEM_OWNER i, 24, 1⟩
def F.MEM_OWNER_PREV (i : Nat) : Fld := ⟨R.MEM_OWNER i, 25, 5⟩
/-- R397 -/
def R.MEM_OWNERR (i : Nat) : Nat := 0x400C01C0 + 0x4 * i
def F.MEM_OWNERR_BANK (i : Nat) : Fld := ⟨R.MEM_OWNERR i, 0, 32⟩
/-- R402 -/
def R.MEM_ECCCNT : Nat := 0x400C01CC
def F.MEM_ECCCNT_COUNT : Fld := ⟨R.MEM_ECCCNT, 0, 32⟩
/-- R402 -/
def R.MEM_ECCADDR : Nat := 0x400C01D0
def F.MEM_ECCADDR_ADDR : Fld := ⟨R.MEM_ECCADDR, 0, 32⟩
/-- R402 -/
def R.MEM_SCRUB : Nat := 0x400C01D4
def F.MEM_SCRUB_PERIOD : Fld := ⟨R.MEM_SCRUB, 0, 8⟩
/-- R373 -/
def R.CORE_STAT (n : Nat) : Nat := 0x400D0040 + 0x1000 * n
def F.CORE_STAT_STATE (n : Nat) : Fld := ⟨R.CORE_STAT n, 0, 2⟩
def F.CORE_STAT_NMI_ACT (n : Nat) : Fld := ⟨R.CORE_STAT n, 2, 1⟩
def F.CORE_STAT_EXC_ACT (n : Nat) : Fld := ⟨R.CORE_STAT n, 3, 1⟩
def F.CORE_STAT_ECAUSE (n : Nat) : Fld := ⟨R.CORE_STAT n, 4, 4⟩
def F.CORE_STAT_WBDROP (n : Nat) : Fld := ⟨R.CORE_STAT n, 8, 8⟩
/-- R373 -/
def R.CORE_PC (n : Nat) : Nat := 0x400D0044 + 0x1000 * n
def F.CORE_PC_PC (n : Nat) : Fld := ⟨R.CORE_PC n, 0, 17⟩
/-- R371 -/
def R.CORE_EADDR (n : Nat) : Nat := 0x400D0048 + 0x1000 * n
def F.CORE_EADDR_ADDR (n : Nat) : Fld := ⟨R.CORE_EADDR n, 0, 32⟩
/-- R368 -/
def R.CORE_IPEND (n : Nat) : Nat := 0x400D004C + 0x1000 * n
def F.CORE_IPEND_PEND (n : Nat) : Fld := ⟨R.CORE_IPEND n, 0, 32⟩
/-- R374 -/
def R.CORE_DOORBELL (n : Nat) : Nat := 0x400D0050 + 0x1000 * n
def F.CORE_DOORBELL_RING (n : Nat) : Fld := ⟨R.CORE_DOORBELL n, 0, 1⟩
/-- R369 -/
def R.CORE_IMAP (n i : Nat) : Nat := 0x400D0060 + 0x1000 * n + 0x4 * i
def F.CORE_IMAP_PAGE_A (n i : Nat) : Fld := ⟨R.CORE_IMAP n i, 0, 12⟩
def F.CORE_IMAP_EN_A (n i : Nat) : Fld := ⟨R.CORE_IMAP n i, 15, 1⟩
def F.CORE_IMAP_PAGE_B (n i : Nat) : Fld := ⟨R.CORE_IMAP n i, 16, 12⟩
def F.CORE_IMAP_EN_B (n i : Nat) : Fld := ⟨R.CORE_IMAP n i, 31, 1⟩
/-- R372 -/
def R.CORE_WDT (n : Nat) : Nat := 0x400D0090 + 0x1000 * n
def F.CORE_WDT_PERIOD (n : Nat) : Fld := ⟨R.CORE_WDT n, 0, 16⟩
/-- R374 -/
def R.CORE_CYCLE (n : Nat) : Nat := 0x400D0094 + 0x1000 * n
def F.CORE_CYCLE_CYCLE (n : Nat) : Fld := ⟨R.CORE_CYCLE n, 0, 32⟩
/-- R374 -/
def R.CORE_RETIRED (n : Nat) : Nat := 0x400D0098 + 0x1000 * n
def F.CORE_RETIRED_COUNT (n : Nat) : Fld := ⟨R.CORE_RETIRED n, 0, 32⟩
/-- R493 -/
def R.PCIE_STAT : Nat := 0x400E0040
def F.PCIE_STAT_LINK_UP : Fld := ⟨R.PCIE_STAT, 0, 1⟩
def F.PCIE_STAT_SPEED : Fld := ⟨R.PCIE_STAT, 1, 2⟩
def F.PCIE_STAT_WIDTH : Fld := ⟨R.PCIE_STAT, 3, 2⟩
def F.PCIE_STAT_BME : Fld := ⟨R.PCIE_STAT, 5, 1⟩
def F.PCIE_STAT_D3HOT : Fld := ⟨R.PCIE_STAT, 6, 1⟩
/-- R495 -/
def R.PCIE_W2BASE : Nat := 0x400E0044
def F.PCIE_W2BASE_BANK : Fld := ⟨R.PCIE_W2BASE, 0, 7⟩
/-- R494 -/
def R.PCIE_ERRADDR : Nat := 0x400E0048
def F.PCIE_ERRADDR_ADDR : Fld := ⟨R.PCIE_ERRADDR, 0, 32⟩
/-- R497 -/
def R.PCIE_EOI : Nat := 0x400E004C
def F.PCIE_EOI_VEC : Fld := ⟨R.PCIE_EOI, 0, 5⟩
/-- R497 -/
def R.PCIE_PINMASK : Nat := 0x400E0050
def F.PCIE_PINMASK_MASK : Fld := ⟨R.PCIE_PINMASK, 0, 32⟩
/-- R496 -/
def R.PCIE_FHADDR0 : Nat := 0x400E0054
def F.PCIE_FHADDR0_ADDR : Fld := ⟨R.PCIE_FHADDR0, 0, 32⟩
/-- R496 -/
def R.PCIE_FHADDR1 : Nat := 0x400E0058
def F.PCIE_FHADDR1_ADDR : Fld := ⟨R.PCIE_FHADDR1, 0, 32⟩
/-- R496 -/
def R.PCIE_FLADDR : Nat := 0x400E005C
def F.PCIE_FLADDR_ADDR : Fld := ⟨R.PCIE_FLADDR, 0, 32⟩
/-- R496 -/
def R.PCIE_FLEN : Nat := 0x400E0060
def F.PCIE_FLEN_LEN : Fld := ⟨R.PCIE_FLEN, 0, 21⟩
/-- R496 -/
def R.PCIE_FCMD : Nat := 0x400E0064
def F.PCIE_FCMD_GO : Fld := ⟨R.PCIE_FCMD, 0, 1⟩
def F.PCIE_FCMD_DIR : Fld := ⟨R.PCIE_FCMD, 1, 1⟩
/-- R496 -/
def R.PCIE_FSTAT : Nat := 0x400E0068
def F.PCIE_FSTAT_BUSY : Fld := ⟨R.PCIE_FSTAT, 0, 1⟩
def F.PCIE_FSTAT_RESULT : Fld := ⟨R.PCIE_FSTAT, 1, 3⟩
/-- R497 -/
def R.PCIE_VMAP (i : Nat) : Nat := 0x400E0080 + 0x4 * i
def F.PCIE_VMAP_PAGE (i : Nat) : Fld := ⟨R.PCIE_VMAP i, 0, 12⟩
def F.PCIE_VMAP_EN (i : Nat) : Fld := ⟨R.PCIE_VMAP i, 15, 1⟩
/-- R497 -/
def R.PCIE_MSIX (i : Nat) : Nat := 0x400E0400 + 0x4 * i
def F.PCIE_MSIX_DATA (i : Nat) : Fld := ⟨R.PCIE_MSIX i, 0, 32⟩
/-- R497 -/
def R.PCIE_PBA (i : Nat) : Nat := 0x400E0600 + 0x4 * i
def F.PCIE_PBA_PEND (i : Nat) : Fld := ⟨R.PCIE_PBA i, 0, 32⟩
/-- R500 -/
def R.SPIT_CFG : Nat := 0x400E1040
def F.SPIT_CFG_CRC : Fld := ⟨R.SPIT_CFG, 0, 1⟩
/-- R499 -/
def R.SPIT_STAT : Nat := 0x400E1044
def F.SPIT_STAT_STATUS : Fld := ⟨R.SPIT_STAT, 0, 8⟩
/-- R501 -/
def R.UART_CFG (i : Nat) : Nat := 0x400E2040 + 0x10 * i
def F.UART_CFG_RATE (i : Nat) : Fld := ⟨R.UART_CFG i, 0, 3⟩
def F.UART_CFG_EN (i : Nat) : Fld := ⟨R.UART_CFG i, 3, 1⟩
/-- R501 -/
def R.UART_DATA (i : Nat) : Nat := 0x400E2044 + 0x10 * i
def F.UART_DATA_DATA (i : Nat) : Fld := ⟨R.UART_DATA i, 0, 8⟩
def F.UART_DATA_VALID (i : Nat) : Fld := ⟨R.UART_DATA i, 8, 1⟩
/-- R501 -/
def R.UART_STAT (i : Nat) : Nat := 0x400E2048 + 0x10 * i
def F.UART_STAT_TXFREE (i : Nat) : Fld := ⟨R.UART_STAT i, 0, 7⟩
def F.UART_STAT_RXCNT (i : Nat) : Fld := ⟨R.UART_STAT i, 8, 7⟩
def F.UART_STAT_RXOVR (i : Nat) : Fld := ⟨R.UART_STAT i, 16, 1⟩
/-- R503 -/
def R.QSPI_CFG : Nat := 0x400E2060
def F.QSPI_CFG_K : Fld := ⟨R.QSPI_CFG, 0, 2⟩
def F.QSPI_CFG_FORM : Fld := ⟨R.QSPI_CFG, 2, 2⟩
/-- R503 -/
def R.QSPI_CMD : Nat := 0x400E2064
def F.QSPI_CMD_OPCODE : Fld := ⟨R.QSPI_CMD, 0, 8⟩
def F.QSPI_CMD_ADDR_EN : Fld := ⟨R.QSPI_CMD, 8, 1⟩
def F.QSPI_CMD_DUMMY : Fld := ⟨R.QSPI_CMD, 9, 5⟩
def F.QSPI_CMD_LEN : Fld := ⟨R.QSPI_CMD, 14, 9⟩
def F.QSPI_CMD_WRITE : Fld := ⟨R.QSPI_CMD, 23, 1⟩
def F.QSPI_CMD_GO : Fld := ⟨R.QSPI_CMD, 31, 1⟩
/-- R503 -/
def R.QSPI_ADDR : Nat := 0x400E2068
def F.QSPI_ADDR_ADDR : Fld := ⟨R.QSPI_ADDR, 0, 32⟩
/-- R503 -/
def R.QSPI_DATA : Nat := 0x400E206C
def F.QSPI_DATA_DATA : Fld := ⟨R.QSPI_DATA, 0, 32⟩
/-- R503 -/
def R.QSPI_STAT : Nat := 0x400E2070
def F.QSPI_STAT_BUSY : Fld := ⟨R.QSPI_STAT, 0, 1⟩
/-- R504 -/
def R.MDIO_CMD : Nat := 0x400E2080
def F.MDIO_CMD_PHYAD : Fld := ⟨R.MDIO_CMD, 0, 5⟩
def F.MDIO_CMD_REGAD : Fld := ⟨R.MDIO_CMD, 5, 5⟩
def F.MDIO_CMD_OP : Fld := ⟨R.MDIO_CMD, 10, 2⟩
def F.MDIO_CMD_C45 : Fld := ⟨R.MDIO_CMD, 12, 1⟩
def F.MDIO_CMD_NOPRE : Fld := ⟨R.MDIO_CMD, 13, 1⟩
def F.MDIO_CMD_DATA : Fld := ⟨R.MDIO_CMD, 16, 16⟩
/-- R504 -/
def R.MDIO_STAT : Nat := 0x400E2084
def F.MDIO_STAT_BUSY : Fld := ⟨R.MDIO_STAT, 0, 1⟩
def F.MDIO_STAT_DATA : Fld := ⟨R.MDIO_STAT, 16, 16⟩
/-- R508 -/
def R.MBX_RINGS : Nat := 0x400E3040
def F.MBX_RINGS_CMDBANK : Fld := ⟨R.MBX_RINGS, 0, 7⟩
def F.MBX_RINGS_RSPBANK : Fld := ⟨R.MBX_RINGS, 8, 7⟩
/-- R508 -/
def R.MBX_CMDPI : Nat := 0x400E3044
def F.MBX_CMDPI_IDX : Fld := ⟨R.MBX_CMDPI, 0, 16⟩
/-- R508 -/
def R.MBX_CMDCI : Nat := 0x400E3048
def F.MBX_CMDCI_IDX : Fld := ⟨R.MBX_CMDCI, 0, 16⟩
/-- R508 -/
def R.MBX_RSPPI : Nat := 0x400E304C
def F.MBX_RSPPI_IDX : Fld := ⟨R.MBX_RSPPI, 0, 16⟩
/-- R508 -/
def R.MBX_RSPCI : Nat := 0x400E3050
def F.MBX_RSPCI_IDX : Fld := ⟨R.MBX_RSPCI, 0, 16⟩
/-- R295 -/
def R.AUX_DACCFG : Nat := 0x400F0040
def F.AUX_DACCFG_OUT : Fld := ⟨R.AUX_DACCFG, 0, 2⟩
def F.AUX_DACCFG_DRL : Fld := ⟨R.AUX_DACCFG, 2, 5⟩
def F.AUX_DACCFG_SAFE_EN : Fld := ⟨R.AUX_DACCFG, 7, 1⟩
def F.AUX_DACCFG_STEPMAX : Fld := ⟨R.AUX_DACCFG, 8, 20⟩
/-- R295 -/
def R.AUX_DACNEXT : Nat := 0x400F0044
def F.AUX_DACNEXT_TARGET : Fld := ⟨R.AUX_DACNEXT, 0, 20⟩
def F.AUX_DACNEXT_PEND : Fld := ⟨R.AUX_DACNEXT, 31, 1⟩
/-- R296 -/
def R.AUX_DAC : Nat := 0x400F0048
def F.AUX_DAC_V : Fld := ⟨R.AUX_DAC, 0, 20⟩
/-- R295 -/
def R.AUX_DACMIN : Nat := 0x400F004C
def F.AUX_DACMIN_LIMIT : Fld := ⟨R.AUX_DACMIN, 0, 20⟩
/-- R295 -/
def R.AUX_DACMAX : Nat := 0x400F0050
def F.AUX_DACMAX_LIMIT : Fld := ⟨R.AUX_DACMAX, 0, 20⟩
/-- R297 -/
def R.AUX_ADCCFG : Nat := 0x400F0054
def F.AUX_ADCCFG_MASK : Fld := ⟨R.AUX_ADCCFG, 0, 8⟩
def F.AUX_ADCCFG_DRL : Fld := ⟨R.AUX_ADCCFG, 8, 5⟩
def F.AUX_ADCCFG_FREE : Fld := ⟨R.AUX_ADCCFG, 13, 1⟩
def F.AUX_ADCCFG_AVG : Fld := ⟨R.AUX_ADCCFG, 14, 3⟩
/-- R297 -/
def R.AUX_ADCSTAT : Nat := 0x400F0058
def F.AUX_ADCSTAT_SCANS : Fld := ⟨R.AUX_ADCSTAT, 0, 16⟩
def F.AUX_ADCSTAT_BUSY : Fld := ⟨R.AUX_ADCSTAT, 16, 1⟩
/-- R297 -/
def R.AUX_ADCTIME : Nat := 0x400F005C
def F.AUX_ADCTIME_NS : Fld := ⟨R.AUX_ADCTIME, 0, 30⟩
/-- R297 -/
def R.AUX_RES (i : Nat) : Nat := 0x400F0060 + 0x4 * i
def F.AUX_RES_VALUE (i : Nat) : Fld := ⟨R.AUX_RES i, 0, 16⟩
def F.AUX_RES_VALID (i : Nat) : Fld := ⟨R.AUX_RES i, 16, 1⟩
def F.AUX_RES_SCANS (i : Nat) : Fld := ⟨R.AUX_RES i, 24, 8⟩
/-- R505 -/
def R.GPIO_IN : Nat := 0x400F1040
def F.GPIO_IN_LEVEL : Fld := ⟨R.GPIO_IN, 0, 16⟩
/-- R505 -/
def R.GPIO_OUT : Nat := 0x400F1044
def F.GPIO_OUT_OUT : Fld := ⟨R.GPIO_OUT, 0, 16⟩
/-- R505 -/
def R.GPIO_SET : Nat := 0x400F1048
def F.GPIO_SET_PIN : Fld := ⟨R.GPIO_SET, 0, 16⟩
/-- R505 -/
def R.GPIO_CLR : Nat := 0x400F104C
def F.GPIO_CLR_PIN : Fld := ⟨R.GPIO_CLR, 0, 16⟩
/-- R505 -/
def R.GPIO_DIR : Nat := 0x400F1050
def F.GPIO_DIR_DIR : Fld := ⟨R.GPIO_DIR, 0, 16⟩
/-- R505 -/
def R.GPIO_OD : Nat := 0x400F1054
def F.GPIO_OD_OD : Fld := ⟨R.GPIO_OD, 0, 16⟩
/-- R505 -/
def R.GPIO_PULL : Nat := 0x400F1058
def F.GPIO_PULL_PULL : Fld := ⟨R.GPIO_PULL, 0, 32⟩
/-- R505 -/
def R.GPIO_EDGE : Nat := 0x400F105C
def F.GPIO_EDGE_EDGE : Fld := ⟨R.GPIO_EDGE, 0, 32⟩
/-- R505 -/
def R.GPIO_DEB : Nat := 0x400F1060
def F.GPIO_DEB_DEB : Fld := ⟨R.GPIO_DEB, 0, 16⟩
/-- R506 -/
def R.GPIO_SAFE : Nat := 0x400F1064
def F.GPIO_SAFE_SAFE : Fld := ⟨R.GPIO_SAFE, 0, 32⟩
/-- R331 -/
def R.PAIR_CFG : Nat := 0x40100040
def F.PAIR_CFG_EN : Fld := ⟨R.PAIR_CFG, 0, 1⟩
def F.PAIR_CFG_AUTO : Fld := ⟨R.PAIR_CFG, 1, 1⟩
def F.PAIR_CFG_PORTS : Fld := ⟨R.PAIR_CFG, 8, 4⟩
/-- R332 -/
def R.PAIR_CMD : Nat := 0x40100044
def F.PAIR_CMD_OP : Fld := ⟨R.PAIR_CMD, 0, 3⟩
/-- R332 -/
def R.PAIR_STAT : Nat := 0x40100048
def F.PAIR_STAT_LINK : Fld := ⟨R.PAIR_STAT, 0, 1⟩
def F.PAIR_STAT_ROLE : Fld := ⟨R.PAIR_STAT, 1, 2⟩
def F.PAIR_STAT_ATT : Fld := ⟨R.PAIR_STAT, 3, 2⟩
def F.PAIR_STAT_HB_OK : Fld := ⟨R.PAIR_STAT, 5, 1⟩
def F.PAIR_STAT_DIVERGED : Fld := ⟨R.PAIR_STAT, 6, 1⟩
def F.PAIR_STAT_FENCED : Fld := ⟨R.PAIR_STAT, 7, 1⟩
def F.PAIR_STAT_MISS : Fld := ⟨R.PAIR_STAT, 8, 2⟩
/-- R335 -/
def R.PAIR_OFFSET : Nat := 0x4010004C
def F.PAIR_OFFSET_PS : Fld := ⟨R.PAIR_OFFSET, 0, 32⟩
/-- R335 -/
def R.PAIR_RTT : Nat := 0x40100050
def F.PAIR_RTT_PS : Fld := ⟨R.PAIR_RTT, 0, 32⟩
/-- R335 -/
def R.PAIR_ASYM : Nat := 0x40100054
def F.PAIR_ASYM_PS : Fld := ⟨R.PAIR_ASYM, 0, 32⟩
/-- R330 -/
def R.PAIR_VMAC0 : Nat := 0x40100058
def F.PAIR_VMAC0_OCT : Fld := ⟨R.PAIR_VMAC0, 0, 32⟩
/-- R330 -/
def R.PAIR_VMAC1 : Nat := 0x4010005C
def F.PAIR_VMAC1_OCT : Fld := ⟨R.PAIR_VMAC1, 0, 16⟩
/-- R338 -/
def R.PAIR_MBASE : Nat := 0x40100060
def F.PAIR_MBASE_BANK : Fld := ⟨R.PAIR_MBASE, 0, 7⟩
/-- R337 -/
def R.PAIR_MTXDESC : Nat := 0x40100064
def F.PAIR_MTXDESC_TYPE : Fld := ⟨R.PAIR_MTXDESC, 0, 8⟩
def F.PAIR_MTXDESC_LEN : Fld := ⟨R.PAIR_MTXDESC, 8, 9⟩
/-- R337 -/
def R.PAIR_MTXDATA : Nat := 0x40100068
def F.PAIR_MTXDATA_DATA : Fld := ⟨R.PAIR_MTXDATA, 0, 32⟩
/-- R337 -/
def R.PAIR_MTXCMD : Nat := 0x4010006C
def F.PAIR_MTXCMD_GO : Fld := ⟨R.PAIR_MTXCMD, 0, 1⟩
def F.PAIR_MTXCMD_BUSY : Fld := ⟨R.PAIR_MTXCMD, 1, 1⟩
/-- R340 -/
def R.PAIR_TOC : Nat := 0x40100070
def F.PAIR_TOC_CAUSE : Fld := ⟨R.PAIR_TOC, 0, 3⟩
def F.PAIR_TOC_NS : Fld := ⟨R.PAIR_TOC, 8, 24⟩
/-- R343 -/
def R.PAIR_SEQTICK : Nat := 0x40100074
def F.PAIR_SEQTICK_TICK : Fld := ⟨R.PAIR_SEQTICK, 0, 7⟩
def F.PAIR_SEQTICK_SEC : Fld := ⟨R.PAIR_SEQTICK, 8, 24⟩

/-- Table 2-3: the common header registers of the page at `p`. -/
def R.PAGE_ID (p : Nat) : Nat := p
def R.PAGE_CAPS (p : Nat) : Nat := p + 0x004
def R.PAGE_CTRL (p : Nat) : Nat := p + 0x008
def R.PAGE_STAT (p : Nat) : Nat := p + 0x00C
def R.IRQ_RAW (p : Nat) : Nat := p + 0x010
def R.IRQ_EN (p : Nat) : Nat := p + 0x014
def R.IRQ_STAT (p : Nat) : Nat := p + 0x018
def R.ERR_STICKY (p : Nat) : Nat := p + 0x01C
def R.ERR_INFO (p : Nat) : Nat := p + 0x020
def R.PAGE_COMMIT (p : Nat) : Nat := p + 0x024
def R.PAGE_LOCK (p : Nat) : Nat := p + 0x028
/-- Fields of the header (R44 to R47, R56). -/
def F.CTRL_ENABLE (p : Nat) : Fld := ⟨R.PAGE_CTRL p, 0, 1⟩
def F.CTRL_SOFT_RESET (p : Nat) : Fld := ⟨R.PAGE_CTRL p, 1, 1⟩
def F.CTRL_SHADOW_HOLD (p : Nat) : Fld := ⟨R.PAGE_CTRL p, 2, 1⟩
def F.STAT_RUNNING (p : Nat) : Fld := ⟨R.PAGE_STAT p, 0, 1⟩
def F.STAT_BUSY (p : Nat) : Fld := ⟨R.PAGE_STAT p, 1, 1⟩
def F.STAT_IN_RESET (p : Nat) : Fld := ⟨R.PAGE_STAT p, 3, 1⟩
def F.LOCK_LOCK (p : Nat) : Fld := ⟨R.PAGE_LOCK p, 0, 1⟩
def F.LOCK_LOCKER (p : Nat) : Fld := ⟨R.PAGE_LOCK p, 8, 5⟩

end Sys2Proof.Machine
end

