-- ==== Sys2Proof/Machine/Sparse.lean ====
section
/-! DEFINITION. Sparse tables: lists of (key, value) pairs in one canonical form. Keys rise strictly, and no entry
equals what an unlisted key reads as (the default `d` of the table), so that equal tables are equal lists. The
register file, the memories and the tables of slots and channels are all held this way. -/

namespace Sys2Proof.Machine.Sparse

variable {α : Type}

/-- What key `k` reads as. -/
def get (d : Nat → α) : List (Nat × α) → Nat → α
  | [], k => d k
  | (i, v) :: m, k => if i = k then v else get d m k

/-- The table without its entries for `k`. -/
def erase : List (Nat × α) → Nat → List (Nat × α)
  | [], _ => []
  | (i, v) :: m, k => if i = k then erase m k else (i, v) :: erase m k

/-- The table with an entry put before the first greater key. -/
def insert : List (Nat × α) → Nat → α → List (Nat × α)
  | [], k, v => [(k, v)]
  | (i, w) :: m, k, v => if k < i then (k, v) :: (i, w) :: m else (i, w) :: insert m k v

/-- The table with `k` reading as `v`. Writing the default removes the entry. -/
def set [DecidableEq α] (d : Nat → α) (m : List (Nat × α)) (k : Nat) (v : α) : List (Nat × α) :=
  if v = d k then erase m k else insert (erase m k) k v

/-- The entries that a run of values at `k`, `k + 1`, ... makes: those other than the value `d` that unlisted keys read
as. -/
def entries [DecidableEq α] (d : α) : Nat → List α → List (Nat × α)
  | _, [] => []
  | k, v :: vs => if v = d then entries d (k + 1) vs else (k, v) :: entries d (k + 1) vs

/-- The table with a run of values stored from `k` on, for a table whose unlisted keys all read as `d`. -/
def setRange [DecidableEq α] (d : α) (m : List (Nat × α)) (k : Nat) (vs : List α) : List (Nat × α) :=
  m.filter (fun e => decide (e.1 < k)) ++ entries d k vs ++ m.filter (fun e => decide (k + vs.length ≤ e.1))

/-- The canonical form above a lower bound on the keys. -/
def wfFrom [DecidableEq α] (d : Nat → α) : Nat → List (Nat × α) → Bool
  | _, [] => true
  | lo, (i, v) :: m => decide (lo ≤ i) && decide (v ≠ d i) && wfFrom d (i + 1) m

/-- The canonical form of a table. -/
def wf [DecidableEq α] (d : Nat → α) (m : List (Nat × α)) : Bool := wfFrom d 0 m

/-- The values of the keys `k`, `k + 1`, ... (`n` of them) of a canonical table with no key below `k`, unlisted keys reading as `d`. -/
def dense (d : α) : Nat → Nat → List (Nat × α) → List α
  | 0, _, _ => []
  | n + 1, k, [] => d :: dense d n (k + 1) []
  | n + 1, k, (i, v) :: m => if i = k then v :: dense d n (k + 1) m else d :: dense d n (k + 1) ((i, v) :: m)

end Sys2Proof.Machine.Sparse
end

