-- ==== Sys2Proof/Machine/Ops.lean ====
section
/-! DEFINITION. The named operations over the register store: reading and writing a register or a field, the common
header (R44 to R49), sticky bits and their frozen record (R46), the shadow store and its transfer (R50 to R54), the
access checks of register space (R39, R40, R43, R48, R56, R58, R62) and the generic register write (REGISTER_WRITE).
Every block file uses these and nothing below them. -/

namespace Sys2Proof.Machine

/-- Initiator IDs of Table 2-2. -/
def Init.SC0 : Nat := 0x09
def Init.SC1 : Nat := 0x0A
def Init.MC : Nat := 0x0B
def Init.NYM : Nat := 0x0C
def Init.CHS : Nat := 0x10
def Init.ACQ : Nat := 0x11
def Init.DFE : Nat := 0x12
def Init.PTP : Nat := 0x13
def Init.HOST : Nat := 0x14
def Init.PAIR : Nat := 0x15
def Init.DBG : Nat := 0x16
def Init.DMA : Nat := 0x17

/-- Owner codes that a bank may have (R397). -/
def validOwner (o : Nat) : Bool := o ≤ 0x0C || (0x10 ≤ o && o ≤ 0x15)

/-- Base address of the 4 KiB page that holds an address. -/
def pageOf (a : Nat) : Nat := a / 4096 * 4096

/-- Offset of an address in its page. -/
def offOf (a : Nat) : Nat := a % 4096

/-- The row of Table 2-5 that holds the page at `p`, with the page's number in the row. -/
def findKind (p : Nat) : List PageKind → Option (PageKind × Nat)
  | [] => none
  | k :: ks =>
    if k.base ≤ p && p < k.base + 4096 * k.count && p % 4096 = 0 then some (k, (p - k.base) / 4096)
    else findKind p ks

def kindOf (p : Nat) : Option (PageKind × Nat) := findKind p pageKinds

/-- Indices of offset `o` in a register row, when it is one of its registers. -/
def RegRow.hit (r : RegRow) (o : Nat) : Bool :=
  if o < r.off then false
  else
    let d := o - r.off
    let i := if r.stride = 0 then 0 else d / r.stride
    let e := if r.stride = 0 then d else d % r.stride
    let k := if r.stride2 = 0 then 0 else e / r.stride2
    let z := if r.stride2 = 0 then e else e % r.stride2
    i < r.count && k < r.count2 && z = 0

def findRow (o : Nat) : List RegRow → Option RegRow
  | [] => none
  | r :: rs => if r.hit o then some r else findRow o rs

/-- The fields of the register at address `a` (block-specific area), when the spec describes one there. -/
def fieldsAt (a : Nat) : Option (List FieldRow) :=
  match kindOf (pageOf a) with
  | none => none
  | some (k, _) => (findRow (offOf a) k.regs).map (·.fields)

/-- The blocks of R49, whose PAGE_CTRL.ENABLE is fixed at 1 and whose SOFT_RESET is reserved. -/
def alwaysOn (p : Nat) : Bool :=
  p ∈ [P.SYS, P.PMU, P.CLK, P.CMON, P.RTC, P.AON, P.TOC, P.NYM, P.MEM]

def hasUpd (u : Upd) (k : PageKind) : Bool := k.regs.any fun r => r.fields.any fun f => f.upd = u

/-- Sum of the fields' reset values in place. -/
def fieldsReset : List FieldRow → Nat
  | [] => 0
  | f :: fs => f.reset % 2 ^ f.width * 2 ^ f.lsb + fieldsReset fs

/-- Reset values that depend on the page's or the register's number, or that are factory values (R547), OTP values or
values the table words instead of giving: the whole register word. -/
def specialReset (a : Nat) : Option Nat :=
  let p := pageOf a
  let o := offOf a
  let n := (p / 4096) % 16
  if P.RFE 0 ≤ p ∧ p ≤ P.RFE 15 ∧ o = 0x040 then some (n % 2 + n / 2 * 2 + 2 * 16)
  else if P.DFE 0 ≤ p ∧ p ≤ P.DFE 15 ∧ o = 0x120 then some (n * 4)
  else if (a = R.SYN_FREQ 0 ∨ a = R.SYN_ACT 0) then some (31 * 2 ^ 24 + 0xB00000)
  else if (a = R.SYN_FREQ 1 ∨ a = R.SYN_ACT 1) then some (24 * 2 ^ 24 + 0xA00000)
  else if (p = P.ARR 0 ∨ p = P.ARR 1) ∧ 0x100 ≤ o ∧ o < 0x180 then
    some (if o % 0x20 = 0 then 0x4000 else 0)
  else if p = P.CMON ∧ 0x050 ≤ o ∧ o < 0x068 then
    some (match (o - 0x050) / 4 with | 0 => 50000 | 1 => 20 | 2 => 50000 | 3 => 500 | 5 => 100 | _ => 0)
  else if a = R.PMU_OPPV 0 then some (760 + Config.factory 0 % 41)
  else if a = R.PMU_OPPV 1 then some (660 + Config.factory 1 % 41)
  else if a = R.PMU_OPPV 2 then some (580 + Config.factory 2 % 41)
  else if a = R.CAL_INTDLY then
    some (4000 + Config.factory 3 % 5001 + (4000 + Config.factory 4 % 5001) * 2 ^ 16)
  else if P.ETH 0 ≤ p ∧ p ≤ P.ETH 3 ∧ (o = 0x044 ∨ o = 0x048) then
    -- four consecutive MAC addresses, ETH0 the lowest; bits 0 and 1 of octet 0 are 0 (R547)
    let mac := Config.factory 5 % (2 ^ 48 - 4) / 2 ^ 42 * 2 ^ 42 + Config.factory 5 % (2 ^ 40 - 4) + n
    some (if o = 0x044 then mac % 2 ^ 32 else mac / 2 ^ 32 % 2 ^ 16)
  else if a = R.PTP_CLKID0 then some (Config.factory 6 % 2 ^ 32)
  else if a = R.PTP_CLKID1 then some (Config.factory 7 % 2 ^ 32)
  else if a = R.NYM_STAT then some 1
  else if a = R.PMU_RAILS then some 0xFF
  else if p = P.PCIE ∧ 0x400 ≤ o ∧ o < 0x600 then some (if o % 16 = 12 then 1 else 0)
  else none

/-- PAGE_CAPS: NREG, and whether the page holds S and H fields. -/
def capsWord (k : PageKind) : Nat :=
  k.nreg % 2048 * 2 ^ 16 + b2n (hasUpd .shadow k) * 2 ^ 27 + b2n (hasUpd .halted k) * 2 ^ 28

/-- The reset value of the register at address `a`; 0 where the spec describes none. -/
def resetWord (a : Nat) : Word :=
  match kindOf (pageOf a) with
  | none => 0
  | some (k, n) =>
    let o := offOf a
    if o = 0x000 then BitVec.ofNat 32 (k.type * 2 ^ 16 + n * 2 ^ 8 + 1)
    else if o = 0x004 then BitVec.ofNat 32 (capsWord k)
    else if o = 0x008 then BitVec.ofNat 32 k.enable
    else if o = 0x00C then BitVec.ofNat 32 k.enable
    else if o < 0x040 then 0
    else
      match specialReset a with
      | some v => BitVec.ofNat 32 v
      | none =>
        match findRow o k.regs with
        | none => 0
        | some r => BitVec.ofNat 32 (fieldsReset r.fields)

namespace State

/-- The value in force of the register at `a`. -/
def reg (s : State) (a : Nat) : Word := Sparse.get resetWord s.rf a

/-- `s` with the register at `a` holding `w`. -/
def setReg (s : State) (a : Nat) (w : Word) : State := { s with rf := Sparse.set resetWord s.rf a w }

/-- A field's value in force. -/
def fld (s : State) (f : Fld) : Nat := getBits (s.reg f.addr) f.lsb f.width

/-- A field's value in force, read as two's complement. -/
def fldI (s : State) (f : Fld) : Int := signed f.width (s.fld f)

/-- A one-bit field as a Boolean. -/
def flag (s : State) (f : Fld) : Bool := s.fld f = 1

/-- `s` with a field holding `v`. -/
def setFld (s : State) (f : Fld) (v : Nat) : State := s.setReg f.addr (putBits (s.reg f.addr) f.lsb f.width v)

/-- `s` with a field holding an integer in two's complement. -/
def setFldI (s : State) (f : Fld) (v : Int) : State := s.setFld f (unsigned f.width v)

/-- `s` with a one-bit field holding `b`. -/
def setFlag (s : State) (f : Fld) (b : Bool) : State := s.setFld f (b2n b)

/-- A counter field that saturates, advanced by `k`. -/
def satFld (s : State) (f : Fld) (k : Nat) : State := s.setFld f (satAdd f.width (s.fld f) k)

/-- A counter field that wraps, advanced by `k`. -/
def addFld (s : State) (f : Fld) (k : Nat) : State := s.setFld f (s.fld f + k)

/-- A bit of a register. -/
def regBit (s : State) (a i : Nat) : Bool := getBits (s.reg a) i 1 = 1

/-- `s` with one bit of a register set to `b`. -/
def setRegBit (s : State) (a i : Nat) (b : Bool) : State := s.setReg a (putBits (s.reg a) i 1 (b2n b))

/-- Set bit `b` of the page's IRQ_RAW (an event of the block). -/
def irq (s : State) (page b : Nat) : State := s.setRegBit (R.IRQ_RAW page) b true

/-- ERR_INFO as R46 freezes it. -/
def errWord (off init b detail : Nat) (write : Bool) : Word :=
  BitVec.ofNat 32 (off % 4096 + b2n write * 2 ^ 12 + init % 32 * 2 ^ 13 + b % 32 * 2 ^ 18
    + detail % 256 * 2 ^ 23 + 2 ^ 31)

/-- Every bit set in a page's ERR_STICKY was set in this cycle: its transition has not gone to Tocsin yet. -/
def stickyNew (s : State) (page : Nat) : Bool :=
  let m := s.tocPend.foldl (fun (w : Word) e => if e.page = page then w ||| maskBits e.bit 1 else w) 0
  s.reg (R.ERR_STICKY page) &&& ~~~m = 0

/-- Set sticky bit `b` of a page (R46): the first error while ERR_STICKY is zero freezes ERR_INFO, of several in one cycle the
lowest bit; a rise from 0 to 1 goes to Tocsin's queue (R513). -/
def stickyAt (s : State) (page b : Nat) (off : Nat) (write : Bool) (init detail : Nat) : State :=
  let st := s.reg (R.ERR_STICKY page)
  let w := errWord off init b detail write
  let frees := st = 0 ∨ (s.stickyNew page ∧ b < getBits (s.reg (R.ERR_INFO page)) 18 5)
  let s1 : State := if frees then
      { s.setReg (R.ERR_INFO page) w with
        tocPend := s.tocPend.map fun e => if e.page = page then { e with info := w } else e }
    else s
  if getBits st b 1 = 1 then s1
  else
    let s2 := s1.setRegBit (R.ERR_STICKY page) b true
    { s2 with tocPend := s2.tocPend ++ [⟨page, b, s2.reg (R.ERR_INFO page)⟩] }

/-- A sticky bit raised by an internal event: offset, direction and initiator read 0. -/
def sticky (s : State) (page b : Nat) (detail : Nat := 0) : State := s.stickyAt page b 0 false 0 detail

/-- Clear sticky bits by a W1C write; ERR_INFO reads 0 once none is left (R46). -/
def clearSticky (s : State) (page mask : Nat) : State :=
  let st := s.reg (R.ERR_STICKY page)
  let w := st &&& ~~~(BitVec.ofNat 32 mask)
  let s1 := s.setReg (R.ERR_STICKY page) w
  if w = 0 then s1.setReg (R.ERR_INFO page) 0 else s1

/-- PAGE_STAT.RUNNING of a page. -/
def running (s : State) (page : Nat) : Bool := s.flag (F.STAT_RUNNING page)

/-- PAGE_CTRL.ENABLE of a page. -/
def enabled (s : State) (page : Nat) : Bool := s.flag (F.CTRL_ENABLE page)

def inReset (s : State) (page : Nat) : Bool := s.flag (F.STAT_IN_RESET page)

def hold (s : State) (page : Nat) : Bool := s.flag (F.CTRL_SHADOW_HOLD page)

/-- The pins stand at the safe states of Table 18-4: from the isolation point to the restore phase of the exit (R455), during
clock-monitor SAFE_WAIT (R468), and while the device is held in reset (Table 1-7; DEDUCED, log entry 80). -/
def pinsForced (s : State) : Bool := s.pmu.isolated || s.flag F.CMON_STAT_SAFE_WAIT || s.pmu.deviceReset

/-- Debug is open: in MANUFACTURE and RMA, or under a debug grant (R433). -/
def debugOpen (s : State) : Bool :=
  s.fld F.NYM_STAT_LCS = 0 || s.fld F.NYM_STAT_LCS = 3 || s.flag F.NYM_STAT_DEBUG

/-- The next free value, and the state that has used it up (DESIGN CHOICE, log entry 3). -/
def fresh (s : State) : BitVec 64 × State := (Config.freeValue s.freeCount, { s with freeCount := s.freeCount + 1 })

/-! ### Shadow store (R50 to R54) -/

/-- Bits of the register at `a` written since the last transfer. -/
def shadowMask (s : State) (a : Nat) : Word := Sparse.get (fun _ => 0) s.shM a

/-- Last value written to those bits. -/
def shadowVal (s : State) (a : Nat) : Word := Sparse.get (fun _ => 0) s.shV a

/-- A write of the S bits `m` of the register at `a`. -/
def putShadow (s : State) (a : Nat) (m v : Word) : State :=
  { s with
    shV := Sparse.set (fun _ => 0) s.shV a ((s.shadowVal a &&& ~~~m) ||| (v &&& m))
    shM := Sparse.set (fun _ => 0) s.shM a (s.shadowMask a ||| m) }

/-- A write of the S bits `m` of the register at `a` that takes effect at once: the value of an older write that still waits in
the shadow is gone (R51). -/
def putDirect (s : State) (a : Nat) (m v : Word) : State :=
  let s1 := s.setReg a ((s.reg a &&& ~~~m) ||| (v &&& m))
  { s1 with
    shV := Sparse.set (fun _ => 0) s.shV a (s.shadowVal a &&& ~~~m)
    shM := Sparse.set (fun _ => 0) s.shM a (s.shadowMask a &&& ~~~m) }

/-- The register as a read shows it: the last value written, for S bits (R51). -/
def written (s : State) (a : Nat) : Word :=
  (s.reg a &&& ~~~(s.shadowMask a)) ||| (s.shadowVal a &&& s.shadowMask a)

/-- Transfer the shadowed bits of one register. -/
def transferOne (s : State) (a : Nat) : State :=
  let s1 := s.setReg a (s.written a)
  { s1 with
    shV := Sparse.set (fun _ => 0) s1.shV a 0
    shM := Sparse.set (fun _ => 0) s1.shM a 0 }

def transferList (s : State) : List Nat → State
  | [] => s
  | a :: as => transferList (s.transferOne a) as

/-- Addresses with shadowed bits that a predicate selects. -/
def shadowed (s : State) (sel : Nat → Bool) : List Nat := (s.shM.map (·.1)).filter sel

/-- A commit point: every selected S field transfers together (R52). -/
def transfer (s : State) (sel : Nat → Bool) : State := s.transferList (s.shadowed sel)

/-- A hardware commit point of a page; SHADOW_HOLD suspends it (R53). -/
def commitPoint (s : State) (page : Nat) : State :=
  if s.hold page then s else s.transfer fun a => pageOf a = page

/-- Discard the unapplied shadow values of a page (R47). -/
def dropShadow (s : State) (page : Nat) : State :=
  { s with
    shV := s.shV.filter fun e => pageOf e.1 ≠ page
    shM := s.shM.filter fun e => pageOf e.1 ≠ page }

/-- PAGE_STAT.COMMIT_PENDING. -/
def commitPending (s : State) (page : Nat) : Bool := s.shM.any fun e => pageOf e.1 = page

/-! ### Access to register space -/

/-- The clock gate of a page (Table 18-7): register and bit, when it has one. -/
def gateBit (p : Nat) : Option (Nat × Nat) :=
  let n := p / 4096 % 16
  if P.RFE 0 ≤ p ∧ p ≤ P.RFE 15 then some (R.CLK_GATE0, n)
  else if P.DFE 0 ≤ p ∧ p ≤ P.DFE 15 then some (R.CLK_GATE0, 16 + n)
  else if p = P.SYN 0 then some (R.CLK_GATE1, 0)
  else if p = P.SYN 1 then some (R.CLK_GATE1, 1)
  else if p = P.CAL then some (R.CLK_GATE1, 2)
  else if p = P.ARR 0 then some (R.CLK_GATE1, 3)
  else if p = P.ARR 1 then some (R.CLK_GATE1, 4)
  else if p = P.XBAR then some (R.CLK_GATE1, 5)
  else if p = P.ACQ then some (R.CLK_GATE1, 6)
  else if p = P.COR ∨ (P.CORU 0 ≤ p ∧ p ≤ P.CORU 3) then some (R.CLK_GATE1, 7)
  else if p = P.CHS ∨ p = P.CHS2 then some (R.CLK_GATE1, 8)
  else if p = P.PTP ∨ (P.PTPP 0 ≤ p ∧ p ≤ P.PTPP 3) then some (R.CLK_GATE1, 9)
  else if P.ETH 0 ≤ p ∧ p ≤ P.ETH 3 then some (R.CLK_GATE1, 10 + n)
  else if p = P.PAIR then some (R.CLK_GATE1, 14)
  else if p = P.AUX then some (R.CLK_GATE1, 15)
  else if p = P.TIO then some (R.CLK_GATE1, 16)
  else if p = P.DMA ∨ p = P.DMAC then some (R.CLK_GATE1, 17)
  else if p = P.UART then some (R.CLK_GATE1, 18)
  else if p = P.GPIO then some (R.CLK_GATE1, 19)
  else none

/-- The domains of Table 18-6 whose stop for IDLE gates a page (R452). -/
def idleDomains (p : Nat) : List Nat :=
  if (P.RFE 0 ≤ p ∧ p ≤ P.RFE 15) ∨ (P.DFE 0 ≤ p ∧ p ≤ P.DFE 15) ∨ p = P.ARR 0 ∨ p = P.ARR 1 ∨ p = P.XBAR then [2]
  else if p = P.SYN 0 ∨ p = P.SYN 1 ∨ p = P.CAL then [10]
  else if p = P.COR ∨ (P.CORU 0 ≤ p ∧ p ≤ P.CORU 3) ∨ p = P.CHS ∨ p = P.CHS2 then [3]
  else if p = P.ACQ then [4]
  else if p = P.PTP ∨ (P.PTPP 0 ≤ p ∧ p ≤ P.PTPP 3) ∨ (P.ETH 0 ≤ p ∧ p ≤ P.ETH 3) then [6, 7]
  else if p = P.PAIR then [11]
  else []

/-- Domain `d` is stopped for IDLE (R452). -/
def idleStopped (s : State) (d : Nat) : Bool := s.pmu.idleDomains.contains d

/-- A page whose clock is disabled in CLK_GATE, or whose domain is stopped for IDLE (R58, R452). -/
def gated (s : State) (p : Nat) : Bool :=
  (match gateBit p with
   | some (r, b) => !(s.regBit r b)
   | none => false) || (idleDomains p).any s.idleStopped

/-- The block runs, has not been told to stop and has its clock (R45, R452, R466). -/
def live (s : State) (page : Nat) : Bool := s.running page && s.enabled page && !(s.gated page)

/-- Pages of the data and control planes (Table 1-1), which a plane reset holds in reset (R520). -/
def planePage (p : Nat) : Bool :=
  (P.RFE 0 ≤ p && p ≤ P.RFE 15) || (P.SYN 0 ≤ p && p ≤ P.CAL) || (P.DFE 0 ≤ p && p ≤ P.DFE 15) ||
  (P.ARR 0 ≤ p && p ≤ P.XBAR) || p = P.ACQ || (P.COR ≤ p && p ≤ P.CORU 3) || p = P.CHS || p = P.CHS2 ||
  (P.TBU ≤ p && p ≤ P.TIO) || (P.PTP ≤ p && p ≤ P.PTPP 3) || (P.ETH 0 ≤ p && p ≤ P.ETH 3) ||
  (P.CORE 0 ≤ p && p ≤ P.CORE 9) || p = P.AUX || p = P.PAIR

/-- Pages that a plane reset with KEEP_TIME leaves alone (R520). -/
def keepTimePage (p : Nat) : Bool := p = P.TBU || p = P.DRL || p = P.TIO || p = P.AUX

/-- A page that is powered down, or whose block the device holds in reset (R58). From the POWER phase of an entry to
the end of the WAKE phase of the exit only the AON and PMU pages answer (DEDUCED, log entry 12). -/
def held (s : State) (p : Nat) : Bool :=
  s.pmu.deviceReset
  || (s.toc.planeReset && planePage p && !(s.toc.keepTime && keepTimePage p))
  || (s.pmu.poweredDown && !(p = P.PMU || p = P.RTC || p = P.AON))

/-- Initiators that may write a page under Table 2-2. -/
def pageRight (s : State) (init p : Nat) : Bool :=
  if init = Init.MC ∨ init = Init.NYM then true
  else if 1 ≤ init ∧ init ≤ 8 then p = P.CHS || p = P.CHS2 || p = P.DMAC
  else if init = Init.SC0 ∨ init = Init.SC1 then
    p = P.TBU || p = P.DRL || p = P.TIO || p = P.AUX || p = P.PTP || (P.PTPP 0 ≤ p && p ≤ P.PTPP 3)
      || p = P.PAIR || p = P.DMAC
  else if init = Init.HOST then !(P.CORE 0 ≤ p && p ≤ P.CORE 11)
  else if init = Init.DBG then s.debugOpen && p ≠ P.CORE 11
  else if init = Init.DMA then p = P.DRL || p = P.TIO || p = P.AUX || (P.PTPP 0 ≤ p && p ≤ P.PTPP 3)
  else false

/-- The initiators a block's chapter names for a register (R43); none where Table 2-2 alone decides. -/
def writersOf (a : Nat) : Option (List Nat) :=
  let p := pageOf a
  let o := offOf a
  if a = R.SYS_MODECMD then some [Init.MC]
  else if a = R.PAIR_CMD then some [Init.MC]
  else if a = R.PMU_REQ then some [Init.MC, Init.NYM]
  else if a = R.TOC_NMIACK then some [Init.MC]
  else if a = R.TOC_ESC then some [Init.NYM]
  else if a = R.TBU_SOLQ then some [Init.SC0, Init.SC1]
  else if a = R.PCIE_FCMD then some [Init.MC]
  else if a = R.ACQ_JOBPUSH then some [Init.MC, Init.NYM]
  else if a = R.MBX_CMDPI ∨ a = R.MBX_RSPCI then some [Init.HOST]
  else if a = R.MBX_CMDCI ∨ a = R.MBX_RSPPI ∨ a = R.MBX_RINGS then some [Init.MC]
  else if p = P.UART ∧ 0x060 ≤ o ∧ o ≤ 0x070 then some [Init.MC, Init.NYM]
  else if p = P.NYM ∧ 0x080 ≤ o ∧ o < 0x100 then some [Init.HOST]
  else if p = P.NYM ∧ 0x100 ≤ o ∧ o < 0x180 then some [Init.MC, Init.SC0, Init.SC1]
  else if p = P.CHS ∧ 0x100 ≤ o ∧ o < 0x180 ∧ o % 16 < 12 then some [(o - 0x100) / 16 + 1]
  else if a = R.NYM_INTEG ∨ a = R.NYM_INTEGEP then some [Init.SC0, Init.SC1]
  else if p = P.NYM ∧ 0x040 ≤ o then some [Init.MC, Init.NYM, Init.HOST, Init.DBG]
  else none

/-- A write that Table 2-2 and the block's chapter permit (R43); DBG writes only where debug is open. A core may not write
the PAGE_CTRL of its own page (R373). -/
def mayWrite (s : State) (init a : Nat) : Bool :=
  (init ≠ Init.DBG || s.debugOpen) &&
  (match writersOf a with
   | some l => l.contains init
   | none => s.pageRight init (pageOf a)) &&
  !(1 ≤ init && init ≤ 0x0C && a = R.PAGE_CTRL (P.CORE (init - 1)))

/-- What an access of `width` bytes at register address `a` meets before any field is looked at (R40, R58, R39,
R48). -/
def accessCheck (s : State) (a width : Nat) : Resp :=
  let p := pageOf a
  if (kindOf p).isNone then .decode
  else if s.held p then .targetReset
  else if s.gated p then .none
  else if width ≠ 4 ∨ a % 4 ≠ 0 then .align
  else if s.inReset p ∧ 0x040 ≤ offOf a then .targetReset
  else .served

/-- A page whose RUNNING the H fields of page `p` are judged by: the unit pages follow COR (R212), every other page itself (R50). -/
def judgePage (p : Nat) : Nat := if P.CORU 0 ≤ p ∧ p ≤ P.CORU 3 then P.COR else p

/-- The block counts as running for the H fields at `a` (R50): R55 for DMAC, R135 for the capture fields of DFE,
RUNNING elsewhere. -/
def haltedBusy (s : State) (a : Nat) : Bool :=
  let p := pageOf a
  if p = P.DMAC then decide (s.fld (F.CH_STAT_STATE (offOf a / 0x80)) ≠ 0)
  else if P.DFE 0 ≤ p ∧ p ≤ P.DFE 15 ∧ 0x120 ≤ offOf a then
    let st := s.fld (F.DFE_CAPSTAT_STATE (p / 4096 % 16))
    !(st = 0 || st = 4)
  else s.running (judgePage p)

/-- Mask of the fields that satisfy a predicate. -/
def fieldMask (q : FieldRow → Bool) : List FieldRow → Word
  | [] => 0
  | f :: fs => (if q f then maskBits f.lsb f.width else 0) ||| fieldMask q fs

/-- Replace the bits `m` of the register at `a` by those of `v`. -/
def putMasked (s : State) (a : Nat) (m v : Word) : State := s.setReg a ((s.reg a &&& ~~~m) ||| (v &&& m))

/-- An S field written at `a` takes effect at once: its page does not run (R51), or it belongs to a Drumline trigger
whose EN in force is 0 (R286). -/
def shadowDirect (s : State) (a : Nat) : Bool :=
  !(s.running (pageOf a)) ||
    (pageOf a = P.DRL && offOf a < 0x240 && offOf a % 16 ≠ 12 && !(s.flag (F.DRL_CFG_EN ((offOf a - 0x40) / 16))))

/-- Apply a write to the fields of a block-specific register under their access codes and update classes (R41, R50,
R51, R56). WO fields act as commands and are not stored. -/
def writeFields (s : State) (init a : Nat) (fs : List FieldRow) (v : Word) : State :=
  let p := pageOf a
  let locked := s.flag (F.LOCK_LOCK p)
  let mL := fieldMask (fun f => f.acc = .rw && f.upd = .live) fs
  let mS := fieldMask (fun f => f.acc = .rw && f.upd = .shadow) fs
  let mH := fieldMask (fun f => f.acc = .rw && f.upd = .halted) fs
  let mC := fieldMask (fun f => f.acc = .w1c) fs
  let s := s.putMasked a mL v
  let s := s.setReg a (s.reg a &&& ~~~(v &&& mC))
  if locked ∧ (mS ||| mH) ≠ 0 then s.stickyAt p 1 (offOf a) true init 0
  else
    let s := if mS = 0 then s else if s.shadowDirect a then s.putDirect a mS v else s.putShadow a mS v
    if mH = 0 then s
    else if s.haltedBusy a then
      if (v &&& mH) = (s.reg a &&& mH) then s else s.stickyAt p 0 (offOf a) true init 0
    else s.putMasked a mH v

/-- Initiators that Table 2-6 gives register space (R62). -/
def regSpace (init : Nat) : Bool :=
  (1 ≤ init && init ≤ 0x0C) || init = Init.HOST || init = Init.DBG || init = Init.DMA

/-- A register the spec describes lies at `a` (R40); the rest of the header and of the page is unmapped. -/
def mapped (a : Nat) : Bool :=
  if offOf a < 0x040 then offOf a ≤ 0x028 else (fieldsAt a).isSome

/-- Before the boot stage releases MC (R25). -/
def beforeMc (s : State) : Bool := decide (s.fld F.NYM_STAT_BOOT ≠ 4)

/-- A write that R43 refuses: ERR_STICKY.ACCESS, or the more specific bit that a chapter names (R25). -/
def refuseWrite (s : State) (init a : Nat) : State :=
  if a = R.SYS_MODECMD then s.stickyAt P.SYS 8 (offOf a) true init 0
  else s.stickyAt (pageOf a) 3 (offOf a) true init (if pageOf a = P.ACQ then s.fld F.ACQ_COUNT_RETIRED % 256 else 0)

/-- How an access ends for its initiator. -/
def respond (s : State) (r : Resp) : State := { s with resp := r }

/-- A write by HOST before the boot stage has released MC is ignored (R25); one of SYS_MODECMD is also one from an initiator
other than MC. -/
def refuseEarly (s : State) (a : Nat) : State :=
  (if a = R.SYS_MODECMD then s.refuseWrite Init.HOST a else s).stickyAt P.SYS 9 (offOf a) true Init.HOST 0

/-- A write of `width` bytes to the register at `a`: what it meets before it acts (R62, R58, R39, R48, R25, R40, R43),
and then `act`. -/
def viaWidth (s : State) (init a width : Nat) (act : State → State) : State :=
  if !(regSpace init) then s.respond .decode
  else
    match s.accessCheck a width with
    | .served =>
      let s1 := s.respond .served
      if init = Init.HOST ∧ s1.beforeMc then s1.refuseEarly a
      else if !(mapped a) then s1.stickyAt (pageOf a) 5 (offOf a) true init 0
      else if s1.mayWrite init a then act s1
      else s1.refuseWrite init a
    | .align => (s.respond .align).stickyAt (pageOf a) 4 (offOf a) true init 0
    | .none => s.respond .served
    | r => s.respond r

/-- A word write to the register at `a`. -/
def via (s : State) (init a : Nat) (act : State → State) : State := s.viaWidth init a 4 act

end State

end Sys2Proof.Machine
end

