-- ==== Sys2Proof/Machine/Rf.lean ====
section
/-! DEFINITION. Antenna ports, RF paths, synthesisers, the antenna-feed supervisor and the calibration injector:
spec/03_antenna_rf.md (R63 to R92) and spec/04_calibration_injector.md (R93 to R105). A synthesiser's state of Table
3-2 is what SYN_STAT shows; the injector's state of Table 4-1 is CAL_STAT.STATE.
Readings: log entries 16, 17, 18, 19, 24 (DEDUCED). -/

namespace Sys2Proof.Machine

/-- States of Table 3-2. -/
inductive SynState where
  | off | unlocked | cal | settle | locked
deriving DecidableEq, Repr

namespace State

/-! ### Calibration injector (R93 to R104) -/

/-- Injector states of Table 4-1, as CAL_STAT.STATE codes. -/
def calState (s : State) : Nat := s.fld F.CAL_STAT_STATE

def setCalState (s : State) (st : Nat) : State :=
  (s.setFld F.CAL_STAT_STATE st).setFlag (F.STAT_RUNNING P.CAL) (st ≠ 0)

/-- Number of the highest line asserted, plus 1; 0 with none. -/
def calLinesUp (s : State) : Nat :=
  let l := s.fld F.CAL_STAT_LINES
  if bit l 3 then 4 else if bit l 2 then 3 else if bit l 1 then 2 else if bit l 0 then 1 else 0

/-- One release step: the highest line asserted goes inactive; with none left the injector is IDLE (R99). -/
def calReleaseOne (s : State) : State :=
  match s.calLinesUp with
  | 0 => s.setCalState 0
  | k + 1 =>
    let s1 := s.setFld F.CAL_STAT_LINES (setBit (s.fld F.CAL_STAT_LINES) k false)
    if s1.calLinesUp = 0 then s1.setCalState 0 else s1

/-- The level of pin CAL_CTLk: the line's level under POL, inactive while the pins are forced (R99, Table 18-4). -/
def calLine (s : State) (k : Nat) : Bool :=
  (!s.pinsForced && bit (s.fld F.CAL_STAT_LINES) k) == bit (s.fld F.CAL_POL_POL) k

/-- The lines go inactive under the isolation clamps (R99). -/
def calClamp (s : State) : State := (s.setFld F.CAL_STAT_LINES 0).setCalState 0

/-- The state of the injector as a stop cause finds it: in the cycle of a stop, the state that the stop left (R98). Two commands
fall in one cycle when neither time nor a sample lies between them (DESIGN CHOICE, log entry 75). -/
def calWas (s : State) : Nat :=
  match s.rfs.calStop with
  | none => s.calState
  | some (n, t, st) => if s.tbu.samp = n ∧ s.tbu.time = t ∧ (s.calState = 0 ∨ s.calState = 4) then st else s.calState

def calStopMark (s : State) : State :=
  { s with rfs := { s.rfs with calStop := some (s.tbu.samp, s.tbu.time, s.calState) } }

/-- Entry to SEQ_OFF. RF stops at once; the internal route completes its release at once. LEVEL_OK clears (DESIGN CHOICE, log
entry 75), and CAL_LATCH has no meaning while the injector does not radiate: a free value (R102; log entry 3). -/
def calStopNow (s : State) : State :=
  let (v, s1) := s.calStopMark.fresh
  let s2 := (s1.setReg R.CAL_LATCH (v.setWidth 32)).setFlag F.CAL_LATCHV_VALID false
  ((s2.setFlag F.CAL_STAT_LEVEL_OK false).setCalState 4).calReleaseOne

/-- The injector leaves HELD, SEQ_ON or RADIATE for a cause (Table 4-1); a later cause of the same cycle leaves its mark alone
(R98). -/
def calEnd (s : State) (mark : State → State) : State :=
  match s.calWas with
  | 1 => mark (if s.calState = 1 then s.calStopMark.setCalState 0 else s)
  | 2 => mark (if s.calState = 2 then s.calStopNow else s)
  | 3 => mark (if s.calState = 3 then s.calStopNow else s)
  | _ => s

/-- The length of the injector's code, 10,230 chips, in the unit of `Rf.code`. -/
def injLength : Nat := 10230 * 2 ^ 18 * 25000

/-- The phase of the injector's code at the DAC at SAMP count `n` (10.23 Mcps: 1,023 / 25,000 chip in a SAMP cycle). -/
def injPhase (s : State) (n : Nat) : Nat :=
  (s.rfs.code.2 + (n + 2 ^ 48 - s.rfs.code.1) % 2 ^ 48 * (1023 * 2 ^ 18)) % injLength

/-- RF on: the injector enters RADIATE. The spec gives the code no starting phase: a free value (DESIGN CHOICE, log entry 3). -/
def calRadiate (s : State) : State :=
  let (v, s1) := s.fresh
  ({ s1 with rfs := { s1.rfs with code := (s1.tbu.samp, v.toNat % injLength) } } : State).setCalState 3

/-- The chosen synthesiser is LOCKED: SEQ_ON on the external route, whose first line asserts at once, or RADIATE. -/
def calStart (s : State) : State :=
  if s.flag F.CAL_CFG_ROUTE then (s.setCalState 2).setFld F.CAL_STAT_LINES 1 else s.calRadiate

/-- A synthesiser enters LOCKED: a held GO on it proceeds (Table 4-1). -/
def calSynLocked (s : State) (b : Nat) : State :=
  if s.calState = 1 ∧ s.fld F.CAL_CFG_SYN = b then s.calStart else s

/-- A synthesiser leaves LOCKED: SYN_STOP in SEQ_ON and RADIATE (R97, Table 4-1). -/
def calSynLeft (s : State) (b : Nat) : State :=
  if (s.calWas = 2 ∨ s.calWas = 3) ∧ s.fld F.CAL_CFG_SYN = b then
    s.calEnd fun t => (t.setFlag F.CAL_STAT_SYN_STOP true).sticky P.CAL 10
  else s

/-- LEVEL in force, clamped (CAL_LEVEL): output level = -0.5 dBm x code. -/
def calLevel (s : State) : Nat := clampNat 20 160 (s.fld F.CAL_LEVEL_LEVEL)

/-- The route and level that R95 allows in a mode. -/
def calModeAllows (s : State) (mode : Nat) : Nat :=
  if mode = 0 then 1
  else if mode = 7 then 0
  else if s.flag F.CAL_CFG_ROUTE then 5
  else if s.calLevel < 60 then 4
  else 0

/-- A change of operating mode stops the injector in SEQ_ON and RADIATE; in HELD only a mode that R95 does not allow does
(Table 4-1). -/
def calModeChange (s : State) (mode : Nat) : State :=
  if s.calWas = 1 ∧ s.calModeAllows mode = 0 then s
  else s.calEnd fun t => t.setFlag F.CAL_STAT_MODE_STOP true

/-- IF bandwidth of path p in MHz (RFE_CFG.IF_BW). -/
def ifBw (s : State) (p : Nat) : Nat :=
  let c := s.fld (F.RFE_CFG_IF_BW p)
  if p % 2 = 0 then (match c with | 0 => 20 | 1 => 40 | _ => 60)
  else (match c with | 0 => 60 | 1 => 100 | _ => 140)

/-- The narrowest IF bandwidth among the eight paths of band b. -/
def narrowestBw (s : State) (b : Nat) : Nat :=
  ((List.range 8).map fun e => s.ifBw (2 * e + b)).foldl min 140

/-- R94: f_c in the band limits of R63 and within BW/2 - 5 MHz of the LO. Frequencies in units of 2^-32 Hz. f_LO is SYN_ACT, also
while the synthesiser calibrates or settles to another frequency (DESIGN CHOICE, log entry 75). -/
def calOffsetOk (s : State) : Bool :=
  let b := s.fld F.CAL_CFG_SYN
  let off : Int := 250000000 * s.fldI F.CAL_OFFSET_OFFSET
  let lo : Int := 50000000 * 256 * (s.fld (F.SYN_ACT_FREQ b) : Int)
  let fc := lo + off
  let mhz : Int := 1000000 * 4294967296
  let (l, u) : Int × Int := if b = 0 then (1559, 1610) else (1164, 1300)
  decide (l * mhz ≤ fc) && decide (fc ≤ u * mhz)
    && decide (2 * off.natAbs ≤ (s.narrowestBw b - 10) * 1000000 * 4294967296)

/-- State of synthesiser b (Table 3-2), as SYN_STAT shows it. -/
def synState (s : State) (b : Nat) : SynState :=
  if !(s.flag (F.SYN_STAT_ON b)) then .off
  else if s.flag (F.SYN_STAT_LOCK b) then .locked
  else if s.flag (F.SYN_STAT_CALIBRATING b) then .cal
  else if s.flag (F.SYN_STAT_SETTLING b) then .settle
  else .unlocked

/-- The reason a GO is refused (CAL_STAT.REFUSE), 0 where it is accepted; the lowest code present (DEDUCED, log entry 20). -/
def calRefuse (s : State) : Nat :=
  let m := s.calModeAllows (s.fld F.SYS_MODE_MODE)
  if m = 1 then 1
  else if s.synState (s.fld F.CAL_CFG_SYN) = .off then 2
  else if !s.calOffsetOk then 3
  else m

/-- CAL_CMD.GO (R94 to R96). -/
def calGo (s : State) (init : Nat) : State :=
  if s.calState ≠ 0 then s.setFlag F.CAL_STAT_GO_BUSY true
  else
    let r := s.calRefuse
    if r ≠ 0 then (s.setFld F.CAL_STAT_REFUSE r).stickyAt P.CAL 12 0x040 true init 0
    else if s.synState (s.fld F.CAL_CFG_SYN) = .locked then s.calStart
    else s.setCalState 1

/-- CAL_CMD.STOP: ends the command in HELD, SEQ_ON and RADIATE. -/
def calStop (s : State) : State := s.calEnd id

/-- CAL_HOLD.TIMEOUT reached in HELD. -/
def calHoldTimeout (s : State) : State :=
  if s.calState = 1 then ((s.setCalState 0).setFlag F.CAL_STAT_GO_TIMEOUT true).sticky P.CAL 9 else s

/-- The next CAL_CTL line asserts; RF on at the last (R99). A synthesiser that is not LOCKED prevents RF on (R98). -/
def calSeqStep (s : State) : State :=
  if s.calState = 2 then
    let k := s.calLinesUp
    let s1 := s.setFld F.CAL_STAT_LINES (setBit (s.fld F.CAL_STAT_LINES) k true)
    if k = 3 then
      if s.synState (s.fld F.CAL_CFG_SYN) = .locked then s1.calRadiate else s
    else s1
  else s

/-- The next line releases (R99). -/
def calReleaseStep (s : State) : State :=
  if s.calState = 4 then { s with rfs := { s.rfs with calStop := none } }.calReleaseOne else s

/-- A 10 us return-loss window ends: CAL_RL takes the measurement; worse than RL_TH stops the injector (R101).
`rl` in 0.1 dB, `pwr` in -0.1 dBm. -/
def calRlWindow (s : State) (rl pwr : Nat) : State :=
  if s.calWas = 3 then
    let s1 := (s.setFld F.CAL_RL_RL rl).setFld F.CAL_RL_PWR pwr
    if rl < 5 * clampNat 8 40 (s.fld F.CAL_MATCH_RL_TH) then
      s1.calEnd fun t => (t.setFlag F.CAL_STAT_MISMATCH_STOP true).sticky P.CAL 8
    else s1
  else s

/-- The level has been within 0.5 dB for 10 us (R100). It stays through an excursion and a LEVEL change (DESIGN CHOICE, log entry
75). -/
def calLevelOk (s : State) : State := if s.calState = 3 then s.setFlag F.CAL_STAT_LEVEL_OK true else s

def calLevelFail (s : State) : State := if s.calState = 3 then s.sticky P.CAL 11 else s

/-- The epoch latch at SAMP count `n` captures the code phase (R102): the phase at the DAC, delayed by the 576 SAMP cycles from the
ADC to the streams (R207). While the injector does not radiate the value has no meaning: it is a free value (DESIGN CHOICE, log
entry 3). -/
def calLatch (s : State) (n : Nat) : State :=
  if s.calState = 3 then
    let u := s.injPhase n
    let v := (u + injLength - 576 * (1023 * 2 ^ 18)) % injLength / 25000
    (({ s with rfs := { s.rfs with code := (n, u) } } : State).setReg R.CAL_LATCH (BitVec.ofNat 32 v)).setFlag F.CAL_LATCHV_VALID true
  else
    let (v, s1) := s.fresh
    (s1.setReg R.CAL_LATCH (v.setWidth 32)).setFlag F.CAL_LATCHV_VALID false

/-! ### Synthesisers (R74 to R83) -/

def synGet (s : State) (b : Nat) : Syn := s.rfs.syn.getD b ⟨false, 0⟩

def synSet (s : State) (b : Nat) (y : Syn) : State := { s with rfs := { s.rfs with syn := s.rfs.syn.set b y } }

/-- Enter a state of Table 3-2. Leaving LOCKED stops the injector on this synthesiser; entering it increments
PHASE_EPOCH and releases a held GO. -/
def synEnter (s : State) (b : Nat) (st : SynState) : State :=
  let was := s.synState b
  let s1 := (((s.setFlag (F.SYN_STAT_ON b) (st ≠ .off)).setFlag (F.SYN_STAT_LOCK b) (st = .locked)).setFlag
    (F.SYN_STAT_CALIBRATING b) (st = .cal)).setFlag (F.SYN_STAT_SETTLING b) (st = .settle)
  let s2 := if was = .locked ∧ st ≠ .locked then s1.calSynLeft b else s1
  if st = .locked ∧ was ≠ .locked then (s2.addFld (F.SYN_STAT_PHASE_EPOCH b) 1).calSynLocked b else s2

/-- Tuning range of R74, on a SYN_FREQ word: 50 MHz x word / 2^24 lies in it. -/
def synInRange (b w : Nat) : Bool :=
  let (l, u) := if b = 0 then (1540, 1630) else (1150, 1320)
  decide (l * 2 ^ 24 ≤ 50 * w) && decide (50 * w ≤ u * 2 ^ 24)

/-- The 12 MHz window about SYN_CALFREQ (R76); outside it while nothing has been calibrated. -/
def synInWindow (s : State) (b w : Nat) : Bool :=
  let c := s.fld (F.SYN_CALFREQ_FREQ b)
  c ≠ 0 && decide (50 * ((w : Int) - (c : Int)).natAbs ≤ 12 * 2 ^ 24)

/-- The frequency that SYN_FREQ holds in force. -/
def synWanted (s : State) (b : Nat) : Nat := (s.reg (R.SYN_FREQ b)).toNat % 2 ^ 30

/-- Act on the frequency in force in LOCKED or UNLOCKED (R76, Table 3-2): one outside the tuning range, outside the window, or
both, is refused with the bit of each. -/
def synActOnFreq (s : State) (b : Nat) : State :=
  let w := s.synWanted b
  if w = s.fld (F.SYN_ACT_FREQ b) then s
  else if synInRange b w && s.synInWindow b w then (s.synSet b ⟨false, w⟩).synEnter b .settle
  else
    let s1 := if synInRange b w then s else s.sticky (P.SYN b) 8
    if s.synInWindow b w then s1 else s1.sticky (P.SYN b) 9

/-- A commit of SYN_FREQ (SYN_RETUNE, R76). -/
def synRetune (s : State) (b : Nat) : State :=
  if s.synWanted b = s.fld (F.SYN_ACT_FREQ b) ∧ !(s.synGet b).retune then s
  else
    match s.synState b with
    | .off => s
    | .locked => s.synActOnFreq b
    | .unlocked => s.synActOnFreq b
    | .cal => s.synSet b { s.synGet b with retune := true }
    | .settle => s.synSet b { s.synGet b with retune := true }

/-- Start a calibration at frequency `w` (Table 3-2): cause 1 = CAL written, 2 = temperature. A retune that waits for LOCKED
still does. -/
def synStartCal (s : State) (b w cause : Nat) : State :=
  ((s.synSet b ⟨(s.synGet b).retune, w⟩).setFld (F.SYN_STAT_LAST_CAL b) cause).synEnter b .cal

/-- SYN_CTRL.CAL written 1: a pending SYN_FREQ transfers, then calibration at that frequency (R75). -/
def synCal (s : State) (b init : Nat) : State :=
  let s1 := s.transfer fun a => a = R.SYN_FREQ b
  match s1.synState b with
  | .off => s1
  | .cal =>
    if s.shadowMask (R.SYN_FREQ b) = 0 ∨ s1.synWanted b = (s1.synGet b).target then s1
    else s1.synSet b { s1.synGet b with retune := true }
  | _ =>
    if synInRange b (s1.synWanted b) then s1.synStartCal b (s1.synWanted b) 1
    else s1.stickyAt (P.SYN b) 8 0x040 true init 0

/-- The 1 ms temperature sample, in 0.0625 degC (R75): beyond DELTA from AT_CAL it starts a calibration at SYN_ACT. -/
def synTempSample (s : State) (b : Nat) (t : Int) : State :=
  let s1 := s.setFldI (F.SYN_TEMP_NOW b) t
  let delta := clampNat 2 60 (s1.fld (F.SYN_TCAL_DELTA b))
  let drift := (s1.fldI (F.SYN_TEMP_NOW b) - s1.fldI (F.SYN_TEMP_AT_CAL b)).natAbs
  if s1.flag (F.SYN_TEMP_CAL_V b) ∧ 16 * delta < drift then
    match s1.synState b with
    | .off => s1
    | .cal => s1
    | _ => s1.synStartCal b (s1.fld (F.SYN_ACT_FREQ b)) 2
  else s1

/-- Lock achieved in CAL or SETTLE, or regained in UNLOCKED (Table 3-2). -/
def synLockAchieved (s : State) (b : Nat) : State :=
  let y := s.synGet b
  let s1 :=
    match s.synState b with
    | .cal =>
      ((((((s.setFld (F.SYN_CALFREQ_FREQ b) y.target).setFld (F.SYN_ACT_FREQ b) y.target).setFld
        (F.SYN_TEMP_AT_CAL b) (s.fld (F.SYN_TEMP_NOW b))).setFlag (F.SYN_TEMP_CAL_V b) true).satFld
        (F.SYN_COUNT_CALS b) 1).synSet b { y with retune := false }).synEnter b .locked
    | .settle =>
      ((s.setFld (F.SYN_ACT_FREQ b) y.target).synSet b { y with retune := false }).synEnter b .locked
    | .unlocked => (s.synSet b { y with retune := false }).synEnter b .locked
    | .off => s
    | .locked => s
  if y.retune ∧ s1.synState b = .locked then s1.synActOnFreq b else s1

/-- The lock detector drops in LOCKED. -/
def synLockLost (s : State) (b : Nat) : State :=
  if s.synState b = .locked then
    ((s.synEnter b .unlocked).satFld (F.SYN_COUNT_LOSSES b) 1).sticky (P.SYN b) 10
  else s

/-- 1 ms without lock in CAL or SETTLE. A retune that waits for LOCKED still does. -/
def synLockTimeout (s : State) (b : Nat) : State :=
  let s1 := s.synSet b ⟨(s.synGet b).retune, 0⟩
  match s.synState b with
  | .cal => (s1.synEnter b .unlocked).sticky (P.SYN b) 11
  | .settle => (s1.synEnter b .unlocked).sticky (P.SYN b) 10
  | _ => s

/-- PAGE_CTRL.ENABLE of a synthesiser (Table 3-2). -/
def synEnable (s : State) (b : Nat) (on : Bool) : State :=
  if on then (if s.synState b = .off then (s.synEnter b .unlocked).setFlag (F.STAT_RUNNING (P.SYN b)) true else s)
  else ((s.synSet b ⟨false, 0⟩).synEnter b .off).setFlag (F.STAT_RUNNING (P.SYN b)) false

/-! ### RF paths (R66 to R73) -/

def pathGet (s : State) (p : Nat) : Path := s.rfs.path.getD p Path.reset

def pathSet (s : State) (p : Nat) (x : Path) : State := { s with rfs := { s.rfs with path := s.rfs.path.set p x } }

/-- The cause for which path p marks its samples invalid now, 0 with none (R67, RFE_STAT.INV_CAUSE). -/
def pathCause (s : State) (p : Nat) : Nat :=
  if !(s.enabled (P.RFE p)) then 1
  else
    match s.synState (p % 2) with
    | .cal => 2
    | .settle => 2
    | .unlocked => 3
    | .off => 3
    | .locked => if (s.pathGet p).lnaWindow then 4 else 0

/-- RFE_STAT as it reads: INVALID and INV_CAUSE follow R67. -/
def rfeStatWord (s : State) (p : Nat) : Word :=
  let c := s.pathCause p
  BitVec.ofNat 32 (b2n (c ≠ 0) + c * 2 + s.fld (F.RFE_STAT_OVL p) * 16)

/-- LNA_STEP as it acts: 7 acts as 6. -/
def lnaStep (s : State) (p : Nat) : Nat := min 6 (s.fld (F.RFE_GAIN_LNA_STEP p))

/-- What a transfer of RFE fields does in the path: an LNA step change opens the 64-cycle window of R67, the manual VGA code
acts in mode 0, and mode 3 freezes the present code. -/
def pathApply (s : State) (p : Nat) : State :=
  let s1 :=
    if s.lnaStep p = s.fld (F.RFE_AGCSTAT_LNA p) then s
    else (s.setFld (F.RFE_AGCSTAT_LNA p) (s.lnaStep p)).pathSet p { s.pathGet p with lnaWindow := true }
  let cur := s1.fld (F.RFE_AGCSTAT_VGA p)
  if s1.fld (F.RFE_AGC_MODE p) = 0 then
    let c := min 96 (s1.fld (F.RFE_GAIN_VGA_MAN p))
    let x := s1.pathGet p
    (s1.setFld (F.RFE_AGCSTAT_VGA p) c).pathSet p { x with nextCode := c, steady := x.steady && c = cur }
  else if s1.fld (F.RFE_AGC_MODE p) = 3 then s1.pathSet p { s1.pathGet p with nextCode := cur }
  else s1

def lnaWindowEnd (s : State) (p : Nat) : State := s.pathSet p { s.pathGet p with lnaWindow := false }

def lnaOverload (s : State) (p : Nat) (active : Bool) : State :=
  let s1 := s.setFlag (F.RFE_STAT_OVL p) active
  if active then s1.sticky (P.RFE p) 8 else s1

/-- `num / den` raised to the power 40 is at least 10 ^ (2 m + 1): 20 log10 of the ratio is at least m + 1/2. -/
def stepsAbove (num den : Nat) (m : Int) : Bool :=
  let e := 2 * m + 1
  if e < 0 then decide (den ^ 40 ≤ num ^ 40 * 10 ^ e.natAbs) else decide (den ^ 40 * 10 ^ e.natAbs ≤ num ^ 40)

/-- The number of 0.5 dB steps, rounded to nearest, that brings power `pw / cnt` to `target ^ 2` (R70): the logarithm's value,
corrected by the exact comparison. -/
def agcSteps (target pw cnt : Nat) : Int :=
  let num := target * target * cnt
  let n := decibel 2 num pw
  if stepsAbove num pw n then n + 1 else if stepsAbove num pw (n - 1) then n else n - 1

/-- rms level of I and Q over the valid samples, in LSB, rounded to nearest. -/
def rmsLevel (st : PathStats) : Nat :=
  if st.valid = 0 then 0 else (sqrtNat 12 (4 * st.sumSq / (2 * st.valid)) + 1) / 2

/-- The decision of R70: the code for block k + 2, from the steps wanted, the code during block k, the code decided for
block k + 1 and STEP_MAX. -/
def agcNext (steps : Int) (cur dec stepMax : Nat) : Nat :=
  let rest := steps - ((dec : Int) - (cur : Int))
  let lim : Int := max 1 stepMax
  ((clampInt 0 96 ((dec : Int) + clampInt (-lim) lim rest))).toNat

/-- AGC target and step limit of a page, clamped. -/
def agcTarget (s : State) (p : Nat) : Nat := clampNat 8 64 (s.fld (F.RFE_AGC_TARGET p))

/-- One path at a covariance block boundary (AGC_UPDATE, R66, R69 to R73). `lk` is the sum over the linked paths of the
band, `lead` their lowest-numbered page. Valid samples whose power is 0 have no finite number of steps to TARGET, and the
spec states none: the code rises by STEP_MAX (DESIGN CHOICE, log entry 65). -/
def pathBlockEnd (s : State) (p : Nat) (st lk : PathStats) (lead : Nat) (linkSize : Nat) : State :=
  let mode := s.fld (F.RFE_AGC_MODE p)
  let cur := s.fld (F.RFE_AGCSTAT_VGA p)
  let dec := if mode = 3 then cur else (s.pathGet p).nextCode
  let own := if mode = 2 then lk else st
  let size := if mode = 2 then linkSize * 65536 else 65536
  let leadP := if mode = 2 then lead else p
  let base := if mode = 2 then (s.pathGet lead).nextCode else dec
  let baseCur := if mode = 2 then s.fld (F.RFE_AGCSTAT_VGA lead) else cur
  let skip := (mode = 1 ∨ mode = 2) ∧ 2 * own.valid < size
  let nxt :=
    if mode = 0 then min 96 (s.fld (F.RFE_GAIN_VGA_MAN p))
    else if mode = 3 then dec
    else if skip then base
    else if own.sumSq = 0 then
      (clampNat 0 96 (base + max 1 (s.fld (F.RFE_AGC_STEP_MAX leadP))))
    else agcNext (agcSteps (s.agcTarget leadP) own.sumSq (2 * own.valid)) baseCur base
      (s.fld (F.RFE_AGC_STEP_MAX leadP))
  let kept := (s.pathGet p).steady
  let s1 := (((s.setFld (F.RFE_AGCSTAT_RMS p) (min 255 (rmsLevel st))).setFlag (F.RFE_AGCSTAT_AT_MIN p)
    (kept && cur = 0)).setFlag (F.RFE_AGCSTAT_AT_MAX p) (kept && cur = 96)).setFlag (F.RFE_AGCSTAT_NO_UPDATE p) skip
  let s2 := if 655 < st.clipped then s1.sticky (P.RFE p) 9 else s1
  let s3 := if kept ∧ (cur = 0 ∨ cur = 96) then s2.sticky (P.RFE p) 10 else s2
  (s3.setFld (F.RFE_AGCSTAT_VGA p) dec).pathSet p { s3.pathGet p with nextCode := nxt, steady := true, rmsV := true }

/-- What path p has gathered over the present block. -/
def pathStats (s : State) (p : Nat) : PathStats := (s.sig.path.getD p PathSig.reset).stats

/-- All eight paths of band b at a block boundary. -/
def bandBlockEnd (s : State) (b : Nat) : State :=
  let linked := (List.range 8).filter fun e => s.fld (F.RFE_AGC_MODE (2 * e + b)) = 2
  let lk := linked.foldl (fun (a : PathStats) e =>
    let x := s.pathStats (2 * e + b)
    { a with valid := a.valid + x.valid, sumSq := a.sumSq + x.sumSq }) PathStats.zero
  let lead := 2 * linked.headD 0 + b
  (List.range 8).reverse.foldl (fun t e => t.pathBlockEnd (2 * e + b) (t.pathStats (2 * e + b)) lk lead linked.length) s

/-! ### Antenna-feed supervisor (R85 to R92) -/

/-- ILIM of a switch in mA, clamped (ANT_CFG). -/
def antIlim (s : State) (n : Nat) : Nat := clampNat 10 150 (s.fld (F.ANT_CFG_ILIM n))

def blankSet (s : State) (n : Nat) (v : Bool) : State := { s with rfs := { s.rfs with blank := s.rfs.blank.set n v } }

/-- The switches that the pattern, the page, VANT and temperature let conduct. -/
def antAllowed (s : State) (n : Nat) : Bool :=
  s.running P.ANT && bit (s.fld F.ANT_EN_PATTERN) n && !(s.flag F.ANT_VANT_UV) && !(s.flag F.ANT_VANT_OV)
    && !(bit (s.fld F.ANT_STAT2_HOT) n)

def antOn (s : State) (n : Nat) (v : Bool) : State := s.setFld F.ANT_STAT_ON (setBit (s.fld F.ANT_STAT_ON) n v)

/-- Clear the conditions of a switch that turns off. -/
def antClear (s : State) (n : Nat) : State :=
  (((s.antOn n false).setFld F.ANT_STAT_LIMITING (setBit (s.fld F.ANT_STAT_LIMITING) n false)).setFld
    F.ANT_STAT_FOLDED (setBit (s.fld F.ANT_STAT_FOLDED) n false)).setFld F.ANT_STAT_OPEN
    (setBit (s.fld F.ANT_STAT_OPEN) n false)

/-- Bring one switch to what is allowed now; a turn-on starts blanking (R86). -/
def antApplyOne (s : State) (n : Nat) : State :=
  let on := bit (s.fld F.ANT_STAT_ON) n
  if s.antAllowed n then (if on then s else (s.antOn n true).blankSet n true)
  else if on then (s.antClear n).blankSet n false else s

def antApply (s : State) : State := (List.range 8).foldl antApplyOne s

/-- A current at its limit: outside blanking, with ILIM above 10 mA, fold-back; else the switch only limits (R85, R86). -/
def antShort (s : State) (n : Nat) : State :=
  if n < 8 ∧ bit (s.fld F.ANT_STAT_ON) n ∧ 10 < s.antIlim n ∧ !(s.rfs.blank.getD n false)
      ∧ !(bit (s.fld F.ANT_STAT_FOLDED) n) then
    ((s.setFld F.ANT_STAT_FOLDED (setBit (s.fld F.ANT_STAT_FOLDED) n true)).setFld F.ANT_STAT_LIMITING
      (setBit (s.fld F.ANT_STAT_LIMITING) n false)).sticky P.ANT (8 + n) n
  else if n < 8 ∧ bit (s.fld F.ANT_STAT_ON) n ∧ !(bit (s.fld F.ANT_STAT_FOLDED) n) then
    s.setFld F.ANT_STAT_LIMITING (setBit (s.fld F.ANT_STAT_LIMITING) n true)
  else s

/-- LIMITING follows a measured current, in 0.25 mA: the switch conducts, has not folded back and is at ILIM (R85). -/
def antLimiting (s : State) (n cur : Nat) : State :=
  s.setFld F.ANT_STAT_LIMITING (setBit (s.fld F.ANT_STAT_LIMITING) n
    (bit (s.fld F.ANT_STAT_ON) n && !(bit (s.fld F.ANT_STAT_FOLDED) n) && decide (4 * s.antIlim n ≤ cur)))

def antOpen (s : State) (n : Nat) : State :=
  if n < 8 ∧ bit (s.fld F.ANT_STAT_ON) n then
    (s.setFld F.ANT_STAT_OPEN (setBit (s.fld F.ANT_STAT_OPEN) n true)).sticky P.ANT (16 + n) n
  else s

def antBlankEnd (s : State) (n : Nat) : State := s.blankSet n false

def antAutoretry (s : State) (n : Nat) : State :=
  if n < 8 ∧ bit (s.fld F.ANT_STAT_FOLDED) n ∧ s.flag (F.ANT_CFG_AUTORETRY n) then
    s.setFld F.ANT_STAT_FOLDED (setBit (s.fld F.ANT_STAT_FOLDED) n false)
  else s

/-- One bit of ANT_REARM: a folded or hot switch restarts with blanking (R87). -/
def antRearmOne (mask : Nat) (s : State) (n : Nat) : State :=
  if bit mask n ∧ (bit (s.fld F.ANT_STAT_FOLDED) n ∨ bit (s.fld F.ANT_STAT2_HOT) n) then
    (((s.antClear n).setFld F.ANT_STAT2_HOT (setBit (s.fld F.ANT_STAT2_HOT) n false))).antApplyOne n
  else s

def antRearm (s : State) (mask : Nat) : State := (List.range 8).foldl (antRearmOne mask) s

def antOvertemp (s : State) (n : Nat) : State :=
  if n < 8 then
    (((s.antClear n).blankSet n false).setFld F.ANT_STAT2_HOT (setBit (s.fld F.ANT_STAT2_HOT) n true)).sticky P.ANT 26 n
  else s

def vantUnder (s : State) : State := ((s.setFlag F.ANT_VANT_UV true).antApply).sticky P.ANT 24

def vantOver (s : State) : State := ((s.setFlag F.ANT_VANT_OV true).antApply).sticky P.ANT 25

def vantRecover (s : State) : State := ((s.setFlag F.ANT_VANT_UV false).setFlag F.ANT_VANT_OV false).antApply

/-- PAGE_CTRL.ENABLE of ANT (R90). -/
def antEnable (s : State) (on : Bool) : State := (s.setFlag (F.STAT_RUNNING P.ANT) on).antApply

/-- A transfer of ANT fields: a rise of ILIM from 10 mA blanks short detection (R86). -/
def antIlimRaised (old : State) (s : State) (n : Nat) : State :=
  if old.antIlim n = 10 ∧ 10 < s.antIlim n then s.blankSet n true else s

/-- Hardware entry to SAFE without a device reset: the retained pattern (R89). -/
def antSafe (s : State) : State := (s.setFld F.ANT_EN_PATTERN (s.fld F.ANT_RETAIN_PATTERN)).antApply

/-- The immediate stage: the retained pattern at 10 mA where retention is valid, else all off (R89). -/
def antImmediate (s : State) (retained : Option Nat) : State :=
  let s1 := (List.range 8).foldl (fun t n => t.setFld (F.ANT_CFG_ILIM n) 10) s
  match retained with
  | some p => (((s1.setFld F.ANT_RETAIN_PATTERN p).setFlag F.ANT_RETAIN_VALID true).setFld F.ANT_EN_PATTERN p).antApply
  | none => (((s1.setFld F.ANT_RETAIN_PATTERN 0).setFlag F.ANT_RETAIN_VALID false).setFld F.ANT_EN_PATTERN 0).antApply

end State

end Sys2Proof.Machine
end

