-- ==== Sys2Proof/Machine/Spectrum.lean ====
section
/-! DEFINITION. The arithmetic of the spectral monitor (R125, R126): window, transform, bin powers, FLOOR and peaks.
Readings: log entry 66 (DESIGN CHOICE); log entry 79 (PRESUMED). -/

namespace Sys2Proof.Machine

/-- The four-term Blackman-Harris window at sample `n` of 4,096, in 2^-30; its coefficients in 10^-5 are those of the
published window (PRESUMED, log entry 79). -/
def bhWindow (n : Nat) : Int :=
  let c := fun (k : Nat) => (cis (k * n * 2 ^ 20)).i
  roundDiv (35875 * 2 ^ 30 - 48829 * c 1 + 14128 * c 2 - 1168 * c 3) 100000

/-- The power of each bin of a block of 4,096 samples, in the order of the transform. -/
def blockPower (x : List Iq) : List Nat :=
  (dft (-1) 12 (x.mapIdx fun n v => v.scale (bhWindow n))).map Iq.power

/-- The unit of `blockPower` in LSB^2, scaled by 10^10: a tone of amplitude 1 LSB at the centre of a bin reads 1 LSB^2 there. -/
def powerUnit : Nat := (4096 * 35875 * 2 ^ 30) ^ 2

/-- Bins -2048 to 2047 from the order of the transform. -/
def byBin (l : List Nat) : List Nat := l.drop 2048 ++ l.take 2048

def insertNat (x : Nat) : List Nat → List Nat
  | [] => [x]
  | y :: ys => if x ≤ y then x :: y :: ys else y :: insertNat x ys

/-- The median of a list of odd length. -/
def medianNat (l : List Nat) : Nat := (l.foldr insertNat []).getD (l.length / 2) 0

/-- A sum of `n` bin powers as a level in 0.01 dB above 1 LSB^2 in an unsigned field of 16 bits; a lower level shows 0. -/
def binLevel (p n : Nat) : Nat :=
  if p = 0 then 0 else (clampInt 0 65535 (decibel 100 (p * 10 ^ 10) (max 1 n * powerUnit))).toNat

/-- A power is at or above FLOOR by `th` in 0.25 dB. -/
def aboveFloor (p floor th : Nat) : Bool := 0 < p && floor ^ 40 * 10 ^ th ≤ p ^ 40

/-- A power's level above FLOOR in 0.25 dB, in the 8 bits of its fields: the model clamps a level that they cannot hold (DESIGN
CHOICE, log entry 70). -/
def levelAbove (p floor : Nat) : Nat :=
  if p ≤ floor then 0 else if floor = 0 then 255 else (clampInt 0 255 (decibel 4 p floor)).toNat

/-- A bin inside LO +- BW/2, `bw` in MHz. -/
def inBand (bw : Nat) (k : Int) : Bool := 500 * k.natAbs ≤ 4096 * bw

/-- FLOOR as a power: the median over the bins inside LO +- BW/2 of the powers of bins -2048 to 2047. -/
def floorPower (bw : Nat) (bins : List Nat) : Nat :=
  medianNat ((bins.zipIdx.filter fun e => inBand bw ((e.2 : Int) - 2048)).map (·.1))

/-- The local maxima inside LO +- BW/2 at or above FLOOR + PK_TH, in ascending bin: a bin higher than the one below it and no
lower than the one above it, with its power. -/
def localMaxima (bw floor th : Nat) (bins : List Nat) : List (Int × Nat) :=
  bins.zipIdx.filterMap fun e =>
    let k : Int := (e.2 : Int) - 2048
    let below := if e.2 = 0 then 0 else bins.getD (e.2 - 1) 0
    if inBand bw k && below < e.1 && bins.getD (e.2 + 1) 0 ≤ e.1 && aboveFloor e.1 floor th then some (k, e.1)
    else none

/-- Insert a peak into a list in descending power; of equal powers the lower bin comes first (DESIGN CHOICE, log entry 66). -/
def peakInsert (x : Int × Nat) : List (Int × Nat) → List (Int × Nat)
  | [] => [x]
  | y :: ys => if y.2 < x.2 then x :: y :: ys else y :: peakInsert x ys

/-- The peaks of a report from the local maxima (R126): in descending power, peaks within 3 bins of a higher peak that is
itself kept merged into it, at most 8. A peak near one that was itself merged away is tested against the kept ones alone
(DESIGN CHOICE, log entry 66). -/
def reportPeaks (maxima : List (Int × Nat)) : List (Int × Nat) :=
  let sorted := maxima.foldl (fun l m => peakInsert m l) []
  (sorted.foldl (fun (l : List (Int × Nat)) m =>
    if l.any (fun k => (k.1 - m.1).natAbs ≤ 3) then l else l ++ [m]) []).take 8

end Sys2Proof.Machine
end

