-- ==== Sys2Proof/Machine/Sram.lean ====
section
/-! DEFINITION. Shared SRAM: the 96 banks, ownership and handover, the checks of an access and what one arbitration slot
does (R395 to R404, R542).
Readings: log entries 37, 49 (DEDUCED). -/

namespace Sys2Proof.Machine

def sramBase : Nat := 0x20000000
def bankSize : Nat := 0x40000

/-- The bank that holds an address (R395). -/
def bankOf (a : Nat) : Option Nat :=
  if sramBase ≤ a ∧ a < sramBase + 96 * bankSize then some ((a - sramBase) / bankSize) else none

/-- Banks that the `len` bytes at `a` touch, lowest first. -/
def banksOf (a len : Nat) : List Nat :=
  (List.range 96).filter fun n =>
    a < sramBase + (n + 1) * bankSize && sramBase + n * bankSize < a + len

/-- Rotate a 32-bit value left by `k` bytes. -/
def rotLeft (v k : Nat) : Nat := v * 2 ^ (8 * k) % 2 ^ 32 + v % 2 ^ 32 / 2 ^ (32 - 8 * k)

/-- The canonical form of shared SRAM: addresses rise strictly, and no entry equals the 0 that an unlisted address reads as
(R396). -/
def Memory.wf (m : List Host.Cell) : Bool := Sparse.wf (fun _ => (0 : Byte)) m

namespace State

/-- Byte of shared SRAM at `a`; words not written since the hardware clear read 0 (R396). -/
def sramByte (s : State) (a : Nat) : Byte := Sparse.get (fun _ => 0) s.mem.sram a

def sramSetByte (s : State) (a : Nat) (b : Byte) : State :=
  { s with mem := { s.mem with sram := Sparse.set (fun _ => 0) s.mem.sram a b } }

/-- The `n` bytes at `a`, lowest address first. -/
def sramBytes (s : State) (a : Nat) : Nat → List Byte
  | 0 => []
  | n + 1 => s.sramByte a :: sramBytes s (a + 1) n

/-- Store bytes at `a`. -/
def sramSetBytes (s : State) (a : Nat) (bs : List Byte) : State :=
  { s with mem := { s.mem with sram := Sparse.setRange 0 s.mem.sram a bs } }

/-- Little-endian value of the `n` bytes at `a`. -/
def sramValue (s : State) (a n : Nat) : Nat := leValue (s.sramBytes a n)

/-- Store the `n` little-endian bytes of `v`. -/
def sramSetValue (s : State) (a n v : Nat) : State := s.sramSetBytes a (leBytes n v)

def bankOwner (s : State) (b : Nat) : Nat := s.fld (F.MEM_OWNER_OWNER b)
def bankDelegate (s : State) (b : Nat) : Bool := s.flag (F.MEM_OWNER_DMA_DELEGATE b)
def bankRdonly (s : State) (b : Nat) : Bool := s.flag (F.MEM_OWNER_DMA_RDONLY b)
def bankRot (s : State) (b : Nat) : Bool := s.flag (F.MEM_OWNER_ROT b)
def bankPending (s : State) (b : Nat) : Bool := s.flag (F.MEM_OWNER_PENDING b)

/-- The handover of a bank that has been accepted and is not complete. -/
def handOf (s : State) (b : Nat) : Option Handover := s.mem.hand.find? (·.bank = b)

/-- R397 under the values in force: the owner on port P, the DMA engine on port D, DBG for reads. A bank of owner NONE
admits nobody. -/
def bankRight (s : State) (init b : Nat) (write : Bool) : Bool :=
  if s.bankOwner b = 0 then false
  else if init = Init.DMA then s.bankDelegate b && (!write || !(s.bankRdonly b))
  else if init = Init.DBG then !write && s.debugOpen
  else init = s.bankOwner b && !(s.bankPending b)

/-- An access that step 2 of R399 holds until step 4. -/
def bankHolds (s : State) (x : Access) : Bool :=
  match bankOf x.addr with
  | none => false
  | some b => s.bankPending b && (x.init = Init.DMA || (s.handOf b).any fun h => h.owner = x.init)

/-- R397 for an access that a block makes by itself. One that step 2 of R399 would hold is judged under the values that step 4
brings, and is carried out at once: nothing else can reach the bank before it (DEDUCED, log entry 49). -/
def portRight (s : State) (init b : Nat) (write : Bool) : Bool :=
  if s.bankPending b then
    (s.handOf b).any fun h => if init = Init.DMA then h.delegate && (!write || !h.rdonly) else h.owner = init
  else s.bankRight init b write

/-- Words that an access touches. -/
def wordsOf (a size : Nat) : List Nat := (List.range ((a % 4 + size + 3) / 4)).map fun i => a / 4 * 4 + 4 * i

/-- The checks of R542, in order. Only an access of more than a word can span two banks (R395; DEDUCED, log entry 49). A
read, and a write of less than a word, reads its word. -/
def bankCheck (s : State) (x : Access) : Resp :=
  match bankOf x.addr with
  | none => .decode
  | some b =>
    if x.size = 0 ∨ (4 < x.size ∧ bankOf (x.addr + x.size - 1) ≠ some b) then .decode
    else if !(s.bankRight x.init b x.write) then .own
    else if !(s.bankRot b ∧ x.size = 4) ∧ x.addr % x.size ≠ 0 then .align
    else if (!x.write ∨ x.size < 4) ∧ (wordsOf x.addr (if x.size ≤ 4 then 1 else x.size)).any (s.mem.eccUnc.contains ·) then
      .ecc
    else .served

/-- The first word of an access that holds an uncorrectable error. -/
def eccWord (s : State) (x : Access) : Nat := ((wordsOf x.addr x.size).find? (s.mem.eccUnc.contains ·)).getD x.addr

/-- What a failed check sets (R397, R402, R403, R404). -/
def bankFail (s : State) (x : Access) (r : Resp) : State :=
  let b := (bankOf x.addr).getD 0
  match r with
  | .own => (s.setRegBit (R.MEM_OWNERR (b / 32)) (b % 32) true).stickyAt P.MEM 8 0 x.write x.init b
  | .align => s.stickyAt P.MEM 12 0 x.write x.init b
  | .ecc => (s.setFld F.MEM_ECCADDR_ADDR (s.eccWord x)).stickyAt P.MEM 10 0 x.write x.init b
  | _ => s

/-- Forget the errors of the words in `ws`: whole-word writes replace them. -/
def eccClear (s : State) (ws : List Nat) : State :=
  { s with mem := { s.mem with
      eccCorr := s.mem.eccCorr.filter fun w => !(ws.contains w)
      eccUnc := s.mem.eccUnc.filter fun w => !(ws.contains w) } }

/-- Correctable errors met by a read of the words in `ws` (R402). -/
def eccCount (s : State) (ws : List Nat) (x : Access) : State :=
  let n := (ws.filter (s.mem.eccCorr.contains ·)).length
  if n = 0 then s
  else (s.satFld F.MEM_ECCCNT_COUNT n).stickyAt P.MEM 9 0 x.write x.init ((bankOf x.addr).getD 0)

/-- The effect of an access that passed every check, and the data of a read. -/
def bankDo (s : State) (x : Access) : State × Nat :=
  let b := (bankOf x.addr).getD 0
  let ws := wordsOf x.addr (if x.size ≤ 4 then 1 else x.size)
  let w := x.addr / 4 * 4
  let k := x.addr % 4
  if x.write then
    if x.size < 4 then (((s.eccCount ws x).eccClear ws).sramSetValue x.addr x.size x.value, 0)
    else if s.bankRot b ∧ x.size = 4 ∧ k ≠ 0 then ((s.eccClear ws).sramSetValue w 4 (rotLeft x.value k), 0)
    else ((s.eccClear ws).sramSetValue x.addr x.size x.value, 0)
  else if s.bankRot b ∧ x.size = 4 ∧ k ≠ 0 then (s.eccCount ws x, rotLeft (s.sramValue w 4) (4 - k))
  else (s.eccCount ws x, s.sramValue x.addr x.size)

/-- One access alone: checks, then the effect (R542). -/
def bankAccess (s : State) (x : Access) : State × Resp × Nat :=
  match s.bankCheck x with
  | .served => let (s1, v) := s.bankDo x; (s1, .served, v)
  | r => (s.bankFail x r, r, 0)

/-- A P access and a D access of one slot. P acts first; a D write to the word that P writes receives COLLIDE (R401), also where
D's own read of that word would find an error. -/
def bankSlot (s : State) (p d : Access) : State × (Resp × Nat) × (Resp × Nat) :=
  let collide := p.write && d.write && p.addr / 4 = d.addr / 4 && s.bankCheck p = .served &&
    (s.bankCheck d = .served || s.bankCheck d = .ecc)
  let (s1, rp) := s.bankAccess p
  if collide then (s1, rp, (.collide, 0)) else let (s2, rd) := s1.bankAccess d; (s2, rp, rd)

/-- Hold an access under step 2 of R399. -/
def bankHold (s : State) (x : Access) (post : HostPost := .none) : State :=
  let h : HeldAccess := ⟨(bankOf x.addr).getD 0, x.init = Init.DMA, x, post⟩
  { s with mem := { s.mem with heldAcc := s.mem.heldAcc ++ [h] } }

/-- Record how an access ended, for the port it used. -/
def bankRecord (s : State) (dport : Bool) (r : Resp) (v : Nat) : State :=
  if dport then { s with mem := { s.mem with respD := r, rdataD := v } }
  else { s with resp := r, rdata := BitVec.ofNat 32 v, mem := { s.mem with rdataP := v } }

/-- A posted write of PCI Express at `a` has met an error response and is dropped (R494). -/
def postedError (s : State) (a : Nat) : State :=
  (s.setFld F.PCIE_ERRADDR_ADDR a).stickyAt P.PCIE 8 (offOf a) true Init.HOST 0

/-- One access presented to its bank: held under R399, or served and its response recorded. -/
def bankPresent (s : State) (x : Access) : State :=
  if s.bankHolds x then s.bankHold x
  else let (s1, r, v) := s.bankAccess x; s1.bankRecord (x.init = Init.DMA) r v

/-- A slot of a bank (BANK_ACCESS): one port, or both. -/
def bankPresentSlot (s : State) (p d : Option Access) : State :=
  match p, d with
  | none, none => s
  | some x, none => s.bankPresent x
  | none, some y => s.bankPresent y
  | some x, some y =>
    if s.bankHolds x ∨ s.bankHolds y ∨ bankOf x.addr ≠ bankOf y.addr then (s.bankPresent x).bankPresent y
    else
      let (s1, rp, rd) := s.bankSlot x y
      (s1.bankRecord false rp.1 rp.2).bankRecord true rd.1 rd.2

/-- A soft error that arises in a word before an access reads it: correctable or not (R395, R402). An uncorrectable word stays
one until a whole-word write. -/
def eccArise (s : State) (a : Nat) (unc : Bool) : State :=
  let w := a / 4 * 4
  let t := s.eccClear [w]
  if unc ∨ s.mem.eccUnc.contains w then { t with mem := { t.mem with eccUnc := w :: t.mem.eccUnc } }
  else { t with mem := { t.mem with eccCorr := w :: t.mem.eccCorr } }

/-- A port request as an access, when its initiator is one of that port (R397): the DMA engine on port D, every other on
port P. -/
def portReq (dport : Bool) : Option BankReq → Option Access
  | none => none
  | some x => if (x.init = Init.DMA) = dport then some ⟨x.init, x.write, x.addr, x.size, x.value⟩ else none

/-- BANK_ACCESS: what the ports present in one slot, after a soft error that arises in a word. -/
def bankCommand (s : State) (ecc : Option (Nat × Bool)) (p d : Option BankReq) : State :=
  let s1 := match ecc with
    | none => s
    | some (a, unc) => s.eccArise a unc
  s1.bankPresentSlot (portReq false p) (portReq true d)

/-! ### Ownership and handover (R396 to R400) -/

def coreGet (s : State) (c : Nat) : Core := s.cores.getD c Core.reset

def coreSet (s : State) (c : Nat) (k : Core) : State := { s with cores := s.cores.set c k }

/-- An initiator has stores under way (R356, R399): a core's unissued and issued stores, posted writes of the host that a
handover holds. -/
def storesOpen (s : State) (init : Nat) : Bool :=
  if 1 ≤ init ∧ init ≤ 12 then
    let k := s.coreGet (init - 1)
    !(k.wbuf.isEmpty && k.flight.isEmpty && k.old.isEmpty)
  else init = Init.HOST && s.mem.heldAcc.any fun h => h.acc.init = Init.HOST && h.acc.write

/-- A handover may reach step 2 of R399: its writer has no earlier store under way, an earlier handover write included. -/
def handReady (s : State) (h : Handover) : Bool :=
  h.started || !(s.storesOpen h.writer || (s.mem.hand.takeWhile fun e => e.bank ≠ h.bank).any fun e => e.writer = h.writer)

/-- Step 2 of R399 begins for the handovers that are ready. -/
def handStart (s : State) : State :=
  let ready := s.mem.hand.filter fun h => !h.started && s.handReady h
  let s1 := ready.foldl (fun (t : State) h => t.setFlag (F.MEM_OWNER_PENDING h.bank) true) s
  { s1 with mem := { s1.mem with hand := s1.mem.hand.map fun h => { h with started := s.handReady h } } }

/-- Accept a handover. -/
def handAccept (s : State) (b owner : Nat) (del ro rot : Bool) (writer : Nat) : State :=
  let h : Handover := ⟨b, owner, del, ro, rot, writer, false⟩
  let s1 : State := { s with mem := { s.mem with hand := s.mem.hand ++ [h] } }
  s1.handStart

/-- A write to MEM_OWNERnn (R398). -/
def memOwnerWrite (s : State) (init b w : Nat) : State :=
  let cur := s.bankOwner b
  let v := BitVec.ofNat 32 w
  let owner := getBits v 0 5
  let expect := getBits v 8 5
  let del := getBits v 16 1 = 1
  let ro := getBits v 17 1 = 1
  let rot := getBits v 18 1 = 1
  let writer := init = Init.MC || init = Init.NYM || (init = Init.HOST && cur = Init.HOST)
  let busy := s.bankPending b || (s.handOf b).isSome
  let refuse := s.stickyAt P.MEM 11 (offOf (R.MEM_OWNER b)) true init b
  if busy ∨ !writer then refuse
  else if owner = cur then
    ((s.setFlag (F.MEM_OWNER_DMA_DELEGATE b) del).setFlag (F.MEM_OWNER_DMA_RDONLY b) ro).setFlag (F.MEM_OWNER_ROT b) rot
  else if (expect = cur ∨ expect = 0x1F) ∧ validOwner owner then s.handAccept b owner del ro rot init
  else refuse

/-- A write of a new OWNER to MEM_OWNERnn, or of the owner in force with its flags (R398). -/
def ownerCommand (s : State) (init b w : Nat) (new : Bool) : State :=
  if b < 96 ∧ new = decide (getBits (BitVec.ofNat 32 w) 0 5 ≠ s.bankOwner b) then
    s.via init (R.MEM_OWNER b) fun t => t.memOwnerWrite init b w
  else s

/-- A handover that a hardware owner makes through its own mechanism (R133, R167), refused like a register write when
the bank is no longer its own or has one in progress (R400). -/
def hwHandover (s : State) (init b owner : Nat) : State :=
  if s.bankOwner b = init ∧ !(s.bankPending b) ∧ (s.handOf b).isNone ∧ validOwner owner then
    s.handAccept b owner false false false init
  else s.stickyAt P.MEM 11 (offOf (R.MEM_OWNER b)) true init b

/-- Release the accesses a bank held: each is judged under the new values (step 4). -/
def handRelease (s : State) (b : Nat) : State :=
  let mine := s.mem.heldAcc.filter (·.bank = b)
  let s1 := { s with mem := { s.mem with heldAcc := s.mem.heldAcc.filter (·.bank ≠ b) } }
  mine.foldl (fun (t : State) h =>
    let u := t.bankPresent h.acc
    if u.resp = Resp.served then u
    else
      match h.post with
      | .none => u
      | .pcie => u.postedError h.acc.addr
      | .spi => { u with host := { u.host with spiErr := true } }) s1

/-- A completion of the DMA engine still has accesses to make in bank `b`; they come before a handover of the bank (R417). -/
def dmaCompletes (s : State) (b : Nat) : Bool :=
  (List.range 32).any fun n =>
    s.fld (F.CH_STAT_STATE n) = 7 &&
      (bankOf (s.fld (F.CH_DESC_ADDR n)) = some b || ((s.dma.getD n DmaChan.reset).lastAddr.any fun a => bankOf a = some b))

/-- A reply for a cancelled tag, or for an initiator in reset, is discarded and counted (R523). -/
def nocDiscard (s : State) : State := s.satFld F.TOC_NOCDISC_COUNT 1

/-- The handover write of a core receives its completion response (step 5 of R399); one written before the core was last held is
answered first, since the handovers of one writer complete in order, and is discarded. -/
def handRespond (s : State) (writer : Nat) : State :=
  if 1 ≤ writer ∧ writer ≤ 12 then
    let k := s.coreGet (writer - 1)
    if k.oldHand = 0 then s.coreSet (writer - 1) { k with hand := k.hand - 1 }
    else (s.coreSet (writer - 1) { k with oldHand := k.oldHand - 1 }).nocDiscard
  else s

/-- Steps 4 and 5 of R399. -/
def handComplete (s : State) (b : Nat) : State :=
  match s.handOf b with
  | none => s
  | some h =>
    if h.started ∧ !(s.dmaCompletes b) then
      let old := s.bankOwner b
      let s1 := (((((s.setFld (F.MEM_OWNER_OWNER b) h.owner).setFlag (F.MEM_OWNER_DMA_DELEGATE b) h.delegate).setFlag
        (F.MEM_OWNER_DMA_RDONLY b) h.rdonly).setFlag (F.MEM_OWNER_ROT b) h.rot).setFld (F.MEM_OWNER_PREV b) old).setFlag
        (F.MEM_OWNER_PENDING b) false
      let s2 : State := { s1 with mem := { s1.mem with hand := s1.mem.hand.filter (·.bank ≠ b) } }
      (((s2.irq P.MEM 0).handRelease b).handRespond h.writer).handStart
    else s

/-- The scrubber (R402): one word of each bank; a correctable word is rewritten unless a port write took the slot. -/
def scrubTick (s : State) (busy : List Nat) : State :=
  if s.fld F.MEM_SCRUB_PERIOD = 0 then s
  else
    let one := fun (t : State) (b : Nat) =>
      let w := sramBase + bankSize * b + 4 * s.mem.scrubWord
      if t.mem.eccUnc.contains w then (t.setFld F.MEM_ECCADDR_ADDR w).sticky P.MEM 10 b
      else if t.mem.eccCorr.contains w then
        let t1 := (t.satFld F.MEM_ECCCNT_COUNT 1).sticky P.MEM 9 b
        if busy.contains b then t1 else t1.eccClear [w]
      else t
    let s1 := (List.range 96).foldl one s
    { s1 with mem := { s1.mem with scrubWord := (s1.mem.scrubWord + 1) % 65536 } }

/-- The hardware clear of R396: every word zero, every owner NYM, every flag 0. -/
def sramClear (s : State) : State :=
  let s1 := (List.range 96).foldl (fun (t : State) b => t.setReg (R.MEM_OWNER b) (resetWord (R.MEM_OWNER b))) s
  { s1 with mem := { s1.mem with sram := [], eccCorr := [], eccUnc := [], hand := [], heldAcc := [] } }

/-- A block's own write of bytes to shared SRAM on port P: the whole range is checked bank by bank, then stored. `false`
when a bank answers with an error. -/
def portWrite (s : State) (init a : Nat) (bytes : List Byte) : State × Bool :=
  let n := bytes.length
  let x : Access := ⟨init, true, a, n, 0⟩
  -- words of which only a part is written are read first (R402)
  let part := (wordsOf a n).filter fun w => w < a || a + n < w + 4
  match (banksOf a n).find? (fun b => !(s.portRight init b true)) with
  | some b => (s.bankFail ⟨init, true, sramBase + bankSize * b, 4, 0⟩ .own, false)
  | none =>
    if (bankOf a).isNone ∨ (bankOf (a + n - 1)).isNone then (s, false)
    else if part.any (s.mem.eccUnc.contains ·) then (s.bankFail x .ecc, false)
    else (((s.eccCount part x).eccClear (wordsOf a n)).sramSetBytes a bytes, true)

/-- A block's own read of `n` bytes on port P. -/
def portRead (s : State) (init a n : Nat) : State × Option (List Byte) :=
  match (banksOf a n).find? (fun b => !(s.portRight init b false)) with
  | some b => (s.bankFail ⟨init, false, sramBase + bankSize * b, 4, 0⟩ .own, none)
  | none =>
    if (bankOf a).isNone ∨ (bankOf (a + n - 1)).isNone then (s, none)
    else if (wordsOf a n).any (s.mem.eccUnc.contains ·) then
      (s.bankFail ⟨init, false, a, n, 0⟩ .ecc, none)
    else (s.eccCount (wordsOf a n) ⟨init, false, a, n, 0⟩, some (s.sramBytes a n))

end State

end Sys2Proof.Machine
end

