-- ==== Sys2Proof/Machine/Time.lean ====
section
/-! DEFINITION. Time base, Drumline triggers, time outputs, event inputs and the auxiliary block
(spec/11_timebase.md, R270 to R303). What a trigger does to its targets is in Sys2Proof/Machine/Epoch.lean.
Readings: log entries 45, 46 (DEDUCED). -/

namespace Sys2Proof.Machine

/-- One nanosecond of TBU time in the unit of `Tbu.time`. -/
def tuNs : Nat := 125 * 2 ^ 56
/-- 2^-16 ns. -/
def tuFrac : Nat := 125 * 2 ^ 40
/-- One picosecond. -/
def tuPs : Nat := 2 ^ 53
/-- 25 ps. -/
def tu25 : Nat := 25 * 2 ^ 53
/-- One second. -/
def tuSec : Nat := 1000000000 * tuNs

/-- Saturated TBU_UNC. -/
def uncMax : Nat := 0xFFFFFFFF

/-- Whole pulses of PERIOD 0 triggers and the others alike: the firing instants of a trigger are
`phase + k * period` (R286; a PERIOD that divides 10^9 keeps its phase from second to second). -/
def trigPeriod (period secs : Nat) : Nat := if period = 0 then max 1 secs * 1000000000 else period

def trigPhase (period phase : Nat) : Nat := if period = 0 then phase else phase % period

/-- The first instant strictly after `t` ns. -/
def instantAfter (p f t : Nat) : Nat := if t < f then f else f + ((t - f) / p + 1) * p

/-- The latest instant at or before `t` ns. -/
def instantUpTo (p f t : Nat) : Option Nat := if t < f then none else some (f + (t - f) / p * p)

/-- Transitions in ascending page base, then ascending bit. -/
def stickyInsert (e : StickyEvent) : List StickyEvent → List StickyEvent
  | [] => [e]
  | f :: fs => if e.page < f.page ∨ (e.page = f.page ∧ e.bit ≤ f.bit) then e :: f :: fs else f :: stickyInsert e fs

def stickySort : List StickyEvent → List StickyEvent
  | [] => []
  | e :: es => stickyInsert e (stickySort es)

namespace State

/-! ### Sources of the TIME domain -/

/-- A derived domain is clocked from IRO (CLK_SRC). -/
def onIro (s : State) (d : Nat) : Bool := s.regBit R.CLK_SRC d

/-- ROOT runs: the PLL is on and has locked, or holds its frequency. -/
def rootRuns (s : State) : Bool :=
  s.clk.pllOn && (s.flag F.CLK_ROOTSTAT_LOCK || s.flag F.CLK_ROOTSTAT_HOLD || s.clk.everLocked)

/-- A derived domain delivers edges. -/
def domRuns (s : State) (d : Nat) : Bool :=
  s.regBit R.CLK_RUN d && !(s.clk.stopped.contains d) && !(s.clk.switching.any (·.1 = d)) && !(s.idleStopped d)
    && (if s.onIro d then s.flag F.CLK_ROOTSTAT_IRO_READY else s.rootRuns)

/-- The condition of R273: TIME clocked from ROOT, ROOT referenced to XO, REF_IN or a SyncE clock. -/
def tbuRefOk (s : State) : Bool := s.domRuns 5 && !(s.onIro 5) && s.fld F.CLK_ROOTSTAT_REF ≠ 7

/-- The condition of R274: TIME clocked from IRO, or ROOT referenced to IRO. -/
def tbuIro (s : State) : Bool := s.onIro 5 || s.fld F.CLK_ROOTSTAT_REF = 7

def loaded (s : State) : Bool := s.flag F.TBU_QUAL_LOADED

def qual (s : State) : Nat := s.fld F.TBU_QUAL_QUAL

def mode (s : State) : Nat := s.fld F.SYS_MODE_MODE

/-- TBU time in whole ns, and in 2^-16 ns (truncated to FRAC, R271). -/
def nowNs (s : State) : Nat := s.tbu.time / tuNs
def nowFrac (s : State) : Nat := s.tbu.time / tuFrac
def nowSec (s : State) : Nat := s.tbu.time / tuSec

/-- RATE in force (R272). -/
def tbuRate (s : State) : Int := signed 40 ((s.reg R.TBU_RATE0).toNat + s.fld F.TBU_RATE1_RATE * 2 ^ 32)

/-! ### Quality (R279, R33, R34) -/

/-- Ceiling of a mode (Table 1-6). In STANDBY it is the quality that the primary mirrors. -/
def qualCeiling (s : State) : Nat :=
  match s.mode with
  | 0 => 2
  | 1 => 3
  | 4 => 2
  | 5 => 3
  | 6 => s.pair.mirQual
  | 7 => 1
  | _ => 4

/-- QUAL under R279. -/
def qualNow (s : State) : Nat :=
  if !s.loaded then 0
  else
    let q := min (s.fld F.TBU_QUAL_SOLQ) s.qualCeiling
    if q = 2 ∧ 10 * s.fld F.SYS_HOLDCFG_LIMIT < s.fld F.TBU_UNC_UNC then 0 else q

/-- The present mode is one of those that drive the outputs (R291, Table 1-2). -/
def modeDrives (s : State) : Bool := 1 ≤ s.mode && s.mode ≤ 5

/-- TIO drives its outputs in the present mode (R291), unless the pins are forced (R455, R468) or fenced (R345). -/
def outputsDriven (s : State) : Bool := s.modeDrives && !s.pinsForced && !(s.flag F.PAIR_STAT_FENCED)

/-- PPS and TOUT are high-impedance: STANDBY (R291), or fenced (R345); forced pins are low (Table 18-4). -/
def outputsHiz (s : State) : Bool := (s.mode = 6 || s.flag F.PAIR_STAT_FENCED) && !s.pinsForced

/-- TIME_VALID (R33). -/
def timeValid (s : State) : Bool := 2 ≤ s.qual && s.modeDrives && !s.pinsForced

/-- SAFE_N: low in SAFE, and so in every start stage before the first command (R24, R36, Table 1-7), and while the pins are
forced; high otherwise. -/
def safeN (s : State) : Bool := s.mode ≠ 0 && !s.pinsForced

/-- A toggling TOUT whose quality lies below QMIN holds its inactive level (R291). -/
def toutQual (s : State) (n : Nat) (p : OutPin) : OutPin :=
  if s.fld (F.TIO_TOUTCFG_MODE n) = 2 ∧ s.qual < s.fld (F.TIO_TOUTCFG_QMIN n) then { p with active := false } else p

/-- Recompute QUAL. -/
def qualUpdate (s : State) : State :=
  let s1 := s.setFld F.TBU_QUAL_QUAL s.qualNow
  { s1 with tio := { s1.tio with tout := s1.tio.tout.mapIdx fun n p => s1.toutQual n p } }

/-! ### PPS and TOUT pins (R290 to R292, R545) -/

/-- Cut every pulse and take every output to its inactive level: a hardware entry to SAFE, an entry to STANDBY (R29, R291), forced pins.
What is still to come stays, and is judged when it is due. -/
def pinsLow (s : State) : State :=
  let low := fun (p : OutPin) => { p with active := false, endAt := none }
  { s with tio := { s.tio with pps := s.tio.pps.map low, tout := s.tio.tout.map low } }

/-- Every output is at its inactive level and has nothing to come: TIO stopped (R544), the TBU stopped or loaded. -/
def pinsCut (s : State) : State :=
  { s with tio := { s.tio with pps := s.tio.pps.map fun _ => OutPin.reset, tout := s.tio.tout.map fun _ => OutPin.reset } }

/-- TIO runs and has its clock. -/
def tioRuns (s : State) : Bool := s.running P.TIO && !(s.gated P.TIO)

/-- PPSk is driven with pulses (R291). -/
def ppsAllowed (s : State) (k : Nat) : Bool :=
  s.tioRuns && s.loaded && s.outputsDriven && s.flag (F.TIO_PPSCFG_EN k) && s.fld (F.TIO_PPSCFG_QMIN k) ≤ s.qual

def toutAllowed (s : State) (n : Nat) : Bool :=
  s.tioRuns && s.loaded && s.outputsDriven && s.fld (F.TIO_TOUTCFG_QMIN n) ≤ s.qual

/-- Width of a PPS pulse in 25 ps units. -/
def ppsWidth (s : State) (k : Nat) : Nat := clampNat 1 500000 (s.fld (F.TIO_PPSWID_WIDTH k)) * 40000

def toutWidth (s : State) (n : Nat) : Nat := max 8 (s.fld (F.TIO_TOUTWID_WIDTH n)) * 40

/-- TBU time in 25 ps units. -/
def now25 (s : State) : Int := (s.tbu.time / tu25 : Nat)

/-- Settings of PPSk in its registers. -/
def ppsCfg (s : State) (k : Nat) : PpsCfg :=
  ⟨s.flag (F.TIO_PPSCFG_EN k), s.flag (F.TIO_PPSCFG_POL k), s.fld (F.TIO_PPSCFG_QMIN k), s.ppsWidth k⟩

/-- A pulse with settings `c` may start (R291). -/
def ppsMay (s : State) (c : PpsCfg) : Bool :=
  s.tioRuns && s.loaded && s.outputsDriven && c.en && c.qmin ≤ s.qual

/-- Act on the starts of PPSk that are due, with the settings each took (R290). -/
def ppsDue (s : State) (k : Nat) (p : OutPin) : OutPin :=
  let due := p.starts.filter fun x => x.at_ ≤ s.now25
  let rest := p.starts.filter fun x => !(x.at_ ≤ s.now25)
  match due.getLast? with
  | none => p
  | some x =>
    let c := x.cfg.getD (s.ppsCfg k)
    if s.ppsMay c then ⟨true, rest, some (x.at_ + c.width), some c.pol⟩ else { p with starts := rest, pol := some c.pol }

/-- One due start or toggle of TOUTn (R292). -/
def toutOne (s : State) (n : Nat) (p : OutPin) (x : OutStart) : OutPin :=
  if s.toutAllowed n then
    match s.fld (F.TIO_TOUTCFG_MODE n) with
    | 1 => { p with active := true, endAt := some (x.at_ + s.toutWidth n) }
    | 2 => { p with active := if x.force then true else !p.active, endAt := none }
    | _ => p
  else p

def toutDue (s : State) (n : Nat) (p : OutPin) : OutPin :=
  let due := p.starts.filter fun x => x.at_ ≤ s.now25
  let rest := p.starts.filter fun x => !(x.at_ ≤ s.now25)
  due.foldl (s.toutOne n) { p with starts := rest }

/-- Every start that is due acts. -/
def pinsDue (s : State) : State :=
  { s with tio := { s.tio with pps := s.tio.pps.mapIdx fun k p => s.ppsDue k p
                               tout := s.tio.tout.mapIdx fun n p => s.toutDue n p } }

/-- A pulse whose WIDTH has expired ends (PULSE_END). -/
def pinEnd (s : State) (p : OutPin) : OutPin :=
  match p.endAt with
  | none => p
  | some e => if e ≤ s.now25 then { p with active := false, endAt := none } else p

def pulseEnd (s : State) : State :=
  if s.gated P.TIO then s
  else { s with tio := { s.tio with pps := s.tio.pps.map s.pinEnd, tout := s.tio.tout.map s.pinEnd } }

/-- Whether PPSk's pin is driven high: `none` is high-impedance (R290, R291). -/
def ppsPin (s : State) (k : Nat) : Option Bool :=
  if s.outputsHiz then none
  else if !s.outputsDriven then some false
  else
    let p := s.tio.pps.getD k OutPin.reset
    some (p.active != p.pol.getD (s.flag (F.TIO_PPSCFG_POL k)))

/-- TOUTn's pin: `none` is high-impedance. A static output too stands at its inactive level while TIO is stopped (R292, R544). -/
def toutPin (s : State) (n : Nat) : Option Bool :=
  if s.outputsHiz then none
  else if !s.outputsDriven then some false
  else if s.fld (F.TIO_TOUTCFG_MODE n) = 3 ∧ s.running P.TIO then some (s.flag (F.TIO_TOUTCFG_LEVEL n))
  else some ((s.tio.tout.getD n OutPin.reset).active != s.flag (F.TIO_TOUTCFG_POL n))

/-- TIO_STAT as it reads. -/
def tioStatWord (s : State) : Word :=
  let pps := (List.range 2).foldl (fun a k => a + b2n (s.ppsAllowed k) * 2 ^ k) 0
  let tout := (List.range 8).foldl (fun a n =>
    a + b2n (s.toutAllowed n && (s.fld (F.TIO_TOUTCFG_MODE n) = 1 || s.fld (F.TIO_TOUTCFG_MODE n) = 2)) * 2 ^ (2 + n)) 0
  BitVec.ofNat 32 (pps + tout + b2n s.outputsHiz * 2 ^ 16)

/-- Schedule the edge of second `sec` on PPSk. One whose instant has gone by is not made again, and not made late. -/
def ppsSchedule (s : State) (sec k : Nat) : State :=
  let p := s.tio.pps.getD k OutPin.reset
  let x : OutStart := ⟨sec * 1000000000, (sec * 40000000000 : Nat) + s.fldI (F.TIO_PPSDLY_DELAY k), false, some (s.ppsCfg k)⟩
  let l := if x.at_ ≤ s.now25 then [] else [x]
  { s with tio := { s.tio with pps := s.tio.pps.set k { p with starts := p.starts.filter (·.of_ ≠ x.of_) ++ l } } }

/-- Schedule the edges of second `sec` on both pins. -/
def ppsNext (s : State) (sec : Nat) : State := (s.ppsSchedule sec 0).ppsSchedule sec 1

/-- A forward step not yet judged by the triggers passed the instant at which an edge acts (R545). -/
def stepOver (s : State) (x : OutStart) : Bool :=
  match s.tbu.stepSpan with
  | none => false
  | some (b, a) => decide (((b / tu25 : Nat) : Int) < x.at_ ∧ x.at_ ≤ (a / tu25 : Nat))

/-- What a forward step from `b` to `a` does to the pins (R545): starts inside it make no edge, and no PPS pulse is made for
a second passed. -/
def pinsStep (s : State) (b a : Nat) : State :=
  let inside := fun (x : OutStart) => ((b / tu25 : Nat) : Int) < x.at_ && x.at_ ≤ (a / tu25 : Nat)
  let passed := fun (x : OutStart) => b < x.of_ * tuNs && x.of_ * tuNs ≤ a
  { s with tio := { s.tio with
      pps := s.tio.pps.map fun p => { p with starts := p.starts.filter fun x => !(inside x || passed x) }
      tout := s.tio.tout.map fun p => { p with starts := p.starts.filter fun x => !(inside x) } } }

/-! ### The wake shadow and arming (R287, R289) -/

def trigGet (s : State) (n : Nat) : Trigger := s.drl.getD n ⟨none, none⟩

def trigSet (s : State) (n : Nat) (t : Trigger) : State :=
  ({ s with drl := s.drl.set n t }).setFlag (F.DRL_STAT_ARMED n) t.next.isSome

def trigP (s : State) (n : Nat) : Nat := trigPeriod (s.fld (F.DRL_PERIOD_NS n)) (s.fld (F.DRL_CFG_SECS n))
def trigF (s : State) (n : Nat) : Nat := trigPhase (s.fld (F.DRL_PERIOD_NS n)) (s.fld (F.DRL_PHASE_NS n))

/-- Triggers arm only while the TBU is loaded and DRL runs. -/
def drlLive (s : State) : Bool := s.loaded && s.running P.DRL

/-- The PMU wake-timer shadow (Table 11-1): the lowest-numbered enabled trigger with WAKE = 1 writes its next instant. -/
def wakeShadow (s : State) : State :=
  match (List.range 32).find? (fun n => s.flag (F.DRL_CFG_EN n) && s.flag (F.DRL_CFG_WAKE n)) with
  | none => s.setFlag F.PMU_WSHAD0_VALID false
  | some n =>
    match (s.trigGet n).next with
    | none => s.setFlag F.PMU_WSHAD0_VALID false
    | some i =>
      ((s.setFld F.PMU_WSHAD0_NS (i % 1000000000)).setFld F.PMU_WSHAD1_SEC (i / 1000000000)).setFlag F.PMU_WSHAD0_VALID true

/-- Arm trigger n for its first instant strictly after now, as at a load, or disarm it. -/
def trigArm (s : State) (n : Nat) : State :=
  if s.drlLive ∧ s.flag (F.DRL_CFG_EN n) then
    s.trigSet n ⟨some (instantAfter (s.trigP n) (s.trigF n) s.nowNs), none⟩
  else s.trigSet n ⟨none, none⟩

def armAll (s : State) : State := ((List.range 32).foldl trigArm s).wakeShadow

/-- The S fields of trigger n obey R286. -/
def trigValid (s : State) (n : Nat) : Bool :=
  let p := s.fld (F.DRL_PERIOD_NS n)
  (p = 0 || (8 ≤ p && 1000000000 % p = 0)) && s.fld (F.DRL_PHASE_NS n) ≤ 999999999

def trigAddrs (n : Nat) : List Nat := [R.DRL_CFG n, R.DRL_PERIOD n, R.DRL_PHASE n]

/-- A refused transfer (R286). -/
def trigBad (s : State) (n : Nat) : State := (s.setFlag (F.DRL_STAT_BAD n) true).sticky P.DRL 8 n

/-- Transfer the S fields of trigger n, or refuse them whole: the written values are dropped. -/
def trigTransfer (s : State) (n : Nat) : State :=
  let sel := fun a => (trigAddrs n).contains a
  if s.shadowed sel = [] then s
  else
    let t := s.transfer sel
    if t.trigValid n then t
    else
      ({ s with shV := s.shV.filter fun e => !(sel e.1)
                shM := s.shM.filter fun e => !(sel e.1) } : State).trigBad n

/-- A write to trigger n has been applied as written, the page being stopped or EN being 0 (R286, R288): `old` is the state
before it. -/
def trigWritten (old s : State) (n : Nat) : State :=
  if s.trigValid n then
    if old.fld (F.DRL_CFG_EN n) = s.fld (F.DRL_CFG_EN n) ∧ !(s.flag (F.DRL_CFG_EN n)) then s.wakeShadow
    else (s.trigArm n).wakeShadow
  else
    ((trigAddrs n).foldl (fun (t : State) a => t.setReg a (old.reg a)) s).trigBad n

/-! ### Advancing time (R271, R274, R277, R278, R282) -/

/-- The sum is kept to 2^-56 ns (R271): what a cycle adds, cut to that (DESIGN CHOICE, log entry 21: the rule does not say how the
rest goes). -/
def tuKeep (x : Nat) : Nat := x / 125 * 125

/-- What one TIME cycle adds to TBU time, without slew. -/
def cycleAdvance (s : State) : Nat :=
  if s.onIro 5 then 10 * tuNs
  else if s.fld F.CLK_ROOTSTAT_REF = 7 then tuKeep (200 * 2 ^ 56)
  else tuKeep (200 * 2 ^ 8 * ((2 ^ 48 : Int) + s.tbuRate).toNat)

/-- Advance of TBU time over `n` TIME cycles, without slew. -/
def baseAdvance (s : State) (n : Nat) : Nat := n * s.cycleAdvance

/-- The slew applied over `n` TIME cycles: in each SLEW_MAX x 10^-9 of its step, the last part exact (R277). -/
def slewPart (s : State) (n : Nat) : Int :=
  if s.tbuIro then 0
  else
    let lim : Nat := n * tuKeep (s.cycleAdvance * max 1 (s.fld F.TBU_LIM_SLEW_MAX) / 1000000000)
    clampInt (-(lim : Int)) lim s.tbu.slew

/-- A slew or step of `d` took TBU time from `b` to its present value: the last epoch latch has it in its interval (R282). -/
def epAdjust (s : State) (b : Nat) (d : Int) : State :=
  match s.tbu.eps with
  | [] => s
  | p :: ps =>
    if d = 0 then s
    else { s with tbu := { s.tbu with eps := { p with shifts := ⟨b, s.tbu.time, d⟩ :: p.shifts } :: ps } }

/-- Show the remaining slew. -/
def slewShow (s : State) : State :=
  (s.setFldI F.TBU_SLEWREM_REM (roundDiv s.tbu.slew tuPs)).setFlag F.TBU_QUAL_SLEWING (s.tbu.slew ≠ 0)

/-- TBU_UNC takes a value of whole ns. -/
def uncPut (s : State) (u : Nat) : State :=
  ({ s with tbu := { s.tbu with uncAt := s.tbu.time, uncPart := 0 } } : State).setFld F.TBU_UNC_UNC (min uncMax u)

/-- Show the condition of R274; while it lasts SOLQ is INVALID, TBU_UNC saturated and REF_IRO set. -/
def refIro (s : State) : State :=
  if s.loaded ∧ s.tbuIro then
    ((((s.setFlag F.TBU_QUAL_ON_IRO true).setFld F.TBU_QUAL_SOLQ 0).uncPut uncMax).sticky P.TBU 12).qualUpdate
  else s.setFlag F.TBU_QUAL_ON_IRO false

/-- `n` SAMP cycles pass: the SAMP counter (R282), and the ends of monitor and covariance blocks that it reaches (R125, R142). -/
def sampPass (s : State) (n : Nat) : State :=
  let c := s.tbu.samp
  { s with
    tbu := { s.tbu with samp := (c + n) % 2 ^ 48 }
    sig := { s.sig with
      smDue := s.sig.smDue || decide (4096 ≤ c % 4096 + n), covDue := s.sig.covDue || decide (65536 ≤ c % 65536 + n)
      tail := s.sig.tail.map (· - n) } }

/-- `dt` TIME cycles and `ds` SAMP cycles pass; SAMP's counter holds while SAMP is stopped (R282). -/
def advance (s : State) (dt ds : Nat) : State :=
  let s0 := if s.domRuns 2 then s.sampPass ds else s
  if !s0.loaded ∨ dt = 0 then s0
  else
    let step := s0.baseAdvance dt
    let sl := s0.slewPart dt
    let t := ((s0.tbu.time + step : Nat) + sl).toNat
    (({ s0 with tbu := { s0.tbu with time := t, slew := s0.tbu.slew - sl } }).epAdjust s0.tbu.time sl).slewShow.refIro.pinsDue

/-- The growth of TBU_UNC so far, over the TBU time elapsed at the GROW in force (R278). -/
def uncAccrue (s : State) : State :=
  { s with tbu := { s.tbu with
      uncAt := s.tbu.time, uncPart := s.tbu.uncPart + (s.fld F.TBU_UNCGROW_GROW * (s.tbu.time - s.tbu.uncAt) : Nat) } }

/-- TBU_UNC takes its growth, rounded up to whole ns; what the rounding added is not added again (R278). -/
def uncUpdate (s : State) : State :=
  let s1 := s.uncAccrue
  let k : Nat := 1000000000 * tuNs
  let n := -((-s1.tbu.uncPart) / (k : Int))
  let u := (s1.fld F.TBU_UNC_UNC + n).toNat
  (if uncMax ≤ u then s1.uncPut uncMax
    else ({ s1 with tbu := { s1.tbu with uncPart := s1.tbu.uncPart - n * k } } : State).setFld F.TBU_UNC_UNC u).qualUpdate

/-- No SOLQ has transferred for 2 s at LOCKED or LOCKED_AUTH (R279). -/
def solStale (s : State) : State :=
  if 3 ≤ s.qual ∧ s.tbu.lastSolq + 2 * tuSec ≤ s.tbu.time then
    (((s.setFld F.TBU_QUAL_SOLQ 2).irq P.TBU 3).sticky P.TBU 10).qualUpdate
  else s

/-! ### Loading, stopping, leaps and the epoch commit (R273, R275 to R281) -/

/-- Load the TBU with a time, a quality and an uncertainty. -/
def tbuLoadAt (s : State) (time solq unc : Nat) : State :=
  let s1 := { s with tbu := { s.tbu with time := time, stepSpan := none, uncAt := time, lastSolq := time } }
  let s2 := ((((s1.setFlag F.TBU_QUAL_LOADED true).setFlag F.TBU_QUAL_WAIT false).setFld F.TBU_QUAL_SOLQ solq).uncPut
    unc).setFlag (F.STAT_RUNNING P.TBU) true
  let sec := time / tuSec
  let s3 := ({ s2 with tio := { s2.tio with second := some sec, evLast := List.replicate 4 none } }).pinsCut.ppsNext (sec + 1)
  ((s3.armAll).irq P.TBU 0).refIro.qualUpdate

/-- ENABLE written 1: the TBU waits (R273). -/
def tbuStart (s : State) : State := if s.loaded then s else s.setFlag F.TBU_QUAL_WAIT true

/-- ENABLE written 0: the TBU stops counting, and no trigger stays armed (R273). -/
def tbuStop (s : State) : State :=
  (((s.setFlag F.TBU_QUAL_LOADED false).setFlag F.TBU_QUAL_WAIT false).setFlag (F.STAT_RUNNING P.TBU) false).pinsCut.armAll.qualUpdate

/-- A leap is due (R280). -/
def leapDue (s : State) : Bool :=
  let l := s.fld F.TBU_UTC_LEAP
  let sec := (s.reg R.TBU_LEAP0).toNat + s.fld F.TBU_LEAP1_SEC * 2 ^ 32
  s.loaded && (l = 1 || l = 2) && sec ≤ s.nowSec

/-- A due leap acts. -/
def leapAct (s : State) : State :=
  if s.leapDue then
    let o := s.fldI F.TBU_UTC_OFFSET
    let o' := if s.fld F.TBU_UTC_LEAP = 1 then o + 1 else o - 1
    ((s.setFldI F.TBU_UTC_OFFSET o').setFld F.TBU_UTC_LEAP 0).irq P.TBU 1
  else s

def leapAddrs : List Nat := [R.TBU_UTC, R.TBU_LEAP0, R.TBU_LEAP1]

/-- Drop the shadowed values of some registers. -/
def dropShadowOf (s : State) (as : List Nat) : State :=
  { s with shV := s.shV.filter fun e => !(as.contains e.1)
           shM := s.shM.filter fun e => !(as.contains e.1) }

/-- A leap that acts in the cycle of a transfer of TBU_UTC or TBU_LEAPn discards the transferred values (R281). -/
def leapAtCommit (s : State) (transfers : Bool) : State :=
  if s.leapDue then
    let coll := transfers && s.shadowed (fun a => leapAddrs.contains a) ≠ []
    let s1 := s.leapAct
    if coll then (s1.dropShadowOf leapAddrs).sticky P.TBU 13 else s1
  else s

/-- Clamp a transferred RATE to 200 ppm (R272). -/
def rateClamp (s : State) : State :=
  let lim : Int := 56294995342
  let r := s.tbuRate
  if lim < r.natAbs then
    let v := unsigned 40 (clampInt (-lim) lim r)
    ((s.setReg R.TBU_RATE0 (BitVec.ofNat 32 v)).setFld F.TBU_RATE1_RATE (v / 2 ^ 32)).sticky P.TBU 9
  else s

/-- The value that STEP holds, in 2^-16 ns. -/
def stepValue (s : State) : Int := signed 64 ((s.reg R.TBU_STEP0).toNat + (s.reg R.TBU_STEP1).toNat * 2 ^ 32)

/-- Apply a step of `st` x 2^-16 ns (R276); `q` is QUAL before the transfer. A second that a forward step passes makes no PPS pulse,
and the next is scheduled when TIO acts on the seconds passed (R545). -/
def stepApply (s : State) (q : Nat) (st : Int) : State :=
  if 2 ≤ q ∧ s.fld F.TBU_LIM_STEP_MAX * 65536 < st.natAbs then s.sticky P.TBU 8
  else
    let b := s.tbu.time
    let a := ((b : Int) + st * tuFrac).toNat
    let sh := fun (x : Nat) => ((x : Int) + st * tuFrac).toNat
    let edge := fun (e : Option Nat) => e.map fun x => ((x : Int) + st).toNat
    let tb : Tbu := { s.tbu with
        time := a, uncAt := sh s.tbu.uncAt, lastSolq := sh s.tbu.lastSolq
        stepSpan := if b < a then some (b, a) else none }
    let s1 := ({ s with tbu := tb, tio := { s.tio with evLast := s.tio.evLast.map edge } } : State).epAdjust b (st * tuFrac)
    let s2 := if b < a then s1.pinsStep b a else s1
    s2.irq P.TBU 2

/-- A SLEW in ps as the remaining slew, kept to 2^-56 ns. -/
def slewOf (ps : Int) : Int := roundDiv (ps * tuPs) 125 * 125

/-- What the TBU's S fields do once they are in force (R272, R275 to R279); `has` names the registers written, `step` the value
that STEP adds, `q` QUAL before. -/
def tbuApply (s : State) (has : Nat → Bool) (step : Int) (q : Nat) : State :=
  let s1 := if has R.TBU_RATE0 ∨ has R.TBU_RATE1 then s.rateClamp else s
  let s2 := if has R.TBU_STEP0 ∨ has R.TBU_STEP1 then s1.stepApply q step else s1
  let s3 := if has R.TBU_SLEW then
      ({ s2 with tbu := { s2.tbu with slew := slewOf (signed 32 (s2.reg R.TBU_SLEW).toNat) } }).slewShow else s2
  let s4 := if has R.TBU_UNCSET then s3.uncPut (s3.fld F.TBU_UNCSET_UNC) else s3
  let s5 := if has R.TBU_SOLQ then
      ({ s4 with tbu := { s4.tbu with lastSolq := s4.tbu.time } }).setFld F.TBU_QUAL_SOLQ (s4.fld F.TBU_SOLQ_SOLQ) else s4
  s5.refIro.qualUpdate

/-- The TBU commit of R275, steps 2 to 5. -/
def tbuCommit (s : State) : State :=
  let q := s.qual
  let hold := s.hold P.TBU
  let s1 := s.leapAtCommit (!hold)
  if hold then s1.qualUpdate
  else
    let s2 := s1.uncAccrue.transfer fun a => pageOf a = P.TBU
    s2.tbuApply (fun a => s1.shadowMask a ≠ 0) s2.stepValue q

/-- A write of one TBU register takes effect at once while the TBU is stopped (R51): `old` is the state before it. Of a STEP each
word adds its own part (DEDUCED, log entry 81). -/
def tbuDirect (old s : State) (a : Nat) : State :=
  let part : Int := if a = R.TBU_STEP0 then (s.reg a).toNat else signed 32 (s.reg a).toNat * (2 ^ 32 : Nat)
  let grow := old.uncAccrue.tbu
  ({ s with tbu := { s.tbu with uncAt := grow.uncAt, uncPart := grow.uncPart } } : State).tbuApply (fun b => decide (b = a)) part old.qual

/-- Capture a time (in 2^-16 ns) and a SAMP count in the six registers at `base` (R282). -/
def captureTime (s : State) (base t samp : Nat) : State :=
  let ns := t / 65536
  let w := fun (u : State) (k v : Nat) => u.setReg (base + 4 * k) (BitVec.ofNat 32 v)
  let s1 := w (w (w s 0 (t % 65536)) 1 (ns % 1000000000)) 2 (ns / 1000000000 % 2 ^ 32)
  w (w (w s1 3 (ns / 1000000000 / 2 ^ 32 % 2 ^ 16)) 4 (samp % 2 ^ 32)) 5 (samp / 2 ^ 32 % 2 ^ 16)

/-- An epoch latch at TBU time `t` (2^-16 ns) and SAMP count `samp`: TBU_EP0 to TBU_EP5, and the relation of R282 from here. -/
def epLatch (s : State) (t samp : Nat) : State :=
  let s1 := s.captureTime R.TBU_EP0 t samp
  let old := match s.tbu.eps with
    | [] => []
    | p :: ps => { p with rate := some s.tbuRate } :: ps
  { s1 with tbu := { s1.tbu with eps := (⟨t, samp, [], none⟩ :: old).take 300 } }

/-- How much of a slew or step lies at or before TBU time `t` (in the unit of `Tbu.time`): none before it began, all once it was
done, and between them in proportion, which for an instant that a forward step leaves out is the instant of the step itself. -/
def shiftUpTo (x : EpShift) (t : Nat) : Int :=
  if x.after_ ≤ t then x.amount
  else if t ≤ x.before then 0
  else roundDiv (x.amount * ((t - x.before : Nat) : Int)) (x.after_ - x.before)

/-- The SAMP count at TBU time `t` in 2^-16 ns (R282), from the latest latch at or before it, or the earliest kept; before the
first latch, from the present instant. The slew and the steps are those applied since the latch up to that time; of a time that a
backward step gives twice, the second (DEDUCED, log entry 73). -/
def sampAt (s : State) (t : Nat) : Nat :=
  let p : EpPoint := ((s.tbu.eps.find? (·.time ≤ t)).orElse fun _ => s.tbu.eps.getLast?).getD ⟨s.nowFrac, s.tbu.samp, [], none⟩
  let d : Int := ((t : Int) - p.time) * tuFrac - (p.shifts.map fun x => shiftUpTo x (t * tuFrac)).sum
  let per : Nat := 4 * tuNs * ((2 ^ 48 : Int) + p.rate.getD s.tbuRate).toNat
  (((p.samp : Int) + roundDiv (d * (2 ^ 48 : Nat)) per) % ((2 ^ 48 : Nat) : Int)).toNat

/-- A read of TBU_NOW0 captures the TBU time and the SAMP count of one TIME cycle (R282). -/
def tbuNow (s : State) : State := s.captureTime R.TBU_NOW0 s.nowFrac s.tbu.samp

/-! ### Transitions of ERR_STICKY bits on their way to Tocsin (R513) -/

/-- Words 0 and 1 of a log entry formed now: TBU time, or RTC time while the TBU is not loaded (Table 21-2). -/
def logTime (s : State) : Word × Word :=
  if s.loaded then (BitVec.ofNat 32 s.nowSec, BitVec.ofNat 32 (s.nowNs % 1000000000 + 2 ^ 31))
  else (BitVec.ofNat 32 s.aon.sec, BitVec.ofNat 32 (s.aon.sub % 2 ^ 15 + 2 ^ 30 + 2 ^ 31))

/-- The transitions of this cycle go to Tocsin. -/
def toTocsin (s : State) : State :=
  match s.tocPend with
  | [] => s
  | es =>
    { s with
      tocPend := []
      toc := { s.toc with inbox := s.toc.inbox ++ [⟨s.logTime.1, s.logTime.2, s.mode, stickySort es⟩] } }

/-! ### TIO (R290, R544, R545, R293) -/

/-- Before the fields of TIO transfer, PPS outputs keep the POL in force until their next edge (R290). -/
def ppsKeepPol (s : State) : State :=
  let keep := fun (k : Nat) (p : OutPin) => { p with pol := some (p.pol.getD (s.flag (F.TIO_PPSCFG_POL k))) }
  { s with tio := { s.tio with pps := s.tio.pps.mapIdx keep } }

/-- After the transfer, a TOUT output that is off stands at its inactive level, and QMIN acts (R291, R292). -/
def toutFit (s : State) : State :=
  let fit := fun (n : Nat) (p : OutPin) =>
    if s.fld (F.TIO_TOUTCFG_MODE n) = 0 then { p with active := false, endAt := none } else s.toutQual n p
  { s with tio := { s.tio with tout := s.tio.tout.mapIdx fit } }

/-- TIO_SECOND: a whole second not acted on before (R545). -/
def tioSecond (s : State) : State :=
  let sec := s.nowSec
  let fresh : Bool := match s.tio.second with | none => true | some l => decide (l < sec)
  if s.loaded ∧ s.tioRuns ∧ fresh then
    let s1 := ({ s with tio := { s.tio with second := some sec } }).irq P.TIO 4
    (((s1.ppsKeepPol.commitPoint P.TIO).toutFit).ppsNext (sec + 1)).pinsDue
  else s

/-- ENABLE of TIO (R544). -/
def tioEnable (s : State) (on : Bool) : State :=
  if on then
    if s.running P.TIO then s
    else
      let sec := max (s.tio.second.getD 0) s.nowSec
      let s1 := (s.setFlag (F.STAT_RUNNING P.TIO) true)
      ({ s1 with tio := { s1.tio with second := some sec } }).pinsCut.ppsNext (sec + 1)
  else (s.setFlag (F.STAT_RUNNING P.TIO) false).pinsCut

/-- ENABLE of DRL (R544). -/
def drlEnable (s : State) (on : Bool) : State :=
  if on = s.running P.DRL then s else (s.setFlag (F.STAT_RUNNING P.DRL) on).armAll

def evFifo (s : State) (m : Nat) : List EvEdge := s.tio.ev.getD m []

/-- A selected edge on EVINm, `off` steps of 25 ps into the present TIME cycle (R293). -/
def evCapture (s : State) (m : Nat) (rise : Bool) (off : Nat) : State :=
  let sel := s.fld (F.TIO_EVCFG_EDGE m)
  let wanted := if rise then sel = 1 || sel = 3 else sel = 2 || sel = 3
  if s.loaded ∧ s.tioRuns ∧ wanted ∧ m < 4 then
    let t := (s.tbu.time + off * tu25) / tuFrac
    let q := s.evFifo m
    let close : Bool := match s.tio.evLast.getD m none with | none => false | some l => decide (t < l + 8 * 65536)
    if 4 ≤ q.length ∨ close then (s.setFlag (F.TIO_EVSEC1_OVR m) true).sticky P.TIO 8 m
    else
      let e : EvEdge := ⟨t, rise, s.qual⟩
      ({ s with tio := { s.tio with ev := s.tio.ev.set m (q ++ [e])
                                    evLast := s.tio.evLast.set m (some t) } }).irq P.TIO m
  else s

/-- A write of 1 to TIO_EVSEC1m.VALID removes the oldest event. -/
def evPop (s : State) (m : Nat) : State :=
  { s with tio := { s.tio with ev := s.tio.ev.set m ((s.evFifo m).drop 1) } }

/-- The event registers show the oldest event of EVINm; 0 with none. -/
def evWord (s : State) (m o : Nat) : Word :=
  let e := (s.evFifo m).headD ⟨0, false, 0⟩
  let ns := e.time / 65536
  match o with
  | 0 => BitVec.ofNat 32 (e.time % 65536 + b2n e.rise * 2 ^ 16 + e.qual * 2 ^ 17)
  | 1 => BitVec.ofNat 32 (ns % 1000000000)
  | 2 => BitVec.ofNat 32 (ns / 1000000000)
  | _ => BitVec.ofNat 32 (ns / 1000000000 / 2 ^ 32 % 2 ^ 16 + (s.evFifo m).length * 2 ^ 16
      + b2n (s.flag (F.TIO_EVSEC1_OVR m)) * 2 ^ 30 + b2n (!(s.evFifo m).isEmpty) * 2 ^ 31)

/-! ### AUX (R294 to R297) -/

/-- OCXO_CV in units of 3.3 V / 2^20; `none` is high-impedance (R294). While the device is held in reset the output stage, which
AON supplies, holds its level; a brown-out of AON loses it until the immediate stage (R296, R529). -/
def ocxoCv (s : State) : Option Nat :=
  if s.pmu.deviceReset ∨ s.aon.brown then s.aon.cv
  else if s.fld F.AUX_DACCFG_OUT = 1 then none else some (s.fld F.AUX_DAC_V)

/-- OCXO_PWM over 1,024 of its base periods of 1,024 PERI cycles: the cycles that each is high, and how many of them are high for
one cycle more (R294); low where it is not selected, in SLEEP, DEEP and OFF (R296), and while the pins are forced (Table 18-4). -/
def ocxoPwm (s : State) : Nat × Nat :=
  if s.fld F.AUX_DACCFG_OUT = 0 ∨ s.pmu.poweredDown ∨ s.pinsForced then (0, 0)
  else (s.fld F.AUX_DAC_V / 1024, s.fld F.AUX_DAC_V % 1024)

/-- A write to AUX_DACNEXT: target and PEND. -/
def dacTarget (s : State) (v : Nat) : State := (s.setFld F.AUX_DACNEXT_TARGET v).setFlag F.AUX_DACNEXT_PEND true

/-- A firing of the DAC trigger (R295). -/
def dacFire (s : State) : State :=
  if s.live P.AUX ∧ s.flag F.AUX_DACNEXT_PEND ∧ (s.mode ≠ 0 ∨ s.flag F.AUX_DACCFG_SAFE_EN) then
    let v := s.fld F.AUX_DAC_V
    let t := s.fld F.AUX_DACNEXT_TARGET
    let m := max 1 (s.fld F.AUX_DACCFG_STEPMAX)
    let v1 := if v ≤ t then min t (v + m) else max t (v - m)
    let lo := s.fld F.AUX_DACMIN_LIMIT
    let hi := s.fld F.AUX_DACMAX_LIMIT
    let v2 := clampNat lo hi v1
    let s1 := s.setFld F.AUX_DAC_V v2
    let s2 := if v2 ≠ v1 then s1.sticky P.AUX 8 else s1
    let s3 := s2.irq P.AUX 1
    if v2 = clampNat lo hi t then (s3.setFlag F.AUX_DACNEXT_PEND false).irq P.AUX 2 else s3
  else s

/-- The aux converters work: the page runs, its clock is on and, for the ADC, OUT10 runs (R297, R466). -/
def adcLive (s : State) : Bool := s.live P.AUX && s.domRuns 12

/-- With FREE = 1 a scan runs at every time (R297). -/
def adcShow (s : State) : State :=
  if s.adcLive ∧ s.flag F.AUX_ADCCFG_FREE then s.setFlag F.AUX_ADCSTAT_BUSY true else s

/-- A firing of the ADC trigger at instant `i` ns (R297). -/
def adcFire (s : State) (i : Nat) : State :=
  if !s.adcLive then s
  else if s.flag F.AUX_ADCSTAT_BUSY ∨ s.flag F.AUX_ADCCFG_FREE then s.sticky P.AUX 9
  else (s.setFlag F.AUX_ADCSTAT_BUSY true).setFld F.AUX_ADCTIME_NS (i % 1000000000)

/-- One result of a scan: the mean of 2^AVG 12-bit codes in 1/16 LSB. -/
def adcResult (sums : List Nat) (s : State) (k : Nat) : State :=
  if bit (s.fld F.AUX_ADCCFG_MASK) k then
    let n := min 4 (s.fld F.AUX_ADCCFG_AVG)
    ((s.setFld (F.AUX_RES_VALUE k) (16 * sums.getD k 0 / 2 ^ n)).setFlag (F.AUX_RES_VALID k) true).setFld
      (F.AUX_RES_SCANS k) (s.fld F.AUX_ADCSTAT_SCANS)
  else s

/-- ADC_SCAN_DONE: `sums` holds, per input, the sum of its conversions. With FREE = 1 the next scan follows. -/
def adcDone (s : State) (sums : List Nat) : State :=
  if s.adcLive ∧ (s.flag F.AUX_ADCSTAT_BUSY ∨ s.flag F.AUX_ADCCFG_FREE) then
    let s1 := (List.range 8).foldl (adcResult sums) (s.addFld F.AUX_ADCSTAT_SCANS 1)
    (s1.setFlag F.AUX_ADCSTAT_BUSY (s.flag F.AUX_ADCCFG_FREE)).irq P.AUX 0
  else s

end State

end Sys2Proof.Machine
end

