-- ==== Sys2Proof/Machine/Dfe.lean ====
section
/-! DEFINITION. The digital front end: correction coefficients, notches, pulse blanking, spectral monitor and the capture
port (spec/05_digital_front_end.md, R112 to R140).
Readings: log entries 27, 28, 29 (DESIGN CHOICE, DEDUCED). -/

namespace Sys2Proof.Machine

/-- Bit `b` of the field that a sample puts into its packed place: 2-bit format, Table 5-2. -/
def packed2 (q : QSample) : Nat := q.iMag % 2 + q.iNeg * 2 + q.qMag % 2 * 4 + q.qNeg * 8

def packed4 (q : QSample) : Nat := q.iMag % 8 + q.iNeg * 8 + q.qMag % 8 * 16 + q.qNeg * 128

/-- Sum of `f (sample n) * 2 ^ (step * n)`. -/
def packWord (f : QSample → Nat) (step : Nat) : List QSample → Nat
  | [] => 0
  | q :: qs => f q + 2 ^ step * packWord f step qs

/-- The words of one group of 32 samples (Table 5-2). A group with fewer samples is padded with zero bits (R130). -/
def groupWords (four planes flags : Bool) (g : List QSample) : List Nat :=
  let data :=
    if planes then
      if four then
        [packWord (·.iNeg) 1 g, packWord (·.iMag % 2) 1 g, packWord (·.iMag / 2 % 2) 1 g, packWord (·.iMag / 4 % 2) 1 g,
         packWord (·.qNeg) 1 g, packWord (·.qMag % 2) 1 g, packWord (·.qMag / 2 % 2) 1 g, packWord (·.qMag / 4 % 2) 1 g]
      else [packWord (·.iNeg) 1 g, packWord (·.iMag) 1 g, packWord (·.qNeg) 1 g, packWord (·.qMag) 1 g]
    else if four then (List.range 8).map fun w => packWord packed4 8 ((g.drop (4 * w)).take 4)
    else (List.range 4).map fun w => packWord packed2 4 ((g.drop (8 * w)).take 8)
  if flags then data ++ [packWord (fun q => b2n q.flag) 1 g] else data

namespace State

/-! ### Pages and notches -/

def dfeGet (s : State) (p : Nat) : DfePath := s.dfe.getD p DfePath.reset

def dfeSet (s : State) (p : Nat) (d : DfePath) : State := { s with dfe := s.dfe.set p d }

def notchGet (s : State) (p k : Nat) : Notch := (s.dfeGet p).notch.getD k ⟨0, 0, false, 0, none⟩

def notchSet (s : State) (p k : Nat) (n : Notch) : State :=
  s.dfeSet p { s.dfeGet p with notch := (s.dfeGet p).notch.set k n }

/-- The signal state of path p. -/
def pathSig (s : State) (p : Nat) : PathSig := s.sig.path.getD p PathSig.reset

def pathSigSet (s : State) (p : Nat) (x : PathSig) : State := { s with sig := { s.sig with path := s.sig.path.set p x } }

def notchSigSet (s : State) (p k : Nat) (x : NotchSig) : State :=
  s.pathSigSet p { s.pathSig p with notch := (s.pathSig p).notch.set k x }

/-- Paths of path p's band with NLINK = 1, lowest first. -/
def linkedPaths (s : State) (p : Nat) : List Nat :=
  ((List.range 8).map fun e => 2 * e + p % 2).filter fun q => s.flag (F.DFE_CTL_NLINK q)

/-- The path whose notches path p applies: its band's leader when linked (R119), else itself. -/
def notchLeader (s : State) (p : Nat) : Nat := if s.flag (F.DFE_CTL_NLINK p) then (s.linkedPaths p).headD p else p

/-- MODE of a notch. DFE_NCFG is one array; its upper half resets to AUTO. -/
def notchMode (s : State) (p k : Nat) : Nat := s.fld (F.DFE_NCFG_MODE p k)

def notchWidth (s : State) (p k : Nat) : Nat := clampNat 4 12 (s.fld (F.DFE_NCFG_WIDTH p k))

/-- The notch filters: modes 1 and 2, and mode 3 once assigned. -/
def notchActive (s : State) (p k : Nat) : Bool :=
  let m := s.notchMode p k
  m = 1 || m = 2 || (m = 3 && (s.notchGet p k).assigned)

/-- NSTAT of notch k as the leader `l` has it, shown on page `p` (R119). -/
def notchShowOne (l p : Nat) (s : State) (k : Nat) : State :=
  let n := s.notchGet l k
  let on := s.notchActive l k
  let m := s.notchMode l k
  let span := max 1 (s.fld (F.DFE_NCFG_SPAN l k)) * 2 ^ 20
  let off := (signed 32 n.freq - signed 32 n.base).natAbs
  ((((s.setFld (F.DFE_NSTAT_PWR p k) (s.fld (F.DFE_NSTAT_PWR l k))).setFld (F.DFE_NSTAT_FREQ p k) (n.freq / 2 ^ 16)).setFlag (F.DFE_NSTAT_ACTIVE p k) on).setFlag
    (F.DFE_NSTAT_AT_LIMIT p k) (on && (m = 2 || m = 3) && span ≤ off)).setFlag (F.DFE_NSTAT_ASSIGNED p k)
    (m = 3 && n.assigned)

/-- Bring NSTAT of every path of a band up to date. -/
def notchShow (s : State) (band : Nat) : State :=
  (List.range 8).foldl (fun (t : State) e =>
    let p := 2 * e + band
    (List.range 8).foldl (notchShowOne (t.notchLeader p) p) t) s

/-- What a commit does to notch k of page p. `cfg` and `frq` tell which of its registers the commit wrote, `was` the MODE
before it, and `cov` whether the boundary is one at which assignments and releases take effect: such a change is then
dropped (R121). A MODE other than 3 frees the notch of any assignment, one that waits included. NFREQ restarts the notch;
so does a committed NCFG that makes the notch FIXED, or TRACK from another mode, since such a notch starts at NFREQ
(DEDUCED, log entry 28). -/
def notchCommit (s : State) (p k was : Nat) (cfg frq cov : Bool) : State :=
  if cfg ∨ frq then
    let m := s.notchMode p k
    let n := s.notchGet p k
    let n := if cov ∨ m ≠ 3 then { n with change := none } else n
    let n := if m = 3 then n else { n with assigned := false, low := 0 }
    let f := (s.reg (R.DFE_NFREQ p k)).toNat
    let n := if frq ∨ (cfg ∧ (m = 1 ∨ (m = 2 ∧ was ≠ 2))) then { n with base := f, freq := f } else n
    let s1 := s.notchSet p k n
    if frq then s1.notchSigSet p k NotchSig.zero else s1
  else s

/-- A DFE commit point of page p (R136): shadowed fields transfer and the notches they wrote restart. -/
def dfeCommit (s : State) (p : Nat) (cov : Bool) : State :=
  let cfg := fun k => s.shadowMask (R.DFE_NCFG p k) ≠ 0
  let frq := fun k => s.shadowMask (R.DFE_NFREQ p k) ≠ 0
  let t := s.transfer fun a => pageOf a = P.DFE p
  (List.range 8).foldl (fun (u : State) k => u.notchCommit p k (s.notchMode p k) (cfg k) (frq k) cov) t

/-- A hardware commit point of page p; SHADOW_HOLD suspends it (R53). -/
def dfeBoundaryOne (cov : Bool) (s : State) (p : Nat) : State := if s.hold (P.DFE p) then s else s.dfeCommit p cov

def dfeBoundary (s : State) (cov : Bool) : State :=
  (((List.range 16).foldl (dfeBoundaryOne cov) s).notchShow 0).notchShow 1

/-- An assignment or release takes effect (R120). -/
def notchChangeOne (p : Nat) (s : State) (k : Nat) : State :=
  let n := s.notchGet p k
  match n.change with
  | none => s
  | some c =>
    let n' : Notch :=
      match c with
      | some f => ⟨f, f, true, 0, none⟩
      | none => { n with assigned := false, low := 0, change := none }
    ((s.notchSet p k n').addFld (F.DFE_SMSTAT_NEPOCH p) 1).irq (P.DFE p) 2

def notchChanges (s : State) : State :=
  (((List.range 16).foldl (fun (t : State) p => (List.range 8).foldl (notchChangeOne p) t) s).notchShow 0).notchShow 1

/-- `d` lies within half the 3 dB width of Table 5-1, 2^(31 - WIDTH) / pi in FREQ units. -/
def withinNotch (d width : Nat) : Bool := d * 314159265358979323846 ≤ 2 ^ (31 - width) * 10 ^ 20

/-- A frequency lies inside the 3 dB width of an active notch of page p. -/
def inNotch (s : State) (p : Nat) (f : Int) : Bool :=
  (List.range 8).any fun k =>
    s.notchActive p k && withinNotch (f - signed 32 (s.notchGet p k).freq).natAbs (s.notchWidth p k)

/-- Assign one peak to the lowest-numbered free AUTO notch (R120). `peak` = (bin, power). A notch chosen for another peak of
the report is not active before the boundary, so that two peaks within one notch's width take a notch each (DEDUCED, log
entry 28). -/
def notchAssign (p floor : Nat) (s : State) (peak : Int × Nat) : State :=
  let f := peak.1 * 2 ^ 20
  if aboveFloor peak.2 floor (s.fld (F.DFE_SMCFG_AUTO_TH p)) ∧ !(s.inNotch p f) then
    match (List.range 8).find? (fun k => s.notchMode p k = 3 && !(s.notchGet p k).assigned &&
        (s.notchGet p k).change = none) with
    | some k => s.notchSet p k { s.notchGet p k with change := some (some (unsigned 32 f)) }
    | none => s.sticky (P.DFE p) 9
  else s

/-- The power that notch k of path p has taken away over a report interval of `valid` samples, above a FLOOR (as a power), in
0.25 dB (DESIGN CHOICE, log entry 66). -/
def notchPower (s : State) (p k valid floor used : Nat) : Nat :=
  let x := (s.pathSig p).notch.getD k NotchSig.zero
  levelAbove (x.removed * used * powerUnit) (floor * max 1 valid * 2 ^ 24 * 10 ^ 10)

/-- NSTAT.PWR of an active notch; the reports of an assigned notch at or below REL_TH are counted, and it is released (R120). A report
with VALID = 0 shows a PWR of 0 and counts as one at or below REL_TH (DESIGN CHOICE, log entry 66). -/
def notchRelease (p : Nat) (pwr : List Nat) (s : State) (k : Nat) : State :=
  let n := s.notchGet p k
  let s1 := s.setFld (F.DFE_NSTAT_PWR p k) (if s.notchActive p k then min 255 (pwr.getD k 0) else 0)
  if n.assigned ∧ s.notchMode p k = 3 then
    let low := if s1.fld (F.DFE_NSTAT_PWR p k) ≤ s.fld (F.DFE_SMCFG_REL_TH p) then n.low + 1 else 0
    let go := n.change = none ∧ max 1 (s.fld (F.DFE_SMCFG_RELEASE p)) ≤ low
    s1.notchSet p k { n with low := low, change := if go then some none else n.change }
  else s1

/-! ### Capture channels (R128 to R135) -/

def capGet (s : State) (n : Nat) : CapChan := (s.dfeGet n).cap

def capSet (s : State) (n : Nat) (c : CapChan) : State := s.dfeSet n { s.dfeGet n with cap := c }

/-- DFE_CAPSTAT.STATE: 0 IDLE, 1 ARMED, 2 RUN, 3 POST, 4 DONE. -/
def capState (s : State) (n : Nat) : Nat := s.fld (F.DFE_CAPSTAT_STATE n)

def capBase (s : State) (n : Nat) : Nat := (s.reg (R.DFE_CAPBASE n)).toNat

def capBytes (s : State) (n : Nat) : Nat := 64 * s.fld (F.DFE_CAPLEN_LEN n)

def capRing (s : State) (n : Nat) : Bool := s.flag (F.DFE_CAPFMT_MODE n)

/-- The band of a channel's source. -/
def capBand (s : State) (n : Nat) : Nat :=
  let k := s.fld (F.DFE_CAPSRC_KIND n)
  if k = 0 ∨ k = 3 then s.fld (F.DFE_CAPSRC_INDEX n) % 2 else s.fld (F.DFE_CAPSRC_BAND n)

def capQth (s : State) (n : Nat) : Nat := max 1 (s.fld (F.DFE_CAPFMT_QTH n))

/-- Bytes of one group of 32 samples in the channel's format. -/
def capGroup (s : State) (n : Nat) : Nat :=
  (if s.flag (F.DFE_CAPFMT_BITS n) then 32 else 16) + (if s.flag (F.DFE_CAPFMT_FLAGS n) then 4 else 0)

/-- Show the write position. -/
def capShow (s : State) (n : Nat) : State := s.setFld (F.DFE_CAPPTR_PTR n) ((s.capGet n).ptr / 64)

/-- An ARM's parameters are valid (R132). -/
def capValid (s : State) (n : Nat) : Bool :=
  let b := s.capBase n
  let l := s.capBytes n
  b % 64 = 0 && 128 ≤ l && (bankOf b).isSome && (bankOf (b + l - 1)).isSome
    && (banksOf b l).all (fun k => s.bankOwner k = Init.DFE)
    && !(s.capRing n && s.fld (F.DFE_CAPSRC_KIND n) = 3)

/-- CAPCMD.ARM (Table 5-4). -/
def capArm (s : State) (n init : Nat) : State :=
  if s.capState n = 0 ∨ s.capState n = 4 then
    if s.capValid n then
      ((((s.capSet n CapChan.reset).setFld (F.DFE_CAPSTAT_STATE n) 1).setFlag (F.DFE_CAPSTAT_WRAPPED n) false)).capShow n
    else (s.setFlag (F.DFE_CAPSTAT_REFUSED n) true).stickyAt (P.DFE n) 12 0x138 true init 0
  else s

/-- Begin the completion of R133 with a STATUS bit set. -/
def capClose (s : State) (n status : Nat) : State :=
  s.capSet n { s.capGet n with closing := some status }

/-- CAPCMD.STOP (Table 5-4). -/
def capStop (s : State) (n : Nat) : State :=
  if s.capState n = 1 then s.setFld (F.DFE_CAPSTAT_STATE n) 0
  else if (s.capState n = 2 ∨ s.capState n = 3) ∧ (s.capGet n).closing = none then s.capClose n 4
  else s

/-- A capture write met an ownership error (Table 5-4). -/
def capOwnErr (s : State) (n : Nat) : State :=
  let st := s.capState n
  if st = 2 ∨ st = 3 then
    (((s.setFld (F.DFE_CAPSTAT_STATE n) 0).setFlag (F.DFE_CAPSTAT_OWN_ERR n) true).sticky (P.DFE n) 11 st).irq (P.DFE n) 4
  else s

/-- Samples that a channel's source takes from the ADC to the place where the channel takes it, as the model holds them: the
front end's output, and 192 more for an array stream (log entry 63). -/
def capLatency (s : State) (n : Nat) : Nat := if s.fld (F.DFE_CAPSRC_KIND n) = 0 then 320 else 512

/-- Enter RUN: sample 0 is the sample at the event instant, `skip` input samples from now. -/
def capRun (s : State) (n skip : Nat) (t : Option Nat) : State :=
  (s.capSet n { s.capGet n with t0 := t, skip := skip }).setFld (F.DFE_CAPSTAT_STATE n) 2

/-- The event that START selects happens at TAI time `t` (2^-16 ns), in the SAMP cycle `samp` from now: the start of a snapshot, or
the stop of a ring. Sample 0 is the ADC sample of that cycle; an event without an instant takes the next one (DEDUCED, log entry
29). -/
def capEventOne (t : Option Nat) (samp : Nat) (s : State) (n : Nat) : State :=
  if s.capRing n then
    if s.capState n = 2 ∧ (s.capGet n).closing = none then
      (s.capSet n { s.capGet n with postLeft := 64 * s.fld (F.DFE_CAPTRIG_POST n) }).setFld (F.DFE_CAPSTAT_STATE n) 3
    else s
  else if s.capState n = 1 then
    if (s.capGet n).mix.rms.isSome then s.capRun n (s.capLatency n + samp + 1) t else s.setFlag (F.DFE_CAPSTAT_EARLY n) true
  else s

/-- Deliver an event to the channels that a predicate selects. -/
def capEvent (s : State) (sel : Nat → Bool) (t : Option Nat) (samp : Nat) : State :=
  ((List.range 16).filter sel).foldl (capEventOne t samp) s

/-- An interference event in a band (START = 3). -/
def capInterference (s : State) (band : Nat) : State :=
  s.capEvent (fun n => s.fld (F.DFE_CAPTRIG_START n) = 3 && s.capBand n = band) none 0

/-- Quantise one output sample under R129. A flagged sample takes its signs from the free-running LFSR, whose sequence
the spec does not give: free values (DESIGN CHOICE, log entry 3). A scale of 0 leaves a 4-bit magnitude without a stated value. -/
def capQuant (s : State) (n : Nat) (x : Sample) : State × QSample :=
  let rms := (s.capGet n).mix.rms.getD 0
  let qth := s.capQth n
  if x.flag then
    let (v, s1) := s.fresh
    (s1, ⟨v.toNat % 2, 0, v.toNat / 2 % 2, 0, true⟩)
  else if s.flag (F.DFE_CAPFMT_BITS n) then
    if rms = 0 then
      let (v, s1) := s.fresh
      (s1, ⟨b2n (x.v.i < 0), v.toNat % 8, b2n (x.v.q < 0), v.toNat / 8 % 8, false⟩)
    else (s, ⟨b2n (x.v.i < 0), quant4 x.v.i qth rms, b2n (x.v.q < 0), quant4 x.v.q qth rms, false⟩)
  else (s, ⟨b2n (x.v.i < 0), quant2 x.v.i qth rms, b2n (x.v.q < 0), quant2 x.v.q qth rms, false⟩)

/-- Room for `g` more bytes before the end of the buffer. -/
def capFits (s : State) (n g : Nat) : Bool := (s.capGet n).ptr + g ≤ s.capBytes n

/-- A ring whose next group does not fit wraps to CAPBASE + 64 (Table 5-4). -/
def capWrap (s : State) (n g : Nat) : State :=
  if s.capRing n ∧ !(s.capFits n g) then
    ((s.capSet n { s.capGet n with ptr := 64 }).setFlag (F.DFE_CAPSTAT_WRAPPED n) true).capShow n
  else s

/-- Write one block of bytes that holds the samples of a group. A snapshot with no room left, and a POST whose count is used
up, write nothing. -/
def capWrite (s : State) (n : Nat) (bytes : List Byte) (grp : CapGroup) : State :=
  let g := bytes.length
  let s1 := s.capWrap n g
  let c := s1.capGet n
  if !(s1.capFits n g) ∨ (s1.capState n = 3 ∧ c.postLeft = 0) ∨ !(s1.capState n = 2 ∨ s1.capState n = 3) then s1
  else
    let (s2, ok) := s1.portWrite Init.DFE (s1.capBase n + c.ptr) bytes
    if ok then
      let held := c.held ++ [grp]
      let held := if s2.flag (F.DFE_CAPSTAT_WRAPPED n) ∧ (s2.capBytes n - 64) / g < held.length then held.drop 1 else held
      (s2.capSet n { c with ptr := c.ptr + g, held := held, postLeft := c.postLeft - g }).capShow n
    else s2.capOwnErr n

/-- Write out one group. -/
def capFlush (s : State) (n : Nat) : State :=
  let c := s.capGet n
  if c.part = [] then s
  else
    let ws := groupWords (s.flag (F.DFE_CAPFMT_BITS n)) (s.flag (F.DFE_CAPFMT_PLANES n)) (s.flag (F.DFE_CAPFMT_FLAGS n)) c.part
    (s.capSet n { c with part := [] }).capWrite n (ws.flatMap (leBytes 4))
      ⟨c.part.length, (c.part.filter (·.flag)).length, c.partInfo.1, c.partInfo.2.1, c.partInfo.2.2⟩

/-- RMS_c, time quality and PHASE_EPOCH as they stand for a sample now (Table 5-3). -/
def capInfo (s : State) (n : Nat) : Nat × Nat × Nat :=
  ((s.capGet n).mix.rms.getD 0, s.fld F.TBU_QUAL_QUAL, s.fld (F.SYN_STAT_PHASE_EPOCH (s.capBand n)))

/-- A channel that writes samples: RUN or POST, with no completion in progress. -/
def capWriting (s : State) (n : Nat) : Bool :=
  (s.capState n = 2 || s.capState n = 3) && (s.capGet n).closing = none

/-- One output sample of a running channel. -/
def capSample (n : Nat) (s : State) (x : Sample) : State :=
  let (s1, q) := s.capQuant n x
  let c := s1.capGet n
  let s2 := s1.capSet n { c with part := c.part ++ [q], partInfo := if c.part = [] then s1.capInfo n else c.partInfo }
  if c.part.length = 31 then s2.capFlush n else s2

/-- One input sample of channel n from its source (R128, R129): shifted, decimated, counted for RMS_c from ARM on, and from
sample 0 on written. Sample 0 begins a new output sample (DESIGN CHOICE, log entry 67). -/
def capInput (s : State) (n : Nat) (x : Sample) : State :=
  if s.capState n = 0 ∨ s.capState n = 4 ∨ s.fld (F.DFE_CAPSRC_KIND n) = 3 then s
  else
    let c := s.capGet n
    let m := if c.skip = 1 then c.mix.align else c.mix
    let (m, y) := m.step (s.reg (R.DFE_CAPMIX n)).toNat (s.fld (F.DFE_CAPFMT_DECIM n)) x
    match y with
    | none => s.capSet n { c with mix := m, skip := c.skip - 1 }
    | some v =>
      let s1 := s.capSet n { c with mix := m.count1 v, skip := c.skip - 1 }
      if s.capWriting n ∧ c.skip ≤ 1 then capSample n s1 v else s1

/-- One averaged spectrum of path p (R128, R130): for the channels whose source it is the bins are written, -2048 first; the
spectrum also completes the rms block of a channel in ARMED, since it has no RMS_c (DESIGN CHOICE, log entry 67). -/
def capSpectrum (p : Nat) (bins : List Nat) (s : State) (n : Nat) : State :=
  if s.fld (F.DFE_CAPSRC_KIND n) = 3 ∧ s.fld (F.DFE_CAPSRC_INDEX n) = p ∧ s.capState n ≠ 0 ∧ s.capState n ≠ 4 then
    let s1 := if s.capState n = 1 then s.capSet n { s.capGet n with spectrum := true } else s
    if s1.capWriting n then
      let i := s1.capInfo n
      s1.capWrite n (bins.flatMap (leBytes 2)) ⟨bins.length, 0, i.1, i.2.1, i.2.2⟩
    else s1
  else s

/-- The rms block of channel n has ended. -/
def capRmsDue (s : State) (n : Nat) : Bool := (s.capGet n).mix.full || (s.capGet n).spectrum

/-- CAP_RMS_BLOCK: 4,096 output samples have been taken since ARM or the last block; their rms is the scale of the next. The
first block after ARM starts the run when START is 0, and every ring; `t` is the time of the sample that follows. -/
def capRmsBlock (s : State) (n t : Nat) : State :=
  if s.capState n = 0 ∨ s.capState n = 4 ∨ !(s.capRmsDue n) then s
  else
    let c := s.capGet n
    let s1 := s.capSet n { c with mix := c.mix.close, spectrum := false }
    if s1.capState n = 1 ∧ c.mix.rms.isNone ∧ (s1.capRing n ∨ s1.fld (F.DFE_CAPTRIG_START n) = 0) then s1.capRun n 0 (some t) else s1

/-- CAP_BUFFER_FULL: a snapshot whose buffer holds no further group completes; a ring wraps. -/
def capBufferFull (s : State) (n : Nat) : State :=
  let g := if s.fld (F.DFE_CAPSRC_KIND n) = 3 then 8192 else s.capGroup n
  if s.capState n = 2 ∧ (s.capGet n).closing = none ∧ !(s.capFits n g) then
    if s.capRing n then s.capWrap n g else s.capClose n 0
  else s

/-- CAP_POST_DONE: POST x 64 bytes have been written after the stop event. -/
def capPostDone (s : State) (n : Nat) : State :=
  if s.capState n = 3 ∧ (s.capGet n).closing = none ∧ (s.capGet n).postLeft = 0 then s.capClose n 0 else s

/-- CAP_FIFO_OVERFLOW: completion with OVERRUN (R134). -/
def capOverflow (s : State) (n : Nat) : State :=
  let st := s.capState n
  if (st = 2 ∨ st = 3) ∧ (s.capGet n).closing = none then
    ((s.capClose n 2).setFlag (F.DFE_CAPSTAT_OVERRUN n) true).sticky (P.DFE n) 10 st
  else s

/-- Byte offset of the group that holds sample 0: the oldest group of a wrapped ring. -/
def capFirstOff (s : State) (n : Nat) : Nat :=
  if s.flag (F.DFE_CAPSTAT_WRAPPED n) then (if s.capFits n (s.capGroup n) then (s.capGet n).ptr else 64) else 64

/-- The capture header of Table 5-3; `t` is the time of sample 0. -/
def capHeader (s : State) (n t status : Nat) : List Byte :=
  let c := s.capGet n
  let g := c.held.headD ⟨0, 0, 0, 0, 0⟩
  let sec := t / (1000000000 * 65536)
  let ns := t / 65536 % 1000000000
  let head := leBytes 4 0x43505431 ++ leBytes 2 1
    ++ leBytes 1 (s.reg (R.DFE_CAPSRC n)).toNat ++ leBytes 1 (s.reg (R.DFE_CAPFMT n)).toNat
    ++ leBytes 8 (sec % 2 ^ 48) ++ leBytes 4 ns ++ leBytes 2 (t % 65536) ++ leBytes 1 g.qual ++ leBytes 1 status
    ++ leBytes 8 (c.held.foldl (fun a h => a + h.count) 0) ++ leBytes 4 (c.held.foldl (fun a h => a + h.flagged) 0)
    ++ leBytes 2 g.rms ++ leBytes 1 g.phase ++ leBytes 1 0 ++ leBytes 4 (s.capFirstOff n)
    ++ leBytes 4 (s.reg (R.DFE_CAPMIX n)).toNat ++ leBytes 12 0
  head ++ leBytes 4 (crc32 (head ++ leBytes 4 0))

/-- Hand every bank the buffer touches to HANDTO; the capture port's writes are complete (R133). -/
def capHand (s : State) (n owner : Nat) : State :=
  (banksOf (s.capBase n) (s.capBytes n)).foldl
    (fun (t : State) b => (t.hwHandover Init.DFE b owner).handComplete b) s

/-- CAP_COMPLETE: header, handover, DONE (R133). `t` is the time of sample 0 of a ring that wrapped, or of a run that no known
instant started. -/
def capComplete (s : State) (n t : Nat) : State :=
  match (s.capGet n).closing with
  | none => s
  | some st =>
    let s1 := s.capFlush n
    let c := s1.capGet n
    let wrapped := s1.flag (F.DFE_CAPSTAT_WRAPPED n)
    let st := st + b2n wrapped
    let hdr := s1.capHeader n (if wrapped then t else c.t0.getD t) st
    if s1.capState n = 0 then s1
    else
      let (s2, ok) := s1.portWrite Init.DFE (s1.capBase n) hdr
      if ok then
        let dest := s2.fld (F.DFE_CAPFMT_HANDTO n)
        let s3 := if dest = 0 then s2 else s2.capHand n dest
        ((s3.capSet n { s3.capGet n with closing := none }).setFld (F.DFE_CAPSTAT_STATE n) 4).irq (P.DFE n) 3
      else s2.capOwnErr n

/-! ### Monitor blocks, reports and covariance blocks -/

/-- The monitor of a path after a block: samples missing from it count as flagged, and a block with more than 512 flagged
samples is left out of the average (R125). After 2^NAVG blocks the interval has ended (R126). -/
def monBlock (m : Monit) (navg : Nat) : Monit :=
  let bad := m.flagged + (4096 - m.buf.length)
  let m1 : Monit :=
    if 512 < bad then { m with buf := [], flagged := 0, blanked := 0, blocks := m.blocks + 1 }
    else
      let pw := blockPower (List.replicate (4096 - m.buf.length) Iq.zero ++ m.buf.reverse)
      { m with buf := [], flagged := 0, blanked := 0, blocks := m.blocks + 1, used := m.used + 1
               sum := if m.sum = [] then pw else List.zipWith (· + ·) m.sum pw }
  if 2 ^ navg ≤ m1.blocks then { m1 with sum := [], used := 0, blocks := 0, report := some (m1.sum, m1.used) } else m1

/-- One path at a monitor block end: BLANK_DUTY (R124) and the monitor. A stopped path keeps its averages (R114). -/
def smPath (s : State) (p : Nat) : State :=
  let m := (s.pathSig p).mon
  if s.live (P.DFE p) then
    let s1 := s.pathSigSet p { s.pathSig p with mon := monBlock m (min 8 (s.fld (F.DFE_SMCFG_NAVG p))) }
    if s1.fld (F.DFE_BLKMAX_DUTY_MAX p) * 4096 < m.blanked * 256 then
      (s1.sticky (P.DFE p) 8).capInterference (p % 2)
    else s1
  else s.pathSigSet p { s.pathSig p with mon := { m with buf := [], flagged := 0, blanked := 0 } }

/-- SM_BLOCK_END: 4,096 samples have been taken since the last block. The S fields of DFE transfer (R136). -/
def smBlockEnd (s : State) : State :=
  if !s.sig.smDue then s
  else
    let s1 := (List.range 16).foldl smPath s
    ({ s1 with sig := { s1.sig with smDue := false } } : State).dfeBoundary s1.sig.covDue

/-- Write the peak registers of a report from the peaks' bins and powers; unused entries read 0. -/
def smShowPeak (p floor : Nat) (peaks : List (Int × Nat)) (s : State) (j : Nat) : State :=
  match peaks[j]? with
  | none => s.setReg (R.DFE_PEAK p j) 0
  | some m =>
    (((s.setReg (R.DFE_PEAK p j) 0).setFldI (F.DFE_PEAK_BIN p j) m.1).setFld (F.DFE_PEAK_LEVEL p j) (levelAbove m.2 floor)).setFlag
      (F.DFE_PEAK_NOTCHED p j) (s.inNotch (s.notchLeader p) (m.1 * 2 ^ 20))

/-- SM_REPORT of path p: the interval of 2^NAVG blocks that has ended (R126, R120). An interval whose blocks were all left out
has no FLOOR, and the register keeps the last (DEDUCED, log entry 28); it gives a spectrum capture no spectrum and completes no rms
block of one (DESIGN CHOICE, log entry 85). -/
def smReport (s : State) (p : Nat) : State :=
  let m := (s.pathSig p).mon
  match m.report with
  | none => s
  | some (sum, used) =>
    let bins := byBin sum
    let bw := s.ifBw p
    let valid := decide (0 < used)
    let floor := if valid then floorPower bw bins else 0
    let peaks := if valid then reportPeaks (localMaxima bw floor (s.fld (F.DFE_SMCFG_PK_TH p)) bins) else []
    let old := (s.dfeGet p).peaks
    let isNew := peaks.any fun m => old.all fun o => 3 < (o - m.1).natAbs
    let pwr := if valid then (List.range 8).map fun k => s.notchPower p k m.valid floor used else []
    let notch := (s.pathSig p).notch.map fun x => { x with removed := 0 }
    let s0 := s.pathSigSet p { s.pathSig p with notch := notch, mon := { m with report := none, valid := 0 } }
    let s1 := if valid then s0.setFld (F.DFE_SMSTAT_FLOOR p) (binLevel floor used) else s0
    let s2 := ((s1.setFld (F.DFE_SMSTAT_NPEAK p) peaks.length).setFlag (F.DFE_SMSTAT_VALID p) valid).irq (P.DFE p) 0
    let s3 := (List.range 8).foldl (smShowPeak p floor peaks) s2
    let s4 := s3.dfeSet p { s3.dfeGet p with peaks := peaks.map (·.1) }
    let s5 :=
      if s4.notchLeader p = p then
        (peaks.foldl (notchAssign p floor) ((List.range 8).foldl (notchRelease p pwr) s4)).notchShow (p % 2)
      else s4
    let s6 := if valid then (List.range 16).foldl (capSpectrum p (bins.map fun b => binLevel b used)) s5 else s5
    if isNew then (s6.irq (P.DFE p) 1).capInterference (p % 2) else s6

/-- CORR_MODE as it acts: 3 acts as 2. -/
def corrMode (s : State) (p : Nat) : Nat := min 2 (s.fld (F.DFE_CTL_CORR_MODE p))

/-- A coefficient as its field of `lim` codes on either side shows it, and as the correction applies it. -/
def coefShown (lim : Int) (x : Frac) : Int := clampInt (-lim) (lim - 1) x.round

/-- Show the coefficients in force (R116): none in bypass, the registers in mode 1, the estimator's in mode 2. -/
def showCoefs (s : State) (p : Nat) : State :=
  match s.corrMode p with
  | 0 => (s.setReg (R.DFE_DCEST p) 0).setReg (R.DFE_IQEST p) 0
  | 1 => (s.setReg (R.DFE_DCEST p) (s.reg (R.DFE_DC p))).setReg (R.DFE_IQEST p) (s.reg (R.DFE_IQ p))
  | _ =>
    let c := (s.dfeGet p).est
    (((s.setFldI (F.DFE_DCEST_DC_I p) (coefShown 2048 c.dcI)).setFldI (F.DFE_DCEST_DC_Q p) (coefShown 2048 c.dcQ)).setFldI
      (F.DFE_IQEST_G p) (coefShown 32768 c.g)).setFldI (F.DFE_IQEST_P p) (coefShown 32768 c.p)

/-- Move a coefficient towards its block estimate by 2^-TC of the difference. -/
def coefMove (tc : Nat) (c est : Frac) : Frac := c.add ((est.sub c).mul (Frac.make 1 (2 ^ tc)))

/-- The estimate of a block (R116) from the means of the ADC codes, the ratio of their powers and their cross-correlation:
the coefficients under which R115 gives I' and Q' zero means, equal powers and no correlation. With a, b and c the powers and
the correlation about the means, 1 + G = a / sqrt(a b - c^2) and P = -c / sqrt(a b - c^2) (DEDUCED, log entry 68). None where
the codes lie on a line, where no such coefficients exist. -/
def coefEstimate (st : PathStats) : Option Coefs :=
  let n := st.valid
  let a : Int := (n * st.sII : Nat) - st.sI * st.sI
  let b : Int := (n * st.sQQ : Nat) - st.sQ * st.sQ
  let c : Int := n * st.sIQ - st.sI * st.sQ
  let d := a * b - c * c
  if n = 0 ∨ d ≤ 0 then none
  else
    let r : Nat := sqrtNat 120 (d.toNat * 2 ^ 64)
    let k : Int := (2 ^ 32 * 2 ^ 15 : Nat)
    some ⟨Frac.make (16 * st.sI) n, Frac.make (16 * st.sQ) n, (Frac.make (a * k) r).sub (Frac.ofInt (2 ^ 15 : Nat)), Frac.make (-(c * k)) r⟩

/-- The adaptive coefficients after a block, from its statistics; fewer than half the samples valid, or no estimate, leave
them (R116). -/
def coefNext (tc : Nat) (e : Coefs) (st : PathStats) : Coefs :=
  if 2 * st.valid < 65536 then e
  else
    match coefEstimate st with
    | none => e
    | some x => ⟨coefMove tc e.dcI x.dcI, coefMove tc e.dcQ x.dcQ, coefMove tc e.g x.g, coefMove tc e.p x.p⟩

/-- One path of the front end at a covariance block end (R116, R127); its statistics begin anew. The estimator's step takes the
CORR_MODE and TC in force after the transfer of the same boundary, and a path that is stopped at the block's end keeps VCNT and
BCNT, while RFE_AGCSTAT.RMS shows the block (DESIGN CHOICE, log entry 85). -/
def dfePathEnd (s : State) (p : Nat) : State :=
  let x := s.pathSig p
  let s0 := s.pathSigSet p { x with stats := PathStats.zero }
  if s.live (P.DFE p) then
    let d := s0.dfeGet p
    let e := d.estNext
    let nxt := if s.corrMode p = 2 then coefNext (s.fld (F.DFE_CTL_TC p)) e x.stats else e
    ((s0.setFld (F.DFE_VCNT_COUNT p) x.stats.valid).setFld (F.DFE_BCNT_COUNT p) x.stats.blanked).dfeSet p
      { d with est := e, estNext := nxt }
  else s0

end State

end Sys2Proof.Machine
end

