-- ==== Sys2Proof/Machine/Search.lean ====
section
/-! DEFINITION. The arithmetic of the acquisition engine: code spectra (R172, R173), the search (R174 to R176) and what it finds
(R180).
Readings: log entries 64, 74 (DESIGN CHOICE, DEDUCED). -/

namespace Sys2Proof.Machine

/-! ### Code spectra -/

/-- Point k of N of a code of `chips` chips, in 2^-30 (R173): the chip at (k + 1/2) / N of the period, with the BOC(1,1)
subcarrier for SUB = 1. -/
def codePoint (chip : Nat → Bool) (chips n sub k : Nat) : Iq :=
  let half := (2 * k + 1) * chips / n
  let v : Int := if chip (half / 2) then -1 else 1
  ⟨(if sub = 1 ∧ half % 2 = 1 then -v else v) * 2 ^ 30, 0⟩

/-- A part of a spectrum point under the scale that takes the largest magnitude, `mx` squared, to 7. -/
def spectrumPart (mx : Nat) (x : Int) : Int := roundDiv (7 * x * 2 ^ 20) (max 1 (sqrtNat 80 (mx * 2 ^ 40)))

/-- The spectrum of a code of 2^log2n points, a byte per point (R172, R173). -/
def codeSpectrum (chip : Nat → Bool) (chips log2n sub : Nat) : List Byte :=
  let pts := (dft (-1) log2n ((List.range (2 ^ log2n)).map (codePoint chip chips (2 ^ log2n) sub))).map Iq.conj
  let mx := (pts.map Iq.power).foldl max 0
  pts.map fun z => BitVec.ofNat 8 ((spectrumPart mx z.i % 16).toNat + (spectrumPart mx z.q % 16).toNat * 16)

/-- A spectrum point from its byte (R172). -/
def spectrumPoint (b : Byte) : Iq :=
  let v := fun (x : Nat) => if x < 8 then (x : Int) else (x : Int) - 16
  ⟨v (b.toNat % 16), v (b.toNat / 16)⟩

/-! ### The search -/

/-- What a search takes from its descriptor and snapshot: LOG2N; samples per millisecond; the code period and the coherent
length in ms; NC; the sign pattern of the folds; the mix per sample in 2^-32 turn from F_OFF; CHIPS; RATIO; DOPP_CENTRE in 1/16
Hz; STEP and the hypotheses on either side. -/
structure SearchSet where
  log2n : Nat
  perMs : Nat
  fold : Nat
  tcoh : Nat
  nc : Nat
  sec : Nat
  off : Int
  chips : Nat
  ratio : Int
  centre : Int
  step : Nat
  side : Nat
deriving DecidableEq, Repr

/-- Samples of a coherent block. -/
def SearchSet.blockLen (q : SearchSet) : Nat := q.tcoh * q.perMs

/-- Doppler hypothesis number m, 0 to 2 side, in 1/16 Hz (R175). -/
def SearchSet.doppler (q : SearchSet) (m : Nat) : Int := q.centre + 16 * q.step * ((m : Int) - q.side)

/-- Sample n mixed by minus `q.off` and `f` (1/16 Hz); in 2^-16. -/
def mixSample (q : SearchSet) (f : Int) (n : Nat) (x : Iq) : Iq :=
  (x.mul (cisInt (-(q.off * n + roundDiv (f * n * 2 ^ 32) (16000 * q.perMs))))).div (2 ^ 14)

/-- A block folded into N bins, `n0` the number of its first sample from START (R174 step 2). -/
def foldBlock (q : SearchSet) (f : Int) (n0 : Nat) (xs : List Iq) : List Iq :=
  let per := q.perMs * q.fold
  let n := 2 ^ q.log2n
  (xs.zipIdx.foldl (fun (a : Array Iq) e =>
    let b := (e.2 % per) * n / per
    let y := mixSample q f (n0 + e.2) e.1
    a.set! b ((a.getD b Iq.zero).add (if q.sec.testBit (e.2 / per) then ⟨-y.i, -y.q⟩ else y)))
    (Array.replicate n Iq.zero)).toList

/-- Whole bins that the code Doppler of `f` moves the code by from T0 to block c (R174 step 4). -/
def codeShift (q : SearchSet) (f : Int) (c : Nat) : Int :=
  roundDiv (f * q.ratio * ((c * q.tcoh * 2 ^ q.log2n : Nat) : Int)) (16000 * 2 ^ 32 * max 1 q.chips)

/-- The list turned so that place b holds what place b - k held. -/
def turnList {α : Type} (k : Int) (l : List α) : List α :=
  let m := (-k % (max 1 l.length : Nat)).toNat
  l.drop m ++ l.take m

/-- The squared magnitudes of one block for one spectrum (R174 steps 3 and 4). -/
def blockCells (q : SearchSet) (spec : List Iq) (g d : Int) (c : Nat) (xs : List Iq) : List Nat :=
  let x := dft (-1) q.log2n (foldBlock q (g + d) (c * q.blockLen) xs)
  turnList (codeShift q d c) ((dft 1 q.log2n (List.zipWith Iq.mul x spec)).map Iq.power)

/-- The non-coherent sums of every bin for one hypothesis; `xs` are the samples from START on, `g` the GLONASS offset. -/
def dopplerCells (q : SearchSet) (spec xs : List Iq) (g d : Int) : List Nat :=
  (List.range q.nc).foldl (fun (a : List Nat) c =>
    List.zipWith (· + ·) a (blockCells q spec g d c ((xs.drop (c * q.blockLen)).take q.blockLen)))
    (List.replicate (2 ^ q.log2n) 0)

/-- Every cell of one index: by hypothesis, then by bin. -/
def searchCells (q : SearchSet) (spec xs : List Iq) (g : Int) : List (List Nat) :=
  (List.range (2 * q.side + 1)).map fun m => dopplerCells q spec xs g (q.doppler m)

/-! ### What a search finds (R180) -/

/-- Largest cell: sum, hypothesis, bin; the first of equal ones. -/
def largestCell (keep : Nat → Bool) (cells : List (List Nat)) : Nat × Nat × Nat :=
  cells.zipIdx.foldl (fun (a : Nat × Nat × Nat) r =>
    r.1.zipIdx.foldl (fun (a : Nat × Nat × Nat) e => if keep e.2 && a.1 < e.1 then (e.1, r.2, e.2) else a) a) (0, 0, 0)

/-- The offset of the top of the parabola through three equidistant values; none where they lie on a line. -/
def parabola (a b c : Nat) : Option Frac :=
  let d : Int := (a : Int) - 2 * b + c
  if d = 0 then none else some ((Frac.ofInt ((a : Int) - c)).div (Frac.ofInt (2 * d)))

/-- A level over the floor in 0.01 dB; none for a power of 0. -/
def overFloor (p total cells : Nat) : Option Nat :=
  if p = 0 then none else some (clampInt 0 65535 (decibel 100 (p * cells) total)).toNat

/-- Peak and second peak, each over the floor in 0.01 dB; code phase at T0 in 2^-8 chip; Doppler in 1/16 Hz; and whether the
peak lies in an outermost hypothesis, where the Doppler is not refined. A value that the formulas of R180 do not give is
absent. -/
structure Found where
  pk : Option Nat
  second : Option Nat
  code : Option Nat
  doppler : Option Int
  edge : Bool
deriving DecidableEq, Repr

def searchFound (q : SearchSet) (cells : List (List Nat)) : Found :=
  let n := 2 ^ q.log2n
  let at' := fun (m b : Nat) => (cells.getD m []).getD (b % n) 0
  let total := (cells.map fun r => r.foldl (· + ·) 0).foldl (· + ·) 0
  let count := n * (2 * q.side + 1)
  let (p, m, b) := largestCell (fun _ => true) cells
  let far := fun (x : Nat) => let d := (x + n - b) % n; 2 < d && d + 2 < n
  let (p2, _, _) := largestCell far cells
  let edge := m = 0 || m = 2 * q.side
  let code := (parabola (at' m (b + n - 1)) p (at' m (b + 1))).map fun o =>
    let pos := ((Frac.ofInt b).add o).mul (Frac.make (-(256 * (q.chips : Int))) n)
    let all : Nat := 256 * max 1 q.chips
    ((Frac.make (pos.num % (all * pos.den : Nat)) pos.den).round % (all : Int)).toNat
  let dopp :=
    if edge then some (q.doppler m)
    else (parabola (at' (m - 1) b) p (at' (m + 1) b)).map fun o =>
      ((Frac.ofInt (q.doppler m)).add (o.mul (Frac.ofInt (16 * q.step : Nat)))).round
  ⟨overFloor p total count, overFloor p2 total count, code, dopp, edge⟩

end Sys2Proof.Machine
end

