-- ==== Sys2Proof/Machine/Acquire.lean ====
section
/-! DEFINITION. The acquisition engine: posting, taking, finishing and retiring jobs (spec/07_acquisition.md, R165 to
R182).
Readings: log entries 35, 74 (DEDUCED). -/

namespace Sys2Proof.Machine

/-- Field of a job descriptor (Table 7-1): `n` bytes at offset `o`. -/
def descField (d : List Word) (o n : Nat) : Nat := leValue (((d.flatMap fun w => leBytes 4 w.toNat).drop o).take n)

namespace AcqJob

def ctrl (j : AcqJob) : Word := j.desc.getD 0 0
def type (j : AcqJob) : Nat := getBits j.ctrl 0 4
def snapAddr (j : AcqJob) : Nat := descField j.desc 0x04 4
def start (j : AcqJob) : Nat := descField j.desc 0x08 4
def prnset (j : AcqJob) : Nat := descField j.desc 0x10 8
def vcbase (j : AcqJob) : Nat := descField j.desc 0x18 2 % 4096
def prnbase (j : AcqJob) : Nat := descField j.desc 0x1A 1
def log2n (j : AcqJob) : Nat := descField j.desc 0x1B 1
def foldMs (j : AcqJob) : Nat := descField j.desc 0x1C 2 % 32
def tcoh (j : AcqJob) : Nat := descField j.desc 0x1C 2 / 256 % 32
def nc (j : AcqJob) : Nat := descField j.desc 0x1E 1
def fOff (j : AcqJob) : Int := signed 32 (descField j.desc 0x0C 4)
def centre (j : AcqJob) : Int := signed 32 (descField j.desc 0x20 4)
/-- The inversion pattern of the folds: SECWORD with SEC = 1. -/
def secWord (j : AcqJob) : Nat := if getBits j.ctrl 11 1 = 1 then descField j.desc 0x34 4 else 0
def ratio (j : AcqJob) : Nat := descField j.desc 0x38 4
def detTh (j : AcqJob) : Nat := descField j.desc 0x1F 1
def span (j : AcqJob) : Nat := descField j.desc 0x24 2
def step (j : AcqJob) : Nat := descField j.desc 0x26 2
def specBase (j : AcqJob) : Nat := descField j.desc 0x28 4
def result (j : AcqJob) : Nat := descField j.desc 0x2C 4
def chips (j : AcqJob) : Nat := descField j.desc 0x30 2
def sub (j : AcqJob) : Nat := descField j.desc 0x32 2 % 4
def glo (j : AcqJob) : Bool := getBits j.ctrl 12 1 = 1

/-- PRN indices searched or built, ascending. -/
def prns (j : AcqJob) : List Nat := (List.range 64).filter (bit j.prnset)

/-- Number of Doppler hypotheses (R175). -/
def hypotheses (j : AcqJob) : Nat := 2 * (j.span / j.step) + 1

/-- R177: the parameters are refused. -/
def badParam (j : AcqJob) : Bool :=
  1 < j.type || j.log2n < 10 || 14 < j.log2n || j.foldMs = 0 || 20 < j.foldMs
    || j.tcoh % j.foldMs ≠ 0 || 20 < j.tcoh || j.nc = 0 || 64 < j.nc
    || j.step = 0 || 1025 < j.hypotheses || j.prnset = 0 || (j.glo && 2 ^ 14 ≤ j.prnset)
    || j.chips = 0 || j.result % 32 ≠ 0 || (j.type = 1 && 2 ≤ j.sub)

/-- Bytes of the result area: header and entries of a search. -/
def resultLen (j : AcqJob) : Nat := if j.type = 1 then 0 else 32 + 16 * j.prns.length

/-- Bytes of one spectrum. -/
def points (j : AcqJob) : Nat := 2 ^ j.log2n

/-- The spectra of the indices that the job uses, and their lengths. -/
def specRanges (j : AcqJob) : List (Nat × Nat) := j.prns.map fun i => (j.specBase + i * j.points, j.points)

/-- The chip sequences that a spectrum job uses. -/
def chipRanges (j : AcqJob) : List (Nat × Nat) :=
  let n := 4 * ((j.chips + 31) / 32)
  j.prns.map fun i => (j.snapAddr + i * n, n)

/-! The snapshot's header (Table 5-3). -/

def head (j : AcqJob) (o n : Nat) : Nat := leValue ((j.header.drop o).take n)
def four (j : AcqJob) : Bool := j.head 0x07 1 % 2 = 1
def flags (j : AcqJob) : Bool := bit (j.head 0x07 1) 2
/-- Bytes of a group of 32 samples. -/
def group (j : AcqJob) : Nat := (if j.four then 32 else 16) + (if j.flags then 4 else 0)
def decim (j : AcqJob) : Nat := j.head 0x07 1 / 8 % 4
def held (j : AcqJob) : Nat := j.head 0x18 8
/-- Samples per millisecond. -/
def perMs (j : AcqJob) : Nat := 250000 / 2 ^ j.decim
/-- Groups of the data area. -/
def groups (j : AcqJob) : Nat := (j.held + 31) / 32
/-- The band of the snapshot's source. -/
def band (j : AcqJob) : Nat :=
  let src := j.head 0x06 1
  if src % 4 = 0 then src / 4 % 16 % 2 else src / 64 % 2

/-- Samples searched. -/
def span' (j : AcqJob) : Nat := j.nc * j.tcoh * j.perMs

/-- MAGIC, VERSION and CRC of the header are right. -/
def headOk (j : AcqJob) : Bool :=
  j.head 0 4 = 0x43505431 && j.head 4 2 = 1 && crc32 (j.header.take 0x3C ++ leBytes 4 0) = j.head 0x3C 4

/-- The acceptance of R170. -/
def snapOk (j : AcqJob) : Bool :=
  j.headOk && bit (j.head 0x07 1) 1 && j.head 0x06 1 % 4 ≠ 3 && j.start + j.span' ≤ j.held

/-- Byte address of the group that holds sample `n` of the snapshot (R170): from the group that holds sample 0, wrapping in a
WRAPPED ring. -/
def groupAddr (j : AcqJob) (n : Nat) : Nat :=
  let first := (j.head 0x28 4 - 64) / max 1 j.group
  let g := if bit (j.head 0x17 1) 0 then (first + n / 32) % max 1 j.groups else first + n / 32
  j.snapAddr + 64 + g * j.group

/-- Sample `n` of a group of bit planes (R129, Table 5-2); a flagged one is zero (R171). -/
def planeSample (j : AcqJob) (g : List Byte) (n : Nat) : Iq :=
  let w := fun (k : Nat) => b2n ((leValue ((g.drop (4 * k)).take 4)).testBit n)
  let val := fun (sg mag : Nat) => (1 - 2 * (sg : Int)) * (2 * (mag : Int) + 1)
  if j.flags && w (if j.four then 8 else 4) = 1 then Iq.zero
  else if j.four then ⟨val (w 0) (w 1 + 2 * w 2 + 4 * w 3), val (w 4) (w 5 + 2 * w 6 + 4 * w 7)⟩
  else ⟨val (w 0) (w 1), val (w 2) (w 3)⟩

/-- The settings of a search. -/
def searchSet (j : AcqJob) : SearchSet :=
  ⟨j.log2n, j.perMs, j.foldMs, j.tcoh, j.nc, j.secWord, j.fOff * (2 ^ j.decim : Nat), j.chips, j.ratio, j.centre, j.step,
   j.span / max 1 j.step⟩

/-- The GLONASS offset of index i in 1/16 Hz (R176). -/
def glonass (j : AcqJob) (i : Nat) : Int :=
  if j.glo then ((i : Int) - 7) * (if j.band = 0 then 9000000 else 7000000) else 0

/-- The byte range of a spectrum job's chips. -/
def chipSpan (j : AcqJob) : Nat × Nat :=
  let last := j.chipRanges.getLast?.getD (j.snapAddr, 4)
  (j.snapAddr, last.1 + last.2 - j.snapAddr)

end AcqJob

namespace State

def acqPut (s : State) (a : Acq) : State := { s with acq := a }

/-- DETAIL of an ACQ error: the low byte of RETIRED (R182). -/
def acqDetail (s : State) : Nat := s.fld F.ACQ_COUNT_RETIRED % 256

/-- Every byte of a range lies in a bank that ACQ owns. -/
def acqOwns (s : State) (a len : Nat) : Bool :=
  len = 0 || ((bankOf a).isSome && (bankOf (a + len - 1)).isSome && (banksOf a len).all fun b =>
    s.bankOwner b = Init.ACQ && !(s.bankPending b))

/-- A write to ACQ_JOBPUSH (R165). A misaligned push sets JOB_PARAM alone, whether or not the queue is full (DEDUCED, log entry
35). -/
def acqPush (s : State) (init a : Nat) : State :=
  if init ≠ Init.MC ∧ init ≠ Init.NYM then s.stickyAt P.ACQ 3 0x044 true init s.acqDetail
  else if a % 64 ≠ 0 then s.stickyAt P.ACQ 10 0x044 true init s.acqDetail
  else if 32 ≤ s.acq.queue.length then s.stickyAt P.ACQ 8 0x044 true init s.acqDetail
  else s.acqPut { s.acq with queue := s.acq.queue ++ [a] }

/-- Pipes that PIPE_EN allows and no job in flight uses. -/
def acqFree (s : State) : List Nat :=
  (List.range 8).filter fun n => bit (s.fld F.ACQ_CFG_PIPE_EN) n && !(s.acq.jobs.any fun j => j.pipes.contains n)

def acqEnabledPipes (s : State) : Nat := popCount 8 (s.fld F.ACQ_CFG_PIPE_EN)

/-- ACQ_QSTAT as it reads. -/
def acqQstatWord (s : State) : Word :=
  let busy := (List.range 8).foldl (fun a n => a + b2n (s.acq.jobs.any fun j => j.pipes.contains n) * 2 ^ n) 0
  BitVec.ofNat 32 (s.acq.queue.length + s.acq.jobs.length * 2 ^ 8 + busy * 2 ^ 16)

/-- A block's read for a job: the bytes, or the status that the job ends with (R166, R178). -/
def acqRead (s : State) (a n : Nat) : State × Except Nat (List Byte) :=
  match s.portRead Init.ACQ a n with
  | (s1, some b) => (s1, .ok b)
  | (s1, none) => (s1, .error (if s.acqOwns a n then 4 else 1))

/-- Every range lies in banks that ACQ owns. -/
def acqOwnsAll (s : State) (l : List (Nat × Nat)) : Bool := l.all fun r => s.acqOwns r.1 r.2

/-- The checks of a search job's snapshot at the take (R166, R170, R171). -/
def acqSnapshot (s : State) (j : AcqJob) : State × AcqJob :=
  match s.acqRead j.snapAddr 64 with
  | (s1, .error st) => (s1, { j with status := st, snap := (j.snapAddr, 64) })
  | (s1, .ok h) =>
    let j1 := { j with header := h }
    let len := 64 + j1.groups * j1.group
    let j2 := { j1 with
      snap := (j.snapAddr, if j1.headOk then len else 64), qual := j1.head 0x16 1, phase := j1.head 0x26 1
      t0 := (j1.head 0x08 8 * 1000000000 + j1.head 0x10 4) * 65536 + j1.head 0x14 2 + j.start * 2 ^ j1.decim * 4 * 65536 }
    if j1.headOk && !(s1.acqOwns j.snapAddr len) then (s1, { j2 with status := 1 })
    else if !j1.snapOk then (s1, { j2 with status := 3 })
    else (s1, j2)

/-- A job that fails before its snapshot is looked at, with the range that HAND_SNAP hands over (R178): the chips of a spectrum job;
of a search job what the capture's header gives, where ACQ owns the header. -/
def acqFails (s : State) (j : AcqJob) (status : Nat) : State × AcqJob :=
  if j.type = 1 then (s, { j with status := status, snap := j.chipSpan })
  else if getBits j.ctrl 9 1 = 1 ∧ s.acqOwns j.snapAddr 64 then
    let (s1, j1) := s.acqSnapshot j
    (s1, { j1 with status := status })
  else (s, { j with status := status, snap := (j.snapAddr, 64) })

/-- The checks at the take: parameters (R177), then the banks that they name (R166), then the snapshot (R170). -/
def acqCheck (s : State) (j : AcqJob) : State × AcqJob :=
  if j.badParam then s.acqFails j 2
  else if !(s.acqOwns j.result j.resultLen) ∨ !(s.acqOwnsAll j.specRanges) then s.acqFails j 1
  else if j.type = 1 then
    if s.acqOwnsAll j.chipRanges then (s, { j with snap := j.chipSpan }) else s.acqFails j 1
  else s.acqSnapshot j

/-- The ACQ clock runs; while it is gated the jobs pause (R169). -/
def acqClock (s : State) : Bool := s.domRuns 4 && !(s.gated P.ACQ)

/-- ACQ_JOB_TAKE: the next job in posting order, when enough pipes are free (R167). A descriptor that cannot be read names no
number of pipes, and its job fails at once. -/
def acqTake (s : State) : State :=
  match s.acq.queue with
  | [] => s
  | a :: rest =>
    if !(s.enabled P.ACQ) ∨ !(s.running P.ACQ) ∨ !s.acqClock then s
    else
      let owned := s.acqOwns a 64
      let (s1, bytes) := s.portRead Init.ACQ a 64
      let desc := (List.range 16).map fun k =>
        BitVec.ofNat 32 (leValue (((bytes.getD []).drop (4 * k)).take 4))
      let ask := let n := getBits (desc.getD 0 0) 4 4; if n = 0 then 8 else n
      let want := min ask s.acqEnabledPipes
      let j0 : AcqJob := ⟨a, desc, [], s.flag F.ACQ_CFG_SEED_EN, 0, false, (0, 0), [], 0, 0, 0, [], 0⟩
      let add := fun (t : State) (j : AcqJob) => t.acqPut { t.acq with queue := rest, jobs := t.acq.jobs ++ [j] }
      if !owned then add s1 { j0 with status := 1, done := true }
      else if bytes = none then add s1 { j0 with status := 4, done := true }
      else if want = 0 ∨ s.acqFree.length < want then s
      else
        let (s2, j1) := s1.acqCheck j0
        if j1.status ≠ 0 then add s2 { j1 with done := true } else add s2 { j1 with pipes := s2.acqFree.take want }

/-- DETECT (R180). -/
def acqDetect (j : AcqJob) (p : AcqPeak) : Bool := j.detTh * 25 ≤ p.ratioPk && p.ratio2nd + 200 ≤ p.ratioPk

/-- One 16-byte entry of Table 7-2. -/
def acqEntry (j : AcqJob) (seeded : Bool) (i : Nat) (p : AcqPeak) : List Byte :=
  let det := acqDetect j p
  leBytes 1 (if j.glo then unsigned 8 ((i : Int) - 7) else j.prnbase + i)
    ++ leBytes 1 (b2n det + b2n (det && seeded) * 2 + b2n p.edge * 4)
    ++ leBytes 2 p.ratioPk ++ leBytes 4 p.code ++ leBytes 4 (unsigned 32 p.doppler) ++ leBytes 2 p.ratio2nd
    ++ leBytes 2 ((j.vcbase + i) % 4096)

/-- Seeding events are issued for the job's detections (R167 step 4). -/
def acqSeeds (j : AcqJob) : Bool := getBits j.ctrl 8 1 = 1 && j.seedEn

/-- A value that the search's formulas do not give is a free value (DESIGN CHOICE, log entry 3). -/
def orFresh (s : State) (w : Nat) (x : Option Nat) : State × Nat :=
  match x with
  | some v => (s, v)
  | none => let (v, s1) := s.fresh; (s1, v.toNat % 2 ^ w)

/-- The entry of one index from what its search found. -/
def acqPeakOf (s : State) (j : AcqJob) (f : Found) : State × AcqPeak :=
  let (s1, pk) := s.orFresh 16 f.pk
  let (s2, sn) := s1.orFresh 16 f.second
  let (s3, code) := s2.orFresh 32 f.code
  let (s4, dop) := s3.orFresh 32 (f.doppler.map (unsigned 32))
  (s4, ⟨pk, sn, code % (256 * max 1 j.chips), signed 32 dop, f.edge⟩)

/-- Read a list of ranges for a job. -/
def acqReadAll : List (Nat × Nat) → State → State × Except Nat (List (List Byte))
  | [], s => (s, .ok [])
  | r :: rs, s =>
    match s.acqRead r.1 r.2 with
    | (s1, .error e) => (s1, .error e)
    | (s1, .ok b) =>
      match acqReadAll rs s1 with
      | (s2, .error e) => (s2, .error e)
      | (s2, .ok l) => (s2, .ok (b :: l))

/-- Write a list of byte strings for a job; `false` when a bank answers with an error. -/
def acqWriteAll (s : State) (l : List (Nat × List Byte)) : State × Bool :=
  l.foldl (fun (a : State × Bool) e => if a.2 then a.1.portWrite Init.ACQ e.1 e.2 else a) (s, true)

/-- The work of a search job (R172, R174 to R176, R180): entries written, peaks, or the status met. -/
def acqSearch (s : State) (j : AcqJob) : State × Except Nat (List AcqPeak) :=
  let first := j.start / 32
  let last := (j.start + j.span' + 31) / 32
  match acqReadAll ((List.range (last - first)).map fun g => (j.groupAddr (32 * (first + g)), j.group)) s with
  | (s1, .error e) => (s1, .error e)
  | (s1, .ok gs) =>
    match acqReadAll j.specRanges s1 with
    | (s2, .error e) => (s2, .error e)
    | (s2, .ok specs) =>
      let xs := ((gs.flatMap fun g => (List.range 32).map (j.planeSample g)).drop (j.start % 32)).take j.span'
      let q := j.searchSet
      let (s3, ps) := (List.zip j.prns specs).foldl (fun (a : State × List AcqPeak) e =>
        let (t, p) := a.1.acqPeakOf j (searchFound q (searchCells q (e.2.map spectrumPoint) xs (j.glonass e.1)))
        (t, a.2 ++ [p])) (s2, [])
      let (s4, ok) := s3.acqWriteAll ((List.zip j.prns ps).zipIdx.map fun e =>
        (j.result + 32 + 16 * e.2, acqEntry j (acqSeeds j) e.1.1 e.1.2))
      if ok then (s4, .ok ps) else (s4, .error 1)

/-- The work of a spectrum job (R173). -/
def acqBuild (s : State) (j : AcqJob) : State × Except Nat (List AcqPeak) :=
  match acqReadAll j.chipRanges s with
  | (s1, .error e) => (s1, .error e)
  | (s1, .ok cs) =>
    let (s2, ok) := s1.acqWriteAll (List.zip (j.specRanges.map (·.1)) (cs.map fun c =>
      codeSpectrum (fun n => ((c.getD (n / 8) 0).toNat).testBit (n % 8)) j.chips j.log2n j.sub))
    if ok then (s2, .ok []) else (s2, .error 1)

/-- ACQ_JOB_FINISH: the job in place `k` of those in flight, the oldest first, ends its work: it has searched or built, or met
an error response. Its pipes are free (R167, R181). -/
def acqFinish (s : State) (k : Nat) : State :=
  match s.acq.jobs[k]? with
  | none => s
  | some j =>
    if j.done ∨ !s.acqClock then s
    else
      let (s1, r) := if j.type = 1 then s.acqBuild j else s.acqSearch j
      let j1 := match r with
        | .error e => { j with done := true, pipes := [], status := e }
        | .ok ps => { j with
            done := true, pipes := [], peaks := ps
            cells := if j.type = 0 then j.prns.length * j.hypotheses * j.points * j.nc else 0 }
      s1.acqPut { s1.acq with jobs := s1.acq.jobs.set k j1, cells := (s1.acq.cells + j1.cells) % 2 ^ 64 }

/-- Detections of a job. -/
def acqDetections (j : AcqJob) : List (Nat × AcqPeak) :=
  if j.status = 0 then (List.zip j.prns j.peaks).filter fun e => acqDetect j e.2 else []

/-- The result header of Table 7-2. -/
def acqHeader (j : AcqJob) : List Byte :=
  let ns := j.t0 / 65536
  leBytes 4 0x41435131 ++ leBytes 1 (if j.status = 0 then j.peaks.length else 0) ++ leBytes 1 j.status
    ++ leBytes 1 (acqDetections j).length ++ leBytes 1 j.qual
    ++ leBytes 8 (ns / 1000000000 % 2 ^ 48) ++ leBytes 4 (ns % 1000000000) ++ leBytes 2 (j.t0 % 65536)
    ++ leBytes 1 j.phase ++ leBytes 1 0 ++ leBytes 4 (min (2 ^ 32 - 1) j.cells) ++ leBytes 4 j.addr

/-- Sticky bit of a failing status (R182). -/
def acqErrBit (status : Nat) : Nat := match status with | 1 => 9 | 2 => 10 | 3 => 11 | _ => 12

/-- Hand banks over that ACQ still owns. -/
def acqHand (s : State) (banks : List Nat) (owner : Nat) : State :=
  banks.foldl (fun (t : State) b =>
    if t.bankOwner b = Init.ACQ then (t.hwHandover Init.ACQ b owner).handComplete b else t) s

/-- The header write of a retiring job (R167 step 2, R168): a job that is done and meets an error response there ends with
status 1. A spectrum job has no header. -/
def acqWriteHeader (s : State) (j : AcqJob) : State × AcqJob :=
  if j.type = 1 then (s, j)
  else if j.status = 0 then
    match s.portWrite Init.ACQ j.result (acqHeader j) with
    | (s1, true) => (s1, j)
    | (s1, false) => (s1, { j with status := 1 })
  else if s.acqOwns j.result 32 then ((s.portWrite Init.ACQ j.result (acqHeader j)).1, j)
  else (s, j)

/-- The STATUS write of a retiring job: as the header write, a job that is done and meets an error response ends with status 1 (R166),
and a failed job writes only where it still owns the bank (R168). -/
def acqWriteStatus (s : State) (j : AcqJob) : State × AcqJob :=
  let w := leBytes 4 (j.status + (acqDetections j).length * 256)
  if j.status = 0 then
    match s.portWrite Init.ACQ (j.addr + 0x3C) w with
    | (s1, true) => (s1, j)
    | (s1, false) => (s1, { j with status := 1 })
  else if s.acqOwns j.addr 64 then ((s.portWrite Init.ACQ (j.addr + 0x3C) w).1, j)
  else (s, j)

/-- The handovers of a retiring job (R167 step 3): a bank named by both goes to DESC_TO. -/
def acqHandovers (s : State) (j : AcqJob) : State :=
  let desc := getBits j.ctrl 10 1 = 1
  let descBanks := banksOf j.addr 64 ++ (if j.resultLen = 0 then [] else banksOf j.result j.resultLen)
  let snapBanks := (banksOf j.snap.1 j.snap.2).filter fun b => !(desc && descBanks.contains b)
  let s1 := if desc then s.acqHand descBanks (getBits j.ctrl 21 5) else s
  if getBits j.ctrl 9 1 = 1 then s1.acqHand snapBanks (getBits j.ctrl 16 5) else s1

/-- ACQ_JOB_RETIRE: the oldest job in flight, once its work is done (R167, R168). -/
def acqRetire (s : State) : State :=
  match s.acq.jobs with
  | [] => s
  | j0 :: rest =>
    if !j0.done ∨ !s.acqClock then s
    else
      let (s1, j1) := s.acqWriteHeader j0
      let (s2, j) := s1.acqWriteStatus j1
      let det := acqDetections j
      let s4 := s2.acqHandovers j
      let seeds : List Seed := if acqSeeds j then
          det.map fun e => ⟨(j.vcbase + e.1) % 4096, e.2.code, e.2.doppler, e.2.ratioPk, j.t0⟩
        else []
      let s5 := s4.acqPut { s4.acq with jobs := rest, seeds := s4.acq.seeds ++ seeds }
      let s6 :=
        if j.status = 0 then (s5.addFld F.ACQ_COUNT_RETIRED 1).irq P.ACQ 0
        else
          ((((((s5.sticky P.ACQ (acqErrBit j.status) s5.acqDetail).setFld F.ACQ_ERRADDR_ADDR j.addr).setFld
            F.ACQ_ERRSTAT_STATUS j.status).addFld F.ACQ_COUNT_RETIRED 1).addFld F.ACQ_COUNT_FAILED 1).irq P.ACQ 1)
      if s6.acq.queue = [] ∧ s6.acq.jobs = [] then s6.irq P.ACQ 2 else s6

/-- The block's own state on a soft reset: every job is abandoned and counted in FAILED (R169). -/
def acqAbandon (s : State) : State :=
  let n := s.acq.queue.length + s.acq.jobs.length
  (s.acqPut Acq.reset).setFld F.ACQ_COUNT_FAILED n

end State

end Sys2Proof.Machine
end

