-- ==== Sys2Proof/Machine/Chain.lean ====
section
/-! DEFINITION. The processing chain of a path from the ADC to the front end's output, one sample at a time (R66, R67, R112 to
R124): correction, notches and their tracking, blanker, monitor tap and statistics.
Readings: log entries 63, 64, 67 (DESIGN CHOICE, DEDUCED). -/

namespace Sys2Proof.Machine

/-- The correction of R115 for `dcI` and `dcQ` in 1/16 LSB and `g` and `p` in 2^-15, rounded and saturated. -/
def correctSample (dcI dcQ g p : Int) (x : Iq) : Iq :=
  let i := 16 * x.i - dcI
  let q := 16 * x.q - dcQ
  (⟨roundDiv i 16, roundDiv ((2 ^ 15 + g) * q + p * i) (2 ^ 19)⟩ : Iq).sat127

/-- One sample through one notch of width code `w` at FREQ `f` (R117): y = x + e^{jw0} (rho y1 - x1), in 2^-24 LSB. -/
def notchStep (w f : Nat) (x : NotchSig) (v : Iq) : NotchSig × Iq :=
  let back := (x.y1.sub (x.y1.div (2 ^ w))).sub x.x1
  let y := v.add ((back.mul (cis f)).div (2 ^ 30))
  let u := v.sub y
  ({ x with x1 := v, y1 := y, u1 := u, removed := x.removed + u.power / 2 ^ 24 }, y)

/-- A path's settings for one sample: the coefficients (none in bypass), and of each active notch its number, width and
frequency. -/
structure ChainSet where
  coefs : Option (Int × Int × Int × Int)
  notch : List (Nat × Nat × Nat)
deriving DecidableEq, Repr

/-- The sample of an ADC code through correction and notches: the notches' states, the correction output and the notch output.
With no notch active the correction output passes unchanged. -/
def chainStep (c : ChainSet) (st : List NotchSig) (x : Sample) : List NotchSig × Iq × Iq :=
  let i := if x.flag then Iq.zero else match c.coefs with
    | none => x.v
    | some (dcI, dcQ, g, p) => correctSample dcI dcQ g p x.v
  if c.notch = [] then (st, i, i)
  else
    let (st1, y) := c.notch.foldl (fun (a : List NotchSig × Iq) k =>
      let (n, y) := notchStep k.2.1 k.2.2 (a.1.getD k.1 NotchSig.zero) a.2
      (a.1.set k.1 n, y)) (st, i.scale (2 ^ 24))
    (st1, i, (y.div (2 ^ 24)).sat127)

/-- A path's statistics with one sample more (R70, R116, R127). -/
def PathStats.count (a : PathStats) (h : Held) (clip : Bool) : PathStats :=
  let a := if clip then { a with clipped := a.clipped + 1 } else a
  let a := if h.blank then { a with blanked := a.blanked + 1 } else a
  if h.flag ∨ h.blank then a
  else
    { a with
      valid := a.valid + 1, sumSq := a.sumSq + h.out.power, sI := a.sI + h.raw.i, sQ := a.sQ + h.raw.q
      sII := a.sII + h.raw.i.natAbs * h.raw.i.natAbs, sQQ := a.sQQ + h.raw.q.natAbs * h.raw.q.natAbs
      sIQ := a.sIQ + h.raw.i * h.raw.q }

/-- The monitor's buffer with one sample more: the blanker output, or with SM_SRC the correction output, where a blanked sample
counts as flagged in the first only (R125). -/
def Monit.push (m : Monit) (src : Bool) (h : Held) : Monit :=
  let out := h.flag || (!src && h.blank)
  { m with
    buf := (if out then Iq.zero else if src then h.corr else h.out) :: m.buf
    flagged := m.flagged + b2n out, blanked := m.blanked + b2n h.blank, valid := m.valid + b2n (!out) }

namespace State

/-- The coefficients in force for a sample that leaves the front end 15 samples from now (R115, R116): those of the next
covariance block once the sample belongs to it. -/
def chainCoefs (s : State) (p : Nat) : Option (Int × Int × Int × Int) :=
  match s.corrMode p with
  | 0 => none
  | 1 => some (s.fldI (F.DFE_DC_DC_I p), s.fldI (F.DFE_DC_DC_Q p), s.fldI (F.DFE_IQ_G p), s.fldI (F.DFE_IQ_P p))
  | _ =>
    let d := s.dfeGet p
    let e := if 65536 ≤ s.tbu.samp % 65536 + 15 then d.estNext else d.est
    some (coefShown 2048 e.dcI, coefShown 2048 e.dcQ, coefShown 32768 e.g, coefShown 32768 e.p)

/-- The active notches of page l with their widths and frequencies. -/
def chainNotches (s : State) (l : Nat) : List (Nat × Nat × Nat) :=
  ((List.range 8).filter (s.notchActive l)).map fun k => (k, s.notchWidth l k, (s.notchGet l k).freq)

def chainSet (s : State) (p : Nat) : ChainSet := ⟨s.chainCoefs p, s.chainNotches (s.notchLeader p)⟩

/-- Tracking of notch k of page p (R118) on a sample that leaves the blanker valid (R113): the notch moves by the error times
2^-(MU + 8), and holds at the edge of its span. `took` holds of each notch what it took away of the sample and of the one before. -/
def notchTrack (p : Nat) (took : List (Iq × Iq)) (s : State) (k : Nat) : State :=
  let m := s.notchMode p k
  if s.notchActive p k ∧ (m = 2 ∨ m = 3) then
    let n := s.notchGet p k
    let x := (s.pathSig p).notch.getD k NotchSig.zero
    let (u, v) := took.getD k (Iq.zero, Iq.zero)
    let acc := x.sub + Config.notchError n.freq u.i u.q v.i v.q * 2 ^ (24 - s.fld (F.DFE_NCFG_MU p k))
    let base := signed 32 n.base
    let span : Int := max 1 (s.fld (F.DFE_NCFG_SPAN p k)) * 2 ^ 20
    let f := clampInt (base - span) (base + span) (signed 32 n.freq + acc / 2 ^ 32)
    (s.notchSigSet p k { x with sub := acc % 2 ^ 32 }).notchSet p k { n with freq := unsigned 32 f }
  else s

/-- A sample reaches a path's correction stage: correction, notches, and a place in the blanker. `c` holds the settings that
all paths of the band take in the same cycle. A stopped path flags what it holds and what enters (R113). -/
def chainIn (x : Sample) (c : ChainSet) (s : State) (p : Nat) : State :=
  let g := s.pathSig p
  if s.live (P.DFE p) then
    let (st, i, y) := chainStep c g.notch x
    let took := List.zipWith (fun (a b : NotchSig) => (a.u1, b.u1)) st g.notch
    s.pathSigSet p { g with notch := st, line := ⟨x.v, i, y, x.flag, false, took⟩ :: g.line }
  else
    s.pathSigSet p { g with
      line := ⟨x.v, Iq.zero, Iq.zero, true, false, []⟩ :: g.line.map (fun h => { h with flag := true, blank := false }), hold := 0 }

/-- MODE of the blanker as it acts: 3 acts as 2. -/
def blankMode (s : State) (p : Nat) : Nat := min 2 (s.fld (F.DFE_BLK_MODE p))

/-- The sample that has just entered a path's blanker is at or above its threshold (R122). Before the first complete covariance
block there is no RMS and so no relative threshold. -/
def blankTrigger (s : State) (p : Nat) : Bool :=
  match (s.pathSig p).line with
  | [] => false
  | h :: _ =>
    let a := h.out.i.natAbs + h.out.q.natAbs
    let th := max 1 (s.fld (F.DFE_BLK_TH p))
    match s.blankMode p with
    | 0 => false
    | 1 => th ≤ a
    | _ => (s.pathGet p).rmsV && th * s.fld (F.RFE_AGCSTAT_RMS p) ≤ 8 * a

/-- The paths whose triggers blank path p: the linked paths of its band, or itself (R123). -/
def blankGroup (s : State) (p : Nat) : List Nat :=
  if s.flag (F.DFE_CTL_BLINK p) then
    ((List.range 8).map fun e => 2 * e + p % 2).filter fun q => s.flag (F.DFE_CTL_BLINK q)
  else [p]

/-- The window that path q's detector opens now: samples before the newest one and whether the newest itself is inside. -/
def blankWindow (s : State) (q : Nat) : Nat × Bool :=
  if s.blankTrigger q then (s.fld (F.DFE_BLK_PRE q), true) else (0, decide (0 < (s.pathSig q).hold))

/-- Mark the samples of a path's blanker that the windows of its group reach. -/
def blankMark (s : State) (w : List (Nat × Bool)) (p : Nat) : State :=
  let g := s.pathSig p
  let l := (s.blankGroup p).map fun q => w.getD q (0, false)
  let pre := (l.map (·.1)).foldl max 0
  let now := l.any (·.2)
  if now then
    s.pathSigSet p { g with line := g.line.mapIdx fun k h => { h with blank := h.blank || k ≤ pre } }
  else s

/-- The count of samples that path q's detector still blanks. -/
def blankHold (s : State) (q : Nat) : State :=
  let g := s.pathSig q
  if s.blankTrigger q then s.pathSigSet q { g with hold := s.fld (F.DFE_BLK_HOLD q) }
  else s.pathSigSet q { g with hold := g.hold - 1 }

/-- The blanker of every path, for the sample that has just entered (R122, R123). -/
def blankAll (s : State) : State :=
  let w := (List.range 16).map s.blankWindow
  let hold := (List.range 16).map fun q => ((s.blankHold q).pathSig q).hold
  (List.range 16).foldl (fun (t : State) p =>
    let u := t.blankMark w p
    u.pathSigSet p { u.pathSig p with hold := hold.getD p 0 }) s

/-- A clipped ADC code (R66). -/
def clipCode (x : Iq) : Bool := x.i = -128 || x.i = 127 || x.q = -128 || x.q = 127

/-- The sample that leaves a path's blanker: monitor tap, statistics, counters, the tracking of the notches, and the front end's
output (R113). A stopped path, and one that has not yet filled its blanker, puts out flagged zeros. -/
def chainOut (s : State) (p : Nat) : State × Sample :=
  let g := s.pathSig p
  match g.line[15]? with
  | none =>
    (s.pathSigSet p { g with mon := g.mon.push false ⟨Iq.zero, Iq.zero, Iq.zero, true, false, []⟩ }, Sample.none)
  | some h =>
    let g1 : PathSig := { g with
      line := g.line.take 15, stats := g.stats.count h (clipCode h.raw), mon := g.mon.push (s.flag (F.DFE_CTL_SM_SRC p)) h }
    let s1 := s.pathSigSet p g1
    let s2 := if h.blank then s1.satFld (F.DFE_BLKCNT_COUNT p) 1 else s1
    if h.flag ∨ h.blank then (s2, Sample.none)
    else (if s2.notchLeader p = p then (List.range 8).foldl (notchTrack p h.took) s2 else s2, ⟨h.out, false⟩)

/-- A conversion of path p (R66, R67): its code, of which a stopped page gives none, flagged under the causes of its cycle; a
clipped code counts in RFE_CLIPCNT. -/
def convert (raw : List Iq) (a : State × List Sample) (p : Nat) : State × List Sample :=
  let x := if a.1.live (P.RFE p) then raw.getD p Iq.zero else Iq.zero
  (if clipCode x then a.1.satFld (F.RFE_CLIPCNT_COUNT p) 1 else a.1, a.2 ++ [⟨x, a.1.pathCause p ≠ 0⟩])

/-- Tracked frequencies as NSTAT shows them. -/
def notchFollow (old s : State) : State :=
  (List.range 2).foldl (fun (t : State) b =>
    if (List.range 8).any (fun e => (old.dfeGet (2 * e + b)).notch != (s.dfeGet (2 * e + b)).notch) then t.notchShow b
    else t) s

/-- One ADC sample of every path enters, and the front end puts out the one that entered 320 samples before (R112): 305 in a
delay, 15 in the blanker (log entry 63). -/
def frontTick (s : State) (raw : List Iq) : State × List Sample :=
  let (s0, now) := (List.range 16).foldl (convert raw) (s, [])
  let queue := now :: s0.sig.adc
  let s1 := { s0 with sig := { s0.sig with adc := queue.take 305 } }
  let sets := (List.range 16).map s1.chainSet
  let s2 := match queue[305]? with
    | none => s1
    | some xs => ((List.range 16).foldl (fun (t : State) p =>
        t.chainIn (xs.getD p Sample.none) (sets.getD p ⟨none, []⟩) p) s1).blankAll
  let (s3, ys) := (List.range 16).foldl (fun (a : State × List Sample) p =>
    let (t, y) := a.1.chainOut p
    (t, a.2 ++ [y])) (s2, [])
  (notchFollow s1 s3, ys)

end State

end Sys2Proof.Machine
end

