-- ==== Sys2Proof/Machine/Jammer.lean ====
section
/-! DEFINITION. The arithmetic of the interference reports (R154 to R156): eigenvalues and eigenvectors of R_avg, the search for a
jammer's direction, the depth of a null.
Readings: log entries 64, 70 (DESIGN CHOICE, DEDUCED). -/

namespace Sys2Proof.Machine

/-! ### Eigenvalues of a Hermitian matrix -/

/-- A square matrix of complex integers by rows. -/
def matAt (m : List (List Iq)) (i j : Nat) : Iq := (m.getD i []).getD j Iq.zero

/-- The columns p and q of a matrix under a plane rotation with cosine `c` and sine `z` (2^-40, with its phase). -/
def rotCols (p q : Nat) (c : Int) (z : Iq) (m : List (List Iq)) : List (List Iq) :=
  m.map fun r =>
    let x := r.getD p Iq.zero
    let y := r.getD q Iq.zero
    (r.set p (((x.scale c).add (y.mul z.conj)).div (2 ^ 40))).set q (((y.scale c).sub (x.mul z)).div (2 ^ 40))

/-- The conjugate transpose. -/
def matAdj (m : List (List Iq)) : List (List Iq) :=
  (List.range m.length).map fun i => m.map fun r => (r.getD i Iq.zero).conj

/-- One Jacobi rotation: the entry (p, q) of the matrix `a.1` becomes zero; `a.2` gathers the eigenvectors as columns. -/
def jacobiRot (a : List (List Iq) × List (List Iq)) (pq : Nat × Nat) : List (List Iq) × List (List Iq) :=
  let (p, q) := pq
  let e := matAt a.1 p q
  let g := sqrtNat 64 e.power
  if g = 0 then a
  else
    let h := cisFine (angleOf ((matAt a.1 p p).i - (matAt a.1 q q).i) (2 * (g : Int)) / 2)
    let z := ((cisFine (angleOf e.i e.q)).scale h.q).div (2 ^ 40)
    (matAdj (rotCols p q h.i z (matAdj (rotCols p q h.i z a.1))), rotCols p q h.i z a.2)

/-- The pairs of a sweep over 8 rows. -/
def jacobiPairs : List (Nat × Nat) :=
  (List.range 8).flatMap fun p => ((List.range 8).filter (p < ·)).map fun q => (p, q)

/-- No entry off the diagonal is left. -/
def matDiagonal (m : List (List Iq)) : Bool :=
  m.zipIdx.all fun r => r.1.zipIdx.all fun x => x.2 = r.2 || x.1 = Iq.zero

/-- At most `n` sweeps, until the matrix is diagonal. -/
def jacobiSweeps : Nat → List (List Iq) × List (List Iq) → List (List Iq) × List (List Iq)
  | 0, a => a
  | n + 1, a => if matDiagonal a.1 then a else jacobiSweeps n (jacobiPairs.foldl jacobiRot a)

/-- Ten sweeps, from the unit matrix as eigenvectors. -/
def jacobi (m : List (List Iq)) : List (List Iq) × List (List Iq) :=
  jacobiSweeps 10
    (m, (List.range m.length).map fun i => (List.range m.length).map fun j => if i = j then ⟨2 ^ 40, 0⟩ else Iq.zero)

/-- Insert an eigenvalue with its vector into a list in descending value. -/
def eigInsert (x : Nat × List Iq) : List (Nat × List Iq) → List (Nat × List Iq)
  | [] => [x]
  | y :: ys => if y.1 < x.1 then x :: y :: ys else y :: eigInsert x ys

/-- Four times the noise floor (the sum of the four smallest eigenvalues), and the eigenvalues with their vectors, the largest
first; values and vectors in 2^-40. -/
def jamEigen (ravg : List (List Cx)) : Nat × List (Nat × List Iq) :=
  let k := Frac.ofInt (2 ^ 40 : Nat)
  let (d, v) := jacobi (ravg.map fun r => r.map fun x => ⟨(x.re.mul k).round, (x.im.mul k).round⟩)
  let l := (List.range d.length).foldl (fun l i => eigInsert ((matAt d i i).i.toNat, v.map fun r => r.getD i Iq.zero) l) []
  (((l.drop 4).map (·.1)).foldl (· + ·) 0, l)

/-! ### Directions -/

/-- The unit vector of an azimuth and an elevation in 0.1 degree (R155): azimuth from +y towards +x, elevation from the x-y
plane; in 2^-30. -/
def unitVec (az : Nat) (el : Int) : List Int :=
  let a := cis (az * 2 ^ 32 / 3600)
  let e := cisInt (el * (2 ^ 32 : Nat) / 3600)
  [e.i * a.q / 2 ^ 30, e.i * a.i / 2 ^ 30, e.q]

def dotInt (a b : List Int) : Int := (List.zipWith (· * ·) a b).foldl (· + ·) 0

/-- Two unit vectors lie more than 5 degrees apart. -/
def farApart (a b : List Int) : Bool := dotInt a b < (cis (2 ^ 32 / 72)).i * 2 ^ 30

/-- The phase centres in 0.1 mm from ARR_POSXYe and ARR_POSZe. -/
def elementPos (pos : List Word) : List (List Int) :=
  (List.range 8).map fun e =>
    let xy := pos.getD e 0
    [signed 16 (getBits xy 0 16), signed 16 (getBits xy 16 16), signed 16 (getBits (pos.getD (8 + e) 0) 0 16)]

/-- a_e(u) = exp(j 2 pi p_e . u / lambda) with lambda = c / f_LO and f_LO = 50 MHz x `lo` / 2^24 (R147); in 2^-30. -/
def arrayResponse (pos : List (List Int)) (lo : Nat) (u : List Int) : List Iq :=
  pos.map fun p => cisInt (roundDiv (dotInt p u * ((lo * 20000 : Nat) : Int)) (2 ^ 24 * 299792458))

/-- |a(u)^H v|^2. -/
def responsePower (pos : List (List Int)) (lo : Nat) (v : List Iq) (d : Nat × Int) : Nat :=
  (sumIq (List.zipWith (fun a x => a.conj.mul x) (arrayResponse pos lo (unitVec d.1 d.2)) v)).power

/-- The first direction of a list with the greatest response. -/
def bestOf (f : Nat × Int → Nat) (l : List (Nat × Int)) : Nat × Int :=
  (l.foldl (fun (a : Nat × (Nat × Int)) d => let x := f d; if a.1 < x then (x, d) else a) (0, l.headD (0, 0))).2

/-- Elements that share one z. -/
def isPlanar (pos : List (List Int)) : Bool := pos.all fun p => p.getD 2 0 = (pos.headD []).getD 2 0

/-- The direction of an eigenvector in 0.1 degree: the grid of 1 degree, then the points of 0.1 degree within a degree of the
grid's best (R155). For a planar array the elevations at or above the plane. -/
def jamDirection (pos : List (List Int)) (lo : Nat) (v : List Iq) : Nat × Int :=
  let low : Int := if isPlanar pos then 0 else -20
  let f := responsePower pos lo v
  let g := bestOf f ((List.range 360).flatMap fun a =>
    ((List.range 111).map fun (e : Nat) => (e : Int) - 20).filterMap fun e => if low ≤ e then some (10 * a, 10 * e) else none)
  bestOf f (g :: (List.range 19).flatMap fun a => (List.range 19).filterMap fun (e : Nat) =>
    let el := g.2 + (e : Int) - 9
    if 10 * low ≤ el ∧ el ≤ 900 then some ((g.1 + 3600 + a - 9) % 3600, el) else none)

/-- A signed Q2.14 pair as a complex integer. -/
def cxWord (w : Word) : Iq := ⟨signed 16 (getBits w 0 16), signed 16 (getBits w 16 16)⟩

/-- The depth of the null in 0.25 dB (R156). The spec gives a depth below 0 or above 63.75 dB no value in the field's 8 bits: the model
clamps it to 0 or 255 (DESIGN CHOICE, log entry 69). -/
def nullDepth (pos : List (List Int)) (lo : Nat) (w : List Iq) (d : Nat × Int) : Nat :=
  let p := (sumIq (List.zipWith Iq.mul w (arrayResponse pos lo (unitVec d.1 d.2)))).power
  if p = 0 then 255 else (clampInt 0 255 (decibel 4 (2 ^ 88) p)).toNat

end Sys2Proof.Machine
end

