-- ==== Sys2Proof/Machine/ArrayProc.lean ====
section
/-! DEFINITION. The array processors (Graticule, covariance, B0 solve, jammer reports) and the stream crossbar
(spec/06_array_processor.md, R141 to R164), and the covariance block boundary that AGC, estimator and array share
(R142).
Readings: log entry 34 (DEDUCED). -/

namespace Sys2Proof.Machine

/-- Signed Q2.14 number. -/
def q214 (v : Nat) : Frac := Frac.make (signed 16 v) 16384

/-- A complex word: real part in the low half, imaginary part in the high half, Q2.14. -/
def cxOfWord (w : Word) : Cx := ⟨q214 (getBits w 0 16), q214 (getBits w 16 16)⟩

/-- The Q2.14 field of a fraction: rounded to nearest, ties away from zero, saturated (DESIGN CHOICE, log entry 69). -/
def toQ214 (x : Frac) : Nat := unsigned 16 (clampInt (-32768) 32767 (x.mul (Frac.ofInt 16384)).round)

def wordOfCx (c : Cx) : Word := BitVec.ofNat 32 (toQ214 c.re + toQ214 c.im * 65536)

/-- `2^-n`. -/
def pow2Inv (n : Nat) : Frac := Frac.make 1 (2 ^ n)

def matAdd (a b : List (List Cx)) : List (List Cx) := List.zipWith (List.zipWith Cx.add) a b
def matScale (k : Frac) (a : List (List Cx)) : List (List Cx) := a.map (·.map (Cx.scale k))

/-- Diagonal entries. -/
def matDiag (m : List (List Cx)) : List Cx := (List.range m.length).map fun i => (m.getD i []).getD i Cx.zero

def matTrace (m : List (List Cx)) : Frac := (matDiag m).foldl (fun a x => a.add x.re) Frac.zero

/-- `m + k I`. -/
def matLoad (k : Frac) (m : List (List Cx)) : List (List Cx) :=
  (List.range m.length).map fun i =>
    let r := m.getD i []
    r.set i ((r.getD i Cx.zero).add ⟨k, Frac.zero⟩)

/-- `n` free values in a row (DESIGN CHOICE, log entry 3). -/
def State.freshList (s : State) : Nat → State × List (BitVec 64)
  | 0 => (s, [])
  | n + 1 => let (v, s1) := s.fresh; let (s2, l) := freshList s1 n; (s2, v :: l)

namespace State

def arrGet (s : State) (b : Nat) : Arr := s.arr.getD b Arr.reset

def arrSet (s : State) (b : Nat) (a : Arr) : State := { s with arr := s.arr.set b a }

/-- The signal state of band b. -/
def bandSig (s : State) (b : Nat) : BandSig := s.sig.band.getD b BandSig.reset

def bandSigSet (s : State) (b : Nat) (x : BandSig) : State := { s with sig := { s.sig with band := s.sig.band.set b x } }

/-! ### Covariance and B0 (R149 to R153) -/

/-- R_k scaled to trace 8. A valid block of zero power has no such scaling and the spec states no result: free values
(DESIGN CHOICE, log entry 3). -/
def arrRk (s : State) (cov : List (List Iq)) : State × List (List Cx) :=
  let m := (List.range 8).map fun i => (List.range 8).map fun j =>
    let e := (cov.getD i []).getD j Iq.zero
    Cx.ofInts e.i e.q
  let tr := matTrace m
  if tr.num = 0 then
    let (s1, l) := s.freshList 128
    (s1, (List.range 8).map fun i => (List.range 8).map fun j =>
      let v := fun k => Frac.make (l.getD k 0).toInt (2 ^ 32)
      ⟨v (16 * i + 2 * j), v (16 * i + 2 * j + 1)⟩)
  else (s, matScale ((Frac.ofInt 8).div tr) m)

/-- The B0 mode as it acts: 3 acts as 2. -/
def b0Mode (cfg : Word) : Nat := min 2 (getBits cfg 0 2)

/-- The average after block k (R149). -/
def arrAverage (s : State) (b : Nat) (st : BandSig) : State :=
  let a := s.arrGet b
  if 2 * st.valid < 65536 then s.satFld (F.ARR_BLKCNT_SKIPPED b) 1
  else
    let (s1, rk) := s.arrRk st.cov
    let ff := min 4 (s.fld (F.ARR_CTL_FF b))
    let avg :=
      match a.ravg with
      | none => rk
      | some m => matAdd m (matScale (pow2Inv ff) (matAdd rk (matScale (Frac.ofInt (-1)) m)))
    (s1.satFld (F.ARR_BLKCNT_USED b) 1).arrSet b { a with ravg := some avg, fresh := true }

/-- A solve falls due after every UPD-th block from the last solve, or at once when it is forced (R151, R152). It takes
ARR_B0CFG and ARR_B0Ce as they stand before the transfer of the same boundary, and the powers of the update interval that ends
(DESIGN CHOICE, log entry 69). -/
def arrDue (s : State) (b : Nat) : State :=
  let a := s.arrGet b
  let n := a.blocks + 1
  if max 1 (s.fld (F.ARR_CTL_UPD b)) ≤ n ∨ a.forced then
    let cs := (List.range 8).map fun e => s.reg (R.ARR_B0C b e)
    let pos := (List.range 8).map (fun e => s.reg (R.ARR_POSXY b e)) ++ (List.range 8).map fun e => s.reg (R.ARR_POSZ b e)
    let g := s.bandSig b
    let job : SolveJob := ⟨s.reg (R.ARR_B0CFG b), cs, a.ravg, a.fresh, s.reg (R.ARR_CTL b), pos, s.fld (F.SYN_ACT_FREQ b), g.pElem, g.pB0⟩
    (s.arrSet b { a with blocks := 0, forced := false, fresh := a.fresh && b0Mode job.cfg = 2, due := some job }).bandSigSet b
      { g with pElem := 0, pB0 := 0 }
  else s.arrSet b { a with blocks := n }

/-- Beam saturation of a block (R147). -/
def arrSat (s : State) (b : Nat) (sat : List Nat) : State := if sat.any (655 < ·) then s.sticky (P.ARR b) 11 else s

/-- Whether the shadowed registers at a transfer include Graticule fields (R152). -/
def gratShadowed (s : State) (b : Nat) : Bool :=
  (List.range 8).any (fun e => s.shadowMask (R.ARR_GRATGAIN b e) ≠ 0 || s.shadowMask (R.ARR_GRATDLY b e) ≠ 0)
    || s.shadowMask (R.ARR_FREF b) ≠ 0 || getBits (s.shadowMask (R.ARR_CTL b)) 0 1 = 1

/-- The delay stage's range (R144): elements beyond it set GRAT_RANGE. With GRAT_V = 0 no delay is applied (R145). -/
def gratRange (b : Nat) (s : State) (e : Nat) : State :=
  if !(s.flag (F.ARR_WSTAT_GRAT b)) then s else
  let d := signed 32 (s.reg (R.ARR_GRATDLY b e)).toNat - signed 32 (s.reg (R.ARR_GRATDLY b 0)).toNat
  if 256000 < d.natAbs then s.sticky (P.ARR b) 9 e else s

/-- tau_e = DELAY_0 - DELAY_e as the delay stage applies it, in ps (R143 to R145). -/
def gratDelay (s : State) (b e : Nat) : Int :=
  if s.flag (F.ARR_WSTAT_GRAT b) then
    clampInt (-256000) 256000
      (signed 32 (s.reg (R.ARR_GRATDLY b 0)).toNat - signed 32 (s.reg (R.ARR_GRATDLY b e)).toNat)
  else 0

/-- GAIN_e as it is applied: unity while GRAT_V is 0 (R145). -/
def gratGain (s : State) (b e : Nat) : Cx :=
  if s.flag (F.ARR_WSTAT_GRAT b) then cxOfWord (s.reg (R.ARR_GRATGAIN b e)) else Cx.ofInts 1 0

/-- Fields of an array page have come into force; `grat` tells whether Graticule fields were among them (R152). -/
def arrApply (s : State) (b : Nat) (grat : Bool) : State :=
  let s1 := s.setFlag (F.ARR_WSTAT_GRAT b) (s.flag (F.ARR_CTL_GRAT_V b))
  if grat then
    let s2 := s1.arrSet b { s1.arrGet b with ravg := none, forced := true, fresh := false }
    ((List.range 8).foldl (gratRange b) s2).irq (P.ARR b) 2
  else s1

/-- A commit of an array page. -/
def arrCommit (s : State) (b : Nat) : State :=
  let grat := s.gratShadowed b
  (s.transfer fun a => pageOf a = P.ARR b).arrApply b grat

def arrBoundary (s : State) (b : Nat) : State :=
  if s.hold (P.ARR b) ∨ !(s.commitPending (P.ARR b)) then s else s.arrCommit b

/-- One array processor at a covariance block end. The block's sums begin anew. -/
def arrBlockEnd (s : State) (b : Nat) : State :=
  let st := s.bandSig b
  let s0 := s.bandSigSet b { st with valid := 0, cov := [], sat := [0, 0, 0, 0] }
  if s.live (P.ARR b) then (((s0.arrSat b st.sat).arrAverage b st).arrDue b).arrBoundary b else s0

/-- A write of ENABLE = 1: R_avg and the UPD count reset (R152). A reset R_avg holds no block (DESIGN CHOICE, log entry 69). -/
def arrStart (s : State) (b : Nat) : State :=
  s.arrSet b { s.arrGet b with ravg := none, blocks := 0, fresh := false }

/-- ENABLE goes to 0: the weights are kept, so a solve still due, and reports still to come, are dropped (R157). -/
def arrStop (s : State) (b : Nat) : State := s.arrSet b { s.arrGet b with due := none, reportDue := none }

/-- Publish the solved weights: W_e = conj(w_e) (R150). -/
def arrPublish (b : Nat) : State → Nat → List Cx → State
  | s, _, [] => s
  | s, e, w :: ws => arrPublish b (s.setReg (R.ARR_B0W b e) (wordOfCx w.conj)) (e + 1) ws

/-- A failed solve (R151). -/
def arrFail (s : State) (b : Nat) : State := (s.setFld (F.ARR_WSTAT_LAST b) 3).sticky (P.ARR b) 8

/-- The weights of a solve, scaled to unit response to its constraint; none where the system has no usable solution (R150). -/
def solveWeights (job : SolveJob) : Option (List Cx) :=
  let c := if b0Mode job.cfg = 0 then
      (List.range 8).map fun e => if e = getBits job.cfg 2 3 then Cx.ofInts 1 0 else Cx.zero
    else job.c.map cxOfWord
  match linSolve (matLoad (pow2Inv (getBits job.cfg 5 4)) (job.ravg.getD [])) c with
  | none => none
  | some x =>
    let d := cdot c x
    if c.all Cx.isZero ∨ d.re.le (pow2Inv 20) then none else some (x.map (·.mul d.inv))

/-- B0_SOLVE: the solve that is due (R150, R151). -/
def arrSolve (s : State) (b : Nat) : State :=
  let a := s.arrGet b
  match a.due with
  | none => s
  | some job =>
    let s0 := s.arrSet b { a with due := none }
    if b0Mode job.cfg = 2 ∨ !(s.live (P.ARR b)) then s0
    else if !job.fresh then (s0.setFld (F.ARR_WSTAT_LAST b) 2).sticky (P.ARR b) 12
    else
      match solveWeights job with
      | none => s0.arrFail b
      | some w =>
        let s2 := ((arrPublish b s0 0 w).addFld (F.ARR_WSTAT_WEPOCH b) 1).setFld (F.ARR_WSTAT_LAST b) 1
        s2.arrSet b { s2.arrGet b with reportDue := some job }

/-! ### Interference reports (R154 to R156) -/

/-- One jammer entry; an unused entry reads VALID = 0. `dir` is its direction in 0.1 degree with the null depth there, where the
array's geometry is known. -/
def jamShow (b : Nat) (js : List (Nat × Option (Nat × Int × Nat))) (s : State) (k : Nat) : State :=
  let s0 := (s.setReg (R.ARR_JAMA b k) 0).setReg (R.ARR_JAMB b k) 0
  match js[k]? with
  | none => s0
  | some (pwr, dir) =>
    let s1 := (s0.setFlag (F.ARR_JAMA_VALID b k) true).setFld (F.ARR_JAMB_PWR b k) pwr
    match dir with
    | none => s1
    | some (az, el, depth) =>
      (((s1.setFld (F.ARR_JAMA_AZ b k) az).setFldI (F.ARR_JAMA_EL b k) el).setFlag (F.ARR_JAMA_DIR_V b k) true).setFld
        (F.ARR_JAMB_DEPTH b k) depth

/-- The direction that a jammer entry shows. -/
def jamShown (s : State) (b k : Nat) : Option (Nat × Int) :=
  if s.flag (F.ARR_JAMA_DIR_V b k) then some (s.fld (F.ARR_JAMA_AZ b k), s.fldI (F.ARR_JAMA_EL b k)) else none

/-- Entry k's direction has moved by more than 5 degrees from the one it showed at the report before (R154; the comparison is
between entries of one number, DEDUCED, log entry 70). -/
def jamMoved (old s : State) (b : Nat) : Bool :=
  (List.range 4).any fun k =>
    match old.jamShown b k, s.jamShown b k with
    | some (a, e), some (a', e') => farApart (unitVec a e) (unitVec a' e')
    | _, _ => false

/-- ARR_NULL.SUPP of an update interval (R156). A power of 0 leaves the ratio without a stated value: a free value (DESIGN
CHOICE, log entry 3). A ratio that the 8 bits cannot hold is clamped to 0 or 255 (DESIGN CHOICE, log entry 69). -/
def jamSupp (s : State) (b : Nat) (job : SolveJob) : State :=
  if job.pElem = 0 ∨ job.pB0 = 0 then
    let (v, s1) := s.fresh
    s1.setFld (F.ARR_NULL_SUPP b) (v.toNat % 256)
  else s.setFld (F.ARR_NULL_SUPP b) (clampInt 0 255 (decibel 4 job.pElem (8 * job.pB0))).toNat

/-- JAM_REPORT_DONE: the reports of the last solve (R154 to R156), from R_avg, ARR_B0CFG, GEOM_V, the positions and the LO as
they stood at its block end (DEDUCED, log entry 70), and the B0 weights in force. -/
def jamReport (s : State) (b : Nat) : State :=
  let a := s.arrGet b
  match a.reportDue with
  | none => s
  | some job =>
    let pos := elementPos job.pos
    let w := (List.range 8).map fun e => cxWord (s.reg (R.ARR_B0W b e))
    let (floor, eig) := jamEigen (job.ravg.getD [])
    let cand := eig.filter fun v => aboveFloor (4 * v.1) floor (getBits job.cfg 16 8)
    let js := (cand.take 4).map fun v =>
      (levelAbove (4 * v.1) floor,
        if getBits job.ctl 1 1 = 1 then
          let d := jamDirection pos job.lo v.2
          some (d.1, d.2, nullDepth pos job.lo w d)
        else none)
    let n := min 7 cand.length
    let was := s.fld (F.ARR_NULL_NJAM b)
    let s1 := (List.range 4).foldl (jamShow b js) (s.arrSet b { a with reportDue := none })
    let s2 := (((s1.setFld (F.ARR_NULL_NJAM b) n).jamSupp b job)).irq (P.ARR b) 0
    let s3 := if n ≠ was ∨ jamMoved s s2 b then s2.irq (P.ARR b) 1 else s2
    let shallow := (List.range 4).any fun k => s3.flag (F.ARR_JAMA_DIR_V b k) &&
      s3.fld (F.ARR_JAMB_DEPTH b k) < getBits job.cfg 24 8
    if shallow then s3.sticky (P.ARR b) 10 else s3

/-! ### The shared covariance block boundary (COVARIANCE_BLOCK_END) -/

/-- The front end's part: the monitor block that ends with the covariance block (R125), AGC, statistics and estimator of every
path, and notch assignments and releases (R120). -/
def covFront (s : State) : State :=
  let s1 := (List.range 2).foldl bandBlockEnd s.smBlockEnd
  let s2 := ((List.range 16).foldl dfePathEnd s1).notchChanges
  let s3 := (List.range 16).foldl showCoefs s2
  { s3 with sig := { s3.sig with covDue := false, tail := some 72 } }

/-- The array processors' part, with their transfers (R149, R151, R157). -/
def covArray (s : State) : State :=
  let s1 := (List.range 2).foldl arrBlockEnd s
  { s1 with sig := { s1.sig with tail := none } }

/-! ### Crossbar (R160 to R163) -/

/-- A stream's source exists. -/
def xbarSrcOk (s : State) (n : Nat) : Bool :=
  let k := s.fld (F.XBAR_SRC_KIND n)
  let i := s.fld (F.XBAR_SRC_INDEX n)
  k = 0 || (k = 1 && i ≤ 7) || (k = 2 && i ≤ 3)

/-- Enabled streams that name no existing source set SRC_INVALID. -/
def xbarCheckOne (s : State) (n : Nat) : State :=
  if s.flag (F.XBAR_SRC_EN n) ∧ !(s.xbarSrcOk n) then s.sticky P.XBAR 8 n else s

def xbarCheck (s : State) : State := (List.range 64).foldl xbarCheckOne s

/-- A stream delivers samples: enabled, on an enabled page, from a source that exists. -/
def xbarLive (s : State) (n : Nat) : Bool := s.enabled P.XBAR && s.flag (F.XBAR_SRC_EN n) && s.xbarSrcOk n

/-- A transfer of XBAR fields takes effect (R162, R163). -/
def xbarCommit (s : State) : State := ((s.transfer fun a => pageOf a = P.XBAR).xbarCheck).irq P.XBAR 0

/-- The measurement epoch's commit point. -/
def xbarEpoch (s : State) : State :=
  if s.hold P.XBAR ∨ !(s.commitPending P.XBAR) then s else s.xbarCommit

end State

end Sys2Proof.Machine
end

