-- ==== Sys2Proof/Machine/Beam.lean ====
section
/-! DEFINITION. An array processor between samples (R141 to R147, R149): the Graticule correction, the element and beam outputs,
the covariance and power sums; and the streams of the crossbar (R160 to R162).
Readings: log entries 63, 64, 67 (DESIGN CHOICE, DEDUCED). -/

namespace Sys2Proof.Machine

/-- The correction of one element: delay in 1/256 sample, the turn that makes it phase-neutral at FREF (2^-32 turn), gain
(Q2.14). -/
structure Corr where
  delay : Int
  turn : Int
  gain : Iq
deriving DecidableEq, Repr

/-- The corrected sample of element e, 72 samples behind the newest of `hist` (R143, R146), in steps of 1/16 LSB up to 2,047 of them:
the spec gives its 12 bits and not their place (DESIGN CHOICE, log entry 67). A fraction of 0 takes
the sample itself; another fraction takes the 16 samples around it through the fraction's filter. Any flagged one of the 16
flags the result. -/
def correctElement (hist : List (List Sample)) (e : Nat) (c : Corr) : Sample :=
  let frac := (c.delay % 256).toNat
  let at' := fun (k : Nat) => (hist.getD (c.delay / 256 + 65 + k).toNat []).getD e Sample.none
  if (List.range 16).any fun k => (at' k).flag then Sample.none
  else
    let x := if frac = 0 then (at' 7).v.scale (2 ^ 16)
      else sumIq ((List.range 16).map fun k => (at' k).v.scale (Config.delayTap frac k))
    ⟨(((x.mul (cisInt c.turn)).mul c.gain).div (2 ^ 56)).clamp 2047, false⟩

/-- A sample in 1/16 LSB as an 8-bit output: rounded to nearest, ties away from zero, and saturated (R143). -/
def outSample (x : Sample) : Sample := if x.flag then Sample.none else ⟨(x.v.div 16).sat127, false⟩

/-- A beam sample from the corrected elements and Q2.14 weights (R146, R147), and whether it saturated. -/
def beamSample (w : List Iq) (xs : List Sample) : Sample × Bool :=
  if (w.zip xs).any fun e => e.1 != Iq.zero && e.2.flag then (Sample.none, false)
  else
    let y := (sumIq (List.zipWith (fun k x => k.mul x.v) w xs)).div (2 ^ 18)
    (⟨y.sat127, false⟩, y != y.sat127)

/-- A band's sums with one vector of corrected elements more, and its B0 output (R149, R156). -/
def BandSig.count (g : BandSig) (xs : List Sample) (b0 : Sample) : BandSig :=
  if xs.any (·.flag) then g
  else
    let row := fun (x : Sample) => xs.map fun y => x.v.mul y.v.conj
    let cov := xs.map row
    { g with
      valid := g.valid + 1, cov := if g.cov = [] then cov else List.zipWith (List.zipWith Iq.add) g.cov cov
      pElem := g.pElem + (xs.map (·.v.power)).foldl (· + ·) 0, pB0 := g.pB0 + 256 * b0.v.power }

/-- The 4-bit value of a component in 1/16 LSB under a scale (R129). -/
def value4 (x : Int) (qth rms : Nat) : Int := quantValue (x < 0) (quant4 x qth rms)

namespace State

/-- The correction of element e of band b in force (R143 to R145). -/
def gratCorr (s : State) (b e : Nat) : Corr :=
  let tau := s.gratDelay b e
  ⟨roundDiv (8 * tau) 125,
   roundDiv (signed 32 (s.reg (R.ARR_FREF b)).toNat * tau) 4000,
   if s.flag (F.ARR_WSTAT_GRAT b) then cxWord (s.reg (R.ARR_GRATGAIN b e)) else ⟨2 ^ 14, 0⟩⟩

/-- The weights of beam k of band b: B0's as published. -/
def beamWeights (s : State) (b k : Nat) : List Iq :=
  (List.range 8).map fun e => cxWord (s.reg (match k with
    | 0 => R.ARR_B0W b e
    | 1 => R.ARR_B1W b e
    | 2 => R.ARR_B2W b e
    | _ => R.ARR_B3W b e))

/-- One front-end output of each element of band b enters (R141). Eight elements and four beams are formed for the sample 72 before
it, and what was formed 120 samples earlier leaves: 192 SAMP cycles after the front end (log entry 63). A stopped array processor
puts out flagged zeros (R157). -/
def bandTick (s : State) (b : Nat) (xs : List Sample) : State × List Sample :=
  let g := s.bandSig b
  let hist := (xs :: g.hist).take 193
  if s.live (P.ARR b) then
    let el := (List.range 8).map fun e => correctElement hist e (s.gratCorr b e)
    let bm := (List.range 4).map fun k => beamSample (s.beamWeights b k) el
    let sat := (List.range 4).map fun k => g.sat.getD k 0 + b2n ((bm.getD k (Sample.none, false)).2)
    let out := (el.map outSample ++ bm.map (·.1)) :: g.out
    let g1 := ({ g with hist := hist, sat := sat, out := out.take 120 } : BandSig).count el ((bm.getD 0 (Sample.none, false)).1)
    ((s.bandSigSet b g1).satFld (F.ARR_SATCNT_COUNT b) ((bm.filter (·.2)).length), out.getD 120 (List.replicate 12 Sample.none))
  else (s.bandSigSet b { g with hist := hist, out := [] }, List.replicate 12 Sample.none)

/-- The raw paths that leave the array processors: the front-end outputs 192 samples before the newest (R141). -/
def rawOut (s : State) : List Sample :=
  (List.range 16).map fun p => ((s.bandSig (p % 2)).hist.getD 192 []).getD (p / 2) Sample.none

/-- One front-end output of every path enters the array processors; the sixteen raw paths, and the eight elements and four beams
of Band U and then of Band L, leave. -/
def arrayTick (s : State) (xs : List Sample) : State × List Sample :=
  let pick := fun b => (List.range 8).map fun e => xs.getD (2 * e + b) Sample.none
  let (s1, u) := s.bandTick 0 (pick 0)
  let (s2, l) := s1.bandTick 1 (pick 1)
  (s2, s2.rawOut ++ u ++ l)

/-! ### Streams (R160 to R162) -/

/-- The place of a source in the outputs of `arrayTick`, by KIND, INDEX and BAND as CAPSRC and XBAR_SRC spell them. -/
def sourceOf (kind index band : Nat) : Nat :=
  match kind with
  | 0 => index
  | 1 => 16 + 12 * band + index
  | _ => 24 + 12 * band + index

def streamGet (s : State) (n : Nat) : Mixer := s.sig.stream.getD n Mixer.reset

def streamSet (s : State) (n : Nat) (m : Mixer) : State := { s with sig := { s.sig with stream := s.sig.stream.set n m } }

/-- A 4-bit complex sample under a scale; before the first complete rms block, and with an rms of 0, the spec states no value:
free values (DESIGN CHOICE, log entry 3). -/
def value4Of (s : State) (rms : Option Nat) (qth : Nat) (x : Sample) : State × Sample :=
  if x.flag then (s, Sample.none)
  else
    match rms with
    | some (r + 1) => (s, ⟨⟨value4 x.v.i qth (r + 1), value4 x.v.q qth (r + 1)⟩, false⟩)
    | _ =>
      let (v, s1) := s.fresh
      let part := fun (n : Nat) => quantValue (n / 8 % 2 = 1) (n % 8)
      (s1, ⟨⟨part v.toNat, part (v.toNat / 16)⟩, false⟩)

/-- Stream n takes one sample of its source; at its output instants it gives a 4-bit sample. -/
def streamTick (s : State) (n : Nat) (xs : List Sample) : State × Option Sample :=
  let m := s.streamGet n
  let rate := s.fld (F.XBAR_SRC_RATE n)
  let x := if s.xbarLive n then
      xs.getD (sourceOf (s.fld (F.XBAR_SRC_KIND n)) (s.fld (F.XBAR_SRC_INDEX n)) (s.fld (F.XBAR_SRC_BAND n))) Sample.none
    else Sample.none
  let (m1, y) := m.step (s.reg (R.XBAR_OFF n)).toNat rate x
  match y with
  | none => (s.streamSet n m1, none)
  | some y =>
    let (s1, q) := s.value4Of m.rms (max 1 (s.fld (F.XBAR_SRC_QTH n))) y
    let m2 := m1.count1 y
    (s1.streamSet n (if m2.full then m2.close else m2), some q)

/-- New stream settings (R162): the filter of a changed stream spans the change. -/
def streamChange (old : State) (s : State) (n : Nat) : State :=
  if old.reg (R.XBAR_SRC n) = s.reg (R.XBAR_SRC n) ∧ old.reg (R.XBAR_OFF n) = s.reg (R.XBAR_OFF n) then s
  else s.streamSet n { (s.streamGet n).align with spans := filterLen (s.fld (F.XBAR_SRC_RATE n)) - 1 }

/-- The streams after a transfer of XBAR fields. -/
def streamChanges (old s : State) : State := (List.range 64).foldl (streamChange old) s

/-- The eight element streams of band b as the sensing lanes take them (R161): 4-bit under QTH 16 and one scale, the rms of the
eight together over their previous 4,096 samples. They go on while XBAR is stopped: R162 stops the 64 streams (DESIGN CHOICE, log
entry 67). -/
def laneStreams (s : State) (b : Nat) (xs : List Sample) : State × List Sample :=
  let m := s.sig.scale.getD b Mixer.reset
  let el := (List.range 8).map fun e =>
    let x := xs.getD (16 + 12 * b + e) Sample.none
    (⟨x.v.scale 16, x.flag⟩ : Sample)
  let (s1, ys) := el.foldl (fun (a : State × List Sample) x =>
    let (t, y) := a.1.value4Of m.rms 16 x
    (t, a.2 ++ [y])) (s, [])
  let m1 := el.foldl Mixer.count1 m
  let m2 := if 32768 ≤ m1.outs then m1.close else m1
  ({ s1 with sig := { s1.sig with scale := s1.sig.scale.set b m2 } }, ys)

/-- What the fabric receives for one sample: the streams that give one, and the element streams of both bands. -/
structure FabricIn where
  stream : List (Option Sample)
  lane : List (List Sample)
deriving DecidableEq, Repr

/-- One vector of array outputs enters; what left the array processors 64 samples before reaches the fabric (R160). -/
def crossTick (s : State) (xs : List Sample) : State × FabricIn :=
  let line := xs :: s.sig.fab
  let s1 := { s with sig := { s.sig with fab := line.take 64 } }
  let ys := line.getD 64 []
  let (s2, st) := (List.range 64).foldl (fun (a : State × List (Option Sample)) n =>
    let (t, y) := a.1.streamTick n ys
    (t, a.2 ++ [y])) (s1, [])
  let (s3, u) := s2.laneStreams 0 ys
  let (s4, l) := s3.laneStreams 1 ys
  (s4, ⟨st, [u, l]⟩)

end State

end Sys2Proof.Machine
end

