-- ==== Sys2Proof/Machine/Replica.lean ====
section
/-! DEFINITION. Code sources, secondary codes, subcarriers and replicas of the correlator fabric (R192 to R197), and the carrier
wipe-off (R189).
Readings: log entry 71 (DESIGN CHOICE); log entry 79 (PRESUMED). -/

namespace Sys2Proof.Machine

/-! ### Code generators (R192) -/

/-- The XOR of the bits of a 27-bit number. -/
def parity27 (v : Nat) : Nat := ((List.range 27).foldl (fun a k => a + v / 2 ^ k) 0) % 2

/-- A shift register of the KIND 1 generator after `n` chips: bit k is stage k + 1. -/
def lfsrState (taps init : Nat) : Nat → Nat
  | 0 => init
  | n + 1 => let r := lfsrState taps init n; (2 * r + parity27 (r &&& taps)) % 2 ^ 27

/-- Output of a register at chip `n`: its highest tapped stage. A register without taps adds nothing. -/
def lfsrOut (taps init rst n : Nat) : Bool :=
  taps ≠ 0 && (lfsrState taps init (if rst = 0 then n else n % rst)).testBit (Nat.log2 taps)

/-- The Legendre sequence of a prime length: 1 at the squares but 0 (PRESUMED, log entry 79). -/
def legendre (n k : Nat) : Bool := k % n ≠ 0 && powMod n 16 (k % n) ((n - 1) / 2) = 1

/-- W(k) of a Weil sequence. -/
def weil (n w k : Nat) : Bool := legendre n (k % n) ^^ legendre n ((k + w) % n)

/-- Chip `k` of the KIND 2 generator: FORM 0 inserts 0b0110100 after chip p - 1 of W, FORM 1 starts at chip p - 1. -/
def weilChip (w p form k : Nat) : Bool :=
  if form = 1 then weil 10243 w (p + 10242 + k)
  else if k < p then weil 10223 w k
  else if k < p + 7 then [false, true, true, false, true, false, false].getD (k - p) false
  else weil 10223 w (k - 7)

/-! ### Code configurations -/

/-- Code A or B of an image with its secondary code (Table 8-2). -/
structure CodeCfg where
  kind : Nat
  sub : Nat
  subk : Nat
  minus : Bool
  len : Nat
  p : List Word
  slen : Nat
  stored : Bool
  sdat : Nat
  sidx : Nat
deriving DecidableEq, Repr

/-- A phase in 2^-35 chip as chip, fraction (2^-35) and code periods from the present one: a phase outside the present period
lies in the adjacent one (R197). -/
def placeOf (len : Nat) (pos : Int) : Nat × Nat × Int :=
  let l : Nat := max 1 len * 2 ^ 35
  let r := (pos % l).toNat
  (r / 2 ^ 35, r % 2 ^ 35, pos / l)

/-- The secondary index of a code period. -/
def secIndex (c : CodeCfg) (w : Int) : Nat := (((c.sidx : Int) + w) % (max 1 c.slen : Nat)).toNat

/-- The value of a chip bit (R192). -/
def chipOf (b : Bool) : Int := if b then -1 else 1

/-- BOC with `k` half-periods per chip, sine phasing, at a fraction in 2^-35 chip (Table 8-4). -/
def bocSine (k frac : Nat) : Int := if frac * k / 2 ^ 35 % 2 = 0 then 1 else -1

/-- BOC with cosine phasing: sine phasing delayed by half a half-period. -/
def bocCosine (k frac : Nat) : Int := if (2 * ((frac * k : Nat) : Int) - 2 ^ 35) / 2 ^ 36 % 2 = 0 then 1 else -1

/-- The subcarrier of modes 0 to 4 at a chip and fraction (Table 8-4). -/
def subcarrier (c : CodeCfg) (chip frac : Nat) : Int :=
  match c.sub with
  | 1 => bocSine c.subk frac
  | 2 => bocCosine c.subk frac
  | 3 => 3 * bocSine 2 frac + (if c.minus then -1 else 1) * bocSine 12 frac
  | 4 => bocSine (if [0, 4, 6, 29].contains (chip % 33) then 12 else 2) frac
  | _ => 1

/-- q of AltBOC: the signs of cosine and sine of a subcarrier at 1.5 cycles per chip. -/
def altBocQ (chip frac : Nat) : Iq :=
  match 6 * (chip * 2 ^ 35 + frac) / 2 ^ 35 % 4 with
  | 0 => ⟨1, 1⟩
  | 1 => ⟨-1, 1⟩
  | 2 => ⟨-1, -1⟩
  | _ => ⟨1, -1⟩

/-- The wipe-off C - jS at a six-bit carrier phase (R189). -/
def wipeOff (t : Nat) : Iq :=
  let z := cis ((2 * t + 1) * 2 ^ 25)
  ⟨roundDiv (31 * z.i) (2 ^ 30), -roundDiv (31 * z.q) (2 ^ 30)⟩

namespace State

/-- Byte address of a code-store word (R195). -/
def storeAddr (s : State) (off : Nat) : Nat := sramBase + bankSize * s.fld F.COR_CSBASE_BANK + 4 * off

/-- Chip `n` of a sequence in the code store: 0 for a word with an uncorrectable error (R196); a word that the fabric has no
right to read gives no stated value. -/
def storeChip (s : State) (off n : Nat) : Int :=
  let a := s.storeAddr (off + n / 32)
  match bankOf a with
  | none => chipOf (Config.openChip s.tbu.samp a n)
  | some b =>
    if !(s.portRight Init.CHS b false) then chipOf (Config.openChip s.tbu.samp a n)
    else if s.mem.eccUnc.contains a then 0
    else chipOf ((s.sramValue a 4).testBit (n % 32))

/-- Primary chip `n` of a code (Table 8-3). -/
def primaryChip (s : State) (c : CodeCfg) (n : Nat) : Int :=
  let p := fun (k : Nat) => c.p.getD k 0
  match c.kind with
  | 0 => 0
  | 1 =>
    chipOf (lfsrOut (getBits (p 0) 0 27) (getBits (p 1) 0 27) (getBits (p 4) 0 16) n ^^
      lfsrOut (getBits (p 2) 0 27) (getBits (p 3) 0 27) (getBits (p 4) 16 16) n)
  | 2 => chipOf (weilChip (getBits (p 0) 0 14) (getBits (p 1) 0 14) (getBits (p 2) 0 1) n)
  | _ => s.storeChip (getBits (p 0) 0 19) n

/-- The chip of secondary index `k` (R193). An inline code has 32 chips at most; one beyond gives no stated value. -/
def secondaryChip (s : State) (c : CodeCfg) (k : Nat) : Int :=
  if c.slen ≤ 1 then 1
  else if c.stored then s.storeChip c.sdat k
  else if k < 32 then chipOf (c.sdat.testBit k)
  else chipOf (Config.openChip s.tbu.samp c.sdat k)

/-- Primary times secondary chip at a phase. -/
def codeChip (s : State) (c : CodeCfg) (pos : Int) : Int :=
  let (chip, _, w) := placeOf c.len pos
  s.primaryChip c chip * s.secondaryChip c (secIndex c w)

/-- The replica of every tap but DP at a phase in 2^-35 chip (R194): code A with its subcarrier, or the AltBOC composite. -/
def replicaA (s : State) (a b : CodeCfg) (pos : Int) : Iq :=
  let (chip, frac, _) := placeOf a.len pos
  let ca := s.codeChip a pos
  if a.sub = 5 then
    let q := altBocQ chip frac
    (q.conj.scale ca).add (q.scale (s.codeChip b pos))
  else ⟨ca * subcarrier a chip frac, 0⟩

/-- The replica of tap DP: code B with its subcarrier, or in AltBOC mode c_A conj(q) alone. -/
def replicaDP (s : State) (a b : CodeCfg) (pos : Int) : Iq :=
  if a.sub = 5 then
    let (chip, frac, _) := placeOf a.len pos
    (altBocQ chip frac).conj.scale (s.codeChip a pos)
  else
    let (chip, frac, _) := placeOf b.len pos
    ⟨s.codeChip b pos * subcarrier b chip frac, 0⟩

/-- Code-store words that a code reads at a phase. -/
def codeWords (s : State) (c : CodeCfg) (pos : Int) : List Nat :=
  let (chip, _, w) := placeOf c.len pos
  (if c.kind = 3 then [s.storeAddr (getBits (c.p.getD 0 0) 0 19 + chip / 32)] else []) ++
    (if c.kind ≠ 0 ∧ 1 < c.slen ∧ c.stored then [s.storeAddr (c.sdat + secIndex c w / 32)] else [])

/-- The reads of code-store words as initiator 0x10, with what the memory reports of them; `true` when one meets an uncorrectable
error (R195, R196). -/
def storeReads (s : State) (ws : List Nat) : State × Bool :=
  ws.eraseDups.foldl (fun (a : State × Bool) w =>
    let ecc := (bankOf w).any (fun b => s.portRight Init.CHS b false) && s.mem.eccUnc.contains w
    ((a.1.portRead Init.CHS w 4).1, a.2 || ecc)) (s, false)

end State

end Sys2Proof.Machine
end

