-- ==== Sys2Proof/Machine/Correlator.lean ====
section
/-! DEFINITION. The correlator fabric: slot images, NCOs, budgets, dumps, sensing lanes and the epoch latch
(spec/08_correlator_fabric.md, R183 to R215).
Readings: log entries 43, 63, 71, 72 (DEDUCED, DESIGN CHOICE). -/

namespace Sys2Proof.Machine

/-- Word `k` of an image, by byte offset. -/
def imgW (img : List Word) (o : Nat) : Word := img.getD (o / 4) 0

def imgSet (img : List Word) (o v : Nat) : List Word := img.set (o / 4) (BitVec.ofNat 32 v)

def imgPut (img : List Word) (o lsb width v : Nat) : List Word :=
  img.set (o / 4) (putBits (imgW img o) lsb width v)

namespace Img

def vc (i : List Word) : Nat := getBits (imgW i 0x00) 0 12
def stream (i : List Word) : Nat := getBits (imgW i 0x00) 12 6
def chainLen (i : List Word) : Nat := getBits (imgW i 0x00) 18 3
def chainPos (i : List Word) : Nat := getBits (imgW i 0x00) 21 3
def ndump (i : List Word) : Nat := getBits (imgW i 0x00) 24 7
def carrRate (i : List Word) : Int := signed 32 (imgW i 0x04).toNat
/-- The 48-bit carrier accumulator (R189). -/
def carr (i : List Word) : Nat := (imgW i 0x08).toNat + getBits (imgW i 0x0C) 0 16 * 2 ^ 32
def seq (i : List Word) : Nat := getBits (imgW i 0x0C) 16 16
def codeRate (i : List Word) : Nat := (imgW i 0x10).toNat
/-- The code phase in 2^-32 chip. -/
def code (i : List Word) : Nat := (imgW i 0x14).toNat + getBits (imgW i 0x18) 0 24 * 2 ^ 32
def dumpCnt (i : List Word) : Nat := getBits (imgW i 0x18) 24 7
def sidxA (i : List Word) : Nat := getBits (imgW i 0x1C) 0 11
def sidxB (i : List Word) : Nat := getBits (imgW i 0x1C) 16 11
def ref (i : List Word) : Nat := (imgW i 0x20).toNat + getBits (imgW i 0x24) 0 16 * 2 ^ 32
def kindA (i : List Word) : Nat := getBits (imgW i 0x30) 0 2
def kindB (i : List Word) : Nat := getBits (imgW i 0x4C) 0 2
def lenA (i : List Word) : Nat := getBits (imgW i 0x34) 0 24
def lenB (i : List Word) : Nat := getBits (imgW i 0x50) 0 24
def slen (i : List Word) (o : Nat) : Nat := max 1 (getBits (imgW i o) 0 11)
def sp1 (i : List Word) : Nat := getBits (imgW i 0x28) 0 6
def sp2 (i : List Word) : Nat := getBits (imgW i 0x28) 8 6
/-- NZOFF as it acts: 0 acts as 128 (R197). -/
def nzoff (i : List Word) : Nat := let n := getBits (imgW i 0x28) 16 8; if n = 0 then 128 else n

/-- The code at byte offset `o` with the secondary code at `so` and index `sidx`. -/
def codeCfg (i : List Word) (o so sidx : Nat) : CodeCfg :=
  let c := imgW i o
  ⟨getBits c 0 2, getBits c 2 3, getBits c 5 5, getBits c 10 1 = 1, getBits (imgW i (o + 4)) 0 24,
   (List.range 5).map fun k => imgW i (o + 8 + 4 * k), slen i so, getBits (imgW i so) 11 1 = 1, (imgW i (so + 4)).toNat, sidx⟩

def codeA (i : List Word) : CodeCfg := codeCfg i 0x30 0x68 (sidxA i)
def codeB (i : List Word) : CodeCfg := codeCfg i 0x4C 0x70 (sidxB i)

/-- CTL but for CHAIN_POS. -/
def ctl (i : List Word) : Nat := (putBits (imgW i 0x00) 21 3 0).toNat

/-- An image with other phases, secondary indices and reference instant. -/
def withPhase (i : List Word) (carr code sa sb dump ref : Nat) : List Word :=
  let i := imgSet i 0x08 (carr % 2 ^ 32)
  let i := imgPut i 0x0C 0 16 (carr / 2 ^ 32)
  let i := imgSet i 0x14 (code % 2 ^ 32)
  let i := imgPut (imgPut i 0x18 0 24 (code / 2 ^ 32)) 0x18 24 7 dump
  let i := imgPut (imgPut i 0x1C 0 11 sa) 0x1C 16 11 sb
  imgPut (imgSet i 0x20 (ref % 2 ^ 32)) 0x24 0 16 (ref / 2 ^ 32)

/-- An image with another reference. -/
def withRef (i : List Word) (ref : Nat) : List Word := imgPut (imgSet i 0x20 (ref % 2 ^ 32)) 0x24 0 16 (ref / 2 ^ 32)

/-- Advance an image over `n` stream samples of `div` SAMP cycles, exactly, as the running NCOs would (R187, R190): each
code wrap steps the secondary indices and DUMP_CNT. -/
def advance (i : List Word) (n div : Nat) : List Word :=
  let carr := ((carr i : Int) + carrRate i * n) % ((2 ^ 48 : Nat) : Int)
  let len := lenA i * 2 ^ 32
  let tot := code i + codeRate i * n
  let w := if len = 0 then 0 else tot / len
  let nd := max 1 (ndump i)
  withPhase i carr.toNat (tot - w * len) ((sidxA i + w) % slen i 0x68) ((sidxB i + w) % slen i 0x70)
    ((dumpCnt i + w) % nd) ((ref i + n * div) % 2 ^ 48)

/-- Stream samples from the phases held to the next code epoch; none when the code stands still. -/
def toEpoch (i : List Word) : Option Nat :=
  if codeRate i = 0 ∨ lenA i = 0 then none else some (ceilDiv (lenA i * 2 ^ 32 - code i) (codeRate i))

/-- A code configuration that Table 8-3 or 8-4 does not allow. -/
def badCode (cfg : Word) (isA : Bool) : Bool :=
  let sub := getBits cfg 2 3
  let k := getBits cfg 5 5
  6 ≤ sub || (sub = 5 && !isA) || ((sub = 1 || sub = 2) && (k < 2 || 24 < k || k % 2 = 1))

/-- A memory code or stored secondary extends past the code store. -/
def pastStore (i : List Word) : Bool :=
  let overrun := fun off len => 393216 < off + (len + 31) / 32
  (kindA i = 3 && overrun (getBits (imgW i 0x38) 0 19) (lenA i))
    || (kindB i = 3 && overrun (getBits (imgW i 0x54) 0 19) (lenB i))
    || (getBits (imgW i 0x68) 11 1 = 1 && 2 ≤ slen i 0x68 && overrun (imgW i 0x6C).toNat (slen i 0x68))
    || (getBits (imgW i 0x70) 11 1 = 1 && 2 ≤ slen i 0x70 && overrun (imgW i 0x74).toNat (slen i 0x70))

/-- The image check of R187. -/
def bad (i : List Word) : Bool :=
  badCode (imgW i 0x30) true || badCode (imgW i 0x4C) false || ndump i = 0 || 100 < ndump i
    || (kindB i ≠ 0 && lenA i ≠ lenB i) || pastStore i

end Img

namespace State

def corPut (s : State) (c : Cor) : State := { s with cor := c }

def slotGet (s : State) (k : Nat) : Option Slot := Sparse.get (fun _ => none) s.cor.slots k

def slotSet (s : State) (k : Nat) (x : Option Slot) : State :=
  s.corPut { s.cor with slots := Sparse.set (fun _ => none) s.cor.slots k x }

/-- Indices of the loaded slots, ascending. -/
def loadedSlots (s : State) : List Nat := s.cor.slots.map (·.1)

/-- XBAR_SRCn.RATE of a stream, and the SAMP cycles of one of its samples. -/
def streamRate (s : State) (n : Nat) : Nat := s.fld (F.XBAR_SRC_RATE n)
def streamDiv (s : State) (n : Nat) : Nat := 2 ^ s.streamRate n

/-- Budget cost of one slot on a stream (R183). -/
def streamCost (s : State) (n : Nat) : Nat := 2 ^ (3 - s.streamRate n)

/-- Budget of a unit at a CORR divider code (R183). -/
def budgetAt (code : Nat) : Nat := match code with | 0 => 16 | 1 => 8 | _ => 4

/-- The budget in force: on IRO, CORR's 100 MHz carry 3 whole units of 31.25 Msps (R183, R462). -/
def corBudget (s : State) : Nat := if s.onIro 3 then 3 else budgetAt s.clk.divCorr

/-- Slots of a unit, ascending. -/
def unitSlots (u : Nat) : List Nat := (List.range 8).map (8 * u + ·)

/-- The head of a chain for a slot: itself when it is not chained. -/
def slotHead (k : Nat) (x : Slot) : Nat := if Img.chainLen x.img = 0 then k else k - Img.chainPos x.img

/-- A slot whose head is loaded and is the head of this very chain. -/
def chainOk (s : State) (k : Nat) (x : Slot) : Bool :=
  match s.slotGet (slotHead k x) with
  | none => false
  | some h => Img.chainPos h.img = 0 && Img.ctl h.img = Img.ctl x.img

/-- The image that decides a slot's cost and stream: a slot of a whole chain spends on the head's stream (R200). -/
def slotImg (s : State) (k : Nat) (x : Slot) : List Word :=
  match s.slotGet (slotHead k x) with
  | some h => if s.chainOk k x then h.img else x.img
  | none => x.img

def slotCost (s : State) (k : Nat) : Nat :=
  match s.slotGet k with
  | none => 0
  | some x => s.streamCost (Img.stream (s.slotImg k x))

def unitLoad (s : State) (u : Nat) : Nat := (unitSlots u).foldl (fun a k => a + s.slotCost k) 0

def unitEn (s : State) (u : Nat) : Bool := s.flag (F.COR_UCFG_EN (u / 64) (u % 64))

/-- Show COR_LOAD. -/
def corTotals (s : State) : State :=
  let units := (s.loadedSlots.filter fun k => match s.slotGet k with | some x => x.overrun | none => false).map (· / 8)
  (s.setFld F.COR_LOAD_SLOTS s.cor.slots.length).setFld F.COR_LOAD_OVER_UNITS units.eraseDups.length

/-- Show COR_USTATu and COR_LOAD after a change of a unit's slots. -/
def corShow (s : State) (u : Nat) : State :=
  let n := u / 64
  let i := u % 64
  let ld := (List.range 8).foldl (fun a k => a + b2n (s.slotGet (8 * u + k)).isSome * 2 ^ k) 0
  let ov := (List.range 8).foldl (fun a k =>
    a + b2n (match s.slotGet (8 * u + k) with | some x => x.overrun | none => false) * 2 ^ k) 0
  let s1 := ((s.setFld (F.COR_USTAT_LOADED n i) ld).setFld (F.COR_USTAT_USED n i) (s.unitLoad u)).setFld
    (F.COR_USTAT_OVER n i) ov
  s1.corTotals

/-- Slots of a unit that fit a budget, the lowest-numbered first (R185). -/
def unitKeep (s : State) (u budget : Nat) : List Nat :=
  ((unitSlots u).foldl (fun (a : List Nat × Nat) k =>
    let c := s.slotCost k
    if c = 0 then a else if a.2 + c ≤ budget then (a.1 ++ [k], a.2 + c) else a) ([], 0)).1

/-- Stop the slots of a unit that no longer fit (R185); a slot that fits again resumes at its next dump boundary. -/
def corFitUnit (s : State) (u : Nat) : State :=
  let keep := s.unitKeep u s.corBudget
  let out := (unitSlots u).filter fun k =>
    !(keep.contains k) && (match s.slotGet k with | some x => !x.overrun | none => false)
  if out = [] then s.corShow u
  else
    let s1 := out.foldl (fun (t : State) k =>
      match t.slotGet k with
      | some x => t.slotSet k (some { x with overrun := true, live := false, acc := List.replicate 14 0, nsamp := 0, nflag := 0 })
      | none => t) s
    (s1.corShow u).sticky P.COR 8 u

def corFit (s : State) : State := (s.loadedSlots.map (· / 8)).eraseDups.foldl corFitUnit s

/-- Slots of the chain that a head leads, itself first; `true` when complete. -/
def chainSlots (s : State) (k : Nat) (x : Slot) : List Nat × Bool :=
  let want := (List.range (Img.chainLen x.img + 1)).map (k + ·)
  let have_ := want.filter fun m => match s.slotGet m with
    | some y => Img.ctl y.img = Img.ctl x.img && Img.chainPos y.img = m - k
    | none => false
  (if have_ = want then want else [k], have_ = want)

/-! ### Loading and unloading (R187, R188) -/

/-- The ADC instant of the samples now at the fabric, as a SAMP count (R207). -/
def adcNow (s : State) : Nat := (s.tbu.samp + 2 ^ 48 - 576) % 2 ^ 48

/-- The ADC instant of the next sample of stream `n` at the fabric. -/
def streamNext (s : State) (n : Nat) : Nat := (s.adcNow + (s.streamDiv n - (s.streamGet n).count - 1)) % 2 ^ 48

/-- Propagate an image from its REF to the next sample of its stream, over the stream samples that lie between (R187). -/
def propagate (s : State) (i : List Word) : List Word :=
  let t := s.streamNext (Img.stream i)
  let d := (t + 2 ^ 48 - Img.ref i) % 2 ^ 48
  let div := s.streamDiv (Img.stream i)
  if 2 ^ 47 ≤ d then i else Img.withRef (Img.advance i (d / div) div) t

def freshSlot (img : List Word) : Slot :=
  ⟨img, 0, false, false, false, List.replicate 14 0, 0, 0, false, false, true, false, false, none, none, none⟩

/-- What the fabric answers to a load: 0 loaded, 1 image refused (R187), 2 over budget (R184). -/
def corLoad (s : State) (k : Nat) (img : List Word) : State × Nat :=
  let u := k / 8
  if Img.bad img ∨ (s.slotGet k).isSome ∨ !(s.unitEn u) then (s.sticky P.COR 12 u, 1)
  else if s.corBudget < s.unitLoad u + s.streamCost (Img.stream img) then (s.sticky P.COR 8 u, 2)
  else ((s.slotSet k (some (freshSlot (s.propagate img)))).corShow u, 0)

def laneGet (s : State) (u : Nat) : Option Lane := Sparse.get (fun _ => none) s.cor.lanes u

def laneSet (s : State) (u : Nat) (x : Option Lane) : State :=
  s.corPut { s.cor with lanes := Sparse.set (fun _ => none) s.cor.lanes u x }

/-- Slots of a unit that the lane may serve next: mask bits of slots that are loaded and no chain members but heads. -/
def laneOk (s : State) (u k : Nat) : Bool :=
  bit (s.fld (F.COR_ULANE_MASK (u / 64) (u % 64))) k &&
    (match s.slotGet (8 * u + k) with
     | some x => Img.chainLen x.img = 0 || Img.chainPos x.img = 0
     | none => false)

/-- The next slot to serve after slot `k`, ascending with wrap-around (R203). -/
def laneNext (s : State) (u k : Nat) : Option Nat :=
  ((List.range 8).map fun j => (k + 1 + j) % 8).find? (s.laneOk u)

/-- The lane of unit `u` stands at slot `m`, serving it or waiting for its boundary. -/
def laneAt (s : State) (u m : Nat) (serve : Bool) : State :=
  ((s.laneSet u (if serve then some Lane.start else none)).setFld (F.COR_USTAT_LANE_SLOT (u / 64) (u % 64)) m).setFlag
    (F.COR_USTAT_LANE_BUSY (u / 64) (u % 64)) serve

/-- The slot that the lane of unit `u` stands at, and whether it serves it. -/
def laneSlot (s : State) (u : Nat) : Nat := s.fld (F.COR_USTAT_LANE_SLOT (u / 64) (u % 64))
def laneBusy (s : State) (u : Nat) : Bool := s.flag (F.COR_USTAT_LANE_BUSY (u / 64) (u % 64))

/-- The lane leaves a slot whose channel is unloaded (R203). -/
def laneDrop (s : State) (k : Nat) : State :=
  if s.laneBusy (k / 8) ∧ s.laneSlot (k / 8) = k % 8 then
    s.laneAt (k / 8) ((s.laneNext (k / 8) (k % 8)).getD (k % 8)) false
  else s

def corUnload (s : State) (k : Nat) : State := ((s.slotSet k none).laneDrop k).corShow (k / 8)

/-! ### Samples (R189, R197 to R204) -/

/-- Add a product to a 32-bit accumulator pair; the numbers that saturated (R199). -/
def accPair (a : List Int) (o : Nat) (z : Iq) : List Int × Nat :=
  let i := a.getD o 0 + z.i
  let q := a.getD (o + 1) 0 + z.q
  let lim := fun (v : Int) => clampInt (-2147483648) 2147483647 v
  ((a.set o (lim i)).set (o + 1) (lim q), b2n (lim i ≠ i) + b2n (lim q ≠ q))

/-- Add products to accumulator pairs 0, 1, …; the number that saturated. -/
def accProducts (a : List Int) (zs : List Iq) : List Int × Nat :=
  zs.zipIdx.foldl (fun (r : List Int × Nat) z => let (b, n) := accPair r.1 (2 * z.2) z.1; (b, r.2 + n)) (a, 0)

/-- Phases of a slot's taps from the replica phase `pos` of its head, in 2^-35 chip, with `true` for tap DP: VE, E, P, L, VL, DP,
NZ (R197), or points 7 pos to 7 pos + 6 of a chain of `l` slots (R200). -/
def tapPhases (head : List Word) (l chainPos : Nat) (pos : Int) : List (Int × Bool) :=
  if l = 1 then
    let d := fun (n : Int) => pos + n * 2 ^ 31
    let s1 : Int := Img.sp1 head
    let s2 : Int := Img.sp2 head
    [(d s2, false), (d s1, false), (pos, false), (d (-s1), false), (d (-s2), false), (pos, true),
     (pos - (Img.nzoff head : Int) * 2 ^ 35, false)]
  else
    (List.range 7).map fun t =>
      (pos + (((7 * l - 1) / 2 : Nat) - (7 * chainPos + t : Nat) : Int) * (max 1 (Img.sp1 head) : Nat) * 2 ^ 31, false)

/-- Code and carrier phase of a slot's next sample: 2^-32 chip, 2^-32 cycle. -/
def slotPhase (x : Slot) : Int × Int :=
  ((Img.code x.img : Int) + Img.codeRate x.img * x.taken, (Img.carr x.img : Int) + Img.carrRate x.img * x.taken)

/-- One stream sample for one slot of a chain of `l` whose head is `h`, or a slot alone (R198, R199). -/
def slotTake (h : Slot) (l : Nat) (y : Sample) (s : State) (k : Nat) : State :=
  match s.slotGet k with
  | none => s
  | some x =>
    if !x.live ∨ x.overrun ∨ !(s.unitEn (k / 8)) then s
    else if y.flag then s.slotSet k (some { x with nflag := satAdd 32 x.nflag 1 })
    else
      let (code, carr) := slotPhase h
      let a := Img.codeA h.img
      let b := Img.codeB h.img
      let ph := tapPhases h.img l (if l = 1 then 0 else Img.chainPos x.img) (8 * code)
      let v := y.v.mul (wipeOff ((carr / 2 ^ 26) % 64).toNat)
      let rep := fun (e : Int × Bool) => if e.2 then s.replicaDP a b e.1 else s.replicaA a b e.1
      let (acc, n) := accProducts x.acc (ph.map fun e => v.mul (rep e))
      let words := ph.flatMap fun e =>
        (if e.2 ∧ a.sub ≠ 5 then [] else s.codeWords a e.1) ++ (if e.2 = (a.sub ≠ 5 : Bool) then s.codeWords b e.1 else [])
      let (s1, err) := s.storeReads words
      let s2 := s1.slotSet k (some { x with acc := acc, nsamp := x.nsamp + 1, sat := x.sat || 0 < n, codeErr := x.codeErr || err })
      let s3 := if n = 0 then s2 else (s2.satFld F.COR_SATCNT_COUNT n).sticky P.COR 9 (k / 8)
      if err then s3.sticky P.COR 10 (k / 8) else s3

/-- One stream sample at slot `k`: a head serves its chain; a chain member and a slot held at its boundary take none. -/
def slotSample (inp : FabricIn) (s : State) (k : Nat) : State :=
  match s.slotGet k with
  | none => s
  | some x =>
    if x.held ∨ (Img.chainPos x.img ≠ 0 ∧ Img.chainLen x.img ≠ 0) then s
    else
      match (inp.stream.getD (Img.stream x.img) none) with
      | none => s
      | some y =>
        let (members, whole) := s.chainSlots k x
        let s0 := if whole then s else s.sticky P.COR 11 (k / 8)
        let s1 := members.foldl (slotTake x (Img.chainLen x.img + 1) y) s0
        match s1.slotGet k with
        | some z => s1.slotSet k (some { z with taken := z.taken + 1, before := none })
        | none => s1

/-- The band of a stream's source. -/
def streamBand (s : State) (n : Nat) : Nat :=
  if s.fld (F.XBAR_SRC_KIND n) = 0 then s.fld (F.XBAR_SRC_INDEX n) % 2 else s.fld (F.XBAR_SRC_BAND n)

/-- The code-store reads of a lane's replica for slot `k` (R196): where the slot itself takes the sample `y`, its own reads serve
both. -/
def laneReads (y : Option Sample) (k : Nat) (code : Int) (s : State) : State :=
  match s.slotGet k with
  | none => s
  | some x =>
    if y.any (fun z => !z.flag) && x.live && !x.overrun && s.unitEn (k / 8) then s
    else
      let (s1, err) := s.storeReads (s.codeWords (Img.codeA x.img) code ++ s.codeWords (Img.codeB x.img) code)
      if err then (s1.slotSet k (some { x with codeErr := true })).sticky P.COR 10 (k / 8) else s1

/-- One 250 Msps sample of the element streams at the lane of unit `u` (R202, R204): a flagged element adds nothing; the sample
counts as flagged when one of the eight is. -/
def laneSample (inp : FabricIn) (s : State) (u : Nat) : State :=
  match s.laneGet u, s.slotGet (8 * u + s.laneSlot u) with
  | some l, some x =>
    let n := Img.stream x.img
    let now := (inp.stream.getD n none).isSome
    let sub := if now then 0 else l.sub + 1
    let at_ : Int := if now then x.taken else x.taken - 1
    let up : Int := (2 ^ (3 - s.streamRate n) : Nat)
    let code := ((Img.code x.img : Int) + Img.codeRate x.img * at_) * 8 + Img.codeRate x.img * up * sub
    let carr := ((Img.carr x.img : Int) + Img.carrRate x.img * at_) * 8 + Img.carrRate x.img * up * sub + l.turn
    let w := wipeOff ((carr / 2 ^ 29) % 64).toNat
    let r := s.replicaA (Img.codeA x.img) (Img.codeB x.img) code
    let els := inp.lane.getD (s.streamBand n) []
    let (acc, k) := accProducts l.acc (els.map fun e => if e.flag then Iq.zero else (e.v.mul w).mul r)
    let bad := els.any (·.flag)
    let s1 := s.laneSet u (some { l with
      acc := acc, nsamp := l.nsamp + b2n (!bad), nflag := satAdd 32 l.nflag (b2n bad), sat := l.sat || 0 < k, sub := sub
      turn := l.turn + 8 * signed 32 (s.reg (R.XBAR_OFF n)).toNat })
    let s2 := if k = 0 then s1 else (s1.satFld F.COR_SATCNT_COUNT k).sticky P.COR 9 u
    s2.laneReads (inp.stream.getD n none) (8 * u + s.laneSlot u) code
  | _, _ => s

/-- One sample at the fabric: every lane that serves, then every loaded slot. -/
def fabricSample (s : State) (inp : FabricIn) : State :=
  if s.live P.COR then
    let s1 := (s.cor.lanes.map (·.1)).foldl (laneSample inp) s
    if s.domRuns 3 then s1.loadedSlots.foldl (slotSample inp) s1 else s1
  else s

/-- A slot whose next stream sample, the next sample at the fabric, begins a code period: its code epoch is due (R190). -/
def slotDue (s : State) (x : Slot) : Bool :=
  !x.held && !(Img.chainPos x.img ≠ 0 && Img.chainLen x.img ≠ 0) &&
    (match Img.toEpoch x.img with
     | none => false
     | some n =>
       let i := Img.stream x.img
       n ≤ x.taken && 2 ^ s.streamRate i ≤ (s.streamGet i).count + 1)

/-! ### Code epochs and dumps (R190, R198 to R206) -/

/-- First word of a dump or lane record (Table 8-6). -/
def recordHead (k : Nat) (img : List Word) (type : Nat) : Nat :=
  Img.vc img + type * 2 ^ 12 + k / 8 * 2 ^ 16 + k % 8 * 2 ^ 24 + Img.chainPos img * 2 ^ 27
    + b2n (Img.chainLen img ≠ 0) * 2 ^ 30

/-- The dump record of Table 8-6; `head` supplies the NCO values, `lane` tells whether a lane record follows, `rates` are
those in force before an update at the boundary. -/
def dumpRecord (k : Nat) (x : Slot) (head : List Word) (rates : Nat × Nat) (lane : Bool) : List Byte :=
  let flags := b2n x.sat + b2n (0 < x.nflag) * 2 + b2n x.updated * 4 + b2n x.loaded * 8 + b2n x.xbar * 16
    + b2n lane * 32 + b2n x.codeErr * 64 + b2n x.overrun * 128
  leBytes 4 (recordHead k x.img 0) ++ leBytes 2 (Img.seq x.img) ++ leBytes 1 flags ++ leBytes 1 (Img.ndump head)
    ++ leBytes 8 (Img.ref head) ++ (x.acc.flatMap fun v => leBytes 4 (unsigned 32 v))
    ++ leBytes 4 (Img.carr head % 2 ^ 32) ++ leBytes 2 (Img.carr head / 2 ^ 32) ++ leBytes 2 (Img.sidxA head)
    ++ leBytes 4 rates.1 ++ leBytes 4 rates.2 ++ leBytes 4 x.nflag ++ leBytes 4 x.nsamp

/-- The lane record of Table 8-7. -/
def laneRecord (k : Nat) (img : List Word) (seq boundary : Nat) (l : Lane) : List Byte :=
  leBytes 4 (recordHead k img 1) ++ leBytes 2 seq ++ leBytes 1 (b2n l.sat + b2n (0 < l.nflag) * 2) ++ leBytes 1 0
    ++ leBytes 8 boundary ++ leBytes 4 l.nsamp ++ leBytes 4 l.nflag ++ leBytes 8 0
    ++ l.acc.flatMap fun v => leBytes 4 (unsigned 32 v)

/-- A boundary lies after another, as 48-bit SAMP counts. -/
def laterSamp (a b : Nat) : Bool := let d := (a + 2 ^ 48 - b) % 2 ^ 48; 0 < d && d < 2 ^ 47

/-- Put a record in the order of R206: by boundary, then by unit and slot; a later record of one slot follows. -/
def outInsert (r : OutRec) : List OutRec → List OutRec
  | [] => [r]
  | x :: xs =>
    if laterSamp x.boundary r.boundary || (x.boundary = r.boundary && r.slot < x.slot) then r :: x :: xs
    else x :: outInsert r xs

/-- Push one record towards the dump queue. -/
def corPush (s : State) (r : OutRec) : State :=
  (s.corPut { s.cor with out := outInsert r s.cor.out }).addFld F.COR_DUMPCNT_COUNT 1

/-- The lane of unit `u` at a dump boundary of slot `k`, after any lane record: an ended interval moves it on, and it begins
to serve the slot it stands at, or moves on from a slot that may not be served, at that slot's boundary (R203). -/
def laneMove (s : State) (u k : Nat) : State :=
  if s.laneBusy u ∧ s.laneSlot u ≠ k then s
  else
    match (if !(s.laneBusy u) && s.laneOk u (s.laneSlot u) then some (s.laneSlot u) else s.laneNext u (s.laneSlot u)) with
    | none => s.laneAt u (s.laneSlot u) false
    | some m => s.laneAt u m (m = k)

/-- Transfer the ULANE mask bit of slot k at its dump boundary (R212). -/
def ulaneBit (s : State) (u k : Nat) : State :=
  let a := R.COR_ULANE (u / 64) (u % 64)
  if s.hold (P.CORU (u / 64)) ∨ !(bit (s.shadowMask a).toNat k) then s
  else
    let s1 := s.setRegBit a k (bit (s.shadowVal a).toNat k)
    { s1 with shM := Sparse.set (fun _ => 0) s1.shM a (BitVec.ofNat 32 (setBit (s1.shadowMask a).toNat k false))
              shV := Sparse.set (fun _ => 0) s1.shV a (BitVec.ofNat 32 (setBit (s1.shadowVal a).toNat k false)) }

/-- The lane record of the interval that ends at slot `k`'s boundary, when the lane serves the slot (R204). -/
def laneDump (s : State) (k : Nat) (img head : List Word) : State :=
  match s.laneGet (k / 8) with
  | some l =>
    if s.laneBusy (k / 8) && s.laneSlot (k / 8) = k % 8 then
      s.corPush ⟨k, Img.vc img, 1, Img.ref head, laneRecord k img (Img.seq img) (Img.ref head) l⟩
    else s
  | none => s

/-- A slot that dumps at its boundary: it has begun to accumulate, or is stopped for want of budget. -/
def dumps (x : Slot) : Bool := x.live || x.overrun

/-- Dump one slot at a boundary (R205) with the lane record that follows, and restart its accumulators; SEQ counts the dump. A
unit out of service pushes none (R213). The slot's ULANE bit transfers and its lane moves (R203, R212). -/
def slotDump (head : List Word) (rates : Nat × Nat) (s : State) (k : Nat) : State :=
  match s.slotGet k with
  | none => s
  | some x =>
    if !(dumps x) then s
    else
      let u := k / 8
      let push := s.unitEn u
      let lane := push && s.laneBusy u && s.laneSlot u = k % 8
      let img := if push then imgPut x.img 0x0C 16 16 (Img.seq x.img + 1) else x.img
      let s1 := if push then
          (s.corPush ⟨k, Img.vc img, 0, Img.ref head, dumpRecord k { x with img := img } head rates lane⟩).laneDump k img head
        else s
      let resume := x.overrun && (s.unitKeep u s.corBudget).contains k
      let s2 := s1.slotSet k (some { x with
        img := img, acc := List.replicate 14 0, nsamp := 0, nflag := 0, sat := false, updated := false
        loaded := x.loaded && !push, xbar := false, codeErr := false
        overrun := x.overrun && !resume, live := x.live || resume })
      (s2.ulaneBit u (k % 8)).laneMove u (k % 8)

/-- A slot begins to accumulate at a code epoch, and notes an NCO update that takes effect there. -/
def slotBegin (upd : Bool) (s : State) (k : Nat) : State :=
  match s.slotGet k with
  | some y => s.slotSet k (some { y with live := y.live || !y.overrun, updated := y.updated || upd })
  | none => s

/-- The head's NCOs pass into the new period with image `img` and the rates `rates` in force from now. -/
def slotPass (s : State) (k : Nat) (img : List Word) (rates : Nat × Nat) (upd : Bool) : State :=
  match s.slotGet k with
  | some y =>
    let old := ((imgW img 0x04).toNat, (imgW img 0x10).toNat)
    let i := imgPut (imgSet (imgSet img 0x04 rates.1) 0x10 rates.2) 0x0C 16 16 (Img.seq y.img)
    s.slotSet k (some { y with img := i, taken := 0, pendCarr := none, pendCode := none
                               before := if upd then some old else none })
  | none => s

/-- CODE_EPOCH of the slot at `k` (R190): the NCOs pass to the wrap, a dump boundary dumps the chain, pending rates come into
force, and a slot that was loaded begins to accumulate. A chain member whose head is not loaded is broken (R201). -/
def codeEpoch (s : State) (k : Nat) : State :=
  match s.slotGet k with
  | none => s
  | some x =>
    if !(s.live P.COR) ∨ x.held ∨ !(s.domRuns 3) then s
    else if Img.chainPos x.img ≠ 0 ∧ Img.chainLen x.img ≠ 0 then
      if s.chainOk k x then s else s.sticky P.COR 11 (k / 8)
    else if !(s.slotDue x) then s
    else
      let old := x.img
      let img := Img.advance old x.taken (s.streamDiv (Img.stream old))
      let upd := x.pendCarr.isSome || x.pendCode.isSome
      let was := ((imgW old 0x04).toNat, (imgW old 0x10).toNat)
      let (members, whole) := s.chainSlots k x
      let s0 := if whole then s else s.sticky P.COR 11 (k / 8)
      let s1 := if Img.dumpCnt img = 0 then members.foldl (slotDump img was) s0 else s0
      let s2 := s1.slotPass k img (x.pendCarr.getD was.1, x.pendCode.getD was.2) upd
      (members.foldl (slotBegin upd) s2).corShow (k / 8)

/-! ### Epoch latch (R207 to R210) -/

/-- Phases of an image `d` SAMP cycles after its own, rounded to 2^-32: carrier (48 bits), code (2^-32 chip) (R207). -/
def phasesAt (i : List Word) (carrRate : Int) (codeRate : Nat) (d : Int) (div : Nat) : Nat × Nat :=
  let carr : Int := ((Img.carr i : Int) + roundDiv (carrRate * d) div) % ((2 ^ 48 : Nat) : Int)
  let len : Nat := Img.lenA i * 2 ^ 32
  let code : Int := (Img.code i : Int) + roundDiv ((codeRate : Int) * d) div
  (carr.toNat, if len = 0 then code.toNat else (code % (len : Int)).toNat)

/-- The latch record of Table 8-8 for the slot at `k`, at the ADC instant `at_` (SAMP count). In the cycle in which an NCO update
takes effect the rates are those from before it (R210). -/
def latchRecord (s : State) (k epoch at_ : Nat) : List Byte :=
  let empty := leBytes 4 (epoch % 256 * 2 ^ 16) ++ leBytes 60 0
  match s.slotGet k with
  | none => empty
  | some x =>
    if !(s.live P.COR && s.unitEn (k / 8)) then empty
    else
      let h := match s.slotGet (slotHead k x) with | some y => if s.chainOk k x then y else x | none => x
      let i := h.img
      let d0 : Nat := (at_ + 2 ^ 48 - Img.ref i) % 2 ^ 48
      let d : Int := if 2 ^ 47 ≤ d0 then (d0 : Int) - ((2 ^ 48 : Nat) : Int) else d0
      let (carr, code) := phasesAt i (Img.carrRate i) (Img.codeRate i) d (s.streamDiv (Img.stream i))
      let now := ((imgW i 0x04).toNat, (imgW i 0x10).toNat)
      let rates := if d = 0 then h.before.getD now else now
      let live := x.live && !x.overrun && !x.held
      let part := fun (o : Nat) => if live then x.acc.getD o 0 else 0
      leBytes 4 (Img.vc x.img + 2 ^ 12 + b2n (Img.chainLen x.img ≠ 0) * 2 ^ 13 + b2n x.overrun * 2 ^ 14 + epoch % 256 * 2 ^ 16)
        ++ leBytes 4 (code / 2 ^ 32 + Img.dumpCnt i * 2 ^ 24) ++ leBytes 4 (code % 2 ^ 32)
        ++ leBytes 2 (Img.sidxA i) ++ leBytes 2 (carr / 2 ^ 32) ++ leBytes 4 (carr % 2 ^ 32)
        ++ leBytes 4 rates.1 ++ leBytes 4 rates.2
        ++ leBytes 4 (if live then x.nsamp else 0)
        ++ ([4, 5, 10, 11, 2, 3, 6, 7].flatMap fun e => leBytes 4 (unsigned 32 (part e)))

/-- The latch of every slot (R207) in the SAMP cycle `samp`: EPOCHS counts it; with LATCH_EN = 1 its table waits to be written
(R208, R209). -/
def corLatch (s : State) (samp : Nat) : State :=
  let s1 := s.addFld F.COR_LATSTAT_EPOCHS 1
  if s.flag F.COR_CTL_LATCH_EN then
    let epoch := s1.fld F.COR_LATSTAT_EPOCHS
    let at_ := (samp + 2 ^ 48 - 576) % 2 ^ 48
    let recs := s1.loadedSlots.map fun k => (k, s1.latchRecord k epoch at_)
    let s2 := if s1.flag F.COR_LATSTAT_BUSY then s1.sticky P.COR 14 else s1
    (s2.corPut { s2.cor with latches := s2.cor.latches ++ [⟨epoch, samp, recs⟩] }).setFlag F.COR_LATSTAT_BUSY true
  else s1

/-- Slots whose code epoch falls on the ADC instant of a latch in the SAMP cycle `samp`: the latch shows the new interval
(R210). -/
def slotsAtLatch (s : State) (samp : Nat) : List Nat :=
  s.loadedSlots.filter fun k =>
    match s.slotGet k with
    | some x => s.slotDue x && (Img.ref x.img + x.taken * s.streamDiv (Img.stream x.img) + 576) % 2 ^ 48 = samp % 2 ^ 48
    | none => false

/-- Bytes of a latch table: one 64-byte record per slot position. -/
def latchTable (epoch : Nat) : Nat → Nat → List (Nat × List Byte) → List Byte
  | 0, _, _ => []
  | n + 1, k, (j, b) :: rs =>
    if j = k then b ++ latchTable epoch n (k + 1) rs
    else leBytes 4 (epoch % 256 * 2 ^ 16) ++ leBytes 60 0 ++ latchTable epoch n (k + 1) ((j, b) :: rs)
  | n + 1, k, [] => leBytes 4 (epoch % 256 * 2 ^ 16) ++ leBytes 60 0 ++ latchTable epoch n (k + 1) []

/-- The oldest captured latch's table is written: `true` when it stands in the bank (R208, R209). -/
def latchWrite (s : State) : State × Option LatchCap :=
  match s.cor.latches with
  | [] => (s, none)
  | c :: rest =>
    let b := s.fld F.COR_LATBASE_BANK
    let a := sramBase + bankSize * b + 0x20000 * (c.epoch % 2)
    let s1 := (s.corPut { s.cor with latches := rest }).setFlag F.COR_LATSTAT_BUSY (rest ≠ [])
    if b < 96 then
      let (s2, ok) := s1.portWrite Init.CHS a (latchTable c.epoch 2048 0 c.records)
      if ok then ((s2.setFld F.COR_LATSTAT_HALF (c.epoch % 2)).irq P.COR 0, some c) else (s2.sticky P.COR 13, none)
    else (s1.sticky P.COR 13, none)

/-- An XBAR transfer falls in the dump interval of every slot that has one (Table 8-6). -/
def corXbar (s : State) : State :=
  s.loadedSlots.foldl (fun (t : State) k => match t.slotGet k with
    | some x => t.slotSet k (some { x with xbar := x.xbar || dumps x })
    | none => t) s

/-- S fields of COR and the unit pages transfer at the epoch, the ULANE bits excepted (R212). -/
def corCommitPages (s : State) : State :=
  let isUlane := fun a => P.CORU 0 ≤ pageOf a && pageOf a ≤ P.CORU 3 && offOf a % 16 = 8
  let s1 := if s.hold P.COR then s else s.transfer fun a => pageOf a = P.COR
  (List.range 4).foldl (fun (t : State) n =>
    if t.hold (P.CORU n) then t else t.transfer fun a => pageOf a = P.CORU n && !(isUlane a)) s1

/-! ### Stop, start and reset (R211) -/

/-- A slot stops where it is: its partial sums are discarded with what they would have reported. -/
def slotStop (s : State) (k : Nat) : State :=
  match s.slotGet k with
  | some x => s.slotSet k (some { x with
      img := Img.advance x.img x.taken (s.streamDiv (Img.stream x.img)), taken := 0, live := false
      acc := List.replicate 14 0, nsamp := 0, nflag := 0, sat := false, codeErr := false, xbar := false, updated := false
      before := none })
  | none => s

/-- The lanes of every unit become idle. -/
def lanesStop (s : State) : State := (s.cor.lanes.map (·.1)).foldl (fun (t : State) u => t.laneAt u (t.laneSlot u) false) s

/-- ENABLE = 0: partial sums are discarded, images kept. -/
def corStop (s : State) : State := (s.loadedSlots.foldl slotStop s).lanesStop

/-- ENABLE = 1: each slot resumes under the load rule, from its last state. -/
def corStart (s : State) : State :=
    (s.loadedSlots.foldl (fun (t : State) k => match t.slotGet k with
      | some x => if x.held then t else t.slotSet k (some { x with img := t.propagate x.img, live := false })
      | none => t) s).setFlag (F.STAT_RUNNING P.COR) true

/-- Slots that satisfy a predicate become empty without a write-back; their units' registers and lanes follow. -/
def corDrop (s : State) (q : Nat → Bool) : State :=
  let us := ((s.loadedSlots.filter q).map (· / 8)).eraseDups
  let s1 := s.corPut { s.cor with slots := s.cor.slots.filter fun e => !(q e.1) }
  us.foldl (fun (t : State) u => (t.laneAt u 0 false).corShow u) s1

/-- Soft reset: every slot is empty, nothing is written back. -/
def corEmpty (s : State) : State :=
  let s1 := s.corDrop fun _ => true
  s1.corPut Cor.reset

end State

end Sys2Proof.Machine
end

