-- ==== Sys2Proof/Machine/Feed.lean ====
section
/-! DEFINITION. The sample stream: what one sample of the sixteen paths does from the ADC to the correlators (R37, R66, R112 to
R131, R141 to R147, R160 to R162, R198), and the commands of the stream's own boundaries.
Readings: log entries 27, 63 (DESIGN CHOICE, DEDUCED). -/

namespace Sys2Proof.Machine
namespace State

/-- The sample that a capture channel's source gives: the front end's outputs are `ys`, the array processors' `zs`. A source that
does not exist gives flagged zeros (DESIGN CHOICE, log entry 67). -/
def capSource (s : State) (ys zs : List Sample) (n : Nat) : Sample :=
  let i := s.fld (F.DFE_CAPSRC_INDEX n)
  match s.fld (F.DFE_CAPSRC_KIND n) with
  | 0 => ys.getD i Sample.none
  | 1 => if i ≤ 7 then zs.getD (sourceOf 1 i (s.fld (F.DFE_CAPSRC_BAND n))) Sample.none else Sample.none
  | _ => if i ≤ 3 then zs.getD (sourceOf 2 i (s.fld (F.DFE_CAPSRC_BAND n))) Sample.none else Sample.none

/-- One SAMP cycle of the signal path: `raw` holds the ADC codes of the sixteen paths. What a status page sets in it goes to the log
as one cycle's (R46). -/
def tick (s : State) (raw : List Iq) : State :=
  let (s1, ys) := s.frontTick raw
  let (s2, zs) := s1.arrayTick ys
  let s3 := (List.range 16).foldl (fun (t : State) n => t.capInput n (s2.capSource ys zs n)) s2
  let (s4, inp) := s3.crossTick zs
  ((s4.fabricSample inp).sampPass 1).toTocsin

/-- Something falls due before the next sample: the end of a monitor or covariance block, a B0 solve (R151), the rms block of a
capture channel, or a code epoch. -/
def feedStops (s : State) : Bool :=
  s.sig.smDue || s.sig.covDue || s.sig.tail = some 0 || s.arr.any (·.due.isSome)
    || (List.range 16).any (fun n => s.capRmsDue n && s.capState n ≠ 0 && s.capState n ≠ 4)
    || (s.live P.COR && s.domRuns 3 && s.loadedSlots.any fun k => match s.slotGet k with | some x => s.slotDue x | none => false)

/-- Samples up to what falls due first; the ones left over. -/
def feedTo (s : State) : List (List Iq) → State × List (List Iq)
  | [] => (s, [])
  | r :: rs => if s.feedStops || !(s.domRuns 2) then (s, r :: rs) else feedTo (s.tick r) rs

/-- Samples up to what falls due first. -/
def feed (s : State) (raw : List (List Iq)) : State := (s.feedTo raw).1

/-- COVARIANCE_BLOCK_END after the samples `raw` (R142): the front end's part at the block's last sample, and the array
processors' part when that sample has passed their stages, 72 samples later (log entry 63). -/
def covBlockEnd (s : State) (raw : List (List Iq)) : State :=
  let (s1, rest) := s.feedTo raw
  let s2 := (if s1.sig.covDue then s1.covFront else s1).feed rest
  if s2.sig.tail = some 0 then s2.covArray else s2

end State
end Sys2Proof.Machine
end

