-- ==== Sys2Proof/Machine/IrqView.lean ====
section
/-! DEFINITION. Page interrupts (R44, Table 2-4): the latched bits of IRQ_RAW, the bits that follow a level of the block
while it lasts, IRQ_STAT, and the interrupt lines of the cores (R366). -/

namespace Sys2Proof.Machine

namespace State

/-- IRQ_RAW bits that follow a level: a non-empty event FIFO (TIO bits 0 to 3), eviction FIFO (CHS bit 0) or receive FIFO
(PTP bit 0), and a response entry not yet taken (MBX bit 0, R511). -/
def irqLevel (s : State) (p : Nat) : Nat :=
  if p = P.TIO then ((List.range 4).map fun i => if (s.tio.ev.getD i []).isEmpty then 0 else 2 ^ i).sum
  else if p = P.CHS then b2n (!s.chs.evict.isEmpty)
  else if p = P.PTP then b2n (!s.ptp.rx.isEmpty)
  else if p = P.MBX then b2n (decide (s.reg R.MBX_RSPPI ≠ s.reg R.MBX_RSPCI))
  else 0

/-- IRQ_RAW as a read shows it. -/
def irqRaw (s : State) (p : Nat) : Word := s.reg (R.IRQ_RAW p) ||| BitVec.ofNat 32 (s.irqLevel p)

/-- IRQ_STAT: IRQ_RAW AND IRQ_EN. -/
def irqStat (s : State) (p : Nat) : Word := s.irqRaw p &&& s.reg (R.IRQ_EN p)

/-- The page interrupt: the OR of all bits of IRQ_STAT. -/
def pageIrq (s : State) (p : Nat) : Bool := s.irqStat p ≠ 0

/-- Base of the page that bits [23:12] of its address name (CORE_IMAPk). -/
def pageNumbered (n : Nat) : Nat := 0x40000000 + 0x1000 * (n % 4096)

/-- Interrupt lines 8 to 31 of a core: the levels of the pages chosen in its CORE_IMAPk (R366). -/
def coreLevels (s : State) (c : Nat) : Nat :=
  ((List.range 12).map fun k =>
    let w := s.reg (R.CORE_IMAP c k)
    let a := if getBits w 15 1 = 1 && s.pageIrq (pageNumbered (getBits w 0 12)) then 2 ^ (8 + 2 * k) else 0
    let b := if getBits w 31 1 = 1 && s.pageIrq (pageNumbered (getBits w 16 12)) then 2 ^ (9 + 2 * k) else 0
    a + b).sum

end State

end Sys2Proof.Machine
end

