-- ==== Sys2Proof/Machine/Faults.lean ====
section
/-! DEFINITION. The class of every ERR_STICKY bit (R512 and the tables of each block's chapter), FAULT_ACTIVE and FAULT_N
(R514), and the pins that follow page interrupts.
Readings: log entries 11, 13 (DESIGN CHOICE). -/

namespace Sys2Proof.Machine

/-- Class of the block-specific bit `b` of page `p`: 0 INFO, 1 DEGRADE, 2 FAULT, 3 FATAL. -/
def blockClass (p b : Nat) : Nat :=
  if P.RFE 0 ≤ p ∧ p ≤ P.RFE 15 then (if b ≤ 9 then 1 else 0)
  else if p = P.SYN 0 ∨ p = P.SYN 1 then (if b = 10 then 1 else if b = 11 then 2 else 0)
  else if p = P.ANT then (if b ≤ 15 ∨ b = 24 then 1 else if b = 25 ∨ b = 26 then 2 else 0)
  else if p = P.CAL then (if b = 8 ∨ b = 11 then 1 else 0)
  else if P.DFE 0 ≤ p ∧ p ≤ P.DFE 15 then (if b = 8 ∨ b = 11 then 1 else 0)
  else if p = P.ARR 0 ∨ p = P.ARR 1 then (if b ≤ 10 then 1 else 0)
  else if p = P.ACQ then (if b = 9 ∨ b = 12 then 1 else 0)
  else if p = P.COR then (if b = 8 ∨ b = 10 ∨ b = 13 ∨ b = 14 then 1 else 0)
  else if p = P.CHS then (if b = 8 ∨ b = 9 ∨ b = 12 ∨ b = 15 then 1 else 0)
  else if p = P.TBU then (if b = 10 ∨ b = 11 ∨ b = 14 then 1 else if b = 12 then 2 else 0)
  else if P.ETH 0 ≤ p ∧ p ≤ P.ETH 3 then (if b = 8 then 1 else 0)
  else if p = P.PTP then (if b = 9 ∨ b = 10 ∨ b = 13 then 1 else if b = 12 then 2 else 0)
  else if p = P.PAIR then (if b = 8 ∨ b = 10 ∨ b = 11 ∨ b = 12 then 1 else if b = 9 then 2 else 0)
  else if P.CORE 0 ≤ p ∧ p ≤ P.CORE 11 then
    (if b = 8 ∨ b = 10 then 2 else if b = 9 then (if p = P.CORE 10 then 3 else 2) else 0)
  else if p = P.MEM then (if b = 8 then 1 else if b = 10 then 2 else 0)
  else if p = P.DMA then (if b = 8 ∨ b = 10 then 1 else 0)
  else if p = P.NYM then (if b = 9 ∨ b = 10 ∨ b = 13 then 2 else if b = 11 ∨ b = 12 then 1 else 0)
  else if p = P.PMU then (if b = 9 ∨ b = 10 ∨ b = 11 then 1 else 0)
  else if p = P.CLK then (if b = 11 then 1 else 0)
  else if p = P.CMON then (if b ≤ 10 then 2 else 0)
  else if p = P.RTC then (if b = 8 then 1 else 0)
  else if p = P.AON then (if b = 8 then 1 else 0)
  else if p = P.PCIE then (if b = 9 then 1 else 0)
  else if p = P.TOC then (if b = 9 then 3 else 0)
  else 0

/-- Class of an ERR_STICKY bit; the common bits are INFO but for ACCESS (Table of ERR_STICKY). -/
def stickyClass (p b : Nat) : Nat := if b < 8 then (if b = 3 then 1 else 0) else blockClass p b

namespace State

/-- A page's ERR_STICKY holds a bit of class FAULT or FATAL. -/
def pageFault (p : Nat) (w : Word) : Bool := (List.range 32).any fun b => getBits w b 1 = 1 && 2 ≤ stickyClass p b

/-- TOC_STAT.FAULT_ACTIVE (R514). -/
def faultActive (s : State) : Bool := s.rf.any fun e => offOf e.1 = 0x01C && pageFault (pageOf e.1) e.2

/-- FAULT_N: low for an active fault or an escalation; from the isolation point AON holds it (R514); low until the immediate
stage (R529, Table 22-7). -/
def faultN (s : State) : Bool :=
  match s.toc.faultHeld with
  | some v => v
  | none => !(s.faultActive || s.flag F.TOC_STAT_ESC || s.pmu.deviceReset)

/-- TOC_STAT as a read shows it. -/
def tocStatWord (s : State) : Word :=
  putBits (putBits (s.reg R.TOC_STAT) 3 1 (b2n s.faultActive)) 4 6 s.toc.log.length

/-- IRQ_N is low: a page mapped by a vector whose PCIE_PINMASK bit is 1 has an interrupt (R497); high while the pins are forced
(R455, R468). -/
def irqPinLow (s : State) : Bool :=
  !s.pinsForced && (List.range 32).any fun v =>
    s.regBit R.PCIE_PINMASK v && s.flag (F.PCIE_VMAP_EN v) && s.pageIrq (pageNumbered (s.fld (F.PCIE_VMAP_PAGE v)))

end State
end Sys2Proof.Machine
end

