-- ==== Sys2Proof/Machine/Settle.lean ====
section
/-! DEFINITION. What ends every command: its ERR_STICKY transitions go to Tocsin as those of one cycle (R513), and the MSI-X
vectors follow their page interrupts (R497). -/

namespace Sys2Proof.Machine

namespace State

/-- Messages can leave: link up, D0, Bus Master Enable, MSI-X not masked as a whole. -/
def msixOpen (s : State) : Bool :=
  s.flag F.PCIE_STAT_LINK_UP && !(s.flag F.PCIE_STAT_D3HOT) && s.flag F.PCIE_STAT_BME && s.domRuns 8

/-- Vector `v` is masked, by the function mask or its own. -/
def vecMasked (s : State) (v : Nat) : Bool := s.host.msixMask || getBits (s.reg (R.PCIE_MSIX (4 * v + 3))) 0 1 = 1

/-- One vector follows its source (R497). -/
def vecStep (s : State) (h : HostIf) (v : Nat) : HostIf :=
  let src := s.flag (F.PCIE_VMAP_EN v) && s.pageIrq (pageNumbered (s.fld (F.PCIE_VMAP_PAGE v)))
  let send : HostIf := { h with vecSent := h.vecSent.set v ((h.vecSent.getD v 0 + 1) % 2 ^ 32), vecWait := setBit h.vecWait v true, pba := setBit h.pba v false }
  if bit h.pba v then
    if s.vecMasked v || !s.msixOpen then h
    else if src then send
    else { h with pba := setBit h.pba v false, vecWait := setBit h.vecWait v false }
  else if !src then { h with vecWait := setBit h.vecWait v false }
  else if bit h.vecWait v then h
  else if s.vecMasked v then { h with pba := setBit h.pba v true, vecWait := setBit h.vecWait v true }
  else if s.msixOpen then send
  else h

/-- The MSI-X vectors, once MSI-X is enabled. -/
def msixStep (s : State) : State :=
  if s.host.msixEn then { s with host := (List.range 32).foldl s.vecStep s.host } else s

/-- The end of a command. -/
def settle (s : State) : State := s.toTocsin.msixStep

end State
end Sys2Proof.Machine
end

