-- ==== Sys2Proof/Machine/ExecAcq.lean ====
section
/-! DEFINITION. The commands of the acquisition engine (chapter 7). -/

namespace Sys2Proof.Machine

/-- ACQ_JOBPUSH (R165): A write of a descriptor address to ACQ_JOBPUSH posts a job into the queue. -/
def execAcqJobpush (init addr : Nat) (s : State) : Host.Outcome State Fault Refusal :=
  .next (State.settle (s.via init R.ACQ_JOBPUSH fun t => t.acqPush init addr))

/-- ACQ_JOB_TAKE (R167): The engine takes the next queued job when enough pipes are free and checks ownership,
parameters and snapshot. -/
def execAcqJobTake (s : State) : Host.Outcome State Fault Refusal :=
  .next (State.settle (s.acqTake))

/-- ACQ_JOB_FINISH (R181): The pipes of a job finish their search work. -/
def execAcqJobFinish (k : Nat) (s : State) : Host.Outcome State Fault Refusal :=
  .next (State.settle (s.acqFinish k))

/-- ACQ_JOB_RETIRE (R167): A finished job retires in posting order: it writes results and status, hands banks over
and issues seeds. -/
def execAcqJobRetire (s : State) : Host.Outcome State Fault Refusal :=
  .next (State.settle (s.acqRetire))

end Sys2Proof.Machine
end

