-- ==== Sys2Proof/Machine/Carillon.lean ====
section
/-! DEFINITION. Carillon, the channel scheduler: contexts, channel states, planning, paging, loop tasks and their
completion, seeding and re-planning (spec/09_channel_scheduler.md, R216 to R244; R15, R16, R18 of spec/01).
Readings: log entries 43, 44, 73 (DEDUCED). -/

namespace Sys2Proof.Machine

/-- A patch of the hardware part (R235, Table 9-5): `p` holds the eight words of the patch area. -/
def imgPatch (p img : List Word) : List Word :=
  let m := (p.getD 0 0).toNat
  let put := fun (i : List Word) (b o k : Nat) => if bit m b then imgSet i o (p.getD k 0).toNat else i
  let i := put (put img 0 0x1C 1) 1 0x28 2
  let i := put (put i 2 0x68 3) 2 0x6C 4
  let i := put (put i 3 0x70 5) 3 0x74 6
  if bit m 4 then imgPut i 0x00 24 7 (getBits (p.getD 7 0) 0 7) else i

/-- New rates for an image that lies in its context (R228): phases advance at the old rates to the first code epoch after
REF, where the new rates take over. -/
def imgRates (s : State) (img : List Word) (carr code : Option Nat) : List Word :=
  if carr.isNone && code.isNone then img
  else
    let i := match Img.toEpoch img with
      | some n => Img.advance img n (s.streamDiv (Img.stream img))
      | none => img
    imgSet (imgSet i 0x04 (carr.getD (imgW i 0x04).toNat)) 0x10 (code.getD (imgW i 0x10).toNat)

/-- CTL of a completion; a command to the same channel in the same CORR cycle drops its ACTION (R219). -/
def dropAction (same : Bool) (ctl : Nat) : Nat := if same then withBits ctl 4 3 0 else ctl

/-- Every list of `n` elements of a list, in its order. -/
def choose : Nat → List Nat → List (List Nat)
  | 0, _ => [[]]
  | _ + 1, [] => []
  | n + 1, x :: xs => (choose n xs).map (x :: ·) ++ choose (n + 1) xs

namespace State

def chsPut (s : State) (c : Chs) : State := { s with chs := c }

def vcGet (s : State) (v : Nat) : ChsVc := Sparse.get (fun _ => ChsVc.reset) s.chs.vcs v

def vcSet (s : State) (v : Nat) (x : ChsVc) : State :=
  s.chsPut { s.chs with vcs := Sparse.set (fun _ => ChsVc.reset) s.chs.vcs v x }

/-- Channels that are not in their first state, ascending. -/
def vcList (s : State) : List Nat := s.chs.vcs.map (·.1)

/-- Channels of a predicate, ascending. -/
def vcsWith (s : State) (q : ChsVc → Bool) : List Nat := (s.chs.vcs.filter fun e => q e.2).map (·.1)

/-- Show CHS_VCSTAT and CHS_QSTAT. -/
def chsShow (s : State) : State :=
  let d := (s.chs.queue.map fun t => if t.meas then 0 else t.recs.length).foldl (· + ·) 0
  let s1 := (s.setFld F.CHS_VCSTAT_LIVE (s.vcsWith (·.st = 4)).length).setFld F.CHS_VCSTAT_QUEUED
    (s.vcsWith (·.st = 3)).length
  (s1.setFld F.CHS_QSTAT_DEPTH d).setFld F.CHS_QSTAT_HIGH (max d (s1.fld F.CHS_QSTAT_HIGH))

/-- One entry into the eviction FIFO (R224). -/
def evictPush (s : State) (v cause : Nat) : State :=
  if 32 ≤ s.chs.evict.length then (s.satFld F.CHS2_EVOVF_COUNT 1).sticky P.CHS 11
  else s.chsPut { s.chs with evict := s.chs.evict ++ [v + 2 ^ 12 + cause * 2 ^ 13] }

/-- CHS2_EVICT as it reads. -/
def evictWord (s : State) : Word := BitVec.ofNat 32 (s.chs.evict.headD 0)

/-- A read of CHS2_EVICT removes the oldest entry. -/
def evictPop (s : State) : State := s.chsPut { s.chs with evict := s.chs.evict.drop 1 }

/-! ### Contexts (R216) -/

def ctxAddr (s : State) (v o : Nat) : Nat := sramBase + bankSize * s.fld F.CHS_CTXBASE_BANK + 512 * v + o

/-- Unload the slots of a channel without a write-back. -/
def vcUnload (s : State) (x : ChsVc) : State :=
  match x.phys with
  | none => s
  | some k => (List.range x.len).foldl (fun (t : State) j => t.corUnload (k + j)) s

/-- An ownership error on a channel's context (R216). -/
def ctxOwn (s : State) (v : Nat) : State :=
  let x := s.vcGet v
  let s1 := (s.vcUnload x).vcSet v { x with st := 0, pend := false, loc := none, phys := none, out := none, held := false
                                            patch := none, lateCarr := none, lateCode := none }
  (s1.evictPush v 4).sticky P.CHS 12 (v % 256)

/-- Carillon's read of `n` bytes of a context. -/
def ctxRead (s : State) (v o n : Nat) : State × Option (List Byte) :=
  let (s1, r) := s.portRead Init.CHS (s.ctxAddr v o) n
  match r with
  | some b => (s1, some b)
  | none => (s1.ctxOwn v, none)

/-- Carillon's write to a context. -/
def ctxWrite (s : State) (v o : Nat) (bytes : List Byte) : State × Bool :=
  let (s1, ok) := s.portWrite Init.CHS (s.ctxAddr v o) bytes
  if ok then (s1, true) else (s1.ctxOwn v, false)

/-- Replace the bits of `mask` of a context word. -/
def ctxPutBits (s : State) (v o : Nat) (mask w : Word) : State × Bool :=
  match s.ctxRead v o 4 with
  | (s1, none) => (s1, false)
  | (s1, some b) =>
    let old := BitVec.ofNat 32 (leValue b)
    s1.ctxWrite v o (leBytes 4 ((old &&& ~~~mask) ||| (w &&& mask)).toNat)

/-- The image in a context's hardware part. -/
def ctxImage (s : State) (v : Nat) : State × Option (List Word) :=
  let (s1, b) := s.ctxRead v 0 128
  (s1, b.map toWords)

/-- Enter a state of Table 9-3; Carillon keeps STATE, and LOC_V is set only while LIVE. -/
def vcState (s : State) (v st : Nat) : State :=
  let x := s.vcGet v
  let s1 := s.vcSet v { x with st := st }
  let (s2, ok) := s1.ctxPutBits v 0x80 (maskBits 16 3) (BitVec.ofNat 32 (st * 2 ^ 16))
  if ok ∧ st ≠ 4 then (s2.ctxPutBits v 0x8C (maskBits 27 1) 0).1 else s2

/-- Give a channel a place (LOC). -/
def vcPlace (s : State) (v k : Nat) : State :=
  let s1 := s.vcSet v { s.vcGet v with loc := some k }
  (s1.ctxPutBits v 0x8C (maskBits 16 12) (BitVec.ofNat 32 (k * 2 ^ 16 + 2 ^ 27))).1

/-! ### Allocation (R220 to R223) -/

def vcCost (s : State) (x : ChsVc) : Nat := x.len * s.streamCost x.stream

/-- Rank of R221 step 1: the smaller number ranks higher. -/
def vcRank (v : Nat) (x : ChsVc) : Nat := x.cls * 2 ^ 20 + (255 - x.prio) * 2 ^ 12 + v

/-- Budget per unit that plans are made for: that of the CORR clock in force, or of an announced lower point (R239). -/
def planBudget (s : State) : Nat :=
  if s.flag F.CHS_OPP_REQ then min s.corBudget (budgetAt (s.fld F.CHS_OPP_TARGET)) else s.corBudget

/-- Channels planned into unit `u`. -/
def unitVcs (s : State) (u : Nat) : List Nat :=
  s.vcsWith fun x => match x.loc with | some k => k / 8 = u | none => false

/-- Lowest place in unit `u` for a channel when the channels `gone` leave it, under a budget. -/
def unitFit (s : State) (u budget : Nat) (x : ChsVc) (gone : List Nat) : Option Nat :=
  let stay := (s.unitVcs u).filter fun v => !(gone.contains v)
  let used := stay.foldl (fun a v => a + s.vcCost (s.vcGet v)) 0
  if budget < used + s.vcCost x then none
  else
    let busy := stay.flatMap fun v => let y := s.vcGet v; (List.range y.len).map ((y.loc.getD 0) + ·)
    ((List.range (9 - x.len)).map (8 * u + ·)).find? fun k =>
      (List.range x.len).all fun j => !(busy.contains (k + j))

/-- Units of R221 step 2, ascending. -/
def planUnits (s : State) : List Nat :=
  (List.range 256).filter fun u => s.fld F.CHS_UNITS_FIRST ≤ u && u ≤ s.fld F.CHS_UNITS_LAST && s.unitEn u

def firstFit (s : State) (budget : Nat) (x : ChsVc) (units : List Nat) : Option Nat :=
  units.findSome? fun u => s.unitFit u budget x []

/-- Victims that unit `u` offers a channel (R222): the fewest that make room, the lowest-ranked first. -/
def unitVictims (s : State) (u budget : Nat) (x : ChsVc) : Option (List Nat) :=
  let rank := fun v => vcRank v (s.vcGet v)
  let below := (s.unitVcs u).filter fun v =>
    let y := s.vcGet v
    x.cls < y.cls || (y.cls = x.cls && y.prio + s.fld F.CHS_CTL_HYST ≤ x.prio && y.prio < x.prio)
  let order := below.mergeSort fun a b => rank b ≤ rank a
  ((List.range (order.length + 1)).flatMap fun n => choose n order).find? fun g =>
    g ≠ [] && (s.unitFit u budget x g).isSome

/-- The unit and victims for a channel that finds no room: the unit whose highest-ranked victim ranks lowest, the lower
unit on a tie. -/
def preemptChoice (s : State) (budget : Nat) (x : ChsVc) (units : List Nat) : Option (Nat × List Nat) :=
  let rank := fun v => vcRank v (s.vcGet v)
  let top := fun (g : List Nat) => (g.map rank).foldl min (2 ^ 24)
  units.foldl (fun (best : Option (Nat × List Nat)) u =>
    match s.unitVictims u budget x with
    | none => best
    | some g =>
      match best with
      | none => some (u, g)
      | some b => if top b.2 < top g then some (u, g) else best) none

/-- A channel's leaving is complete: next state and eviction entry (Table 9-3). -/
def vcLeave (s : State) (v st : Nat) (cause : Option Nat) : State :=
  let s1 := s.vcState v st
  let s2 := s1.vcSet v { s1.vcGet v with out := none }
  match cause with
  | some c => s2.evictPush v c
  | none => s2

/-- Mark a LIVE channel for page-out (R226). Its place counts as free from now; with nothing loaded it leaves at once. -/
def vcMark (s : State) (v : Nat) (o : ChsOut) : State :=
  let x := s.vcGet v
  let s1 := s.vcSet v { x with loc := none, out := some o }
  if x.phys.isNone then
    match o with
    | .leave st cause => s1.vcLeave v st cause
    | .move => s1.vcSet v { x with loc := none, out := none }
  else s1

/-- A WANT change at a planning pass (R218, Table 9-3). -/
def wantApply (s : State) (v : Nat) : State :=
  let x := s.vcGet v
  if !x.pend then s
  else
    let s1 := s.vcSet v { x with pend := false, inForce := x.want }
    let w := x.want
    if x.st = 4 then
      if w = 0 then s1.vcMark v (.leave 0 none)
      else if w = 1 then s1.vcMark v (.leave 1 none)
      else if w = 4 then s1.vcMark v (.leave 2 none)
      else match x.out with
        | some (.leave _ _) => s
        | _ => s1.vcSet v { x with pend := false, inForce := w, dumps := 0 }
    else if w = 0 then (if x.st = 0 then s1 else s1.vcState v 0)
    else if w = 1 then (if x.st = 3 then s1 else s1.vcState v 1)
    else if w = 4 then s1.vcState v 2
    else if x.st = 0 ∨ x.st = 1 ∨ x.st = 5 then s1.vcState v 3
    else s1

/-- Read slot count and stream of a channel's image; `false` on an ownership error. -/
def vcMeasure (s : State) (v : Nat) : State × Bool :=
  match s.ctxRead v 0 4 with
  | (s1, none) => (s1, false)
  | (s1, some b) =>
    let w := BitVec.ofNat 32 (leValue b)
    (s1.vcSet v { s1.vcGet v with len := getBits w 18 3 + 1, stream := getBits w 12 6 }, true)

/-- A QUEUED channel becomes LIVE: its duty count starts (Table 9-3). -/
def vcLive (s : State) (v : Nat) : State :=
  let s1 := s.vcState v 4
  s1.vcSet v { s1.vcGet v with dumps := 0 }

/-- Place one QUEUED channel (R221, R222). -/
def planOne (budget : Nat) (units : List Nat) (s : State) (v : Nat) : State :=
  let (s1, ok) := s.vcMeasure v
  if !ok then s1
  else
    let x := s1.vcGet v
    match s1.firstFit budget x units with
    | some k => (s1.vcLive v).vcPlace v k
    | none =>
      if s1.flag F.CHS_CTL_PREEMPT then
        match s1.preemptChoice budget x units with
        | none => s1
        | some (u, g) =>
          let order := g.mergeSort fun a b => vcRank b (s1.vcGet b) ≤ vcRank a (s1.vcGet a)
          let place := s1.unitFit u budget x g
          let s2 := order.foldl (fun (t : State) y => t.vcMark y (.leave 3 (some 0))) s1
          match place with
          | some k => (s2.vcLive v).vcPlace v k
          | none => s2
      else s1

/-- Re-planning for a budget (R239, R240): channels above it in their unit, the lowest-numbered slots kept, move in rank
order or are evicted, the lowest rank first. -/
def replan (s : State) (budget cause : Nat) : State :=
  let placed := s.vcsWith (·.loc.isSome)
  let units := (placed.map fun v => ((s.vcGet v).loc.getD 0) / 8).eraseDups
  let place := fun v => (s.vcGet v).loc.getD 0
  let overrun := units.flatMap fun u =>
    let vs := (s.unitVcs u).mergeSort fun a b => place a ≤ place b
    (vs.foldl (fun (a : List Nat × Nat) v =>
      let c := s.vcCost (s.vcGet v)
      if a.2 + c ≤ budget then (a.1, a.2 + c) else (a.1 ++ [v], a.2)) ([], 0)).1
  let byRank := overrun.mergeSort fun a b => vcRank a (s.vcGet a) ≤ vcRank b (s.vcGet b)
  let tooBig := byRank.filter fun v => budget < s.vcCost (s.vcGet v)
  let rest := byRank.filter fun v => s.vcCost (s.vcGet v) ≤ budget
  let s1 := tooBig.reverse.foldl (fun (t : State) v => t.vcMark v (.leave 3 (some cause))) s
  let s2 := rest.foldl (fun (t : State) v => t.vcMark v .move) s1
  let (s3, left) := rest.foldl (fun (a : State × List Nat) v =>
    match a.1.firstFit budget (a.1.vcGet v) a.1.planUnits with
    | some k => (a.1.vcPlace v k, a.2)
    | none => (a.1, v :: a.2)) (s2, [])
  left.foldl (fun (t : State) v => t.vcMark v (.leave 3 (some cause))) s3

/-- Every unit fits the announced point: CHS_OPP.CLEAR (R239). -/
def oppClearCheck (s : State) : State :=
  if s.flag F.CHS_OPP_REQ && !(s.flag F.CHS_OPP_CLEAR) && s.chs.oppTaken then
    let units := (s.loadedSlots.map (· / 8)).eraseDups
    if units.all fun u => s.unitLoad u ≤ budgetAt (s.fld F.CHS_OPP_TARGET) then
      (s.setFlag F.CHS_OPP_CLEAR true).irq P.CHS 1
    else s
  else s

/-- Carillon works: enabled, running and clocked. -/
def chsRuns (s : State) : Bool := s.live P.CHS && s.domRuns 3

/-- PLANNING_PASS (R221). -/
def planningPass (s : State) : State :=
  if s.chsRuns && s.flag F.CHS_CTL_PLACE_EN then
    let s1 := (s.vcsWith (·.pend)).foldl wantApply s
    let s2 := match s1.chs.replan with
      | none => s1
      | some c =>
        let t := s1.replan s1.planBudget c
        t.chsPut { t.chs with replan := none, oppTaken := true }
    let budget := s2.planBudget
    let units := s2.planUnits
    let queued := (s2.vcsWith (·.st = 3)).mergeSort fun a b => vcRank a (s2.vcGet a) ≤ vcRank b (s2.vcGet b)
    ((queued.foldl (planOne budget units) s2).oppClearCheck).chsShow
  else s

/-! ### Paging (R225 to R227, R18) -/

/-- An epoch latch falls within the window of an operation on `n` slots (R18): 500 ns of TBU time per slot. -/
def latchNear (s : State) (n : Nat) : Bool :=
  match (s.trigGet (s.fld F.COR_CTL_EPOCH_DRL)).next with
  | none => false
  | some t => s.nowNs ≤ t && t < s.nowNs + 500 * n

/-- A page operation on `n` slots may start. -/
def pageOk (s : State) (n : Nat) : Bool := s.chsRuns && !s.chs.busy && !(s.latchNear n)

/-- The operation occupies the engine and counts its slots. -/
def pageBegin (s : State) (n : Nat) : State :=
  (s.chsPut { s.chs with busy := true }).addFld F.CHS_PAGECNT_COUNT n

/-- Load an image into consecutive slots, CHAIN_POS 0 upwards (R220): 0, or the answer of the slot that refused. -/
def loadChain (img : List Word) (k : Nat) : Nat → Nat → State → State × Nat
  | 0, _, s => (s, 0)
  | n + 1, j, s =>
    match s.corLoad (k + j) (imgPut img 0x00 21 3 j) with
    | (s1, 0) => loadChain img k n (j + 1) s1
    | (s1, r) => ((List.range j).foldl (fun (t : State) i => t.corUnload (k + i)) s1, r)

/-- A page-in of a channel into the place `k` (R225): refused images make it DORMANT (Table 9-3), a refusal for want of
budget (R184) leaves it QUEUED. -/
def pageInAt (s : State) (v k : Nat) : State :=
  match s.ctxImage v with
  | (s1, none) => s1
  | (s1, some img) =>
    let x := s1.vcGet v
    match loadChain img k x.len 0 s1 with
    | (s2, 0) => s2.vcSet v { s2.vcGet v with phys := some k, held := false, inAt := s2.tbu.samp }
    | (s2, r) =>
      let s3 := s2.vcSet v { s2.vcGet v with loc := none, phys := none, held := false, out := none, patch := none }
      if r = 1 then
        let s4 := s3.vcSet v { s3.vcGet v with want := 1, inForce := 1, pend := false }
        let s5 := (s4.ctxPutBits v 0x80 (maskBits 0 3) 1).1
        (s5.vcState v 1).evictPush v 3
      else s3.vcState v 3

/-- The slots that a channel's place covers hold no image that Carillon tracks (R241). -/
def placeEmpty (s : State) (k len : Nat) : Bool :=
  (s.vcsWith fun y => match y.phys with | some p => p < k + len && k < p + y.len | none => false).isEmpty

/-- PAGE_IN of channel `v`, to its place once that is empty. -/
def pageIn (s : State) (v : Nat) : State :=
  let x := s.vcGet v
  match x.loc with
  | none => s
  | some k =>
    if x.st = 4 && x.phys.isNone && s.placeEmpty k x.len && s.pageOk x.len then
      ((s.pageBegin x.len).pageInAt v k).chsShow
    else s

/-- Write a stopped channel's image back, with a REIMAGE patch and rates that came late (R188, R226, R228, R235), and
empty its slots. `false` on an ownership error. -/
def writeBack (s : State) (v : Nat) : State × Bool :=
  let x := s.vcGet v
  match x.phys with
  | none => (s, false)
  | some k =>
    match s.slotGet k with
    | none => ((s.vcUnload x).vcSet v { x with phys := none, held := false }, true)
    | some y =>
      let i1 := match x.patch with | some p => imgPatch p y.img | none => y.img
      let i2 := imgRates s i1 (x.lateCarr.orElse fun _ => y.pendCarr) (x.lateCode.orElse fun _ => y.pendCode)
      match s.ctxWrite v 0 (wordBytes (i2.take 32)) with
      | (s1, false) => (s1, false)
      | (s1, true) =>
        ((s1.vcUnload x).vcSet v { s1.vcGet v with phys := none, held := false, patch := none, lateCarr := none
                                                   lateCode := none }, true)

/-- After a write-back, what the mark says (Table 9-3). -/
def afterBack (s : State) (v : Nat) : State :=
  match (s.vcGet v).out with
  | some (.leave st cause) => s.vcLeave v st cause
  | some .move => s.vcSet v { s.vcGet v with out := none }
  | none => s

/-- PAGE_OUT of a channel stopped at its boundary. -/
def pageOut (s : State) (v : Nat) : State :=
  let x := s.vcGet v
  if x.held && x.out.isSome && s.pageOk x.len then
    match (s.pageBegin x.len).writeBack v with
    | (s1, true) => (s1.afterBack v).chsShow
    | (s1, false) => s1.chsShow
  else s

/-- SWAP: a page-out followed by a page-in, of the same channel (REIMAGE) or of the one placed there. The operation moves as many
slots as the longer of the two. -/
def pageSwap (s : State) (v : Nat) : State :=
  let x := s.vcGet v
  let next := (s.vcsWith fun y => y.st = 4 && y.phys.isNone && y.loc = x.phys).head?
  let n := match next with
    | some w => if x.out.isNone then x.len else max x.len (s.vcGet w).len
    | none => x.len
  if x.held && s.pageOk n then
    match (s.pageBegin n).writeBack v with
    | (s1, false) => s1.chsShow
    | (s1, true) =>
      if x.out.isNone then
        match x.loc with
        | some k => (s1.pageInAt v k).chsShow
        | none => s1.chsShow
      else
        let s2 := s1.afterBack v
        let k := x.phys.getD 0
        match next with
        | some w =>
          if s2.placeEmpty k (s2.vcGet w).len then (s2.pageInAt w k).chsShow else s2.chsShow
        | none => s2.chsShow
  else s

/-- PAGE_OP_DONE: the engine is free; a stop waits for it (R241). -/
def pageDone (s : State) : State :=
  if s.chs.busy then
    let s1 := (s.chsPut { s.chs with busy := false }).oppClearCheck
    if s1.enabled P.CHS then s1 else s1.setFlag (F.STAT_RUNNING P.CHS) false
  else s

/-! ### Boundaries (R205, R226, R235) -/

/-- The code epoch of the head slot `k` is due, and is a dump boundary. -/
def boundaryNext (s : State) (k : Nat) : Bool :=
  match s.slotGet k with
  | none => false
  | some x =>
    s.live P.COR && s.domRuns 3 && s.slotDue x &&
      Img.dumpCnt (Img.advance x.img x.taken (s.streamDiv (Img.stream x.img))) = 0

/-- The slots of a channel stop at the boundary and hold their image. -/
def vcHold (s : State) (v : Nat) : State :=
  let x := s.vcGet v
  let k := x.phys.getD 0
  let s1 := (List.range x.len).foldl (fun (t : State) j => match t.slotGet (k + j) with
    | some y => t.slotSet (k + j) (some { y with held := true, live := false, acc := List.replicate 14 0, nsamp := 0, nflag := 0 })
    | none => t) s
  s1.vcSet v { x with held := true }

/-- A dump boundary of channel `v` as Carillon takes it: duty count, page-out mark, REIMAGE. `dumped`: the slot pushed a dump at
it. -/
def vcBoundary (s : State) (v : Nat) (dumped : Bool) : State :=
  let x := s.vcGet v
  if x.held || !s.chsRuns then s
  else
    let x1 := { x with dumps := x.dumps + b2n dumped }
    let s1 := s.vcSet v x1
    if x.out.isSome || x.patch.isSome then s1.vcHold v
    else if x.inForce = 3 then
      match s1.ctxRead v 0x88 4 with
      | (s2, none) => s2
      | (s2, some b) =>
        if max 1 (leValue b % 256) ≤ x1.dumps then
          (s2.vcSet v { x1 with loc := none, out := some (.leave 5 none) }).vcHold v
        else s2
    else s1

/-- CODE_EPOCH: the fabric's part, then Carillon's at a dump boundary. -/
def chsCodeEpoch (s : State) (k : Nat) : State :=
  let b := s.boundaryNext k
  let was := match s.slotGet k with | some x => dumps x && s.unitEn (k / 8) | none => false
  let s1 := s.codeEpoch k
  if b then
    (s1.vcsWith (·.phys = some k)).foldl (fun (t : State) v => t.vcBoundary v was) s1
  else s1

/-- DUTY_PERIOD_ELAPSED (Table 9-3): in units of 100 ms since the last page-in. -/
def dutyElapsed (s : State) (v : Nat) : State :=
  let x := s.vcGet v
  if x.st = 5 then
    match s.ctxRead v 0x88 4 with
    | (s1, none) => s1.chsShow
    | (s1, some b) =>
      if max 1 (leValue b / 256 % 256) * 25000000 ≤ (s.tbu.samp + 2 ^ 48 - x.inAt) % 2 ^ 48 then (s1.vcState v 3).chsShow
      else s1
  else s

/-! ### The dump queue (R206, R229, R237) -/

/-- A dump task of channel `v` is delivered or on its way (R231). -/
def vcInFlight (s : State) (v : Nat) : Bool :=
  s.chs.bufs.any fun e => match e.2 with | some b => !b.task.meas && b.task.vc = v | none => false

/-- The next task of a channel tells that records were dropped. -/
def vcDropped (s : State) (v : Nat) : State := s.vcSet v { s.vcGet v with dropped := true }

/-- Number of dump records (TYPE 0) among records. -/
def dumpRecords (l : List (List Byte)) : Nat := (l.filter fun r => leValue (r.take 4) / 2 ^ 12 % 16 = 0).length

/-- Drop the oldest task of the lowest class present, with all of its entries (R16, R237). -/
def queueDrop (s : State) : State :=
  let dumps := s.chs.queue.filter fun t => !t.meas
  let worst := (dumps.map (·.cls)).foldl max 0
  match dumps.find? (·.cls = worst) with
  | none => s
  | some t =>
    let s1 := s.chsPut { s.chs with queue := s.chs.queue.erase t }
    ((s1.satFld F.CHS_DROP_QFULL (dumpRecords t.recs)).vcDropped t.vc).sticky P.CHS 8

/-- DUMP_RECORD_ENQUEUE: the oldest record of the fabric enters the queue. -/
def dumpEnqueue (s : State) : State :=
  match s.cor.out with
  | [] => s
  | r :: rest =>
    let s1 := s.corPut { s.cor with out := rest }
    let n : Nat := (s1.chs.queue.map fun t => if t.meas then 0 else t.recs.length).foldl (· + ·) 0
    let s2 := if 1024 ≤ n then s1.queueDrop else s1
    let same := fun (t : ChsTask) => !t.meas && t.vc = r.vc && t.boundary = r.boundary && !t.formed
    let q := s2.chs.queue
    let q' := if q.any same then q.map fun t => if same t then { t with recs := t.recs ++ [r.bytes] } else t
      else q ++ [⟨false, r.vc, (s2.vcGet r.vc).cls, r.boundary, 0, [r.bytes], [], 0, false⟩]
    (s2.chsPut { s2.chs with queue := q' }).chsShow

/-- The deadline of R229, from the first record and LEN_A of the channel's image. -/
def taskDeadline (s : State) (v boundary : Nat) (rec : List Byte) : Nat :=
  let x := s.vcGet v
  let img := match x.phys.bind s.slotGet with
    | some y => y.img
    | none => toWords (s.sramBytes (s.ctxAddr v 0) 128)
  let rate := leValue ((rec.drop 84).take 4)
  let p := if rate = 0 then 0
    else leValue ((rec.drop 7).take 1) * Img.lenA img * 2 ^ 32 * s.streamDiv (Img.stream img) / rate
  (boundary + p + 576) % 2 ^ 48

/-- DUMP_TASK_FORM: every record of the oldest boundary of channel `v` in the queue is there. A waiting task of a channel
with a task in flight is replaced (R231). -/
def taskForm (s : State) (v : Nat) : State :=
  match s.chs.queue.find? (fun t => !t.meas && t.vc = v && !t.formed) with
  | none => s
  | some t =>
    if s.cor.out.any (fun r => r.vc = v && r.boundary = t.boundary) then s
    else
      let t' := { t with formed := true, deadline := s.taskDeadline v t.boundary (t.recs.headD []) }
      let old := fun (y : ChsTask) => s.vcInFlight v && !y.meas && y.vc = v && y.formed
      let lost := (s.chs.queue.filter old).flatMap (·.recs)
      let q := (s.chs.queue.filter fun y => !(old y)).map fun y => if y = t then t' else y
      let s1 := s.chsPut { s.chs with queue := q }
      let s2 := if lost = [] then s1 else (s1.satFld F.CHS_DROP_VCBUSY lost.length).vcDropped v
      s2.chsShow

/-! ### Measurement tasks and dispatch (R230, R231) -/

/-- Cut a list into parts of eight. -/
def eights {α : Type} : Nat → List α → List (List α)
  | 0, _ => []
  | n + 1, l => if l.isEmpty then [] else l.take 8 :: eights n (l.drop 8)

/-- LATCH_DONE: the table half is written (R208), and measurement tasks are formed from its valid records. -/
def latchDone (s : State) : State :=
  match s.latchWrite with
  | (s1, none) => s1
  | (s1, some c) =>
    if s1.inReset P.CHS ∨ !(s1.domRuns 3) then s1
    else
      let good := c.records.filter fun r => leValue (r.2.take 4) / 2 ^ 12 % 2 = 1
      let cls := s1.fld F.CHS_MEASCFG_CLASS
      let dl := (c.samp + max 1 (s1.fld F.CHS_MEASCFG_DL) * 2500) % 2 ^ 48
      let tasks := (eights 256 good).map fun g =>
        let vcs := g.map fun r => leValue (r.2.take 4) % 4096
        (⟨true, (g.headD (0, [])).1, cls, c.samp, dl, g.map (·.2), vcs, c.epoch, true⟩ : ChsTask)
      (s1.chsPut { s1.chs with queue := s1.chs.queue ++ tasks }).chsShow

def bufGet (s : State) (i : Nat) : Option ChsBuf := Sparse.get (fun _ => none) s.chs.bufs i

def bufSet (s : State) (i : Nat) (b : Option ChsBuf) : State :=
  s.chsPut { s.chs with bufs := Sparse.set (fun _ => none) s.chs.bufs i b }

/-- The buffer of R231: lowest-numbered enabled core that is not held and has one free; its buffer 0 first. -/
def freeBuf (s : State) : Option Nat :=
  (List.range 16).find? fun i =>
    bit (s.fld F.CHS_CORES_MASK) (i / 2) && (s.coreGet (i / 2)).run ≠ .held && (s.bufGet i).isNone

/-- Order of service (R231): class, deadline, then channel or slot position. -/
def taskBefore (a b : ChsTask) : Bool :=
  if a.cls ≠ b.cls then a.cls < b.cls
  else if a.deadline ≠ b.deadline then laterSamp b.deadline a.deadline
  else a.vc ≤ b.vc

/-- TASK_DISPATCH: the next task starts its transfer into the free buffer. -/
def taskDispatch (s : State) : State :=
  if !s.chsRuns then s
  else
    let can := s.chs.queue.filter fun t => t.formed && (t.meas || !(s.vcInFlight t.vc))
    match can, s.freeBuf with
    | t :: ts, some i =>
      let best := ts.foldl (fun b y => if taskBefore b y then b else y) t
      let s1 := s.chsPut { s.chs with queue := s.chs.queue.erase best, seq := (s.chs.seq + 1) % 2 ^ 32
                                      transit := s.chs.transit ++ [i] }
      (s1.bufSet i (some ⟨best, s.chs.seq, false⟩)).chsShow
    | _, _ => s

/-- Later than a 48-bit SAMP count. -/
def pastSamp (s : State) (d : Nat) : Bool :=
  let x := (s.tbu.samp + 2 ^ 48 - d) % 2 ^ 48
  0 < x && x < 2 ^ 47

/-- Store words into a core's X memory, at a byte offset. -/
def xmemStore (s : State) (c off : Nat) (ws : List Word) : State :=
  let k := s.coreGet c
  s.coreSet c { k with xmem := Sparse.setRange 0 k.xmem (off / 4) ws }

/-- Bytes of a core's X memory. -/
def xmemBytes (s : State) (c off n : Nat) : List Byte :=
  wordBytes ((List.range (n / 4)).map fun j => Sparse.get (fun _ => 0) (s.coreGet c).xmem (off / 4 + j))

/-- An event on a fixed interrupt line of a core; a held core discards it (R366, Table 14-5). -/
def coreLine (s : State) (c line : Nat) : State :=
  let k := s.coreGet c
  if k.run = .held then s else s.coreSet c { k with events := setBit k.events line true }

/-- The task buffer of Table 9-4 for a dump task, up to the patch area, which is the loop core's to write. -/
def dumpBuffer (s : State) (b : ChsBuf) (ctx : List Byte) : List Byte :=
  let t := b.task
  let x := s.vcGet t.vc
  leBytes 4 (t.vc + t.cls * 2 ^ 16 + b2n (s.pastSamp t.deadline) * 2 ^ 18 + b2n x.dropped * 2 ^ 19
      + b2n x.abandoned * 2 ^ 20 + t.recs.length % 16 * 2 ^ 24)
    ++ leBytes 4 b.seq ++ leBytes 8 t.deadline ++ leBytes 8 s.tbu.samp ++ leBytes 8 0 ++ ctx

/-- Measurement state of the channels of a measurement task, as last written back; `none` for one whose read fails. -/
def measStates : List Nat → State → State × List (List Byte)
  | [], s => (s, [])
  | v :: vs, s =>
    let (s1, b) := s.ctxRead v 0x90 64
    let (s2, r) := measStates vs s1
    (s2, b.getD (leBytes 64 0) :: r)

/-- The task buffer of Table 9-4 for a measurement task. -/
def measBuffer (s : State) (b : ChsBuf) (sts : List (List Byte)) : List Byte :=
  let t := b.task
  let busy := t.vcs.zipIdx.foldl (fun a e => a + b2n (s.vcInFlight e.1) * 2 ^ e.2) 0
  leBytes 4 (2 ^ 12 + t.cls * 2 ^ 16 + b2n (s.pastSamp t.deadline) * 2 ^ 18 + t.recs.length % 16 * 2 ^ 24)
    ++ leBytes 4 b.seq ++ leBytes 8 t.deadline ++ leBytes 8 s.tbu.samp
    ++ leBytes 4 (t.epoch % 256 + t.epoch % 2 * 2 ^ 8 + busy * 2 ^ 16) ++ leBytes 4 0
    ++ (List.zip t.recs sts).flatMap fun e => e.1 ++ e.2

/-- TASK_DELIVERED: the oldest transfer completes and the core's task-ready line is raised. -/
def taskDelivered (s : State) : State :=
  match s.chs.transit with
  | [] => s
  | i :: rest =>
    let s0 := s.chsPut { s.chs with transit := rest }
    match s0.bufGet i with
    | none => s0
    | some b =>
      let off := 0xF000 + 0x800 * (i % 2)
      let finish := fun (t : State) (bytes : List Byte) =>
        ((t.xmemStore (i / 2) off (toWords bytes)).bufSet i (some { b with delivered := true })).coreLine (i / 2) (i % 2)
      if b.task.meas then
        let (s1, sts) := measStates b.task.vcs s0
        finish s1 (s1.measBuffer b sts)
      else
        match s0.ctxRead b.task.vc 0x80 384 with
        | (s1, none) => s1.bufSet i none
        | (s1, some ctx) =>
          let t := (finish s1 (s1.dumpBuffer b ctx)).xmemStore (i / 2) (off + 0x1C0) (toWords b.task.recs.flatten)
          t.vcSet b.task.vc { t.vcGet b.task.vc with dropped := false, abandoned := false }

/-! ### Task completion (R228, R233 to R236) -/

/-- Apply new rates wherever the image is (R228). -/
def vcRates (s : State) (v : Nat) (carr code : Option Nat) : State :=
  if carr.isNone && code.isNone then s
  else
    let x := s.vcGet v
    match x.phys with
    | some k =>
      if x.held then
        s.vcSet v { x with lateCarr := carr.orElse fun _ => x.lateCarr, lateCode := code.orElse fun _ => x.lateCode }
      else
        match s.slotGet k with
        | some y => s.slotSet k (some { y with pendCarr := carr.orElse fun _ => y.pendCarr
                                               pendCode := code.orElse fun _ => y.pendCode })
        | none => s
    | none =>
      match s.ctxImage v with
      | (s1, none) => s1
      | (s1, some img) => (s1.ctxWrite v 0 (wordBytes (imgRates s1 img carr code))).1

/-- Set a channel's WANT, which the next planning pass takes. -/
def vcWant (s : State) (v w : Nat) : State × Bool :=
  match s.ctxPutBits v 0x80 (maskBits 0 3) (BitVec.ofNat 32 w) with
  | (s1, false) => (s1, false)
  | (s1, true) => (s1.vcSet v { s1.vcGet v with want := w, pend := true }, true)

/-- ACTION of a completion. -/
def vcAction (s : State) (v act : Nat) (patch : List Word) : State :=
  match act with
  | 1 => (s.vcWant v 1).1
  | 2 => (s.vcWant v 4).1
  | 3 => if (s.vcGet v).st = 4 then s.vcSet v { s.vcGet v with patch := some patch } else s
  | 4 => (s.vcWant v 0).1
  | _ => s

/-- Count a completed task of a class, late ones in CHS_MISSc (R236). A measurement task has no channel for
ERR_INFO.DETAIL: a free value stands there. -/
def taskCount (s : State) (t : ChsTask) : State :=
  let s1 := s.addFld (F.CHS_TASK_COUNT t.cls) 1
  if s1.pastSamp t.deadline then
    let s2 := s1.satFld (F.CHS_MISS_COUNT t.cls) 1
    let (v, s3) := if t.meas then s2.fresh else (BitVec.ofNat 64 t.vc, s2)
    if t.cls = 0 then (s3.irq P.CHS 4).sticky P.CHS 9 (v.toNat % 256) else s3.sticky P.CHS 10 (v.toNat % 256)
  else s1

/-- A write to CHS_CMPLc CTL (R233, R234). -/
def cmplWrite (s : State) (init c w : Nat) : State :=
  let off := 0x108 + 16 * c
  if init ≠ c + 1 then s.stickyAt P.CHS 3 off true init 0
  else
    let v := BitVec.ofNat 32 w
    let i := 2 * c + getBits v 0 1
    match s.bufGet i with
    | none => s.stickyAt P.CHS 14 off true init 0
    | some b =>
      if !b.delivered then s.stickyAt P.CHS 14 off true init 0
      else if b.task.meas then ((s.taskCount b.task).bufSet i none).chsShow
      else
        let ch := b.task.vc
        let base := 0xF000 + 0x800 * (i % 2)
        let s1 := if getBits v 3 1 = 1 then (s.ctxWrite ch 0x90 (s.xmemBytes c (base + 0x30) 368)).1 else s
        let pick := fun k (r : Nat) => if getBits v k 1 = 1 then some (s.reg r).toNat else none
        let s2 := s1.vcRates ch (pick 1 (R.CHS_CMPL_CARR c)) (pick 2 (R.CHS_CMPL_CODE c))
        let s3 := s2.vcAction ch (getBits v 4 3) (toWords (s.xmemBytes c (base + 0x1A0) 32))
        ((s3.taskCount b.task).bufSet i none).chsShow

/-- A loop core is reset: its delivered tasks are abandoned (R236); one on its way to it is too. -/
def chsCoreReset (s : State) (c : Nat) : State :=
  [2 * c, 2 * c + 1].foldl (fun (t : State) i =>
    match t.bufGet i with
    | none => t
    | some b =>
      let t1 := (t.bufSet i none).satFld F.CHS_ABANDON_COUNT 1
      let t2 := t1.chsPut { t1.chs with transit := t1.chs.transit.filter (· ≠ i) }
      if b.task.meas then t2 else t2.vcSet b.task.vc { t2.vcGet b.task.vc with abandoned := true }) s

/-! ### Commands (R242) -/

/-- A write to CHS_VCCMD: refused while BUSY; the command's result shows at once and BUSY until CMD_DONE. -/
def vcCmd (s : State) (init : Nat) (run : State → State × Nat) : State :=
  if s.flag F.CHS_VCSTAT2_BUSY then s.stickyAt P.CHS 13 0x090 true init 0
  else
    let (s1, r) := run s
    ((s1.setFlag F.CHS_VCSTAT2_BUSY true).setFld F.CHS_VCSTAT2_RESULT r).chsShow

def cmdSetWant (v w : Nat) (s : State) : State × Nat :=
  if 4 < w then (s, 1)
  else match s.vcWant v w with
    | (s1, true) => (s1, 0)
    | (s1, false) => (s1, 3)

def cmdSetRank (v cls prio : Nat) (s : State) : State × Nat :=
  match s.ctxPutBits v 0x80 (maskBits 4 2 ||| maskBits 8 8) (BitVec.ofNat 32 (cls % 4 * 16 + prio % 256 * 256)) with
  | (s1, false) => (s1, 3)
  | (s1, true) => (s1.vcSet v { s1.vcGet v with cls := cls % 4, prio := prio % 256 }, 0)

/-- The staging registers CHS2_STAGE. -/
def stage (s : State) (k n : Nat) : List Word := (List.range n).map fun j => s.reg (R.CHS2_STAGE (k + j))

def cmdPutHw (v : Nat) (s : State) : State × Nat :=
  if (s.vcGet v).st = 4 then (s, 2)
  else match s.ctxWrite v 0 (wordBytes (s.stage 0 32)) with
    | (s1, true) => (s1, 0)
    | (s1, false) => (s1, 3)

/-- PUT_CB: the control block except STATE, LOC and LOC_V; a WANT of 5 to 7 is refused. -/
def cmdPutCb (v : Nat) (s : State) : State × Nat :=
  let w := s.stage 32 4
  let w0 := w.getD 0 0
  if 4 < getBits w0 0 3 then (s, 1)
  else
    match s.ctxRead v 0x80 16 with
    | (s1, none) => (s1, 3)
    | (s1, some b) =>
      let old := toWords b
      let keep := fun (k : Nat) (m : Word) => (w.getD k 0 &&& ~~~m) ||| (old.getD k 0 &&& m)
      let new := [keep 0 (maskBits 16 3), w.getD 1 0, w.getD 2 0, keep 3 (maskBits 16 12)]
      match s1.ctxWrite v 0x80 (wordBytes new) with
      | (s2, false) => (s2, 3)
      | (s2, true) =>
        (s2.vcSet v { s2.vcGet v with want := getBits w0 0 3, cls := getBits w0 4 2, prio := getBits w0 8 8
                                      pend := true }, 0)

def cmdGet (v : Nat) (s : State) : State × Nat :=
  match s.ctxRead v 0 144 with
  | (s1, none) => (s1, 3)
  | (s1, some b) =>
    ((toWords b).zipIdx.foldl (fun (t : State) e => t.setReg (R.CHS2_STAGE e.2) e.1) s1, 0)

/-- A write of the whole word (REGISTER_WRITE of CHS_VCCMD). -/
def vcCmdWord (s : State) (init w : Nat) : State :=
  let v := w % 4096
  let arg := w / 2 ^ 16 % 2 ^ 16
  s.vcCmd init (match w / 2 ^ 12 % 16 with
    | 1 => cmdSetWant v (arg % 8)
    | 2 => cmdSetRank v (arg % 4) (arg / 256)
    | 3 => cmdPutHw v
    | 4 => cmdPutCb v
    | 5 => cmdGet v
    | _ => fun t => (t, 1))

/-- CMD_DONE. -/
def cmdDone (s : State) : State :=
  if s.flag F.CHS_VCSTAT2_BUSY then (s.setFlag F.CHS_VCSTAT2_BUSY false).irq P.CHS 2 else s

/-! ### Seeding (R238) -/

/-- The rewritten hardware part, for a seed whose T0 is the SAMP count `ref`. -/
def seedImage (s : State) (img : List Word) (ratio : Nat) (x : Seed) (ref : Nat) : List Word :=
  let div := s.streamDiv (Img.stream img)
  let r : Nat := 250000000 / div
  let carr := roundDiv (x.doppler * (2 ^ 32 : Nat)) (16 * r)
  let code : Int := (Img.codeRate img : Int) + roundDiv (x.doppler * (ratio : Int)) (16 * r)
  let i := imgSet (imgSet img 0x04 (unsigned 32 carr)) 0x10 (unsigned 32 code)
  Img.withPhase i 0 (x.code / 256 * 2 ^ 32 + x.code % 256 * 2 ^ 24) 0 0 0 ref

/-- SEEDING_EVENT: the oldest seed of the acquisition engine reaches Carillon. -/
def seeding (s : State) : State :=
  match s.acq.seeds with
  | [] => s
  | x :: rest =>
    let s0 := s.acqPut { s.acq with seeds := rest }
    let refuse := fun (t : State) => t.addFld F.CHS_SEEDCNT_REFUSED 1
    if !(s0.flag F.CHS_CTL_SEED_EN) || (s0.vcGet x.vc).st ≠ 2 || !(s0.live P.CHS) then refuse s0
    else
      match s0.ctxRead x.vc 0 144 with
      | (s1, none) => refuse s1
      | (s1, some b) =>
        let ws := toWords b
        let img := ws.take 32
        let minPk := getBits (ws.getD 35 0) 0 16
        let young := s1.nowFrac ≤ x.t0 + 2500000000 * 65536
        if minPk ≤ x.ratio && s1.flag (F.XBAR_SRC_EN (Img.stream img)) && young then
          match s1.ctxWrite x.vc 0 (wordBytes (s1.seedImage img (ws.getD 33 0).toNat x (s1.sampAt x.t0))) with
          | (s2, false) => refuse s2
          | (s2, true) =>
            let s3 := (s2.ctxPutBits x.vc 0x80 (maskBits 0 3) 2).1
            let s4 := s3.vcSet x.vc { s3.vcGet x.vc with want := 2, inForce := 2, pend := false }
            (((s4.vcState x.vc 3).addFld F.CHS_SEEDCNT_ACCEPTED 1).irq P.CHS 3).chsShow
        else refuse s1

/-! ### Announcements, start, stop and reset (R217, R239 to R241) -/

/-- OPP_ANNOUNCE: the PMU announces a lower operating point. -/
def oppAnnounce (s : State) (target : Nat) : State :=
  let s1 := ((s.setFld F.CHS_OPP_TARGET target).setFlag F.CHS_OPP_REQ true).setFlag F.CHS_OPP_CLEAR false
  s1.chsPut { s1.chs with replan := some 1, oppTaken := false }

/-- The announcement is over: the clock has changed. -/
def oppOver (s : State) : State :=
  let s1 := (s.setFlag F.CHS_OPP_REQ false).setFlag F.CHS_OPP_CLEAR false
  s1.chsPut { s1.chs with oppTaken := false }

/-- A stream-rate change at the epoch (R240): R185 at once, relocation at the next pass. -/
def ratesChanged (s : State) : State :=
  let s1 := s.corFit
  if s1.live P.CHS ∧ s1.chs.replan.isNone then s1.chsPut { s1.chs with replan := some 2 } else s1

/-- STATE that a WANT gives at enable (R217). -/
def stateOfWant (w : Nat) : Nat := match w with | 1 => 1 | 2 => 3 | 3 => 3 | 4 => 2 | _ => 0

/-- Take one channel's control block at enable. -/
def chsTake (s : State) (v : Nat) : State :=
  match s.ctxRead v 0x80 16 with
  | (s1, none) => s1
  | (s1, some b) =>
    let w := (toWords b).getD 0 0
    let old := s1.vcGet v
    let s2 := s1.vcSet v { ChsVc.reset with
      want := getBits w 0 3, inForce := getBits w 0 3, cls := getBits w 4 2, prio := getBits w 8 8
      dropped := old.dropped, abandoned := old.abandoned }
    let s3 := s2.vcState v (stateOfWant (getBits w 0 3))
    (s3.ctxPutBits v 0x8C (maskBits 27 1) 0).1

/-- Channels whose contexts are listed in memory or unreadable: the others are OFF with WANT 0 (R217). -/
def chsTouched (s : State) : List Nat :=
  let base := s.ctxAddr 0 0
  let listed := ((s.mem.sram.filter fun c => base ≤ c.1 && c.1 < base + 512 * 4096).map fun c => (c.1 - base) / 512).eraseDups
  (List.range 8).flatMap fun j =>
    let b := s.fld F.CHS_CTXBASE_BANK + j
    if b < 96 ∧ s.bankRight Init.CHS b false then listed.filter fun v => v / 512 = j
    else (List.range 512).map (512 * j + ·)

/-- ENABLE = 1. -/
def chsStart (s : State) : State :=
  if s.running P.CHS then s
  else
    let marks := s.chs.vcs.filterMap fun e =>
      if e.2.dropped || e.2.abandoned then
        some (e.1, { ChsVc.reset with dropped := e.2.dropped, abandoned := e.2.abandoned }) else none
    let s1 := s.chsPut { s.chs with vcs := marks, replan := none }
    ((s1.chsTouched.foldl chsTake s1).setFlag (F.STAT_RUNNING P.CHS) true).chsShow

/-- ENABLE = 0: the stop point is the end of the page operation in progress. -/
def chsStop (s : State) : State := if s.chs.busy then s else s.setFlag (F.STAT_RUNNING P.CHS) false

/-- The images in slots that satisfy a predicate are lost (a soft reset of the fabric, R211): Carillon loads the channels again
from their contexts, and a channel marked to leave has left. -/
def chsLost (s : State) (q : Nat → Bool) : State :=
  (s.vcsWith fun y => match y.phys with | some k => q k | none => false).foldl (fun (t : State) v =>
    let x := t.vcGet v
    let t1 := (t.vcSet v { x with phys := none, held := false, patch := none, lateCarr := none, lateCode := none }).vcRates v
      x.lateCarr x.lateCode
    match x.out with
    | some (.leave st cause) => t1.vcLeave v st cause
    | _ => t1.vcSet v { t1.vcGet v with out := none }) s

/-- Soft reset: the queue empties, delivered tasks are abandoned, every slot is taken as empty. -/
def chsReset (s : State) : State :=
  let s1 := (List.range 8).foldl chsCoreReset s
  s1.chsPut { Chs.reset with vcs := s1.chs.vcs.filterMap fun e =>
    if e.2.abandoned then some (e.1, { ChsVc.reset with abandoned := true }) else none }

end State

end Sys2Proof.Machine
end

