-- ==== Sys2Proof/Machine/SwialeOp.lean ====
section
/-! DEFINITION. The instructions of the Swiale cores and their encodings (R376 to R378, Tables 15-1 and 15-3 to 15-8).
Readings: log entry 38 (DEDUCED). -/

namespace Sys2Proof.Machine

/-- A Swiale instruction with its operands: one constructor per mnemonic of chapter 15. SZ is the size code of R378; `pm`
is PM; `a` and `m` are register numbers; offsets and literals are signed where Table 15-1 says so. -/
inductive SwOp where
  | nop | dup | drop | swapT | overT | rot
  | pick (f : Nat)
  | add | sub | adds | subs | and | or | xor | not | neg | abs | min | max | slt | sltu | mul | mulh | mulhu
  | shl (f : Nat) | shr (f : Nat) | sar (f : Nat)
  | shlv | shrv | sarv
  | sext (f : Nat)
  | exp | norm | jr | callr | ret | rti | fence | wait
  | trap (f : Nat)
  | lpop
  | pushi (v : Int)
  | pusha (n : Nat) | popa (n : Nat) | pushm (n : Nat) | popm (n : Nat) | pushl (n : Nat) | popl (n : Nat)
  | adda (n : Nat) (v : Int)
  | pushl24 (v : Int) | lui (v : Nat) | addi (v : Int)
  | ld (sz a m : Nat) (pm : Bool) | st (sz a m : Nat) (pm : Bool)
  | ldx (y : Bool) (sz off : Nat) | stx (y : Bool) (sz off : Nat)
  | ldf (sz : Nat) (disp : Int) | stf (sz : Nat) (disp : Int)
  | mac (acc ax ay mx my : Nat) | msu (acc ax ay mx my : Nat)
  | mpy (acc ax ay mx my : Nat) | mpyn (acc ax ay mx my : Nat)
  | clr (acc : Nat) | macs (acc : Nat) | msus (acc : Nat) | mpys (acc : Nat)
  | lda (acc s : Nat) | accadd (acc s : Nat) | accsub (acc s : Nat)
  | nega (acc : Nat) | mova (acc : Nat)
  | sra (acc s : Nat)
  | expa (acc : Nat) | norma (acc : Nat) | pushal (acc : Nat) | pushah (acc : Nat) | pushag (acc : Nat) | popacc (acc : Nat)
  | stacc (acc dest a m : Nat) (pm : Bool) (s : Nat)
  | beq (off : Int) | bne (off : Int) | blt (off : Int) | bge (off : Int) | bltu (off : Int) | bgeu (off : Int)
  | bz (off : Int) | bnz (off : Int) | bneg (off : Int) | br (off : Int)
  | call (off : Int)
  | loop (count endOff : Nat) | loopt (endOff : Nat) | rep (n : Nat) | rept
  | mfcr (cr : Nat) | mtcr (cr : Nat)
deriving DecidableEq, Repr

/-- Table 15-3: S0 by OP and F. -/
def swS0 (op f : Nat) : Option SwOp :=
  let z := fun (o : SwOp) => if f = 0 then some o else none
  let r := fun (hi : Nat) (o : SwOp) => if f ≤ hi then some o else none
  match op with
  | 0x01 => z .nop | 0x02 => z .dup | 0x03 => z .drop | 0x04 => z .swapT | 0x05 => z .overT | 0x06 => z .rot
  | 0x07 => r 7 (.pick f)
  | 0x08 => z .add | 0x09 => z .sub | 0x0A => z .adds | 0x0B => z .subs
  | 0x0C => z .and | 0x0D => z .or | 0x0E => z .xor | 0x0F => z .not | 0x10 => z .neg | 0x11 => z .abs
  | 0x12 => z .min | 0x13 => z .max | 0x14 => z .slt | 0x15 => z .sltu
  | 0x16 => z .mul | 0x17 => z .mulh | 0x18 => z .mulhu
  | 0x19 => r 31 (.shl f) | 0x1A => r 31 (.shr f) | 0x1B => r 31 (.sar f)
  | 0x1C => z .shlv | 0x1D => z .shrv | 0x1E => z .sarv
  | 0x1F => r 30 (.sext f)
  | 0x20 => z .exp | 0x21 => z .norm
  | 0x30 => z .jr | 0x31 => z .callr | 0x32 => z .ret | 0x33 => z .rti | 0x34 => z .fence | 0x35 => z .wait
  | 0x36 => some (.trap f)
  | 0x37 => z .lpop
  | _ => none

/-- Table 15-4, S4 forms: OP, N, IMM6. -/
def swS4 (op n imm : Nat) : Option SwOp :=
  let z := fun (o : SwOp) => if imm = 0 then some o else none
  match op with
  | 0 => z (.pusha n) | 1 => z (.popa n) | 2 => z (.pushm n) | 3 => z (.popm n) | 4 => z (.pushl n) | 5 => z (.popl n)
  | 6 => some (.adda n (signed 6 imm))
  | _ => none

/-- Table 15-6, S5 forms: OP, ACC, F. -/
def swS5 (op acc f : Nat) : Option SwOp :=
  let z := fun (o : SwOp) => if f = 0 then some o else none
  let sh := fun (o : SwOp) => if f < 64 then some o else none
  match op with
  | 0 => z (.clr acc) | 1 => z (.macs acc) | 2 => z (.msus acc) | 3 => z (.mpys acc)
  | 4 => sh (.lda acc f) | 5 => sh (.accadd acc f) | 6 => sh (.accsub acc f)
  | 7 => z (.nega acc) | 8 => z (.mova acc)
  | 9 => sh (.sra acc f)
  | 10 => z (.expa acc) | 11 => z (.norma acc) | 12 => z (.pushal acc) | 13 => z (.pushah acc) | 14 => z (.pushag acc)
  | 15 => z (.popacc acc)
  | _ => none

/-- A short form (Table 15-1). -/
def swShort (h : Nat) : Option SwOp :=
  let b := fun lsb width => h / 2 ^ lsb % 2 ^ width
  match b 12 4 with
  | 0 => swS0 (b 6 6) (b 0 6)
  | 1 => some (.pushi (signed 12 (b 0 12)))
  | 2 =>
    if b 0 1 = 0 ∧ b 8 3 ≤ 4 ∧ (b 1 1 = 1 ∨ b 2 3 = 0) then
      some (if b 11 1 = 0 then .ld (b 8 3) (b 5 3) (b 2 3) (b 1 1 = 1) else .st (b 8 3) (b 5 3) (b 2 3) (b 1 1 = 1))
    else none
  | 3 =>
    match b 9 3 with
    | 0 => some (.mac (b 8 1) (b 6 2) (4 + b 4 2) (b 2 2) (4 + b 0 2))
    | 1 => some (.msu (b 8 1) (b 6 2) (4 + b 4 2) (b 2 2) (4 + b 0 2))
    | 2 => some (.mpy (b 8 1) (b 6 2) (4 + b 4 2) (b 2 2) (4 + b 0 2))
    | 3 => some (.mpyn (b 8 1) (b 6 2) (4 + b 4 2) (b 2 2) (4 + b 0 2))
    | _ => none
  | 4 => swS4 (b 9 3) (b 6 3) (b 0 6)
  | 5 => swS5 (b 8 4) (b 7 1) (b 0 7)
  | _ => none

/-- Table 15-7, MAJ 1: branches by COND. -/
def swBranch (cond : Nat) (off : Int) : Option SwOp :=
  match cond with
  | 0 => some (.beq off) | 1 => some (.bne off) | 2 => some (.blt off) | 3 => some (.bge off)
  | 4 => some (.bltu off) | 5 => some (.bgeu off)
  | 6 => some (.bz off) | 7 => some (.bnz off) | 8 => some (.bneg off) | 9 => some (.br off)
  | _ => none

/-- Table 15-7, MAJ 3: LOOP, LOOPT, REP, REPT by [25:24]. -/
def swLoop (kind v : Nat) : Option SwOp :=
  match kind with
  | 0 => some (.loop (v / 4096) (v % 4096))
  | 1 => if v / 4096 = 0 then some (.loopt (v % 4096)) else none
  | 2 => if 1 ≤ v ∧ v ≤ 4096 then some (.rep v) else none
  | _ => if v = 0 then some .rept else none

/-- A long form (Tables 15-4 to 15-8). The fields that a form of STACC does not use, and Mm where PM = 0, are 0 (R378; DEDUCED, log
entry 38). -/
def swLong (w : Nat) : Option SwOp :=
  let b := fun lsb width => w / 2 ^ lsb % 2 ^ width
  match b 26 4 with
  | 0 =>
    match b 24 2 with
    | 0 => some (.pushl24 (signed 24 (b 0 24)))
    | 1 => some (.lui (b 0 24))
    | 2 => some (.addi (signed 24 (b 0 24)))
    | _ => none
  | 1 => if b 17 5 = 0 then swBranch (b 22 4) (signed 17 (b 0 17)) else none
  | 2 => if b 17 9 = 0 then some (.call (signed 17 (b 0 17))) else none
  | 3 => swLoop (b 24 2) (b 0 24)
  | 4 => if b 5 20 = 0 ∧ b 0 5 ≤ 17 then some (if b 25 1 = 0 then .mfcr (b 0 5) else .mtcr (b 0 5)) else none
  | 5 =>
    if b 6 10 = 0 ∧ b 0 6 ≤ 40 ∧ b 23 2 ≤ 2 ∧ (if b 23 2 = 1 then b 16 1 = 1 ∨ b 17 3 = 0 else b 16 7 = 0) then
      some (.stacc (b 25 1) (b 23 2) (b 20 3) (b 17 3) (b 16 1 = 1) (b 0 6))
    else none
  | 6 =>
    if b 16 5 = 0 ∧ b 21 3 ≤ 4 then
      some (if b 24 1 = 0 then .ldx (b 25 1 = 1) (b 21 3) (b 0 16) else .stx (b 25 1 = 1) (b 21 3) (b 0 16))
    else none
  | 7 =>
    if b 16 6 = 0 ∧ b 22 3 ≤ 4 then
      some (if b 25 1 = 0 then .ldf (b 22 3) (signed 16 (b 0 16)) else .stf (b 22 3) (signed 16 (b 0 16)))
    else none
  | _ => none

/-- A long form, by its first halfword (R376). -/
def swIsLong (h0 : Nat) : Bool := 0xC000 ≤ h0

/-- Length in bytes by the first halfword. -/
def swLen (h0 : Nat) : Nat := if swIsLong h0 then 4 else 2

/-- The instruction of a halfword and, for a long form, the one after it; `none` where R378 gives ILLEGAL. -/
def swDecode (h0 h1 : Nat) : Option SwOp := if swIsLong h0 then swLong (h0 * 2 ^ 16 + h1) else swShort h0

/-- Transferring instructions: those with a delay slot (R387). -/
def SwOp.transfers : SwOp → Bool
  | .jr | .callr | .ret | .beq _ | .bne _ | .blt _ | .bge _ | .bltu _ | .bgeu _ | .bz _ | .bnz _ | .bneg _ | .br _
  | .call _ => true
  | _ => false

/-- Loop set-ups and REP forms. -/
def SwOp.loops : SwOp → Bool
  | .loop _ _ | .loopt _ | .rep _ | .rept => true
  | _ => false

/-- What a delay slot must not hold (R387). -/
def SwOp.notInSlot (o : SwOp) : Bool :=
  o.transfers || o.loops || (match o with | .rti | .lpop | .wait | .trap _ => true | _ => false)

/-- What REP may repeat (R391). -/
def SwOp.repeatable : SwOp → Bool
  | .jr | .callr | .ret | .rti | .fence | .wait | .trap _ | .lpop | .ldf _ _ | .stf _ _ | .mfcr _ | .mtcr _ => false
  | .stacc _ dest _ _ _ _ => decide (dest ≠ 2)
  | o => !(o.transfers || o.loops)

/-- Core cycles of the timing class (Table 15-2), before spills and fills. -/
def SwOp.cycles : SwOp → Nat
  | .rti | .loop _ _ | .loopt _ | .mtcr 1 | .mtcr 2 | .mtcr 3 | .mtcr 4 => 2
  | _ => 1

/-- Bytes of size code SZ (R378). -/
def swSize (sz : Nat) : Nat := if sz = 0 then 4 else if sz ≤ 2 then 2 else 1

/-- A load of size code SZ sign-extends. -/
def swSigned (sz : Nat) : Bool := sz = 1 || sz = 3

end Sys2Proof.Machine
end

