-- ==== Sys2Proof/Machine/Swiale.lean ====
section
/-! DEFINITION. What each Swiale instruction does to its core (chapters 14 and 15): the stacks with spill and fill,
the address registers, the accumulators, loops and REP, transfers with their delay slot, and the completion of an
instruction. An exception is the `error` of these functions; `State.coreRaise` takes it.
Readings: log entry 38 (DEDUCED). -/

namespace Sys2Proof.Machine

/-- A synchronous exception: its code (Table 14-6) and the value of EADDR where one is stated; EADDR keeps its value
otherwise (DEDUCED, log entry 30). -/
structure Exn where
  code : Nat
  addr : Option Nat
deriving DecidableEq, Repr

/-- Where execution goes after an instruction: to the next one; through a delay slot to a target, when taken; to an
address; nowhere, because the instruction still waits; or into a far load. -/
inductive Flow where
  | next
  | transfer (target : Option Nat)
  | goto (pc : Nat)
  | blocked
  | far (r : LoadReq)
deriving DecidableEq, Repr

/-- The local memories of a core (R351). -/
inductive LocalMem where
  | i | x | y
deriving DecidableEq, Repr

/-- Address of a local memory (Table 2-6). -/
def localBase : LocalMem → Nat
  | .i => 0x10000000
  | .x => 0x10020000
  | .y => 0x10030000

/-- The local memory and offset of an address inside the core's own range (R383). -/
def localOf (a : Nat) : Option (LocalMem × Nat) :=
  if 0x10000000 ≤ a ∧ a < 0x10020000 then some (.i, a - 0x10000000)
  else if 0x10020000 ≤ a ∧ a < 0x10030000 then some (.x, a - 0x10020000)
  else if 0x10030000 ≤ a ∧ a < 0x10040000 then some (.y, a - 0x10030000)
  else none

/-- The integer that a word holds, signed. -/
def wInt (w : Word) : Int := signed 32 w.toNat

/-- The word of an integer, modulo 2^32. -/
def wOf (v : Int) : Word := BitVec.ofInt 32 v

/-- Redundant sign bits of an integer held in `n` bits: 0 and -1 give `n - 1` (R380, R384). -/
def redundant (n : Nat) (v : Int) : Nat :=
  let u := if v < 0 then (-v - 1).toNat else v.toNat
  n - 1 - (if u = 0 then 0 else Nat.log2 u + 1)

/-- `v / 2^s`, rounded to nearest with ties to even (R361). -/
def roundEven (v : Int) (s : Nat) : Int :=
  let d : Int := ((2 ^ s : Nat) : Int)
  let q := v / d
  let r := v - q * d
  if 2 * r > d ∨ (2 * r = d ∧ q % 2 ≠ 0) then q + 1 else q

/-- Address register arithmetic: linear, or circular over a length (R359). -/
def circular (a l : Nat) (m : Int) : Nat :=
  if l = 0 then ((a + m) % 65536).toNat
  else
    let b := a / 2 ^ Nat.log2 (2 * l - 1) * 2 ^ Nat.log2 (2 * l - 1)
    let r : Int := a + m
    let r2 := if r ≥ b + l then r - l else if r < b then r + l else r
    (r2 % 65536).toNat

namespace Core

def mem (k : Core) : LocalMem → List (Nat × Word)
  | .i => k.imem
  | .x => k.xmem
  | .y => k.ymem

def setMem (k : Core) (m : LocalMem) (t : List (Nat × Word)) : Core :=
  match m with
  | .i => { k with imem := t }
  | .x => { k with xmem := t }
  | .y => { k with ymem := t }

/-- The word of a local memory that holds a byte offset. -/
def word (k : Core) (m : LocalMem) (off : Nat) : Word := Sparse.get (fun _ => 0) (k.mem m) (off / 4)

/-- A word of a local memory replaced; its errors go with the old contents. -/
def setWord (k : Core) (m : LocalMem) (off : Nat) (w : Word) : Core :=
  k.setMem m (Sparse.set (fun _ => 0) (k.mem m) (off / 4) w)

/-- A read of 1, 2 or 4 bytes of a local memory as a number (R351, R352): ALIGN where it is not aligned, ECC where the word
has an uncorrectable error; a correctable one is corrected and seen. -/
def readLocal (k : Core) (m : LocalMem) (off size : Nat) : Except Exn (Nat × Core) :=
  let a := localBase m + off
  if off % size ≠ 0 then .error ⟨2, some a⟩
  else if k.eccUnc.contains (a / 4 * 4) then .error ⟨12, some a⟩
  else
    .ok ((k.word m off).toNat / 2 ^ (8 * (off % 4)) % 2 ^ (8 * size),
      if k.eccCorr.contains (a / 4 * 4) then { k with corrSeen := true } else k)

/-- The word of a local memory with 1, 2 or 4 bytes at an offset replaced; a whole word loses its errors. -/
def putLocal (k : Core) (m : LocalMem) (off size v : Nat) : Core :=
  let a := localBase m + off
  let k1 := k.setWord m off (putBits (k.word m off) (8 * (off % 4)) (8 * size) v)
  if size = 4 then { k1 with eccUnc := k1.eccUnc.filter (· ≠ a), eccCorr := k1.eccCorr.filter (· ≠ a) } else k1

/-- A write to a local memory: ACCESS in I memory, ALIGN where it is not aligned (R351, R352). -/
def writeLocal (k : Core) (m : LocalMem) (off size v : Nat) : Except Exn Core :=
  let a := localBase m + off
  if m = .i then .error ⟨3, some a⟩
  else if off % size ≠ 0 then .error ⟨2, some a⟩
  else .ok (k.putLocal m off size v)

/-! ### Operand and return stacks (R357, R358) -/

/-- Push on the operand stack, with a spill when it holds 8 entries. -/
def push (k : Core) (w : Word) : Except Exn Core :=
  if k.stack.length < 8 then .ok { k with stack := w :: k.stack }
  else if k.sp < k.spLo + 4 then .error ⟨4, none⟩
  else do
    let k1 ← k.writeLocal .x (k.sp - 4) 4 (k.stack.getLastD 0).toNat
    pure { k1 with sp := k.sp - 4, stack := w :: k.stack.dropLast, cycle := k.cycle + 1 }

/-- Fill one entry from X memory at SP. -/
def fill (k : Core) : Except Exn Core :=
  if k.sp = k.spHi then .error ⟨5, none⟩
  else do
    let (v, k1) ← k.readLocal .x (k.sp % 65536) 4
    pure { k1 with sp := (k.sp + 4) % 65536, stack := k.stack ++ [BitVec.ofNat 32 v], cycle := k.cycle + 1 }

/-- Fill until `n` operands are there. -/
def need (k : Core) : Nat → Except Exn Core
  | 0 => .ok k
  | n + 1 => do
    let k1 ← k.need n
    if k1.stack.length < n + 1 then k1.fill else pure k1

/-- Take `n` operands, T0 first. -/
def pops (k : Core) (n : Nat) : Except Exn (List Word × Core) := do
  let k1 ← k.need n
  pure (k1.stack.take n, { k1 with stack := k1.stack.drop n })

/-- Take T0. -/
def pop (k : Core) : Except Exn (Word × Core) := do
  let (l, k1) ← k.pops 1
  pure (l.getD 0 0, k1)

/-- Push several values, the first of the list first. -/
def pushes (k : Core) : List Word → Except Exn Core
  | [] => .ok k
  | w :: ws => do
    let k1 ← k.push w
    k1.pushes ws

/-- Push on the return stack, with a spill when it holds 16 entries. -/
def rpush (k : Core) (w : Word) : Except Exn Core :=
  if k.rstack.length < 16 then .ok { k with rstack := w :: k.rstack }
  else if k.rsp < k.rspLo + 4 then .error ⟨6, none⟩
  else do
    let k1 ← k.writeLocal .y (k.rsp - 4) 4 (k.rstack.getLastD 0).toNat
    pure { k1 with rsp := k.rsp - 4, rstack := w :: k.rstack.dropLast, cycle := k.cycle + 1 }

/-- Pop the return stack, with a fill when it is empty in the core. -/
def rpop (k : Core) : Except Exn (Word × Core) :=
  match k.rstack with
  | w :: ws => .ok (w, { k with rstack := ws })
  | [] =>
    if k.rsp = k.rspHi then .error ⟨7, none⟩
    else do
      let (v, k1) ← k.readLocal .y (k.rsp % 65536) 4
      pure (BitVec.ofNat 32 v, { k1 with rsp := (k.rsp + 4) % 65536, cycle := k.cycle + 1 })

/-- Spill `n` entries of the operand stack, the deepest first. -/
def spillAll (k : Core) : Nat → Except Exn Core
  | 0 => .ok k
  | n + 1 =>
    if k.sp < k.spLo + 4 then .error ⟨4, none⟩
    else do
      let k1 ← k.writeLocal .x (k.sp - 4) 4 (k.stack.getLastD 0).toNat
      spillAll { k1 with sp := k.sp - 4, stack := k.stack.dropLast, cycle := k.cycle + 1 } n

/-- Spill `n` entries of the return stack. -/
def rspillAll (k : Core) : Nat → Except Exn Core
  | 0 => .ok k
  | n + 1 =>
    if k.rsp < k.rspLo + 4 then .error ⟨6, none⟩
    else do
      let k1 ← k.writeLocal .y (k.rsp - 4) 4 (k.rstack.getLastD 0).toNat
      rspillAll { k1 with rsp := k.rsp - 4, rstack := k.rstack.dropLast, cycle := k.cycle + 1 } n

/-- Both stacks brought out to memory before SP, SPLIM, RSP or RSPLIM is written (R365, log entry 31). -/
def settle (k : Core) : Except Exn Core := do
  let k1 ← k.spillAll k.stack.length
  k1.rspillAll k1.rstack.length

/-! ### Address registers and accumulators (R359 to R361) -/

/-- Post-modify An by an amount; a length above 32,768 acts as 32,768 (R381). -/
def modA (k : Core) (n : Nat) (by_ : Int) : Core :=
  { k with a := k.a.set n (circular (k.a.getD n 0) (min 32768 (k.l.getD n 0)) by_) }

/-- Mm as a signed amount. -/
def mOf (k : Core) (m : Nat) : Int := signed 16 (k.m.getD m 0)

/-- The memory and offset that An addresses: X for A0 to A3, Y for A4 to A7. -/
def aMem (n : Nat) : LocalMem := if n < 4 then .x else .y

def accOf (k : Core) (i : Nat) : Int := k.acc.getD i 0

/-- An accumulator written, saturated to 72 bits with OVF (R360). -/
def setAcc (k : Core) (i : Nat) (v : Int) : Core :=
  let c := clampInt (-(2 ^ 71)) (2 ^ 71 - 1) v
  { k with acc := k.acc.set i c, ovf := k.ovf || decide (c ≠ v) }

/-- A value saturated to 32 bits, with SAT (R361, R380). -/
def sat32 (k : Core) (v : Int) : Word × Core :=
  let c := clampInt (-(2 ^ 31)) (2 ^ 31 - 1) v
  (wOf c, { k with sat := k.sat || decide (c ≠ v) })

/-! ### Shapes of instructions -/

/-- ( a b → r ). -/
def bin (k : Core) (f : Word → Word → Word) : Except Exn (Core × Flow) := do
  let (l, k1) ← k.pops 2
  let k2 ← k1.push (f (l.getD 1 0) (l.getD 0 0))
  pure (k2, .next)

/-- ( a b → r ) with saturation. -/
def binSat (k : Core) (f : Int → Int → Int) : Except Exn (Core × Flow) := do
  let (l, k1) ← k.pops 2
  let (r, k2) := k1.sat32 (f (wInt (l.getD 1 0)) (wInt (l.getD 0 0)))
  let k3 ← k2.push r
  pure (k3, .next)

/-- ( a → r ). -/
def un (k : Core) (f : Word → Word) : Except Exn (Core × Flow) := do
  let (w, k1) ← k.pop
  let k2 ← k1.push (f w)
  pure (k2, .next)

/-- ( → v ). -/
def give (k : Core) (w : Word) : Except Exn (Core × Flow) := do
  let k1 ← k.push w
  pure (k1, .next)

/-- ( v → ) with an effect on the core. -/
def take (k : Core) (f : Word → Core → Core) : Except Exn (Core × Flow) := do
  let (w, k1) ← k.pop
  pure (f w k1, .next)

/-- Replace the top `n` entries by a list, pushed first to last. -/
def shuffle (k : Core) (n : Nat) (f : List Word → List Word) : Except Exn (Core × Flow) := do
  let (l, k1) ← k.pops n
  let k2 ← k1.pushes (f l)
  pure (k2, .next)

/-- A value of SZ as a load leaves it on the stack (R378). -/
def extend (sz v : Nat) : Word := if swSigned sz then wOf (signed (8 * swSize sz) v) else BitVec.ofNat 32 v

/-- A local load pushes its value. -/
def loadAt (k : Core) (m : LocalMem) (off sz : Nat) : Except Exn Core := do
  let (v, k1) ← k.readLocal m off (swSize sz)
  k1.push (extend sz v)

/-- A MAC form: `f` gives the accumulator's new value from the old one and the product (R384). -/
def macForm (k : Core) (acc ax ay mx my : Nat) (f : Int → Int → Int) : Except Exn (Core × Flow) := do
  let (x, k1) ← k.readLocal .x (k.a.getD ax 0) 4
  let (y, k2) ← k1.readLocal .y (k.a.getD ay 0) 4
  let p := signed 32 x * signed 32 y
  pure (((k2.setAcc acc (f (k.accOf acc) p)).modA ax (k.mOf mx)).modA ay (k.mOf my), .next)

/-- ( a b → ): `f` gives the accumulator's new value from the old one and `a × b`. -/
def accMul (k : Core) (acc : Nat) (f : Int → Int → Int) : Except Exn (Core × Flow) := do
  let (l, k1) ← k.pops 2
  pure (k1.setAcc acc (f (k.accOf acc) (wInt (l.getD 1 0) * wInt (l.getD 0 0))), .next)

/-- ( a → ): `f` gives the accumulator's new value from the old one and `a × 2^s`. -/
def accShift (k : Core) (acc s : Nat) (f : Int → Int → Int) : Except Exn (Core × Flow) := do
  let (w, k1) ← k.pop
  pure (k1.setAcc acc (f (k.accOf acc) (wInt w * ((2 ^ s : Nat) : Int))), .next)

/-! ### Control flow -/

/-- Halfword of I memory at an even offset. -/
def half (k : Core) (pc : Nat) : Nat := (k.word .i pc).toNat / 2 ^ (8 * (pc % 4)) % 65536

/-- The instruction at an offset with its length: ACCESS for an offset that holds none, or a long form whose second halfword
lies beyond I memory, ECC for a bad word, ILLEGAL for an undefined encoding (R376, R378). -/
def fetch (k : Core) (pc : Nat) : Except Exn (SwOp × Nat × Core) :=
  if pc % 2 ≠ 0 ∨ 0x1FFFE < pc then .error ⟨3, none⟩
  else do
    let (h0, k1) ← k.readLocal .i pc 2
    if swIsLong h0 then
      if 0x1FFFE < pc + 2 then throw ⟨3, none⟩
      else
        let (h1, k2) ← k1.readLocal .i (pc + 2) 2
        match swDecode h0 h1 with
        | some o => pure (o, 4, k2)
        | none => throw ⟨1, none⟩
    else
      match swDecode h0 0 with
      | some o => pure (o, 2, k1)
      | none => throw ⟨1, none⟩

/-- A target in I memory (R386). -/
def okTarget (t : Int) : Bool := 0 ≤ t && t ≤ 0x1FFFE && t % 2 = 0

/-- The top loop ends at this offset. -/
def atLoopEnd (k : Core) (pc : Nat) : Bool :=
  match k.loops with
  | [] => false
  | e :: _ => e.le = pc

/-- What R362, R387 and R391 forbid of the instruction at PC, by itself and with the one after it. -/
def misplaced (k : Core) (o : SwOp) (len : Nat) : Except Exn Unit :=
  let ill : Except Exn Unit := .error ⟨1, none⟩
  if (o.transfers || o.loops) && k.atLoopEnd k.pc then ill
  else if o.transfers then
    if k.atLoopEnd (k.pc + len) then ill
    else
      match k.fetch (k.pc + len) with
      | .ok (d, _, _) => if d.notInSlot then ill else .ok ()
      | .error _ => .ok ()
  else
    match o with
    | .rep _ | .rept =>
      match k.fetch (k.pc + len) with
      | .ok (d, _, _) => if d.repeatable then .ok () else ill
      | .error e => .error e
    | _ => .ok ()

/-- The address after the delay slot of a transfer whose delay slot starts at an offset. -/
def afterSlot (k : Core) (slot : Nat) : Word := BitVec.ofNat 32 (slot + swLen (k.half slot))

/-- A conditional branch over `n` operands (T0 first). -/
def branch (k : Core) (n : Nat) (off : Int) (c : List Word → Bool) : Except Exn (Core × Flow) := do
  let (l, k1) ← k.pops n
  let t : Int := k.pc + 2 * off
  if c l then
    if okTarget t then pure (k1, .transfer (some t.toNat)) else throw ⟨3, none⟩
  else pure (k1, .transfer none)

/-- Set up a loop (R362, R388). -/
def loopSet (k : Core) (count endOff : Nat) : Except Exn (Core × Flow) :=
  let le := k.pc + 2 * endOff
  if count = 0 then .ok (k, .goto (le + swLen (k.half le)))
  else if 4 ≤ k.loops.length then .error ⟨8, none⟩
  else .ok ({ k with loops := ⟨k.pc + 4, le, count⟩ :: k.loops }, .next)

/-- END is 2 or more and LE lies in I memory (R388). -/
def loopCheck (k : Core) (endOff : Nat) : Except Exn Unit :=
  if endOff < 2 ∨ 0x1FFFE < k.pc + 2 * endOff then .error ⟨1, none⟩ else .ok ()

/-- Start a REP of `n` repetitions (R363, R391). -/
def repSet (k : Core) (n : Nat) : Except Exn (Core × Flow) :=
  if n = 0 ∨ k.replim < n then .error ⟨9, none⟩ else .ok ({ k with rep := some (n, 0) }, .next)

/-- STATUS (Table 14-4). -/
def status (k : Core) : Word :=
  BitVec.ofNat 32 (b2n k.ie + 2 * b2n k.nmiAct + 4 * b2n k.excAct + 8 * b2n k.sat + 16 * b2n k.ovf
    + 32 * k.loops.length + 256 * k.stack.length + 4096 * k.rstack.length)

/-- The writable bits of STATUS taken from a word (R387, R393). -/
def setStatus (k : Core) (w : Word) : Core :=
  { k with ie := getBits w 0 1 = 1, nmiAct := getBits w 1 1 = 1, excAct := getBits w 2 1 = 1,
           sat := getBits w 3 1 = 1, ovf := getBits w 4 1 = 1 }

/-- A control register as MFCR reads it; `ipend` and `id` are IPEND and COREID (R393). -/
def crRead (k : Core) (ipend id n : Nat) : Word :=
  let top := k.loops.headD ⟨0, 0, 0⟩
  match n with
  | 0 => k.status
  | 1 => BitVec.ofNat 32 k.sp
  | 2 => BitVec.ofNat 32 (k.spHi * 65536 + k.spLo)
  | 3 => BitVec.ofNat 32 k.rsp
  | 4 => BitVec.ofNat 32 (k.rspHi * 65536 + k.rspLo)
  | 5 => BitVec.ofNat 32 k.vbar
  | 6 => BitVec.ofNat 32 k.epc
  | 7 => BitVec.ofNat 32 k.ecause
  | 8 => BitVec.ofNat 32 k.eaddr
  | 9 => BitVec.ofNat 32 k.imask
  | 10 => BitVec.ofNat 32 ipend
  | 11 => BitVec.ofNat 32 k.replim
  | 12 => BitVec.ofNat 32 top.ls
  | 13 => BitVec.ofNat 32 top.le
  | 14 => BitVec.ofNat 32 top.lc
  | 15 => BitVec.ofNat 32 k.cycle
  | 16 => BitVec.ofNat 32 id
  | _ => 0

/-- Change the top loop-stack entry. -/
def setTop (k : Core) (f : LoopEntry → LoopEntry) : Core :=
  match k.loops with
  | [] => k
  | e :: es => { k with loops := f e :: es }

/-- MTCR (R393): ACCESS for a register that is not writable, or a loop register while LDEPTH is 0. -/
def crWrite (k : Core) (n : Nat) : Except Exn (Core × Flow) :=
  if n = 7 ∨ n = 8 ∨ n = 10 ∨ n = 15 ∨ n = 16 ∨ ((n = 12 ∨ n = 13 ∨ n = 14) ∧ k.loops = []) then .error ⟨3, none⟩
  else do
    let (w, k1) ← k.pop
    let v := w.toNat
    let k2 ← if 1 ≤ n ∧ n ≤ 4 then k1.settle else pure k1
    pure (match n with
      | 0 => k2.setStatus w
      | 1 => { k2 with sp := v % 65536 }
      | 2 => { k2 with spLo := v % 65536, spHi := v / 65536 }
      | 3 => { k2 with rsp := v % 65536 }
      | 4 => { k2 with rspLo := v % 65536, rspHi := v / 65536 }
      | 5 => { k2 with vbar := v / 512 * 512 }
      | 6 => { k2 with epc := v }
      | 9 => { k2 with imask := v }
      | 11 => { k2 with replim := clampNat 1 4096 v }
      | 12 => k2.setTop fun e => { e with ls := v }
      | 13 => k2.setTop fun e => { e with le := v }
      | 14 => k2.setTop fun e => { e with lc := v }
      | 17 => if v = 0x4B1C then { k2 with wdtWarned := false, wdtKick := true } else k2
      | _ => k2, .next)

/-! ### Far accesses (R355, R383) -/

/-- An address in register space (Table 2-6). -/
def regSpaceAddr (a : Nat) : Bool := 0x40000000 ≤ a && a < 0x41000000

/-- Every store of the core has its completion response, the write of a handover included (R356, step 5 of R399). -/
def drained (k : Core) : Bool := k.wbuf.isEmpty && k.flight.isEmpty && k.hand = 0

/-- A far load must wait: for stores to the same word, or for every store when it reads register space. -/
def loadWaits (k : Core) (a : Nat) : Bool :=
  if regSpaceAddr a then !k.drained
  else (k.wbuf ++ k.flight).any fun r => r.addr / 4 = a / 4

/-- A load at an address: local in the core's own range, far elsewhere. -/
def farLoad (k : Core) (sz : Nat) (disp : Int) : Except Exn (Core × Flow) := do
  let (w, k1) ← k.pop
  let a := ((w.toNat + disp) % (2 ^ 32 : Nat)).toNat
  match localOf a with
  | some (m, off) =>
    let k2 ← k1.loadAt m off sz
    pure ({ k2 with cycle := k2.cycle + 1 }, .next)
  | none =>
    if k.loadWaits a then pure (k, .blocked) else pure (k, .far ⟨a, swSize sz, swSigned sz⟩)

/-- A store of a value at an address: local in the core's own range, into the write buffer elsewhere. -/
def farStore (k : Core) (a size v : Nat) : Except Exn (Core × Flow) :=
  match localOf a with
  | some (m, off) => do
    let k1 ← k.writeLocal m off size v
    pure ({ k1 with cycle := k1.cycle + 1 }, .next)
  | none =>
    if 4 ≤ k.wbuf.length then .ok (k, .blocked)
    else .ok ({ k with wbuf := k.wbuf ++ [⟨a, size, v % 2 ^ (8 * size)⟩] }, .next)

/-- The instruction ends as blocked and nothing has changed, or as the function says. -/
def unblocked (k : Core) (r : Core × Flow) : Core × Flow := if r.2 = .blocked then (k, .blocked) else r

/-! ### The instructions (Tables 15-3 to 15-8) -/

/-- Signed and unsigned comparison of the two operands (a below b on the stack). -/
def cmp2 (f : Word → Word → Bool) (l : List Word) : Bool := f (l.getD 1 0) (l.getD 0 0)

/-- What instruction `o` of `len` bytes does; `ipend`, `id` are IPEND and COREID, `wake` says that a WAIT ends at once. -/
def operate (k : Core) (ipend id : Nat) (wake : Bool) (o : SwOp) (len : Nat) : Except Exn (Core × Flow) :=
  match o with
  | .nop => .ok (k, .next)
  | .dup => k.shuffle 1 fun l => [l.getD 0 0, l.getD 0 0]
  | .drop => k.shuffle 1 fun _ => []
  | .swapT => k.shuffle 2 fun l => [l.getD 0 0, l.getD 1 0]
  | .overT => k.shuffle 2 fun l => [l.getD 1 0, l.getD 0 0, l.getD 1 0]
  | .rot => k.shuffle 3 fun l => [l.getD 1 0, l.getD 0 0, l.getD 2 0]
  | .pick f => do
    let k1 ← k.need (f + 1)
    k1.give (k1.stack.getD f 0)
  | .add => k.bin (· + ·)
  | .sub => k.bin (· - ·)
  | .adds => k.binSat (· + ·)
  | .subs => k.binSat (· - ·)
  | .and => k.bin (· &&& ·)
  | .or => k.bin (· ||| ·)
  | .xor => k.bin (· ^^^ ·)
  | .not => k.un (~~~ ·)
  | .neg => k.un (- ·)
  | .abs => do
    let (w, k1) ← k.pop
    let (r, k2) := k1.sat32 (if wInt w < 0 then -wInt w else wInt w)
    k2.give r
  | .min => k.bin fun a b => if wInt a ≤ wInt b then a else b
  | .max => k.bin fun a b => if wInt a ≤ wInt b then b else a
  | .slt => k.bin fun a b => if wInt a < wInt b then 1 else 0
  | .sltu => k.bin fun a b => if a.toNat < b.toNat then 1 else 0
  | .mul => k.bin (· * ·)
  | .mulh => k.bin fun a b => wOf (wInt a * wInt b / ((2 ^ 32 : Nat) : Int))
  | .mulhu => k.bin fun a b => BitVec.ofNat 32 (a.toNat * b.toNat / 2 ^ 32)
  | .shl f => k.un (· <<< f)
  | .shr f => k.un (· >>> f)
  | .sar f => k.un (·.sshiftRight f)
  | .shlv => k.bin fun a b => a <<< (b.toNat % 64)
  | .shrv => k.bin fun a b => a >>> (b.toNat % 64)
  | .sarv => k.bin fun a b => a.sshiftRight (b.toNat % 64)
  | .sext f => k.un fun a => wOf (signed (f + 1) (a.toNat % 2 ^ (f + 1)))
  | .exp => k.un fun a => BitVec.ofNat 32 (redundant 32 (wInt a))
  | .norm => k.shuffle 1 fun l =>
    let n := redundant 32 (wInt (l.getD 0 0))
    [l.getD 0 0 <<< n, BitVec.ofNat 32 n]
  | .jr => do
    let (w, k1) ← k.pop
    if okTarget w.toNat then pure (k1, .transfer (some w.toNat)) else throw ⟨3, none⟩
  | .callr => do
    let (w, k1) ← k.pop
    if okTarget w.toNat then
      let k2 ← k1.rpush (k.afterSlot (k.pc + len))
      pure (k2, .transfer (some w.toNat))
    else throw ⟨3, none⟩
  | .ret => do
    let (w, k1) ← k.rpop
    if okTarget w.toNat then pure (k1, .transfer (some w.toNat)) else throw ⟨3, none⟩
  | .rti => do
    let (st, k1) ← k.rpop
    let (ra, k2) ← k1.rpop
    pure (k2.setStatus st, .goto ra.toNat)
  | .fence => if k.drained then .ok (k, .next) else .ok (k, .blocked)
  | .wait => .ok (if wake then k else { k with run := .wait }, .next)
  | .trap f => .error ⟨13, some f⟩
  | .lpop =>
    match k.loops with
    | [] => .error ⟨1, none⟩
    | _ :: es => .ok ({ k with loops := es }, .next)
  | .pushi v => k.give (wOf v)
  | .pusha n => k.give (BitVec.ofNat 32 (k.a.getD n 0))
  | .popa n => k.take fun w t => { t with a := t.a.set n (w.toNat % 65536) }
  | .pushm n => k.give (wOf (signed 16 (k.m.getD n 0)))
  | .popm n => k.take fun w t => { t with m := t.m.set n (w.toNat % 65536) }
  | .pushl n => k.give (BitVec.ofNat 32 (k.l.getD n 0))
  | .popl n => k.take fun w t => { t with l := t.l.set n (w.toNat % 65536 / 4 * 4) }
  | .adda n v => .ok (k.modA n (4 * v), .next)
  | .pushl24 v => k.give (wOf v)
  | .lui v => k.give (BitVec.ofNat 32 (v * 256))
  | .addi v => k.un (· + wOf v)
  | .ld sz a m pm => do
    let k1 ← k.loadAt (aMem a) (k.a.getD a 0) sz
    pure (if pm then k1.modA a (k.mOf m) else k1, .next)
  | .st sz a m pm => do
    let (w, k1) ← k.pop
    let k2 ← k1.writeLocal (aMem a) (k.a.getD a 0) (swSize sz) w.toNat
    pure (if pm then k2.modA a (k.mOf m) else k2, .next)
  | .ldx y sz off => do
    let k1 ← k.loadAt (if y then .y else .x) off sz
    pure (k1, .next)
  | .stx y sz off => do
    let (w, k1) ← k.pop
    let k2 ← k1.writeLocal (if y then .y else .x) off (swSize sz) w.toNat
    pure (k2, .next)
  | .ldf sz disp => do
    let r ← k.farLoad sz disp
    pure (k.unblocked r)
  | .stf sz disp => do
    let (l, k1) ← k.pops 2
    let a := (((l.getD 0 0).toNat + disp) % (2 ^ 32 : Nat)).toNat
    let r ← k1.farStore a (swSize sz) (l.getD 1 0).toNat
    pure (k.unblocked r)
  | .mac acc ax ay mx my => k.macForm acc ax ay mx my (· + ·)
  | .msu acc ax ay mx my => k.macForm acc ax ay mx my (· - ·)
  | .mpy acc ax ay mx my => k.macForm acc ax ay mx my fun _ p => p
  | .mpyn acc ax ay mx my => k.macForm acc ax ay mx my fun _ p => -p
  | .clr acc => .ok (k.setAcc acc 0, .next)
  | .macs acc => k.accMul acc (· + ·)
  | .msus acc => k.accMul acc (· - ·)
  | .mpys acc => k.accMul acc fun _ p => p
  | .lda acc s => k.accShift acc s fun _ v => v
  | .accadd acc s => k.accShift acc s (· + ·)
  | .accsub acc s => k.accShift acc s (· - ·)
  | .nega acc => .ok (k.setAcc acc (-(k.accOf acc)), .next)
  | .mova acc => .ok (k.setAcc acc (k.accOf (1 - acc)), .next)
  | .sra acc s => .ok (k.setAcc acc (k.accOf acc / ((2 ^ s : Nat) : Int)), .next)
  | .expa acc => k.give (BitVec.ofNat 32 (redundant 72 (k.accOf acc)))
  | .norma acc =>
    let n := redundant 72 (k.accOf acc)
    (k.setAcc acc (k.accOf acc * ((2 ^ n : Nat) : Int))).give (BitVec.ofNat 32 n)
  | .pushal acc => k.give (wOf (k.accOf acc))
  | .pushah acc => k.give (wOf (k.accOf acc / ((2 ^ 32 : Nat) : Int)))
  | .pushag acc => k.give (wOf (k.accOf acc / ((2 ^ 64 : Nat) : Int)))
  | .popacc acc => do
    let (l, k1) ← k.pops 3
    let v := (l.getD 2 0).toNat % 256 * 2 ^ 64 + (l.getD 1 0).toNat * 2 ^ 32 + (l.getD 0 0).toNat
    pure (k1.setAcc acc (signed 72 v), .next)
  | .stacc acc dest a m pm s =>
    let (v, k1) := k.sat32 (roundEven (k.accOf acc) s)
    match dest with
    | 0 => k1.give v
    | 1 => do
      let k2 ← k1.writeLocal (aMem a) (k.a.getD a 0) 4 v.toNat
      pure (if pm then k2.modA a (k.mOf m) else k2, .next)
    | _ => do
      let (w, k2) ← k1.pop
      let r ← k2.farStore w.toNat 4 v.toNat
      pure (k.unblocked r)
  | .beq off => k.branch 2 off (cmp2 (· = ·))
  | .bne off => k.branch 2 off (cmp2 (· ≠ ·))
  | .blt off => k.branch 2 off (cmp2 fun a b => wInt a < wInt b)
  | .bge off => k.branch 2 off (cmp2 fun a b => wInt a ≥ wInt b)
  | .bltu off => k.branch 2 off (cmp2 fun a b => a.toNat < b.toNat)
  | .bgeu off => k.branch 2 off (cmp2 fun a b => a.toNat ≥ b.toNat)
  | .bz off => k.branch 1 off fun l => l.getD 0 0 = 0
  | .bnz off => k.branch 1 off fun l => l.getD 0 0 ≠ 0
  | .bneg off => k.branch 1 off fun l => wInt (l.getD 0 0) < 0
  | .br off => k.branch 0 off fun _ => true
  | .call off =>
    let t : Int := k.pc + 2 * off
    if okTarget t then do
      let k1 ← k.rpush (k.afterSlot (k.pc + len))
      pure (k1, .transfer (some t.toNat))
    else .error ⟨3, none⟩
  | .loop count endOff => do
    k.loopCheck endOff
    k.loopSet count endOff
  | .loopt endOff => do
    k.loopCheck endOff
    let (w, k1) ← k.pop
    k1.loopSet w.toNat endOff
  | .rep n => k.repSet n
  | .rept => do
    let (w, k1) ← k.pop
    k1.repSet w.toNat
  | .mfcr n => k.give (k.crRead ipend id n)
  | .mtcr n => k.crWrite n

/-! ### Completion of an instruction (R362, R369, R387, R391) -/

/-- The loop-end action of the top loop-stack entry for a completed instruction at an offset: the next offset (R362). -/
def loopEnd (k : Core) (pc next : Nat) : Nat × Core :=
  match k.loops with
  | [] => (next, k)
  | e :: es =>
    if e.le ≠ pc then (next, k)
    else if 1 < e.lc then (e.ls, { k with loops := { e with lc := e.lc - 1 } :: es })
    else if e.lc = 1 then (next, { k with loops := es })
    else (next, k)

/-- The loop-end window: the instruction at LE while LC is not zero (R369). -/
def inLoopWindow (k : Core) : Bool :=
  match k.loops with
  | [] => false
  | e :: _ => e.le = k.pc && e.lc ≠ 0

/-- Interrupts, NMI and ST_ERR are held off at this boundary (R369). -/
def heldOff (k : Core) : Bool := k.slot.isSome || k.rep.isSome || (k.inLoopWindow && !k.windowEnded)

/-- The core after instruction `o` of `len` bytes, begun in `k0`, has left `k` and the flow `f`. -/
def complete (k0 k : Core) (o : SwOp) (len : Nat) (f : Flow) : Core :=
  let k := { k with cycle := k.cycle + o.cycles, retired := k.retired + 1 }
  let after := k0.pc + len
  match k0.rep with
  | some (n, done) =>
    if done + 1 < n then { k with rep := some (n, done + 1) }
    else
      let (pc, k1) := k.loopEnd k0.pc after
      { k1 with rep := none, pc := pc, windowEnded := true }
  | none =>
    match k0.slot with
    | some d => { k with slot := none, pc := d.target.getD after, windowEnded := true }
    | none =>
      match f with
      | .goto pc => { k with pc := pc, windowEnded := k0.inLoopWindow }
      | .transfer t =>
        let spilled := if k.rsp < k0.rsp then some (k.rsp / 4, k0.word .y k.rsp) else none
        { k with pc := after, windowEnded := false,
                 slot := some ⟨t, k0.pc, k0.stack, k0.sp, k0.rstack, k0.rsp, spilled⟩ }
      | _ =>
        let (pc, k1) := k.loopEnd k0.pc after
        { k1 with pc := pc, windowEnded := k0.inLoopWindow }

/-! ### Entries (R368, R371) -/

/-- Push the return address and STATUS, clear IE and continue at a vector. -/
def enter (k : Core) (ret vector : Nat) : Except Exn Core := do
  let st := k.status
  let k1 ← k.rpush (BitVec.ofNat 32 ret)
  let k2 ← k1.rpush st
  pure { k2 with ie := false, pc := k.vbar + vector, cycle := k2.cycle + 4, windowEnded := false }

/-- What an exception in a delay slot undoes: the pops and pushes of the transfer (R387). -/
def undoTransfer (k : Core) : Core :=
  match k.slot with
  | none => k
  | some d =>
    let k1 := match d.spilledY with
      | none => k
      | some (i, w) => { k with ymem := Sparse.set (fun _ => 0) k.ymem i w }
    { k1 with slot := none, pc := d.at_, stack := d.stack, sp := d.sp, rstack := d.rstack, rsp := d.rsp }

/-- ECAUSE of an exception, with IN_REP and the repetitions that stand (R392). -/
def causeWord (k : Core) (code : Nat) : Nat :=
  match k.rep with
  | none => code
  | some (_, done) => code + 2 ^ 8 + done * 2 ^ 16

/-- The exception registers as exception `e` leaves them (R371), with REP ended and a transfer undone. -/
def noteExn (k : Core) (e : Exn) : Core :=
  let k1 := k.undoTransfer
  { k1 with ecause := k.causeWord e.code, eaddr := e.addr.getD k.eaddr, epc := k1.pc, rep := none }

end Core

end Sys2Proof.Machine
end

