-- ==== Sys2Proof/Machine/Cores.lean ====
section
/-! DEFINITION. The Swiale cores among the rest of the block: instruction boundaries, exceptions, interrupts and NMI
(R368 to R371), the watchdog (R372), hold and release (R373), and the far accesses of a core up to the network (R355).
Readings: log entries 39, 50, 62 (DEDUCED). -/

namespace Sys2Proof.Machine

namespace State

/-- Core number of MC. -/
def mcCore : Nat := 10

/-- CR IPEND: latched events and page-interrupt levels (R366). -/
def coreIpend (s : State) (c : Nat) : Nat := (s.coreGet c).events ||| s.coreLevels c

/-- Tocsin's NMI is asserted on this core and NMI_ACT is 0 (R367, R368). -/
def nmiPending (s : State) (c : Nat) : Bool :=
  c = mcCore && s.flag F.TOC_STAT_NMI_ACTIVE && !(s.coreGet c).nmiAct

/-- Lines that are pending and enabled in IMASK. -/
def enabledLines (s : State) (c : Nat) : Nat := s.coreIpend c &&& (s.coreGet c).imask

/-- The line that an interrupt entry would take. -/
def irqLine (s : State) (c : Nat) : Option Nat :=
  if (s.coreGet c).ie then lowestBit 32 0 (s.enabledLines c) else none

/-- What ends a WAIT (R368, R394). -/
def waitOver (s : State) (c : Nat) : Bool := s.enabledLines c ≠ 0 || s.nmiPending c

/-- An entry that the core takes before its next instruction (R368, R369). -/
def entryDue (s : State) (c : Nat) : Bool :=
  !(s.coreGet c).heldOff &&
    (s.nmiPending c || !(s.coreGet c).stErr.isEmpty || (s.irqLine c).isSome)

/-- The core is at an instruction boundary at which it executes its next instruction. -/
def coreReady (s : State) (c : Nat) : Bool :=
  c < 12 && (s.coreGet c).run = .running && !(s.coreGet c).rom && (s.coreGet c).load.isNone && !s.entryDue c

/-- A core record stored, with a corrected local-memory error recorded on its page (R375) and its watchdog restarted by a kick
(R372). -/
def corePut (s : State) (c : Nat) (k : Core) : State :=
  let s1 := s.coreSet c { k with corrSeen := false, wdtKick := false, wdtAt := if k.wdtKick then s.aon.raw else k.wdtAt }
  if k.corrSeen then s1.sticky (P.CORE c) 11 else s1

/-- An exception of a core (R371): entry at VBAR + 0x108, or the halt of a double exception. -/
def coreRaise (s : State) (c : Nat) (e : Exn) : State :=
  let k := (s.coreGet c).noteExn e
  let s1 := if e.code = 12 then s.sticky (P.CORE c) 10 else s
  let halt := ((s1.corePut c { k with run := .halted }).sticky (P.CORE c) 8).irq (P.CORE c) 0
  if k.excAct || k.nmiAct then halt
  else
    match k.enter k.pc 0x108 with
    | .ok k1 => (s1.corePut c { k1 with excAct := true }).irq (P.CORE c) 2
    | .error _ => halt

/-- A soft error that arises in a word of a core's memories. -/
def coreEcc (k : Core) : Option (Nat × Bool) → Core
  | none => k
  | some (a, unc) =>
    let w := a / 4 * 4
    if unc then { k with eccUnc := w :: k.eccUnc.filter (· ≠ w) } else { k with eccCorr := w :: k.eccCorr.filter (· ≠ w) }

/-- Core cycles that a core waits (R353, R379). -/
def coreStall (s : State) (c n : Nat) : State := s.coreSet c { s.coreGet c with cycle := (s.coreGet c).cycle + n }

/-- Core `c` executes the instruction at its PC, when it is one that `is` selects: the exception it raises, or its
effect and completion. `ecc` is a soft error that arises in a local word meanwhile, `stall` the core cycles that the
instruction waits, for its memory port among others (R353). -/
def coreStep (s : State) (c : Nat) (is : SwOp → Bool) (ecc : Option (Nat × Bool)) (stall : Nat) : State :=
  if !s.coreReady c then s
  else
    let k := coreEcc (s.coreGet c) ecc
    match k.fetch k.pc with
    | .error _ => s
    | .ok (o, len, k1) =>
      if !is o then s
      else
        let k1 := { k1 with lastPc := k.pc }
        let s1 := s.coreSet c k1
        match k1.misplaced o len with
        | .error e => (s1.coreStall c stall).coreRaise c e
        | .ok _ =>
          match k1.operate (s.coreIpend c) (c + 1) (s.waitOver c) o len with
          | .error e => (s1.coreStall c stall).coreRaise c e
          | .ok (k2, f) =>
            match f with
            | .blocked => s
            | .far r => (s1.corePut c { k1 with load := some r }).coreStall c stall
            | _ => s1.corePut c { (Core.complete k1 k2 o len f) with cycle := (Core.complete k1 k2 o len f).cycle + stall }

/-- Core `c` fetches at its PC where there is no instruction (R376, R378), or where a word of I memory has an
uncorrectable error. -/
def coreBadFetch (s : State) (c : Nat) (ecc : Option (Nat × Bool)) : State :=
  if !s.coreReady c then s
  else
    let k := coreEcc (s.coreGet c) ecc
    match k.fetch k.pc with
    | .ok _ => s
    | .error e => (s.coreSet c k).coreRaise c e

/-- An entry at a vector; a breach of the return stack raises its own exception. -/
def coreEnter (s : State) (c : Nat) (k : Core) (vector : Nat) (f : Core → Core) : State :=
  match k.enter k.pc vector with
  | .ok k1 => s.corePut c (f k1)
  | .error e => s.coreRaise c e

/-- The core is at a boundary that is not held off. -/
def atBoundary (s : State) (c : Nat) : Bool :=
  c < 12 && (s.coreGet c).run = .running && !(s.coreGet c).rom && (s.coreGet c).load.isNone && !(s.coreGet c).heldOff

/-- The lowest pending enabled line is taken (R368); a fixed event line clears. NMI and ST_ERR go first. -/
def coreInterrupt (s : State) (c : Nat) : State :=
  let k := s.coreGet c
  if !s.atBoundary c || s.nmiPending c || !k.stErr.isEmpty then s
  else
    match s.irqLine c with
    | none => s
    | some n => s.coreEnter c k (8 * n) fun t => { t with events := if n < 8 then setBit t.events n false else t.events }

/-- MC takes Tocsin's NMI (R368). -/
def coreNmi (s : State) : State :=
  if s.atBoundary mcCore && s.nmiPending mcCore then
    s.coreEnter mcCore (s.coreGet mcCore) 0x100 fun t => { t with nmiAct := true }
  else s

/-- ST_ERR is taken at a boundary that is not held off (R368, R371). -/
def coreStErr (s : State) (c : Nat) : State :=
  let k := s.coreGet c
  match k.stErr with
  | [] => s
  | a :: r =>
    if s.atBoundary c && !s.nmiPending c then (s.coreSet c { k with stErr := r }).coreRaise c ⟨11, some a⟩ else s

/-- A core in WAIT resumes, `n` core cycles after it stopped; not from the isolation point of an entry on. -/
def waitWake (s : State) (c n : Nat) : State :=
  let k := s.coreGet c
  if c < 12 ∧ k.run = .wait ∧ s.waitOver c ∧ !s.pmu.isolated then s.coreSet c { k with run := .running, cycle := k.cycle + n } else s

/-- A core held in reset under R373: its loads are cancelled, unissued stores discarded and counted, its tasks
abandoned. Its memories stay, and the stores already issued complete, their replies discarded (R523). -/
def coreHold (s : State) (c : Nat) : State :=
  let k := s.coreGet c
  if 12 ≤ c ∨ k.run = .held then s
  else
    let s1 := s.coreSet c { k with run := .held, load := none, rep := none, slot := none, wbuf := [], stErr := [],
                                   flight := [], hand := 0, lost := k.lost ++ k.load.toList, old := k.old ++ k.flight
                                   oldHand := k.oldHand + k.hand, wbdrop := min 255 k.wbuf.length }
    let s2 := s1.setFlag (F.STAT_RUNNING (P.CORE c)) false
    if c < 8 then s2.chsCoreReset c else s2

/-- A core record with the reset values of Table 14-4 and empty stacks: its memories, what was under way when it was held, and
WBDROP stay (R373, R523); MC's watchdog counts on (R372). -/
def coreFresh (c : Nat) (k : Core) : Core :=
  { Core.reset with
    wbdrop := k.wbdrop, lost := k.lost, old := k.old, oldHand := k.oldHand, imem := k.imem, xmem := k.xmem, ymem := k.ymem
    eccUnc := k.eccUnc, eccCorr := k.eccCorr
    wdtWarned := c = mcCore && k.wdtWarned, wdtAt := k.wdtAt }

/-- A soft reset of a core's page holds the core, and its registers read their reset values (R47, R373). -/
def coreSoftReset (s : State) (c : Nat) : State :=
  let t := s.coreHold c
  t.coreSet c (coreFresh c (t.coreGet c))

/-- A core released: offset 0, the reset values of Table 14-4, empty stacks (R373); its watchdog counts from zero (R372). -/
def coreRelease (s : State) (c : Nat) : State :=
  let k := s.coreGet c
  if 12 ≤ c ∨ k.run ≠ .held then s
  else
    (s.coreSet c { coreFresh c k with run := .running, wdtAt := if c = mcCore then k.wdtAt else s.aon.raw }).setFlag
      (F.STAT_RUNNING (P.CORE c)) true

/-- AON cycles since the watchdog of core `c` last restarted (R372). -/
def wdtCount (s : State) (c : Nat) : Nat := (s.aon.raw + 2 ^ 48 - (s.coreGet c).wdtAt) % 2 ^ 48

/-- A core watchdog that has counted its PERIOD expires (R372): a first expiry warns; a second holds the core and clears ENABLE, or
flags MC; the count restarts. Only MC's counts while its core is held. -/
def coreWatchdog (s : State) (c : Nat) : State :=
  let p := s.fld (F.CORE_WDT_PERIOD c)
  if 11 ≤ c ∨ ((s.coreGet c).run = .held ∧ c ≠ mcCore) ∨ p = 0 ∨ s.wdtCount c < p then s
  else
    let k := { s.coreGet c with wdtAt := s.aon.raw }
    if k.wdtWarned then
      let s1 := (s.coreSet c { k with wdtWarned := false }).sticky (P.CORE c) 9
      if c = mcCore then s1 else (s1.coreHold c).setFlag (F.CTRL_ENABLE (P.CORE c)) false
    else ((s.coreSet c { k with wdtWarned := true }).coreLine c 3).irq (P.CORE c) 1

/-- A write has taken CORE_WDT.PERIOD from `old`: a watchdog that was stopped counts from zero (DEDUCED, log entry 39). -/
def wdtStart (s : State) (c old : Nat) : State :=
  if old = 0 ∧ s.fld (F.CORE_WDT_PERIOD c) ≠ 0 then s.coreSet c { s.coreGet c with wdtAt := s.aon.raw } else s

/-- The write buffer issues its oldest store (R355). -/
def bufferIssue (s : State) (c : Nat) : State :=
  let k := s.coreGet c
  match k.wbuf with
  | [] => s
  | r :: rs => if c < 12 then s.coreSet c { k with wbuf := rs, flight := k.flight ++ [r] } else s

end State

end Sys2Proof.Machine
end

