-- ==== Sys2Proof/Machine/Crypto.lean ====
section
/-! DEFINITION. The approved algorithms that the spec names by their standards (R422): SHA-256 (FIPS 180-4), HMAC-SHA-256
(FIPS 198-1), AES-256 with CMAC and GCM (FIPS 197, SP 800-38B, SP 800-38D), ECDSA P-256 (FIPS 186-5), and ECC CDH with the
one-step KDF (SP 800-56A, SP 800-56C).
PRESUMED from those standards, which the spec cites and does not repeat (PRESUMED, log entry 32). -/

namespace Sys2Proof.Machine

/-! ### SHA-256 and HMAC -/

/-- The first 64 primes. -/
def firstPrimes : List Nat := (List.range 312).filter fun n => decide (2 ≤ n) && (List.range n).all fun d => d < 2 || n % d ≠ 0

/-- The first 32 bits of the fractional part of the `k`-th root of a prime, as FIPS 180-4 makes its constants. -/
def rootFraction (k p : Nat) : BitVec 32 := BitVec.ofNat 32 (rootBits k (p * 2 ^ (32 * k)) 37 0)

def shaK : List (BitVec 32) := firstPrimes.map (rootFraction 3)

def shaInit : List (BitVec 32) := (firstPrimes.take 8).map (rootFraction 2)

/-- The message schedule, newest word first, extended by `n` words. -/
def shaExtend : Nat → List (BitVec 32) → List (BitVec 32)
  | 0, w => w
  | n + 1, w =>
    let g := fun i => w.getD i 0
    let s0 := (g 14).rotateRight 7 ^^^ (g 14).rotateRight 18 ^^^ (g 14) >>> 3
    let s1 := (g 1).rotateRight 17 ^^^ (g 1).rotateRight 19 ^^^ (g 1) >>> 10
    shaExtend n ((g 15 + s0 + g 6 + s1) :: w)

/-- One round over the eight working variables. -/
def shaRound (v : List (BitVec 32)) (kw : BitVec 32 × BitVec 32) : List (BitVec 32) :=
  match v with
  | [a, b, c, d, e, f, g, h] =>
    let s1 := e.rotateRight 6 ^^^ e.rotateRight 11 ^^^ e.rotateRight 25
    let ch := (e &&& f) ^^^ (~~~e &&& g)
    let t1 := h + s1 + ch + kw.1 + kw.2
    let s0 := a.rotateRight 2 ^^^ a.rotateRight 13 ^^^ a.rotateRight 22
    let maj := (a &&& b) ^^^ (a &&& c) ^^^ (b &&& c)
    [t1 + (s0 + maj), a, b, c, d + t1, e, f, g]
  | _ => v

def shaBlock (h : List (BitVec 32)) (block : List (BitVec 32)) : List (BitVec 32) :=
  let w := (shaExtend 48 block.reverse).reverse
  List.zipWith (· + ·) h ((List.zip shaK w).foldl shaRound h)

/-- Big-endian words of a list of bytes. -/
def shaWords : List Byte → List (BitVec 32)
  | a :: b :: c :: d :: r => BitVec.ofNat 32 (beValue [a, b, c, d]) :: shaWords r
  | _ => []

def shaBlocks : Nat → List (BitVec 32) → List (BitVec 32) → List (BitVec 32)
  | 0, h, _ => h
  | n + 1, h, w => shaBlocks n (shaBlock h (w.take 16)) (w.drop 16)

/-- SHA-256 of a message, 32 bytes. -/
def sha256 (m : List Byte) : List Byte :=
  let pad := 0x80#8 :: List.replicate ((119 - m.length % 64) % 64) 0#8
  let w := shaWords (m ++ pad ++ beBytes 8 (8 * m.length))
  (shaBlocks (w.length / 16) shaInit w).flatMap fun x => beBytes 4 x.toNat

/-- HMAC-SHA-256. -/
def hmac256 (key m : List Byte) : List Byte :=
  let k0 := if 64 < key.length then sha256 key else key
  let k := k0 ++ List.replicate (64 - k0.length) 0
  sha256 (k.map (· ^^^ 0x5C) ++ sha256 (k.map (· ^^^ 0x36) ++ m))

/-! ### AES-256, CMAC and GCM -/

/-- Product in GF(2^8) of AES. -/
def gfMul : Nat → Byte → Byte → Byte
  | 0, _, _ => 0
  | n + 1, a, b =>
    let a2 := if a.msb then (a <<< 1) ^^^ 0x1B else a <<< 1
    (if b.toNat % 2 = 1 then a else 0) ^^^ gfMul n a2 (b >>> 1)

def gf (a b : Byte) : Byte := gfMul 8 a b

/-- Inverse in GF(2^8) as the 254th power; 0 gives 0. -/
def gfInv (a : Byte) : Byte :=
  let a2 := gf a a
  let a4 := gf a2 a2
  let a8 := gf a4 a4
  let a16 := gf a8 a8
  let a32 := gf a16 a16
  let a64 := gf a32 a32
  gf (gf (gf a2 a4) (gf a8 a16)) (gf (gf a32 a64) (gf a64 a64))

def aesSub (a : Byte) : Byte :=
  let b := gfInv a
  b ^^^ b.rotateLeft 1 ^^^ b.rotateLeft 2 ^^^ b.rotateLeft 3 ^^^ b.rotateLeft 4 ^^^ 0x63

def xorBytes (a b : List Byte) : List Byte := List.zipWith (· ^^^ ·) a b

/-- Key schedule words, newest first, extended from word `i` by `n` words. -/
def aesExpand : Nat → Nat → Byte → List (List Byte) → List (List Byte)
  | 0, _, _, w => w
  | n + 1, i, rcon, w =>
    let t := w.getD 0 []
    let t2 :=
      if i % 8 = 0 then
        match t with
        | a :: r => xorBytes ((r ++ [a]).map aesSub) [rcon, 0, 0, 0]
        | [] => []
      else if i % 8 = 4 then t.map aesSub else t
    aesExpand n (i + 1) (if i % 8 = 0 then gf rcon 2 else rcon) (xorBytes (w.getD 7 []) t2 :: w)

def chunks : Nat → Nat → List Byte → List (List Byte)
  | 0, _, _ => []
  | n + 1, k, l => if l.isEmpty then [] else l.take k :: chunks n k (l.drop k)

/-- The fifteen round keys of a 32-byte key. -/
def aesKeys (key : List Byte) : List (List Byte) :=
  let w := (aesExpand 52 8 1 (chunks 8 4 key).reverse).reverse
  chunks 15 16 w.flatten

def aesShift (s : List Byte) : List Byte := (List.range 16).map fun i => s.getD ((i + 4 * (i % 4)) % 16) 0

def aesMix (s : List Byte) : List Byte :=
  (List.range 16).map fun i =>
    let g := fun j => s.getD (i / 4 * 4 + (i + j) % 4) 0
    gf (g 0) 2 ^^^ gf (g 1) 3 ^^^ g 2 ^^^ g 3

/-- AES-256 of one block under round keys. -/
def aesBlock (keys : List (List Byte)) (b : List Byte) : List Byte :=
  let mid := (List.range 13).foldl (fun s r => xorBytes (aesMix (aesShift (s.map aesSub))) (keys.getD (r + 1) []))
    (xorBytes b (keys.getD 0 []))
  xorBytes (aesShift (mid.map aesSub)) (keys.getD 14 [])

/-- A 16-byte block shifted left by one bit, reduced by the CMAC constant. -/
def cmacDouble (b : List Byte) : List Byte :=
  let v := beValue b
  beBytes 16 (Nat.xor (v * 2 % 2 ^ 128) (if 2 ^ 127 ≤ v then 0x87 else 0))

/-- AES-256 CMAC. -/
def aesCmac (key m : List Byte) : List Byte :=
  let ks := aesKeys key
  let k1 := cmacDouble (aesBlock ks (List.replicate 16 0))
  let blocks := chunks (m.length / 16 + 1) 16 m
  let last := blocks.getLastD []
  let final :=
    if last.length = 16 then xorBytes last k1
    else xorBytes (last ++ 0x80#8 :: List.replicate (15 - last.length) 0#8) (cmacDouble k1)
  (blocks.dropLast ++ [final]).foldl (fun c b => aesBlock ks (xorBytes c b)) (List.replicate 16 0)

/-- Product in GF(2^128) of GCM over `n` bits of `y`, numbers read big-endian. -/
def ghashMul : Nat → Nat → Nat → Nat
  | 0, _, _ => 0
  | n + 1, v, y =>
    let v2 := if v % 2 = 1 then Nat.xor (v / 2) (0xE1 * 2 ^ 120) else v / 2
    Nat.xor (if y / 2 ^ n % 2 = 1 then v else 0) (ghashMul n v2 y)

def gcmPad (l : List Byte) : List Byte := l ++ List.replicate ((16 - l.length % 16) % 16) 0

/-- GCTR under round keys from a counter block. -/
def gcmCtr (ks : List (List Byte)) : Nat → Nat → List Byte → List Byte → List Byte
  | 0, _, _, _ => []
  | n + 1, c, iv, m =>
    if m.isEmpty then []
    else xorBytes (m.take 16) (aesBlock ks (iv ++ beBytes 4 c)) ++ gcmCtr ks n (c + 1) iv (m.drop 16)

/-- The tag of a ciphertext without additional data, for a 12-byte IV. -/
def gcmTag (key iv ct : List Byte) : List Byte :=
  let ks := aesKeys key
  let h := beValue (aesBlock ks (List.replicate 16 0))
  let l := gcmPad ct ++ beBytes 8 0 ++ beBytes 8 (8 * ct.length)
  let s := (chunks (l.length / 16) 16 l).foldl (fun y b => ghashMul 128 h (Nat.xor y (beValue b))) 0
  xorBytes (beBytes 16 s) (aesBlock ks (iv ++ beBytes 4 1))

/-- AES-256 GCM encryption and decryption are the same stream. -/
def gcmStream (key iv m : List Byte) : List Byte := gcmCtr (aesKeys key) (m.length / 16 + 1) 2 iv m

/-! ### The curve P-256 -/

def p256P : Nat := 0xffffffff00000001000000000000000000000000ffffffffffffffffffffffff
def p256N : Nat := 0xffffffff00000000ffffffffffffffffbce6faada7179e84f3b9cac2fc632551
def p256B : Nat := 0x5ac635d8aa3a93e7b3ebbd55769886bc651d06b0cc53b0f63bce3c3e27d2604b
def p256G : Nat × Nat :=
  (0x6b17d1f2e12c4247f8bce6e563a440f277037d812deb33a0f4a13945d898c296,
   0x4fe342e2fe1a7f9b8ee7eb4a7c0f9e162bce33576b315ececbb6406837bf51f5)

/-- Inverse modulo a prime. -/
def invMod (m a : Nat) : Nat := powMod m 256 (a % m) (m - 2)

/-- A point in Jacobian coordinates: x = X / Z^2, y = Y / Z^3; Z = 0 is the point at infinity. -/
structure EcPoint where
  x : Nat
  y : Nat
  z : Nat
deriving DecidableEq, Repr

/-- Difference in the field. -/
def fieldSub (a b : Nat) : Nat := (a + p256P - b % p256P) % p256P

def ecDouble (p : EcPoint) : EcPoint :=
  let m := p256P
  let y2 := p.y * p.y % m
  let z2 := p.z * p.z % m
  let s := 4 * p.x * y2 % m
  let t := 3 * fieldSub p.x z2 * (p.x + z2) % m
  let x := fieldSub (t * t) (2 * s)
  ⟨x, fieldSub (t * fieldSub s x) (8 * y2 * y2), 2 * p.y * p.z % m⟩

/-- Sum of two points. -/
def ecAdd (p q : EcPoint) : EcPoint :=
  let m := p256P
  if p.z = 0 then q
  else if q.z = 0 then p
  else
    let pz := p.z * p.z % m
    let qz := q.z * q.z % m
    let u1 := p.x * qz % m
    let s1 := p.y * qz * q.z % m
    let h := fieldSub (q.x * pz) u1
    let r := fieldSub (q.y * pz * p.z) s1
    if h = 0 then if r = 0 then ecDouble p else ⟨1, 1, 0⟩
    else
      let h2 := h * h % m
      let h3 := h2 * h % m
      let v := u1 * h2 % m
      let x := fieldSub (r * r) (h3 + 2 * v)
      ⟨x, fieldSub (r * fieldSub v x) (s1 * h3), h * p.z * q.z % m⟩

/-- A multiple of a point, by the low `n` bits of the factor. -/
def ecMul : Nat → Nat → EcPoint → EcPoint
  | 0, _, _ => ⟨1, 1, 0⟩
  | n + 1, k, p => ecAdd (if k % 2 = 1 then p else ⟨1, 1, 0⟩) (ecMul n (k / 2) (ecDouble p))

/-- ECDSA P-256 verification: public key x then y, digest, signature r then s, big-endian (R435). -/
def ecdsaVerify (pub digest sig : List Byte) : Bool :=
  let x := beValue (pub.take 32)
  let y := beValue ((pub.drop 32).take 32)
  let r := beValue (sig.take 32)
  let s := beValue ((sig.drop 32).take 32)
  if pub.length ≠ 64 ∨ sig.length ≠ 64 ∨ r = 0 ∨ p256N ≤ r ∨ s = 0 ∨ p256N ≤ s ∨ p256P ≤ x ∨ p256P ≤ y then false
  else if y * y % p256P ≠ (x * x * x + (p256P - 3) * x + p256B) % p256P then false
  else
    let w := invMod p256N s
    let u1 := beValue digest * w % p256N
    let u2 := r * w % p256N
    let q := ecAdd (ecMul 256 u1 ⟨p256G.1, p256G.2, 1⟩) (ecMul 256 u2 ⟨x, y, 1⟩)
    if q.z = 0 then false else q.x * invMod p256P (q.z * q.z) % p256P % p256N = r

/-- Affine coordinates of a point other than the one at infinity. -/
def EcPoint.affine (q : EcPoint) : Nat × Nat :=
  let w := invMod p256P (q.z * q.z % p256P)
  (q.x * w % p256P, q.y * (w * invMod p256P q.z % p256P) % p256P)

/-- The public key of a private one: x then y, big-endian. -/
def ecPublic (d : Nat) : List Byte :=
  let q := (ecMul 256 d ⟨p256G.1, p256G.2, 1⟩).affine
  beBytes 32 q.1 ++ beBytes 32 q.2

/-- ECDSA P-256 signature of a digest by the private key `d` with the per-message secret `k`: r then s, big-endian. -/
def ecdsaSign (d k : Nat) (digest : List Byte) : List Byte :=
  let r := (ecMul 256 k ⟨p256G.1, p256G.2, 1⟩).affine.1 % p256N
  beBytes 32 r ++ beBytes 32 (invMod p256N k * (beValue digest + r * d) % p256N)

/-- The shared secret of ECC CDH: the x coordinate of the private key times the peer's public point, when that is a point of the
curve. -/
def ecdhSecret (d : Nat) (pub : List Byte) : Option (List Byte) :=
  let x := beValue (pub.take 32)
  let y := beValue (pub.drop 32)
  if pub.length = 64 ∧ x < p256P ∧ y < p256P ∧ y * y % p256P = (x * x * x + (p256P - 3) * x + p256B) % p256P then
    some (beBytes 32 (ecMul 256 d ⟨x, y, 1⟩).affine.1)
  else none

/-- The one-step KDF with SHA-256, for one block of 32 bytes. -/
def kdfOneStep (secret info : List Byte) : List Byte := sha256 (beBytes 4 1 ++ secret ++ info)

end Sys2Proof.Machine
end

