-- ==== Sys2Proof/Machine/PtpFrame.lean ====
section
/-! DEFINITION. The octets of the frames of chapter 12 (spec/12_network_time.md): reading a received frame (R306, R309,
R314, R315, R321), the frame of a message that the engine builds (R306, R315, R316, R318, R320), and what the transmit
pipeline writes into it (R317, Table 12-8). The octets that only the named standards give are PRESUMED, log entry 78. -/

namespace Sys2Proof

open Machine

/-! ### Octets -/

/-- Ones'-complement sum of 16-bit words. -/
def onesSum (ws : List Nat) : Nat := ws.foldl (fun a w => let t := a + w; if 65535 < t then t - 65535 else t) 0

/-- Big-endian 16-bit words of a list of octets; an odd last octet is the upper half of its word. -/
def beWords : List Byte → List Nat
  | a :: b :: r => (a.toNat * 256 + b.toNat) :: beWords r
  | [a] => [a.toNat * 256]
  | [] => []

/-- Replace octets. -/
def octPut (l : List Byte) (o : Nat) (b : List Byte) : List Byte := l.take o ++ b ++ l.drop (o + b.length)

/-- `n` octets at `o`; octets that a frame does not have read 0. -/
def octAt (l : List Byte) (o n : Nat) : List Byte := ((l.drop o).take n ++ List.replicate n 0).take n

/-! ### Reading a frame -/

/-- Ethertype of a frame and the offset of what follows it, past a VLAN tag. -/
def etherType (f : List Byte) : Nat × Nat :=
  let t := beValue (octAt f 12 2)
  if t = 0x8100 then (beValue (octAt f 16 2), 18) else (t, 14)

/-- Offset of a PTP message in a frame, and its mapping: 0 = IEEE 802.3, 1 = UDP/IPv4, 2 = UDP/IPv6, on the ports and
Ethertype of Table 12-2. -/
def msgOffset (f : List Byte) : Option (Nat × Nat) :=
  let (t, o) := etherType f
  let udp := fun (u : Nat) => decide (beValue (octAt f (u + 2) 2) = 319 ∨ beValue (octAt f (u + 2) 2) = 320)
  if t = 0x88F7 then some (o, 0)
  else if t = 0x0800 then
    let u := o + ((octAt f o 1).headD 0).toNat % 16 * 4
    if octAt f (o + 9) 1 = [17] && udp u then some (u + 8, 1) else none
  else if t = 0x86DD then if octAt f (o + 6) 1 = [17] && udp (o + 40) then some (o + 48, 2) else none
  else none

namespace RxFrame

/-- Where the frame's PTP message stands: versionPTP 2 with minorVersionPTP 1 or 0 (R306) and a whole header. -/
def ptp (f : RxFrame) : Option (Nat × Nat) :=
  match msgOffset f.octets with
  | none => none
  | some (m, map) =>
    let v := ((octAt f.octets (m + 1) 1).headD 0).toNat
    if (v = 0x02 ∨ v = 0x12) ∧ m + 34 ≤ f.octets.length then some (m, map) else none

def offset (f : RxFrame) : Nat := (f.ptp.map (·.1)).getD 0
def map (f : RxFrame) : Nat := (f.ptp.map (·.2)).getD 0
/-- The PTP message, to the end of the frame. -/
def message (f : RxFrame) : List Byte := f.octets.drop f.offset
def dest (f : RxFrame) : List Byte := octAt f.octets 0 6
def srcMac (f : RxFrame) : List Byte := octAt f.octets 6 6
/-- messageType of the PTP message. -/
def type (f : RxFrame) : Nat := ((octAt f.message 0 1).headD 0).toNat % 16
def domain (f : RxFrame) : Nat := beValue (octAt f.message 4 1)
def identity (f : RxFrame) : List Byte := octAt f.message 20 10
def seq (f : RxFrame) : Nat := beValue (octAt f.message 30 2)
/-- correctionField, a two's-complement number. -/
def corr (f : RxFrame) : Int := signed 64 (beValue (octAt f.message 8 8))
/-- IP addresses of the frame, source and destination. -/
def srcIp (f : RxFrame) : List Byte :=
  let o := (etherType f.octets).2
  match f.map with | 1 => octAt f.octets (o + 12) 4 | 2 => octAt f.octets (o + 8) 16 | _ => []
def destIp (f : RxFrame) : List Byte :=
  let o := (etherType f.octets).2
  match f.map with | 1 => octAt f.octets (o + 16) 4 | 2 => octAt f.octets (o + 24) 16 | _ => []
/-- The source address that a session is matched by (R315). -/
def src (f : RxFrame) : List Byte := if f.map = 0 then f.srcMac else f.srcIp
/-- KIND of PTP_RXDESC0 of a received frame: messageType 0 to 3 are event messages. -/
def kind (f : RxFrame) : Nat :=
  if f.ptp.isSome then (if f.type < 4 then 1 else 0)
  else
    let (t, o) := etherType f.octets
    if t = 0x8809 ∧ octAt f.octets o 1 = [0x0A] then 2
    else if t = 0x0806 then 3
    else if t = 0x86DD ∧ octAt f.octets (o + 6) 1 = [58] then 4
    else 5
/-- A destination whose frames go to the receive FIFO whatever they carry (Table 12-4): slow protocols, IPv6 all-nodes and
solicited-node. -/
def toFifo (f : RxFrame) : Bool :=
  f.dest = [0x01, 0x80, 0xC2, 0, 0, 0x02] || f.dest = [0x33, 0x33, 0, 0, 0, 0x01] || f.dest.take 3 = [0x33, 0x33, 0xFF]
/-- Length of the frame with its FCS. -/
def len (f : RxFrame) : Nat := f.octets.length + 4

end RxFrame

/-! ### AUTHENTICATION TLV (R320) -/

/-- The TLV of a message that ends at `m`: SPP, secParamIndicator 0, keyID and the ICV, HMAC-SHA-256 of the message up to
the ICV cut to 16 octets. -/
def authSign (k : PtpKey) (m : List Byte) : List Byte :=
  let t := m ++ [0x80, 0x09, 0, 22, BitVec.ofNat 8 k.spp, 0] ++ beBytes 4 k.keyId
  t ++ (hmac256 k.key t).take 16

/-- Octets of a message before its TLVs, by messageType. -/
def msgBody (type : Nat) : Nat :=
  match type with
  | 2 | 3 | 9 | 10 => 54
  | 11 => 64
  | 13 => 48
  | _ => 44

/-- The AUTHENTICATION TLV found from offset `o` of message `m`, whose TLVs end at `e`. -/
def authFind (m : List Byte) (e : Nat) : Nat → Nat → Option Nat
  | 0, _ => none
  | n + 1, o =>
    if e < o + 4 then none
    else if octAt m o 2 = [0x80, 0x09] then some o
    else authFind m e n (o + 4 + beValue (octAt m (o + 2) 2))

/-- A message carries a valid ICV made with key `k`. -/
def authValid (k : PtpKey) (f : RxFrame) : Bool :=
  let m := f.message
  let e := min m.length (beValue (octAt m 2 2))
  match authFind m e 64 (msgBody f.type) with
  | none => false
  | some o => o + 26 ≤ e && octAt m o 26 = (authSign k (m.take o)).drop o

/-! ### Building a frame -/

/-- messageType and controlField of a message. -/
def Machine.MsgKind.code : MsgKind → Nat × Nat
  | .sync => (0, 0)
  | .delayReq => (1, 1)
  | .pdelayResp => (3, 5)
  | .followUp => (8, 2)
  | .delayResp => (9, 3)
  | .announce => (11, 5)
  | .frame => (0, 0)

/-- An event message, sent to UDP port 319. -/
def Machine.MsgKind.isEvent (k : MsgKind) : Bool := k.code.1 < 4

/-- Bits of a flag octet from a list of numbers 0 and 1, bit 0 first. -/
def flagOctet (l : List Nat) : Byte := BitVec.ofNat 8 (l.foldr (fun b a => b % 2 + 2 * a) 0)

/-- What follows the header: originTimestamp or the like, and the fields of the message type. -/
def Machine.TxMsg.body (m : TxMsg) : List Byte :=
  let stamp := beBytes 6 m.sec ++ beBytes 4 m.ns
  let a := fun (i n : Nat) => beBytes n (m.ann.getD i 0)
  match m.kind with
  | .announce => List.replicate 10 0 ++ a 0 2 ++ [0] ++ a 3 1 ++ a 5 1 ++ a 6 1 ++ a 7 2 ++ a 4 1 ++ a 13 8 ++ a 9 2 ++ a 8 1
  | .delayResp | .pdelayResp => stamp ++ octAt m.requester 0 10
  | _ => stamp

/-- The octets of a message, with its AUTHENTICATION TLV when it has a key (R320). -/
def Machine.TxMsg.message (m : TxMsg) (key : Option PtpKey) : List Byte :=
  let a := fun (i : Nat) => m.ann.getD i 0
  let uni := b2n ((m.dest.headD 0).toNat % 2 = 0)
  let head := [BitVec.ofNat 8 m.kind.code.1, 0x12]
    ++ beBytes 2 (34 + m.body.length + (if key.isSome then 26 else 0))
    ++ [BitVec.ofNat 8 m.domain, 0, flagOctet [0, b2n m.twoStep, uni],
        flagOctet [b2n (a 2 = 1), b2n (a 2 = 2), a 1, a 12, a 10, a 11]]
    ++ beBytes 8 (m.corr % 2 ^ 64).toNat ++ List.replicate 4 0 ++ octAt m.identity 0 10 ++ beBytes 2 m.seq
    ++ [BitVec.ofNat 8 m.kind.code.2, BitVec.ofInt 8 m.logInterval]
  match key with
  | none => head ++ m.body
  | some k => authSign k (head ++ m.body)

/-- Checksum of a list of words: the ones' complement of their sum. -/
def checksum (ws : List Nat) : Nat := 65535 - onesSum ws

/-- UDP header of a message over the pseudo-header `ps`; a checksum of 0 goes as all ones. -/
def udpHead (port : Nat) (ps : List Nat) (data : List Byte) : List Byte :=
  let len := 8 + data.length
  let c := checksum (ps ++ [17, len] ++ [port, port, len] ++ beWords data)
  beBytes 2 port ++ beBytes 2 port ++ beBytes 2 len ++ beBytes 2 (if c = 0 then 65535 else c)

/-- The frame of a message, without FCS: Ethernet header with the session's VLAN tag, IP and UDP headers of its mapping
from address `ip`; over IPv6 two trailing octets follow the message (R317). -/
def Machine.TxMsg.frameOf (m : TxMsg) (ip : List Byte) (key : Option PtpKey) : List Byte :=
  let msg := m.message key
  let port := if m.kind.isEvent then 319 else 320
  let tag := match m.vlan with | none => [] | some (pcp, v) => [0x81, 0] ++ beBytes 2 (pcp * 8192 + v)
  let fill := Config.ipFill
  let rest := match m.map with
    | 0 => [0x88, 0xF7] ++ msg
    | 1 =>
      let src := octAt ip 0 4
      let dst := octAt m.destIp 0 4
      let head := [0x45, BitVec.ofNat 8 (m.dscp * 4)] ++ beBytes 2 (28 + msg.length) ++ [fill 0, fill 1, fill 2, fill 3, fill 4, 17]
      let sum := beBytes 2 (checksum (beWords (head ++ src ++ dst)))
      [0x08, 0] ++ head ++ sum ++ src ++ dst ++ udpHead port (beWords (src ++ dst)) msg ++ msg
    | _ =>
      let src := octAt ip 0 16
      let dst := octAt m.destIp 0 16
      let data := msg ++ [0, 0]
      [0x86, 0xDD] ++ beBytes 4 (6 * 2 ^ 28 + m.dscp * 2 ^ 22) ++ beBytes 2 (8 + data.length) ++ [17, fill 5] ++ src ++ dst
        ++ udpHead port (beWords (src ++ dst)) data ++ data
  octAt m.dest 0 6 ++ octAt m.srcMac 0 6 ++ tag ++ rest

/-! ### The transmit pipeline (R317) -/

/-- Fields written in place into the message of a frame, at offsets of the message, and what that does to the UDP
checksum: 0 over IPv4; over IPv6 the two trailing octets take up the change of the words written. -/
def frameWrites (f : List Byte) (w : List (Nat × List Byte)) : List Byte :=
  match msgOffset f with
  | none => f
  | some (m, map) =>
    let g := w.foldl (fun x p => octPut x (m + p.1) p.2) f
    if map = 1 then octPut g (m - 2) [0, 0]
    else if map = 2 then
      let len := beValue (octAt f (m + 2) 2)
      let was := beWords (octAt f m 44)
      let now := beWords (octAt g m 44)
      let change := onesSum (List.zipWith (fun a b => onesSum [b, 65535 - a]) was now)
      octPut g (m + len) (beBytes 2 (onesSum [beValue (octAt f (m + len) 2), 65535 - change]))
    else g

/-- A message with its egress time inserted, SEC and NS in originTimestamp and FRAC added to correctionField: what the
transmit pipeline writes into a frame that holds it (Table 12-8). -/
def oneStepFrame (f : List Byte) (sec ns frac : Nat) : List Byte :=
  match msgOffset f with
  | none => f
  | some (m, _) =>
    frameWrites f
      [(6, [BitVec.ofNat 8 (setBit ((octAt f (m + 6) 1).headD 0).toNat 1 false)]),
       (8, beBytes 8 ((beValue (octAt f (m + 8) 8) + frac) % 2 ^ 64)),
       (34, beBytes 6 sec ++ beBytes 4 ns)]

/-- A Pdelay_Resp with its correctionField written as it leaves (R315). -/
def pdelayFrame (f : List Byte) (corr : Int) : List Byte := frameWrites f [(8, beBytes 8 (corr % 2 ^ 64).toNat)]

end Sys2Proof
end

