-- ==== Sys2Proof/Machine/Ptp.lean ====
section
/-! DEFINITION. Ethernet ports and the PTP session engine (spec/12_network_time.md, R304 to R329): sessions, scheduling,
what each message carries when it leaves, what a received frame meets, firmware's frames and the session commands.
Readings: log entry 47 (DEDUCED); the octets of the frames: log entry 78 (PRESUMED). -/

namespace Sys2Proof.Machine

/-! ### Session entries (Table 12-5) -/

/-- Little-endian value of `n` bytes at offset `o` of an entry. -/
def sesF (e : List Byte) (o n : Nat) : Nat := leValue ((e.drop o).take n)

def sesCtl (e : List Byte) : Word := BitVec.ofNat 32 (sesF e 0 4)
def sesValid (e : List Byte) : Bool := getBits (sesCtl e) 0 1 = 1
def sesClient (e : List Byte) : Bool := getBits (sesCtl e) 1 1 = 1
def sesPort (e : List Byte) : Nat := getBits (sesCtl e) 2 2
def sesMap (e : List Byte) : Nat := getBits (sesCtl e) 4 2
def sesMcast (e : List Byte) : Bool := getBits (sesCtl e) 6 1 = 1
def sesAuth (e : List Byte) : Bool := getBits (sesCtl e) 7 1 = 1
def sesTwoStep (e : List Byte) : Bool := getBits (sesCtl e) 8 1 = 1
def sesDomain (e : List Byte) : Nat := getBits (sesCtl e) 16 8
def sesLogSync (e : List Byte) : Int := signed 8 (sesF e 4 1)
def sesLogAnn (e : List Byte) : Int := signed 8 (sesF e 5 1)
def sesLogDelay (e : List Byte) : Int := signed 8 (sesF e 6 1)
def sesMac (e : List Byte) : List Byte := (e.drop 8).take 6
/-- Source address that a Delay_Req is matched by: MAC for IEEE 802.3, IP for UDP (R315). -/
def sesAddr (e : List Byte) : List Byte :=
  match sesMap e with | 0 => sesMac e | 1 => (e.drop 0x10).take 4 | _ => (e.drop 0x10).take 16
def sesIdentity (e : List Byte) : List Byte := (e.drop 0x20).take 10
def sesKey (e : List Byte) : Nat := sesF e 0x2A 1
def sesVlan (e : List Byte) : Option (Nat × Nat) :=
  if getBits (sesCtl e) 24 1 = 1 then some (getBits (sesCtl e) 25 3, sesF e 0x3E 1 + sesF e 0x2B 1 % 16 * 256) else none

/-- A multicast destination that an MCAST session may have (R306, R310). -/
def ptpMulticast (m : List Byte) : Bool :=
  m = [0x01, 0x1B, 0x19, 0, 0, 0] || m = [0x01, 0x80, 0xC2, 0, 0, 0x0E]

/-- Every field of an entry lies in its range (R310, R311). -/
def sesInRange (e : List Byte) : Bool :=
  let log := fun (lo v : Int) => decide (lo ≤ v ∧ v ≤ 4)
  sesMap e ≠ 3 && log (-7) (sesLogSync e) && log (-3) (sesLogAnn e) && log (-7) (sesLogDelay e)
    && sesF e 7 1 < 64 && sesF e 0x0E 1 < 128 && sesF e 0x0F 1 < 128 && sesKey e < 16
    && (!(sesMcast e) || (sesMap e = 0 && !(sesClient e) && ptpMulticast (sesMac e)))

/-- A grant that ends at `e` holds at TBU second `sec` (R310). -/
def granted (sec e : Nat) : Bool := decide (2 ^ 31 ≤ (sec % 2 ^ 32 + 2 ^ 32 - e) % 2 ^ 32)

/-- Tick `j = 128 * SEC + k` makes a message of interval `l` and phase `p` due (R312). -/
def tickDue (l : Int) (p j : Nat) : Bool := decide (((j : Int) - p) % (2 ^ (7 + l).toNat : Nat) = 0)

/-- Little-endian bytes replaced in an entry. -/
def sesPut (e : List Byte) (o : Nat) (b : List Byte) : List Byte := e.take o ++ b ++ e.drop (o + b.length)

/-- Priority of a message in its port queue (R313). -/
def MsgKind.prio : MsgKind → Nat
  | .delayResp | .pdelayResp => 0
  | .sync | .delayReq => 1
  | .followUp => 2
  | .announce => 3
  | .frame => 4

/-- A message that R308 stops while QUAL is below QMIN. -/
def MsgKind.needsQual : MsgKind → Bool
  | .sync | .followUp | .delayResp => true
  | _ => false

namespace State

def ptpPut (s : State) (p : Ptp) : State := { s with ptp := p }

/-! ### Ports (R305, R309) -/

/-- A port runs while enabled and the mode is not SAFE; its clocks run, and its lane is not held idle (R468). -/
def portRuns (s : State) (n : Nat) : Bool :=
  s.live (P.ETH n) && s.mode ≠ 0 && s.domRuns 6 && s.domRuns 7 && !s.pinsForced

/-- The recovered clock of port `n` is offered (R323). -/
def rclkShow (s : State) (n : Nat) : State :=
  let good := s.flag (F.ETH_STAT_LINK n) && s.flag (F.ETH_STAT_BLOCK_LOCK n)
  s.setFlag (F.ETH_STAT_RCLK_V n)
    (s.running (P.ETH n) && s.flag (F.ETH_SYNCE_RCLK_EN n) && (good || !(s.flag (F.ETH_SYNCE_SQUELCH n))))

/-- The time of an octet on the lane of port `n` in 2.5 ps, at 1, 10 or 25 Gbit/s (Table 12-1). -/
def octetTime (s : State) (n : Nat) : Nat := match s.fld (F.ETH_CFG_RATE n) with | 0 => 3200 | 1 => 320 | _ => 128

/-- The lane of port `n` goes idle: a Sync on it is cut and gets no Follow_Up (R305, R318). -/
def cutSync (s : State) (n : Nat) : State :=
  match s.ptp.sent.getD n none with
  | none => s
  | some m =>
    if m.kind = .sync ∧ 10 * (s.tbu.time / tuPs / 25) < 10 * m.egress + (m.octets.length + 4) * s.octetTime n then
      { s with ptp := { s.ptp with queue := s.ptp.queue.modify n fun q => q.filter fun j =>
          !(j.kind = .followUp && j.session = m.session && j.seq = m.seq) } }
    else s

/-- RUNNING of port `n` follows ENABLE and the mode (R305). With its receiver off the port sees no link. -/
def ethShowOne (s : State) (n : Nat) : State :=
  let on := s.enabled (P.ETH n) && s.mode ≠ 0
  let s1 := (if !on && s.running (P.ETH n) then s.cutSync n else s).setFlag (F.STAT_RUNNING (P.ETH n)) on
  let s2 := if on ∨ s.fld ⟨R.ETH_STAT n, 0, 6⟩ = 0 then s1 else (s1.setFld ⟨R.ETH_STAT n, 0, 6⟩ 0).irq (P.ETH n) 0
  s2.rclkShow n

/-- RUNNING of the ports; a lane that goes idle loses nothing but the frame on it. -/
def ethShow (s : State) : State := (List.range 4).foldl ethShowOne s

/-- MAC octets of a pair of registers in the layout of ETH_MAC0 and ETH_MAC1. -/
def macOf (lo hi : Word) : List Byte := beBytes 2 (getBits hi 0 16) ++ beBytes 4 lo.toNat

def portMac (s : State) (n : Nat) : List Byte := macOf (s.reg (R.ETH_MAC0 n)) (s.reg (R.ETH_MAC1 n))

/-- PAIR_VMAC + n (R339). -/
def pairMac (s : State) (n : Nat) : List Byte :=
  beBytes 6 ((beValue (macOf (s.reg R.PAIR_VMAC0) (s.reg R.PAIR_VMAC1)) + n) % 2 ^ 48)

def pairPort (s : State) (n : Nat) : Bool := bit (s.fld F.PAIR_CFG_PORTS) n

/-- Octets 4k to 4k + 3 of the port's IPv6 address. -/
def portIp6 (s : State) (n : Nat) : List Byte := (List.range 4).flatMap fun i => beBytes 4 (s.fld (F.PTPP_IP6_ADDR n i))

/-- Source MAC of the engine's messages (R339). -/
def engineMac (s : State) (n : Nat) : List Byte :=
  if s.fld F.PAIR_STAT_ROLE = 1 ∧ s.pairPort n then s.pairMac n else s.portMac n

/-- A destination that a port accepts (R305, R309). -/
def accepts (s : State) (n : Nat) (d : List Byte) : Bool :=
  d = s.portMac n || d = List.replicate 6 0xFF || (s.pairPort n && d = s.pairMac n)
    || ptpMulticast d || d = [0x01, 0x80, 0xC2, 0, 0, 0x02] || d = [0x01, 0, 0x5E, 0, 0x01, 0x81]
    || d = [0x01, 0, 0x5E, 0, 0, 0x6B] || d = [0x33, 0x33, 0, 0, 0x01, 0x81] || d = [0x33, 0x33, 0, 0, 0, 0x6B]
    || d = [0x33, 0x33, 0, 0, 0, 0x01] || d = [0x33, 0x33, 0xFF] ++ (s.portIp6 n).drop 13

/-! ### Time (R324) -/

/-- A time at the reference plane in 25 ps of TBU time: now, moved by `ps`, on the 25 ps grid. -/
def planeTime (s : State) (ps : Int) : Nat := (roundDiv ((s.tbu.time / tuPs : Nat) + ps) 25).toNat

def egressTime (s : State) (n : Nat) : Nat := s.planeTime (s.fldI (F.ETH_TSCAL_TXDLY n))
def ingressTime (s : State) (n : Nat) : Nat := s.planeTime (-(s.fldI (F.ETH_TSCAL_RXDLY n)))

/-- SEC, NS and FRAC (2^-16 ns, rounded to nearest) of a time in 25 ps. -/
def secOf (t : Nat) : Nat := t / 40 / 1000000000
def nsOf (t : Nat) : Nat := t / 40 % 1000000000
def fracOf (t : Nat) : Nat := (t % 40 * 65536 * 2 + 40) / 80

/-! ### Sessions (R307, R308, R310) -/

def sesAddrOf (s : State) (i : Nat) : Nat := sramBase + bankSize * s.fld F.PTP_BASE_BANK + 64 * i

/-- An ownership error of the engine stops every session (R310). -/
def sessOwn (s : State) : State := (s.ptpPut { s.ptp with ownErr := true }).sticky P.PTP 12

/-- The engine's use of its eight banks (R310): the first that is not its own answers with an ownership error, which
stops every session. Every use of a session goes to the lookup index and the queues in banks +1 to +7 as well (DEDUCED, log
entry 47). -/
def sesBanks (s : State) : State × Bool :=
  match ((List.range 8).map fun k => s.fld F.PTP_BASE_BANK + k).find? fun b => !(s.portRight Init.PTP b true) with
  | some b => ((s.bankFail ⟨Init.PTP, false, sramBase + bankSize * b, 4, 0⟩ .own).sessOwn, false)
  | none => (s, true)

/-- The engine's read of entry `i`. An uncorrectable error gives it no entry and is no ownership error. -/
def sesRead (s : State) (i : Nat) : State × Option (List Byte) :=
  match s.sesBanks with
  | (s1, false) => (s1, none)
  | (s1, true) => s1.portRead Init.PTP (s1.sesAddrOf i) 64

/-- The message types of entry `e` whose grants hold at TBU second `sec`: bits 0 (Sync), 1 (Announce) and 2 (Delay). -/
def grantMask (sec : Nat) (e : List Byte) : Nat :=
  if !(sesValid e) then 0
  else if sesClient e then 4 * b2n (granted sec (sesF e 0x34 4))
  else b2n (granted sec (sesF e 0x2C 4)) + 2 * b2n (granted sec (sesF e 0x30 4)) + 4 * b2n (granted sec (sesF e 0x34 4))

/-- Bits 0 to 2 of the grants of session `i` that have not been seen to end. -/
def grantsOf (s : State) (i : Nat) : Nat := Sparse.get (fun _ => 0) s.ptp.grants i

def grantsSet (s : State) (i m : Nat) : State := s.ptpPut { s.ptp with grants := Sparse.set (fun _ => 0) s.ptp.grants i m }

/-- The engine's write of entry `i`; the grants that hold with it are open until they end (R328). -/
def sesWrite (s : State) (i : Nat) (e : List Byte) : State × Bool :=
  match s.sesBanks with
  | (s1, false) => (s1, false)
  | (s1, true) =>
    match s1.portWrite Init.PTP (s1.sesAddrOf i) e with
    | (s2, true) => (s2.grantsSet i (if sesValid e then s2.grantsOf i ||| grantMask s2.nowSec e else 0), true)
    | (s2, false) => (s2, false)

/-- Entry `i` as memory holds it, for lookups that need no access of their own. -/
def sesPeek (s : State) (i : Nat) : List Byte := s.sramBytes (s.sesAddrOf i) 64

/-- Sessions with a byte of their entry listed in memory, ascending: all the others are all-zero. -/
def sesListed (s : State) : List Nat :=
  let base := s.sesAddrOf 0
  ((s.mem.sram.filter fun c => base ≤ c.1 && c.1 < base + 64 * 4096).map fun c => (c.1 - base) / 64).eraseDups

def sesAll (s : State) : List Nat := s.sesListed.filter fun i => sesValid (s.sesPeek i)

/-- The engine runs. -/
def ptpRuns (s : State) : Bool := s.live P.PTP && !s.ptp.ownErr && s.domRuns 7

/-- Sessions of this role act in the present mode (Table 12-3). -/
def roleRuns (s : State) (client : Bool) : Bool :=
  if client then s.mode = 5
  else s.mode = 2 || s.mode = 3 || s.mode = 4 || (s.mode = 5 && s.flag F.PTP_CFG_BC)

/-- An entry's session is released: not held by mode, fence or port. -/
def sesRuns (s : State) (e : List Byte) : Bool :=
  s.ptpRuns && sesValid e && s.roleRuns (sesClient e) && s.flag (F.PTPP_CFG_EN (sesPort e)) && s.portRuns (sesPort e)
    && !(s.flag F.PAIR_STAT_FENCED)

/-- The key slot that an authenticated session needs is valid. -/
def sesKeyOf (s : State) (e : List Byte) : Option PtpKey := s.ptp.keys.getD (sesKey e) none

/-- QUAL allows Sync and Delay_Resp (R308). -/
def qualServes (s : State) : Bool := decide (s.fld F.PTP_CFG_QMIN ≤ s.qual)

/-! ### Port queues (R313) -/

def portQueue (s : State) (n : Nat) : List PtpJob := s.ptp.queue.getD n []

def setPortQueue (s : State) (n : Nat) (q : List PtpJob) : State := s.ptpPut { s.ptp with queue := s.ptp.queue.set n q }

def enqueue (s : State) (n : Nat) (j : PtpJob) : State := s.setPortQueue n (s.portQueue n ++ [j])

/-- The message that leaves a port next: the first of the highest priority queued. -/
def portNext (s : State) (n : Nat) : Option PtpJob :=
  match s.portQueue n with
  | [] => none
  | j :: js => some (js.foldl (fun b y => if y.kind.prio < b.kind.prio then y else b) j)

/-- Remove the message that leaves next, when it is of kind `k`. -/
def portTake (s : State) (n : Nat) (k : MsgKind) : Option (PtpJob × State) :=
  match s.portNext n with
  | none => none
  | some j => if j.kind = k then some (j, s.setPortQueue n ((s.portQueue n).erase j)) else none

def blankJob (k : MsgKind) (i : Nat) (t : Nat) : PtpJob := ⟨k, i, 0, t, [], 0, [], [], 0, 0, [], 0⟩

/-- A session's message becomes due (R312, R313): the sequence number is taken from the entry; one of the same kind still
queued is dropped, late. -/
def makeDue (k : MsgKind) (so : Nat) (i at25 : Nat) (s : State) : State :=
  match s.sesRead i with
  | (s1, none) => s1
  | (s1, some e) =>
    let seq := (sesF e so 2 + 1) % 65536
    match s1.sesWrite i (sesPut e so (leBytes 2 seq)) with
    | (s2, false) => s2
    | (s2, true) =>
      let n := sesPort e
      let old := fun (j : PtpJob) => j.kind = k && j.session = i
      let late := (s2.portQueue n).any old && (k = .sync || k = .delayReq)
      let s3 := if late then
          ((s2.setPortQueue n ((s2.portQueue n).filter fun j => !(old j))).satFld F.PTP_LATE_COUNT 1).sticky P.PTP 8
        else s2
      s3.enqueue n { blankJob k i at25 with seq := seq }

/-- What tick `j` makes due for one session (Table 12-6). -/
def tickOne (sec j at25 : Nat) (s : State) (i : Nat) : State :=
  let e := s.sesPeek i
  if !(s.sesRuns e) then s
  else if sesAuth e && (s.sesKeyOf e).isNone then s.sticky P.PTP 13 (i % 256)
  else if sesClient e then
    if tickDue (sesLogDelay e) (sesF e 0x0E 1) j && granted sec (sesF e 0x34 4) then makeDue .delayReq 0x3C i at25 s else s
  else
    let syncDue := tickDue (sesLogSync e) (sesF e 0x0E 1) j && granted sec (sesF e 0x2C 4)
    let annDue := tickDue (sesLogAnn e) (sesF e 0x0F 1) j && granted sec (sesF e 0x30 4)
    let s0 := if (syncDue || annDue) && !s.qualServes then s.irq P.PTP 4 else s
    let s1 := if syncDue && s.qualServes then makeDue .sync 0x38 i at25 s0 else s0
    if annDue then makeDue .announce 0x3A i at25 s1 else s1

/-- The scheduling tick of an instant in ns of TBU time. -/
def tickOf (ns : Nat) : Nat := ns / 1000000000 * 128 + ns % 1000000000 / 7812500

/-- PTP_TICK: a firing of the scheduling trigger with instant `ns` (R312). -/
def ptpTick (s : State) (ns : Nat) : State :=
  if !s.ptpRuns then s
  else
    match s.sesBanks with
    | (s1, false) => s1
    | (s1, true) => s1.sesAll.foldl (tickOne (ns / 1000000000) (tickOf ns) (ns * 40)) s1

/-! ### Transmission (R314 to R320, R324) -/

/-- The clock identity, octet 0 first. -/
def clockId (s : State) : List Byte := beBytes 4 (s.reg R.PTP_CLKID1).toNat ++ beBytes 4 (s.reg R.PTP_CLKID0).toNat

def portIdentity (s : State) (n : Nat) : List Byte := s.clockId ++ beBytes 2 (n + 1)

/-- The key that a session's messages are signed with (R320). -/
def sesSigner (s : State) (e : List Byte) : Option PtpKey := if sesAuth e then s.sesKeyOf e else none

/-- A message of session `e` as it leaves port `n`, its own fields still blank. -/
def txBase (s : State) (k : MsgKind) (n i te : Nat) (e : List Byte) : TxMsg where
  kind := k
  session := i
  egress := te
  srcMac := s.engineMac n
  dest := sesMac e
  destIp := (e.drop 0x10).take 16
  map := sesMap e
  domain := sesDomain e
  vlan := sesVlan e
  dscp := sesF e 7 1 % 64
  identity := s.portIdentity n
  seq := 0
  twoStep := false
  corr := 0
  sec := 0
  ns := 0
  requester := []
  logInterval := 0
  ann := []
  comp := none
  udpZero := false
  auth := none
  octets := []
  fcs := 0

/-- A message has left port `n`, with its FCS. -/
def sentOut (s : State) (n : Nat) (m : TxMsg) : State :=
  (s.ptpPut { s.ptp with sent := s.ptp.sent.set n (some { m with fcs := crc32 m.octets }) }).satFld (F.ETH_TXFRM_COUNT n) 1

/-- The source IP address of port `n` for a mapping (R327). -/
def portIp (s : State) (n map : Nat) : List Byte :=
  if map = 1 then beBytes 4 (s.fld (F.PTPP_IP4_ADDR n)) else s.portIp6 n

/-- A message that the engine builds leaves port `n`: `fix` is what the transmit pipeline writes into its frame. -/
def sendBuilt (s : State) (n : Nat) (key : Option PtpKey) (m tmpl : TxMsg) (fix : List Byte → List Byte) : State :=
  let f := tmpl.frameOf (s.portIp n m.map) key
  let icv := f.drop (f.length - (if m.map = 2 then 18 else 16))
  s.sentOut n { m with octets := fix f, auth := key.map fun k => (k.spp, k.keyId, icv.take 16) }

/-- A frame in the staging moves to its port queue once that has room (R322). -/
def unstage (s : State) : State :=
  match s.ptp.staged with
  | none => s
  | some (d, oct) =>
    let n := getBits d 0 2
    if 8192 ≤ (s.portQueue n).length then s
    else
      ((s.ptpPut { s.ptp with staged := none }).enqueue n { blankJob .frame 0 0 with octets := oct, desc := d }).setFlag
        F.PTP_TXSTAT_BUSY false

/-- Message `j`, taken off its queue, leaves when its session still sends it: entry, key and QUAL are in order. -/
def sesSend (s : State) (j : PtpJob) (send : State → PtpJob → List Byte → State) : State :=
  match s.sesRead j.session with
  | (s1, none) => s1
  | (s1, some e) =>
    if !(s1.sesRuns e) then s1
    else if sesAuth e && (s1.sesKeyOf e).isNone then s1.sticky P.PTP 13 (j.session % 256)
    else if j.kind.needsQual && !s1.qualServes then s1.irq P.PTP 4
    else send s1 j e

/-- Take the message of kind `k` off port `n`; the room that it leaves takes a frame from the staging. -/
def txSession (s : State) (n : Nat) (k : MsgKind) (send : State → PtpJob → List Byte → State) : State :=
  if !(s.portRuns n) || !s.ptpRuns then s
  else
    match s.portTake n k with
    | none => s
    | some (j, s1) => (s1.sesSend j send).unstage

/-- The value that leaves an IPv6 message's UDP checksum unchanged, for a template of zeros (R317). -/
def compOf (sec ns frac : Nat) : Nat :=
  65535 - onesSum (beWords (beBytes 8 frac ++ beBytes 6 sec ++ beBytes 4 ns))

/-- What a port sends for job `j` of the session with entry `e`. -/
def syncSend (n : Nat) (t : State) (j : PtpJob) (e : List Byte) : State :=
  let te := t.egressTime n
  let two := sesTwoStep e || sesAuth e
  let base := { t.txBase .sync n j.session te e with seq := j.seq, twoStep := two, logInterval := sesLogSync e }
  if two then
    let m := { base with sec := secOf j.at25, ns := nsOf j.at25 }
    ((t.sendBuilt n (t.sesSigner e) m m id).addFld (F.PTPP_TXCNT_COUNT n 0) 1).enqueue n
      { blankJob .followUp j.session te with seq := j.seq }
  else
    let m := { base with
      corr := (fracOf te : Nat), sec := secOf te, ns := nsOf te, udpZero := sesMap e = 1
      comp := if sesMap e = 2 then some (compOf (secOf te) (nsOf te) (fracOf te)) else none }
    (t.sendBuilt n none m base fun f => oneStepFrame f (secOf te) (nsOf te) (fracOf te)).addFld (F.PTPP_TXCNT_COUNT n 0) 1

/-- SYNC_TRANSMIT: one-step with the fields of Table 12-8, or two-step with a Follow_Up to come (R317, R318, R320). -/
def syncTx (s : State) (n : Nat) : State := s.txSession n .sync (syncSend n)

/-- What a port sends for job `j` of the session with entry `e`. -/
def followUpSend (n : Nat) (t : State) (j : PtpJob) (e : List Byte) : State :=
  let m := { t.txBase .followUp n j.session (t.egressTime n) e with
    seq := j.seq, corr := (fracOf j.at25 : Nat), sec := secOf j.at25, ns := nsOf j.at25, logInterval := sesLogSync e }
  t.sendBuilt n (t.sesSigner e) m m id

/-- FOLLOW_UP_TRANSMIT (R318). -/
def followUpTx (s : State) (n : Nat) : State := s.txSession n .followUp (followUpSend n)

/-- leap61 and leap59 of R316, as 1 and 2. -/
def leapFlag (s : State) : Nat :=
  let at_ := s.fld F.TBU_LEAP0_SEC + s.fld F.TBU_LEAP1_SEC * 2 ^ 32
  let l := s.fld F.TBU_UTC_LEAP
  if (l = 1 ∨ l = 2) ∧ s.nowSec < at_ ∧ at_ ≤ s.nowSec + 43200 then l else 0

/-- The Announce fields of R316: currentUtcOffset, its validity, leap, priority1, priority2, clockClass, clockAccuracy,
offsetScaledLogVariance, timeSource, stepsRemoved, timeTraceable, frequencyTraceable, ptpTimescale,
grandmasterIdentity. -/
def annFields (s : State) : List Nat :=
  let a0 := s.reg R.PTP_ANN0
  let gm := if s.flag F.PTP_CFG_BC then (s.reg R.PTP_ANN4).toNat * 2 ^ 32 + (s.reg R.PTP_ANN3).toNat else beValue s.clockId
  [s.fld F.TBU_UTC_OFFSET, s.fld F.PTP_ANN2_UTCV, s.leapFlag, getBits a0 0 8, getBits a0 8 8, getBits a0 16 8,
   getBits a0 24 8, s.fld F.PTP_ANN1_OSLV, s.fld F.PTP_ANN1_TIMESRC, s.fld F.PTP_ANN2_STEPS, s.fld F.PTP_ANN2_TTRACE,
   s.fld F.PTP_ANN2_FTRACE, 1, gm]

/-- What a port sends for job `j` of the session with entry `e`. -/
def announceSend (n : Nat) (t : State) (j : PtpJob) (e : List Byte) : State :=
  let m := { t.txBase .announce n j.session (t.egressTime n) e with
    seq := j.seq, logInterval := sesLogAnn e, ann := t.annFields }
  (t.sendBuilt n (t.sesSigner e) m m id).addFld (F.PTPP_TXCNT_COUNT n 2) 1

/-- ANNOUNCE_TRANSMIT (R316). -/
def announceTx (s : State) (n : Nat) : State := s.txSession n .announce (announceSend n)

/-- An entry enters the receive FIFO, or is dropped (R321). -/
def rxPush (s : State) (x : RxEntry) : State :=
  if 1024 ≤ s.ptp.rx.length then (s.satFld F.PTP_RXSTAT_OVF 1).sticky P.PTP 11
  else s.ptpPut { s.ptp with rx := s.ptp.rx ++ [x] }

/-- What a port sends for job `j` of the session with entry `e`. -/
def delayReqSend (n : Nat) (t : State) (j : PtpJob) (e : List Byte) : State :=
  let te := t.egressTime n
  let m := { t.txBase .delayReq n j.session te e with seq := j.seq, logInterval := 0x7F }
  let t1 := t.sendBuilt n (t.sesSigner e) m m id
  let oct := ((t1.ptp.sent.getD n none).map (·.octets)).getD []
  t1.rxPush ⟨n, 6, false, false, false, j.session, min 2047 oct.length, te, t.qual, j.seq, oct.take 256⟩

/-- DELAY_REQ_TRANSMIT of a client session; its egress report enters the FIFO (R314). -/
def delayReqTx (s : State) (n : Nat) : State := s.txSession n .delayReq (delayReqSend n)

/-- What a port sends for job `j` of the session with entry `e`. -/
def delayRespSend (n : Nat) (t : State) (j : PtpJob) (e : List Byte) : State :=
  let m := { t.txBase .delayResp n j.session (t.egressTime n) e with
    seq := j.seq, corr := j.corr - fracOf j.at25, sec := secOf j.at25, ns := nsOf j.at25
    requester := j.identity, logInterval := sesLogDelay e
    dest := if sesMcast e then sesMac e else j.dest
    destIp := j.destIp }
  (t.sendBuilt n (t.sesSigner e) m m id).addFld (F.PTPP_TXCNT_COUNT n 1) 1

/-- DELAY_RESP_TRANSMIT (R315). -/
def delayRespTx (s : State) (n : Nat) : State := s.txSession n .delayResp (delayRespSend n)

/-- What a port sends for a Pdelay_Req that it answers itself: the correction takes the turnaround time. -/
def pdelaySend (n : Nat) (t : State) (j : PtpJob) : State :=
  let te := t.egressTime n
  let turn := roundDiv (((te : Int) - j.at25) * 65536) 40
  let tmpl : TxMsg := { t.txBase .pdelayResp n j.session te [] with
    dest := j.dest, destIp := j.destIp, map := j.map, domain := j.domain, vlan := none, seq := j.seq, corr := j.corr
    requester := j.identity, logInterval := 0x7F }
  let m := { tmpl with corr := j.corr + turn }
  (t.sendBuilt n none m tmpl fun f => pdelayFrame f (j.corr + turn)).addFld (F.PTPP_TXCNT_COUNT n 3) 1

/-- PDELAY_RESP_TRANSMIT: the turnaround is added to the request's correctionField (R315). -/
def pdelayRespTx (s : State) (n : Nat) : State :=
  if !(s.portRuns n) || !s.ptpRuns then s
  else
    match s.portTake n .pdelayResp with
    | none => s
    | some (j, t) => (pdelaySend n t j).unstage

/-- A firmware frame leaves its port, with its time stamp where the descriptor asks for one. -/
def frameSend (n : Nat) (t : State) (j : PtpJob) : State :=
  let te := t.egressTime n
  let oct := if getBits j.desc 12 1 = 1 then oneStepFrame j.octets (secOf te) (nsOf te) (fracOf te) else j.octets
  let m : TxMsg := { t.txBase .frame n 0 te [] with srcMac := t.portMac n, identity := [], octets := oct }
  let t1 := t.sentOut n m
  if getBits j.desc 11 1 = 1 then
      ((((t1.setReg R.PTP_TXTS0 (BitVec.ofNat 32 (fracOf te))).setReg R.PTP_TXTS1 (BitVec.ofNat 32 (nsOf te))).setReg
        R.PTP_TXTS2 (BitVec.ofNat 32 (secOf te))).setReg R.PTP_TXTS3
        (BitVec.ofNat 32 (secOf te / 2 ^ 32 % 65536 + getBits j.desc 24 8 * 65536))).irq P.PTP 1
  else t1

/-- FIRMWARE_FRAME_TRANSMIT (R322). -/
def frameTx (s : State) (n : Nat) : State :=
  if !(s.portRuns n) || !(s.live P.PTP) then s
  else
    match s.portTake n .frame with
    | none => s
    | some (j, t) => (frameSend n t j).unstage

/-- TXDATA_PUSH: four octets, octet 4i + j at bits 8j + 7 to 8j; 256 at most. -/
def txPush (s : State) (w : Nat) : State := s.ptpPut { s.ptp with stage := (s.ptp.stage ++ leBytes 4 w).take 256 }

/-- TX_GO (R322). A LEN outside 14 to 256 sends nothing (DEDUCED, log entry 22). -/
def txGo (s : State) : State :=
  if s.ptp.staged.isSome then s.setFlag F.PTP_TXSTAT_BUSY_ERR true
  else
    let len := s.fld F.PTP_TXDESC_LEN
    if len < 14 ∨ 256 < len then s.ptpPut { s.ptp with stage := [] }
    else
      let oct := (s.ptp.stage ++ List.replicate 256 0).take len
      ((s.ptpPut { s.ptp with stage := [], staged := some (s.reg R.PTP_TXDESC, oct) }).setFlag F.PTP_TXSTAT_BUSY true).unstage

/-! ### Reception (R305, R307 to R309, R314, R315, R320, R321) -/

/-- FCS errors of a port: count, and more than 100 in 1 s (R326). -/
def fcsError (s : State) (n : Nat) : State :=
  let now := s.tbu.samp
  let l := ((s.ptp.fcs.getD n []).filter fun t => (now + 2 ^ 48 - t) % 2 ^ 48 < 250000000) ++ [now]
  let s1 := (s.ptpPut { s.ptp with fcs := s.ptp.fcs.set n (l.drop (l.length - 101)) }).satFld (F.ETH_RXFCS_COUNT n) 1
  if 100 < l.length then s1.sticky (P.ETH n) 9 else s1

/-- A frame at a port: `none` when it goes no further (port idle, FCS error, filter, MTU). -/
def rxGate (s : State) (f : RxFrame) : State × Bool :=
  let n := f.port
  if !(s.portRuns n) then (s, false)
  else
    let s1 := s.satFld (F.ETH_RXFRM_COUNT n) 1
    if !f.fcsOk then (s1.fcsError n, false)
    else if !(s1.accepts n f.dest) ∨ s1.fld (F.ETH_CFG_MTU n) < f.len then (s1.satFld (F.ETH_RXDROP_COUNT n) 1, false)
    else (s1, true)

/-- The FIFO entry of a received frame. -/
def rxEntry (s : State) (f : RxFrame) (kind : Nat) (unmatched expired authOk : Bool) (i : Nat) : RxEntry :=
  ⟨f.port, kind, unmatched, expired, authOk, i, min 2047 f.octets.length, s.ingressTime f.port, s.qual, f.seq,
    f.octets.take 256⟩

/-- The master session that a Delay_Req matches: by port, MAP, domain and source address, or, on a multicast destination, the MCAST
entry of the port and domain (R315). -/
def masterMatch (s : State) (f : RxFrame) : Option Nat :=
  let here := fun (e : List Byte) => !(sesClient e) && sesPort e = f.port && sesDomain e = f.domain
  (s.sesAll.find? fun i =>
    let e := s.sesPeek i
    here e && sesMap e = f.map && sesAddr e = f.src).or
  (if (f.dest.headD 0).toNat % 2 = 1 then s.sesAll.find? fun i => let e := s.sesPeek i; here e && sesMcast e else none)

/-- The client session that a message comes to, by port, mapping, domain and the peer's portIdentity. -/
def clientMatch (s : State) (f : RxFrame) : Option Nat :=
  s.sesAll.find? fun i =>
    let e := s.sesPeek i
    sesClient e && sesPort e = f.port && sesMap e = f.map && sesDomain e = f.domain && sesIdentity e = f.identity

/-- Verification of a session's received message (R320): `none` when it is dropped, else AUTH_OK. -/
def authCheck (s : State) (i : Nat) (f : RxFrame) : State × Option Bool :=
  let e := s.sesPeek i
  let drop := fun (t : State) => ((t.satFld F.PTP_AUTHFAIL_COUNT 1).sticky P.PTP 10 (i % 256), (none : Option Bool))
  if !(sesAuth e) then (s, some false)
  else
    match s.sesKeyOf e with
    | none => drop (s.sticky P.PTP 13 (i % 256))
    | some k => if authValid k f then (s, some true) else drop s

/-- A response joins its port queue, or is dropped (PTP_QDROP). -/
def respond0 (s : State) (n : Nat) (j : PtpJob) : State × Bool :=
  if 8192 ≤ (s.portQueue n).length then ((s.satFld F.PTP_QDROP_COUNT 1).sticky P.PTP 9, false) else (s.enqueue n j, true)

/-- A Delay_Req that its port accepts (R314, R315). -/
def delayReqIn (s : State) (f : RxFrame) : State :=
  match s.masterMatch f with
  | none => s.rxPush (s.rxEntry f 1 true false false 0)
  | some i =>
    let e := s.sesPeek i
    if !(s.sesRuns e) then s.satFld F.PTP_HELDDROP_COUNT 1
    else
      match s.authCheck i f with
      | (s1, none) => s1
      | (s1, some ok) =>
        if !(granted s1.nowSec (sesF e 0x34 4)) then s1.rxPush (s1.rxEntry f 1 false true ok i)
        else if !s1.qualServes then (s1.irq P.PTP 4).rxPush (s1.rxEntry f 1 false false ok i)
        else
          let j : PtpJob := { blankJob .delayResp i (s1.ingressTime f.port) with
            seq := f.seq, identity := f.identity, corr := f.corr, dest := f.srcMac, destIp := f.srcIp, map := f.map
            domain := f.domain }
          match s1.respond0 f.port j with
          | (s2, true) => s2.addFld (F.PTPP_RXCNT_COUNT f.port) 1
          | (s2, false) => s2

/-- A Pdelay_Req that its port accepts: answered with PDRESP = 1, to the group that it was sent to or to its sender. -/
def pdelayReqIn (s : State) (f : RxFrame) : State :=
  if s.flag (F.PTPP_CFG_PDRESP f.port) then
    let group := (f.dest.headD 0).toNat % 2 = 1
    (s.respond0 f.port { blankJob .pdelayResp 0 (s.ingressTime f.port) with
      seq := f.seq, identity := f.identity, corr := f.corr, dest := if group then f.dest else f.srcMac
      destIp := if group then f.destIp else f.srcIp, map := f.map, domain := f.domain }).1
  else s.rxPush (s.rxEntry f 1 false false false 0)

/-- The session that another message belongs to: a client session's peer sends it, or, for Signaling (12) and Management
(13), a master session's. -/
def messageMatch (s : State) (f : RxFrame) : Option Nat :=
  match s.clientMatch f with
  | some i => some i
  | none => if f.type = 12 ∨ f.type = 13 then s.masterMatch f else none

/-- Another PTP message that its port accepts goes to the FIFO (Table 12-7); one of a session is verified (R320), and
dropped while the session is held (R307). -/
def messageIn (s : State) (f : RxFrame) : State :=
  match s.messageMatch f with
  | none => s.rxPush (s.rxEntry f f.kind true false false 0)
  | some i =>
    if !(s.sesRuns (s.sesPeek i)) then s.satFld F.PTP_HELDDROP_COUNT 1
    else
      match s.authCheck i f with
      | (s1, none) => s1
      | (s1, some ok) => s1.rxPush (s1.rxEntry f f.kind false false ok i)

/-- A frame arrives at its port: what it is, its octets say. A PTP message to an address of the engine (Table 12-4) goes to the
engine, which looks its sessions up in its own banks (R310); any other frame, and a message that the engine does not take because
an ownership error has stopped every session, goes to the FIFO (R321). -/
def receive (s : State) (f : RxFrame) : State :=
  match s.rxGate f with
  | (s1, false) => s1
  | (s1, true) =>
    if !(s1.live P.PTP) then s1
    else if f.ptp.isNone || f.toFifo then s1.rxPush (s1.rxEntry f f.kind false false false 0)
    else if !s1.ptpRuns then s1.rxPush (s1.rxEntry f f.kind true false false 0)
    else
      match s1.sesBanks with
      | (s2, false) => s2.rxPush (s2.rxEntry f f.kind true false false 0)
      | (s2, true) => if f.type = 1 then s2.delayReqIn f else if f.type = 2 then s2.pdelayReqIn f else s2.messageIn f

/-- RX_POP. -/
def rxPop (s : State) : State := s.ptpPut { s.ptp with rx := s.ptp.rx.drop 1, rxIdx := 0 }

/-- PTP_RXDESC0 to PTP_RXDESC4 as they read. -/
def rxDescWord (s : State) (k : Nat) : Word :=
  match s.ptp.rx with
  | [] => 0
  | x :: _ => BitVec.ofNat 32 (match k with
    | 0 => x.port + x.kind * 4 + b2n x.unmatched * 32 + b2n x.expired * 64 + b2n x.authOk * 128 + 256 + x.session * 512
        + x.len * 2 ^ 21
    | 1 => fracOf x.time + x.qual * 65536
    | 2 => nsOf x.time
    | 3 => secOf x.time % 2 ^ 32
    | _ => secOf x.time / 2 ^ 32 % 65536 + (if x.kind = 6 then x.seq else 0) * 65536)

/-- PTP_RXDATA_READ: the next four octets of the oldest entry; beyond the octets held, a free value (DESIGN CHOICE, log entry 3). -/
def rxData (s : State) : State × Word :=
  match s.ptp.rx with
  | [] => let (v, s1) := s.fresh; (s1, v.setWidth 32)
  | x :: _ =>
    if 4 * s.ptp.rxIdx < x.data.length then
      (s.ptpPut { s.ptp with rxIdx := s.ptp.rxIdx + 1 }, BitVec.ofNat 32 (leValue ((x.data.drop (4 * s.ptp.rxIdx)).take 4)))
    else let (v, s1) := s.fresh; (s1, v.setWidth 32)

/-! ### Session commands (R311, R338) -/

def sesStage (s : State) : List Byte := (List.range 16).flatMap fun k => leBytes 4 (s.reg (R.PTP_STAGE k)).toNat

/-- A second MCAST entry for a port and domain. -/
def secondMcast (s : State) (i : Nat) (e : List Byte) : Bool :=
  sesValid e && sesMcast e && s.sesAll.any fun k =>
    let x := s.sesPeek k
    k ≠ i && sesMcast x && sesPort x = sesPort e && sesDomain x = sesDomain e

/-- A command's answer: the state, and its result code. -/
def sesPutCmd (i : Nat) (keep : Bool) (s : State) : State × Nat :=
  let st := s.sesStage
  if !(sesInRange st) then (s, 1)
  else if s.secondMcast i st then (s, 2)
  else
    match s.sesRead i with
    | (s1, none) => (s1, 3)
    | (s1, some old) =>
      let e := if keep then sesPut st 0x38 ((old.drop 0x38).take 6) else st
      match s1.sesWrite i e with
      | (s2, true) => (s2, 0)
      | (s2, false) => (s2, 3)

def sesGetCmd (i : Nat) (s : State) : State × Nat :=
  match s.sesRead i with
  | (s1, none) => (s1, 3)
  | (s1, some e) => ((toWords e).zipIdx.foldl (fun (t : State) x => t.setReg (R.PTP_STAGE x.2) x.1) s1, 0)

def sesClearCmd (i : Nat) (s : State) : State × Nat :=
  match s.sesWrite i (List.replicate 64 0) with
  | (s1, true) => (s1, 0)
  | (s1, false) => (s1, 3)

def sesGrantCmd (i arg : Nat) (s : State) : State × Nat :=
  let st := s.sesStage
  match s.sesRead i with
  | (s1, none) => (s1, 3)
  | (s1, some e) =>
    let take := fun (x : List Byte) (b lo en : Nat) =>
      if bit arg b then sesPut (sesPut x lo ((st.drop lo).take 1)) en ((st.drop en).take 4) else x
    let e1 := take (take (take e 0 4 0x2C) 1 5 0x30) 2 6 0x34
    if !(sesInRange e1) then (s1, 1)
    else
      match s1.sesWrite i e1 with
      | (s2, true) => (s2, 0)
      | (s2, false) => (s2, 3)

/-- Pairing is active on a primary: attestation passed (R338). -/
def pairPrimary (s : State) : Bool := s.fld F.PAIR_STAT_ROLE = 1 && s.fld F.PAIR_STAT_ATT = 2

/-- What the primary's engine sends of its session table (R337). -/
def tableSend (s : State) (m : MirrorMsg) : State := { s with pair := { s.pair with table := some m } }

/-- A write to PTP_SESSCMD for entry `i`. A change on a primary is sent to the secondary and waits for its
acknowledgement, or diverges with the link down (R337, R338). -/
def sessCmd (s : State) (init i : Nat) (change : Bool) (run : State → State × Nat) : State :=
  if s.flag F.PTP_SESSSTAT_BUSY then (s.setFld F.PTP_SESSSTAT_RESULT 4).stickyAt P.PTP 14 0x050 true init 0
  else
    let (s1, r) := run s
    let s2 := (s1.setFlag F.PTP_SESSSTAT_BUSY true).setFld F.PTP_SESSSTAT_RESULT r
    if change ∧ r = 0 ∧ s2.pairPrimary then
      if s2.flag F.PAIR_STAT_LINK then
        let s3 := s2.tableSend (.entry i (s2.sesPeek i))
        { s3 with pair := { s3.pair with waitAck := true } }
      else s2.setFlag F.PAIR_STAT_DIVERGED true
    else s2

/-- A write of the whole word (REGISTER_WRITE of PTP_SESSCMD). -/
def sessCmdWord (s : State) (init w : Nat) : State :=
  let i := w % 4096
  match w / 4096 % 16 with
  | 1 => s.sessCmd init i true (sesPutCmd i false)
  | 2 => s.sessCmd init i true (sesPutCmd i true)
  | 3 => s.sessCmd init i false (sesGetCmd i)
  | 4 => s.sessCmd init i true (sesClearCmd i)
  | 5 => s.sessCmd init i true (sesGrantCmd i (w / 65536))
  | _ => s.sessCmd init i false fun t => (t, 1)

/-- SESS_DONE: a command completes locally. -/
def sessDone (s : State) : State :=
  if s.flag F.PTP_SESSSTAT_BUSY && !s.pair.waitAck then (s.setFlag F.PTP_SESSSTAT_BUSY false).irq P.PTP 2 else s

/-- GRANT_END: grants of session `i` that were open have ended, whether the second ran into END or a step, a load or a GRANT command
took END into the past (R328). -/
def grantEnd (s : State) (i : Nat) : State :=
  let now := grantMask s.nowSec (s.sesPeek i)
  if s.ptpRuns && s.grantsOf i ||| now ≠ now then (s.grantsSet i now).irq P.PTP 3 else s

/-- LINK_CHANGE: what the PCS of port `n` now sees (ETH_STAT bits 0 to 5). The recovered clock is offered under R323. -/
def linkChange (s : State) (n stat : Nat) : State :=
  if !(s.portRuns n) then s
  else
    let was := s.flag (F.ETH_STAT_LINK n)
    let s1 := s.setFld ⟨R.ETH_STAT n, 0, 6⟩ stat
    let up := s1.flag (F.ETH_STAT_LINK n)
    let s3 := (s1.rclkShow n).irq (P.ETH n) 0
    if was && !up then s3.sticky (P.ETH n) 8 else s3

/-- Values of ETH_CFG that R304 refuses or replaces, after a write: `old` is RATE before it. -/
def ethCfgFix (s : State) (n old : Nat) : State :=
  let s1 := if s.fld (F.ETH_CFG_RATE n) = 3 then (s.setFld (F.ETH_CFG_RATE n) old).sticky (P.ETH n) 10 else s
  let f := s1.fld (F.ETH_CFG_FEC n)
  if f = 3 ∨ s1.fld (F.ETH_CFG_RATE n) < f then s1.sticky (P.ETH n) 10 else s1

/-- INSTALL_PTP_KEY: Nymvis installs a key in a slot (R319). -/
def keyInstall (s : State) (slot : Nat) (k : Option PtpKey) : State :=
  let s1 := s.ptpPut { s.ptp with keys := s.ptp.keys.set slot k }
  (s1.setFld F.PTP_KEYSTAT_VALID (setBit (s1.fld F.PTP_KEYSTAT_VALID) slot k.isSome)).setFld (F.PTP_KEYID_ID slot)
    ((k.map (·.keyId)).getD 0)

end State

end Sys2Proof.Machine
end

