-- ==== Sys2Proof/Machine/Modes.lean ====
section
/-! DEFINITION. Operating modes: what a transition does, hardware entries to SAFE, commands, and the automatic transitions
judged at an epoch (spec/01_receiver_overview.md, R23 to R35, R543).
Readings: log entries 23, 25, 26 (DEDUCED). -/

namespace Sys2Proof.Machine
namespace State

def sysPut (s : State) (x : Sys) : State := { s with sys := x }

/-- The I/O supply that drives PAIR_HB is absent: the device is unpowered (R331; VMAIN, which Table 18-1 gives the 3.3 V I/O, or
an I/O rail; DEDUCED, log entry 80). -/
def unpowered (s : State) : Bool := s.pmu.porHeld && !(s.regBit R.PMU_RAILS 0 && s.regBit R.PMU_RAILS 6 && s.regBit R.PMU_RAILS 7)

/-- This device pulls PAIR_HB low for reset, SAFE or FAULT_N (R331) and where the pins are forced (Table 18-4); unpowered it
releases the line. -/
def selfLow (s : State) : Bool := !s.unpowered && (s.pinsForced || s.mode = 0 || !s.faultN)

/-- Follow this device's own pull of PAIR_HB (R341): while it pulls it sees neither pulses nor a fail-fast low, and a low line
counts only from its release. -/
def pairLine (s : State) : State :=
  if s.selfLow then
    let s1 : State := { s with pair := { s.pair with lowSince := none, pulse := false, released := none } }
    (s1.setFlag F.PAIR_STAT_HB_OK false).setFld F.PAIR_STAT_MISS 0
  else
    match s.pair.released with
    | some _ => s
    | none =>
      { s with pair := { s.pair with released := some s.nowNs, lowSince := if s.pair.peerLow then some s.nowNs else none } }

/-- A change of operating mode to `m` with a cause of Table 1-3: MODE, PREV and CAUSE; the injector, the outputs, the ports,
the pair line and the quality follow (R33, R95, R291, R305, R331); the runs of R543 begin anew; an entry to STANDBY or SAFE
ends a fence (DEDUCED, log entry 23); an entry to SURVEY begins a survey (R265; DEDUCED, log entry 63); in SAFE the antenna
feeds take the retained pattern (R24); an entry to SERVICE consumes its grant (R440). -/
def modeChange (s : State) (m cause : Nat) : State :=
  let s1 := ((s.setFld F.SYS_MODE_PREV s.mode).setFld F.SYS_MODE_MODE m).setFld F.SYS_MODE_CAUSE cause
  let s2 := s1.sysPut { s1.sys with
    missStart := none, validStart := none, survey := if m = 1 then Survey.reset else s1.sys.survey }
  let s3 := if m = 0 ∨ m = 6 then s2.setFlag F.PAIR_STAT_FENCED false
    else if m = 7 then s2.setFlag F.NYM_STAT_SVC_GRANT false else s2
  let s4 := s3.calModeChange m
  let s5 := if m = 0 ∨ m = 6 ∨ m = 7 then s4.pinsLow else s4
  let s6 := if m = 0 then s5.antSafe else s5
  s6.ethShow.pairLine.qualUpdate

/-- An entry into HOLDOVER (R28). -/
def holdoverEnter (s : State) (origin cause : Nat) : State :=
  (s.modeChange 4 cause).setFld F.SYS_MODE_ORIGIN origin

/-! ### GPIO (R505, R506) -/

/-- Pins of GPIO0 to GPIO15 that this device drives: outputs, but for a released open-drain one (R505). -/
def gpioDriven (s : State) : Nat :=
  (s.reg R.GPIO_DIR &&& ~~~(s.reg R.GPIO_OD &&& s.reg R.GPIO_OUT)).toNat % 2 ^ 16

/-- The levels at the balls: what the device drives, or pad retention holds, and elsewhere what the outside gives. -/
def gpioLevel (s : State) : Nat :=
  let (drive, out) := s.host.padHeld.getD (s.gpioDriven, s.fld F.GPIO_OUT_OUT)
  let d := BitVec.ofNat 16 drive
  ((d &&& BitVec.ofNat 16 out) ||| (~~~d &&& BitVec.ofNat 16 s.host.ext)).toNat

/-- Count the present level of ball `n`, with its selected edge. -/
def gpioCount (s : State) (n : Nat) : State :=
  let level := bit s.gpioLevel n
  if bit s.host.balls n = level then s
  else
    let s1 : State := { s with host := { s.host with balls := setBit s.host.balls n level } }
    let sel := s.fld F.GPIO_EDGE_EDGE / 4 ^ n % 4
    if s.live P.GPIO && bit sel (if level then 0 else 1) then s1.irq P.GPIO n else s1

/-- Levels that have changed count at once at the pins without debouncing. -/
def gpioShow (s : State) : State :=
  if s.gpioLevel = s.host.balls then s
  else (List.range 16).foldl (fun (t : State) n => if bit (t.fld F.GPIO_DEB_DEB) n then t else t.gpioCount n) s

/-- GPIO_SAFE applied to one pin (R506). -/
def gpioSafePin (s : State) (n : Nat) : State :=
  let put := fun (t : State) (f : Fld) (b : Bool) => t.setFld f (setBit (t.fld f) n b)
  match s.fld F.GPIO_SAFE_SAFE / 4 ^ n % 4 with
  | 1 => put s F.GPIO_DIR_DIR false
  | 2 => put (put (put s F.GPIO_DIR_DIR true) F.GPIO_OUT_OUT false) F.GPIO_OD_OD false
  | 3 => put (put (put s F.GPIO_DIR_DIR true) F.GPIO_OUT_OUT true) F.GPIO_OD_OD false
  | _ => s

def gpioSafe (s : State) : State := ((List.range 16).foldl gpioSafePin s).gpioShow

/-- Discard a pending command (R31). -/
def dropCommand (s : State) : State :=
  if s.flag F.SYS_MODE_CMD_PEND then (s.setFlag F.SYS_MODE_CMD_PEND false).setFlag F.SYS_MODE_CMD_DROPPED true else s

/-- A hardware entry to SAFE that does not reset the device (R24, R29, R31, R89, R295, R506). -/
def hwSafe (s : State) (cause : Nat) : State :=
  ((s.dropCommand.modeChange 0 cause).setFlag F.AUX_DACCFG_SAFE_EN false).gpioSafe

/-- MODE_COMMAND: a write of SYS_MODECMD with GO = 1 (R25, R31). -/
def modeCommand (s : State) (target : Nat) : State :=
  let s1 := s.setFld F.SYS_MODECMD_TARGET target
  (s1.sysPut { s1.sys with cmdTarget := target % 8 }).setFlag F.SYS_MODE_CMD_PEND true

/-- Full stage complete: loop and solution cores released. -/
def fullStage (s : State) : Bool := (List.range 10).all fun c => s.enabled (P.CORE c)

/-- One PTP port configured as client: an enabled port with a client session. -/
def clientPort (s : State) : Bool :=
  s.sesAll.any fun i => sesClient (s.sesPeek i) && s.flag (F.PTPP_CFG_EN (sesPort (s.sesPeek i)))

/-- Attestation of the pair passed. -/
def attPassed (s : State) : Bool := s.fld F.PAIR_STAT_ATT = 2

/-- The command transitions of Table 1-4 from mode `m` to `t`: their CAUSE, when the condition holds. -/
def commandCause (s : State) (m t : Nat) : Option Nat :=
  let grantIf := fun (b : Bool) (c : Nat) => if b then some c else none
  if t = 0 then grantIf (m ≠ 0) 1
  else if m = 0 then
    match t with
    | 1 | 3 => grantIf s.fullStage 1
    | 2 => grantIf (s.fullStage && s.sys.fixedPos) 1
    | 5 => grantIf (s.fullStage && s.clientPort) 1
    | 6 => grantIf (s.fullStage && s.attPassed) 1
    | 7 => grantIf (s.flag F.NYM_STAT_SVC_GRANT) 1
    | _ => none
  else
    match t with
    | 2 => grantIf ((m = 1 || m = 3 || m = 4 || m = 5) && s.sys.fixedPos) 1
    | 3 => grantIf (m = 2 || m = 1 || m = 4 || m = 5) 1
    | 1 => grantIf (m = 2 || m = 3 || m = 4 || m = 5) 1
    | 5 => grantIf ((m = 1 || m = 2 || m = 3 || m = 4) && s.clientPort) 1
    | 6 => grantIf ((1 ≤ m && m ≤ 5) && s.fld F.PAIR_STAT_ROLE = 2 && s.attPassed) 8
    | _ => none

/-- COMMAND_JUDGED (R26). -/
def commandJudge (s : State) : State :=
  if s.flag F.SYS_MODE_CMD_PEND then
    let s1 := s.setFlag F.SYS_MODE_CMD_PEND false
    match s1.commandCause s1.mode s1.sys.cmdTarget with
    | some c => s1.modeChange s1.sys.cmdTarget c
    | none => s1.setFlag F.SYS_MODE_CMD_REFUSED true
  else s

/-- ENTRY and RECOVER of SYS_HOLDCFG in ns. -/
def entryNs (s : State) : Nat := clampNat 1 100 (s.fld F.SYS_HOLDCFG_ENTRY) * 100000000
def recoverNs (s : State) : Nat := max 1 (s.fld F.SYS_HOLDCFG_RECOVER) * 1000000000

/-- The verdict of the last epoch's solution enters the runs of R543, when that epoch belongs to the present mode. -/
def judgeRuns (s : State) (v : Verdict) : State :=
  match s.sys.lastEpoch with
  | none => s
  | some (t, m) =>
    if m ≠ s.mode then s
    else
      match v with
      | .missing => s.sysPut { s.sys with missStart := some (s.sys.missStart.getD t), validStart := none, ownValid := false }
      | .valid => s.sysPut { s.sys with missStart := none, validStart := some (s.sys.validStart.getD t), ownValid := true }
      | .rejected => s.sysPut { s.sys with missStart := none, validStart := none, ownValid := false }

/-- The survey after a valid solution whose epoch lasted `dt` ns (R265). The weight of a position is the inverse of its
variance, of at least 1 (0.1 mm)^2; the uncertainty of the mean is that of independent positions (DEDUCED, log entry 63). -/
def surveyAdd (y : Survey) (x : Solution) (dt : Nat) : Survey :=
  let w := Frac.make 1 (max 1 x.var)
  { y with
    time := y.time + dt
    weight := y.weight.add w
    sum := (List.range 3).map fun i => (y.sum.getD i Frac.zero).add (w.mul (Frac.ofInt (x.pos.getD i 0))) }

/-- The survey time has reached the programmed duration (s) and the uncertainty is at or below the programmed limit
(0.1 mm). -/
def surveyReached (y : Survey) (dur lim : Nat) : Bool :=
  dur * 1000000000 ≤ y.time && (Frac.ofInt 1).le (y.weight.mul (Frac.ofInt (lim * lim : Nat)))

/-- The survey average, rounded to 0.1 mm. -/
def surveyMean (y : Survey) : Int × Int × Int :=
  let m := fun i => ((y.sum.getD i Frac.zero).div y.weight).round
  (m 0, m 1, m 2)

/-- The survey at the latch of time `t1` that judges the last epoch (R265): it advances only at an epoch of SURVEY with a valid
solution, and pauses at a missing or rejected one (R263). At completion the mean becomes the fixed position. With no
programmed duration and limit it does not complete (DEDUCED, log entry 63). -/
def surveyJudge (s : State) (t1 : Nat) (v : Verdict) (x : Solution) : State :=
  match s.sys.lastEpoch with
  | none => s
  | some (t, m) =>
    if m = 1 ∧ s.mode = 1 ∧ v = .valid then
      let y := surveyAdd s.sys.survey x (t1 - t)
      let done := match s.host.fw.survey with
        | none => false
        | some (d, l) => surveyReached y d l
      if done && !y.complete then
        let s1 := s.sysPut { s.sys with survey := { y with complete := true }, fixedPos := true }
        { s1 with host := { s1.host with fw := { s1.host.fw with position := some (surveyMean y) } } }
      else s.sysPut { s.sys with survey := y }
    else s

/-- The automatic transition that the last epoch causes (R29, R263, R543, Table 1-4): `some` when one takes effect. -/
def automatic (s : State) (v : Verdict) : Option State :=
  match s.sys.lastEpoch with
  | none => none
  | some (t, m) =>
    if m ≠ s.mode then none
    else if s.mode = 2 ∨ s.mode = 3 then
      if v = .rejected || (match s.sys.missStart with | some b => decide (b + s.entryNs ≤ t) | none => false) then
        some (s.holdoverEnter s.mode 4)
      else none
    else if s.mode = 4 then
      match s.sys.validStart with
      | some b => if b + s.recoverNs ≤ t then some (s.modeChange (s.fld F.SYS_MODE_ORIGIN) 5) else none
      | none => none
    else if s.mode = 1 ∧ s.sys.survey.complete ∧ s.flag F.SYS_MODECMD_AUTO_TIMING then some (s.modeChange 2 6)
    else none

/-- The mode logic at an epoch latch of TBU time `t` (ns): the last epoch's solution, then an automatic transition or the
pending command, one change at most (R29 to R31). `changed`: a takeover took effect in this cycle. -/
def modeEpoch (s : State) (t : Nat) (v : Verdict) (x : Solution) (changed : Bool) : State :=
  let s1 := (s.judgeRuns v).surveyJudge t v x
  let s2 := if changed then s1
    else match s1.automatic v with
      | some x => x
      | none => s1.commandJudge
  s2.sysPut { s2.sys with lastEpoch := some (t, s2.mode) }

end State
end Sys2Proof.Machine
end

