-- ==== Sys2Proof/Machine/Osnma.lean ====
section
/-! DEFINITION. What Nymvis verifies for OSNMA (R267, R444): the Merkle proof of a public key and the signature of a DSM-KROOT.
The layout of the messages is that of the Galileo OSNMA interface specification, which the spec names and does not repeat
(PRESUMED, log entry 76): in the buffer stand the NMA header (1 byte), the DSM-KROOT, and the DSM-PKR that carries the
proof. -/

namespace Sys2Proof.Machine

/-- Bytes of a DSM-KROOT or a DSM-PKR: the number of its 13-byte blocks is 6 more than the code in its first four bits. -/
def dsmLen (l : List Byte) : Nat := 13 * ((l.headD 0).toNat / 16 + 6)

/-- KROOT's length in bytes from the code KS. -/
def keyLen (ks : Nat) : Nat := [12, 13, 14, 15, 16, 20, 24, 28, 32].getD ks 0

/-- The Merkle root that a leaf of index `mid` gives with the four intermediate nodes of its proof. -/
def merkleRoot (mid : Nat) (leaf : List Byte) (nodes : List (List Byte)) : List Byte :=
  (nodes.foldl (fun (a : Nat × List Byte) x =>
    (a.1 / 2, sha256 (if a.1 % 2 = 0 then a.2 ++ x else x ++ a.2))) (mid, sha256 leaf)).2

/-- The leaf of a DSM-PKR: key type and ID, then the key: 33 bytes for P-256, 67 for P-521, the rest for an alert message. -/
def pkrLeaf (l : List Byte) : List Byte :=
  let key := (l.take (dsmLen l)).drop 129
  match (key.headD 0).toNat / 16 with
  | 1 => key.take 34
  | 3 => key.take 68
  | _ => key

/-- The proof of a DSM-PKR holds under the stored root. -/
def pkrProved (root l : List Byte) : Bool :=
  let nodes := (List.range 4).map fun k => (l.drop (1 + 32 * k)).take 32
  dsmLen l ≤ l.length && merkleRoot ((l.headD 0).toNat % 16) (pkrLeaf l) nodes = root

/-- A compressed P-256 point as x then y; `none` where no point has this x. -/
def p256Point (k : List Byte) : Option (List Byte) :=
  let x := beValue (k.drop 1)
  let v := (x * x * x + (p256P - 3) * x + p256B) % p256P
  let y := powMod p256P 256 v ((p256P + 1) / 4)
  if k.length ≠ 33 ∨ p256P ≤ x ∨ y * y % p256P ≠ v then none
  else
    let odd := (k.headD 0).toNat % 2
    some (beBytes 32 x ++ beBytes 32 (if y % 2 = odd then y else p256P - y))

/-- The root key of a DSM-KROOT `d` behind the NMA header `h` whose signature holds under the public key `key` (type and ID,
then the compressed point): ECDSA P-256 over SHA-256, hash function SHA-256, MAC function HMAC-SHA-256 or CMAC-AES (Table
10-9). -/
def krootOf (key h d : List Byte) : Option (List Byte) :=
  let n := keyLen ((d.getD 2 0).toNat / 16)
  let fn := (d.getD 1 0).toNat
  let m := h ++ (d.take (13 + n)).drop 1
  match p256Point (key.drop 1) with
  | none => none
  | some pub =>
    if n ≠ 0 ∧ 13 + n + 64 ≤ d.length ∧ (d.headD 0).toNat % 16 = (key.headD 0).toNat % 16 ∧ fn / 4 % 4 = 0 ∧ fn % 4 ≤ 1
        ∧ ecdsaVerify pub (sha256 m) ((d.drop (13 + n)).take 64) then
      some ((d.drop 13).take n)
    else none

/-- What OSNMA_KROOT finds in its buffer under the stored root: the key that a proof which holds leaves in force (`some none`
after a revocation), and the verified root key. -/
def osnmaVerify (root l : List Byte) : Option (Option (List Byte)) × Option (List Byte) :=
  let h := l.take 1
  let n := dsmLen (l.drop 1)
  let d := (l.drop 1).take n
  let p := l.drop (1 + n)
  if !pkrProved root p then (none, none)
  else
    let key := pkrLeaf p
    match (key.headD 0).toNat / 16 with
    | 1 => (some (some key), krootOf key h d)
    | 4 => (some none, none)
    | _ => (none, none)

end Sys2Proof.Machine
end

