-- ==== Sys2Proof/Machine/Nym.lean ====
section
/-! DEFINITION. Nymvis (chapter 17): service requests and their end, self-tests and the error state, keys and
zeroisation, lifecycle, secure boot and image verification, quotes, tamper sensors.
Readings: log entry 33 (DESIGN CHOICE); log entry 51 (DEDUCED). -/

namespace Sys2Proof.Machine

/-- Little-endian number of `n` bytes at an offset of a list. -/
def leAt (l : List Byte) (o n : Nat) : Nat := leValue ((l.drop o).take n)

/-- `n` bytes at an offset of a list. -/
def slice (l : List Byte) (o n : Nat) : List Byte := (l.drop o).take n

/-- A segment of a class image (Table 17-6). -/
structure Segment where
  target : Nat
  mem : Nat
  off : Nat
  len : Nat
  src : Nat
deriving DecidableEq, Repr

def imgClass (m : List Byte) : Nat := leAt m 6 1
def imgSvn (m : List Byte) : Nat := leAt m 7 1
def imgLen (m : List Byte) : Nat := leAt m 8 4
def imgSegs (m : List Byte) : List Segment :=
  (List.range (leAt m 12 1)).map fun i =>
    ⟨leAt m (16 + 16 * i) 1, leAt m (17 + 16 * i) 1, leAt m (20 + 16 * i) 4, leAt m (24 + 16 * i) 4, leAt m (28 + 16 * i) 4⟩
def imgPayload (m : List Byte) : List Byte := slice m 576 (imgLen m)

/-- Digest of a manifest for the firmware measurement (R438). -/
def imgDigest (m : List Byte) : List Byte := sha256 (m.take 0x230)

/-- Targets of a class: the Nymvis core, the loop cores, the solution cores, MC. -/
def classOf (target : Nat) : Option Nat :=
  if target = 0x0C then some 0 else if 1 ≤ target ∧ target ≤ 8 then some 1
  else if target = 9 ∨ target = 10 then some 2 else if target = 11 then some 3 else none

/-- The manifest fields are in range and every segment's target belongs to the class (R435, R436). -/
def imgFields (m : List Byte) : Bool :=
  576 ≤ m.length && leAt m 0 4 = 0x524C4B31 && leAt m 4 2 = 1 && imgClass m ≤ 3 && 1 ≤ leAt m 12 1 && leAt m 12 1 ≤ 16
    && leAt m 13 1 < 4 && leAt m 14 2 = 0 && (slice m 0x230 16).all (· = 0) && 576 + imgLen m ≤ m.length
    && (imgSegs m).all fun g =>
      classOf g.target = some (imgClass m) && g.mem ≤ 2 && g.off + g.len ≤ (if g.mem = 0 then 0x20000 else 0x10000)
        && g.src + g.len ≤ imgLen m

namespace State

def nymPut (s : State) (x : Nym) : State := { s with nym := x }

def lcs (s : State) : Nat := s.fld F.NYM_STAT_LCS

/-- The owner key slot in force holds this key and is not revoked (R436). -/
def ownerKeyOk (s : State) (pub : List Byte) : Bool :=
  let k := s.fld F.NYM_STAT_OWNER_SLOT
  s.lcs = 2 && !(s.nym.revoked.getD k false) && s.nym.owner.getD k none = some (sha256 pub)

/-- A key whose hash stands in a Lanidan slot of OTP (R436). -/
def lanidanKeyOk (pub : List Byte) : Bool := Config.lanidanHash 0 = sha256 pub || Config.lanidanHash 1 = sha256 pub

/-- Verdict on a class image (R436): RESULT 4 for fields, payload hash or signatures, 8 for an SVN below the counter. -/
def imgVerdict (s : State) (m : List Byte) : Nat :=
  if !imgFields m then 4
  else if sha256 (imgPayload m) ≠ slice m 0x110 32 then 4
  else
    let cls := imgClass m
    let flags := leAt m 13 1
    let lpub := slice m 0x130 64
    let lan := bit flags 0 && lanidanKeyOk lpub
      && ecdsaVerify lpub (sha256 (m.take 0x130)) (slice m 0x170 64)
    let opub := slice m 0x1B0 64
    let own := bit flags 1 && s.ownerKeyOk opub && ecdsaVerify opub (sha256 (m.take 0x170)) (slice m 0x1F0 64)
    let sigs := (lan || (2 ≤ cls && own)) && (!(s.nym.ownerReq && 1 ≤ cls) || own)
    if !sigs then 4
    else if imgSvn m < getBits (s.reg R.NYM_SVN) (8 * cls) 8 then 8
    else 0

/-- Bytes written into a memory of a core. -/
def coreBytes (s : State) (c : Nat) (m : LocalMem) (off : Nat) (bs : List Byte) : State :=
  let k := s.coreGet c
  s.coreSet c (bs.zipIdx.foldl (fun (t : Core) x => t.putLocal m (off + x.2) 1 x.1.toNat) k)

/-- The segments of a class image written into their cores' memories (step 3 of R374). -/
def imgInstall (s : State) (m : List Byte) : State :=
  let p := imgPayload m
  let s1 := (imgSegs m).foldl (fun (t : State) g =>
    t.coreBytes (g.target - 1) (if g.mem = 0 then .i else if g.mem = 1 then .x else .y) g.off (slice p g.src g.len)) s
  let cls := imgClass m
  let n := s1.nym
  let s2 := s1.nymPut { n with
    digests := n.digests.set cls (imgDigest m), svns := n.svns.set cls (imgSvn m)
    unmeasured := n.unmeasured.filter (· ≠ cls) }
  s2.setFlag F.NYM_STAT_MEAS_V s2.nym.unmeasured.isEmpty

/-- A window write by MC into the I memory of core `c` clears MEAS_V until that class is installed again (R438). -/
def unmeasure (s : State) (c : Nat) : State :=
  match classOf (c + 1) with
  | none => s
  | some cls =>
    (s.nymPut { s.nym with unmeasured := cls :: s.nym.unmeasured.filter (· ≠ cls) }).setFlag F.NYM_STAT_MEAS_V false

/-- The firmware measurement (R438). -/
def measurement (s : State) : List Byte := sha256 s.nym.digests.flatten

/-! ### Identity and OTP (R431, R432, R439) -/

/-- The device's public key, and its key ID: the SHA-256 of the uncompressed form. -/
def devicePub : List Byte := ecPublic Config.deviceKey.toNat
def deviceKeyId : List Byte := sha256 (0x04#8 :: devicePub)

/-- What GET_CARTOUCHE returns: the device certificate and then its intermediate. -/
def cartouche : List Byte := Config.deviceCert Config.serial devicePub ++ Config.interCert

/-- A count as the number of programmed bits (R431). -/
def thermometer (n : Nat) : Nat := 2 ^ n - 1

/-- The fields of Table 17-4 as their bits stand in OTP. A programming sequence belongs to one request, whose effect comes whole at
its end or, when power goes before it, not at all. -/
structure Otp where
  lifecycle : BitVec 64
  policy : BitVec 64
  lanidan : List Byte
  owner : List Byte
  rollback : BitVec 1024
  puf : List Byte
  key : List Byte
  certHash : List Byte
  serial : List Byte

/-- The OTP array (Table 17-4): 16 bits for each step of the lifecycle; OWNER_REQ, revocation of slots 0 to 3 and the JTAG fuse from
bit 0 of the policy (DESIGN CHOICE, log entry 33). -/
def otp (s : State) : Otp :=
  let n := s.nym
  { lifecycle := BitVec.ofNat 64 (thermometer (16 * s.lcs))
    policy := BitVec.ofNat 64 (b2n n.ownerReq + ((List.range 4).map fun k => 2 ^ (k + 1) * b2n (n.revoked.getD k false)).sum + 32 * b2n n.jtagFuse)
    lanidan := Config.lanidanHash 0 ++ Config.lanidanHash 1
    owner := (n.owner.map fun h => h.getD (List.replicate 32 0)).flatten
    rollback := BitVec.ofNat 1024 (((List.range 4).map fun c =>
      thermometer (getBits (s.reg R.NYM_SVN) (8 * c) 8) * 2 ^ (256 * c)).sum)
    puf := if n.puf then Config.pufData else List.replicate 256 0xFF
    key := if n.certKey then Config.wrappedKey else List.replicate 64 0xFF
    certHash := sha256 (Config.deviceCert Config.serial devicePub)
    serial := Config.serial ++ Config.factoryTrim }

/-- The Lanidan test program provisions a device in MANUFACTURE: the Cartouche key is generated inside and the certificate
written (Table 17-5). No row of the table asks for it. -/
def provision (s : State) : State :=
  if s.lcs = 0 then (s.nymPut { s.nym with certKey := true }).setFld F.NYM_STAT_LCS 1 else s

/-! ### Requests (R424 to R427) -/

/-- The services that take their bulk operand in the buffer. -/
def bulk : NymOp → Bool
  | .getCartouche | .hash | .hmac | .cmac | .gcm _ _ _ _ | .verify | .quote | .loadImage _ | .osnmaKroot | .co _ => true
  | _ => false

/-- Bytes of output that go to the buffer. -/
def outNeed (op : NymOp) : Nat :=
  match op with
  | .getCartouche => cartouche.length
  | .quote => 224
  | .verify => 160
  | _ => 1

/-- AON cycles since the raw count stood at `t`. -/
def rawSince (s : State) (t : Nat) : Nat := (s.aon.raw + 2 ^ 48 - t) % 2 ^ 48

/-- A CO nonce is in force and no older than 60 s of AON time (R423). -/
def nonceFresh (s : State) : Bool := s.nym.nonce.isSome && s.rawSince s.nym.nonceAt ≤ 60 * 32768

/-- Role and channel of Table 17-2: a service that needs a User, one that channel 1 alone offers, and CO_COMMAND, which needs the
nonce that CO_NONCE issued. -/
def roleOk (s : State) (ch : Nat) (op : NymOp) : Bool :=
  let user := s.nym.auth.getD ch false
  match op with
  | .getInfo | .selfTest | .coNonce | .authUser _ | .authEnd | .getCartouche | .zeroiseSession | .unknown => true
  | .loadImage _ | .advanceSvn _ | .osnmaKroot => user && ch = 1
  | .co _ => s.nonceFresh
  | _ => user

/-- The error state admits GET_INFO and SELF_TEST alone (R429). -/
def errorAdmits : NymOp → Bool
  | .getInfo | .selfTest => true
  | _ => false

/-- What the checks of R424, R426 and R429 find at the write of NYM_CMDc. -/
def nymCheck (s : State) (ch : Nat) (op : NymOp) (buf len : Nat) : Option Nat :=
  if s.flag F.NYM_STAT_ERROR ∧ !(errorAdmits op) then some 5
  else if op = .unknown then some 3
  else if !(s.roleOk ch op) then some 2
  else if !(bulk op) then none
  else if len < max 1 (outNeed op) ∨ buf < sramBase ∨ sramBase + 96 * bankSize < buf + len then some 3
  else if (banksOf buf len).any fun b => s.bankOwner b ≠ Init.NYM then some 7
  else none

/-- Service of the first request begins: a quote captures time with one TBU_NOW read (R442). -/
def nymBegin (s : State) : State :=
  match s.nym.queue with
  | [] => s
  | r :: rs =>
    if r.op = .quote ∧ r.cap = none then
      let t := s.tbuNow
      t.nymPut { t.nym with queue := { r with cap := some (s.nowFrac, s.qual, s.fld F.TBU_UNC_UNC) } :: rs }
    else s

/-- A write of NYM_CMDc starts a request, or is ignored while one is in progress (R424). -/
def nymStart (s : State) (init ch : Nat) (op : NymOp) : State :=
  if 2 ≤ ch then s
  else
    s.via init (R.NYM_CMD ch) fun t =>
      if t.flag (F.NYM_RSTAT_BUSY ch) then t.stickyAt P.NYM 8 (offOf (R.NYM_CMD ch)) true init ch
      else
        let buf := t.fld (F.NYM_BUF_ADDR ch)
        let len := t.fld (F.NYM_LEN_LEN ch)
        let r : NymReq := ⟨ch, op, buf, len, t.nymCheck ch op buf len, none⟩
        let t1 := t.setReg (R.NYM_RSTAT ch) 0x101
        let t2 := t1.nymPut { t1.nym with queue := t1.nym.queue ++ [r], reqAt := t1.nym.reqAt.set ch t1.aon.raw }
        if t2.nym.queue.length = 1 then t2.nymBegin else t2

/-- Output words into NYM_DATAc. -/
def nymWords (s : State) (ch : Nat) (ws : List Word) : State :=
  ws.zipIdx.foldl (fun (t : State) x => t.setReg (R.NYM_DATA ch x.2) x.1) s

/-- The first request ends: output, RESULT, BUSY, interrupt, hand-back of the buffer's banks (R424). -/
def nymEnd (s : State) (result : Nat) (out : List Word) : State :=
  match s.nym.queue with
  | [] => s
  | r :: rs =>
    let o := if result = 0 then out else []
    let s1 := s.nymWords r.ch o
    let s2 := s1.setReg (R.NYM_RSTAT r.ch) (BitVec.ofNat 32 (2 * b2n (result = 0) + result * 256 + o.length * 65536))
    let s3 := (s2.nymPut { s2.nym with queue := rs }).irq P.NYM r.ch
    let dest := if r.ch = 0 then Init.HOST else Init.MC
    let s4 := if bulk r.op then
        (banksOf r.buf r.len).foldl (fun (t : State) b =>
          if t.bankOwner b = Init.NYM ∧ (t.handOf b).isNone then t.handAccept b dest false false false Init.NYM else t) s3
      else s3
    s4.nymBegin

/-- A zeroisation, a tamper response or an entry into the error state ends the request being served (R425). -/
def nymAbort (s : State) (result : Nat) : State := if s.nym.queue.isEmpty then s else s.nymEnd result []

/-- Entry into the error state (R429); the DRBG state goes with it. -/
def nymError (s : State) : State :=
  let s1 := ((s.setFlag F.NYM_STAT_ERROR true).setFlag F.NYM_STAT_APPROVED false)
  let s2 := if s1.fld F.NYM_STAT_BOOT < 4 then s1.setFld F.NYM_STAT_BOOT 5 else s1
  (s2.nymPut { s2.nym with drbg := false }).nymAbort 5

/-- A failed self-test. -/
def selfTestFail (s : State) : State := (s.nymError).sticky P.NYM 9

/-- `n` fresh words. -/
def freshWords (s : State) : Nat → State × List Word
  | 0 => (s, [])
  | n + 1 =>
    let (v, s1) := s.fresh
    let (s2, l) := s1.freshWords n
    (s2, BitVec.ofNat 32 v.toNat :: l)

/-- The keys of the key store zeroised: in flash, in Nymvis RAM and in the engine's slots (R430, R443). -/
def zeroiseKeys (s : State) : State :=
  let s1 := s.nymPut { s.nym with
    store := KeyStore.empty, userKeys := List.replicate 4 none, ptpKeys := List.replicate 16 none, transport := [] }
  (List.range 16).foldl (fun (t : State) i => t.keyInstall i none) s1

/-- The lifecycle states in which a CO command or a Lanidan token is admitted (Table 17-5); commands under the owner key need
OWNED. -/
def coLife (s : State) (c : CoCmd) : Bool :=
  match c with
  | .takeOwnership _ _ => s.lcs = 1
  | .rotateOwner _ => s.lcs = 2 && s.fld F.NYM_STAT_OWNER_SLOT < 3
  | .rma true => s.lcs = 1
  | .scrap true => s.lcs ≠ 2
  | _ => s.lcs = 2

/-- A key that enters encrypted (R440): AES-256-GCM under the KEK that the one-step KDF derives from the ECC CDH secret of the owner's
and Nymvis's ephemeral keys, with the nonce as its context. `wrapped` is IV, ciphertext and tag (DESIGN CHOICE, log
entry 33). -/
def keyOpen (s : State) (eph wrapped : List Byte) : Option (List Byte) :=
  match s.nym.eph, s.nym.nonce with
  | some (d, _), some ws =>
    match ecdhSecret d eph with
    | none => none
    | some z =>
      let kek := kdfOneStep z (wordBytes ws)
      let iv := slice wrapped 0 12
      let ct := slice wrapped 12 32
      if gcmTag kek iv ct = slice wrapped 44 16 then some (gcmStream kek iv ct) else none
  | _, _ => none

/-- A key installed needs the device root key, which wraps the store; RESULT 6 without it (DEDUCED, log entry 51). -/
def keyEnter (s : State) (eph wrapped : List Byte) (f : List Byte → State) : State × Nat :=
  if !s.nym.rootKey then (s, 6)
  else
    match s.keyOpen eph wrapped with
    | none => (s, 4)
    | some k => (f k, 0)

/-- A CO command that its structure admits: its effect and RESULT (R432, R433, R440). -/
def coRun (s : State) (c : CoCmd) : State × Nat :=
  let n := s.nym
  match c with
  | .takeOwnership h req =>
    (((s.nymPut { n with owner := n.owner.set 0 (some h), ownerReq := req }).setFld F.NYM_STAT_LCS 2).setFld
      F.NYM_STAT_OWNER_SLOT 0, 0)
  | .rotateOwner h =>
    let k := s.fld F.NYM_STAT_OWNER_SLOT
    ((s.nymPut { n with owner := n.owner.set (k + 1) (some h), revoked := n.revoked.set k true }).setFld
      F.NYM_STAT_OWNER_SLOT (k + 1), 0)
  | .rma _ => ((s.nymPut { n with revoked := List.replicate 4 true }).zeroiseKeys.setFld F.NYM_STAT_LCS 3, 0)
  | .scrap _ =>
    let s1 := s.zeroiseKeys
    (((s1.nymPut { s1.nym with puf := false, certKey := false, jtagFuse := true, rootKey := false }).setFld
      F.NYM_STAT_LCS 4).setFlag F.NYM_STAT_DEBUG false, 0)
  | .debugGrant => (s.setFlag F.NYM_STAT_DEBUG true, 0)
  | .userKey i e w =>
    if 4 ≤ i then (s, 3)
    else s.keyEnter e w fun k =>
      s.nymPut { n with userKeys := n.userKeys.set i (some k), store := { n.store with user := n.store.user.set i (some k) } }
  | .ptpKey i e w id spp =>
    if 16 ≤ i then (s, 3)
    else s.keyEnter e w fun k =>
      let x : Option PtpKey := some ⟨k, id, spp⟩
      (s.nymPut { n with ptpKeys := n.ptpKeys.set i x, store := { n.store with ptp := n.store.ptp.set i x } }).keyInstall i x
  | .zeroise => (s.zeroiseKeys, 0)
  | .pairBind v a b clk =>
    if (n.pairRec.map (·.version)).getD 0 < v ∨ n.pairRec = none then
      (s.nymPut { n with pairRec := some ⟨v, a, b, clk⟩ }, 0)
    else (s, 0)
  | .serviceGrant => (s.setFlag F.NYM_STAT_SVC_GRANT true, 0)
  | .osnmaRoot r => (s.nymPut { n with osnmaRoot := some r }, 0)
  | .setPolicy req => (s.nymPut { n with ownerReq := req }, 0)

/-- Bytes of the arguments of a CO command code. -/
def coSize (code : Nat) : Nat := [33, 32, 1, 1, 0, 125, 130, 0, 76, 0, 32, 1].getD code 0

/-- The command that the signed structure in the buffer carries (R423): nonce at 0, code at 0x20, arguments at 0x24, then the
signer's public key and the signature (their places and codes are DESIGN CHOICE, log entry 33). -/
def coParse (l : List Byte) : Option CoCmd :=
  let code := leAt l 32 4
  let d := fun o n => slice l (36 + o) n
  let n := fun o k => leAt l (36 + o) k
  if l.length ≠ 36 + coSize code + 128 then none
  else
    match code with
    | 0 => some (.takeOwnership (d 0 32) (n 32 1 ≠ 0))
    | 1 => some (.rotateOwner (d 0 32))
    | 2 => some (.rma (n 0 1 ≠ 0))
    | 3 => some (.scrap (n 0 1 ≠ 0))
    | 4 => some .debugGrant
    | 5 => some (.userKey (n 0 1) (d 1 64) (d 65 60))
    | 6 => some (.ptpKey (n 0 1) (d 6 64) (d 70 60) (n 2 4) (n 1 1))
    | 7 => some .zeroise
    | 8 => some (.pairBind (n 0 4) (d 4 32) (d 36 32) (d 68 8))
    | 9 => some .serviceGrant
    | 10 => some (.osnmaRoot (d 0 32))
    | 11 => some (.setPolicy (n 0 1 ≠ 0))
    | _ => none

/-- The key that may sign a command (R423, Table 17-5): the one it installs, a Lanidan key for a token, else the owner key in
force. -/
def coSigner (s : State) (c : CoCmd) (pub : List Byte) : Bool :=
  match c with
  | .takeOwnership h _ => sha256 pub = h
  | .rma true | .scrap true => lanidanKeyOk pub
  | _ => s.ownerKeyOk pub

/-- Verdict on the structure of a command (R423): RESULT 9 for the lifecycle, 4 for a nonce that is not the one in force or a signature
over everything before it that fails. -/
def coVerdict (s : State) (c : CoCmd) (l : List Byte) : Nat :=
  let m := l.length - 64
  let pub := slice l (m - 64) 64
  if !s.coLife c then 9
  else if some (l.take 32) ≠ s.nym.nonce.map wordBytes then 4
  else if s.coSigner c pub && ecdsaVerify pub (sha256 (l.take m)) (l.drop m) then 0 else 4

/-- A CO_COMMAND whose structure stands in the buffer. A row that names another command than the structure carries asks for none
(RESULT 3, log entry 33). -/
def coOf (s : State) (c : Option CoCmd) (l : List Byte) : State × Nat :=
  match coParse l with
  | none => (s, 3)
  | some x =>
    if c.isSome ∧ c ≠ some x then (s, 3)
    else
      let v := s.coVerdict x l
      if v = 0 then s.coRun x else (s, v)

/-- The nonce is used, and with it go the ephemeral key and the KEK (R423, Table 17-3). -/
def coEnd (s : State) : State := s.nymPut { s.nym with nonce := none, eph := none }

/-- A quote but for its signature (Table 17-7). -/
def quoteBytes (s : State) (r : NymReq) : List Byte :=
  let (t, q, u) := r.cap.getD (0, 0, 0)
  let ns := t / 2 ^ 16
  leBytes 4 0x51544531 ++ leBytes 2 1 ++ leBytes 2 224 ++ leBytes 8 (ns / 1000000000) ++ leBytes 4 (ns % 1000000000)
    ++ leBytes 2 (t % 2 ^ 16) ++ leBytes 1 q ++ leBytes 1 s.mode ++ leBytes 4 u
    ++ leBytes 4 (s.reg R.NYM_INTEG).toNat
    ++ leBytes 4 (s.fld F.NYM_INTEGEP_EPOCH + s.lcs * 256 + b2n (s.flag F.NYM_STAT_MEAS_V) * 2048
        + b2n (s.flag F.NYM_STAT_DEBUG) * 4096)
    ++ leBytes 4 s.nym.quotes ++ s.measurement
    ++ wordBytes ((List.range 8).map fun k => s.reg (R.NYM_DATA r.ch k)) ++ deviceKeyId
    ++ leBytes 4 (s.reg R.NYM_SVN).toNat ++ List.replicate 20 0

/-- A key of 64 bytes from the sixteen DATA words. -/
def dataBytes (s : State) (ch n : Nat) : List Byte := wordBytes ((List.range n).map fun k => s.reg (R.NYM_DATA ch k))

/-- A digest of the buffer as output words. -/
def onBuffer (s : State) (r : NymReq) (f : State → List Byte → State × Nat × List Word) : State × Nat × List Word :=
  match s.portRead Init.NYM r.buf r.len with
  | (s1, none) => (s1, 3, [])
  | (s1, some l) => f s1 l

/-- AUTH_USER holds: DATA words 0 to 7 are the HMAC-SHA-256 of the fresh nonce under User key `i` (R423; their place is log
entry 33). -/
def authPass (s : State) (ch i : Nat) : Bool :=
  s.nonceFresh &&
    match s.nym.nonce, s.nym.userKeys.getD i none with
    | some ws, some key => hmac256 key (wordBytes ws) = s.dataBytes ch 8
    | _, _ => false

/-- A private key drawn from eight DRBG words: a number from 1 to n - 1. -/
def keyFrom (ws : List Word) : Nat := beValue (wordBytes ws) % (p256N - 1) + 1

/-- A signature with the Cartouche key, unwrapped for it (Table 17-3), with the secret of these DRBG words. -/
def deviceSign (ws : List Word) (m : List Byte) : List Byte := ecdsaSign Config.deviceKey.toNat (keyFrom ws) (sha256 m)

/-- The work of a request that passed its checks: RESULT and output words. -/
def nymRun (s : State) (r : NymReq) : State × Nat × List Word :=
  let ch := r.ch
  match r.op with
  | .getInfo =>
    (s, 0, [BitVec.ofNat 32 s.lcs, Config.moduleVersion, BitVec.ofNat 32 (b2n (s.flag F.NYM_STAT_APPROVED)), s.reg R.NYM_SVN])
  | .selfTest =>
    if s.fld F.NYM_TAMPER_NOW = 0 ∨ !(s.flag F.NYM_STAT_ERROR) then
      (((s.setFlag F.NYM_STAT_ERROR false).setFlag F.NYM_STAT_APPROVED true).nymPut { s.nym with drbg := true }, 0, [])
    else (s, 5, [])
  | .coNonce =>
    let (s1, ws) := s.freshWords 24
    let d := keyFrom ((ws.drop 8).take 8)
    let sig := if s1.nym.certKey && s1.nym.rootKey then deviceSign (ws.drop 16) (ecPublic d) else []
    (s1.nymPut { s1.nym with nonce := some (ws.take 8), nonceAt := s1.aon.raw, eph := some (d, sig), drbg := true }, 0, ws.take 8)
  | .authUser i =>
    let ok := s.authPass ch i
    (s.nymPut { s.nym with nonce := none, auth := if ok then s.nym.auth.set ch true else s.nym.auth }, if ok then 0 else 4, [])
  | .authEnd => (s.nymPut { s.nym with auth := s.nym.auth.set ch false }, 0, [])
  | .getCartouche => let (s1, ok) := s.portWrite Init.NYM r.buf cartouche; (s1, if ok then 0 else 7, [])
  | .hash => s.onBuffer r fun t l => (t, 0, toWords (sha256 l))
  | .hmac => s.onBuffer r fun t l => (t, 0, toWords (hmac256 (t.dataBytes ch 16) l))
  | .cmac => s.onBuffer r fun t l => (t, 0, toWords (aesCmac (t.dataBytes ch 8) l))
  | .gcm dec slot iv tag =>
    match s.nym.userKeys.getD slot none with
    | none => (s, 3, [])
    | some key =>
      s.onBuffer r fun t l =>
        let ct := if dec then l else gcmStream key iv l
        let tg := gcmTag key iv ct
        if dec ∧ tg ≠ tag then (t, 4, [])
        else
          let (t1, ok) := t.portWrite Init.NYM r.buf (gcmStream key iv l)
          (t1, if ok then 0 else 7, if dec then [] else toWords tg)
  | .verify => s.onBuffer r fun t l =>
    (t, if ecdsaVerify (slice l 0 64) (slice l 64 32) (slice l 96 64) then 0 else 4, [])
  | .random k =>
    if 64 < k then (s, 3, []) else let (s1, ws) := s.freshWords (ceilDiv k 4); (s1.nymPut { s1.nym with drbg := true }, 0, ws)
  | .quote =>
    if !s.nym.certKey then (s, 9, [])
    else if !s.nym.rootKey then (s, 6, [])
    else
      let (s1, ws) := s.freshWords 8
      let q := s1.quoteBytes r
      let (s2, ok) := s1.portWrite Init.NYM r.buf (q ++ deviceSign ws q)
      (s2.nymPut { s2.nym with quotes := s2.nym.quotes + 1 }, if ok then 0 else 7, [])
  | .loadImage install => s.onBuffer r fun t l =>
    let v := t.imgVerdict l
    if v ≠ 0 then (t, v, [])
    else if !install then (t, 0, toWords (sha256 ((t.nym.digests.set (imgClass l) (imgDigest l)).flatten)))
    else if (imgSegs l).any fun g => (t.coreGet (g.target - 1)).run ≠ .held then (t, 7, [])
    else
      let t1 := t.imgInstall l
      (t1, 0, toWords t1.measurement)
  | .advanceSvn cls =>
    if 4 ≤ cls then (s, 3, [])
    else
      let cur := getBits (s.reg R.NYM_SVN) (8 * cls) 8
      let new := max cur (s.nym.svns.getD cls 0)
      (s.setReg R.NYM_SVN (putBits (s.reg R.NYM_SVN) (8 * cls) 8 new), 0, [BitVec.ofNat 32 new])
  | .osnmaKroot =>
    match s.nym.osnmaRoot with
    | none => (s, 4, [])
    | some root => s.onBuffer r fun t l =>
      let (held, key) := osnmaVerify root l
      let t1 := match held with
        | none => t
        | some k => t.nymPut { t.nym with osnmaKey := k }
      match key with
      | none => (t1, 4, [])
      | some k => (t1, 0, toWords k)
  | .co c =>
    if !s.nonceFresh then (s, 2, [])
    else
      match s.portRead Init.NYM r.buf r.len with
      | (s1, none) => (s1.coEnd, 3, [])
      | (s1, some l) => let (s2, v) := s1.coOf c l; (s2.coEnd, v, [])
  | .zeroiseSession => (s.nymPut { s.nym with drbg := false }, 0, [])
  | .unknown => (s, 3, [])

/-- The services that run a self-test: SELF_TEST, and those that draw from the entropy source or generate a key pair (R428). -/
def tests : NymOp → Bool
  | .selfTest | .coNonce | .random _ | .quote => true
  | _ => false

/-- NYM_REQUEST_DONE: the request being served ends. `pass` says that its self-tests passed; a failed one puts the module in the error
state, which ends this request with RESULT 5 (R429). -/
def nymDone (s : State) (ch : Nat) (pass : Bool) : State :=
  match s.nym.queue with
  | [] => s
  | r :: _ =>
    if r.ch ≠ ch ∨ s.nym.starting then s
    else if s.flag F.NYM_STAT_ERROR ∧ !(errorAdmits r.op) then s.nymEnd 5 []
    else
      match r.fail with
      | some e => s.nymEnd e []
      | none =>
        if tests r.op ∧ !pass then s.selfTestFail
        else
          let (s1, v, ws) := s.nymRun r
          s1.nymEnd v ws

/-- AUTH_TIMEOUT: 300 s of AON time without a request on an authenticated channel. -/
def authTimeout (s : State) (ch : Nat) : State :=
  if s.nym.queue.any (·.ch = ch) ∨ s.rawSince (s.nym.reqAt.getD ch 0) < 300 * 32768 then s else s.nymPut { s.nym with auth := s.nym.auth.set ch false }

/-! ### Start, boot, tamper, watchdog (R428, R429, R434 to R436, R445, R446) -/

/-- The self-tests of a start of NYC end (R428). After a restart by the watchdog (R446) NYC then runs the image that R436 accepted
at boot. -/
def nymStarted (s : State) (pass : Bool) : State :=
  if !s.nym.starting then s
  else
    let s1 := s.nymPut { s.nym with starting := false, rootKey := pass && s.nym.puf, drbg := pass }
    if !pass then s1.selfTestFail
    else
      let ok := !(s1.flag F.NYM_STAT_ERROR)
      let s2 := s1.setFlag F.NYM_STAT_APPROVED ok
      if s2.fld F.NYM_STAT_BOOT = 0 ∧ ok then s2.setFld F.NYM_STAT_BOOT 1
      else if s2.fld F.NYM_STAT_BOOT = 4 ∧ (s2.coreGet 11).rom then (s2.coreHold 11).coreRelease 11
      else s2

/-- Nymvis hands a bank over. -/
def nymHand (s : State) (b dest : Nat) : State :=
  if s.bankOwner b = dest ∨ (s.handOf b).isSome then s else s.handAccept b dest false false false Init.NYM

/-- The class images of a bundle, one after the other (R435). -/
def bundleImages : Nat → List Byte → List (List Byte)
  | 0, _ => []
  | n + 1, l =>
    let k := 576 + imgLen l
    l.take k :: bundleImages n (l.drop k)

/-- A bundle that R436 accepts: four class images in order. -/
def bundleOk (s : State) (l : List Byte) : Bool :=
  let im := bundleImages 4 l
  im.map imgClass = [0, 1, 2, 3] && im.all fun m => s.imgVerdict m = 0

/-- MC is released with a verified bundle: class 0 and class 3 are installed, the measurement holds, the key store is unwrapped
into RAM or discarded (R430), PTP keys go to their slots, B18 to B21 go to HOST and every other bank to MC (R434, R436, R438, R443). -/
def mcRelease (s : State) (l : List Byte) (src : Nat) (keyStoreOk : Bool) : State :=
  let im := bundleImages 4 l
  let keys := if keyStoreOk then s.nym.store else KeyStore.empty
  let s1 := ((s.imgInstall (im.getD 0 [])).imgInstall (im.getD 3 []))
  let s2 := s1.nymPut { s1.nym with
    digests := im.map imgDigest, svns := im.map imgSvn, unmeasured := []
    store := keys, userKeys := keys.user, ptpKeys := keys.ptp, transport := keys.transport }
  let s3 := if keyStoreOk then s2 else s2.sticky P.NYM 12
  let s4 := (List.range 16).foldl (fun (t : State) i => t.keyInstall i (t.nym.ptpKeys.getD i none)) s3
  let s5 := (List.range 96).foldl (fun (t : State) b => t.nymHand b (if 18 ≤ b ∧ b ≤ 21 then Init.HOST else Init.MC)) s4
  let s6 := ((s5.setFlag F.NYM_STAT_MEAS_V true).setFld F.NYM_STAT_SOURCE src).setFld F.NYM_STAT_BOOT 4
  (((s6.coreHold 11).coreRelease 11).setFlag (F.CTRL_ENABLE (P.CORE mcCore)) true).coreRelease mcCore

/-- SVN of the management-core image of a bundle. -/
def bundleSvn (l : List Byte) : Nat := imgSvn ((bundleImages 4 l).getD 3 [])

/-- BUNDLE_VERIFIED: of the flash slots (an empty list is a slot that holds no bundle) the valid one with the higher class-3 SVN, slot A on a tie; else the host's turn. From the
host: the bundle in B18 to B21, or the boot has failed (R434, R436). -/
def bundleVerified (s : State) (a b : List Byte) (keyStoreOk : Bool) : State :=
  if s.flag F.NYM_STAT_ERROR then s
  else if s.fld F.NYM_STAT_BOOT = 1 then
    let okA := s.bundleOk a
    let okB := s.bundleOk b
    let s1 := if (okA || a.isEmpty) && (okB || b.isEmpty) then s else s.sticky P.NYM 11
    if okA ∧ (!okB ∨ bundleSvn b ≤ bundleSvn a) then s1.mcRelease a 0 keyStoreOk
    else if okB then s1.mcRelease b 1 keyStoreOk
    else [18, 19, 20, 21].foldl (fun (t : State) b => t.nymHand b Init.HOST) (s1.setFld F.NYM_STAT_BOOT 2)
  else if s.fld F.NYM_STAT_BOOT = 3 ∧ [18, 19, 20, 21].all (fun b => s.bankOwner b = Init.NYM) then
    let l := s.sramBytes (sramBase + 18 * bankSize) (4 * bankSize)
    if s.bundleOk l then s.mcRelease l 2 keyStoreOk
    else (s.sticky P.NYM 11).setFld F.NYM_STAT_BOOT 5
  else s

/-- HOST_BUNDLE_READY: the boot word stands at the last word of B21, and Nymvis takes the banks back (R434). -/
def hostBundle (s : State) : State :=
  if s.fld F.NYM_STAT_BOOT = 2 ∧ s.sramValue (sramBase + 22 * bankSize - 4) 4 = 0x424F4F54 then
    let s1 := s.setFld F.NYM_STAT_BOOT 3
    [18, 19, 20, 21].foldl (fun (t : State) b => t.nymHand b Init.NYM) s1
  else s

/-- The RTC is reported suspect (Table 17-8, Table 18-8). -/
def rtcSuspect (s : State) : State := (s.setFlag F.RTC_STAT_SUSPECT true).sticky P.RTC 8

/-- The CSPs in Nymvis RAM zeroised (Table 17-3); the DRBG state goes with the error state. -/
def zeroiseRam (s : State) : State :=
  s.nymPut { s.nym with
    rootKey := false, eph := none, userKeys := List.replicate 4 none, ptpKeys := List.replicate 16 none, transport := [] }

/-- A tamper sensor trips: 0 voltage, 1 temperature, 2 clock (R445). -/
def tamperTrip (s : State) (k : Nat) : State :=
  if 3 ≤ k then s
  else
    let s1 := (s.setFld F.NYM_TAMPER_NOW (setBit (s.fld F.NYM_TAMPER_NOW) k true)).setFld F.NYM_TAMPER_SEEN
      (setBit (s.fld F.NYM_TAMPER_SEEN) k true)
    let s2 := (((s1.satFld F.NYM_TAMPER_COUNT 1).sticky P.NYM 10).irq P.NYM 2)
    let s3 := s2.zeroiseRam.nymError
    if k = 2 then s3.rtcSuspect else s3

/-- A tamper condition goes away. -/
def tamperClear (s : State) (k : Nat) : State :=
  if 3 ≤ k then s else s.setFld F.NYM_TAMPER_NOW (setBit (s.fld F.NYM_TAMPER_NOW) k false)

/-- NYC starts in its ROM (R446, R472): the ROM's program is no part of the model. -/
def nycStart (s : State) : State :=
  let t := (s.coreHold 11).coreRelease 11
  t.coreSet 11 { t.coreGet 11 with rom := true }

/-- The Nymvis watchdog expires: NYC is held and restarts at the ROM, whose self-tests run anew, in the error state (R446). -/
def nymWatchdog (s : State) : State :=
  let s1 := (s.nymError).sticky P.NYM 13
  let s2 := s1.nymPut { s1.nym with starting := true, rootKey := false }
  s2.nycStart

end State

end Sys2Proof.Machine
end

