-- ==== Sys2Proof/Machine/Clock.lean ====
section
/-! DEFINITION. The root PLL, the clock domains and their switching, gating, and the clock monitor (R461 to R471).
Readings: log entry 53 (DEDUCED). -/

namespace Sys2Proof.Machine
namespace State

def clkPut (s : State) (x : Clk) : State := { s with clk := x }

def cmonPut (s : State) (x : Cmon) : State := { s with cmon := x }

/-- The derived domains 2 to 12 of Table 18-6. -/
def derived : List Nat := [2, 3, 4, 5, 6, 7, 8, 9, 10, 11, 12]

/-- Time and quality follow the sources of TIME (R273, R274). -/
def clockChanged (s : State) : State := s.refIro.qualUpdate

/-- A reference of CLK_ROOTCFG.REF is stable (R463). -/
def refStable (s : State) (r : Nat) : Bool :=
  match r with
  | 0 => s.flag F.CLK_ROOTSTAT_XO_STABLE
  | 1 => s.flag F.CLK_ROOTSTAT_REFIN_STABLE
  | 7 => s.flag F.CLK_ROOTSTAT_IRO_READY
  | r => 2 ≤ r && r ≤ 5 && s.flag (F.ETH_STAT_RCLK_V (r - 2))

/-- A domain is set to run from ROOT. -/
def onRoot (s : State) (d : Nat) : Bool := s.regBit R.CLK_RUN d && !(s.onIro d)

def lockChange (s : State) (l : Bool) : State :=
  if s.flag F.CLK_ROOTSTAT_LOCK = l then s else (s.setFlag F.CLK_ROOTSTAT_LOCK l).irq P.CLK 0

/-- The PLL holds its frequency and waits for a reference (R463, R468). -/
def pllHold (s : State) (ref : Option Nat) : State :=
  if s.clk.pllOn then
    let s1 := if s.flag F.CLK_ROOTSTAT_LOCK then s.setFlag F.CLK_ROOTSTAT_HOLD true else s
    (s1.lockChange false).clkPut { s1.clk with refWait := ref }
  else s

/-! ### Domains (R464, R465) -/

/-- A running domain starts to change source; a stopped one takes it at once. -/
def switchStart (s : State) (d : Nat) (iro : Bool) : State :=
  let s1 := if d = 3 then (s.setRegBit R.CLK_SRC d iro).corFit else s.setRegBit R.CLK_SRC d iro
  if s.regBit R.CLK_RUN d then
    (s1.setRegBit R.CLK_STAT d true).clkPut { s1.clk with switching := (d, b2n iro) :: s1.clk.switching.filter (·.1 ≠ d) }
  else s1

/-- DOMAIN_SWITCH: a write of CLK_SRC, domain by domain. -/
def srcWrite (s : State) (init w : Nat) : State :=
  let one := fun (t : State) (d : Nat) =>
    let iro := bit w d
    if iro = t.onIro d then t
    else if t.regBit R.CLK_STAT d then t.stickyAt P.CLK 10 (offOf R.CLK_SRC) true init 0
    else if !iro ∧ !(t.flag F.CLK_ROOTSTAT_LOCK) then t.stickyAt P.CLK 9 (offOf R.CLK_SRC) true init 0
    else if !iro ∧ (d = 3 ∨ d = 4) ∧ t.pmu.engHold then t
    else t.switchStart d iro
  (derived.foldl one s).clockChanged

/-- The rail that Table 18-1 has checked before CORR, ACQ, SDS or PAIR starts: VDD_ENG or VDD_SDS, as PMU_RAILS shows it (R449; a
domain whose rail is missing does not start, DEDUCED, log entry 53). -/
def railFor (s : State) (d : Nat) : Bool :=
  if d = 3 ∨ d = 4 then s.regBit R.PMU_RAILS 2
  else if d = 6 ∨ d = 11 then s.regBit R.PMU_RAILS 5
  else true

/-- DOMAIN_RUN_WRITE: a write of CLK_RUN starts and stops domains. -/
def runWrite (s : State) (init w : Nat) : State :=
  let one := fun (t : State) (d : Nat) =>
    let on := bit w d
    if on = t.regBit R.CLK_RUN d then t
    else if !on then
      ((t.setRegBit R.CLK_RUN d false).setRegBit R.CLK_STAT d false).clkPut { t.clk with
        switching := t.clk.switching.filter (·.1 ≠ d), stopped := t.clk.stopped.filter (· ≠ d) }
    else if !(t.onIro d) ∧ !(t.flag F.CLK_ROOTSTAT_LOCK) then t.stickyAt P.CLK 9 (offOf R.CLK_RUN) true init 0
    else if !(t.onIro d) ∧ (d = 3 ∨ d = 4) ∧ t.pmu.engHold then t
    else if !(t.railFor d) then t
    else t.setRegBit R.CLK_RUN d true
  (derived.foldl one s).clockChanged

/-- The new source of a switch delivers edges. -/
def newSourceRuns (s : State) (iro : Nat) : Bool :=
  if iro = 1 then s.flag F.CLK_ROOTSTAT_IRO_READY && !s.cmon.iroFailed else s.rootRuns

/-- The TBU adds the four lost cycles of the new source back (R274). -/
def timeAddBack (s : State) (iro : Nat) : State :=
  if s.loaded then
    let p : Nat := if iro = 1 then 10 * tuNs else 200 * 2 ^ 56
    ({ s with tbu := { s.tbu with time := s.tbu.time + 4 * p } } : State).pinsDue
  else s

/-- SWITCH_RESTART: the fourth edge of the new source restarts domain `d`; a FAILOVER switch that waited for it begins then
(R471). -/
def switchRestart (s : State) (d : Nat) : State :=
  match s.clk.switching.find? (·.1 = d) with
  | none => s
  | some (_, iro) =>
    if !(s.newSourceRuns iro) then s
    else
      let s1 := ((s.clkPut { s.clk with switching := s.clk.switching.filter (·.1 ≠ d) }).setRegBit R.CLK_STAT d false).irq P.CLK 1
      let s2 := if d = 5 then s1.timeAddBack iro
        else if d = 2 then s1.sampPass 4 else s1
      (if iro = 2 then s2.switchStart d true else s2).clockChanged

/-- SWITCH_FORCED: the old source has stopped, and the switch of domain `d` is forced; never one whose new source delivers no
edges. -/
def switchForced (s : State) (d : Nat) : State :=
  match s.clk.switching.find? (·.1 = d) with
  | none => s
  | some (_, iro) =>
    if !(s.newSourceRuns iro) then s
    else
      let s1 := (s.setRegBit R.CLK_STAT (16 + d) true).sticky P.CLK 11
      if d = 5 ∧ s1.loaded then
        ((s1.setFld F.TBU_UNC_UNC (min uncMax (s1.fld F.TBU_UNC_UNC + 200))).sticky P.TBU 11).qualUpdate
      else s1

/-! ### Root PLL (R463) -/

/-- A monitor record. -/
def monGet (s : State) (m : Nat) : Monitor := s.cmon.mon.getD m ⟨false, 0, false, false⟩

def monSet (s : State) (m : Nat) (x : Monitor) : State := s.cmonPut { s.cmon with mon := s.cmon.mon.set m x }

/-- Policy of a monitor: 0 OFF, 1 FAILOVER, 2 SAFE_WAIT. -/
def policy (s : State) (m : Nat) : Nat := if m = 2 then 2 else min 2 (s.fld F.CMON_POLICY_POLICY / 4 ^ m % 4)

/-- CMON_STAT.SAFE_WAIT and the pins follow the monitors (R468). -/
def safeWaitShow (s : State) : State :=
  let on := s.cmon.mon.any (·.safeWait)
  let s1 := s.setFlag F.CMON_STAT_SAFE_WAIT on
  ((if on then s1.pinsLow else s1).pairLine).qualUpdate

/-- A monitor is disarmed; of monitor 4, the domains that its SAFE_WAIT stopped run again (R463, R467, R470). -/
def monClear (s : State) (m : Nat) : State :=
  let s1 := (s.monSet m ⟨false, 0, false, false⟩).setRegBit R.CMON_STAT (8 + m) false
  if m = 4 then s1.clkPut { s1.clk with stopped := [] } else s1

/-- CLK_ROOTCFG transfers. `old` is the word in force before. -/
def rootCommit (s : State) (old : Word) : State :=
  let wasOn := getBits old 8 1 = 1
  let on := s.flag F.CLK_ROOTCFG_EN
  let ref := if s.fld F.CLK_ROOTCFG_REF = 6 then s.fld F.CLK_ROOTSTAT_REF else s.fld F.CLK_ROOTCFG_REF
  let s1 :=
    if wasOn ∧ !on then
      if derived.any (s.onRoot ·) then (s.setFlag F.CLK_ROOTCFG_EN true).sticky P.CLK 13
      else
        ((((s.lockChange false).setFlag F.CLK_ROOTSTAT_HOLD false).clkPut { s.clk with
          pllOn := false, everLocked := false, refWait := none, stopped := [] }).monClear 4).safeWaitShow
    else if !wasOn ∧ on then
      (s.setFld F.CLK_ROOTSTAT_REF ref).clkPut { s.clk with pllOn := true, everLocked := false, refWait := none }
    else s
  let s2 :=
    if s1.clk.pllOn ∧ wasOn ∧ ref ≠ s1.clk.refWait.getD (s1.fld F.CLK_ROOTSTAT_REF) then
      if s1.refStable ref then s1.pllHold (some ref) else s1.sticky P.CLK 9
    else s1
  s2.clockChanged

/-- The condition that arms a monitor (Table 18-8). -/
def armCond (s : State) (m : Nat) : Bool :=
  match m with
  | 0 => s.flag F.CLK_ROOTSTAT_XO_STABLE
  | 1 => s.flag F.CLK_ROOTSTAT_REFIN_STABLE && !(s.monGet 0).tripped
  | 2 => s.flag F.RTC_STAT_VALID
  | 3 => s.flag F.RTC_STAT_VALID && s.flag F.CLK_ROOTSTAT_XO_STABLE
  | 4 => s.clk.everLocked
  | 5 => s.clk.pllOn && 2 ≤ s.fld F.CLK_ROOTSTAT_REF && s.fld F.CLK_ROOTSTAT_REF ≤ 5
  | _ => false

/-- A monitor is armed (R467, R470). -/
def armed (s : State) (m : Nat) : Bool :=
  s.policy m ≠ 0 && !s.pmu.isolated && !(s.cmon.iroFailed && (m = 0 || m = 1 || m = 4))
    && ((s.monGet m).tripped || s.armCond m)

/-- CMON_STAT as a read shows it. -/
def cmonStatWord (s : State) : Word :=
  s.reg R.CMON_STAT ||| BitVec.ofNat 32 (((List.range 6).map fun m => b2n (s.armed m) * 2 ^ m).sum)

/-- The failed source of a monitor is the root reference. -/
def isReference (s : State) (m : Nat) : Bool :=
  let r := s.fld F.CLK_ROOTSTAT_REF
  s.clk.pllOn && match m with
    | 0 => r = 0
    | 1 => r = 1
    | 2 => r = 7
    | 5 => 2 ≤ r && r ≤ 5
    | _ => false

/-- FAILOVER (Table 18-8). A domain that is just switching to ROOT completes that switch first (R471). -/
def failover (s : State) (m : Nat) : State :=
  if m = 3 then s.rtcSuspect
  else if m = 4 then
    derived.foldl (fun (t : State) d =>
      if t.clk.switching.any (· = (d, 0)) then
        t.clkPut { t.clk with switching := t.clk.switching.map fun e => if e = (d, 0) then (d, 2) else e }
      else if t.onRoot d then t.switchStart d true else t) (s.clkPut { s.clk with stopped := [] })
  else if s.isReference m then s.pllHold (some 7)
  else s

/-- SAFE_WAIT of a monitor (R468). -/
def safeWait (s : State) (m : Nat) : State :=
  let s1 := s.monSet m { s.monGet m with safeWait := true }
  let s2 := if s1.isReference m then s1.pllHold none else s1
  let s3 := if m = 4 then s2.clkPut { s2.clk with stopped := derived.filter (s2.onRoot ·) } else s2
  s3.safeWaitShow

/-- Monitor 2 has tripped: IRO itself has failed (R470). -/
def iroFail (s : State) : State :=
  let s1 := ((s.setFlag F.CMON_ERR_IRO_FAIL true).sticky P.CMON 10 2).cmonPut { s.cmon with iroFailed := true }
  (([0, 1, 4].foldl monClear s1).nymPut { s1.nym with iroSignal := true }).safeWait 2

/-- A monitor trips (R468 to R470). -/
def monTrip (s : State) (m : Nat) : State :=
  let s1 := ((((s.monSet m ⟨true, 0, false, false⟩).setRegBit R.CMON_ERR m true).setRegBit R.CMON_STAT (8 + m) true).irq
    P.CMON 0).sticky P.CMON 8 m
  let s2 := if m = 0 then (s1.setFlag F.CLK_ROOTSTAT_XO_STABLE false).cmonPut { s1.cmon with xoCount := 0 }
    else if m = 1 then (s1.setFlag F.CLK_ROOTSTAT_REFIN_STABLE false).cmonPut { s1.cmon with refCount := 0 } else s1
  let s3 :=
    if m = 2 then s2.iroFail
    else if !(s2.flag F.CMON_STAT_IRO_READY) then
      (((s2.setFlag F.CMON_ERR_FALLBACK_NOT_READY true).sticky P.CMON 9 m).safeWait m).monSet m
        { tripped := true, inCount := 0, safeWait := true, fallback := true }
    else if s2.policy m = 2 then s2.safeWait m
    else s2.failover m
  s3.clockChanged

/-- A monitor returns: under SAFE_WAIT the PLL relocks, the stopped domains restart and the pins are released (R468). -/
def monReturn (s : State) (m : Nat) : State :=
  let was := s.monGet m
  let s1 := (s.monSet m ⟨false, 0, false, false⟩).setRegBit R.CMON_STAT (8 + m) false
  let s2 := if m = 2 then (s1.cmonPut { s1.cmon with iroFailed := false }).nymPut { s1.nym with iroSignal := false } else s1
  if was.safeWait then
    let s3 := if s2.isReference m ∧ s2.flag F.CLK_ROOTSTAT_HOLD ∧ s2.clk.refWait = none then
        (s2.setFlag F.CLK_ROOTSTAT_HOLD false).lockChange true else s2
    let s4 := if m = 4 then s3.clkPut { s3.clk with stopped := [] } else s3
    ((s4.irq P.CMON 1).safeWaitShow).clockChanged
  else s2.clockChanged

/-- The PLL holds its frequency until a monitor of its present reference returns from SAFE_WAIT (R468). -/
def holdsForReturn (s : State) : Bool :=
  s.clk.refWait.isNone && (List.range 6).any fun m => (s.monGet m).safeWait && s.isReference m

/-- PLL_LOCK: the PLL locks on its stable reference; a lost ROOT has returned. -/
def pllLock (s : State) : State :=
  let ref := s.clk.refWait.getD (s.fld F.CLK_ROOTSTAT_REF)
  if s.clk.pllOn ∧ !(s.flag F.CLK_ROOTSTAT_LOCK) ∧ s.refStable ref ∧ !s.holdsForReturn then
    let s1 := ((s.setFld F.CLK_ROOTSTAT_REF ref).setFlag F.CLK_ROOTSTAT_HOLD false).clkPut { s.clk with
      refWait := none, everLocked := true }
    let s2 := s1.lockChange true
    if (s2.monGet 4).tripped then s2.monReturn 4 else s2.clockChanged
  else s

/-- XO_STABLE: twenty counts in a row within CMON_WIN0. -/
def xoStable (s : State) : State :=
  if 20 ≤ s.cmon.xoCount ∧ !(s.flag F.CLK_ROOTSTAT_XO_STABLE) then (s.setFlag F.CLK_ROOTSTAT_XO_STABLE true).irq P.CLK 2 else s

/-- REFIN_STABLE: ten counts in a row within CMON_WIN1. -/
def refinStable (s : State) : State :=
  if 10 ≤ s.cmon.refCount ∧ !(s.flag F.CLK_ROOTSTAT_REFIN_STABLE) then s.setFlag F.CLK_ROOTSTAT_REFIN_STABLE true else s

/-- ROOT refers to a recovered clock that its port does not offer (R323). -/
def rclkGone (s : State) : Bool :=
  let r := s.fld F.CLK_ROOTSTAT_REF
  2 ≤ r && r ≤ 5 && !(s.flag (F.ETH_STAT_RCLK_V (r - 2)))

/-- The monitor treats the withdrawal of ROOT's recovered clock as a source failure (R323, R467). -/
def rclkWatch (s : State) : State := if s.rclkGone && s.armed 5 && !(s.monGet 5).tripped then s.monTrip 5 else s

/-- MONITOR_MEASURE: a measurement of monitor `m` deviates by `dev` ppb (R463, R467). A clock that is not offered is never within
its window (R323). -/
def monMeasure (s : State) (m : Nat) (dev : Int) : State :=
  if 6 ≤ m ∨ m = 4 ∨ s.pmu.isolated ∨ (m = 1 ∧ (s.monGet 0).tripped) then s
  else
    let inside := decide (dev.natAbs ≤ s.fld (F.CMON_WIN_WIN m) * 1000) && !(m = 5 && s.rclkGone)
    let s1 := if s.policy m = 0 then s else s.setFldI (F.CMON_MEAS_DEV m) dev
    let s2 :=
      if m = 0 then s1.cmonPut { s1.cmon with xoCount := if inside then s1.cmon.xoCount + 1 else 0 }
      else if m = 1 then s1.cmonPut { s1.cmon with refCount := if inside then s1.cmon.refCount + 1 else 0 }
      else s1
    let x := s2.monGet m
    if !(s2.armed m) then s2
    else if !x.tripped then (if inside then s2 else s2.monTrip m)
    else if !inside then s2.monSet m { x with inCount := 0 }
    else if x.inCount + 1 < 10 then s2.monSet m { x with inCount := x.inCount + 1 }
    else s2.monReturn m

/-- ROOT_LOCK_LOST: the lock detector loses ROOT; blanked while HOLD is 1. -/
def rootLost (s : State) : State :=
  if s.clk.pllOn ∧ s.flag F.CLK_ROOTSTAT_LOCK ∧ !(s.flag F.CLK_ROOTSTAT_HOLD) then
    let s1 := s.lockChange false
    if s1.armed 4 ∧ !(s1.monGet 4).tripped then s1.monTrip 4 else s1.clockChanged
  else s

/-- IRO_READY: IRO is ready, and a fallback that waited is carried out (R469). -/
def iroReady (s : State) : State :=
  let s1 := (s.setFlag F.CMON_STAT_IRO_READY true).setFlag F.CLK_ROOTSTAT_IRO_READY true
  let one := fun (t : State) (m : Nat) =>
    let x := t.monGet m
    if x.fallback then
      if t.policy m = 1 then (t.monSet m { x with safeWait := false, fallback := false }).failover m
      else t.monSet m { x with fallback := false }
    else t
  (([0, 1, 3, 4, 5].foldl one s1).safeWaitShow).clockChanged

/-- CMON's S fields transfer: monitor 2 keeps SAFE_WAIT, and a monitor switched off is not run. -/
def cmonCommit (s : State) : State :=
  let s1 := s.setFld F.CMON_POLICY_POLICY (s.fld F.CMON_POLICY_POLICY / 64 * 64 + 32 + s.fld F.CMON_POLICY_POLICY % 16)
  ((List.range 6).foldl (fun (t : State) m =>
    if t.policy m = 0 then t.monClear m else t) s1).safeWaitShow

/-! ### Gates (R466) -/

/-- Pages behind a gate bit: `g` is 0 or 1 for CLK_GATE0 or CLK_GATE1. -/
def gatePages (g b : Nat) : List Nat :=
  (pageKinds.flatMap fun k => (List.range k.count).map fun i => k.base + 4096 * i).filter fun p =>
    gateBit p = some (if g = 0 then R.CLK_GATE0 else R.CLK_GATE1, b)

/-- A write of CLK_GATE0 or CLK_GATE1. -/
def gateWrite (s : State) (init g w : Nat) : State :=
  let a := if g = 0 then R.CLK_GATE0 else R.CLK_GATE1
  let old := (s.reg a).toNat
  let s1 := s.setReg a (BitVec.ofNat 32 w)
  if (List.range 32).any fun b => bit old b && !(bit w b) && (gatePages g b).any (s.running ·) then
    s1.stickyAt P.CLK 12 (offOf a) true init 0
  else s1

end State
end Sys2Proof.Machine
end

