-- ==== Sys2Proof/Machine/Pmu.lean ====
section
/-! DEFINITION. The PMU: requests, IDLE, the entry phases up to the power-down, aborts and wake events, the retention list
as it is saved, regulators and operating-point changes (R449 to R460).
Readings: log entry 52 (DEDUCED). -/

namespace Sys2Proof.Machine
namespace State

def pmuPut (s : State) (x : Pmu) : State := { s with pmu := x }

def pmuState (s : State) : Nat := s.fld F.PMU_STAT_STATE
def pmuPhase (s : State) : Nat := s.fld F.PMU_STAT_PHASE
def pmuTarget (s : State) : Nat := s.fld F.PMU_STAT_TARGET

/-- An entry or exit sequence runs. -/
def inSequence (s : State) : Bool := 5 ≤ s.pmuState

/-! ### Regulators and operating points (R450, R459, R460) -/

/-- Voltage of an operating point in mV: per-die under AVS, else nominal (R450). -/
def oppVolt (s : State) (k : Nat) : Nat :=
  if s.flag F.PMU_DVFS_AVS then s.fld (F.PMU_OPPV_MV k) else match k with | 0 => 800 | 1 => 700 | _ => 620

/-- A point is allowed at the last acknowledged VDD_ENG (R459). -/
def oppAllowed (s : State) (k : Nat) : Bool :=
  s.pmu.engCmd.isSome && match s.pmu.engAck with
    | none => false
    | some v => s.oppVolt k ≤ v

/-- CLK_DIV code of a point for CORR and ACQ. -/
def oppDiv (k : Nat) : Nat := k

/-- A transaction to the regulator of VDD_ENG or VDD_PROC (R450). -/
def pmbTx (s : State) (eng : Bool) (c : PmbCmd) : PmbTx :=
  ⟨if eng then s.fld F.PMU_PMB_ENG_ADDR else s.fld F.PMU_PMB_PROC_ADDR, c, s.flag F.PMU_PMB_PEC⟩

/-- The data word of VOUT_COMMAND for a voltage in mV, in the format of VOUT_MODE: linear, with its exponent in bits [4:0]; 2^-9 V
before VOUT_MODE has been read (PRESUMED, log entry 82: R450 names the format and does not give it). -/
def voutWord (mode : Option Nat) (mv : Nat) : Nat :=
  let e := signed 5 (mode.getD 0x17 % 32)
  (if e < 0 then (mv * 2 ^ (-e).toNat + 500) / 1000 else (mv + 500 * 2 ^ e.toNat) / (1000 * 2 ^ e.toNat)) % 65536

/-- What a regulator that stands at `old` is sent for the voltage `v`: OPERATION where it goes on or off, VOUT_COMMAND to set it. -/
def pmbFor (s : State) (eng : Bool) (old v : Option Nat) : List PmbTx :=
  match v with
  | none => [s.pmbTx eng (.operation false)]
  | some mv =>
    let set := s.pmbTx eng (.voutCommand (voutWord (if eng then s.pmu.engMode else s.pmu.procMode) mv))
    if old.isNone then [s.pmbTx eng (.operation true), set] else [set]

/-- Command VDD_ENG. -/
def engCommand (s : State) (v : Option Nat) : State :=
  s.pmuPut { s.pmu with engCmd := v, engBusy := true, engAwait := v.isSome, pmbSent := s.pmbFor true s.pmu.engCmd v }

/-- Command VDD_PROC. -/
def procCommand (s : State) (v : Option Nat) : State :=
  s.pmuPut { s.pmu with procCmd := v, procBusy := true, procAwait := v.isSome, pmbSent := s.pmbFor false s.pmu.procCmd v }

/-- Start of the full stage: VOUT_MODE of both regulators is read (R450). -/
def voutModeRead (s : State) : State :=
  s.pmuPut { s.pmu with engBusy := true, procBusy := true, pmbSent := [s.pmbTx true .voutMode, s.pmbTx false .voutMode] }

/-- Start a change to point `k`: an announcement for a lower one, the regulator for a higher one. -/
def oppStart (s : State) (k : Nat) : State :=
  let s1 := (s.setFlag F.PMU_OPP_BUSY true).pmuPut { s.pmu with oppNext := k }
  if s.fld F.PMU_OPP_CUR < k then (s1.oppAnnounce k).pmuPut { s1.pmu with opp := .waitClear }
  else
    let s2 := s1.engCommand (some (s1.oppVolt k))
    s2.pmuPut { s2.pmu with opp := .waitAckUp }

/-- A pending target starts once no sequence runs. -/
def oppNextStart (s : State) : State :=
  match s.pmu.oppPend with
  | none => s
  | some k =>
    if s.pmu.opp ≠ .idle ∨ s.inSequence then s
    else ((s.pmuPut { s.pmu with oppPend := none }).setFlag F.PMU_OPP_PEND false).oppStart k

/-- The change ends. -/
def oppEnd (s : State) : State :=
  (((s.pmuPut { s.pmu with opp := .idle }).setFlag F.PMU_OPP_BUSY false).irq P.PMU 2).oppNextStart

/-- OPP_CHANGE: a write of PMU_OPP.TARGET. -/
def oppChange (s : State) (init k : Nat) : State :=
  if 3 ≤ k then s.stickyAt P.PMU 12 (offOf R.PMU_OPP) true init 0
  else
    let s1 := s.setFld F.PMU_OPP_TARGET k
    if s1.pmu.opp ≠ .idle ∨ s1.inSequence then (s1.pmuPut { s1.pmu with oppPend := some k }).setFlag F.PMU_OPP_PEND true
    else s1.oppStart k

/-- OPP_ANNOUNCE: the PMU holds the announcement of a lower point in CHS_OPP while it waits for CLEAR (R239). -/
def oppAnnounceAgain (s : State) : State :=
  if s.pmu.opp = .waitClear ∧ !(s.flag F.CHS_OPP_REQ) then s.oppAnnounce s.pmu.oppNext else s

/-- OPP_CLEAR_TIMEOUT: CHS_OPP.WAIT passes without CLEAR, and the PMU proceeds (R239). -/
def oppClearTimeout (s : State) : State :=
  if s.pmu.opp = .waitClear ∧ !(s.flag F.CHS_OPP_CLEAR) then
    (s.sticky P.CHS 15).pmuPut { s.pmu with opp := .divDown }
  else s

/-- The CORR and ACQ dividers take their codes; a lower CORR clock stops the slots over budget (R185, R461). -/
def divSet (s : State) (c a : Nat) : State :=
  let s1 := (((s.setFld F.CLK_DIV_CORR c).setFld F.CLK_DIV_ACQ a).clkPut { s.clk with divCorr := c, divAcq := a, divNext := none })
  s1.corFit

/-- A direct divider write that waits for the boundary takes effect. -/
def divNextApply (s : State) : State :=
  match s.clk.divNext with
  | none => s
  | some (c, a) => s.divSet c a

/-- The PMU's divider write of a lower point, and the command to the regulator after it (R460). -/
def oppLower (s : State) : State :=
  let k := s.pmu.oppNext
  let s1 := ((s.divSet k k).oppOver).engCommand (some (s.oppVolt k))
  s1.pmuPut { s1.pmu with opp := .waitAckDown }

/-- DIVIDER_APPLY: the 40-cycle boundary of ROOT at which a direct divider write and the PMU's take effect (R460, R461). -/
def dividerApply (s : State) : State :=
  let s := s.divNextApply
  let k := s.pmu.oppNext
  match s.pmu.opp with
  | .divUp => (((s.divSet k k).setFld F.PMU_OPP_CUR k).chsShow).oppEnd
  | .divDown => s.oppLower
  | .waitClear => if s.flag F.CHS_OPP_CLEAR then s.oppLower else s
  | _ => s

/-- A direct write of CLK_DIV (R461). -/
def divWrite (s : State) (init w : Nat) : State :=
  let v := BitVec.ofNat 32 w
  let c := getBits v 0 2
  let a := getBits v 4 2
  let same := c = s.fld F.CLK_DIV_CORR ∧ a = s.fld F.CLK_DIV_ACQ
  let fastest := [0, 1, 2].find? (s.oppAllowed ·)
  let ok := c ≠ 3 && a ≠ 3 && (match fastest with | none => decide same | some k => k ≤ c && k ≤ a)
  if ok then ((s.setFld F.CLK_DIV_CORR c).setFld F.CLK_DIV_ACQ a).clkPut { s.clk with divNext := some (c, a) }
  else s.stickyAt P.CLK 8 (offOf R.CLK_DIV) true init 0

/-- Bytes of a transaction on the bus, addresses and PEC included, and the time it takes in ns: 9 x B + 3 bit times of 2.5 us
(R450). -/
def pmbBytes (t : PmbTx) : Nat :=
  (match t.cmd with | .operation _ => 3 | .voutCommand _ => 4 | .readVout => 5 | .statusWord => 5 | .voutMode => 4) + b2n t.pec

/-- PMBUS_TRANSACTION_DONE: the transactions to VDD_ENG's or VDD_PROC's regulator complete; `data` is what a read of VOUT_MODE
returned. -/
def pmbusDone (s : State) (eng : Bool) (data : Nat) : State :=
  let mode := s.pmu.pmbSent.any fun t => t.cmd = .voutMode
  s.pmuPut (if eng then { s.pmu with engBusy := false, engMode := if mode then some (data % 256) else s.pmu.engMode }
    else { s.pmu with procBusy := false, procMode := if mode then some (data % 256) else s.pmu.procMode })

/-- PMBUS_ACK: READ_VOUT within 10 mV of the target is the regulator's acknowledgement. -/
def pmbusAck (s : State) (eng : Bool) (mv : Nat) : State :=
  let near := fun (c : Nat) => mv ≤ c + 10 && c ≤ mv + 10
  let s := s.pmuPut { s.pmu with pmbSent := [s.pmbTx eng .readVout] }
  if eng then
    match s.pmu.engCmd with
    | none => s
    | some v =>
      if near v then
        let s1 := s.pmuPut { s.pmu with engAck := some v, engAwait := false, engHold := false }
        match s1.pmu.opp with
        | .waitAckUp => s1.pmuPut { s1.pmu with opp := .settle }
        | .waitAckDown => (s1.setFld F.PMU_OPP_CUR s1.pmu.oppNext).oppEnd
        | _ => s1
      else s
  else
    match s.pmu.procCmd with
    | none => s
    | some v => if near v then s.pmuPut { s.pmu with procAck := some v, procAwait := false } else s

/-- PMBUS_ACK_TIMEOUT: ACKTO passes while an acknowledgement is awaited. A raise is abandoned; a lowering ends at the new point, and
the last acknowledged voltage stays the last acknowledged (R459, R460). -/
def pmbusTimeout (s : State) (eng : Bool) : State :=
  if !(if eng then s.pmu.engAwait else s.pmu.procAwait) then s
  else
    let s1 := (s.sticky P.PMU 9).pmuPut (if eng then { s.pmu with engAwait := false } else { s.pmu with procAwait := false })
    if !eng then s1
    else
      match s1.pmu.opp with
      | .waitAckUp => (s1.setFlag F.PMU_OPP_FAILED true).oppEnd
      | .waitAckDown => (s1.setFld F.PMU_OPP_CUR s1.pmu.oppNext).oppEnd
      | _ => s1

/-- DVFS_SETTLE_DONE: SETTLE has passed since the acknowledgement. -/
def settleDone (s : State) : State := if s.pmu.opp = .settle then s.pmuPut { s.pmu with opp := .divUp } else s

/-- PMB_ALERT: PMB_ALERT_N goes low and STATUS_WORD is read, or it goes high again. -/
def pmbAlert (s : State) (low : Bool) (status : Nat) (proc : Bool) : State :=
  let s1 := (s.pmuPut { s.pmu with
    alertN := !low, pmbSent := if low then [s.pmbTx (!proc) .statusWord] else s.pmu.pmbSent }).setFlag F.PMU_PMBSTAT_ALERT low
  if low then ((s1.setFld F.PMU_PMBSTAT_STATUS_WORD status).setFlag F.PMU_PMBSTAT_SOURCE proc).sticky P.PMU 10 else s1

/-- PROCV_WRITE: VDD_PROC is commanded at once, clamped to 600 mV to 850 mV. -/
def procvWrite (s : State) (w : Nat) : State :=
  let v := clampNat 600 850 (getBits (BitVec.ofNat 32 w) 0 10)
  (s.setFld F.PMU_PROCV_MV v).procCommand (some v)

/-! ### Retention list (R458) -/

/-- Words of the retention list that hold a register as it stands (Table 18-5b). -/
def retRegs : List (Nat × Nat) :=
  [(7, R.AUX_DAC), (9, R.ANT_RETAIN), (17, R.TBU_UTC), (18, R.TBU_LEAP0), (19, R.TBU_LEAP1), (20, R.TBU_UNCGROW),
   (31, R.PAIR_ASYM), (32, R.PAIR_VMAC0), (33, R.PAIR_VMAC1), (34, R.PTP_CLKID0), (35, R.PTP_CLKID1),
   (36, R.RTC_TRIM), (37, R.RTC_UNCPPB), (39, R.PMU_PROCV), (40, R.CLK_ROOTCFG), (41, R.CLK_RUN), (42, R.CLK_DIV),
   (43, R.CLK_GATE0), (44, R.CLK_GATE1), (45, R.CMON_POLICY), (52, R.PMU_CFG), (149, R.PMU_WSHAD0), (150, R.PMU_WSHAD1)]
  ++ (List.range 6).map (fun i => (46 + i, R.CMON_WIN i))
  ++ (List.range 32).flatMap (fun n => [(53 + 3 * n, R.DRL_CFG n), (54 + 3 * n, R.DRL_PERIOD n), (55 + 3 * n, R.DRL_PHASE n)])
  ++ (List.range 2).flatMap (fun i => [(181 + 3 * i, R.TIO_PPSCFG i), (182 + 3 * i, R.TIO_PPSDLY i), (183 + 3 * i, R.TIO_PPSWID i)])
  ++ (List.range 8).flatMap (fun i => [(187 + 3 * i, R.TIO_TOUTCFG i), (188 + 3 * i, R.TIO_TOUTDLY i), (189 + 3 * i, R.TIO_TOUTWID i)])
  ++ (List.range 4).map (fun i => (211 + i, R.TIO_EVCFG i))

def retGet (s : State) (i : Nat) : Word := Sparse.get (fun _ => 0) s.pmu.retMem i

def retSet (s : State) (i : Nat) (w : Word) : State :=
  s.pmuPut { s.pmu with retMem := Sparse.set (fun _ => 0) s.pmu.retMem i w }

def retNat (s : State) (i v : Nat) : State := s.retSet i (BitVec.ofNat 32 v)

/-- CRC-32 over words 0 to 398 of the list (R458), each word least significant bit first (DESIGN CHOICE, log entry 86). -/
def retCrc (s : State) : Nat := crc32Of 32 ((Sparse.dense 0 399 0 s.pmu.retMem).map BitVec.toNat)

/-- Word 399 holds the CRC-32 of the words before it. -/
def retSeal (s : State) : State := s.retNat 399 s.retCrc

/-- The list is valid: its MAGIC and its CRC-32 are correct (R458). -/
def retValid (s : State) : Bool := s.retGet 0 = 0x52455431 && (s.retGet 399).toNat = s.retCrc

/-- Entry flags, word 4 of the list: bit 0, its TBU snapshot counts; bit 1, its owner entries count (DESIGN CHOICE, log entry 86). -/
def retTbuV (s : State) : Bool := getBits (s.retGet 4) 0 1 = 1
def retOwnersV (s : State) : Bool := getBits (s.retGet 4) 1 1 = 1

/-- Words 0 to 5 of the list: MAGIC, VERSION 1, save cause, save count and entry flags (R458; their layout is a DESIGN CHOICE, log entry 86), and PMU_RETSTAT with them. -/
def retHead (s : State) (kind : Nat) (tbuV ownersV : Bool) : State :=
  let s1 := ((s.setFlag F.PMU_RETSTAT_VALID true).setFld F.PMU_RETSTAT_KIND kind).addFld F.PMU_RETSTAT_SAVES 1
  (((((s1.retNat 0 0x52455431).retNat 1 1).retNat 2 kind).retNat 3 (s1.fld F.PMU_RETSTAT_SAVES)).retNat 4
    (b2n tbuV + 2 * b2n ownersV)).retSeal

/-- The list is written: kind 1 SLEEP, 2 DEEP, 3 reset or SAVE. Firmware words stay as firmware wrote them. -/
def retSave (s : State) (kind : Nat) : State :=
  let s1 := retRegs.foldl (fun (t : State) e => t.retSet e.1 (t.reg e.2)) s
  let s2 := ((((s1.retNat 6 s1.mode).retNat 8 (s1.fld F.AUX_DACCFG_OUT)).retNat 21 (s1.fld F.PAIR_STAT_ROLE)).retNat 22
    (s1.fld F.PAIR_STAT_ATT)).retNat 38 (s1.fld F.PMU_OPP_CUR)
  let peer := toWords ((s2.nym.pairRec.map (·.peer)).getD [])
  let s3 := (List.range 8).foldl (fun (t : State) i => t.retSet (23 + i) (peer.getD i 0)) s2
  let tb := s3.tbu
  let s4 := (((((((s3.retNat 10 (tb.snapT / 2 ^ 16 / 1000000000)).retNat 11
    (tb.snapT / 2 ^ 16 / 1000000000 / 2 ^ 32 % 2 ^ 16 + tb.snapT % 2 ^ 16 * 2 ^ 16)).retNat 12
    (tb.snapT / 2 ^ 16 % 1000000000)).retNat 13 tb.snapC).retNat 14 (tb.snapC / 2 ^ 32)).retNat 15 tb.snapRate).retNat 16
    (tb.snapRate / 2 ^ 32))
  let s5 := if kind = 1 then
      (List.range 96).foldl (fun (t : State) b => t.retSet (215 + b) (t.reg (R.MEM_OWNER b))) s4 else s4
  s5.retHead kind (decide (kind ≠ 3) && s5.pmu.snapshot) (decide (kind = 1))

/-- RETENTION_SAVE: PMU_REQ.SAVE, ignored during a sequence. -/
def retCommand (s : State) : State := if s.inSequence then s else s.retSave 3

/-- An access to PMU_RETDATA: firmware word INDEX, which then advances. -/
def retData (s : State) (w : Option Nat) : State × Word :=
  let i := s.fld F.PMU_RETIDX_INDEX
  let s1 := match w with
    | none => s
    | some v => s.retNat (311 + i) v
  (s1.addFld F.PMU_RETIDX_INDEX 1, s.retGet (311 + i))

/-! ### Requests, IDLE and the entry (R451 to R454, R456) -/

/-- Every released core is in WAIT. -/
def allWait (s : State) : Bool := s.cores.all fun k => k.run = .held || k.run = .wait

/-- Every write buffer has drained. -/
def allDrained (s : State) : Bool := s.cores.all fun k =>
  k.wbuf.isEmpty && k.flight.isEmpty && k.hand = 0 && k.old.isEmpty && k.oldHand = 0

/-- Cores that waited for the entry continue after their WAIT. -/
def coresResume (s : State) : State :=
  { s with cores := s.cores.map fun k => if k.run = .wait then { k with run := .running } else k }

/-- A new entry sequence. -/
def entryStart (s : State) (t : Nat) : State :=
  (((s.setFld F.PMU_STAT_STATE 5).setFld F.PMU_STAT_TARGET t).setFld F.PMU_STAT_PHASE 1).pmuPut { s.pmu with
    idleDomains := [], snapshot := false, wakeAfterIso := none }

/-- A request from RUN or IDLE. -/
def request (s : State) (t : Nat) : State :=
  if s.pmuState = t then s
  else if t = 0 then (s.setFld F.PMU_STAT_STATE 0).pmuPut { s.pmu with idleDomains := [] }
  else if t = 1 then s.setFld F.PMU_STAT_STATE 1
  else s.entryStart t

/-- An entry is abandoned before isolation, with a cause of PMU_STAT.ABORT. -/
def entryAbort (s : State) (cause : Nat) : State :=
  let s1 := (((((s.setFld F.PMU_STAT_STATE 0).setFld F.PMU_STAT_PHASE 0).setFld F.PMU_STAT_TARGET 0).setFlag
    F.PMU_STAT_PEND_V false).setFld F.PMU_STAT_PEND 0).setFld F.PMU_STAT_ABORT cause
  ((s1.pmuPut { s1.pmu with snapshot := false }).irq P.PMU 1).coresResume.oppNextStart

/-- An entry that has not reached isolation. -/
def beforeIso (s : State) : Bool := s.pmuState = 5 && s.pmuPhase ≤ 3

/-- A write of PMU_REQ with GO: carried out, held, or an abort (R451, R456). -/
def powerRequest (s : State) (init t : Nat) : State :=
  if 5 ≤ t then s.stickyAt P.PMU 12 (offOf R.PMU_REQ) true init 0
  else if !s.inSequence then s.request t
  else if s.beforeIso ∧ t < s.pmuTarget then (s.entryAbort 1).request t
  else (s.setFld F.PMU_STAT_PEND t).setFlag F.PMU_STAT_PEND_V true

/-- IDLE_ENTER: the domains of IDLEMASK other than TIME, PCIE and PERI stop. -/
def idleEnter (s : State) : State :=
  if s.pmuState = 1 ∧ s.allWait ∧ s.pmu.idleDomains = [] then
    s.pmuPut { s.pmu with idleDomains := derived.filter fun d => s.regBit R.PMU_CFG d && d ≠ 5 && d ≠ 8 && d ≠ 9 }
  else s

/-- IDLE_EXIT: a core has an enabled line pending, and the domains restart. -/
def idleExit (s : State) : State :=
  if s.pmu.idleDomains ≠ [] ∧ (List.range 12).any (fun c => (s.coreGet c).run ≠ .held && s.waitOver c) then
    (s.pmuPut { s.pmu with idleDomains := [] }).setFld F.PMU_STAT_WAKE_SRC 4
  else s

/-- QUIESCE_DONE: phase 1 ends. -/
def quiesceDone (s : State) : State :=
  if s.pmuState = 5 ∧ s.pmuPhase = 1 ∧ s.allWait ∧ s.allDrained ∧ s.pmu.opp = .idle then s.setFld F.PMU_STAT_PHASE 2 else s

/-- QUIESCE_TIMEOUT: QTO has passed in phase 1. -/
def quiesceTimeout (s : State) : State :=
  if s.pmuState = 5 ∧ s.pmuPhase = 1 then (s.sticky P.PMU 8).entryAbort 3 else s

/-- Phase 2 ends at a rising RTC edge; a loaded TBU is captured for SLEEP and DEEP (R283). -/
def snapshotTake (s : State) : State :=
  if s.pmuState = 5 ∧ s.pmuPhase = 2 then
    let s1 := if s.loaded ∧ s.pmuTarget ≤ 3 then
        ({ s with tbu := { s.tbu with snapT := s.nowFrac, snapC := s.aon.raw, snapRate := unsigned 40 s.tbuRate } } : State).pmuPut
          { s.pmu with snapshot := true }
      else s
    s1.setFld F.PMU_STAT_PHASE 3
  else s

/-- SAVE_DONE: the retention list is written, but for OFF. -/
def saveDone (s : State) : State :=
  if s.pmuState = 5 ∧ s.pmuPhase = 3 then
    let s1 := if s.pmuTarget = 2 then s.retSave 1 else if s.pmuTarget = 3 then s.retSave 2 else s
    s1.setFld F.PMU_STAT_PHASE 4
  else s

/-- Raw RTC cycles from C_e to the wake instant: the shadow instant less LEAD and T_e, over the trimmed period (R454). -/
def wakeCount (s : State) : Nat :=
  let te := s.tbu.snapT
  let teSec := te / 2 ^ 16 / 1000000000
  let shad := (s.reg R.PMU_WSHAD1).toNat
  let sec := (teSec / 2 ^ 32 + b2n (shad < teSec % 2 ^ 32)) * 2 ^ 32 + shad
  let inst : Int := ((sec * 1000000000 + s.fld F.PMU_WSHAD0_NS) * 2 ^ 16 : Nat)
  let d : Int := inst - (s.fld F.PMU_WTIMER_LEAD * 1000000 * 2 ^ 16 : Nat) - te
  -- P = 2^-15 s x (2^25 + N) / 2^25, in 2^-16 ns: 10^9 x 2^16 x (2^25 + N) / 2^40
  let p : Int := (1000000000 * 2 ^ 16 : Nat) * ((2 ^ 25 : Int) + s.aon.trim)
  let n := -((-(d * (2 ^ 40 : Nat))) / p)
  (s.tbu.snapC + n).toNat

/-- Pads and FAULT_N are held as they stand (R455, R514). -/
def padsHold (s : State) : State :=
  { s with
    toc := { s.toc with faultHeld := some s.faultN }
    host := { s.host with padHeld := some (s.gpioDriven, s.fld F.GPIO_OUT_OUT) } }

/-- Pads and FAULT_N follow their blocks again. -/
def padsFree (s : State) : State :=
  ({ s with toc := { s.toc with faultHeld := none }, host := { s.host with padHeld := none } } : State).gpioShow

/-- ISOLATE: the present mode goes into retention and MODE becomes SAFE (R24), the wake timer is armed, the clamps engage and
the TBU stops (R453, R454). -/
def isolate (s : State) : State :=
  if s.pmuState = 5 ∧ s.pmuPhase = 4 then
    let s := if s.pmuTarget ≤ 3 then (s.retNat 6 s.mode).retSeal else s
    let arm := s.flag F.PMU_CFG_WTIMER && s.flag F.PMU_WSHAD0_VALID && s.loaded && s.pmuTarget ≤ 3 && s.pmu.snapshot
    let s1 := s.padsHold.pmuPut { s.pmu with
      isolated := true, poweredDown := true, wakeCmp := if arm then some s.wakeCount else none }
    let s2 := s1.cmonPut { Cmon.reset with iroFailed := s1.cmon.iroFailed }
    let s3 := (s2.hwSafe 3).calClamp.tbuStop
    ((s3.engCommand none).procCommand (if s.pmuTarget = 2 then some 600 else none)).setFld F.PMU_STAT_PHASE 5
  else s

/-- The exit begins (R457). -/
def exitStart (s : State) (src : Nat) : State :=
  let sleep := s.pmu.power = .sleep
  let s1 := ((s.setFld F.PMU_STAT_STATE 6).setFld F.PMU_STAT_PHASE 6).setFld F.PMU_STAT_WAKE_SRC src
  let s2 := s1.pmuPut { s1.pmu with wakeAfterIso := none, wakeCmp := none }
  let s3 := s2.procCommand (some (if s2.pmu.power = .off then 750 else s2.fld F.PMU_PROCV_MV))
  s3.engCommand (some (if sleep then s3.oppVolt (s3.fld F.PMU_OPP_CUR) else 700))

/-- A wake event: 1 RTC alarm, 2 WAKE pin, 3 wake timer (R456, R457). -/
def wakeEvent (s : State) (src : Nat) : State :=
  if s.beforeIso then s.entryAbort 2
  else if s.pmuState = 6 then s.setFld F.PMU_STAT_WAKE_SRC src
  else if s.pmuState = 5 then
    if s.pmu.power = .run then
      s.pmuPut { s.pmu with wakeAfterIso := some (s.pmu.wakeAfterIso.getD src) }
    else if s.pmu.power = .off ∧ src = 3 then s
    else s.exitStart src
  else s

/-- Root PLL and IRO stop, and the XO and the counts against it unless it is kept (Table 18-2, R463). -/
def sourcesStop (s : State) (xoKept : Bool) : State :=
  let s1 := (s.clkPut { s.clk with pllOn := false, everLocked := false }).setFlag F.CLK_ROOTSTAT_IRO_READY false
  let s2 := s1.setFlag F.CMON_STAT_IRO_READY false
  if xoKept then s2 else (s2.setFlag F.CLK_ROOTSTAT_XO_STABLE false).setFlag F.CLK_ROOTSTAT_REFIN_STABLE false

/-- The list of a SLEEP entry becomes that of the DEEP entry carried out from SLEEP: its owner entries count no more (R453,
R456). -/
def retDeepen (s : State) : State := s.retHead 2 s.retTbuV false

/-- POWER_DOWN_DONE: the last PMBus transaction is done and the state is reached; in OFF all feeds are off (R89). A wake event
starts the exit at once; a pending deeper request is carried out from here, one for this state has no effect (R451, R453,
R456). -/
def powerDown (s : State) : State :=
  if s.pmuState = 5 ∧ s.pmuPhase = 5 ∧ !s.pmu.engBusy ∧ !s.pmu.procBusy then
    let t := s.pmuTarget
    let s0 := if t = 4 then (s.setFlag (F.STAT_RUNNING P.ANT) false).antApply else s
    let s1 := (s0.lockChange false).setFlag F.CLK_ROOTSTAT_HOLD false
    let s2 := (s1.sourcesStop (t = 2 && s1.flag F.PMU_CFG_XO_SLEEP)).pmuPut { s1.pmu with
      power := if t = 2 then .sleep else if t = 3 then .deep else .off, engAck := none
      wakeCmp := if t = 4 then none else s1.pmu.wakeCmp }
    let due := match s2.pmu.wakeAfterIso with
      | some w => some w
      | none => match s2.pmu.wakeCmp with
        | some c => if c ≤ s2.aon.raw then some 3 else none
        | none => none
    match due with
    | some w => s2.exitStart w
    | none =>
      if s2.flag F.PMU_STAT_PEND_V ∧ t ≤ s2.fld F.PMU_STAT_PEND then
        let p := s2.fld F.PMU_STAT_PEND
        let s3 := (s2.setFlag F.PMU_STAT_PEND_V false).setFld F.PMU_STAT_PEND 0
        if p = t then s3
        else
          let s4 := (s3.setFld F.PMU_STAT_TARGET p).pmuPut { s3.pmu with power := .run, procCmd := none, procBusy := true }
          if p = 3 then s4.retDeepen else s4
      else s2
  else s

/-- WAKE_PIN: the pin held its active level for two AON cycles. -/
def wakePin (s : State) : State := if s.flag F.PMU_CFG_WAKE_EN then s.wakeEvent 2 else s

/-- The AON wake comparator has reached its count. -/
def wakeTimer (s : State) : State :=
  match s.pmu.wakeCmp with
  | some c => if c ≤ s.aon.raw then (s.pmuPut { s.pmu with wakeCmp := none }).wakeEvent 3 else s
  | none => s

/-- EXIT_WAKE_DONE: VDD_PROC is up, and acknowledged or ACKTO has passed (R457). -/
def exitWakeDone (s : State) (procAck engAck : Bool) : State :=
  if s.pmuState = 6 ∧ s.pmuPhase = 6 then
    let sleep := s.pmu.power = .sleep
    let s1 := if procAck && (engAck || !sleep) then s else s.sticky P.PMU 9
    (s1.pmuPut { s1.pmu with
      engHold := !(decide sleep && engAck)
      engAck := if decide sleep && engAck then s1.pmu.engCmd else none
      procAck := if procAck then s1.pmu.procCmd else none }).setFld F.PMU_STAT_PHASE 7
  else s

end State
end Sys2Proof.Machine
end

