-- ==== Sys2Proof/Machine/Aon.lean ====
section
/-! DEFINITION. The always-on domain (chapter 19): the raw count and the RTC edge by edge, trim, settings, calendar,
alarm, supply change-over and brown-out, retained FATAL records; and the TBU load and reload at RTC edges.
Readings: log entry 54 (DEDUCED). -/

namespace Sys2Proof.Machine

/-- Pulse of the rate trim at raw cycle `r` of a window: 1 added, -1 skipped, 0 none (R480). -/
def trimPulse (n : Int) (r : Nat) : Int :=
  let a := n.natAbs
  if a = 0 then 0
  else
    let k := ceilDiv (r * a) (2 ^ 25)
    if k < a ∧ k * 2 ^ 25 / a = r then (if 0 < n then 1 else -1) else 0

/-- Days of a month (Table 19-2). -/
def monthLength (m y : Nat) : Nat :=
  if m = 4 ∨ m = 6 ∨ m = 9 ∨ m = 11 then 30
  else if m = 2 then (if y % 4 = 0 then 29 else 28)
  else 31

/-- One second of the calendar (SEC, MIN, HOUR, DAY, MONTH, YEAR): Table 19-1. -/
def calStep (c : List Nat) : List Nat :=
  match c with
  | [sec, min, hour, day, mon, yr] =>
    let cs := sec = 59 ∨ sec = 63
    let sec1 := if cs then 0 else sec + 1
    let cm := cs ∧ (min = 59 ∨ min = 63)
    let min1 := if cs then (if cm then 0 else min + 1) else min
    let ch := cm ∧ (hour = 23 ∨ hour = 31)
    let hour1 := if cm then (if ch then 0 else hour + 1) else hour
    let len := monthLength mon yr
    let cd := ch ∧ len ≤ day
    let day1 := if ch then (if cd then 1 else day + 1) else day
    let cy := cd ∧ mon = 12
    let mon1 := if cd then (if mon = 12 then 1 else if mon = 15 then 0 else mon + 1) else mon
    let yr1 := if cy then (yr + 1) % 256 else yr
    [sec1, min1, hour1, day1, mon1, yr1]
  | l => l

namespace State

def aonPut (s : State) (x : Aon) : State := { s with aon := x }

/-- The alarm value (RTC_ALARM0 and RTC_ALARM1). -/
def alarmAt (s : State) : Nat := (s.reg R.RTC_ALARM0).toNat + s.fld F.RTC_ALARM1_SEC * 2 ^ 32

/-- The alarm fires (R484); its wake event is lost while VMAIN is absent (R485). -/
def alarmFire (s : State) (skipped : Bool) : State :=
  let s1 := (((s.setFlag F.RTC_STAT_ARMED false).setFlag F.RTC_STAT_ALARM_FIRED true).irq P.RTC 0).aonPut { s.aon with spent := true }
  let s2 := if skipped then s1.setFlag F.RTC_STAT_ALARM_SKIPPED true else s1
  if s2.aon.onVbat then s2 else s2.wakeEvent 1

/-- An armed and enabled alarm lies above `old` and at or below the present SEC (R484). -/
def alarmCrossed (s : State) (old : Nat) : Bool :=
  s.flag F.RTC_STAT_ARMED && s.flag F.RTC_ALARMCTL_EN && decide (old < s.alarmAt) && decide (s.alarmAt ≤ s.aon.sec)

/-- SEC has gone from `old` to its present value: an armed alarm that lies between fires; a backward setting may re-arm a
spent one (R484, R485). -/
def alarmJudge (s : State) (old : Nat) (setting : Bool) : State :=
  let a := s.alarmAt
  let en := s.flag F.RTC_ALARMCTL_EN
  if s.alarmCrossed old then s.alarmFire setting
  else if setting ∧ s.aon.spent ∧ s.aon.sec < a ∧ en ∧ s.flag F.RTC_ALARMCTL_REARM then
    (s.setFlag F.RTC_STAT_ARMED true).aonPut { s.aon with spent := false }
  else s

/-- A transfer of the alarm value, or of RTC_ALARMCTL (R484). -/
def alarmArm (s : State) : State :=
  if !(s.flag F.RTC_ALARMCTL_EN) then s.setFlag F.RTC_STAT_ARMED false
  else if s.aon.sec < s.alarmAt then (s.setFlag F.RTC_STAT_ARMED true).aonPut { s.aon with spent := false }
  else (s.setFlag F.RTC_STAT_ARMED false).setFlag F.RTC_STAT_ALARM_PAST true

/-- SEC increments: the uncertainty grows, the calendar steps unless it is set at this edge (R479, R481, R483). -/
def secondStep (s : State) (keepCal : Bool) : State :=
  let old := s.aon.sec
  let s1 := s.aonPut { s.aon with
    sec := (old + 1) % 2 ^ 48, cal := if keepCal then s.aon.cal else calStep s.aon.cal }
  (s1.satFld F.RTC_UNC_UNC (s1.fld F.RTC_UNCPPB_PPB)).irq P.RTC 1

/-- The increment of SUB at an edge (R479). -/
def subStep (s : State) (keepCal : Bool) : State :=
  let adv := 1 + trimPulse s.aon.trim (s.aon.raw % 2 ^ 25)
  let v := ((s.aon.sub : Int) + adv).toNat
  if v < 32768 then s.aonPut { s.aon with sub := v }
  else (s.aonPut { s.aon with sub := v - 32768 }).secondStep keepCal

/-- SET_TBU at an edge of a loaded TBU (R482). -/
def tbuToRtc (s : State) : State :=
  let f := s.nowFrac % (1000000000 * 2 ^ 16)
  let r := (roundDiv ((f * 32768 : Nat) : Int) (1000000000 * 2 ^ 16)).toNat
  let sec := s.nowSec + r / 32768
  let s1 := s.aonPut { s.aon with sec := sec % 2 ^ 48, sub := r % 32768 }
  ((s1.setFld F.RTC_UNC_UNC (min uncMax (s1.fld F.TBU_UNC_UNC + 15259))).setFlag F.RTC_STAT_VALID true).setFlag
    F.RTC_STAT_SUSPECT false

/-- The trim in force from N as written: -1,024 acts as -1,023. -/
def trimValue (s : State) : Int := max (-1023) (s.fldI F.RTC_TRIM_N)

/-- A commit of the AON page transfers its fields at this edge. -/
def aonPagePass (s : State) : State := if s.aon.commitAon then s.transfer fun a => pageOf a = P.AON else s

/-- One AON edge (R478 to R485): raw count and window, a commit, SET_TBU, the count. -/
def aonEdge (s : State) : State :=
  let raw := (s.aon.raw + 1) % 2 ^ 48
  let s0 := s.aonPut { s.aon with raw := raw, trim := if raw % 2 ^ 25 = 0 then s.trimValue else s.aon.trim }
  let was := fun (a : Nat) => s0.shadowMask a ≠ 0
  let com := s0.aon.commit
  let setCount := com && (was R.RTC_SET0 || was R.RTC_SET1 || was R.RTC_SETSUB)
  let setCal := com && (was R.RTC_CALSET0 || was R.RTC_CALSET1)
  let setAlarm := com && (was R.RTC_ALARM0 || was R.RTC_ALARM1)
  let setCtl := com && was R.RTC_ALARMCTL
  let c0 := com && was R.RTC_SET0
  let c1 := com && was R.RTC_SET1
  let cs := com && was R.RTC_SETSUB
  let k0 := com && was R.RTC_CALSET0
  let k1 := com && was R.RTC_CALSET1
  let s1 := ((if com then s0.transfer fun a => pageOf a = P.RTC else s0).aonPagePass).aonPut { s0.aon with commit := false, commitAon := false }
  let old := s1.aon.sec
  -- calendar
  let w0 := s1.reg R.RTC_CALSET0
  let w1 := s1.reg R.RTC_CALSET1
  let cal := (if k0 then [getBits w0 0 6, getBits w0 8 6, getBits w0 16 5, getBits w0 24 6] else s1.aon.cal.take 4)
    ++ (if k1 then [getBits w1 0 4, getBits w1 8 8] else s1.aon.cal.drop 4)
  let s2 := if setCal then s1.aonPut { s1.aon with cal := cal } else s1
  let s3 := if setCal || setCount then (s2.setFlag F.RTC_STAT_VALID true).setFlag F.RTC_STAT_SUSPECT false else s2
  -- the count
  let s4 :=
    if setCount then
      let lo := if c0 then (s3.reg R.RTC_SET0).toNat else old % 2 ^ 32
      let hi := if c1 then s3.fld F.RTC_SET1_SEC else old / 2 ^ 32
      let sub := if cs then s3.fld F.RTC_SETSUB_SUB else s3.aon.sub
      (s3.aonPut { s3.aon with sec := hi * 2 ^ 32 + lo, sub := sub }).setFld F.RTC_UNC_UNC (s3.fld F.RTC_SETUNC_UNC)
    else if s3.aon.setTbu && !setCal then
      if s3.loaded then s3.tbuToRtc else (s3.sticky P.RTC 9).subStep false
    else s3.subStep setCal
  let s5 := s4.aonPut { s4.aon with setTbu := false }
  -- the alarm: a transfer of its value is judged against the new SEC only (R485); one of RTC_ALARMCTL leaves an armed alarm armed
  let tbuSets := s3.aon.setTbu && !setCal && !setCount && s3.loaded
  let s6 :=
    if setAlarm then s5.alarmArm
    else if setCtl && !(s5.alarmCrossed old) then s5.alarmArm
    else s5.alarmJudge old (setCount || tbuSets)
  if s6.aon.swPend then
    let s7 := ((s6.setFld F.RTC_FIRSTSW0_SEC s6.aon.sec).setFld F.RTC_FIRSTSW1_SEC (s6.aon.sec / 2 ^ 32)).setFld
      F.RTC_FIRSTSW1_SUB s6.aon.sub
    (s7.setFlag F.RTC_FIRSTSW1_VALID true).aonPut { s7.aon with swPend := false }
  else s6

/-- `n` AON edges, unless AON has browned out. -/
def aonRun (s : State) : Nat → State
  | 0 => s
  | n + 1 => if s.aon.brown then s else aonRun s.aonEdge n

/-- RTC_SECOND: `n` AON edges, the last of which increments SEC. -/
def rtcSecond (s : State) (n : Nat) : State :=
  let a := s.aonRun (n - 1)
  let b := a.aonEdge
  if n = 0 ∨ s.aon.brown ∨ a.aon.sec ≠ s.aon.sec ∨ b.aon.sec = a.aon.sec then s else b

/-- AON_COMMIT_APPLY: the AON edge at which a committed value takes effect. -/
def aonCommit (s : State) : State := if s.aon.commit ∨ s.aon.commitAon then s.aonRun 1 else s

/-- SET_TBU_LOAD: the AON edge at which SET_TBU is judged. -/
def setTbuLoad (s : State) : State := if s.aon.setTbu then s.aonRun 1 else s

/-- TRIM_WINDOW_START: `n` AON edges, the last of which begins a window. -/
def trimWindow (s : State) (n : Nat) : State :=
  if (s.aon.raw + n) % 2 ^ 25 = 0 ∧ 0 < n then s.aonRun n else s

/-- WAKE_TIMER_EXPIRY: `n` AON edges bring the wake comparator to its count. -/
def wakeTimerAt (s : State) (n : Nat) : State := (s.aonRun n).wakeTimer

/-- TBU_SNAPSHOT: `n` AON edges to the rising edge that ends phase 2. -/
def snapshotAt (s : State) (n : Nat) : State :=
  if s.pmuState = 5 ∧ s.pmuPhase = 2 ∧ 0 < n then (s.aonRun n).snapshotTake else s

/-! ### Supply and backup (R486 to R490) -/

/-- VMAIN_FAIL: AON moves to VBAT. -/
def vmainFail (s : State) : State :=
  if s.aon.onVbat then s
  else
    let s1 := (s.aonPut { s.aon with onVbat := true, powered := true }).setRegBit R.PMU_RAILS 8 true
    if s.flag F.RTC_FIRSTSW1_VALID ∨ s.aon.swPend then s1.satFld F.AON_SWCNT_COUNT 1
    else s1.aonPut { s1.aon with swPend := true }

/-- What AON and retention lose in a brown-out (R487). -/
def aonClear (s : State) : State :=
  let s1 := { s with
    rf := s.rf.filter fun e => pageOf e.1 ≠ P.RTC && !(pageOf e.1 = P.AON && 0x054 ≤ offOf e.1)
    shV := s.shV.filter fun e => pageOf e.1 ≠ P.RTC
    shM := s.shM.filter fun e => pageOf e.1 ≠ P.RTC }
  let s2 := (s1.setFld F.AON_SWCNT_COUNT 0).aonPut { Aon.reset with powered := true }
  s2.pmuPut { s2.pmu with retMem := [] }

/-- VMAIN_VALID: AON takes VMAIN; after a brown-out, and at the first power-up of AON, the backup domain starts anew (R487; log entry
58 says when the model sees a first power-up). -/
def vmainValid (s : State) : State :=
  let s1 := (s.aonPut { s.aon with onVbat := false }).setRegBit R.PMU_RAILS 8 false
  if s.aon.brown ∨ !s.aon.powered then
    let s2 := s1.aonClear
    ((s2.setFlag F.AON_STAT_BOR true).sticky P.AON 8).setRegBit R.PMU_RSTCAUSE 1 true
  else s1

/-- AON_BROWN_OUT: the hold-up of AON ends while VMAIN is absent. -/
def aonBrownOut (s : State) : State := if s.aon.onVbat then s.aonPut { s.aon with brown := true, cv := none } else s

/-- VBAT_LOW and VBAT_RECOVER: VBAT below or above 1.85 V while AON runs from VMAIN (R488). -/
def vbatLow (s : State) (low : Bool) : State :=
  if s.aon.onVbat ∨ s.flag F.AON_STAT_VBAT_LOW = low then s
  else
    let s1 := s.setFlag F.AON_STAT_VBAT_LOW low
    if low then (s1.sticky P.AON 9).irq P.AON 0 else s1

/-- FIRSTSW_CLEAR: the record and AON_SWCNT are cleared together. -/
def firstSwClear (s : State) : State :=
  ((s.setReg R.RTC_FIRSTSW0 0).setReg R.RTC_FIRSTSW1 0).setFld F.AON_SWCNT_COUNT 0

/-- Tocsin writes a FATAL record into the next slot (R490). -/
def fatalRecord (s : State) (ws : List Word) : State :=
  let k := if s.fld F.AON_FATSTAT_VALID = 0 then 0 else (s.fld F.AON_FATSTAT_NEWEST + 1) % 8
  let s1 := (List.range 4).foldl (fun (t : State) w => t.setReg (R.AON_FAT k w) (ws.getD w 0)) s
  ((s1.setFld F.AON_FATSTAT_NEWEST k).setFld F.AON_FATSTAT_VALID (setBit (s1.fld F.AON_FATSTAT_VALID) k true)).satFld
    F.AON_FATSTAT_COUNT 1

/-- AON_FATCTL.CLEAR empties every slot. -/
def fatalClear (s : State) : State :=
  ((List.range 8).foldl (fun (t : State) k => (List.range 4).foldl (fun (u : State) w => u.setReg (R.AON_FAT k w) 0) t) s).setReg
    R.AON_FATSTAT 0

/-! ### TBU load and reload at RTC edges (R273, R284) -/

/-- TBU_LOAD: an enabled TBU that waits loads from TBU_LD or, at an RTC edge, from the RTC. -/
def tbuLoad (s : State) (edges : Nat) : State :=
  if !(s.flag F.TBU_QUAL_WAIT) ∨ s.loaded ∨ !(s.tbuRefOk) then s
  else if s.regBit (R.PAGE_CTRL P.TBU) 4 then
    if edges = 0 then s
    else
      let s1 := s.aonRun edges
      let time := s1.aon.sec * tuSec + s1.aon.sub * (tuSec / 32768)
      if s1.flag F.RTC_STAT_VALID then s1.tbuLoadAt time 1 (s1.fld F.RTC_UNC_UNC + 30518)
      else s1.tbuLoadAt time 0 uncMax
  else
    let sec := (s.reg R.TBU_LD0).toNat + s.fld F.TBU_LD1_SEC * 2 ^ 32
    s.tbuLoadAt (sec * tuSec + min 999999999 (s.fld F.TBU_LD2_NS) * tuNs) 0 uncMax

/-- TBU_RELOAD: after a wake with a valid snapshot (R284). -/
def tbuReload (s : State) (edges : Nat) : State :=
  if !(s.flag F.TBU_SLPSTAT_PENDING) ∨ !(s.tbuRefOk) ∨ edges = 0 then s
  else
    let s1 := s.aonRun edges
    let n := (s1.aon.raw + 2 ^ 48 - s1.tbu.snapC) % 2 ^ 48
    -- P in 2^-16 ns is 10^9 x 2^16 x (2^25 + N) / 2^40
    let num : Int := (n * (1000000000 * 2 ^ 16) : Nat) * ((2 ^ 25 : Int) + s1.aon.trim)
    let t := (s1.tbu.snapT + roundDiv num (2 ^ 40)).toNat
    -- (C_x - C_e) x P x PPB x 10^-9 + 30,517.578 ns, rounded up
    let unc := (-(-(num * s1.fld F.RTC_UNCPPB_PPB * 1000 + (30517578 * 10 ^ 9 * 2 ^ 56 : Nat)) / ((10 ^ 12 * 2 ^ 56 : Nat) : Int))).toNat
    let s2 := (s1.setReg R.TBU_RATE0 (BitVec.ofNat 32 s1.tbu.snapRate)).setFld F.TBU_RATE1_RATE (s1.tbu.snapRate / 2 ^ 32)
    let s3 := s2.tbuLoadAt (t * tuFrac) 1 unc
    (((s3.setFld F.TBU_SLPCYC0_CYC n).setFld F.TBU_SLPCYC1_CYC (n / 2 ^ 32)).setFlag F.TBU_SLPSTAT_PENDING false).setFlag
      F.TBU_SLPSTAT_RELOADED true

end State
end Sys2Proof.Machine
end

