-- ==== Sys2Proof/Machine/ExecAon.lean ====
section
/-! DEFINITION. The always-on domain (chapter 19). -/

namespace Sys2Proof.Machine

/-- RTC_SECOND (R479): SUB wraps, SEC increments, RTC_UNC grows and the calendar steps. -/
def execRtcSecond (edges : Nat) (s : State) : Host.Outcome State Fault Refusal :=
  .next (State.settle (s.rtcSecond edges))

/-- AON_COMMIT_APPLY (R482): A committed RTC or AON value takes effect at the next AON edge. -/
def execAonCommitApply (s : State) : Host.Outcome State Fault Refusal :=
  .next (State.settle (s.aonCommit))

/-- SET_TBU (R482): A write of RTC_CTL.SET_TBU requests a load of the count from the TBU. -/
def execSetTbu (init : Nat) (s : State) : Host.Outcome State Fault Refusal :=
  .next (State.settle (s.via init R.RTC_CTL fun t => t.aonPut { t.aon with setTbu := true }))

/-- SET_TBU_LOAD (R482): At the next AON edge the count loads from the TBU, or SET_TBU is discarded. -/
def execSetTbuLoad (s : State) : Host.Outcome State Fault Refusal :=
  .next (State.settle (s.setTbuLoad))

/-- VMAIN_FAIL (R486): VMAIN falls below 2.95 V and AON moves to VBAT. -/
def execVmainFail (s : State) : Host.Outcome State Fault Refusal :=
  .next (State.settle (s.vmainFail))

/-- VMAIN_VALID (R486): VMAIN stays above 2.95 V for 50 µs and AON takes VMAIN, reporting a brown-out if one
occurred. -/
def execVmainValid (s : State) : Host.Outcome State Fault Refusal :=
  .next (State.settle (s.vmainValid))

/-- VBAT_LOW (R488): VBAT falls below 1.85 V while AON runs from VMAIN. -/
def execVbatLow (s : State) : Host.Outcome State Fault Refusal :=
  .next (State.settle (s.vbatLow true))

/-- AON_BROWN_OUT (R487): AON loses its hold-up supply and browns out. -/
def execAonBrownOut (s : State) : Host.Outcome State Fault Refusal :=
  .next (State.settle (s.aonBrownOut))

/-- FIRSTSW_CLEAR (R486): A write of 1 to RTC_FIRSTSW1.VALID clears the first-switch record and AON_SWCNT. -/
def execFirstswClear (init : Nat) (s : State) : Host.Outcome State Fault Refusal :=
  .next (State.settle (s.via init R.RTC_FIRSTSW1 fun t => t.firstSwClear))

/-- FATAL_RECORD_CLEAR (R490): AON_FATCTL.CLEAR empties the retained FATAL records. -/
def execFatalRecordClear (init : Nat) (s : State) : Host.Outcome State Fault Refusal :=
  .next (State.settle (s.via init R.AON_FATCTL fun t => t.fatalClear))

/-- TRIM_WINDOW_START (R480): The AON raw count reaches a multiple of 2^25, which starts a new trim window in which
a committed RTC_TRIM.N takes effect. -/
def execTrimWindowStart (edges : Nat) (s : State) : Host.Outcome State Fault Refusal :=
  .next (State.settle (s.trimWindow edges))

/-- VBAT_RECOVER (R488): VBAT rises back above 1.85 V while AON runs from VMAIN, which clears AON_STAT.VBAT_LOW. -/
def execVbatRecover (s : State) : Host.Outcome State Fault Refusal :=
  .next (State.settle (s.vbatLow false))

end Sys2Proof.Machine
end

