-- ==== Sys2Proof/Machine/ExecCarillon.lean ====
section
/-! DEFINITION. The commands of the correlator fabric and of Carillon (chapters 8 and 9). -/

namespace Sys2Proof.Machine

/-- SEEDING_EVENT (R238): Carillon receives a seeding event and accepts or refuses it for a channel in SEEK. -/
def execSeedingEvent (s : State) : Host.Outcome State Fault Refusal :=
  .next (State.settle (s.seeding))

/-- CODE_EPOCH (R190): A slot's code NCO wraps, which steps the secondary indices and DUMP_CNT and applies pending
NCO updates. -/
def execCodeEpoch (k : Nat) (raw : List (List Iq)) (s : State) : Host.Outcome State Fault Refusal :=
  .next (State.settle (if k < 2048 then (s.feed raw).chsCodeEpoch k else s))

/-- DUMP_RECORD_ENQUEUE (R206): A dump or lane record enters the dump queue, and the oldest lowest-class task drops
when the queue is full. -/
def execDumpRecordEnqueue (s : State) : Host.Outcome State Fault Refusal :=
  .next (State.settle (s.dumpEnqueue))

/-- LATCH_DONE (R208): The latch table half is written, HALF toggles and measurement tasks are formed. -/
def execLatchDone (s : State) : Host.Outcome State Fault Refusal :=
  .next (State.settle (s.latchDone))

/-- SET_WANT (R218): CHS_VCCMD SET_WANT sets a channel's WANT, which acts at the next planning pass. -/
def execSetWant (init v w : Nat) (s : State) : Host.Outcome State Fault Refusal :=
  .next (State.settle (if v < 4096 then s.via init R.CHS_VCCMD fun t => t.vcCmd init (State.cmdSetWant v w) else s))

/-- SET_RANK (R242): CHS_VCCMD SET_RANK sets a channel's CLASS and PRIO. -/
def execSetRank (init v cls prio : Nat) (s : State) : Host.Outcome State Fault Refusal :=
  .next (State.settle (if v < 4096 then s.via init R.CHS_VCCMD fun t => t.vcCmd init (State.cmdSetRank v cls prio) else s))

/-- PUT_HW (R242): CHS_VCCMD PUT_HW writes the staging into a channel's hardware part, refused while LIVE. -/
def execPutHw (init v : Nat) (s : State) : Host.Outcome State Fault Refusal :=
  .next (State.settle (if v < 4096 then s.via init R.CHS_VCCMD fun t => t.vcCmd init (State.cmdPutHw v) else s))

/-- PUT_CB (R242): CHS_VCCMD PUT_CB writes the staging into the control block except STATE and LOC. -/
def execPutCb (init v : Nat) (s : State) : Host.Outcome State Fault Refusal :=
  .next (State.settle (if v < 4096 then s.via init R.CHS_VCCMD fun t => t.vcCmd init (State.cmdPutCb v) else s))

/-- GET (R242): CHS_VCCMD GET copies a channel's hardware part and control block into the staging. -/
def execGet (init v : Nat) (s : State) : Host.Outcome State Fault Refusal :=
  .next (State.settle (if v < 4096 then s.via init R.CHS_VCCMD fun t => t.vcCmd init (State.cmdGet v) else s))

/-- PLANNING_PASS (R221): The planning-pass period expires and Carillon ranks and places QUEUED channels, with
preemption. -/
def execPlanningPass (s : State) : Host.Outcome State Fault Refusal :=
  .next (State.settle (s.planningPass))

/-- PAGE_IN (R225): The paging engine loads a channel's hardware part into a slot, checked by the fabric. -/
def execPageIn (v : Nat) (s : State) : Host.Outcome State Fault Refusal :=
  .next (State.settle (if v < 4096 then s.pageIn v else s))

/-- PAGE_OUT (R226): The paging engine writes a marked slot's image back at its dump boundary. -/
def execPageOut (v : Nat) (s : State) : Host.Outcome State Fault Refusal :=
  .next (State.settle (if v < 4096 then s.pageOut v else s))

/-- SWAP (R225): The paging engine does a page-out followed by a page-in in one operation. -/
def execSwap (v : Nat) (s : State) : Host.Outcome State Fault Refusal :=
  .next (State.settle (if v < 4096 then s.pageSwap v else s))

/-- PAGE_OP_DONE (R225): A page operation ends after 0.5 µs per slot and the engine becomes free. -/
def execPageOpDone (s : State) : Host.Outcome State Fault Refusal :=
  .next (State.settle (s.pageDone))

/-- DUMP_TASK_FORM (R229): All records of one channel's boundary are in the queue, and a dump task is formed with
its deadline. -/
def execDumpTaskForm (v : Nat) (s : State) : Host.Outcome State Fault Refusal :=
  .next (State.settle (s.taskForm v))

/-- TASK_DISPATCH (R231): Carillon delivers the next task by class and deadline to a free loop-core buffer. -/
def execTaskDispatch (s : State) : Host.Outcome State Fault Refusal :=
  .next (State.settle (s.taskDispatch))

/-- TASK_DELIVERED (R231): A task transfer into X memory completes and raises the core's task-ready line. -/
def execTaskDelivered (s : State) : Host.Outcome State Fault Refusal :=
  .next (State.settle (s.taskDelivered))

/-- TASK_COMPLETE (R234): A CHS_CMPLc CTL write with ACTION 0 completes a task and frees its buffer. -/
def execTaskComplete (init c ctl : Nat) (s : State) : Host.Outcome State Fault Refusal :=
  .next (State.settle (if c < 8 then s.via init (R.CHS_CMPL_CTL c) fun t => t.cmplWrite init c (withBits ctl 4 3 0) else s))

/-- FIRMWARE_WRITE_BACK (R234): WB = 1 in a completion copies the buffer's firmware part into the context. -/
def execFirmwareWriteBack (init c ctl : Nat) (same : Bool) (s : State) : Host.Outcome State Fault Refusal :=
  .next (State.settle (if c < 8 then s.via init (R.CHS_CMPL_CTL c) fun t => t.cmplWrite init c (dropAction same (withBits ctl 3 1 1)) else s))

/-- NCO_RATE_UPDATE (R228): UPD_CARR or UPD_CODE in a completion applies new rates in the slot or in the context. -/
def execNcoRateUpdate (init c ctl : Nat) (carr code same : Bool) (s : State) : Host.Outcome State Fault Refusal :=
  .next (State.settle (if c < 8 then s.via init (R.CHS_CMPL_CTL c) fun t => t.cmplWrite init c (dropAction same (withBits (withBits ctl 1 1 (b2n (carr || !code))) 2 1 (b2n code))) else s))

/-- CMPL_WANT_DORMANT (R234): A completion with ACTION 1 sets the channel's WANT to 1. -/
def execCmplWantDormant (init c ctl : Nat) (same : Bool) (s : State) : Host.Outcome State Fault Refusal :=
  .next (State.settle (if c < 8 then s.via init (R.CHS_CMPL_CTL c) fun t => t.cmplWrite init c (dropAction same (withBits ctl 4 3 1)) else s))

/-- CMPL_WANT_SEEK (R234): A completion with ACTION 2 sets the channel's WANT to 4. -/
def execCmplWantSeek (init c ctl : Nat) (same : Bool) (s : State) : Host.Outcome State Fault Refusal :=
  .next (State.settle (if c < 8 then s.via init (R.CHS_CMPL_CTL c) fun t => t.cmplWrite init c (dropAction same (withBits ctl 4 3 2)) else s))

/-- CMPL_WANT_OFF (R234): A completion with ACTION 4 sets the channel's WANT to 0. -/
def execCmplWantOff (init c ctl : Nat) (same : Bool) (s : State) : Host.Outcome State Fault Refusal :=
  .next (State.settle (if c < 8 then s.via init (R.CHS_CMPL_CTL c) fun t => t.cmplWrite init c (dropAction same (withBits ctl 4 3 4)) else s))

/-- REIMAGE (R235): A completion with ACTION 3 patches the image at the next dump boundary and reloads it in the
same slot. -/
def execReimage (init c ctl : Nat) (same : Bool) (s : State) : Host.Outcome State Fault Refusal :=
  .next (State.settle (if c < 8 then s.via init (R.CHS_CMPL_CTL c) fun t => t.cmplWrite init c (dropAction same (withBits ctl 4 3 3)) else s))

/-- DUTY_PERIOD_ELAPSED (R218): DUTY_PERIOD elapses for a channel in REST and it returns to QUEUED. -/
def execDutyPeriodElapsed (v : Nat) (s : State) : Host.Outcome State Fault Refusal :=
  .next (State.settle (if v < 4096 then s.dutyElapsed v else s))

/-- CMD_DONE (R242): A CHS_VCCMD command completes within 2 µs, clearing CHS_VCSTAT2.BUSY and setting
IRQ_RAW.CMD_DONE. -/
def execCmdDone (s : State) : Host.Outcome State Fault Refusal :=
  .next (State.settle (s.cmdDone))

end Sys2Proof.Machine
end

