-- ==== Sys2Proof/Machine/ExecDfe.lean ====
section
/-! DEFINITION. The commands of the digital front end, the capture port, the array processors and the RF sample path (chapters 3, 5 and 6). -/

namespace Sys2Proof.Machine

/-- COVARIANCE_BLOCK_END (R142): A 2^16-sample covariance block ends: AGC, estimator and ARR shadow transfers act at
the boundary. -/
def execCovarianceBlockEnd (raw : List (List Iq)) (s : State) : Host.Outcome State Fault Refusal :=
  .next (State.settle (s.covBlockEnd raw))

/-- B0_SOLVE (R151): The B0 weights are solved from R_avg after every UPD-th block and are ready before the next
block. -/
def execB0Solve (b : Nat) (s : State) : Host.Outcome State Fault Refusal :=
  .next (State.settle (if b < 2 then s.arrSolve b else s))

/-- JAM_REPORT_DONE (R154): The eigen-decomposition and jammer reports of a solve complete and SOLVED is set. -/
def execJamReportDone (b : Nat) (s : State) : Host.Outcome State Fault Refusal :=
  .next (State.settle (if b < 2 then s.jamReport b else s))

/-- SM_BLOCK_END (R125): A 4,096-sample spectral-monitor block ends and the DFE shadow fields transfer. -/
def execSmBlockEnd (raw : List (List Iq)) (s : State) : Host.Outcome State Fault Refusal :=
  .next (State.settle ((s.feed raw).smBlockEnd))

/-- SM_REPORT (R126): The spectral monitor ends an interval of 2^NAVG blocks and reports FLOOR and peaks. -/
def execSmReport (p : Nat) (s : State) : Host.Outcome State Fault Refusal :=
  .next (State.settle (if p < 16 then s.smReport p else s))

/-- CAP_ARM (R132): A write of DFE_CAPCMD.ARM arms a capture channel, or refuses invalid parameters. -/
def execCapArm (n init : Nat) (s : State) : Host.Outcome State Fault Refusal :=
  .next (State.settle (if n < 16 then s.via init (R.DFE_CAPCMD n) fun t => t.capArm n init else s))

/-- CAP_STOP (R132): A write of DFE_CAPCMD.STOP ends an armed or running capture. -/
def execCapStop (n init : Nat) (s : State) : Host.Outcome State Fault Refusal :=
  .next (State.settle (if n < 16 then s.via init (R.DFE_CAPCMD n) fun t => t.capStop n else s))

/-- CAP_RMS_BLOCK (R129): A capture channel completes a 4,096-output-sample rms block. -/
def execCapRmsBlock (n time : Nat) (raw : List (List Iq)) (s : State) : Host.Outcome State Fault Refusal :=
  .next (State.settle (if n < 16 then (s.feed raw).capRmsBlock n time else s))

/-- CAP_BUFFER_FULL (R132): The capture buffer fills, which completes a snapshot or wraps a ring. -/
def execCapBufferFull (n : Nat) (raw : List (List Iq)) (s : State) : Host.Outcome State Fault Refusal :=
  .next (State.settle (if n < 16 then (s.feed raw).capBufferFull n else s))

/-- CAP_POST_DONE (R132): The POST count of a ring capture is reached after its stop event. -/
def execCapPostDone (n : Nat) (raw : List (List Iq)) (s : State) : Host.Outcome State Fault Refusal :=
  .next (State.settle (if n < 16 then (s.feed raw).capPostDone n else s))

/-- CAP_FIFO_OVERFLOW (R134): A channel FIFO overflows and the capture completes with OVERRUN. -/
def execCapFifoOverflow (n : Nat) (s : State) : Host.Outcome State Fault Refusal :=
  .next (State.settle (if n < 16 then s.capOverflow n else s))

/-- CAP_OWN_ERROR (R132): A capture write meets an ownership error and the channel returns to IDLE. -/
def execCapOwnError (n : Nat) (s : State) : Host.Outcome State Fault Refusal :=
  .next (State.settle (if n < 16 then s.capOwnErr n else s))

/-- CAP_COMPLETE (R133): After the last data write the header is written, the banks are handed over and CAP_DONE is
set. -/
def execCapComplete (n time : Nat) (s : State) : Host.Outcome State Fault Refusal :=
  .next (State.settle (if n < 16 then s.capComplete n time else s))

/-- LNA_OVERLOAD (R73): The LNA input overload detector of a path becomes active or inactive, which changes
RFE_STAT.OVL and on activation sets ERR_STICKY.OVERLOAD. -/
def execLnaOverload (p : Nat) (active : Bool) (s : State) : Host.Outcome State Fault Refusal :=
  .next (State.settle (if p < 16 then s.lnaOverload p active else s))

/-- LNA_STEP_WINDOW_END (R67): 64 SAMP cycles after an LNA step change, the path stops marking its samples invalid
with cause 4. -/
def execLnaStepWindowEnd (p : Nat) (s : State) : Host.Outcome State Fault Refusal :=
  .next (State.settle (if p < 16 then s.lnaWindowEnd p else s))

end Sys2Proof.Machine
end

