-- ==== Sys2Proof/Machine/DmaCtl.lean ====
section
/-! DEFINITION. The channels of the DMA engine up to their accesses: descriptors and positions (R406 to R410), triggers and
requests (R411, R412), the commands of CH_CTRL and the states (R413, R415, R416), stop and reset (R418).
Readings: log entry 49 (DEDUCED). -/

namespace Sys2Proof.Machine

/-- Fields of a fetched descriptor (Table 16-2). -/
def DmaChan.word (c : DmaChan) (i : Nat) : Word := c.desc.getD i 0
def DmaChan.mode (c : DmaChan) : Nat := getBits (c.word 0) 4 4
def DmaChan.esize (c : DmaChan) : Nat := getBits (c.word 0) 0 3
def DmaChan.flags (c : DmaChan) : Bool := getBits (c.word 0) 3 1 = 1
/-- Elements moved at each (x, y, z): planes in modes 1 and 2, one elsewhere. -/
def DmaChan.planes (c : DmaChan) : Nat := if c.mode = 1 ∨ c.mode = 2 then getBits (c.word 0) 8 4 + 1 else 1
def DmaChan.nextEn (c : DmaChan) : Bool := getBits (c.word 0) 29 1 = 1
def DmaChan.irqEn (c : DmaChan) : Bool := getBits (c.word 0) 30 1 = 1
def DmaChan.own (c : DmaChan) : Bool := getBits (c.word 0) 31 1 = 1
def DmaChan.xcnt (c : DmaChan) : Nat := getBits (c.word 3) 0 16
def DmaChan.ycnt (c : DmaChan) : Nat := max 1 (getBits (c.word 3) 16 16)
def DmaChan.zcnt (c : DmaChan) : Nat := max 1 (getBits (c.word 4) 0 16)

/-- Bytes of one element (R408, R410). -/
def DmaChan.size (c : DmaChan) : Nat :=
  if c.mode < 3 then 2 ^ c.esize
  else (if c.mode = 3 ∨ c.mode = 5 then 16 else 32) + (if c.flags then 4 else 0)

/-- Bytes of one access of an element: larger elements move as 32-bit words. -/
def DmaChan.unit (c : DmaChan) : Nat := min 4 c.size

/-- The descriptor is refused at fetch (R407). -/
def DmaChan.refused (c : DmaChan) : Bool :=
  let al := if 3 ≤ c.mode then 4 else min (2 ^ c.esize) 4
  5 ≤ c.esize || 7 ≤ c.mode || c.xcnt = 0 || ((c.mode = 1 || c.mode = 2) && getBits (c.word 0) 8 4 = 0) ||
    [1, 2, 5, 6, 7, 8, 9, 10].any (fun i => (c.word i).toNat % al ≠ 0) ||
    ((c.mode = 1 || c.mode = 2) && (c.word 12).toNat % al ≠ 0)

/-- Address of the next element from a base, its steps and, in modes 1 and 2, its plane step, modulo 2^32 (R408, R409). -/
def DmaChan.addrOf (c : DmaChan) (base : Nat) (plane : Int) : Nat :=
  let st := fun (i : Nat) => signed 32 (c.word i).toNat
  let k := if base = 1 then 0 else 1
  let v : Int := ((c.word base).toNat : Int) + c.x * st (5 + k) + c.y * st (7 + k) + c.z * st (9 + k) + c.p * plane
  unsigned 32 v

def DmaChan.src (c : DmaChan) : Nat :=
  c.addrOf 1 (if c.mode = 1 then signed 32 (c.word 12).toNat else if c.mode = 2 then (c.size : Int) else 0)
def DmaChan.dst (c : DmaChan) : Nat :=
  c.addrOf 2 (if c.mode = 2 then signed 32 (c.word 12).toNat else if c.mode = 1 then (c.size : Int) else 0)

/-- Elements of the descriptor, and the index of the next one. -/
def DmaChan.total (c : DmaChan) : Nat := c.xcnt * c.ycnt * c.zcnt * c.planes
def DmaChan.index (c : DmaChan) : Nat := ((c.z * c.ycnt + c.y) * c.xcnt + c.x) * c.planes + c.p

/-- The next element: planes first, then x, y and z. -/
def DmaChan.next (c : DmaChan) : DmaChan :=
  let d := { c with got := [], put := 0, left := c.left - 1, tries := 0 }
  if c.p + 1 < c.planes then { d with p := c.p + 1 }
  else if c.x + 1 < c.xcnt then { d with p := 0, x := c.x + 1 }
  else if c.y + 1 < c.ycnt then { d with p := 0, x := 0, y := c.y + 1 }
  else { d with p := 0, x := 0, y := 0, z := c.z + 1 }

/-- Bit `b` of word `w` of a group. -/
def groupBit (g : List Word) (w b : Nat) : Bool := getBits (g.getD w 0) b 1 = 1

/-- A word from its 32 bits. -/
def wordFrom (f : Nat → Bool) : Word := BitVec.ofNat 32 ((List.range 32).map fun j => if f j then 2 ^ j else 0).sum

/-- Place, in a packed group, of bit `j` of plane word `q` (Table 16-3). -/
def planeSource (four : Bool) (q j : Nat) : Nat × Nat :=
  if four then (j / 4, 8 * (j % 4) + (match q with | 0 => 3 | 1 => 0 | 2 => 1 | 3 => 2 | 4 => 7 | 5 => 4 | 6 => 5 | _ => 6))
  else (j / 8, 4 * (j % 8) + (match q with | 0 => 1 | 1 => 0 | 2 => 3 | _ => 2))

/-- Split a packed group into plane words. -/
def groupSplit (four : Bool) (g : List Word) : List Word :=
  (List.range (if four then 8 else 4)).map fun q => wordFrom fun j => let s := planeSource four q j; groupBit g s.1 s.2

/-- Merge plane words into a packed group. -/
def groupMerge (four : Bool) (g : List Word) : List Word :=
  (List.range (if four then 8 else 4)).map fun w => wordFrom fun b =>
    (List.range (if four then 8 else 4)).any fun q => (List.range 32).any fun j =>
      planeSource four q j = (w, b) && groupBit g q j

/-- An element as it is written (R408 to R410). -/
def DmaChan.shape (c : DmaChan) (l : List Byte) : List Byte :=
  let n := if c.mode = 3 ∨ c.mode = 5 then 4 else 8
  let ws := toWords l
  match c.mode with
  | 3 => wordBytes (groupSplit false (ws.take n) ++ ws.drop n)
  | 4 => wordBytes (groupSplit true (ws.take n) ++ ws.drop n)
  | 5 => wordBytes (groupMerge false (ws.take n) ++ ws.drop n)
  | 6 => wordBytes (groupMerge true (ws.take n) ++ ws.drop n)
  | _ => l

namespace State

def chanGet (s : State) (n : Nat) : DmaChan := s.dma.getD n DmaChan.reset

def chanSet (s : State) (n : Nat) (c : DmaChan) : State := { s with dma := s.dma.set n c }

def chanState (s : State) (n : Nat) : Nat := s.fld (F.CH_STAT_STATE n)

def chanGo (s : State) (n st : Nat) : State := s.setFld (F.CH_STAT_STATE n) st

/-- The engine is clocked. -/
def dmaRuns (s : State) : Bool := s.domRuns 9 && !(s.gated P.DMA) && !s.pmu.poweredDown && !s.pmu.deviceReset

/-- A channel is to pause: its PAUSE bit, or the engine's ENABLE = 0 (R418). -/
def chanPause (s : State) (n : Nat) : Bool := s.flag (F.CH_CTRL_PAUSE n) || !(s.enabled P.DMA)

/-- PAGE_STAT.RUNNING of DMA: clear once the engine is told to stop and no channel works. -/
def dmaIdle (s : State) : Bool := (List.range 32).all fun n => s.chanState n = 0 || s.chanState n = 5 || s.chanState n = 6

/-- Registers that show the position of a channel. -/
def chanShow (s : State) (n : Nat) : State :=
  let c := s.chanGet n
  ((((s.setFld (F.CH_SRC_ADDR n) c.src).setFld (F.CH_DST_ADDR n) c.dst).setFld (F.CH_POSX_X n) c.x).setFld
    (F.CH_POSYZ_Y n) c.y).setFld (F.CH_POSYZ_Z n) c.z

/-- The request lines of R411, as the blocks drive them; 4 and 5 follow SPI frames and are not driven by themselves. -/
def requestLine (s : State) (i : Nat) : Bool :=
  match i with
  | 0 => !(s.host.uartRx.getD 0 []).isEmpty
  | 1 => (s.host.uartTx.getD 0 []).length < 64
  | 2 => !(s.host.uartRx.getD 1 []).isEmpty
  | 3 => (s.host.uartTx.getD 1 []).length < 64
  | 6 => 4 ≤ s.host.qspi.length
  | 7 => s.host.qspi.length + 4 ≤ 256
  | 8 => s.regBit (R.IRQ_RAW P.AUX) 0
  | 9 => !s.ptp.rx.isEmpty
  | _ => false

/-- A burst starts (R411). -/
def burstStart (s : State) (n : Nat) : State :=
  let c := s.chanGet n
  let rest := c.total - c.index
  let b := if s.fld (F.CH_TRIG_SRC n) = 0 then 0 else s.fld (F.CH_CFG_BURST n)
  (s.chanSet n { c with left := if b = 0 then rest else min b rest }).chanGo n 3

/-- A trigger acts on a channel in WAIT: a burst, or the next fetch of a polling channel. -/
def waitGo (s : State) (n : Nat) : State :=
  let c := s.chanGet n
  if c.pollWait then (s.chanSet n DmaChan.reset).chanGo n 1 else s.burstStart n

/-- A channel enters WAIT: PAUSE holds it; SRC 0, a held event or an asserted request line takes it on at once. -/
def waitEnter (s : State) (n : Nat) : State :=
  if s.chanPause n then (s.chanSet n { s.chanGet n with from_ := 2 }).chanGo n 5
  else
    let s1 := s.chanGo n 2
    match s.fld (F.CH_TRIG_SRC n) with
    | 0 => s1.waitGo n
    | 4 => if s.requestLine (s.fld (F.CH_TRIG_IDX n)) then s1.waitGo n else s1
    | _ => if s.flag (F.CH_STAT_PEND n) then (s1.setFlag (F.CH_STAT_PEND n) false).waitGo n else s1

/-- A channel enters FETCH, or is held before it by PAUSE (R413). -/
def fetchEnter (s : State) (n : Nat) (pausable : Bool) : State :=
  if pausable && s.chanPause n then (s.chanSet n { s.chanGet n with from_ := 1 }).chanGo n 5 else s.chanGo n 1

/-- A trigger event of SRC 1 to 3 (R412). -/
def dmaEvent (s : State) (n : Nat) : State :=
  let st := s.chanState n
  if !s.dmaRuns ∨ 32 ≤ n ∨ st = 0 then s
  else if st = 2 then s.waitGo n
  else if s.flag (F.CH_STAT_PEND n) then (s.setFlag (F.CH_STAT_TRIG_OVR n) true).sticky P.DMA 9 n
  else s.setFlag (F.CH_STAT_PEND n) true

/-- An event of Drumline trigger `i` or, for `src` 3, of channel `i` for every channel that names it. -/
def dmaEvents (s : State) (src i : Nat) : State :=
  (List.range 32).foldl (fun (t : State) n =>
    if t.fld (F.CH_TRIG_SRC n) = src ∧ t.fld (F.CH_TRIG_IDX n) = i then t.dmaEvent n else t) s

/-- DMA_TRIGGER, DMA_TIMER: an event of the source that CH_TRIG selects. -/
def dmaTrigger (s : State) (n : Nat) : State :=
  if s.fld (F.CH_TRIG_SRC n) = 1 ∨ s.fld (F.CH_TRIG_SRC n) = 3 then s.dmaEvent n else s

def dmaTimer (s : State) (n : Nat) : State := if s.fld (F.CH_TRIG_SRC n) = 2 then s.dmaEvent n else s

/-- DMA_REQUEST: the channel's request line is asserted; `spi` is the level of the SPIT lines. -/
def dmaRequest (s : State) (n : Nat) (spi : Bool) : State :=
  let i := s.fld (F.CH_TRIG_IDX n)
  let up := if i = 4 ∨ i = 5 then spi else s.requestLine i
  if s.dmaRuns ∧ n < 32 ∧ s.fld (F.CH_TRIG_SRC n) = 4 ∧ s.chanState n = 2 ∧ up then s.waitGo n else s

/-! ### Halt, decisions and CH_CTRL (R413, R415, R416) -/

/-- The channel halts on an access: error code, address and direction (R415). -/
def chanHalt (s : State) (n : Nat) (stage : DmaStage) (err addr : Nat) (write : Bool) : State :=
  let c := s.chanGet n
  let s1 := (((((s.setFld (F.CH_ERRADDR_ADDR n) addr).setFld (F.CH_ERRINFO_ERR n) err).setFlag (F.CH_ERRINFO_WRITE n) write).setFlag
    (F.CH_ERRINFO_DESC n) (stage ≠ .data)).setFld (F.CH_ERRINFO_TRIES n) c.tries)
  ((((s1.chanSet n { c with stage := stage, from_ := s.chanState n, backoff := false }).chanGo n 6).irq P.DMA n).sticky P.DMA 8 n).chanShow n

/-- An access fails: a retryable error with retries left waits for its backoff, any other halts (R414). -/
def chanFail (s : State) (n : Nat) (stage : DmaStage) (err addr : Nat) (write : Bool) : State :=
  let c := s.chanGet n
  if (err = 5 ∨ err = 6) ∧ c.tries < s.fld (F.CH_CFG_RETRY n) then
    (s.chanSet n { c with tries := c.tries + 1, used := min 7 (c.used + 1), backoff := true, stage := stage }).satFld
      (F.CH_TRIES_COUNT n) 1
  else s.chanHalt n stage err addr write

/-- The codes of Table 16-4 for an error response. -/
def dmaCode : Resp → Nat
  | .own => 1
  | .decode => 2
  | .align => 3
  | .ecc => 4
  | .collide => 5
  | .targetReset => 6
  | _ => 0

/-- A channel goes to COMPLETE with an error code (0 for none). -/
def completeEnter (s : State) (n err : Nat) : State :=
  let c := s.chanGet n
  (s.chanSet n { c with err := err, stage := .readBack, got := [], put := 0, tries := 0, backoff := false, pollWait := false }).chanGo n 7

/-- The status of a descriptor whose last element is done. -/
def endErr (c : DmaChan) : Nat := if c.skipped then 10 else 0

/-- A burst or the descriptor is at its end. -/
def burstOver (s : State) (n : Nat) : State :=
  let c := s.chanGet n
  if c.total ≤ c.index then s.completeEnter n (endErr c)
  else if c.left = 0 then s.waitEnter n
  else s

/-- RESUME or SKIP of a halted channel continues: in RUN (or PAUSED) for data, at its stage for a descriptor access. -/
def haltLeave (s : State) (n : Nat) : State :=
  let c := s.chanGet n
  let s1 := s.chanSet n { c with tries := 0 }
  match c.stage with
  | .data =>
    if s.chanPause n then (s1.chanSet n { c with tries := 0, from_ := 3 }).chanGo n 5
    else if c.total ≤ c.index ∨ c.left = 0 then (s1.chanGo n 3).burstOver n
    else s1.chanGo n 3
  | .fetch => s1.fetchEnter n true
  | _ => s1.chanGo n 7

/-- SKIP (R415, R416). -/
def chanSkip (s : State) (n : Nat) : State :=
  let c := s.chanGet n
  match c.stage with
  | .data => ((s.chanSet n { c.next with skipped := true }).haltLeave n).chanShow n
  | .readBack => (s.chanSet n { c with stage := .status, tries := 0 }).chanGo n 7
  | .fetch => s
  | _ => ((s.setFlag (F.CH_STAT_DESC_LOST n) true).sticky P.DMA 10 n).chanGo n 0

/-- `k` words of a descriptor from `a` on, read on port D; 0 for the words from one that receives an error on. -/
def descWords (s : State) (a : Nat) : Nat → State × List Word
  | 0 => (s, [])
  | k + 1 =>
    match s.bankAccess ⟨Init.DMA, false, a, 4, 0⟩ with
    | (t, .served, v) => let (u, ws) := descWords t (a + 4) k; (u, BitVec.ofNat 32 v :: ws)
    | (t, _, _) => (t, List.replicate (k + 1) 0)

/-- ABORT: the descriptor completes with ERR 9. A fetch that has not ended finishes first, and no byte has been written. -/
def chanAbort (s : State) (n : Nat) : State :=
  if (s.chanGet n).desc.isEmpty then
    let (t, ws) := s.descWords (s.fld (F.CH_DESC_ADDR n) / 64 * 64) 16
    ((t.chanSet n { t.chanGet n with desc := ws, lastAddr := none, used := 0 }).setFld (F.CH_BYTES_COUNT n) 0).completeEnter n 9
  else s.completeEnter n 9

/-- A change of PAUSE, or of the engine's ENABLE, in the channel's state (R413, R418). -/
def chanPauseStep (s : State) (n : Nat) : State :=
  let c := s.chanGet n
  if s.chanPause n then
    match s.chanState n with
    | 2 => (s.chanSet n { c with from_ := 2 }).chanGo n 5
    | 3 => s.chanGo n 4
    | _ => s
  else if s.chanState n = 5 then
    match c.from_ with
    | 1 => s.chanGo n 1
    | 3 => s.chanGo n 3
    | _ => s.waitEnter n
  else s

/-- START from IDLE. -/
def chanStart (s : State) (n : Nat) : State :=
  ((s.chanSet n DmaChan.reset).setFld (F.CH_TRIES_COUNT n) 0).chanGo n 1

/-- A write of CH_CTRL (R413): PAUSE, then the commands in the order ABORT, SKIP, RESUME, START. -/
def chanCtrl (s : State) (n w : Nat) : State :=
  let v := BitVec.ofNat 32 w
  let s1 := (s.setFlag (F.CH_CTRL_PAUSE n) (getBits v 1 1 = 1)).chanPauseStep n
  let st := s1.chanState n
  if getBits v 4 1 = 1 ∧ st ≠ 0 then s1.chanAbort n
  else if getBits v 3 1 = 1 ∧ st = 6 then s1.chanSkip n
  else if getBits v 2 1 = 1 ∧ st = 6 then s1.haltLeave n
  else if getBits v 0 1 = 1 ∧ st = 0 then s1.chanStart n
  else s1

/-- ENABLE of DMA changes (R418). -/
def dmaEnable (s : State) : State :=
  let s1 := (List.range 32).foldl chanPauseStep s
  if s1.enabled P.DMA then s1.setFlag (F.STAT_RUNNING P.DMA) true else s1

/-- A soft reset of DMA returns every channel to IDLE. -/
def dmaReset (s : State) : State :=
  (List.range 32).foldl (fun (t : State) n => (t.setFlag (F.CH_STAT_PEND n) false).chanGo n 0)
    { s with dma := s.dma.map fun _ => DmaChan.reset }

end State
end Sys2Proof.Machine
end

