-- ==== Sys2Proof/Machine/PairLink.lean ====
section
/-! DEFINITION. The redundant pair: roles and attestation, heartbeat line, time transfer, mirroring, takeover and fence
(spec/13_redundant_pair.md, R330 to R348).
Readings: log entry 48 (DEDUCED). -/

namespace Sys2Proof.Machine
namespace State

def pairPut (s : State) (p : Pair) : State := { s with pair := p }

def role (s : State) : Nat := s.fld F.PAIR_STAT_ROLE

/-- Within the last `ns` nanoseconds. -/
def recent (s : State) (t : Option Nat) (ns : Nat) : Bool :=
  match t with
  | none => false
  | some x => decide (s.nowNs ≤ x + ns)

/-! ### Roles (R332) -/

/-- PAIR_CMD role PRIMARY. -/
def rolePrimary (s : State) (init : Nat) : State :=
  if s.recent s.pair.lastPulse 3000000 ∨ (s.flag F.PAIR_CFG_EN ∧ !s.attPassed) then s.stickyAt P.PAIR 13 0x044 true init 0
  else s.setFld F.PAIR_STAT_ROLE 1

def roleSecondary (s : State) : State := s.setFld F.PAIR_STAT_ROLE 2
def roleNone (s : State) : State := s.setFld F.PAIR_STAT_ROLE 0

/-! ### Attestation and link (R333, R334, R338) -/

/-- PAIR_CMD re-attest: a new mutual attestation over a link that is up. -/
def reAttest (s : State) : State :=
  if s.flag F.PAIR_STAT_LINK then s.setFld F.PAIR_STAT_ATT 1 else s

/-- PAIR_LINK_UP. -/
def pairLinkUp (s : State) : State :=
  if s.live P.PAIR && !(s.flag F.PAIR_STAT_LINK) then
    ((s.setFlag F.PAIR_STAT_LINK true).setFld F.PAIR_STAT_ATT 1).irq P.PAIR 2
  else s

/-- A command that waited for the secondary completes locally, and the tables diverge. -/
def ackLost (s : State) : State :=
  if s.pair.waitAck then
    (((s.pairPut { s.pair with waitAck := false }).setFlag F.PAIR_STAT_DIVERGED true).setFlag
      F.PTP_SESSSTAT_BUSY false).irq P.PTP 2
  else s

/-- PAIR_LINK_DOWN: no takeover. A pulse that still comes sets LINK_DOWN at its window (R340). -/
def pairLinkDown (s : State) : State :=
  if s.flag F.PAIR_STAT_LINK then ((s.setFlag F.PAIR_STAT_LINK false).irq P.PAIR 2).ackLost else s

/-- This device's check of its peer (R441): the Cartouche chain and the transcript signature verify, and the stored binding
record names this device's key ID and the peer's. -/
def attPeer (s : State) (chain sig : Bool) (id : List Byte) : Bool :=
  chain && sig &&
    match s.nym.pairRec with
    | none => false
    | some x => (x.own = deviceKeyId && x.peer = id) || (x.own = id && x.peer = deviceKeyId)

/-- The entries of the session table that are not all zero. -/
def tableNow (s : State) : MirrorMsg := .table (s.sesListed.map fun i => (i, s.sesPeek i))

/-- ATT_DONE: both checks have ended. A pass on the primary sends the whole table, which ends DIVERGED. With the link down ATT keeps
its value (R334). -/
def attDone (s : State) (pass : Bool) : State :=
  if s.fld F.PAIR_STAT_ATT = 1 ∧ s.flag F.PAIR_STAT_LINK then
    let s1 := (s.setFld F.PAIR_STAT_ATT (if pass then 2 else 3)).irq P.PAIR 1
    if !pass then s1.sticky P.PAIR 9
    else if s1.role = 1 then (s1.setFlag F.PAIR_STAT_DIVERGED false).tableSend s1.tableNow
    else s1
  else s

/-- Mirroring is in service: attestation passed and the link up (R337). -/
def mirrors (s : State) : Bool := s.attPassed && s.flag F.PAIR_STAT_LINK && s.live P.PAIR

/-- The sequence block of tick `j`: the numbers of every valid entry (R337). -/
def seqBlock (s : State) (j : Nat) : MirrorMsg :=
  .sequence (j / 128) (j % 128)
    (s.sesAll.map fun i =>
      let e := s.sesPeek i
      (i, sesF e 0x38 2, sesF e 0x3A 2, sesF e 0x3C 2))

/-- After a scheduling tick the primary's engine sends its sequence block. -/
def tickMirror (s : State) (ns : Nat) : State :=
  if s.mirrors && s.role = 1 then s.tableSend (s.seqBlock (tickOf ns)) else s

/-! ### Heartbeat line (R331, R340, R341) -/

/-- HEARTBEAT_PULSE at a whole TBU millisecond. -/
def heartbeatPulse (s : State) : State :=
  if s.role = 1 && s.live P.PAIR && s.loaded then s.pairPut { s.pair with pulseEnd := some (s.nowNs / 1000000 * 1000000 + 50000) }
  else s

/-- This device drives PAIR_HB low now. -/
def drivesLow (s : State) : Bool :=
  s.selfLow || (match s.pair.pulseEnd with | some t => decide (s.role = 1 ∧ s.nowNs < t) | none => false)

/-- PAIR_HB_EDGE: the peer pulls the line low or releases it. A pulse counts for the millisecond that it follows within
100 us (R340). -/
def pairHbEdge (s : State) (low : Bool) : State :=
  if !low then s.pairPut { s.pair with peerLow := false, lowSince := none }
  else if s.selfLow then s.pairPut { s.pair with peerLow := true }
  else
    (s.pairPut { s.pair with peerLow := true, lowSince := some (s.pair.lowSince.getD s.nowNs)
                             lastPulse := some s.nowNs
                             pulse := s.pair.pulse || decide (s.nowNs % 1000000 ≤ 100000) }).setFlag F.PAIR_STAT_HB_OK true

/-- HEARTBEAT_WINDOW_END, 100 us after a whole TBU millisecond. A pulse without frames of the link, or the reverse, is no
missed heartbeat: LINK_DOWN or HB_LINE is set (R340). -/
def heartbeatWindow (s : State) : State :=
  let ms := s.nowNs / 1000000 * 1000000
  let s1 := s.pairPut { s.pair with pulse := false, frame := false }
  if !(s.live P.PAIR) then s
  else if s.selfLow then (s1.setFlag F.PAIR_STAT_HB_OK false).setFld F.PAIR_STAT_MISS 0
  else if (match s.pair.released with | some t => decide (ms ≤ t) | none => true) then s1
  else
    let s2 := s1.setFlag F.PAIR_STAT_HB_OK (s.recent s.pair.lastPulse 3000000)
    if s.role ≠ 2 then s2.setFld F.PAIR_STAT_MISS 0
    else
      let miss := !s.pair.pulse && !s.pair.frame
      let s3 := s2.setFld F.PAIR_STAT_MISS (if miss then min 3 (s.fld F.PAIR_STAT_MISS + 1) else 0)
      let s4 := if !s.pair.pulse && s.pair.frame then s3.sticky P.PAIR 10 else s3
      if s.pair.pulse && !(s.flag F.PAIR_STAT_LINK) then s4.sticky P.PAIR 8 else s4

/-! ### Time transfer (R335) -/

/-- TIMING_FRAME_SEND: the egress time is kept; a primary's frame carries it and the ingress time of the secondary's last frame. -/
def timingSend (s : State) : State :=
  if s.flag F.PAIR_STAT_LINK && s.live P.PAIR then
    let t := s.planeTime 0
    s.pairPut { s.pair with t3 := t, frameOut := if s.role = 1 then some (t, s.pair.ingress) else none }
  else s

/-- TIMING_FRAME_RECEIVE: a frame of the peer that carries its own egress time and, for the secondary, the ingress time of
the secondary's last frame (t1 and t4, in 25 ps of the primary's TBU time). -/
def timingReceive (s : State) (t1 t4 : Nat) : State :=
  if s.flag F.PAIR_STAT_LINK && s.live P.PAIR then
    let s1 := s.pairPut { s.pair with frame := true, lastFrame := some s.nowNs, ingress := s.planeTime 0 }
    if s.role = 2 then
      let t2 : Int := (s.planeTime 0 : Nat)
      let a := t2 - t1
      let b := (t4 : Int) - s.pair.t3
      let off := roundDiv ((a - b) * 25) 2 - s.fldI F.PAIR_ASYM_PS
      (s1.setFldI F.PAIR_OFFSET_PS off).setFldI F.PAIR_RTT_PS ((a + b) * 25)
    else s1
  else s

/-! ### Takeover (R340 to R344, R346) -/

/-- A secondary in STANDBY with attestation passed. -/
def mayTakeOver (s : State) : Bool := s.mode = 6 && s.role = 2 && s.attPassed

/-- Ticks in `(a, b]` that make a message of interval `l` and phase `p` due (R312). -/
def dueBetween (l : Int) (p a b : Nat) : Nat :=
  let m : Nat := 2 ^ (7 + l).toNat
  let at_ := fun (j : Nat) => (((j : Int) - p) / (m : Nat) : Int)
  (at_ b - at_ a).toNat

/-- The second at which a grant ends, near second `sec`. -/
def endNear (sec e : Nat) : Nat :=
  let d := (e + 2 ^ 32 - sec % 2 ^ 32) % 2 ^ 32
  if d < 2 ^ 31 then sec + d else sec + d - 2 ^ 32

/-- One entry's next numbers at takeover (R343): a message that fell due after the mirrored tick `a` and before the release
in tick `b` counts one. -/
def seqRelease (a b : Nat) (s : State) (i : Nat) : State :=
  let e := s.sesPeek i
  let sec := s.nowSec
  let bump := fun (x : List Byte) (so : Nat) (l : Int) (p en : Nat) =>
    let b' := min b (endNear sec (sesF e en 4) * 128 - 1)
    sesPut x so (leBytes 2 (sesF x so 2 + (if a < b' then dueBetween l p a b' else 0)))
  let e1 := if sesClient e then bump e 0x3C (sesLogDelay e) (sesF e 0x0E 1) 0x34
    else bump (bump e 0x38 (sesLogSync e) (sesF e 0x0E 1) 0x2C) 0x3A (sesLogAnn e) (sesF e 0x0F 1) 0x30
  (s.sesWrite i e1).1

/-- Sessions are released: sequence numbers continue the mirrored ones. -/
def sessRelease (s : State) (b : Nat) : State :=
  let k := s.fld F.PAIR_SEQTICK_TICK
  let sec := s.nowSec
  let m := s.fld F.PAIR_SEQTICK_SEC
  let d := (sec + 2 ^ 24 - m) % 2 ^ 24
  if s.reg R.PAIR_SEQTICK = 0 ∨ sec < d then s else s.sesAll.foldl (seqRelease ((sec - d) * 128 + k) b) s

/-- The last scheduling tick that passed while sessions were held: that of the trigger's latest firing. -/
def lastTick (s : State) : Nat := tickOf (((s.trigGet (s.fld F.PTP_CFG_DRL)).latest).getD s.nowNs)

/-- A takeover with a cause of R340; `b` is the last tick before the release. A primary that was itself in HOLDOVER hands
its mode over, and ORIGIN takes the last mirrored TIMING or NAVIGATE: Table 1-4 and R28 name no other (DEDUCED, log
entry 48). -/
def takeoverAt (s : State) (cause b : Nat) : State :=
  let s1 := ((s.setFld F.PAIR_STAT_ROLE 1).setFld F.PAIR_TOC_CAUSE cause).setFld F.PAIR_TOC_NS
    (s.nowNs % 1000000000 / 64)
  let m := s.pair.mirMode
  let s2 := if m = 4 then s1.holdoverEnter s.pair.mirOrigin 7
    else if (m = 2 ∨ m = 3) ∧ !s.sys.ownValid then s1.holdoverEnter m 7
    else s1.modeChange m 7
  let s3 := s2.pairPut { s2.pair with asked := false, handTick := none, pulseEnd := none, tookAt := some s.tbu.time }
  (s3.sessRelease b).irq P.PAIR 0

/-- The condition of cause 1: PAIR_HB low for 200 us. -/
def failFastNow (s : State) : Bool :=
  s.flag F.PAIR_CFG_AUTO && !s.selfLow && s.live P.PAIR &&
    (match s.pair.lowSince with | some t => decide (t + 200000 ≤ s.nowNs) | none => false)

/-- The condition of cause 2: three missed heartbeats. -/
def missedNow (s : State) : Bool := s.flag F.PAIR_CFG_AUTO && !s.selfLow && s.live P.PAIR && s.fld F.PAIR_STAT_MISS = 3

/-- The lowest of the causes that hold with cause `c` (R346). -/
def lowestCause (s : State) (c : Nat) : Nat := if s.failFastNow then 1 else if s.missedNow then min 2 c else c

/-- TAKEOVER by causes 1 to 3. -/
def takeover (s : State) (cause : Nat) : State := s.takeoverAt (s.lowestCause cause) s.lastTick

/-- FAIL_FAST_DETECT: cause 1. -/
def failFast (s : State) : State := if s.mayTakeOver && s.failFastNow then s.takeover 1 else s

/-- MISSED_HEARTBEAT: cause 2. -/
def missedHeartbeat (s : State) : State := if s.mayTakeOver && s.missedNow then s.takeover 2 else s

/-- PAIR_CMD.TAKEOVER: COMMAND with the primary silent on line and lanes, else a request (R340, R344). -/
def takeoverCommand (s : State) : State :=
  if s.mayTakeOver then
    if s.recent s.pair.lastPulse 3000000 || s.recent s.pair.lastFrame 3000000 then
      s.pairPut { s.pair with asked := true }
    else s.takeover 3
  else s

/-- TAKEOVER_REPLY_RECEIVE: the primary names the handover tick, as second and tick. -/
def takeoverReply (s : State) (sec k : Nat) : State :=
  if s.pair.asked then s.pairPut { s.pair with asked := false, handTick := some (sec * 128 + k) } else s

/-- PLANNED_TAKEOVER_TIMEOUT. -/
def takeoverTimeout (s : State) : State :=
  if s.pair.asked then
    let s1 := s.pairPut { s.pair with asked := false }
    if s1.mayTakeOver then s1.takeover 3 else s1
  else s

/-! ### Fence (R345) -/

/-- A primary fences. -/
def fence (s : State) : State :=
  let s1 := ((s.setFld F.PAIR_STAT_ROLE 2).setFlag F.PAIR_STAT_FENCED true).pinsCut
  let s2 := s1.pairPut { s1.pair with handTick := none, pulseEnd := none }
  ((s2.irq P.PAIR 4).sticky P.PAIR 11).qualUpdate

/-- PAIR_FENCE: a primary receives a takeover announcement, which fences it at once, or a request, for which it names the
next scheduling tick at least 1 ms away and fences there (R344, R345). -/
def pairFence (s : State) (request : Bool) : State :=
  if s.role = 1 then
    if request then
      let t := s.nowNs + 1000000
      let j := tickOf t + b2n (t % 1000000000 % 7812500 ≠ 0)
      s.pairPut { s.pair with handTick := some j }
    else s.fence
  else s

/-- The handover tick is reached by a firing for tick `j`: the primary sends its final sequence block and fences, the
secondary takes over (R344). -/
def handoverTick (s : State) (j : Nat) : State :=
  match s.pair.handTick with
  | none => s
  | some h =>
    if j < h then s
    else if s.role = 1 then ((if s.mirrors then s.tableSend (s.seqBlock (j - 1)) else s)).fence
    else
      let s1 := s.pairPut { s.pair with handTick := none }
      if s1.mayTakeOver then s1.takeoverAt (s1.lowestCause 4) (j - 1) else s1

/-! ### Mirroring (R337, R338) -/

/-- MTXDATA_PUSH. -/
def mtxPush (s : State) (w : Nat) : State := s.pairPut { s.pair with stage := (s.pair.stage ++ leBytes 4 w).take 256 }

/-- MIRROR_SEND: a write of PAIR_MTXCMD.GO sends the block of TYPE and LEN (R337). A LEN outside 1 to 256, and a block while
mirroring is out of service, send nothing (DEDUCED, log entry 22). -/
def mirrorSend (s : State) : State :=
  let len := s.fld F.PAIR_MTXDESC_LEN
  let s1 := s.pairPut { s.pair with stage := [] }
  if s.mirrors ∧ s.role = 1 ∧ 1 ≤ len ∧ len ≤ 256 then
    s1.pairPut { s1.pair with
      sent := some (s.fld F.PAIR_MTXDESC_TYPE, (s.pair.stage ++ List.replicate 256 0).take len) }
  else s1

/-- The slot of a block in the mirror ring (R337): TYPE and LEN, SEQ, the time of receipt, the octets. -/
def mirrorSlot (s : State) (type : Nat) (octets : List Byte) : List Byte :=
  leBytes 4 (type % 256 + octets.length * 256) ++ leBytes 4 s.pair.ringWr ++ leBytes 4 (s.nowSec % 2 ^ 32)
    ++ leBytes 4 (s.nowNs % 1000000000) ++ (octets ++ List.replicate 256 0).take 256 ++ List.replicate 48 0

/-- The header of the mirror ring with `wr` records (Table 10-2): its epoch count is that of the newest record. -/
def mirrorHead (s : State) (wr : Nat) : List Byte :=
  leBytes 4 0x524E4731 ++ leBytes 2 1 ++ leBytes 1 2 ++ leBytes 1 Init.PAIR ++ leBytes 4 320 ++ leBytes 4 819
    ++ leBytes 4 wr ++ leBytes 4 (s.fld F.COR_LATSTAT_EPOCHS % 256) ++ List.replicate 40 0

/-- A block of type 5 tells the primary's mode and quality. -/
def mirrorMode (s : State) (mode qual : Nat) : State :=
  (s.pairPut { s.pair with
    mirMode := mode % 8, mirQual := qual % 8
    mirOrigin := if mode % 8 = 2 ∨ mode % 8 = 3 then mode % 8 else s.pair.mirOrigin }).qualUpdate

/-- MIRROR_RECEIVE: a block of the primary is published in the mirror ring, the record before WR (R250, R337); a block
that finds the bank not owned by PAIR is lost. -/
def mirrorReceive (s : State) (type : Nat) (octets : List Byte) (mode qual : Nat) : State :=
  if !s.mirrors ∨ s.role ≠ 2 then s
  else
    let base := sramBase + bankSize * s.fld F.PAIR_MBASE_BANK
    match s.portWrite Init.PAIR (base + 64 + 320 * (s.pair.ringWr % 819)) (s.mirrorSlot type octets) with
    | (s1, false) => s1.sticky P.PAIR 12
    | (s1, true) =>
      let wr := (s.pair.ringWr + 1) % 2 ^ 32
      let (s2, _) := s1.portWrite Init.PAIR base (s.mirrorHead wr)
      let s3 := (s2.pairPut { s2.pair with ringWr := wr }).irq P.PAIR 3
      if type = 5 then s3.mirrorMode mode qual else s3

/-- SESSION_MIRROR_RECEIVE: the secondary's engine writes what the primary's sends into its own table. -/
def sessionMirror (s : State) (m : MirrorMsg) : State :=
  if !s.mirrors ∨ s.role ≠ 2 then s
  else
    match m with
    | .entry i bytes => if i < 4096 then (s.sesWrite i ((bytes ++ List.replicate 64 0).take 64)).1 else s
    | .sequence sec tick seqs =>
      let one := fun (t : State) (x : Nat × Nat × Nat × Nat) =>
        if x.1 < 4096 then
          (t.sesWrite x.1 (sesPut (t.sesPeek x.1) 0x38
            (leBytes 2 x.2.1 ++ leBytes 2 x.2.2.1 ++ leBytes 2 x.2.2.2))).1
        else t
      ((seqs.foldl one s).setFld F.PAIR_SEQTICK_TICK tick).setFld F.PAIR_SEQTICK_SEC sec
    | .table entries =>
      let old := s.sesListed.filter fun i => !(entries.any (·.1 = i))
      let s1 := old.foldl (fun t i => (t.sesWrite i (List.replicate 64 0)).1) s
      entries.foldl (fun t x => if x.1 < 4096 then (t.sesWrite x.1 ((x.2 ++ List.replicate 64 0).take 64)).1 else t) s1

/-- MIRROR_ACK: the waiting PTP_SESSCMD completes. -/
def mirrorAck (s : State) : State :=
  if s.pair.waitAck then
    ((s.pairPut { s.pair with waitAck := false }).setFlag F.PTP_SESSSTAT_BUSY false).irq P.PTP 2
  else s

/-- PAIR_CMD as a whole (REGISTER_WRITE of PAIR_CMD). -/
def pairCmd (s : State) (init op : Nat) : State :=
  match op with
  | 1 => s.rolePrimary init
  | 2 => s.roleSecondary
  | 3 => s.roleNone
  | 4 => s.takeoverCommand
  | 5 => s.reAttest
  | _ => s

end State
end Sys2Proof.Machine
end

