-- ==== Sys2Proof/Machine/Blocks.lean ====
section
/-! DEFINITION. Start, stop and reset of a block through its page (R45, R47, R49), with what each block's chapter adds.
Readings: log entries 14, 15, 60 (DEDUCED). -/

namespace Sys2Proof.Machine
namespace State

/-- Number of a page within its row of Table 2-5. -/
def instOf (p : Nat) : Nat :=
  match kindOf p with
  | some (_, n) => n
  | none => 0

/-- Pages on which PAGE_CTRL.ENABLE and SOFT_RESET do nothing: those of R49, DMAC (R418), NYC's (R373). -/
def ctrlFixed (p : Nat) : Bool := alwaysOn p || p = P.DMAC || p = P.CORE 11

/-- ENABLE goes to 1. -/
def blockStart (s : State) (p : Nat) : State :=
  if p = P.CHS then s.chsStart
  else if p = P.COR then s.corStart
  else if P.ETH 0 ≤ p ∧ p ≤ P.ETH 3 then s.ethShow
  else if p = P.TBU then s.tbuStart
  else if p = P.TIO then s.tioEnable true
  else if p = P.DRL then s.drlEnable true
  else if p = P.SYN 0 ∨ p = P.SYN 1 then s.synEnable (instOf p) true
  else if p = P.ANT then s.antEnable true
  else if p = P.ARR 0 ∨ p = P.ARR 1 then (s.arrStart (instOf p)).setFlag (F.STAT_RUNNING p) true
  else if P.CORE 0 ≤ p ∧ p ≤ P.CORE 10 then s.coreRelease (instOf p)
  else if p = P.CAL then s
  else if p = P.PTP then (s.ptpPut { s.ptp with ownErr := false }).setFlag (F.STAT_RUNNING p) true
  else if p = P.DMA then s.dmaEnable
  else if p = P.AUX then (s.setFlag (F.STAT_RUNNING p) true).adcShow
  else s.setFlag (F.STAT_RUNNING p) true

/-- ENABLE goes to 0: what stops at once; RUNNING of the blocks that drain is cleared by BLOCK_STOPPED. -/
def blockStop (s : State) (p : Nat) : State :=
  if p = P.COR then s.corStop
  else if p = P.CHS then s.chsStop
  else if p = P.ARR 0 ∨ p = P.ARR 1 then s.arrStop (instOf p)
  else if P.ETH 0 ≤ p ∧ p ≤ P.ETH 3 then s.ethShow
  else if p = P.TBU then s.tbuStop
  else if p = P.TIO then s.tioEnable false
  else if p = P.DRL then s.drlEnable false
  else if p = P.SYN 0 ∨ p = P.SYN 1 then s.synEnable (instOf p) false
  else if p = P.ANT then s.antEnable false
  else if P.CORE 0 ≤ p ∧ p ≤ P.CORE 10 then s.coreHold (instOf p)
  else if p = P.CAL then s.calStop
  else if p = P.DMA then s.dmaEnable
  else s

/-- A write of PAGE_CTRL.ENABLE (R45, R49). During a soft reset the field is stored and the block stays stopped. -/
def blockEnable (s : State) (p : Nat) (on : Bool) : State :=
  if ctrlFixed p then s
  else
    let was := s.enabled p
    let s1 := s.setFlag (F.CTRL_ENABLE p) on
    if s.inReset p then s1
    else if on then
      if was then
        if p = P.ARR 0 ∨ p = P.ARR 1 then s1.arrStart (instOf p)
        else if p = P.PTP then s1.ptpPut { s1.ptp with ownErr := false }
        else s1
      else s1.blockStart p
    else if was ∨ (p = P.ANT ∧ s.running p) then s1.blockStop p else s1

/-- A block's work in flight is done. ANT has no stop point to reach: a write of ENABLE = 0 turns the feeds off, and after a
soft reset the feeds stay on with ENABLE = 0 (R90). -/
def drained (s : State) (p : Nat) : Bool :=
  if p = P.ANT then false
  else if p = P.ACQ then s.acq.jobs.isEmpty
  else if p = P.CHS then !s.chs.busy
  else if p = P.DMA then s.dmaIdle
  else if p = P.PCIE then s.host.fetch.isNone
  else if p = P.CAL then s.calState = 0
  else true

/-- BLOCK_STOPPED: a block told to stop reaches its stop point after its drain. -/
def blockStopped (s : State) (p : Nat) : State :=
  if (kindOf p).isSome && p ≠ P.CORE 11 && !(s.enabled p) && s.running p && s.drained p then s.setFlag (F.STAT_RUNNING p) false else s

/-- PAGE_STAT.BUSY: work in flight, a drain included. -/
def pageBusy (s : State) (p : Nat) : Bool :=
  p ≠ P.ANT && p ≠ P.CORE 11 && ((s.running p && !(s.enabled p)) || !(s.drained p)) || (p = P.DMA && !s.dmaIdle) ||
    (p = P.UART && (s.host.qspiCmd.isSome || s.host.mdio.isSome)) || (p = P.NYM && !s.nym.queue.isEmpty) ||
    (p = P.MEM && !s.mem.hand.isEmpty) || (p = P.COR && s.flag F.COR_LATSTAT_BUSY) ||
    (p = P.AUX && s.flag F.AUX_ADCSTAT_BUSY)

/-- The registers of a page at offset 0x040 or above, IRQ_RAW, ENABLE and the shadows, as a soft reset leaves them (R47). -/
def pageClear (s : State) (p : Nat) : State :=
  let s1 := { s with rf := s.rf.filter fun e => !(pageOf e.1 = p && 0x040 ≤ offOf e.1) }
  ((((s1.dropShadow p).setReg (R.IRQ_RAW p) 0).setFlag (F.CTRL_ENABLE p) false).setFlag (F.STAT_RUNNING p) false)

/-- The waiting reads of the SPI target, or of PCI Express, are cancelled with their page (R523). -/
def hostCancel (s : State) (spi : Bool) : State :=
  { s with host := { s.host with
      waiting := s.host.waiting.filter fun r => r.spi != spi
      lost := s.host.lost ++ s.host.waiting.filter fun r => r.spi == spi } }

/-- The internal state of the block behind a page, as a soft reset leaves it. -/
def innerReset (s : State) (p : Nat) : State :=
  let n := instOf p
  if P.RFE 0 ≤ p ∧ p ≤ P.RFE 15 then s.pathSet n Path.reset
  else if p = P.SYN 0 ∨ p = P.SYN 1 then (s.synSet n ⟨false, 0⟩).synEnter n .off
  else if P.DFE 0 ≤ p ∧ p ≤ P.DFE 15 then
    ({ s with dfe := s.dfe.set n DfePath.reset } : State).pathSigSet n PathSig.reset
  else if p = P.ARR 0 ∨ p = P.ARR 1 then (s.arrSet n Arr.reset).bandSigSet n { BandSig.reset with hist := (s.bandSig n).hist }
  else if p = P.XBAR then
    { s with sig := { s.sig with stream := List.replicate 64 Mixer.reset, scale := List.replicate 2 Mixer.reset } }
  else if p = P.COR then s.corEmpty.chsLost fun _ => true
  else if P.CORU 0 ≤ p ∧ p ≤ P.CORU 3 then
    (s.corDrop fun k => k / 512 = n).chsLost fun k => k / 512 = n
  else if p = P.CHS then s.chsReset
  else if p = P.CHS2 then s.chsPut { s.chs with evict := [] }
  else if p = P.TBU then ({ s with tbu := { s.tbu with time := 0, slew := 0, stepSpan := none, lastSolq := 0, uncAt := 0, uncPart := 0 } } : State).tbuStop
  else if p = P.DRL then ({ s with drl := List.replicate 32 ⟨none, none⟩ } : State)
  else if p = P.TIO then ({ s with tio := Tio.reset } : State)
  else if p = P.PTP then s.ptpPut { Ptp.reset with sent := s.ptp.sent, fcs := s.ptp.fcs }
  else if P.PTPP 0 ≤ p ∧ p ≤ P.PTPP 3 then (s.ptpPut { s.ptp with queue := s.ptp.queue.set n [] }).unstage
  else if P.ETH 0 ≤ p ∧ p ≤ P.ETH 3 then s.ptpPut { s.ptp with sent := s.ptp.sent.set n none, fcs := s.ptp.fcs.set n [] }
  else if p = P.PAIR then
    s.pairPut { Pair.reset with
      peerLow := s.pair.peerLow, released := s.pair.released, lowSince := s.pair.lowSince }
  else if P.CORE 0 ≤ p ∧ p ≤ P.CORE 10 then s.coreSoftReset n
  else if p = P.DMA then s.dmaReset
  else if p = P.PCIE then
    { s with host := { s.host with
        pba := 0, vecWait := 0, fetch := none, fetchOut := [] } }.hostCancel false
  else if p = P.SPIT then { s with host := { s.host with spiErr := false, spiCrc := false } }.hostCancel true
  else if p = P.UART then
    { s with host := { s.host with uartRx := [[], []], uartTx := [[], []], qspi := [], qspiCmd := none, mdio := none } }
  else if p = P.MBX then { s with host := { s.host with cmdpi := none } }
  else s

/-- What a soft reset leaves beside the reset values: the abandoned jobs of ACQ are counted (R169), ANT keeps ANT_RETAIN and
its feeds take the state of the immediate stage, with ENABLE = 0 (R47, R90). -/
def afterReset (old s : State) (p : Nat) : State :=
  if p = P.ACQ then s.acqAbandon
  else if P.DFE 0 ≤ p ∧ p ≤ P.DFE 15 then s.notchShow (instOf p % 2)
  else if P.CORU 0 ≤ p ∧ p ≤ P.CORU 3 then s.corTotals
  else if p = P.ANT then ((s.setReg R.ANT_RETAIN (old.reg R.ANT_RETAIN)).setFld F.ANT_EN_PATTERN (old.fld F.ANT_RETAIN_PATTERN)).antEnable true
  else s

/-- The effects of a soft reset on one page (R47). -/
def softEffect (s : State) (p : Nat) : State := ((s.innerReset p).pageClear p).afterReset s p

/-- SOFT_RESET: a write of 1 to PAGE_CTRL.SOFT_RESET. -/
def softReset (s : State) (p : Nat) : State :=
  if ctrlFixed p then s
  else
    let s1 := s.softEffect p
    let s2 := if p = P.TBU ∨ p = P.DRL ∨ p = P.TIO ∨ p = P.PAIR then s1.armAll.qualUpdate else s1
    (s2.setFlag (F.CTRL_SOFT_RESET p) true).setFlag (F.STAT_IN_RESET p) true

/-- SOFT_RESET_DONE. A block that was enabled again during its reset starts now. -/
def softDone (s : State) (p : Nat) : State :=
  if (kindOf p).isSome && s.inReset p then
    let t := (s.setFlag (F.CTRL_SOFT_RESET p) false).setFlag (F.STAT_IN_RESET p) false
    if t.enabled p then t.blockStart p else t
  else s

end State
end Sys2Proof.Machine
end

