-- ==== Sys2Proof/Machine/HostIf.lean ====
section
/-! DEFINITION. Host interfaces without their accesses (chapter 20): UARTs, QSPI, MDIO, GPIO, mailbox indices, PCIe link and
configuration, MSI-X rearm, fetch engine.
Readings: log entry 55 (DEDUCED); log entry 56 (PRESUMED). -/

namespace Sys2Proof.Machine

/-- CRC-16 of the SPI target (Table 20-2): polynomial 0x1021, initial 0xFFFF. -/
def crc16 : List Byte → Nat → Nat
  | [], c => c
  | b :: bs, c =>
    let step := fun (v : Nat) (_ : Nat) => if v / 2 ^ 15 % 2 = 1 then (v * 2 % 2 ^ 16).xor 0x1021 else v * 2 % 2 ^ 16
    crc16 bs ((List.range 8).foldl step (c.xor (b.toNat * 256)))

namespace State

def hostPut (s : State) (h : HostIf) : State := { s with host := h }

/-! ### UARTs (R501) -/

/-- UART `u` works: its page runs and CFG.EN is 1. -/
def uartOn (s : State) (u : Nat) : Bool := u < 2 && s.live P.UART && s.domRuns 9 && s.flag (F.UART_CFG_EN u)

/-- UART_RX_BYTE. -/
def uartReceive (s : State) (u : Nat) (b : Byte) : State :=
  if !(s.uartOn u) then s
  else
    let l := s.host.uartRx.getD u []
    if 64 ≤ l.length then (s.setFlag (F.UART_STAT_RXOVR u) true).sticky P.UART 8 u
    else s.hostPut { s.host with uartRx := s.host.uartRx.set u (l ++ [b]) }

/-- UART_TX_BYTE: the oldest byte has been sent. -/
def uartSent (s : State) (u : Nat) : State :=
  if s.uartOn u then s.hostPut { s.host with uartTx := s.host.uartTx.set u ((s.host.uartTx.getD u []).drop 1) } else s

/-- A read of UART_DATAu pops a byte; VALID is 0, and DATA not stated, when there is none. -/
def uartPop (s : State) (u : Nat) : State × Word :=
  match s.host.uartRx.getD u [] with
  | [] => let f := s.fresh; (f.2, BitVec.ofNat 32 (f.1.toNat % 256))
  | b :: bs => (s.hostPut { s.host with uartRx := s.host.uartRx.set u bs }, BitVec.ofNat 32 (b.toNat + 256))

/-- A write of UART_DATAu pushes a byte; one that finds the FIFO full is lost. -/
def uartPush (s : State) (u w : Nat) : State :=
  let l := s.host.uartTx.getD u []
  if 64 ≤ l.length then s
  else s.hostPut { s.host with uartTx := s.host.uartTx.set u (l ++ [BitVec.ofNat 8 w]) }

/-- UART_STATu as a read shows it. -/
def uartStatWord (s : State) (u : Nat) : Word :=
  putBits (putBits (s.reg (R.UART_STAT u)) 0 7 (64 - (s.host.uartTx.getD u []).length)) 8 7 (s.host.uartRx.getD u []).length

/-! ### QSPI and MDIO (R503, R504) -/

/-- A write of QSPI_CMD; GO starts a command unless one runs. -/
def qspiCommand (s : State) (w : Nat) : State :=
  let v := BitVec.ofNat 32 w
  let s1 := s.setReg R.QSPI_CMD (v &&& BitVec.ofNat 32 0x00FFFFFF)
  if getBits v 31 1 = 1 ∧ s.host.qspiCmd.isNone ∧ s.live P.UART then
    (s1.hostPut { s1.host with qspiCmd := some v }).setFlag F.QSPI_STAT_BUSY true
  else s1

/-- Bytes a QSPI command moves. -/
def qspiLen (v : Word) : Nat := min 256 (getBits v 14 9)

/-- QSPI_DONE: a read has brought `data` from the flash into the FIFO, a write has taken its bytes from it. -/
def qspiDone (s : State) (data : List Byte) : State :=
  match s.host.qspiCmd with
  | none => s
  | some v =>
    let n := qspiLen v
    let q := if getBits v 23 1 = 1 then s.host.qspi.drop n else (s.host.qspi ++ (data ++ List.replicate n 0xFF).take n).take 256
    (s.hostPut { s.host with qspi := q, qspiCmd := none }).setFlag F.QSPI_STAT_BUSY false

/-- A read of QSPI_DATA takes the next word; bytes that are not there are not stated. -/
def qspiPop (s : State) : State × Word :=
  let l := s.host.qspi
  let s1 := s.hostPut { s.host with qspi := l.drop 4 }
  if 4 ≤ l.length then (s1, BitVec.ofNat 32 (leValue (l.take 4)))
  else
    let f := s1.fresh
    (f.2, BitVec.ofNat 32 (leValue (l ++ (leBytes 4 f.1.toNat).drop l.length)))

/-- A write of QSPI_DATA puts a word into the FIFO; bytes that find it full are lost. -/
def qspiPush (s : State) (w : Nat) : State := s.hostPut { s.host with qspi := (s.host.qspi ++ leBytes 4 w).take 256 }

/-- A write of MDIO_CMD starts a frame, unless one runs. -/
def mdioCommand (s : State) (w : Nat) : State :=
  if s.host.mdio.isSome then s
  else
    let v := BitVec.ofNat 32 w
    let s1 := s.setReg R.MDIO_CMD (v &&& BitVec.ofNat 32 0xFFFF3FFF)
    if s.live P.UART then (s1.hostPut { s1.host with mdio := some v }).setFlag F.MDIO_STAT_BUSY true else s1

/-- The frame reads (IEEE 802.3 clause 22: OP 2; clause 45: OP 2 and 3). -/
def mdioReads (v : Word) : Bool := getBits v 10 2 = 2 || (getBits v 12 1 = 1 && getBits v 10 2 = 3)

/-- MDIO_DONE: the frame ends; a read brings its data. -/
def mdioDone (s : State) (data : Nat) : State :=
  match s.host.mdio with
  | none => s
  | some v =>
    let s1 := (s.hostPut { s.host with mdio := none }).setFlag F.MDIO_STAT_BUSY false
    if mdioReads v then s1.setFld F.MDIO_STAT_DATA data else s1

/-! ### GPIO (R505) -/

/-- GPIO_SET and GPIO_CLR. -/
def gpioSet (s : State) (w : Nat) : State :=
  (s.setReg R.GPIO_OUT (s.reg R.GPIO_OUT ||| BitVec.ofNat 32 (w % 2 ^ 16))).gpioShow
def gpioClr (s : State) (w : Nat) : State :=
  (s.setReg R.GPIO_OUT (s.reg R.GPIO_OUT &&& ~~~(BitVec.ofNat 32 (w % 2 ^ 16)))).gpioShow

/-- GPIO_EDGE: the outside gives ball `n` the level `level`; `held` tells that the ball's level then holds for 16 PERI cycles, as a
pin with DEB = 1 asks before it counts. -/
def gpioEdge (s : State) (n : Nat) (level held : Bool) : State :=
  if 16 ≤ n then s
  else
    let s1 := s.hostPut { s.host with ext := setBit s.host.ext n level }
    if held ∨ !(bit (s.fld F.GPIO_DEB_DEB) n) then s1.gpioCount n else s1

/-! ### Pins of Table 18-4 that have no register -/

/-- QSPI_CS_N is low: a command runs and the pins are not forced. -/
def qspiSelect (s : State) : Bool := s.host.qspiCmd.isSome && !s.pinsForced

/-- UARTu_TX carries the byte that is being sent; otherwise, and while the pins are forced, it is high. -/
def uartPin (s : State) (u : Nat) : Option Byte := if s.pinsForced then none else (s.host.uartTx.getD u []).head?

/-- The transmit lanes of PCIE, of Ethernet port `p` and of PAIR carry a signal; else they are electrically idle. -/
def pcieLane (s : State) : Bool := s.flag F.PCIE_STAT_LINK_UP && !s.pinsForced
def ethLane (s : State) (p : Nat) : Bool := s.running (P.ETH p) && s.domRuns 7 && !s.pinsForced && s.mode ≠ 0
def pairLane (s : State) : Bool := s.running P.PAIR && s.domRuns 11 && !s.pinsForced

/-! ### Mailbox indices (R508) -/

/-- Distance of two free-running 16-bit indices. -/
def ringLen (p c : Nat) : Nat := (p + 2 ^ 16 - c % 2 ^ 16) % 2 ^ 16

/-- A host write that a handover still holds (R399). -/
def hostWriteHeld (s : State) : Bool := s.mem.heldAcc.any fun h => h.acc.init = Init.HOST && h.acc.write

/-- The CMDPI write takes effect: the doorbell of MC. -/
def cmdpiTake (s : State) (v : Nat) : State :=
  if 1024 < ringLen v (s.fld F.MBX_CMDCI_IDX) then s.stickyAt P.MBX 8 (offOf R.MBX_CMDPI) true Init.HOST 0
  else ((s.setFld F.MBX_CMDPI_IDX v).irq P.MBX 1).coreLine 10 4

/-- CMDPI_WRITE: it waits for every earlier host write. -/
def cmdpiWrite (s : State) (v : Nat) : State :=
  if s.hostWriteHeld then s.hostPut { s.host with cmdpi := some (v % 2 ^ 16) } else s.cmdpiTake (v % 2 ^ 16)

/-- A waiting CMDPI write takes effect once no earlier host write is held. -/
def cmdpiRelease (s : State) : State :=
  match s.host.cmdpi with
  | some v => if s.hostWriteHeld then s else (s.hostPut { s.host with cmdpi := none }).cmdpiTake v
  | none => s

/-! ### PCI Express (R493 to R497) -/

/-- TLPs reach the function. -/
def pcieUp (s : State) : Bool :=
  s.live P.PCIE && s.domRuns 8 && s.flag F.PCIE_STAT_LINK_UP && !(s.flag F.PCIE_STAT_D3HOT)

/-- PCIE_LINK_CHANGE. -/
def pcieLink (s : State) (up : Bool) (speed width : Nat) : State :=
  if !(s.live P.PCIE) ∨ s.flag F.PCIE_STAT_LINK_UP = up then s
  else
    let s1 := ((s.setFlag F.PCIE_STAT_LINK_UP up).setFld F.PCIE_STAT_SPEED (if up then clampNat 1 3 speed else 0)).setFld
      F.PCIE_STAT_WIDTH (if up then clampNat 1 2 width else 0)
    let s2 := s1.irq P.PCIE 1
    if up then s2 else (s2.sticky P.PCIE 9).hostPut { s2.host with waiting := s2.host.waiting.filter (·.spi) }

/-- PCIE_CONFIG_ACCESS: a configuration request of the host. -/
def pcieConfig (s : State) : PcieCfg → State
  | .busMaster on => if s.live P.PCIE && s.flag F.PCIE_STAT_LINK_UP then s.setFlag F.PCIE_STAT_BME on else s
  | .power d3hot => if s.live P.PCIE && s.flag F.PCIE_STAT_LINK_UP then s.setFlag F.PCIE_STAT_D3HOT d3hot else s
  | .msix en mask =>
    if s.live P.PCIE && s.flag F.PCIE_STAT_LINK_UP then
      s.hostPut { s.host with
        msixEn := en, msixMask := mask, vecWait := if en then s.host.vecWait else 0 }
    else s
  | .payload n =>
    if s.live P.PCIE && s.flag F.PCIE_STAT_LINK_UP && (n = 128 || n = 256) then s.hostPut { s.host with mps := n } else s
  | .readRequest n =>
    if s.live P.PCIE && s.flag F.PCIE_STAT_LINK_UP && (n = 128 || n = 256 || n = 512) then s.hostPut { s.host with mrrs := n } else s
  | .aerClear m =>
    if s.live P.PCIE && s.flag F.PCIE_STAT_LINK_UP then
      s.hostPut { s.host with aer := (BitVec.ofNat 32 s.host.aer &&& ~~~(BitVec.ofNat 32 m)).toNat }
    else s

/-- An AER uncorrectable status bit: 15 Completer Abort, 18 malformed TLP (PRESUMED, log entry 83). -/
def aerSet (s : State) (b : Nat) : State := s.hostPut { s.host with aer := setBit s.host.aer b true }

/-- EOI_WRITE. -/
def eoiWrite (s : State) (v : Nat) : State := s.hostPut { s.host with vecWait := setBit s.host.vecWait (v % 32) false }

/-- The parameters of a copy are good, and every local bank is HOST's (R496). -/
def fetchOk (s : State) : Bool :=
  let l := (s.reg R.PCIE_FLADDR).toNat
  let n := s.fld F.PCIE_FLEN_LEN
  l % 4 = 0 && (s.reg R.PCIE_FHADDR0).toNat % 4 = 0 && n % 4 = 0 && n ≠ 0 && n ≤ 2 ^ 20 &&
    (bankOf l).isSome && (bankOf (l + n - 1)).isSome && (banksOf l n).all fun b => s.bankOwner b = Init.HOST

/-- The reads of up to `size` bytes that fetch `n` bytes from host address `a` on. -/
def tlpReads (size : Nat) : Nat → Nat → Nat → List (Nat × Nat)
  | 0, _, _ => []
  | f + 1, a, n => if n = 0 then [] else (a, min size n) :: tlpReads size f (a + min size n) (n - min size n)

/-- The posted writes of up to `size` bytes that store bytes at host address `a`. -/
def tlpWrites (size : Nat) : Nat → Nat → List Byte → List (Nat × List Byte)
  | 0, _, _ => []
  | f + 1, a, l => if l.isEmpty then [] else (a, l.take size) :: tlpWrites size f (a + size) (l.drop size)

/-- A write of PCIE_FCMD: DIR, and GO. -/
def fetchStart (s : State) (w : Nat) : State :=
  let v := BitVec.ofNat 32 w
  let s1 := s.setFld F.PCIE_FCMD_DIR (getBits v 1 1)
  if getBits v 0 1 = 0 ∨ s.host.fetch.isSome ∨ !(s.live P.PCIE) then s1
  else if s1.fetchOk then
    let h := (s.reg R.PCIE_FHADDR0).toNat + (s.reg R.PCIE_FHADDR1).toNat * 2 ^ 32
    let n := s.fld F.PCIE_FLEN_LEN
    ((s1.setFlag F.PCIE_FSTAT_BUSY true).setFld F.PCIE_FSTAT_RESULT 0).hostPut { s1.host with
      fetch := some (getBits v 1 1, (s.reg R.PCIE_FLADDR).toNat, n, h)
      fetchReq := if getBits v 1 1 = 0 then tlpReads s.host.mrrs (n / s.host.mrrs + 1) h n else [] }
  else s1.setFld F.PCIE_FSTAT_RESULT 1

def fetchEnd (s : State) (result : Nat) : State :=
  ((s.setFlag F.PCIE_FSTAT_BUSY false).setFld F.PCIE_FSTAT_RESULT result).hostPut { s.host with fetch := none }

/-- FETCH_DONE: the copy has moved all its bytes; `data` is what host memory held for direction 0. -/
def fetchDone (s : State) (data : List Byte) : State :=
  match s.host.fetch with
  | none => s
  | some (dir, a, n, h) =>
    if !(s.pcieUp) ∨ !(s.flag F.PCIE_STAT_BME) ∨ (dir = 0 ∧ data.length ≠ n) then s
    else if dir = 0 then
      match s.portWrite Init.HOST a data with
      | (s1, true) => (s1.fetchEnd 0).irq P.PCIE 0
      | (s1, false) => s1.fetchEnd 1
    else
      match s.portRead Init.HOST a n with
      | (s1, some l) =>
        ((s1.hostPut { s1.host with fetchOut := tlpWrites s.host.mps (n / s.host.mps + 1) h l }).fetchEnd 0).irq P.PCIE 0
      | (s1, none) => s1.fetchEnd 1

/-- FETCH_TIMEOUT: UR, CA or no completion within 50 ms; `data` had been copied before. -/
def fetchTimeout (s : State) (data : List Byte) : State :=
  match s.host.fetch with
  | none => s
  | some (dir, a, n, _) =>
    let s1 := if dir = 0 then (s.portWrite Init.HOST a (data.take n)).1 else s
    (s1.fetchEnd 2).sticky P.PCIE 10

end State
end Sys2Proof.Machine
end

