-- ==== Sys2Proof/Machine/Reset.lean ====
section
/-! DEFINITION. Device resets (R449, R472, R473) and the restore phase of an exit (R457, R458).
Readings: log entry 58 (DESIGN CHOICE); log entry 61 (DEDUCED). -/

namespace Sys2Proof.Machine
namespace State

/-- Nymvis as its ROM starts it anew: what OTP, PUF and flash hold stays (R428, R430, R443). -/
def nymCold (s : State) : State :=
  s.nymPut { Nym.reset with
    ownerReq := s.nym.ownerReq, jtagFuse := s.nym.jtagFuse, owner := s.nym.owner, puf := s.nym.puf, certKey := s.nym.certKey
    revoked := s.nym.revoked, store := s.nym.store, pairRec := s.nym.pairRec, osnmaRoot := s.nym.osnmaRoot
    osnmaKey := s.nym.osnmaKey }

/-- Registers of pages that a predicate keeps, with their shadows; every other register at its reset value. -/
def keepPages (s : State) (keep : Nat → Bool) : State :=
  { State.reset with
    rf := s.rf.filter fun e => keep (pageOf e.1)
    shV := s.shV.filter fun e => keep (pageOf e.1)
    shM := s.shM.filter fun e => keep (pageOf e.1) }

/-- The device as a reset leaves it: AON, what OTP and flash hold, and retention memory when `ret`; counts since cold start
unless `cold`. What lies outside the device stays (pending commands, balls). -/
def deviceClear (s : State) (cold ret : Bool) : State :=
  let b := s.keepPages fun p => p = P.RTC || p = P.AON
  let s1 : State := { b with
    pending := s.pending
    freeCount := s.freeCount
    resp := s.resp
    rdata := s.rdata
    aon := { s.aon with cv := s.ocxoCv }
    nym := s.nym
    pair := { Pair.reset with peerLow := s.pair.peerLow }
    toc := Toc.reset
    host := { HostIf.reset with ext := s.host.ext, balls := s.host.ext, flash := s.host.flash }
    pmu := { b.pmu with
      retMem := if ret then s.pmu.retMem else [], alertN := s.pmu.alertN } }
  let s2 := (((s1.nymCold.setFld F.NYM_STAT_LCS (s.fld F.NYM_STAT_LCS)).setFld F.NYM_STAT_OWNER_SLOT
    (s.fld F.NYM_STAT_OWNER_SLOT)).setReg R.NYM_SVN (s.reg R.NYM_SVN)).setReg R.PMU_RAILS (s.reg R.PMU_RAILS)
  let s3 := if s.flag F.AON_STAT_BOR then s2.setRegBit R.PMU_RSTCAUSE 1 true else s2
  if cold then s3
  else
    ((s3.setFld F.NYM_TAMPER_COUNT (s.fld F.NYM_TAMPER_COUNT)).setReg R.PMU_RETSTAT (s.reg R.PMU_RETSTAT)).setReg R.TOC_ESCCNT
      (s.reg R.TOC_ESCCNT)

/-- The immediate stage: the OCXO and the antenna feed from a valid retention list (R89, R296, R458), MODE SAFE, and NYC starts in
its ROM (R472). -/
def immediate (s : State) (cause : Nat) : State :=
  let v := s.retValid
  let s1 := if v then (s.setReg R.AUX_DAC (s.retGet 7)).setFld F.AUX_DACCFG_OUT (getBits (s.retGet 8) 0 2) else s
  let s2 := s1.antImmediate (if v then some (getBits (s.retGet 9) 0 8) else none)
  (s2.setFld F.SYS_MODE_CAUSE cause).gpioSafe.nycStart

/-- The marked rails of Table 18-1 in PMU_RAILS; VDD_PROC is not watched from its switching off for DEEP or OFF to the end of
phase WAKE (R449, R457). -/
def railsNeeded (s : State) : Nat :=
  if (s.pmuState = 5 ∧ s.pmuPhase = 5 ∧ 3 ≤ s.pmuTarget)
      ∨ ((s.pmu.power = .deep ∨ s.pmu.power = .off) ∧ !(s.pmuState = 6 ∧ s.pmuPhase = 7)) then 0xD3 else 0xDB

/-- POWER_ON_RESET: the rails stand as `rails` shows (bits of PMU_RAILS). Power-on reset is asserted when a marked rail is
missing, and released when all have qualified. -/
def powerOnReset (s : State) (rails : Nat) : State :=
  let r := rails % 256
  let ok := r &&& s.railsNeeded = s.railsNeeded
  let show_ := fun (t : State) => t.setReg R.PMU_RAILS (BitVec.ofNat 32 (r + (t.reg R.PMU_RAILS).toNat / 256 * 256))
  if ok then
    if s.pmu.porHeld then
      let s1 := show_ (s.pmuPut { s.pmu with porHeld := false, deviceReset := false })
      (s1.setRegBit R.PMU_RSTCAUSE 0 true).immediate 0
    else show_ s
  else
    let s1 := s.deviceClear true false
    show_ ((s1.pmuPut { s1.pmu with porHeld := true, deviceReset := true }).aonPut { s1.aon with powered := true })

/-- RESET_N low for 20 us: the retention list is saved and the device is held in reset. -/
def resetN (s : State) : State :=
  if s.pmu.resetLow ∨ s.pmu.porHeld then s
  else
    let s1 := (s.retSave 3).deviceClear false true
    s1.pmuPut { s1.pmu with resetLow := true, deviceReset := true }

/-- RESET_N rises: the immediate stage. -/
def resetNRelease (s : State) : State :=
  if s.pmu.resetLow then
    let s1 := s.pmuPut { s.pmu with resetLow := false, deviceReset := false }
    (s1.setRegBit R.PMU_RSTCAUSE 2 true).immediate 0
  else s

/-- Warm reset, with its bit of PMU_RSTCAUSE: 3 Tocsin, 4 Nymvis watchdog. -/
def warmReset (s : State) (bit : Nat) : State :=
  (((s.retSave 3).deviceClear false true).setRegBit R.PMU_RSTCAUSE bit true).immediate 9

/-- NYM_WDT_EXPIRY: a second expiry within 1 s (32,768 AON edges) warm-resets the device (R446). -/
def nymExpiry (s : State) : State :=
  let second : Bool := match s.nym.expiryAt with | none => false | some t => decide (s.rawSince t < 32768)
  let s1 : State := { s with nym := { s.nym with expiryAt := some s.aon.raw } }
  if second then (s1.sticky P.NYM 13).warmReset 4 else s1.nymWatchdog

/-! ### The restore phase (R457, step 2 onwards) -/

/-- Every saved entry of the list is written to its register (R458). -/
def retRestore (s : State) : State :=
  let s1 := retRegs.foldl (fun (t : State) e => t.setReg e.2 (t.retGet e.1)) s
  let s2 := ((s1.setFld F.AUX_DACCFG_OUT (getBits (s1.retGet 8) 0 2)).antImmediate (some (getBits (s1.retGet 9) 0 8)))
  let s3 := ((s2.setFld F.SYS_MODE_RESUME (getBits (s2.retGet 6) 0 3)).setFlag F.SYS_MODE_RESUME_V true)
  let s4 := (s3.setFld F.PAIR_STAT_ROLE (getBits (s3.retGet 21) 0 2)).setFld F.PAIR_STAT_ATT (getBits (s3.retGet 22) 0 2)
  let k := getBits (s4.retGet 38) 0 2
  let s5 := (s4.setFld F.PMU_OPP_CUR k).setFld F.PMU_OPP_TARGET k
  let c := s5.fld F.CLK_DIV_CORR
  let a := s5.fld F.CLK_DIV_ACQ
  let s6 := s5.clkPut { s5.clk with divCorr := c, divAcq := a, divNext := none }
  let s7 := if s6.retOwnersV then
      (List.range 96).foldl (fun (t : State) b => t.setReg (R.MEM_OWNER b) (t.retGet (215 + b))) s6 else s6
  if s7.retTbuV then s7.setFlag F.TBU_SLPSTAT_PENDING true else s7

/-- The restore fails: the list is bad or was lost. What it would have restored keeps its reset value; what AON holds stays. -/
def retFailed (s : State) : State :=
  let regs := [R.PMU_PROCV, R.PMU_CFG, R.PMU_OPP, R.PMU_WSHAD0, R.PMU_WSHAD1] ++ (List.range 96).map R.MEM_OWNER
  let s0 := regs.foldl (fun (t : State) a => t.setReg a (resetWord a)) s
  let s1 := ((s0.setFlag F.PMU_RETSTAT_VALID false).setFlag F.PMU_RETSTAT_CRC_BAD true).sticky P.PMU 11
  (((s1.setFlag F.SYS_MODE_RESUME_V false).setFlag F.TBU_SLPSTAT_LOST true).sticky P.TBU 14).antImmediate none

/-- The registers that a power state keeps (Table 18-2): PMU, RTC and AON always; Nymvis, the cores, shared SRAM and Tocsin's
cold-start counts through SLEEP. -/
def sleepKeeps (p : Nat) : Bool :=
  p = P.PMU || p = P.RTC || p = P.AON || p = P.NYM || p = P.MEM || (P.CORE 0 ≤ p && p ≤ P.CORE 11)

/-- The antenna feeds as the high-voltage well holds them through SLEEP and DEEP (R89): the switches, their conditions, the
VANT protection, and blanking. -/
def keepFeeds (old s : State) : State :=
  let s1 : State := { s with rfs := { s.rfs with blank := old.rfs.blank } }
  [R.ANT_STAT, R.ANT_STAT2, R.ANT_VANT].foldl (fun (t : State) a => t.setReg a (old.reg a)) s1

/-- What is left of the device when the block resets release: after SLEEP, after DEEP. -/
def wakeClear (s : State) (sleep : Bool) : State :=
  let b := s.keepPages fun p => if sleep then sleepKeeps p else p = P.PMU || p = P.RTC || p = P.AON
  let s1 : State := { b with
    pending := s.pending
    freeCount := s.freeCount
    resp := s.resp
    rdata := s.rdata
    aon := s.aon
    pmu := s.pmu
    tocPend := s.tocPend
    toc := { Toc.reset with inbox := s.toc.inbox }
    host := { HostIf.reset with
      ext := s.host.ext, balls := s.host.balls, padHeld := s.host.padHeld, flash := s.host.flash
      fw := if sleep then s.host.fw else Fw.reset }
    tbu := { Tbu.reset with snapT := s.tbu.snapT, snapC := s.tbu.snapC, snapRate := s.tbu.snapRate }
    pair := { Pair.reset with peerLow := s.pair.peerLow }
    nym := s.nym
    cores := if sleep then s.cores else State.reset.cores
    mem := if sleep then s.mem else State.reset.mem }
  let s2 := (((keepFeeds s s1).setReg R.TOC_ESCCNT (s.reg R.TOC_ESCCNT)).setReg R.CLK_ROOTSTAT (s.reg R.CLK_ROOTSTAT)).setFlag
    F.CMON_STAT_IRO_READY (s.flag F.CMON_STAT_IRO_READY)
  if sleep then s2
  else
    ((((s2.nymCold.setFld F.NYM_STAT_LCS (s.fld F.NYM_STAT_LCS)).setFld F.NYM_STAT_OWNER_SLOT (s.fld F.NYM_STAT_OWNER_SLOT)).setReg
      R.NYM_SVN (s.reg R.NYM_SVN)).setFld F.NYM_TAMPER_COUNT (s.fld F.NYM_TAMPER_COUNT)).setRegBit R.PMU_RSTCAUSE 6 true

/-- The exit ends: RUN, MODE SAFE with CAUSE 3, every domain of CLK_RUN on IRO, the PLL on its reference, cores started; the
pending request is carried out (R456, R457). -/
def exitEnd (s : State) (sleep : Bool) : State :=
  let s1 := ((s.setReg R.CLK_SRC (resetWord R.CLK_SRC)).setFld F.SYS_MODE_MODE 0).setFld F.SYS_MODE_CAUSE 3
  let s2 := s1.clkPut { s1.clk with pllOn := s1.flag F.CLK_ROOTCFG_EN, switching := [], stopped := [], refWait := none }
  let ref := if s2.fld F.CLK_ROOTCFG_REF = 6 then s2.fld F.CLK_ROOTSTAT_REF else s2.fld F.CLK_ROOTCFG_REF
  let s3 := (s2.setFld F.CLK_ROOTSTAT_REF ref).setFlag F.CLK_ROOTSTAT_LOCK false
  let s4 := s3.padsFree.pmuPut { s3.padsFree.pmu with power := .run, isolated := false, poweredDown := false, snapshot := false }
  let s5 := (((s4.setFld F.PMU_STAT_STATE 0).setFld F.PMU_STAT_PHASE 0).setFld F.PMU_STAT_TARGET 0)
  let s6 := ((if sleep then s5.coresResume else s5.nycStart).irq P.PMU 3).irq P.PMU 0
  let s7 := if s6.flag F.PMU_STAT_PEND_V then
      let t := s6.fld F.PMU_STAT_PEND
      ((s6.setFlag F.PMU_STAT_PEND_V false).setFld F.PMU_STAT_PEND 0).request t
    else s6
  s7.oppNextStart.pairLine.qualUpdate

/-- Bits of the list that retention memory has lost meanwhile, as word and mask; the words of a list stand as they are where there
are none. -/
def retUpset (s : State) : Option (Nat × Nat) → State
  | none => s
  | some (i, m) => if i < 400 then s.retSet i (s.retGet i ^^^ BitVec.ofNat 32 m) else s

/-- EXIT_RESTORE: the list is checked, with the bits `upset` that retention memory has lost, and restored. After OFF the device
makes a cold start. -/
def exitRestore (s : State) (upset : Option (Nat × Nat)) : State :=
  if s.pmuState = 6 ∧ s.pmuPhase = 7 then
    if s.pmu.power = .off then
      let c := s.deviceClear true false
      let s1 := c.setReg R.PMU_STAT 0
      ((((s1.setFld F.PMU_STAT_WAKE_SRC (s.fld F.PMU_STAT_WAKE_SRC)).setRegBit R.PMU_RSTCAUSE 7 true).immediate 0).irq P.PMU 3)
    else
      let sleep := decide (s.pmu.power = .sleep)
      let s1 := (s.wakeClear sleep).retUpset upset
      let s2 := if s1.retValid then s1.retRestore.setFlag F.PMU_RETSTAT_CRC_BAD false else s1.retFailed
      let s3 := if sleep then s2 else s2.engCommand (some (s2.oppVolt (s2.fld F.PMU_OPP_CUR)))
      s3.exitEnd sleep
  else s

end State
end Sys2Proof.Machine
end

