-- ==== Sys2Proof/Machine/Tocsin.lean ====
section
/-! DEFINITION. Tocsin (chapter 21): the log, NMI and its window, escalation, plane reset. -/

namespace Sys2Proof.Machine
namespace State

def tocPut (s : State) (x : Toc) : State := { s with toc := x }

/-- AON edges of `ms` milliseconds: the first edge after the event, then ⌈ms x 32.768⌉ more (R518). -/
def aonDue (s : State) (ms : Nat) : Nat := s.aon.raw + 1 + ceilDiv (ms * 32768) 1000

/-- NMI on MC: the handling window starts (R516 to R518). -/
def nmiRaise (s : State) : State :=
  let s1 := s.setFlag F.TOC_STAT_NMI_ACTIVE true
  s1.tocPut { s1.toc with window := some (s1.aonDue (max 1 (s1.fld F.TOC_CFG_WIN))) }

/-- An escalation begins (Table 21-3, steps 1 and 2; R521 for an entry to a power state in progress). -/
def escalate (s : State) : State :=
  let s1 := (s.setFlag F.TOC_STAT_ESC true).satFld F.TOC_ESCCNT_ESC 1
  let s2 := (s1.hwSafe 2).coreLine 11 5
  let s3 := s2.tocPut { s2.toc with escTimer := some (s2.aonDue (s2.fld F.TOC_CFG_ESCTO)) }
  if s3.beforeIso then s3.entryAbort 4 else s3

/-- One entry formed (R515, Table 21-2): it takes the next SEQ, goes to the log or is lost, and to AON when FATAL. -/
def logEntry (s : State) (b : TocBatch) (e : StickyEvent) (cls : Nat) (nmi esc : Bool) : State :=
  let w2 := e.page / 2 ^ 12 % 2 ^ 12 + e.bit % 32 * 2 ^ 12 + cls * 2 ^ 17 + b2n nmi * 2 ^ 19 + b2n esc * 2 ^ 20
    + b.mode % 8 * 2 ^ 21 + s.toc.seq % 256 * 2 ^ 24
  let ws := [b.w0, b.w1, BitVec.ofNat 32 w2, e.info]
  let s1 := s.tocPut { s.toc with seq := (s.toc.seq + 1) % 256 }
  let s2 := if s1.toc.log.length < 32 then s1.tocPut { s1.toc with log := s1.toc.log ++ [ws] }
    else (s1.satFld F.TOC_OVF_COUNT 1).sticky P.TOC 8
  let s3 := s2.irq P.TOC 0
  if cls = 3 then s3.fatalRecord ws else s3

/-- One transition of a batch, by its class (Table 21-1, R517, R521). `act` tells whether NMI_ACTIVE was 1 before the
batch, `nmi` whether this is the entry that raises NMI. -/
def entryAct (s : State) (b : TocBatch) (e : StickyEvent) (act nmi : Bool) : State :=
  match stickyClass e.page e.bit with
  | 0 => if s.flag F.TOC_CFG_LOG_INFO then s.logEntry b e 0 false false else s
  | 1 => (s.logEntry b e 1 false false).irq P.TOC 1
  | 2 =>
    let s1 := s.logEntry b e 2 nmi false
    if act then s1.setFlag F.TOC_STAT_MISSED true else s1
  | _ =>
    let met := s.flag F.TOC_STAT_ESC
    let s1 := s.logEntry b e 3 nmi (act || met)
    if met then s1.sticky P.TOC 10 else if act then s1.escalate else s1

/-- The entries of one cycle: the first FAULT or FATAL raises NMI when NMI_ACTIVE is 0. -/
def batchRun (b : TocBatch) (act : Bool) : Bool → State → List StickyEvent → State
  | _, s, [] => s
  | raised, s, e :: es =>
    let serious := 2 ≤ stickyClass e.page e.bit
    let nmi := serious && !act && !raised
    let s1 := s.entryAct b e act nmi
    batchRun b act (raised || nmi) (if nmi then s1.nmiRaise else s1) es

/-- FAULT_ENTRY: Tocsin takes the transitions of the oldest cycle. From isolation they wait for the exit (R521). -/
def faultEntry (s : State) : State :=
  match s.toc.inbox with
  | [] => s
  | b :: bs =>
    if s.pmu.isolated then s
    else (batchRun b (s.flag F.TOC_STAT_NMI_ACTIVE) false (s.tocPut { s.toc with inbox := bs }) b.evs).pairLine

/-- TOC_NMIACK: MC writes the key (R516, R517). -/
def nmiAck (s : State) (init w : Nat) : State :=
  if w % 2 ^ 32 = 0xAC4B then
    let s1 := (s.setFlag F.TOC_STAT_NMI_ACTIVE false).tocPut { s.toc with window := none }
    if s1.flag F.TOC_STAT_MISSED then (s1.setFlag F.TOC_STAT_MISSED false).nmiRaise else s1
  else s.stickyAt P.TOC 3 (offOf R.TOC_NMIACK) true init 0

/-- WINDOW_EXPIRY: `n` AON edges bring the handling window to its end (R518). -/
def windowExpiry (s : State) (n : Nat) : State :=
  match s.toc.window with
  | none => s
  | some d =>
    if s.pmu.isolated ∨ s.aon.raw + n < d then s
    else
      let s1 := s.aonRun n
      let s2 := s1.tocPut { s1.toc with window := none }
      if !(s2.flag F.TOC_STAT_NMI_ACTIVE) then s2
      else
        let pend := s2.tocPend
        let s3 := s2.sticky P.TOC 9
        let s4 : State := { s3 with tocPend := pend }
        let t := s4.logTime
        s4.entryAct ⟨t.1, t.2, s4.mode, []⟩ ⟨P.TOC, 9, s4.reg (R.ERR_INFO P.TOC)⟩ true false

/-- The escalation ends. -/
def escEnd (s : State) : State :=
  ((s.setFlag F.TOC_STAT_ESC false).tocPut { s.toc with escTimer := none }).pairLine

/-- A plane reset begins: every page of the data and control planes, but those that KEEP_TIME spares, is reset (R520). -/
def planeStart (s : State) (keep : Bool) : State :=
  let ps := (pageKinds.flatMap fun k => (List.range k.count).map fun n => k.base + 4096 * n).filter fun p =>
    planePage p && !(keep && keepTimePage p)
  let s1 := ps.foldl softEffect s
  (s1.tocPut { s1.toc with planeReset := true, keepTime := keep, escTimer := none }).armAll.qualUpdate

/-- A write of TOC_ESC: RELEASE, PLANE_RESET, or neither (R519, R521). -/
def escWrite (s : State) (init w : Nat) : State :=
  let v := BitVec.ofNat 32 w
  let a := getBits v 0 2
  if !(s.flag F.TOC_STAT_ESC) ∨ a = 0 ∨ a = 3 then s.stickyAt P.TOC 3 (offOf R.TOC_ESC) true init 0
  else if a = 1 then s.escEnd
  else s.planeStart (getBits v 2 1 = 1)

/-- PLANE_DONE. -/
def planeDone (s : State) : State :=
  if s.toc.planeReset then
    let s1 := (s.tocPut { s.toc with planeReset := false, keepTime := false }).irq P.TOC 2
    ((s1.satFld F.TOC_ESCCNT_PLANE 1).setRegBit R.PMU_RSTCAUSE 5 true).escEnd
  else s

/-- ESCALATION_TIMEOUT: `n` AON edges bring the escalation timer to its end; the device warm-resets. -/
def escTimeout (s : State) (n : Nat) : State :=
  match s.toc.escTimer with
  | none => s
  | some d => if s.aon.raw + n < d then s else (s.aonRun n).warmReset 3

/-- TOC_LOGPOP. -/
def logPop (s : State) (w : Nat) : State := if w % 2 = 1 then s.tocPut { s.toc with log := s.toc.log.drop 1 } else s

/-- Word `k` of the oldest log entry. -/
def logWord (s : State) (k : Nat) : Word := (s.toc.log.headD []).getD k 0

end State
end Sys2Proof.Machine
end

