-- ==== Sys2Proof/Machine/Bus.lean ====
section
/-! DEFINITION. Register space as an initiator meets it: what a read of a register shows and does, and what a write of any
register does (R39 to R62). A write of a register that has a command of its own acts as that command does.
Readings: log entries 6, 7 (DEDUCED); log entry 13 (DESIGN CHOICE). -/

namespace Sys2Proof.Machine
namespace State

/-! ### Reads -/

/-- The status byte of Table 20-2. -/
def spiStatus (s : State) : Nat :=
  b2n (!s.beforeMc) + b2n s.host.spiErr * 2 + b2n s.host.spiCrc * 4 + b2n s.irqPinLow * 8 + 0xA0

/-- PAGE_STAT as it reads: BUSY, COMMIT_PENDING and LOCKED follow the block, the shadows and PAGE_LOCK. -/
def pageStatWord (s : State) (p : Nat) : Word :=
  BitVec.ofNat 32 (b2n (s.running p) + b2n (s.pageBusy p) * 2 + b2n (s.commitPending p) * 4 + b2n (s.inReset p) * 8
    + b2n (s.flag (F.LOCK_LOCK p)) * 16)

/-- The common header as it reads (R44, R54). -/
def headerWord (s : State) (p o : Nat) : Word :=
  if o = 0x00C then s.pageStatWord p
  else if o = 0x010 then s.irqRaw p
  else if o = 0x018 then s.irqStat p
  else if o = 0x024 then 0
  else s.reg (p + o)

/-- A register of a core page as it reads. -/
def coreWord (s : State) (c a : Nat) : Word :=
  let k := s.coreGet c
  let st : Nat := match k.run with | .held => 0 | .running => 1 | .wait => 2 | .halted => 3
  if a = R.CORE_STAT c then
    BitVec.ofNat 32 (st + b2n k.nmiAct * 4 + b2n k.excAct * 8 + k.ecause % 16 * 16 + k.wbdrop % 256 * 256)
  else if a = R.CORE_PC c then BitVec.ofNat 32 (k.lastPc % 2 ^ 17)
  else if a = R.CORE_EADDR c then BitVec.ofNat 32 k.eaddr
  else if a = R.CORE_IPEND c then BitVec.ofNat 32 (s.coreIpend c)
  else if a = R.CORE_CYCLE c then BitVec.ofNat 32 k.cycle
  else if a = R.CORE_RETIRED c then BitVec.ofNat 32 k.retired
  else s.written a

/-- Channels of the DMA engine in a state that a predicate selects, one bit each. -/
def dmaMask (s : State) (q : Nat → Bool) : Word :=
  BitVec.ofNat 32 (((List.range 32).map fun n => b2n (q (s.chanState n)) * 2 ^ n).sum)

/-- A register of the always-on pages as it reads: the counters themselves, low words; the rest as stored. -/
def aonWord (s : State) (a : Nat) : Word :=
  if a = R.RTC_CNT0 then BitVec.ofNat 32 s.aon.sec
  else if a = R.RTC_CAL0 then
    BitVec.ofNat 32 (s.aon.cal.getD 0 0 + s.aon.cal.getD 1 0 * 2 ^ 8 + s.aon.cal.getD 2 0 * 2 ^ 16
      + s.aon.cal.getD 3 0 * 2 ^ 24)
  else if a = R.AON_RAW0 then BitVec.ofNat 32 s.aon.raw
  else s.written a

/-- A block-specific register as it reads, before what the read does. -/
def blockWord (s : State) (a : Nat) : Word :=
  let p := pageOf a
  let o := offOf a
  let n := instOf p
  if P.CORE 0 ≤ p ∧ p ≤ P.CORE 11 then s.coreWord n a
  else if p = P.RTC ∨ p = P.AON then s.aonWord a
  else if P.RFE 0 ≤ p ∧ p ≤ P.RFE 15 then (if a = R.RFE_STAT n then s.rfeStatWord n else s.written a)
  else if p = P.TIO then
    if a = R.TIO_STAT then s.tioStatWord
    else if 0x100 ≤ o ∧ o < 0x180 ∧ 4 ≤ o % 32 then s.evWord ((o - 0x100) / 32) (o % 32 / 4 - 1)
    else s.written a
  else if p = P.ACQ then
    if a = R.ACQ_QSTAT then s.acqQstatWord
    else if a = R.ACQ_CELLSLO then BitVec.ofNat 32 s.acq.cells
    else s.written a
  else if p = P.DMA then
    if a = R.DMA_ACTIVE then s.dmaMask fun st => st ≠ 0
    else if a = R.DMA_HALTED then s.dmaMask fun st => st = 6
    else if a = R.DMA_PAUSED then s.dmaMask fun st => st = 5
    else s.written a
  else if p = P.TOC then
    if a = R.TOC_STAT then s.tocStatWord
    else if R.TOC_LOG 0 ≤ a ∧ a ≤ R.TOC_LOG 3 then s.logWord ((a - R.TOC_LOG 0) / 4)
    else s.written a
  else if p = P.PTP then
    if R.PTP_RXDESC0 ≤ a ∧ a ≤ R.PTP_RXDESC4 then s.rxDescWord ((a - R.PTP_RXDESC0) / 4)
    else if a = R.PTP_RXDATA then s.rxData.2
    else if a = R.PTP_RXSTAT then putBits (s.reg a) 0 11 s.ptp.rx.length
    else s.written a
  else if p = P.UART then
    if a = R.UART_DATA 0 ∨ a = R.UART_DATA 1 then (s.uartPop ((o - 0x44) / 16)).2
    else if a = R.UART_STAT 0 ∨ a = R.UART_STAT 1 then s.uartStatWord ((o - 0x48) / 16)
    else if a = R.QSPI_DATA then s.qspiPop.2
    else s.written a
  else if a = R.TBU_NOW0 then s.tbuNow.reg a
  else if a = R.COR_BUDGET then BitVec.ofNat 32 s.corBudget
  else if a = R.CHS2_EVICT then s.evictWord
  else if a = R.PMU_RETDATA then (s.retData none).2
  else if a = R.CMON_STAT then s.cmonStatWord
  else if a = R.GPIO_IN then BitVec.ofNat 32 s.gpioLevel
  else if a = R.SPIT_STAT then BitVec.ofNat 32 s.spiStatus
  else if a = R.PCIE_PBA 0 then BitVec.ofNat 32 s.host.pba
  else s.written a

/-- What a read of the register at `a` returns (R40, R41): 0 where nothing is described and for WO fields. -/
def readWord (s : State) (a : Nat) : Word :=
  if !(mapped a) then 0
  else if offOf a < 0x040 then s.headerWord (pageOf a) (offOf a)
  else
    match fieldsAt a with
    | none => 0
    | some fs => s.blockWord a &&& ~~~(fieldMask (fun f => f.acc = .wo) fs)

/-- What a read of the register at `a` does beside returning its value: RC fields clear (R41, R42), FIFOs pop, and the
first word of a long value latches the others (R14, R282). -/
def readEffect (s : State) (a : Nat) : State :=
  if a = R.TBU_NOW0 then s.tbuNow
  else if a = R.RTC_CNT0 then
    (s.setReg R.RTC_CNT1 (BitVec.ofNat 32 (s.aon.sec / 2 ^ 32 % 2 ^ 16))).setReg R.RTC_SUB (BitVec.ofNat 32 s.aon.sub)
  else if a = R.RTC_CAL0 then
    s.setReg R.RTC_CAL1 (BitVec.ofNat 32 (s.aon.cal.getD 4 0 + s.aon.cal.getD 5 0 * 2 ^ 8))
  else if a = R.AON_RAW0 then s.setReg R.AON_RAW1 (BitVec.ofNat 32 (s.aon.raw / 2 ^ 32 % 2 ^ 16))
  else if a = R.ACQ_CELLSLO then s.setReg R.ACQ_CELLSHI (BitVec.ofNat 32 (s.acq.cells / 2 ^ 32))
  else if a = R.UART_DATA 0 then (s.uartPop 0).1
  else if a = R.UART_DATA 1 then (s.uartPop 1).1
  else if a = R.QSPI_DATA then s.qspiPop.1
  else if a = R.PTP_RXDATA then s.rxData.1
  else if a = R.PMU_RETDATA then (s.retData none).1
  else if a = R.CHS2_EVICT then s.evictPop
  else
    match fieldsAt a with
    | none => s
    | some fs =>
      let m := fieldMask (fun f => f.acc = .rc) fs
      if m = 0 then s else s.setReg a (s.reg a &&& ~~~m)

/-- A read of `width` bytes at register address `a` (R62, R58, R39, R48, R40): `rdata` takes the value where the read is
served, and 0 from a gated page. -/
def busRead (s : State) (init a width : Nat) : State :=
  if !(regSpace init) then s.respond .decode
  else
    match s.accessCheck a width with
    | .served =>
      let v := s.readWord a
      { (s.readEffect a).respond .served with rdata := v }
    | .align => (s.respond .align).stickyAt (pageOf a) 4 (offOf a) false init 0
    | .none => { s.respond .served with rdata := 0 }
    | r => s.respond r

/-! ### Writes -/

/-- PAIR's RUNNING is 1 while the lanes are enabled: the page runs and PAIR_CFG.EN is 1 (R331). -/
def pairShow (s : State) : State :=
  s.setFlag (F.STAT_RUNNING P.PAIR) (s.enabled P.PAIR && s.flag F.PAIR_CFG_EN)

/-- A write of PAGE_CTRL (R45, R47, R49, R53, R56): SHADOW_HOLD, LD_RTC on TBU, SOFT_RESET and ENABLE. -/
def ctrlWrite (s : State) (init p : Nat) (v : Word) : State :=
  if s.flag (F.LOCK_LOCK p) then s.stickyAt p 1 0x008 true init 0
  else if p = P.CORE 11 then s
  else
    let s1 := s.setFlag (F.CTRL_SHADOW_HOLD p) (getBits v 2 1 = 1)
    let s2 := if p = P.TBU then s1.setRegBit (R.PAGE_CTRL p) 4 (getBits v 4 1 = 1) else s1
    let s3 := if getBits v 1 1 = 1 ∧ !(ctrlFixed p) then s2.softReset p else s2.blockEnable p (getBits v 0 1 = 1)
    if p = P.PAIR then s3.pairShow else s3

/-- A write of PAGE_LOCK (R56, R57): 0 from an initiator other than NYM sets LOCKED_WRITE, on an unlocked page too. -/
def lockWrite (s : State) (init p : Nat) (v : Word) : State :=
  if getBits v 0 1 = 1 then
    if s.flag (F.LOCK_LOCK p) then s else s.setReg (R.PAGE_LOCK p) (BitVec.ofNat 32 (1 + init % 32 * 256))
  else if init = Init.NYM then s.setReg (R.PAGE_LOCK p) 0
  else s.stickyAt p 1 0x028 true init 0

/-- The transfer of a page whose commit point is PAGE_COMMIT, with what its blocks do on it (R52, R54). -/
def pageTransfer (s : State) (p : Nat) : State :=
  let t := s.transfer fun a => pageOf a = p
  let n := instOf p
  if p = P.CLK then (if s.shadowMask R.CLK_ROOTCFG = 0 then t else t.rootCommit (s.reg R.CLK_ROOTCFG))
  else if p = P.CMON then t.cmonCommit
  else if P.RFE 0 ≤ p ∧ p ≤ P.RFE 15 then t.pathApply n
  else if p = P.SYN 0 ∨ p = P.SYN 1 then (if s.shadowMask (R.SYN_FREQ n) = 0 then t else t.synRetune n)
  else if p = P.ANT then (List.range 8).foldl (fun (u : State) e => s.antIlimRaised u e) t
  else if P.ETH 0 ≤ p ∧ p ≤ P.ETH 3 then (t.rclkShow n).rclkWatch
  else if p = P.AUX then t.adcShow
  else t

/-- A write of PAGE_COMMIT (R54). On RTC and AON the transfer is applied at the next AON edge (Table 2-5). -/
def commitWrite (s : State) (init p : Nat) (v : Word) : State :=
  if v ≠ 0xC0DE0001 then s.stickyAt p 2 0x024 true init 0
  else
    match kindOf p with
    | none => s
    | some (k, _) =>
      match k.commit with
      | .commit => s.pageTransfer p
      | .commitAon => s.aonPut (if p = P.AON then { s.aon with commitAon := true } else { s.aon with commit := true })
      | _ => s

/-- A write of a common register. -/
def headerWrite (s : State) (init a : Nat) (v : Word) : State :=
  let p := pageOf a
  let o := offOf a
  if o = 0x008 then s.ctrlWrite init p v
  else if o = 0x010 then s.setReg a (s.reg a &&& ~~~v)
  else if o = 0x014 then s.setReg a v
  else if o = 0x01C then (s.clearSticky p v.toNat).pairLine
  else if o = 0x024 then s.commitWrite init p v
  else if o = 0x028 then s.lockWrite init p v
  else s

/-- The service that a write of NYM_CMD asks for (Table 17-2). The rule gives the codes; where it does not place an input,
ARG and NYM_DATA hold it as log entry 33 says. -/
def nymOpOf (s : State) (ch : Nat) (w : Word) : NymOp :=
  let arg := getBits w 8 8
  let d := fun o n => ((s.dataBytes ch 16).drop o).take n
  match getBits w 0 8 with
  | 0x01 => .getInfo
  | 0x02 => .selfTest
  | 0x03 => .coNonce
  | 0x04 => if arg < 128 then .authUser arg else .authEnd
  | 0x05 => .getCartouche
  | 0x10 => .hash
  | 0x11 => .hmac
  | 0x12 => .cmac
  | 0x13 => .gcm (128 ≤ arg) (arg % 128) (d 0 12) (d 12 16)
  | 0x14 => .verify
  | 0x15 => .random arg
  | 0x20 => .quote
  | 0x30 => .loadImage (arg % 2 = 1)
  | 0x31 => .advanceSvn arg
  | 0x32 => .osnmaKroot
  | 0x40 => .co none
  | 0x7F => .zeroiseSession
  | _ => .unknown

/-- Commands that a write gives the management-plane blocks; `none` where the register only holds fields. -/
def mgmtCommand (s : State) (init a : Nat) (v : Word) : Option State :=
  let w := v.toNat
  if a = R.PMU_REQ then
    if 5 ≤ getBits v 0 3 then some (s.powerRequest init (getBits v 0 3))
    else
      let s1 := if getBits v 31 1 = 1 then s.powerRequest init (getBits v 0 3) else s
      some (if getBits v 8 1 = 1 then s1.retCommand else s1)
  else if a = R.PMU_OPP then
    some ((s.setReg a (s.reg a &&& ~~~(v &&& 0x100))).oppChange init (getBits v 0 2))
  else if a = R.PMU_PROCV then some (s.procvWrite w)
  else if a = R.PMU_RETDATA then some (s.retData (some w)).1
  else if a = R.CLK_RUN then some (s.runWrite init w)
  else if a = R.CLK_SRC then some (s.srcWrite init w)
  else if a = R.CLK_DIV then some (s.divWrite init w)
  else if a = R.CLK_GATE0 then some (s.gateWrite init 0 w)
  else if a = R.CLK_GATE1 then some (s.gateWrite init 1 w)
  else if a = R.RTC_CTL then some (if w % 2 = 1 then s.aonPut { s.aon with setTbu := true } else s)
  else if a = R.RTC_FIRSTSW1 then some (if 2 ^ 31 ≤ w then s.firstSwClear else s)
  else if a = R.AON_FATCTL then some (if w % 2 = 1 then s.fatalClear else s)
  else if a = R.TOC_NMIACK then some (s.nmiAck init w)
  else if a = R.TOC_ESC then some (s.escWrite init w)
  else if a = R.TOC_LOGPOP then some (s.logPop w)
  else if a = R.NYM_CMD 0 then some (s.nymStart init 0 (s.nymOpOf 0 v))
  else if a = R.NYM_CMD 1 then some (s.nymStart init 1 (s.nymOpOf 1 v))
  else none

/-- Commands that a write gives the RF, signal-processing and acquisition blocks. -/
def dataCommand (s : State) (init a : Nat) (v : Word) : Option State :=
  let w := v.toNat
  let p := pageOf a
  let n := instOf p
  if p = P.SYN 0 ∨ p = P.SYN 1 then
    if a = R.SYN_CTRL n then some (if w % 2 = 1 then s.synCal n init else s) else none
  else if a = R.CAL_CMD then
    some (if getBits v 1 1 = 1 then s.calStop else if getBits v 0 1 = 1 then s.calGo init else s)
  else if a = R.ANT_REARM then some (s.antRearm (w % 256))
  else if a = R.ANT_EN then some (s.setFld F.ANT_EN_PATTERN w).antApply
  else if P.DFE 0 ≤ p ∧ p ≤ P.DFE 15 then
    if a = R.DFE_CAPCMD n then
      some (if getBits v 1 1 = 1 then s.capStop n else if getBits v 0 1 = 1 then s.capArm n init else s)
    else none
  else if a = R.ACQ_JOBPUSH then some (s.acqPush init w)
  else if a = R.CHS_VCCMD then some (s.vcCmdWord init w)
  else if R.CHS_CMPL_CTL 0 ≤ a ∧ a ≤ R.CHS_CMPL_CTL 7 ∧ a % 16 = 8 then
    some (s.cmplWrite init ((a - R.CHS_CMPL_CTL 0) / 16) w)
  else none

/-- Commands that a write gives the time, network, memory and core blocks. -/
def timeCommand (s : State) (init a : Nat) (v : Word) : Option State :=
  let w := v.toNat
  let p := pageOf a
  let o := offOf a
  if a = R.PTP_SESSCMD then some (s.sessCmdWord init w)
  else if a = R.PTP_TXDATA then some (s.txPush w)
  else if a = R.PTP_TXCMD then some (if w % 2 = 1 then s.txGo else s)
  else if a = R.PTP_RXPOP then some (if w % 2 = 1 then s.rxPop else s)
  else if a = R.AUX_DACNEXT then some (s.dacTarget w)
  else if a = R.PAIR_CMD then some (s.pairCmd init (w % 8))
  else if a = R.PAIR_MTXDATA then some (s.mtxPush w)
  else if a = R.PAIR_MTXCMD then some (if w % 2 = 1 then s.mirrorSend else s)
  else if p = P.DMAC ∧ o % 0x80 = 0x40 then some (s.chanCtrl (o / 0x80) w)
  else if p = P.MEM ∧ 0x40 ≤ o ∧ o < 0x1C0 then some (s.memOwnerWrite init ((o - 0x40) / 4) w)
  else if P.CORE 0 ≤ p ∧ p ≤ P.CORE 11 ∧ o = 0x50 then
    some (if w % 2 = 1 then s.coreLine (instOf p) 5 else s)
  else none

/-- Commands that a write gives the host interfaces. -/
def hostCommand (s : State) (a : Nat) (v : Word) : Option State :=
  let w := v.toNat
  if a = R.PCIE_EOI then some (s.eoiWrite (w % 32))
  else if a = R.PCIE_FCMD then some (s.fetchStart w)
  else if a = R.UART_DATA 0 then some (s.uartPush 0 w)
  else if a = R.UART_DATA 1 then some (s.uartPush 1 w)
  else if a = R.QSPI_CMD then some (s.qspiCommand w)
  else if a = R.QSPI_DATA then some (s.qspiPush w)
  else if a = R.MDIO_CMD then some (s.mdioCommand w)
  else if a = R.GPIO_SET then some (s.gpioSet w)
  else if a = R.GPIO_CLR then some (s.gpioClr w)
  else if a = R.MBX_CMDPI then some (s.cmdpiWrite w)
  else none

/-- A direct change of fields on a stopped array page: whether a Graticule field was among them (R152). -/
def gratField (a : Nat) : Bool :=
  let o := offOf a
  o = 0x040 || o = 0x048 || (0x060 ≤ o && o < 0x0A0)

/-- What follows a write that took effect at once, where a block acts on its fields (R51): `old` is the state before. -/
def directApply (old s : State) (a : Nat) : State :=
  let p := pageOf a
  let o := offOf a
  let n := instOf p
  if P.RFE 0 ≤ p ∧ p ≤ P.RFE 15 then s.pathApply n
  else if p = P.SYN 0 ∨ p = P.SYN 1 then s.synRetune n
  else if p = P.ANT then (List.range 8).foldl (fun (u : State) e => old.antIlimRaised u e) s
  else if P.DFE 0 ≤ p ∧ p ≤ P.DFE 15 then
    let k := (o - 0x060) / 8
    let t := if 0x060 ≤ o ∧ o < 0x0A0 then s.notchCommit n k (old.notchMode n k) (o % 8 = 0) (o % 8 = 4) false else s
    t.notchShow (n % 2)
  else if p = P.ARR 0 ∨ p = P.ARR 1 then s.arrApply n (gratField a)
  else if p = P.XBAR then
    let t := streamChanges old s.xbarCheck
    if (List.range 64).all fun j => old.streamRate j = t.streamRate j then t else t.ratesChanged
  else if p = P.TBU then tbuDirect old s a
  else if p = P.AUX then s.adcShow
  else if p = P.DRL ∧ 0x040 ≤ o ∧ o < 0x240 ∧ o % 16 ≠ 12 then trigWritten old s ((o - 0x40) / 16)
  else if p = P.PAIR then s.pairShow
  else if P.ETH 0 ≤ p ∧ p ≤ P.ETH 3 ∧ a = R.ETH_CFG n then s.ethCfgFix n (old.fld (F.ETH_CFG_RATE n))
  else if P.ETH 0 ≤ p ∧ p ≤ P.ETH 3 then (s.rclkShow n).rclkWatch
  else s

/-- A write of a register that holds fields, and what goes with it. -/
def fieldWrite (s : State) (init a : Nat) (fs : List FieldRow) (v : Word) : State :=
  -- IDLEMASK bits 5, 8 and 9 (TIME, PCIE, PERI) are ignored and read 0 (R452)
  let v := if a = R.PMU_CFG then v &&& ~~~(0x320#32) else v
  let t := s.writeFields init a fs v
  let t := if s.shadowDirect a && !(s.flag (F.LOCK_LOCK (pageOf a))) then directApply s t a else t
  if a = R.SYS_MODECMD then
    if getBits v 31 1 = 1 then t.modeCommand (getBits v 0 3) else t
  else if pageOf a = P.TIO ∧ 0x110 ≤ offOf a ∧ offOf a % 32 = 0x10 ∧ getBits v 31 1 = 1 then
    t.evPop ((offOf a - 0x100) / 32)
  else if pageOf a = P.GPIO then t.gpioShow
  else if P.CORE 0 ≤ pageOf a ∧ pageOf a ≤ P.CORE 11 ∧ a = R.CORE_WDT (instOf (pageOf a)) then
    t.wdtStart (instOf (pageOf a)) (s.fld (F.CORE_WDT_PERIOD (instOf (pageOf a))))
  else t

/-- The effect of an accepted word write at register address `a`. -/
def regAct (s : State) (init a : Nat) (v : Word) : State :=
  if offOf a < 0x040 then s.headerWrite init a v
  else
    match ((s.mgmtCommand init a v <|> s.dataCommand init a v) <|> s.timeCommand init a v) <|> s.hostCommand a v with
    | some t => t
    | none =>
      match fieldsAt a with
      | none => s
      | some fs => s.fieldWrite init a fs v

/-- A write of `width` bytes of `v` at register address `a` by an initiator. -/
def busWrite (s : State) (init a width : Nat) (v : Word) : State :=
  s.viaWidth init a width fun t => t.regAct init a v

end State
end Sys2Proof.Machine
end

