-- ==== Sys2Proof/Machine/FarAccess.lean ====
section
/-! DEFINITION. Accesses that leave an initiator for the address space of Table 2-6: shared SRAM, register space, the windows
onto core memories (R374) and the Nymvis ROM; and how a core's far loads and stores end (R355, R356, R371).
Readings: log entry 50 (DEDUCED). -/

namespace Sys2Proof.Machine
namespace State

/-- The core and local place of a window address (Table 2-6), for the initiators that have the windows: MC, and DBG while debug is open
(R433). -/
def windowOf (s : State) (init a : Nat) : Option (Nat × LocalMem × Nat) :=
  if (init = Init.MC ∨ (init = Init.DBG ∧ s.debugOpen)) ∧ 0x11000000 ≤ a ∧ a < 0x11000000 + 0x40000 * 11 then
    match localOf (0x10000000 + (a - 0x11000000) % 0x40000) with
    | some (m, off) => some ((a - 0x11000000) / 0x40000, m, off)
    | none => none
  else none

/-- The access waits at its bank for a handover (R399). -/
def farWaits (s : State) (init a size : Nat) (write : Bool) : Bool :=
  s.bankHolds ⟨init, write, a, size, 0⟩

/-- A read of `size` bytes at `a` through a window. -/
def windowRead (s : State) (c : Nat) (m : LocalMem) (off size : Nat) : State × Resp × Nat :=
  if s.held (P.CORE c) then (s, .targetReset, 0)
  else
    match (s.coreGet c).readLocal m off size with
    | .error e => if e.code = 2 then (s, .align, 0) else (s.sticky (P.CORE c) 10, .ecc, 0)
    | .ok (v, k) => (s.corePut c k, .served, v)

/-- A write of `size` bytes at `a` through a window: refused while the core is not held (R374). MC's into I memory unmakes the core's
measurement (R438). -/
def windowWrite (s : State) (init c : Nat) (m : LocalMem) (off size v : Nat) : State × Resp :=
  if s.held (P.CORE c) then (s, .targetReset)
  else if (s.coreGet c).run ≠ .held then (s.stickyAt (P.CORE c) 12 0 true init 0, .own)
  else if off % size ≠ 0 then (s, .align)
  else
    let t := s.coreSet c ((s.coreGet c).putLocal m off size v)
    (if init = Init.MC ∧ m = .i then t.unmeasure c else t, .served)

/-- A read by an initiator anywhere in its address space (R62): how it ends and its data. -/
def farRead (s : State) (init a size : Nat) : State × Resp × Nat :=
  if (bankOf a).isSome then s.bankAccess ⟨init, false, a, size, 0⟩
  else if Core.regSpaceAddr a then
    let t := s.busRead init a size
    (t, t.resp, t.rdata.toNat)
  else
    match s.windowOf init a with
    | some (c, m, off) => s.windowRead c m off size
    | none =>
      if init = Init.NYM ∧ a + size ≤ 0x10000 then
        if a % size = 0 then (s, .served, leValue ((List.range size).map fun i => Config.nymRom (a + i))) else (s, .align, 0)
      else (s, .decode, 0)

/-- A write by an initiator anywhere in its address space (R62). -/
def farWrite (s : State) (init a size v : Nat) : State × Resp :=
  if (bankOf a).isSome then
    let r := s.bankAccess ⟨init, true, a, size, v⟩
    (r.1, r.2.1)
  else if Core.regSpaceAddr a then
    let t := s.busWrite init a size (BitVec.ofNat 32 v)
    (t, t.resp)
  else
    match s.windowOf init a with
    | some (c, m, off) => s.windowWrite init c m off size v
    | none => (s, .decode)

/-- A store of a core reaches its target with none of its other stores counted as under way: the ones before it have completed,
and a handover that it asks for does not wait for the ones after it (R356, R399). The answer tells whether it asked for one. -/
def coreSend (s : State) (c : Nat) (r : StoreReq) : State × Resp × Bool :=
  let k := s.coreGet c
  let (t, resp) := (s.coreSet c { k with wbuf := [], flight := [], old := [] }).farWrite (c + 1) r.addr r.size r.value
  (t.coreSet c { t.coreGet c with wbuf := k.wbuf, flight := k.flight, old := k.old }, resp,
    decide (s.mem.hand.length < t.mem.hand.length))

/-- A core performs its oldest store; the response of a handover write comes at step 5 of R399. -/
def corePerform (s : State) (c : Nat) (r : StoreReq) : State × Resp :=
  let (t, resp, asks) := s.coreSend c r
  let k := t.coreGet c
  (t.coreSet c { k with flight := k.flight.drop 1, hand := k.hand + b2n asks }, resp)

/-- A store issued before the core was last held completes at its target; its reply is discarded and counted, and never reaches
the core's new state (R373, R523). -/
def oldPerform (s : State) (c : Nat) (r : StoreReq) : State :=
  let (t, _, asks) := s.coreSend c r
  let k := t.coreGet c
  let t1 := t.coreSet c { k with old := k.old.drop 1, oldHand := k.oldHand + b2n asks }
  if asks then t1 else t1.nocDiscard

/-- STORE_COMPLETE: the oldest issued store of core `c` reaches its target and the response returns; an error response waits
as ST_ERR. Handovers that waited for the core's stores may begin. -/
def storeComplete (s : State) (c : Nat) : State :=
  match (s.coreGet c).old, (s.coreGet c).flight with
  | [], [] => s
  | r :: _, _ => if 12 ≤ c ∨ s.farWaits (c + 1) r.addr r.size true then s else (s.oldPerform c r).handStart
  | [], r :: _ =>
    if 12 ≤ c ∨ s.farWaits (c + 1) r.addr r.size true then s
    else
      let (t, resp) := s.corePerform c r
      let k := t.coreGet c
      let t1 := if resp = .served ∨ k.run = .held then t else t.coreSet c { k with stErr := k.stErr ++ [r.addr] }
      t1.handStart

/-- STORE_ERROR: an error response of a far store arrives and ST_ERR is raised at the boundary (R371). -/
def storeError (s : State) (c : Nat) : State :=
  let k := s.coreGet c
  let s1 :=
    match k.stErr, k.old ++ k.flight with
    | [], r :: _ =>
      if (s.coreSend c r).2.1 = Resp.served then s else s.storeComplete c
    | _, _ => s
  s1.coreStErr c

/-- The reply of a load that was cancelled when the core was held arrives: it is discarded and counted (R523). -/
def lostResponse (s : State) (c : Nat) : State :=
  match (s.coreGet c).lost with
  | [] => s
  | r :: _ =>
    if 12 ≤ c ∨ s.farWaits (c + 1) r.addr r.size false then s
    else
      let t := (s.farRead (c + 1) r.addr r.size).1
      let u := t.coreSet c { t.coreGet c with lost := (t.coreGet c).lost.drop 1 }
      ({ u with resp := s.resp, rdata := s.rdata } : State).nocDiscard

/-- FAR_LOAD_RESPONSE: the load that core `c` waits for is answered after `n` core cycles; an error raises BUS. While it waits for
none, a load cancelled by a reset is answered. -/
def loadResponse (s : State) (c n : Nat) : State :=
  let k := s.coreGet c
  match k.load with
  | none => s.lostResponse c
  | some r =>
    if 12 ≤ c ∨ s.farWaits (c + 1) r.addr r.size false then s
    else
      let (t, resp, v) := s.farRead (c + 1) r.addr r.size
      let k1 := { t.coreGet c with load := none }
      if resp ≠ .served then
        -- an NMI goes before the exception (R368); the load has changed nothing, and executes again after the NMI
        let t1 := t.coreSet c k1
        if c = mcCore ∧ t1.nmiPending c ∧ !k1.heldOff then t1.coreNmi else t1.coreRaise c ⟨10, some r.addr⟩
      else
        match k1.fetch k1.pc with
        | .error _ => t.coreSet c k1
        | .ok (o, len, k2) =>
          let w : Word := if r.signExt then wOf (signed (8 * r.size) v) else BitVec.ofNat 32 v
          match (k2.pop >>= fun x => x.2.push w) with
          | .error e => (t.coreSet c k2).coreRaise c e
          | .ok k3 =>
            let k4 := Core.complete k2 k3 o len .next
            t.corePut c { k4 with cycle := k4.cycle + n }

/-- WINDOW_WRITE: MC or DBG writes a core memory; MC's refused write raises ST_ERR (R374). -/
def windowCommand (s : State) (init a size v : Nat) : State :=
  match s.windowOf init a with
  | none => s.respond .decode
  | some (c, m, off) =>
    if size ≠ 1 ∧ size ≠ 2 ∧ size ≠ 4 then s
    else
      let (t, r) := s.windowWrite init c m off size (v % 2 ^ (8 * size))
      let t1 := t.respond r
      let k := t1.coreGet mcCore
      if init = Init.MC ∧ r ≠ .served then (t1.coreSet mcCore { k with stErr := k.stErr ++ [a] }) else t1

/-- DOORBELL_RING: it drains the writer's buffer, so it follows every earlier store of a core (R356). -/
def doorbell (s : State) (init c : Nat) : State :=
  if s.storesOpen init then s else s.via init (R.CORE_DOORBELL c) fun t => t.coreLine c 5

end State
end Sys2Proof.Machine
end

