-- ==== Sys2Proof/Machine/Dma.lean ====
section
/-! DEFINITION. The DMA engine at work: its accesses, the descriptor fetch (R407), bursts element by element (R408 to R410),
pauses, errors and retries (R413 to R416) and the completion sequence (R417). Data moves at the event that ends a burst, a
pause or an error (DEDUCED, log entry 40).
Readings: log entry 49 (DEDUCED). -/

namespace Sys2Proof.Machine

/-- How an access of the DMA engine ends: held by its bank under R399, done with its data, or failed with a code of Table
16-4. -/
inductive DmaRes where
  | held
  | ok (v : Nat)
  | bad (code : Nat)
deriving DecidableEq, Repr

/-- Direction and address of the next access of the element in work. -/
def DmaChan.nextAccess (c : DmaChan) : Bool × Nat :=
  if c.got.length < c.size then (false, (c.src + c.got.length) % 2 ^ 32) else (true, (c.dst + c.put) % 2 ^ 32)

namespace State

/-- One access of the DMA engine: shared SRAM on port D, register space as initiator 0x17, nothing else (R405). -/
def dmaAccess (s : State) (write : Bool) (a size v : Nat) : State × DmaRes :=
  if (bankOf a).isSome then
    let x : Access := ⟨Init.DMA, write, a, size, v⟩
    if s.bankHolds x then (s, .held)
    else
      let (t, r, d) := s.bankAccess x
      if r = Resp.served then (t, .ok d) else (t, .bad (dmaCode r))
  else if Core.regSpaceAddr a then
    let t := if write then s.busWrite Init.DMA a size (BitVec.ofNat 32 v) else s.busRead Init.DMA a size
    if t.resp ≠ Resp.served then (t, .bad (dmaCode t.resp))
    else if write ∧ s.accessCheck a size = Resp.served ∧ mapped a ∧ !(s.mayWrite Init.DMA a) then (t, .bad 7)
    else (t, .ok t.rdata.toNat)
  else (s, .bad 2)

/-- The descriptor address of a channel; bits [5:0] are ignored. -/
def descAddr (s : State) (n : Nat) : Nat := s.fld (F.CH_DESC_ADDR n) / 64 * 64

/-- Read `k` words from `a` on: the words, or the address and result of the first access that is not served. -/
def descRead (s : State) (a : Nat) : Nat → State × (List Word ⊕ (Nat × DmaRes))
  | 0 => (s, .inl [])
  | k + 1 =>
    match s.dmaAccess false a 4 0 with
    | (t, .ok v) =>
      match descRead t (a + 4) k with
      | (u, .inl ws) => (u, .inl (BitVec.ofNat 32 v :: ws))
      | r => r
    | (t, r) => (t, .inr (a, r))

/-- DESCRIPTOR_FETCHED: accepted, refused, or found with OWN = 0 (R407, Table 16-5). -/
def descFetched (s : State) (n : Nat) : State :=
  if s.dmaRuns ∧ n < 32 ∧ s.chanState n = 1 ∧ !(s.chanGet n).backoff then
    match s.descRead (s.descAddr n) 16 with
    | (t, .inl ws) =>
      let c : DmaChan := { DmaChan.reset with desc := ws }
      let t1 := ((t.chanSet n c).setFld (F.CH_BYTES_COUNT n) 0).chanShow n
      if !c.own then
        if s.flag (F.CH_CFG_POLL n) then (t1.chanSet n { c with pollWait := true }).waitEnter n
        else ((t1.setFlag (F.CH_STAT_EMPTY n) true).irq P.DMA n).chanGo n 0
      else if c.refused then t1.completeEnter n 8
      else t1.waitEnter n
    | _ => s
  else s

/-- The next access of the element in work; `collide` tells that the write meets COLLIDE (R401). -/
def dataUnit (s : State) (n : Nat) (collide : Bool) : State × DmaRes :=
  let c := s.chanGet n
  let (write, a) := c.nextAccess
  if write then
    if collide ∧ (bankOf a).isSome then (s, .bad 5)
    else
      match s.dmaAccess true a c.unit (leValue (((c.shape c.got).drop c.put).take c.unit)) with
      | (t, .ok v) =>
        let d := { t.chanGet n with put := c.put + c.unit, lastAddr := some a, tries := 0 }
        let t1 := (t.chanSet n (if c.size ≤ d.put then d.next else d)).addFld (F.CH_BYTES_COUNT n) c.unit
        (t1.chanShow n, .ok v)
      | r => r
  else
    match s.dmaAccess false a c.unit 0 with
    | (t, .ok v) => (t.chanSet n { t.chanGet n with got := c.got ++ leBytes c.unit v, tries := 0 }, .ok v)
    | r => r

/-- Accesses until no more than `stop` elements of the burst are left; `none` where one is not served. -/
def dataRun (n stop : Nat) : Nat → State → Option State
  | 0, s => if (s.chanGet n).left ≤ stop then some s else none
  | f + 1, s =>
    if (s.chanGet n).left ≤ stop then some s
    else
      match s.dataUnit n false with
      | (t, .ok _) => dataRun n stop f t
      | _ => none

/-- `u` accesses, each served. -/
def dataUnits (n : Nat) : Nat → State → Option State
  | 0, s => some s
  | u + 1, s =>
    match s.dataUnit n false with
    | (t, .ok _) => dataUnits n u t
    | _ => none

/-- `k` further elements of the burst, whole. -/
def dataElems (s : State) (n k : Nat) : Option State :=
  let c := s.chanGet n
  if k ≤ c.left then dataRun n (c.left - k) (k * (2 * (c.size / c.unit))) s else none

/-- Other channels with elements of a burst to move, of the first group or of the second (R405). -/
def dmaOthers (s : State) (n : Nat) (first : Bool) : List Nat :=
  (List.range 32).filter fun m =>
    m ≠ n && s.chanState m = 3 && !(s.chanGet m).backoff && 0 < (s.chanGet m).left && s.regBit R.DMA_PRIO m = first

/-- One element of each of these channels that is not held or in error. -/
def dmaTurn (s : State) (ms : List Nat) : State := ms.foldl (fun (t : State) m => (t.dataElems m 1).getD t) s

/-- `k` turns of the group of channel `n`, an element of each of its channels in each turn; `none` where an element of `n` is not
served. -/
def dmaTurns (n : Nat) (ms : List Nat) : Nat → State → Option State
  | 0, s => some s
  | k + 1, s => ((s.dmaTurn ms).dataElems n 1).bind (dmaTurns n ms k)

/-- The rest of the burst of channel `n` moves: channels of the first group are served before the others, those of one group in
turn, element by element (R405). -/
def dmaServe (s : State) (n : Nat) : Option State :=
  let mine := s.regBit R.DMA_PRIO n
  let s1 := if mine then s else (s.dmaOthers n true).foldl (fun (t : State) m => (t.dataElems m (t.chanGet m).left).getD t) s
  match s.dmaOthers n mine with
  | [] => s1.dataElems n (s1.chanGet n).left
  | ms => dmaTurns n ms (s1.chanGet n).left s1

/-- DMA_BURST_END: the rest of the burst moves, and the channel waits or goes to COMPLETE. -/
def burstEnd (s : State) (n : Nat) : State :=
  if s.dmaRuns ∧ n < 32 ∧ s.chanState n = 3 ∧ !(s.chanGet n).backoff then
    match s.dmaServe n with
    | some t => t.burstOver n
    | none => s
  else s

/-- DMA_PAUSED: a PAUSING channel has moved `k` further elements, holds no data it read, and stops; it goes on at once where
PAUSE has been cleared meanwhile. -/
def dmaPaused (s : State) (n k : Nat) : State :=
  if s.dmaRuns ∧ n < 32 ∧ s.chanState n = 4 ∧ !(s.chanGet n).backoff then
    match s.dataElems n k with
    | some t =>
      let c := t.chanGet n
      if c.got.isEmpty then ((t.chanSet n { c with from_ := 3 }).chanGo n 5).chanPauseStep n else s
    | none => s
  else s

/-- The completion access of the channel's stage (R417): address, direction, size and value; `none` where there is nothing to
read back. -/
def stageAccess (s : State) (n : Nat) : Option (Bool × Nat × Nat × Nat) :=
  let c := s.chanGet n
  match c.stage with
  | .status =>
    some (true, s.descAddr n + 60, 4, c.err % 16 + c.used * 16 + min 0xFFFFFF (s.fld (F.CH_BYTES_COUNT n)) * 256)
  | .own => some (true, s.descAddr n, 4, (c.word 0).toNat % 2 ^ 31)
  | _ =>
    match c.lastAddr with
    | none => none
    | some a => if (bankOf a).isSome then some (false, a, c.unit, 0) else some (false, pageOf a, 4, 0)

/-- The stage after this one; OWN is the last. -/
def stageNext : DmaStage → DmaStage
  | .readBack => .status
  | _ => .own

/-- One stage of the completion. Its access to a bank is not held: a handover of the bank waits for it (R417). -/
def stageRun (s : State) (n : Nat) (collide : Bool) : State × DmaRes :=
  match s.stageAccess n with
  | none => (s, .ok 0)
  | some (w, a, size, v) =>
    if w ∧ collide then (s, .bad 5)
    else if (bankOf a).isSome then
      let (t, r, d) := s.bankAccess ⟨Init.DMA, w, a, size, v⟩
      if r = Resp.served then (t, .ok d) else (t, .bad (dmaCode r))
    else s.dmaAccess w a size v

/-- The descriptor has completed (R417 step 5, Table 16-5). -/
def dmaFinish (s : State) (n : Nat) : State :=
  let c := s.chanGet n
  let a := s.descAddr n
  let s1 := ((s.addFld (F.CH_DONE_COUNT n) 1).setFld (F.CH_STAT_LAST_ERR n) c.err).setFld (F.CH_LAST_ADDR n) a
  let s2 := if c.irqEn then s1.irq P.DMAC n else s1
  let s3 := if c.err = 0 ∨ c.err = 10 then s2 else s2.irq P.DMA n
  let s4 :=
    if c.nextEn ∧ c.err = 0 then
      ((s3.setFld (F.CH_DESC_ADDR n) (c.word 11).toNat).chanSet n DmaChan.reset).fetchEnter n true
    else (s3.chanSet n DmaChan.reset).chanGo n 0
  s4.dmaEvents 3 n

/-- Stages of the completion from the present one, each served; `none` where one is not. -/
def stagesRun (n : Nat) : Nat → State → Option State
  | 0, s => some s
  | f + 1, s =>
    match s.stageRun n false with
    | (t, .ok _) =>
      if (s.chanGet n).stage = DmaStage.own then some t
      else stagesRun n f (t.chanSet n { t.chanGet n with stage := stageNext (s.chanGet n).stage, tries := 0 })
    | _ => none

/-- DMA_COMPLETE: the completion sequence runs to its end. -/
def dmaComplete (s : State) (n : Nat) : State :=
  if s.dmaRuns ∧ n < 32 ∧ s.chanState n = 7 ∧ !(s.chanGet n).backoff then
    match stagesRun n 3 s with
    | some t => t.dmaFinish n
    | none => s
  else s

/-- `k` stages of the completion, each served, OWN not among them. -/
def stagesSkip (n : Nat) : Nat → State → Option State
  | 0, s => some s
  | k + 1, s =>
    match s.stageRun n false with
    | (t, .ok _) =>
      if (s.chanGet n).stage = DmaStage.own then none
      else stagesSkip n k (t.chanSet n { t.chanGet n with stage := stageNext (s.chanGet n).stage, tries := 0 })
    | _ => none

/-- The access of the present completion stage fails. -/
def stageFail (s : State) (n : Nat) (collide : Bool) : State :=
  match s.stageRun n collide, s.stageAccess n with
  | (t, .bad code), some (w, a, _, _) => t.chanFail n (s.chanGet n).stage code a w
  | _, _ => s

/-- DMA_ACCESS_ERROR: after `k` whole elements and `u` accesses of the next, or `k` stages of the completion, an access of channel `n` receives an error
response: the one that its target gives, or COLLIDE (R414). -/
def dmaError (s : State) (n k u : Nat) (collide : Bool) : State :=
  if s.dmaRuns ∧ n < 32 ∧ !(s.chanGet n).backoff then
    match s.chanState n with
    | 1 =>
      match s.descRead (s.descAddr n) 16 with
      | (t, .inr (a, .bad code)) => t.chanFail n .fetch code a false
      | _ => s
    | 7 =>
      match stagesSkip n k s with
      | some t => if t.stageFail n collide = t then s else t.stageFail n collide
      | none => s
    | st =>
      if st = 3 ∨ st = 4 then
        match (s.dataElems n k).bind (dataUnits n u) with
        | some t =>
          if (t.chanGet n).left = 0 then s
          else
            match t.dataUnit n collide with
            | (w, .bad code) => w.chanFail n .data code (t.chanGet n).nextAccess.2 (t.chanGet n).nextAccess.1
            | _ => s
        | none => s
      else s
  else s

/-- DMA_RETRY: the backoff expires and the access is issued again. -/
def dmaRetry (s : State) (n : Nat) (collide : Bool) : State :=
  let c := s.chanGet n
  if s.dmaRuns ∧ n < 32 ∧ c.backoff then
    let s1 := s.chanSet n { c with backoff := false }
    match s.chanState n with
    | 1 =>
      match s1.descRead (s.descAddr n) 16 with
      | (t, .inr (a, .bad code)) => t.chanFail n .fetch code a false
      | _ => s1
    | 7 => s1.stageFail n collide
    | _ =>
      match s1.dataUnit n collide with
      | (t, .bad code) => t.chanFail n .data code c.nextAccess.2 c.nextAccess.1
      | (t, .ok _) => t
      | _ => s
  else s

/-- A write of CH_CTRL that gives one command and keeps PAUSE; it follows every earlier store of a core (R406). -/
def chanCommand (s : State) (init n w : Nat) : State :=
  if 32 ≤ n ∨ s.storesOpen init then s
  else s.via init (R.CH_CTRL n) fun t => t.chanCtrl n (w + 2 * b2n (t.flag (F.CH_CTRL_PAUSE n)))

/-- DMA_ABORT: a write of CH_CTRL.ABORT; a channel that moves data has moved `k` whole elements of its burst and made `u` accesses of
the next before it acts (R413). -/
def abortCommand (s : State) (init n k u : Nat) : State :=
  if 32 ≤ n ∨ s.storesOpen init then s
  else if (s.chanState n = 3 ∨ s.chanState n = 4) ∧ s.dmaRuns ∧ !(s.chanGet n).backoff then
    match (s.dataElems n k).bind (dataUnits n u) with
    | some t => t.chanCommand init n 16
    | none => s
  else s.chanCommand init n 16

/-- A write of CH_CTRL.PAUSE. -/
def chanPauseWrite (s : State) (init n : Nat) (on : Bool) : State :=
  if 32 ≤ n ∨ s.storesOpen init then s
  else s.via init (R.CH_CTRL n) fun t => t.chanCtrl n (2 * b2n on)

end State
end Sys2Proof.Machine
end

