-- ==== Sys2Proof/Machine/ExecDma.lean ====
section
/-! DEFINITION. The commands and events of the DMA engine (chapter 16). -/

namespace Sys2Proof.Machine

/-- DMA_START (R413): CH_CTRL.START moves an IDLE channel to FETCH. -/
def execDmaStart (init n : Nat) (s : State) : Host.Outcome State Fault Refusal :=
  .next (State.settle (s.chanCommand init n 1))

/-- DMA_PAUSE (R413): A write of CH_CTRL.PAUSE pauses or resumes a channel. -/
def execDmaPause (init n : Nat) (on : Bool) (s : State) : Host.Outcome State Fault Refusal :=
  .next (State.settle (s.chanPauseWrite init n on))

/-- DMA_RESUME (R415): CH_CTRL.RESUME repeats the failing access of a HALTED channel. -/
def execDmaResume (init n : Nat) (s : State) : Host.Outcome State Fault Refusal :=
  .next (State.settle (s.chanCommand init n 4))

/-- DMA_SKIP (R415): CH_CTRL.SKIP drops the rest of the failing element and continues. -/
def execDmaSkip (init n : Nat) (s : State) : Host.Outcome State Fault Refusal :=
  .next (State.settle (s.chanCommand init n 8))

/-- DMA_ABORT (R413): CH_CTRL.ABORT completes the descriptor with ERR 9. -/
def execDmaAbort (init n k u : Nat) (s : State) : Host.Outcome State Fault Refusal :=
  .next (State.settle (s.abortCommand init n k u))

/-- DESCRIPTOR_FETCHED (R407): A descriptor read returns and is accepted, refused, or found with OWN = 0. -/
def execDescriptorFetched (n : Nat) (s : State) : Host.Outcome State Fault Refusal :=
  .next (State.settle (s.descFetched n))

/-- DMA_TRIGGER (R412): A trigger event of SRC 1 to 3 starts a burst, or is held or dropped. -/
def execDmaTrigger (n : Nat) (s : State) : Host.Outcome State Fault Refusal :=
  .next (State.settle (if n < 32 then s.dmaTrigger n else s))

/-- DMA_TIMER (R411): The channel's peripheral timer expires and starts a burst. -/
def execDmaTimer (n : Nat) (s : State) : Host.Outcome State Fault Refusal :=
  .next (State.settle (if n < 32 then s.dmaTimer n else s))

/-- DMA_REQUEST (R412): A peripheral request line is asserted and starts a burst. -/
def execDmaRequest (n : Nat) (spi : Bool) (s : State) : Host.Outcome State Fault Refusal :=
  .next (State.settle (if n < 32 then s.dmaRequest n spi else s))

/-- DMA_BURST_END (R413): A burst ends and the channel waits, or goes to COMPLETE after the last element. -/
def execDmaBurstEnd (n : Nat) (s : State) : Host.Outcome State Fault Refusal :=
  .next (State.settle (s.burstEnd n))

/-- DMA_PAUSED (R413): A PAUSING channel has written the data it read and becomes PAUSED. -/
def execDmaPaused (n k : Nat) (s : State) : Host.Outcome State Fault Refusal :=
  .next (State.settle (s.dmaPaused n k))

/-- DMA_ACCESS_ERROR (R414): A DMA access receives an error response, and the channel retries or halts. -/
def execDmaAccessError (n k u : Nat) (collide : Bool) (s : State) : Host.Outcome State Fault Refusal :=
  .next (State.settle (s.dmaError n k u collide))

/-- DMA_RETRY (R414): The 640 ns backoff expires and the retryable access is issued again. -/
def execDmaRetry (n : Nat) (collide : Bool) (s : State) : Host.Outcome State Fault Refusal :=
  .next (State.settle (s.dmaRetry n collide))

/-- DMA_COMPLETE (R417): The completion sequence writes STATUS and then OWN, and signals done and chained channels. -/
def execDmaComplete (n : Nat) (s : State) : Host.Outcome State Fault Refusal :=
  .next (State.settle (s.dmaComplete n))

end Sys2Proof.Machine
end

