-- ==== Sys2Proof/Machine/ExecFar.lean ====
section
/-! DEFINITION. The far accesses of the Swiale cores, and the commands that hold, start, ring and load them (chapter 14). -/

namespace Sys2Proof.Machine

/-- STORE_ERROR (R371): An error response to a buffered far store arrives and raises ST_ERR. -/
def execStoreError (c : Nat) (s : State) : Host.Outcome State Fault Refusal :=
  .next (State.settle (if c < 12 then s.storeError c else s))

/-- FAR_LOAD_RESPONSE (R355): The response to a stalled far load arrives, or raises BUS on an error. -/
def execFarLoadResponse (c cycles : Nat) (s : State) : Host.Outcome State Fault Refusal :=
  .next (State.settle (s.loadResponse c cycles))

/-- STORE_COMPLETE (R356): A far store receives its completion response from its target. -/
def execStoreComplete (c : Nat) (s : State) : Host.Outcome State Fault Refusal :=
  .next (State.settle (s.storeComplete c))

/-- CORE_HOLD (R373): ENABLE = 0 on a core page stops the core, cancels its loads and abandons its tasks. -/
def execCoreHold (init c : Nat) (s : State) : Host.Outcome State Fault Refusal :=
  .next (State.settle (if c < 12 then s.busWrite init (R.PAGE_CTRL (P.CORE c)) 4 (s.reg (R.PAGE_CTRL (P.CORE c)) &&& ~~~3) else s))

/-- CORE_RELEASE (R373): ENABLE = 1 on a core page starts the core at offset 0 with reset control registers. -/
def execCoreRelease (init c : Nat) (s : State) : Host.Outcome State Fault Refusal :=
  .next (State.settle (if c < 12 then s.busWrite init (R.PAGE_CTRL (P.CORE c)) 4 ((s.reg (R.PAGE_CTRL (P.CORE c)) &&& ~~~2) ||| 1) else s))

/-- DOORBELL_RING (R374): A write of CORE_DOORBELL drains the writer's buffer and sets line 5 of the core. -/
def execDoorbellRing (init c : Nat) (s : State) : Host.Outcome State Fault Refusal :=
  .next (State.settle (if c < 12 then s.doorbell init c else s))

/-- WINDOW_WRITE (R374): MC or DBG writes a core memory through the window, refused while the core runs. -/
def execWindowWrite (init addr size value : Nat) (s : State) : Host.Outcome State Fault Refusal :=
  .next (State.settle (s.windowCommand init addr size value))

end Sys2Proof.Machine
end

