-- ==== Sys2Proof/Machine/Nmea.lean ====
section
/-! DEFINITION. The NMEA 0183 output of MC's firmware on UART1 (R501, R502). The form of each sentence is that of NMEA 0183
version 4.11, which the spec names and does not repeat (PRESUMED, log entry 77). -/

namespace Sys2Proof.Machine

/-! ### Numbers and sentences -/

def text (s : String) : List Byte := s.toList.map fun c => BitVec.ofNat 8 c.toNat

/-- The low `n` decimal digits of a number. -/
def digits (n v : Nat) : List Byte := ((List.range n).map fun k => BitVec.ofNat 8 (48 + v / 10 ^ k % 10)).reverse

/-- A number without leading zeros. -/
def decimal (v : Nat) : List Byte :=
  match (digits 20 v).dropWhile (· = 48) with
  | [] => [48]
  | l => l

/-- A number in units of 10^-`n`. -/
def fixed (n v : Nat) : List Byte := decimal (v / 10 ^ n) ++ text "." ++ digits n v

def hexDigit (v : Nat) : Byte := BitVec.ofNat 8 (if v < 10 then 48 + v else 55 + v)

/-- Fields joined by commas. -/
def fields : List (List Byte) → List Byte
  | [] => []
  | [f] => f
  | f :: fs => f ++ text "," ++ fields fs

/-- A sentence with its checksum: the XOR of what stands between the first character and the asterisk. -/
def sentence (fs : List (List Byte)) : List Byte :=
  let b := fields fs
  let x := (b.foldl (· ^^^ ·) (0 : Byte)).toNat
  text "$" ++ b ++ text "*" ++ [hexDigit (x / 16), hexDigit (x % 16), 13, 10]

/-! ### Date and place -/

/-- Year, month and day of a number of days since 1970-01-01. -/
def civilDate (days : Nat) : Nat × Nat × Nat :=
  let z := days + 719468
  let era := z / 146097
  let doe := z % 146097
  let yoe := (doe - doe / 1460 + doe / 36524 - doe / 146096) / 365
  let doy := doe - (365 * yoe + yoe / 4 - yoe / 100)
  let mp := (5 * doy + 2) / 153
  let m := if mp < 10 then mp + 3 else mp - 9
  (yoe + 400 * era + (if m ≤ 2 then 1 else 0), m, doy - (153 * mp + 2) / 5 + 1)

/-- Semi-major axis of WGS 84 in 0.1 mm, and its squared eccentricity in 10^-14. -/
def ellipsoidA : Nat := 63781370000
def ellipsoidE2 : Nat := 669437999014

/-- sqrt(1 - e^2 sin^2) in 2^-40 for a sine in 2^-40. -/
def ellipsoidW (sin : Int) : Nat := sqrtNat 41 (2 ^ 80 - ellipsoidE2 * (sin * sin).natAbs / 10 ^ 14)

/-- Latitude (2^-32 turn), longitude (2^-32 turn, positive to the east) and height above the ellipsoid (0.1 mm) of a place in
ECEF (0.1 mm). -/
def geodetic (x y z : Int) : Int × Int × Int :=
  let p : Int := sqrtNat 48 (x * x + y * y).natAbs
  let sgn := fun (a : Nat) => signed 32 a
  let lat := (List.range 6).foldl (fun (a : Int) _ =>
    let s := (cisFine (a % (2 ^ 32 : Nat)).toNat).q
    let n : Int := ellipsoidA * 2 ^ 40 / ellipsoidW s
    sgn (angleOf p (z + roundDiv (n * ellipsoidE2 * s) (10 ^ 14 * 2 ^ 40)))) (sgn (angleOf p z))
  let c := cisFine (lat % (2 ^ 32 : Nat)).toNat
  (lat, sgn (angleOf x y), roundDiv (p * c.i + z * c.q - ellipsoidA * ellipsoidW c.q) (2 ^ 40))

/-- Velocity to the north and to the east at a latitude and longitude. -/
def northEast (lat lon : Int) (v : List Int) : Int × Int :=
  let a := cisInt lat
  let o := cisInt lon
  let g := fun k => v.getD k 0
  let h := (g 0 * o.i + g 1 * o.q) / 2 ^ 30
  ((g 2 * a.i - h * a.q) / 2 ^ 30, (g 1 * o.i - g 0 * o.q) / 2 ^ 30)

/-- An angle as degrees and minutes with five decimals, and its letter. -/
def degMin (w : Nat) (pos neg : String) (a : Int) : List (List Byte) :=
  let m := (roundDiv ((a.natAbs : Int) * 2160000000) (2 ^ 32)).toNat
  [digits w (m / 6000000) ++ digits 2 (m / 100000 % 60) ++ text "." ++ digits 5 m, text (if a < 0 then neg else pos)]

/-! ### Sets -/

/-- What a set of sentences shows: UTC in seconds from 1970, an inserted leap second, hundredths; the quality; the solution's
position (latitude, longitude, height), whether it is a solution's own, and the solution. -/
structure NmeaSet where
  utc : Nat
  leap : Bool
  cs : Nat
  qual : Nat
  place : Option (Int × Int × Int)
  fresh : Bool
  sol : Solution
deriving DecidableEq, Repr

/-- Talker of a system in the SYS code of Table 10-3. -/
def sysTalker (sys : Nat) : String :=
  match sys with
  | 1 => "GA"
  | 2 => "GB"
  | 3 => "GL"
  | 4 => "GQ"
  | 5 => "GI"
  | _ => "GP"

/-- System ID of GSA. -/
def sysId (sys : Nat) : Nat :=
  match sys with
  | 1 => 3
  | 2 => 4
  | 3 => 2
  | 4 => 5
  | 5 => 6
  | _ => 1

/-- Satellite ID of a satellite. -/
def satId (x : SatView) : Nat := if x.sys = 3 then 64 + x.prn else if x.sys = 6 then x.prn - 87 else x.prn

namespace NmeaSet

def systems (q : NmeaSet) : List Nat := (List.range 7).filter fun k => bit q.sol.systems k

/-- The talker: GN for a solution that combines systems. -/
def talker (q : NmeaSet) : String :=
  match (q.systems.map sysTalker).eraseDups with
  | [t] => t
  | _ => "GN"

/-- The time of day; an inserted leap second reads 60. -/
def clock (q : NmeaSet) : List Byte :=
  let t := q.utc % 86400
  digits 2 (t / 3600) ++ digits 2 (t / 60 % 60) ++ digits 2 (if q.leap then 60 else t % 60) ++ text "." ++ digits 2 q.cs

def good (q : NmeaSet) : Bool := 2 ≤ q.qual

/-- Mode indicator: not valid, estimated, or autonomous. -/
def mode (q : NmeaSet) : String := if !q.good then "N" else if q.fresh then "A" else "E"

def latLon (q : NmeaSet) : List (List Byte) :=
  match q.place with
  | none => [[], [], [], []]
  | some (a, o, _) => degMin 2 "N" "S" a ++ degMin 3 "E" "W" o

def height (q : NmeaSet) : List Byte :=
  match q.place with
  | none => []
  | some (_, _, h) => (if h < 0 then text "-" else []) ++ fixed 2 (roundDiv (h.natAbs : Int) 100).toNat

def used (q : NmeaSet) : List SatView := q.sol.sats.filter (·.used)

def zda (q : NmeaSet) : List Byte :=
  let (y, m, d) := civilDate (q.utc / 86400)
  sentence ([text (q.talker ++ "ZDA")] ++
    (if q.good then [q.clock, digits 2 d, digits 2 m, digits 4 y] else [[], [], [], []]) ++ [text "00", text "00"])

def rmc (q : NmeaSet) : List Byte :=
  let (y, m, d) := civilDate (q.utc / 86400)
  let move := match q.place with
    | some (a, o, _) =>
      let (n, e) := northEast a o q.sol.vel
      let v := sqrtNat 40 (n * n + e * e).natAbs
      if q.fresh then [fixed 3 (v * 360 / 1852), fixed 2 (angleOf n e * 36000 / 2 ^ 32)] else [[], []]
    | none => [[], []]
  sentence ([text (q.talker ++ "RMC"), q.clock, text (if q.good then "A" else "V")] ++ q.latLon ++ move ++
    [digits 2 d ++ digits 2 m ++ digits 2 y, [], [], text q.mode, text "V"])

def gga (q : NmeaSet) : List Byte :=
  let fix := if !q.good then "0" else if q.fresh then "1" else "6"
  sentence ([text (q.talker ++ "GGA"), q.clock] ++ q.latLon ++
    [text fix, digits 2 (min 12 q.used.length), fixed 2 q.sol.hdop, q.height, text "M", [], text "M", [], []])

def gns (q : NmeaSet) : List Byte :=
  let m := [0, 3, 1, 2, 4, 5].flatMap fun k => text (if bit q.sol.systems k then q.mode else "N")
  sentence ([text (q.talker ++ "GNS"), q.clock] ++ q.latLon ++
    [m, digits 2 (min 99 q.used.length), fixed 2 q.sol.hdop, q.height, [], [], [], text "V"])

/-- Consecutive parts of at most `n` elements. -/
def parts (n : Nat) (l : List SatView) : List (List SatView) :=
  (List.range ((l.length + n - 1) / n)).map fun k => (l.drop (n * k)).take n

/-- One GSA per system, of at most twelve satellites. -/
def gsa (q : NmeaSet) : List Byte :=
  let fix := text (if q.good && q.fresh then "3" else "1")
  let dop := [fixed 2 q.sol.pdop, fixed 2 q.sol.hdop, fixed 2 q.sol.vdop]
  let one := fun (id : Nat) (l : List SatView) =>
    sentence ([text (q.talker ++ "GSA"), text "A", fix] ++
      ((List.range 12).map fun k => match l[k]? with | some x => digits 2 (satId x) | none => []) ++ dop ++ [decimal id])
  let ids := (q.systems.map sysId).eraseDups
  if ids = [] then one 1 []
  else ids.flatMap fun id =>
    let l := q.used.filter fun x => sysId x.sys = id
    if l = [] then one id [] else (parts 12 l).flatMap (one id)

/-- The satellites in view, by system and signal, four to a sentence. -/
def gsv (q : NmeaSet) : List Byte :=
  ((q.sol.sats.map fun x => (sysTalker x.sys, x.signal)).eraseDups).flatMap fun g =>
    let l := q.sol.sats.filter fun x => (sysTalker x.sys, x.signal) = g
    let ps := parts 4 l
    (ps.zipIdx).flatMap fun p =>
      sentence ([text (g.1 ++ "GSV"), decimal ps.length, decimal (p.2 + 1), digits 2 l.length] ++
        (p.1.flatMap fun x => [digits 2 (satId x), digits 2 x.elev, digits 3 x.azim, digits 2 x.cn0]) ++ [[hexDigit (g.2 % 16)]])

/-- The sentences of a set that the mask selects, in the order of R502. -/
def bytes (q : NmeaSet) (mask : Nat) : List Byte :=
  [q.zda, q.rmc, q.gga, q.gns, q.gsa, q.gsv].zipIdx.flatMap fun x => if bit mask x.2 then x.1 else []

end NmeaSet

namespace State

/-- MC writes what stands in its output buffer into the free places of UART1's transmit FIFO. -/
def nmeaDrain (s : State) : State :=
  if s.host.nmeaOut = [] ∨ !(s.uartOn 1) then s
  else
    let l := s.host.uartTx.getD 1 []
    let n := 64 - l.length
    s.hostPut { s.host with uartTx := s.host.uartTx.set 1 (l ++ s.host.nmeaOut.take n), nmeaOut := s.host.nmeaOut.drop n }

/-- UTC of an instant in ns of TAI under TBU_UTC, and whether it lies in an inserted leap second, the last one before LEAPSEC
(R280). A leap that is due counts as done. -/
def utcOf (s : State) (t : Nat) : Nat × Bool :=
  let sec := t / 1000000000
  let at' := (s.reg R.TBU_LEAP0).toNat + getBits (s.reg R.TBU_LEAP1) 0 16 * 2 ^ 32
  let ins := s.fld F.TBU_UTC_LEAP = 1
  let due : Int := if at' ≤ sec then (if ins then 1 else if s.fld F.TBU_UTC_LEAP = 2 then -1 else 0) else 0
  let leap := ins && sec + 1 = at'
  (((sec : Int) - s.fldI F.TBU_UTC_OFFSET - due).toNat - b2n leap, leap)

/-- The interval of the sets in ns: in NAVIGATE the epoch divider's, where it makes 1, 5 or 10 Hz; else a second (R502). -/
def nmeaEvery (s : State) (mode div : Nat) : Nat :=
  let n := s.fld F.COR_CTL_EPOCH_DRL
  let p := trigPeriod (s.fld (F.DRL_PERIOD_NS n)) (s.fld (F.DRL_CFG_SECS n)) * div
  if mode = 3 ∧ [1000000000, 200000000, 100000000].contains p then p else 1000000000

/-- A set falls due at the first epoch of an interval (R502). -/
def nmeaDue (s : State) (i div : Nat) : Bool :=
  match s.host.fw.nmeaAt with
  | none => true
  | some l => i / s.nmeaEvery s.mode div ≠ l / s.nmeaEvery s.mode div

/-- At the epoch of instant `i` ns MC sends the set that falls due, which describes this epoch (R502). -/
def nmeaEpoch (s : State) (i : Nat) (v : Verdict) (x : Solution) : State :=
  match s.host.fw.nmea with
  | some (mask, _, div) =>
    if !s.beforeMc && (s.coreGet mcCore).run ≠ .held && s.nmeaDue i div then
      let fresh := decide (v = Verdict.valid)
      let g := fun k => x.pos.getD k 0
      let place := if fresh then some (geodetic (g 0) (g 1) (g 2))
        else s.host.fw.position.map fun p => geodetic p.1 p.2.1 p.2.2
      let y : Solution := if v = Verdict.missing then { x with systems := 0, sats := [] } else x
      let u := s.utcOf i
      let q : NmeaSet := ⟨u.1, u.2, i / 10000000 % 100, s.qual, place, fresh, y⟩
      (s.hostPut { s.host with
        nmeaOut := s.host.nmeaOut ++ q.bytes mask, fw := { s.host.fw with nmeaAt := some i } }).nmeaDrain
    else s
  | none => s

/-- The solution of this epoch: in TIMING the position is held at the fixed position, so the solution carries time alone and
FIXED = 1 (R266). It enters the mode logic at the next latch (R29), and the set of this epoch. -/
def epochSolve (s : State) (i : Nat) (v : Verdict) (x : Solution) : State :=
  let fixed := s.mode = 2 && s.host.fw.position.isSome
  let y : Solution := match s.host.fw.position with
    | some (a, b, c) => if fixed then { x with pos := [a, b, c], vel := [0, 0, 0], var := 0 } else x
    | none => x
  (s.sysPut { s.sys with solved := (v, y), fixed := fixed }).nmeaEpoch i v y

end State
end Sys2Proof.Machine
end

