-- ==== Sys2Proof/Machine/ExecHost.lean ====
section
/-! DEFINITION. The host interfaces: UARTs, QSPI, MDIO, GPIO, mailbox indices and PCI Express (chapter 20). -/

namespace Sys2Proof.Machine

/-- FETCH_START (R496): MC writes PCIE_FCMD.GO and the fetch engine starts a copy. -/
def execFetchStart (init value : Nat) (s : State) : Host.Outcome State Fault Refusal :=
  .next (State.settle (s.via init R.PCIE_FCMD fun t => t.fetchStart value))

/-- FETCH_DONE (R496): The last write of a copy completes, BUSY clears and FETCH_DONE is set. -/
def execFetchDone (data : List Byte) (s : State) : Host.Outcome State Fault Refusal :=
  .next (State.settle (s.fetchDone data))

/-- FETCH_TIMEOUT (R496): No completion arrives within 50 ms and the copy ends with RESULT 2. -/
def execFetchTimeout (data : List Byte) (s : State) : Host.Outcome State Fault Refusal :=
  .next (State.settle (s.fetchTimeout data))

/-- EOI_WRITE (R497): A write of PCIE_EOI rearms an MSI-X vector. -/
def execEoiWrite (init vec : Nat) (s : State) : Host.Outcome State Fault Refusal :=
  .next (State.settle (s.via init R.PCIE_EOI fun t => t.eoiWrite vec))

/-- PCIE_LINK_CHANGE (R498): The PCIe link comes up or goes down. -/
def execPcieLinkChange (up : Bool) (speed width : Nat) (s : State) : Host.Outcome State Fault Refusal :=
  .next (State.settle (s.pcieLink up speed width))

/-- UART_RX_BYTE (R501): A UART receives a byte into its receive FIFO. -/
def execUartRxByte (u : Nat) (b : Byte) (s : State) : Host.Outcome State Fault Refusal :=
  .next (State.settle (s.uartReceive u b))

/-- UART_TX_BYTE (R501): A UART finishes sending a byte and frees FIFO space. -/
def execUartTxByte (u : Nat) (s : State) : Host.Outcome State Fault Refusal :=
  .next (State.settle ((s.uartSent u).nmeaDrain))

/-- QSPI_COMMAND (R503): A write of QSPI_CMD.GO starts a flash command. -/
def execQspiCommand (init value : Nat) (s : State) : Host.Outcome State Fault Refusal :=
  .next (State.settle (s.via init R.QSPI_CMD fun t => t.qspiCommand value))

/-- QSPI_DONE (R503): A QSPI command completes and BUSY clears. -/
def execQspiDone (data : List Byte) (s : State) : Host.Outcome State Fault Refusal :=
  .next (State.settle (s.qspiDone data))

/-- MDIO_COMMAND (R504): A write of MDIO_CMD starts a Clause 22 or 45 frame. -/
def execMdioCommand (init value : Nat) (s : State) : Host.Outcome State Fault Refusal :=
  .next (State.settle (s.via init R.MDIO_CMD fun t => t.mdioCommand value))

/-- MDIO_DONE (R504): An MDIO frame ends and BUSY clears. -/
def execMdioDone (data : Nat) (s : State) : Host.Outcome State Fault Refusal :=
  .next (State.settle (s.mdioDone data))

/-- GPIO_SET (R505): A write of GPIO_SET sets the OUT bits written with 1. -/
def execGpioSet (init value : Nat) (s : State) : Host.Outcome State Fault Refusal :=
  .next (State.settle (s.via init R.GPIO_SET fun t => t.gpioSet value))

/-- GPIO_CLR (R505): A write of GPIO_CLR clears the OUT bits written with 1. -/
def execGpioClr (init value : Nat) (s : State) : Host.Outcome State Fault Refusal :=
  .next (State.settle (s.via init R.GPIO_CLR fun t => t.gpioClr value))

/-- GPIO_EDGE (R505): A selected, debounced input edge sets IRQ_RAW bit n. -/
def execGpioEdge (n : Nat) (level held : Bool) (s : State) : Host.Outcome State Fault Refusal :=
  .next (State.settle (s.gpioEdge n level held))

/-- CMDPI_WRITE (R508): The host writes MBX_CMDPI, which waits for earlier host writes and rings MC line 4. -/
def execCmdpiWrite (init value : Nat) (s : State) : Host.Outcome State Fault Refusal :=
  .next (State.settle (s.via init R.MBX_CMDPI fun t => t.cmdpiWrite value))

/-- RSPPI_WRITE (R508): MC advances MBX_RSPPI, which publishes responses and sets RSP. -/
def execRsppiWrite (init value : Nat) (s : State) : Host.Outcome State Fault Refusal :=
  .next (State.settle (s.via init R.MBX_RSPPI fun t => t.setFld F.MBX_RSPPI_IDX value))

/-- RSPCI_WRITE (R508): The host advances MBX_RSPCI and RSP is re-evaluated. -/
def execRspciWrite (init value : Nat) (s : State) : Host.Outcome State Fault Refusal :=
  .next (State.settle (s.via init R.MBX_RSPCI fun t => t.setFld F.MBX_RSPCI_IDX value))

/-- CMDCI_WRITE (R508): MC advances MBX_CMDCI after reading commands. -/
def execCmdciWrite (init value : Nat) (s : State) : Host.Outcome State Fault Refusal :=
  .next (State.settle (s.via init R.MBX_CMDCI fun t => t.setFld F.MBX_CMDCI_IDX value))

/-- PCIE_CONFIG_ACCESS (R493): The host makes a PCIe configuration request that sets or clears Bus Master Enable,
changes the power state to D3hot or D0, or configures MSI-X. -/
def execPcieConfigAccess (cfg : PcieCfg) (s : State) : Host.Outcome State Fault Refusal :=
  .next (State.settle (s.pcieConfig cfg))

end Sys2Proof.Machine
end

