-- ==== Sys2Proof/Machine/HostAccess.lean ====
section
/-! DEFINITION. Accesses of the host: PCI Express BAR0 and BAR2 (R494, R495) and the frames of the SPI target (R499, R500).
Readings: log entry 55 (DEDUCED). -/

namespace Sys2Proof.Machine
namespace State

/-! ### PCI Express -/

/-- BAR0_ACCESS: an access of `width` bytes at offset `off` of the 16 MiB window reaches register space as HOST (R494). A read
leaves its word, or Completer Abort, in `words`. -/
def bar0Access (s : State) (off width : Nat) (write : Bool) (value : Nat) : State :=
  if !(s.pcieUp) ∨ 2 ^ 24 ≤ off then s
  else
    let a := 0x40000000 + off
    if write then
      let t := s.busWrite Init.HOST a width (BitVec.ofNat 32 value)
      if t.resp = Resp.served then t else t.postedError a
    else
      let t := s.busRead Init.HOST a width
      let u := t.hostPut { t.host with words := [if t.resp = Resp.served then some t.rdata else none] }
      if t.resp = Resp.served then u else u.aerSet 15

/-- Shared SRAM address of offset `off` of the BAR2 window (R495). -/
def bar2Addr (s : State) (off : Nat) : Nat := sramBase + bankSize * min 80 (s.fld F.PCIE_W2BASE_BANK) + off

/-- One posted access of a BAR2 write; a bank in handover holds it. -/
def bar2Put (s : State) (a size v : Nat) : State :=
  if s.bankHolds ⟨Init.HOST, true, a, size, v⟩ then s.bankHold ⟨Init.HOST, true, a, size, v⟩ .pcie
  else
    let (t, r) := s.farWrite Init.HOST a size v
    if r = .served then t.respond r else (t.respond r).postedError a

/-- The word of a TLP at `a` with its byte enables: a whole word, or its enabled bytes one by one. -/
def bar2Word (s : State) (a be v : Nat) : State :=
  if be % 16 = 15 then s.bar2Put a 4 (v % 2 ^ 32)
  else (List.range 4).foldl (fun (t : State) k => if bit be k then t.bar2Put (a + k) 1 (v / 2 ^ (8 * k) % 256) else t) s

/-- The words of a write TLP in ascending order: byte enables and value of each. -/
def bar2Words : State → Nat → List (Nat × Nat) → State
  | s, _, [] => s
  | s, a, (be, v) :: ws => bar2Words (s.bar2Word a be v) (a + 4) ws

/-- `n` consecutive words read as HOST; `none` for each that receives an error response. -/
def hostReads : State → Nat → Nat → State × List (Option Word)
  | s, _, 0 => (s, [])
  | s, a, n + 1 =>
    let (t, r, v) := s.farRead Init.HOST (a % 2 ^ 32) 4
    let (u, l) := hostReads (t.respond r) (a + 4) n
    (u, (if r = .served then some (BitVec.ofNat 32 v) else none) :: l)

/-- The bytes on SPIT_MISO after COUNT of a read: fill, marker and data of each word (R500). -/
def spiWords : List (Option Word) → List Nat → List Byte
  | [], _ => []
  | w :: ws, f =>
    List.replicate (f.headD 0) 0xFF ++ (match w with
      | some v => 0xA5 :: leBytes 4 v.toNat
      | none => 0xE5 :: List.replicate 4 0xFF) ++ spiWords ws f.tail

/-- A word of a read lies in a bank whose handover to HOST is under way. -/
def readWaits (s : State) (r : HostRead) : Bool :=
  (List.range r.count).any fun k => s.bankHolds ⟨Init.HOST, false, r.addr + 4 * k, 4, 0⟩

/-- A read of the host is carried out: to a PCI Express completion, with Completer Abort when a word receives an error (R494,
R495), or to the words of an SPI frame; with CRC = 1 a complete frame appends the CRC of its data (R500). -/
def readServe (s : State) (r : HostRead) : State :=
  let (t, l) := hostReads s r.addr r.count
  if r.spi then
    let data := wordBytes (l.map fun w => w.getD (BitVec.ofNat 32 0xFFFFFFFF))
    let crc := if s.flag F.SPIT_CFG_CRC && r.whole then beBytes 2 (crc16 data 0xFFFF) else []
    t.hostPut { t.host with
      words := l, spiErr := l.contains none, spiCrc := false
      miso := if s.pinsForced then [] else t.host.miso ++ spiWords l r.fill ++ crc }
  else
    let u := t.hostPut { t.host with words := if l.contains none then [none] else l }
    if l.contains none then u.aerSet 15 else u

/-- A read of the host; one that meets a bank in handover waits for step 4 of R399. -/
def hostRead (s : State) (r : HostRead) : State :=
  if s.readWaits r then s.hostPut { s.host with waiting := s.host.waiting ++ [r] } else s.readServe r

/-- The reads that waited when their page was reset, and whose banks answer now: the replies are discarded and counted, one for
each word (R523). -/
def hostLost (s : State) : State :=
  let gone := s.host.lost.filter fun r => !(s.readWaits r)
  if gone.isEmpty then s
  else
    (s.hostPut { s.host with lost := s.host.lost.filter s.readWaits }).satFld F.TOC_NOCDISC_COUNT
      (gone.map HostRead.count).sum

/-- The waiting reads that a completed handover lets go on. -/
def hostResume (s : State) : State :=
  let t := s.hostLost
  t.host.waiting.foldl hostRead (t.hostPut { t.host with waiting := [] })

/-- BAR2_ACCESS: a TLP at offset `off` of the 4 MiB window (R495): a write of `words`, no more than Max_Payload_Size, or a read
of `count` words. -/
def bar2Access (s : State) (off : Nat) (write : Bool) (words : List (Nat × Nat)) (count : Nat) : State :=
  let n := if write then words.length else count
  let a := s.bar2Addr off
  if !(s.pcieUp) ∨ off % 4 ≠ 0 ∨ 2 ^ 22 < off + 4 * n then s
  else if write then (if s.host.mps < 4 * n then s.aerSet 18 else bar2Words s a words)
  else s.hostRead ⟨false, a, n, true, []⟩

/-! ### SPI target -/

/-- The SPI target answers frames. -/
def spiUp (s : State) : Bool := s.live P.SPIT && s.domRuns 9

/-- The status bits that a frame leaves (Table 20-2). -/
def spiEnd (s : State) (err crc : Bool) : State := s.hostPut { s.host with spiErr := err, spiCrc := crc }

/-- A frame begins: the status byte leaves on SPIT_MISO during the command byte, where the pin is not forced to high impedance
(R455, R499); a read that still waited has ended with its frame. -/
def spiBegin (s : State) : State :=
  s.hostPut { s.host with
    miso := if s.pinsForced then [] else [BitVec.ofNat 8 s.spiStatus]
    waiting := s.host.waiting.filter fun r => !r.spi }

/-- SPI_READ_FRAME: `n` words leave before SPIT_CS_N rises, with `fill` bytes of 0xFF before each marker. -/
def spiReadFrame (s : State) (cmd addr count n : Nat) (fill : List Nat) : State :=
  if !(s.spiUp) then s
  else if cmd ≠ 3 then if cmd = 2 then s else s.spiBegin.spiEnd true false
  else
    let k := min n (count % 64 + 1)
    s.spiBegin.hostRead ⟨true, addr % 2 ^ 32, k, k = count % 64 + 1, fill⟩

/-- A word of a write frame, issued as HOST; a bank in handover holds it. Whether it received an error response. -/
def spiPut (s : State) (a : Nat) (w : Word) : State × Bool :=
  let x : Access := ⟨Init.HOST, true, a, 4, w.toNat⟩
  if s.bankHolds x then (s.bankHold x .spi, false)
  else
    let (t, r) := s.farWrite Init.HOST a 4 w.toNat
    (t.respond r, r ≠ .served)

/-- Words written as HOST one after the other; whether one received an error response. -/
def hostWrites : State → Nat → List Word → State × Bool
  | s, _, [] => (s, false)
  | s, a, w :: ws =>
    let (t, e1) := s.spiPut (a % 2 ^ 32) w
    let (u, e2) := hostWrites t (a + 4) ws
    (u, e1 || e2)

/-- SPI_WRITE_FRAME: `data` holds the bytes that came before SPIT_CS_N rose, `crc` the two CRC bytes. With CRC = 0 whole words
are issued as they complete; with CRC = 1 a whole frame is issued once its CRC checks, or discarded (R500). -/
def spiWriteFrame (s : State) (cmd addr count : Nat) (data : List Byte) (crc : Nat) : State :=
  if !(s.spiUp) then s
  else if cmd ≠ 2 then if cmd = 3 then s else s.spiBegin.spiEnd true false
  else
    let s := s.spiBegin
    let k := count % 64 + 1
    let whole := 4 * k ≤ data.length
    let body := data.take (4 * k)
    let ws := toWords (body.take (body.length / 4 * 4))
    let sum := crc16 (BitVec.ofNat 8 cmd :: beBytes 4 addr ++ [BitVec.ofNat 8 count] ++ body) 0xFFFF
    if s.flag F.SPIT_CFG_CRC ∧ !whole then s.spiEnd false false
    else if s.flag F.SPIT_CFG_CRC ∧ sum ≠ crc then (s.spiEnd false true).sticky P.SPIT 8
    else
      let (t, e) := hostWrites s (addr % 2 ^ 32) ws
      t.spiEnd e false

end State
end Sys2Proof.Machine
end

