-- ==== Sys2Proof/Machine/ExecHostAccess.lean ====
section
/-! DEFINITION. The accesses of the host through PCI Express and the SPI target (chapter 20). -/

namespace Sys2Proof.Machine

/-- BAR0_ACCESS (R494): A PCIe TLP to BAR0 reaches register space as HOST. -/
def execBar0Access (off width : Nat) (write : Bool) (value : Nat) (s : State) : Host.Outcome State Fault Refusal :=
  .next (State.settle (s.bar0Access off width write value))

/-- BAR2_ACCESS (R495): A PCIe TLP to BAR2 reaches a HOST-owned bank as word accesses. -/
def execBar2Access (off : Nat) (write : Bool) (words : List (Nat × Nat)) (count : Nat) (s : State) : Host.Outcome State Fault Refusal :=
  .next (State.settle (s.bar2Access off write words count))

/-- SPI_READ_FRAME (R500): An SPI frame with command 0x03 reads words as HOST. -/
def execSpiReadFrame (cmd addr count n : Nat) (fill : List Nat) (s : State) : Host.Outcome State Fault Refusal :=
  .next (State.settle (s.spiReadFrame cmd addr count n fill))

/-- SPI_WRITE_FRAME (R500): An SPI frame with command 0x02 writes words as HOST, checked by CRC when enabled. -/
def execSpiWriteFrame (cmd addr count : Nat) (data : List Byte) (crc : Nat) (s : State) : Host.Outcome State Fault Refusal :=
  .next (State.settle (s.spiWriteFrame cmd addr count data crc))

end Sys2Proof.Machine
end

