-- ==== Sys2Proof/Machine/Mailbox.lean ====
section
/-! DEFINITION. The host mailbox (R507 to R510): MC takes a command from the command ring, does its work (Table 20-4) and
writes one response. Where the table names a field without placing it in the payload, log entry 41 says where it stands.
Readings: log entry 42 (DESIGN CHOICE). -/

namespace Sys2Proof.Machine

/-- How far the work of a mailbox command has come: it waits, it goes on, or it ends with a STATUS and a payload. -/
inductive MbxRes where
  | wait
  | go (s : State)
  | done (s : State) (status : Nat) (payload : List Byte)

/-- A bulk operand: not yet there, on its way, not reachable, or its bytes. -/
inductive Bulk where
  | wait
  | go (s : State)
  | fail
  | data (s : State) (l : List Byte)

/-- OP codes of Table 20-4. -/
def mbxOps : List Nat :=
  [0x0001, 0x0010, 0x0011, 0x0020, 0x0021, 0x0030, 0x0031, 0x0040, 0x0041, 0x0050, 0x0060, 0x0070, 0x0080, 0x0090]

namespace State

/-! ### What MC does with registers -/

/-- A register write by MC in the course of a mailbox command. -/
def mcWrite (s : State) (a v : Nat) : State := { s.busWrite Init.MC a 4 (BitVec.ofNat 32 v) with resp := s.resp }

/-- A list of register writes by MC. -/
def mcWrites (s : State) (l : List (Nat × Nat)) : State := l.foldl (fun (t : State) x => t.mcWrite x.1 x.2) s

/-- What MC reads at a register: 0 where the access is not served. -/
def mcRead (s : State) (a : Nat) : Nat := if s.accessCheck a 4 = .served then (s.readWord a).toNat else 0

/-! ### Rings -/

/-- Address of entry `i` of the ring in bank `b` (R507). -/
def ringAddr (b i : Nat) : Nat := sramBase + bankSize * b + 256 * (i % 1024)

/-- The DMA engine may use a ring's bank now. -/
def ringOpen (s : State) (b : Nat) (write : Bool) : Bool := s.bankRight Init.DMA b write && !(s.bankPending b)

/-- MC's firmware runs. -/
def mcRuns (s : State) : Bool := !s.beforeMc && (s.coreGet mcCore).run ≠ .held

/-- MC serves the mailbox and can write a response. -/
def mbxServes (s : State) : Bool :=
  s.mcRuns && s.live P.MBX && !(s.held P.MBX)
    && ringLen (s.fld F.MBX_RSPPI_IDX) (s.fld F.MBX_RSPCI_IDX) < 1024 && s.ringOpen (s.fld F.MBX_RINGS_RSPBANK) true

/-- MC reads the entry at CMDCI by DMA and advances CMDCI (R508). -/
def mbxTake (s : State) : State :=
  let b := s.fld F.MBX_RINGS_CMDBANK
  let i := s.fld F.MBX_CMDCI_IDX
  if s.fld F.MBX_CMDPI_IDX = i ∨ !(s.ringOpen b false) then s
  else
    match s.portRead Init.DMA (ringAddr b i) 256 with
    | (_, none) => s
    | (t, some e) =>
      let c : MbxCmd := ⟨leAt e 0 2, bit (leAt e 2 2) 0, leAt e 4 4, slice e 16 (leAt e 8 2), if 240 < leAt e 8 2 then 1000 else 0⟩
      (t.hostPut { t.host with taken := some c }).mcWrite R.MBX_CMDCI ((i + 1) % 2 ^ 16)

/-- MC writes the response by DMA and then advances RSPPI (R508): OP and TAG of the command, STATUS and payload; FLAGS is not
stated. -/
def mbxAnswer (s : State) (c : MbxCmd) (status : Nat) (payload : List Byte) : State :=
  let (flags, s) := s.fresh
  let i := s.fld F.MBX_RSPPI_IDX
  let e := leBytes 2 c.op ++ leBytes 2 flags.toNat ++ leBytes 4 c.tag ++ leBytes 2 payload.length ++ leBytes 2 status
    ++ leBytes 4 0 ++ payload
  let t := (s.portWrite Init.DMA (ringAddr (s.fld F.MBX_RINGS_RSPBANK) i) e).1
  (t.hostPut { t.host with taken := none }).mcWrite R.MBX_RSPPI ((i + 1) % 2 ^ 16)

/-- The work of the command in hand. -/
def mbxStep (s : State) (c : MbxCmd) (op need : Nat) (work : MbxCmd → State → MbxRes) : State :=
  if !(mbxOps.contains c.op) then s.mbxAnswer c 1 []
  else if c.op ≠ op then s
  else if 1000 ≤ c.step ∨ c.payload.length < need then s.mbxAnswer c 2 []
  else
    match work c s with
    | .wait => s
    | .go t => t.hostPut { t.host with taken := some { c with step := c.step + 1 } }
    | .done t status payload => t.mbxAnswer c status payload

/-- A mailbox command of Table 20-4: MC takes the entry at the head of the ring unless it has one in hand, and carries the
command on. A head entry with another OP waits for its own command; an unknown OP gets STATUS 1, a payload that is too
short STATUS 2. -/
def mbxWork (s : State) (op need : Nat) (work : MbxCmd → State → MbxRes) : State :=
  if !s.mbxServes then s
  else
    match s.host.taken with
    | some c => s.mbxStep c op need work
    | none =>
      let t := s.mbxTake
      match t.host.taken with
      | none => s
      | some c => if mbxOps.contains c.op && c.op ≠ op then s else t.mbxStep c op need work

/-! ### Bulk operands (R509) -/

/-- The bytes at `a` in B20 or B21, by DMA. -/
def bulkLocal (s : State) (a n : Nat) : Bulk :=
  if n = 0 ∨ a < sramBase + 20 * bankSize ∨ sramBase + 22 * bankSize < a + n then .fail
  else
    match s.portRead Init.DMA a n with
    | (t, some l) => .data t l
    | (_, none) => .fail

/-- The operand of `n` bytes at `a`: in B20 or B21, or brought there from host memory by the fetch engine, whose end
(FETCH_DONE or FETCH_TIMEOUT) comes between the first stage and the second. -/
def bulkGet (s : State) (c : MbxCmd) (a n : Nat) : Bulk :=
  if !c.hostmem then s.bulkLocal a n
  else if c.step = 0 then
    if s.host.fetch.isSome then .wait
    else if !(s.pcieUp) ∨ !(s.flag F.PCIE_STAT_BME) ∨ n = 0 ∨ 2 * bankSize < n ∨ a % 4 ≠ 0 then .fail
    else .go (s.mcWrites
      [(R.PCIE_FHADDR0, a % 2 ^ 32), (R.PCIE_FHADDR1, a / 2 ^ 32), (R.PCIE_FLADDR, sramBase + 20 * bankSize),
       (R.PCIE_FLEN, ceilDiv n 4 * 4), (R.PCIE_FCMD, 1)])
  else if s.host.fetch.isSome then .wait
  else if s.fld F.PCIE_FSTAT_RESULT ≠ 0 then .fail
  else s.bulkLocal (sramBase + 20 * bankSize) n

/-! ### The commands -/

/-- GET_STATUS. -/
def mbxGetStatus (_ : MbxCmd) (s : State) : MbxRes :=
  let ns := s.nowFrac / 2 ^ 16
  .done s 0 (leBytes 4 (s.mcRead R.SYS_MODE) ++ leBytes 4 (s.mcRead R.TBU_QUAL) ++ leBytes 8 (ns / 1000000000)
    ++ leBytes 4 (ns % 1000000000) ++ leBytes 4 (s.nowFrac % 2 ^ 16) ++ leBytes 4 (s.mcRead R.TBU_UNC)
    ++ leBytes 4 (s.mcRead R.NYM_INTEG) ++ leBytes 4 (s.mcRead R.PMU_STAT))

/-- SET_MODE: MC posts the command, and answers once it has been judged. -/
def mbxSetMode (c : MbxCmd) (s : State) : MbxRes :=
  let w := leAt c.payload 0 4
  if c.step = 0 then
    .go (s.mcWrites [(R.SYS_MODE, 3 * 2 ^ 16), (R.SYS_MODECMD, w % 8 + w / 2 ^ 8 % 2 * 2 ^ 16 + 2 ^ 31)])
  else if s.flag F.SYS_MODE_CMD_PEND then .wait
  else .done s (if s.flag F.SYS_MODE_CMD_REFUSED || s.flag F.SYS_MODE_CMD_DROPPED then 3 else 0) (leBytes 4 (s.mcRead R.SYS_MODE))

/-- POWER. -/
def mbxPower (c : MbxCmd) (s : State) : MbxRes :=
  let t := leAt c.payload 0 4 % 8
  if 5 ≤ t then .done s 2 [] else
  let u := s.mcWrite R.PMU_REQ (t + 2 ^ 31)
  .done u 0 (leBytes 4 (u.mcRead R.PMU_STAT))

def fwPut (s : State) (f : Fw) : State := s.hostPut { s.host with fw := f }

/-- SURVEY (R265): a survey in progress goes on under the new duration and limit. -/
def mbxSurvey (c : MbxCmd) (s : State) : MbxRes :=
  let t := s.fwPut { s.host.fw with survey := some (leAt c.payload 0 4, leAt c.payload 4 4) }
  .done { t with sys := { t.sys with survey := { t.sys.survey with complete := false } } } 0 []

/-- SET_POSITION (R266). -/
def mbxSetPosition (c : MbxCmd) (s : State) : MbxRes :=
  let x := fun (k : Nat) => signed 64 (leAt c.payload (8 * k) 8)
  let t := s.fwPut { s.host.fw with position := some (x 0, x 1, x 2) }
  .done { t with sys := { t.sys with fixedPos := true } } 0 []

/-- SET_GEOMETRY: the element positions go to the array processor, whose directions they allow (R155). -/
def mbxSetGeometry (c : MbxCmd) (s : State) : MbxRes :=
  let band := leAt c.payload 0 4
  if 2 ≤ band then .done s 2 []
  else
    let h := fun (k : Nat) => leAt c.payload (4 + 2 * k) 2
    let t := (List.range 8).foldl (fun (t : State) e =>
      t.mcWrites [(R.ARR_POSXY band e, h (3 * e) + h (3 * e + 1) * 2 ^ 16), (R.ARR_POSZ band e, h (3 * e + 2))]) s
    let ctl := putBits (BitVec.ofNat 32 (t.mcRead (R.ARR_CTL band))) 1 1 1
    let u := t.mcWrite (R.ARR_CTL band) ctl.toNat
    let g := ((List.range 24).map fun k => signed 16 (h k), signed 32 (leAt c.payload 52 4), signed 32 (leAt c.payload 56 4))
    .done (u.fwPut { u.host.fw with geometry := u.host.fw.geometry.set band (some g) }) 0 []

/-! ### Graticule (R106, R107, R109, R110) -/

/-- Temperature points of a band. -/
def gratPoints (m : List Byte) (band : Nat) : Nat := leAt m (16 + band) 1

/-- Where a band's table begins. -/
def gratBand (m : List Byte) (band : Nat) : Nat := 64 + (if band = 0 then 0 else 16 + 136 * gratPoints m 0)

/-- TEMP of point `k`: the 12 bits of SYN_TEMP.NOW. The upper four of its two bytes are not read (DESIGN CHOICE, log entry 84). -/
def gratTemp (m : List Byte) (band k : Nat) : Int := signed 12 (leAt m (gratBand m band + 16 + 136 * k) 2)

/-- The image is whole: MAGIC, VERSION, sizes, CRC-32, ascending temperature points. -/
def gratForm (m : List Byte) : Bool :=
  let ok := fun (b : Nat) => 1 ≤ gratPoints m b && gratPoints m b ≤ 8 &&
    (List.range (gratPoints m b - 1)).all fun k => gratTemp m b k < gratTemp m b (k + 1)
  leAt m 0 4 = 0x47525431 && leAt m 4 2 = 1 && ok 0 && ok 1 && m.length = gratBand m 1 + 16 + 136 * gratPoints m 1
    && crc32 (m.take 0x3C ++ [0, 0, 0, 0] ++ m.drop 0x40) = leAt m 0x3C 4

/-- A band's tag equals the settings in force: the LNA step (7 acts as 6) and the IF bandwidth (3 acts as 2) of its paths, and
the frequency its synthesiser is at, which a refused or waiting SYN_FREQ is not (R107). -/
def gratTag (s : State) (m : List Byte) (band : Nat) : Bool :=
  let o := gratBand m band
  leAt m (o + 4) 4 = s.fld (F.SYN_ACT_FREQ band) &&
    (List.range 8).all fun e =>
      min 6 (s.fld (F.RFE_GAIN_LNA_STEP (2 * e + band))) = min 6 (leAt m o 1)
        && min 2 (s.fld (F.RFE_CFG_IF_BW (2 * e + band))) = min 2 (leAt m (o + 1) 1)

/-- Linear interpolation, rounded to nearest with ties away from zero (R109). -/
def lerp (t0 t1 t v0 v1 : Int) : Int :=
  roundDiv (v0 * (t1 - t0) + (v1 - v0) * (t - t0)) (t1 - t0).toNat

/-- The value in use at temperature `t` of a quantity given at each point; the nearest point outside them. -/
def gratAt (m : List Byte) (band : Nat) (t : Int) (v : Nat → Int) : Int :=
  let n := gratPoints m band
  let below := ((List.range n).filter fun k => gratTemp m band k ≤ t).getLast?
  match below with
  | none => v 0
  | some k => if k + 1 < n then lerp (gratTemp m band k) (gratTemp m band (k + 1)) t (v k) (v (k + 1)) else v k

/-- A temperature outside a band's points (R109). -/
def gratOutside (m : List Byte) (band : Nat) (t : Int) : Bool :=
  t < gratTemp m band 0 || gratTemp m band (gratPoints m band - 1) < t

/-- MC keeps for a band the temperature of the set last applied and whether it is extrapolated, the only place where the model
reports that (DESIGN CHOICE, log entry 84); none while uncalibrated. The solution cores have its DELAY values (R110). -/
def gratKeep (s : State) (band : Nat) (x : Option (Int × Bool)) (delays : List Int) : State :=
  s.fwPut { s.host.fw with gratSet := s.host.fw.gratSet.set band x, delays := s.host.fw.delays.set band delays }

/-- A band's set of corrections, as the writes that MC makes; the whole set transfers at one covariance block (R110). -/
def gratWrites (s : State) (m : List Byte) (band : Nat) : State :=
  let t := s.fldI (F.SYN_TEMP_NOW band)
  let at' := fun (e o w k : Nat) => signed w (leAt m (gratBand m band + 24 + 136 * k + 16 * e + o) (w / 8))
  let delay := fun (e : Nat) => gratAt m band t (at' e 4 32)
  let s1 := (List.range 8).foldl (fun (u : State) e =>
    let gi := gratAt m band t (at' e 0 16)
    let gq := gratAt m band t (at' e 2 16)
    u.mcWrites [(R.ARR_GRATGAIN band e, unsigned 16 gi + unsigned 16 gq * 2 ^ 16),
      (R.ARR_GRATDLY band e, unsigned 32 (delay e))]) s
  (s1.mcWrite (R.ARR_CTL band) (putBits (BitVec.ofNat 32 (s1.mcRead (R.ARR_CTL band))) 0 1 1).toNat).gratKeep band
    (some (t, gratOutside m band t)) ((List.range 8).map delay)

/-- The band stays uncalibrated: MC clears GRAT_V (R107, R145). -/
def gratClear (s : State) (band : Nat) : State :=
  (s.mcWrite (R.ARR_CTL band) (putBits (BitVec.ofNat 32 (s.mcRead (R.ARR_CTL band))) 0 1 0).toNat).gratKeep band none []

/-- MC holds a band to the image in use: uncalibrated while a condition of R107 fails (R111), a new set when the temperature has
moved by 0.25 degC since the last one or the band has none (R110). -/
def gratFollow (s : State) (band : Nat) : State :=
  match s.host.fw.graticule with
  | none => s
  | some m =>
    if !s.mcRuns then s
    else if !(s.gratTag m 0 && s.gratTag m 1) then
      if (s.host.fw.gratSet.getD band none).isSome then s.gratClear band else s
    else
      match s.host.fw.gratSet.getD band none with
      | none => s.gratWrites m band
      | some (t, _) => if 4 ≤ (s.fldI (F.SYN_TEMP_NOW band) - t).natAbs then s.gratWrites m band else s

/-- The full stage begins, with MC's release: VOUT_MODE of both regulators is read (R450), and the image in boot flash is loaded
(R107). -/
def fullStageBegin (s : State) : State :=
  let s1 := s.voutModeRead
  match s1.host.flash with
  | none => s1
  | some m =>
    if gratForm m then (List.range 2).foldl gratFollow (s1.fwPut { s1.host.fw with graticule := some m, gratSet := [none, none] })
    else s1

/-- The bundles are verified, and where that releases MC, the full stage begins. -/
def bootVerified (s : State) (a b : List Byte) (keyStoreOk : Bool) : State :=
  let t := s.bundleVerified a b keyStoreOk
  if s.beforeMc && !t.beforeMc then t.fullStageBegin else t

/-- LOAD_GRATICULE: an image that R107 admits is used on both bands. Another one is not used, and the bands are held to the image
already in use; with none they stay uncalibrated. -/
def mbxLoadGraticule (c : MbxCmd) (s : State) : MbxRes :=
  match s.bulkGet c (leAt c.payload 0 8) (leAt c.payload 8 4) with
  | .wait => .wait
  | .go t => .go t
  | .fail => .done s 5 []
  | .data t m =>
    if gratForm m && t.gratTag m 0 && t.gratTag m 1 then
      let u := (t.gratWrites m 0).gratWrites m 1
      let v := u.fwPut { u.host.fw with graticule := some m }
      .done (if bit (leAt c.payload 12 4) 0 then v.hostPut { v.host with flash := some m } else v) 0 []
    else .done ((List.range 2).foldl (fun (u : State) b =>
      if u.host.fw.graticule.isSome then u.gratFollow b else u.gratClear b) t) 4 []

/-! ### Network time and pairing -/

/-- PTP_CONFIG: a running engine keeps its clock identity, so another one is refused. -/
def mbxPtpConfig (c : MbxCmd) (s : State) : MbxRes :=
  let p := c.payload
  let id1 := beValue (slice p 0 4)
  let id0 := beValue (slice p 4 4)
  let new := id1 ≠ s.mcRead R.PTP_CLKID1 || id0 ≠ s.mcRead R.PTP_CLKID0
  if new && s.running P.PTP then .done s 3 []
  else if 1 < leAt p 21 1 ∨ 7 < leAt p 20 1 ∨ 15 < leAt p 22 1 then .done s 2 []
  else
    let cfg := s.mcRead R.PTP_CFG / 16 * 16 + leAt p 20 1 * 2 + leAt p 21 1
    let t := s.mcWrites ((if new then [(R.PTP_CLKID0, id0), (R.PTP_CLKID1, id1)] else []) ++
      [(R.PTP_ANN0, leAt p 8 4), (R.PTP_ANN1, leAt p 12 4), (R.PTP_ANN2, leAt p 16 4), (R.PTP_CFG, cfg),
       (R.PAGE_COMMIT P.PTP, 0xC0DE0001)])
    let u := (List.range 4).foldl (fun (u : State) n =>
      let w := putBits (BitVec.ofNat 32 (u.mcRead (R.PTPP_CFG n))) 0 1 (leAt p 22 1 / 2 ^ n)
      u.mcWrites [(R.PTPP_CFG n, w.toNat), (R.PAGE_COMMIT (P.PTPP n), 0xC0DE0001)]) t
    .done u 0 []

/-- PTP_SESSION: one operation of R311. -/
def mbxPtpSession (c : MbxCmd) (s : State) : MbxRes :=
  let p := c.payload
  let op := leAt p 2 2
  if c.step = 0 then
    if s.flag F.PTP_SESSSTAT_BUSY then .done s 6 []
    else
      let t := (List.range 16).foldl (fun (t : State) k => t.mcWrite (R.PTP_STAGE k) (leAt p (8 + 4 * k) 4)) s
      .go (t.mcWrite R.PTP_SESSCMD (leAt p 0 2 % 4096 + op % 16 * 2 ^ 12 + leAt p 4 4 % 2 ^ 16 * 2 ^ 16))
  else if s.flag F.PTP_SESSSTAT_BUSY then .wait
  else
    let entry := if op % 16 = 3 then wordBytes ((List.range 16).map fun k => s.reg (R.PTP_STAGE k)) else []
    .done s 0 (leBytes 4 (s.mcRead R.PTP_SESSSTAT) ++ entry)

/-- PAIR: a PAIR_CMD operation; a role command that left the role as it was has been refused (R332). -/
def mbxPair (c : MbxCmd) (s : State) : MbxRes :=
  let op := leAt c.payload 0 4
  if op = 0 ∨ 5 < op then .done s 2 []
  else
    let t := s.mcWrite R.PAIR_CMD op
    .done t (if op = 1 ∧ t.fld F.PAIR_STAT_ROLE ≠ 1 then 3 else 0) (leBytes 4 (t.mcRead R.PAIR_STAT))

/-! ### Nymvis -/

/-- Banks of the buffer of channel 1 for `n` bytes, when it lies in shared SRAM. -/
def nymBanks (s : State) (n : Nat) : Option (List Nat) :=
  let a := s.fld (F.NYM_BUF_ADDR 1)
  if (bankOf a).isSome && (bankOf (a + n - 1)).isSome && n ≠ 0 then some (banksOf a n) else none

/-- MC gives the buffer of channel 1 to Nymvis, when its banks are MC's. -/
def nymGive (s : State) (n : Nat) : Option State :=
  match s.nymBanks n with
  | none => none
  | some bs =>
    if bs.all fun b => s.bankOwner b = Init.MC && !(s.bankPending b) && (s.handOf b).isNone then
      some (bs.foldl (fun (t : State) b => t.mcWrite (R.MEM_OWNER b) (Init.NYM + Init.MC * 2 ^ 8)) s)
    else none

/-- The buffer belongs to `o` and no handover of it is under way. -/
def nymBufOf (s : State) (n o : Nat) : Bool :=
  match s.nymBanks n with
  | none => true
  | some bs => bs.all fun b => s.bankOwner b = o && (s.handOf b).isNone

/-- QUOTE (R442): the nonce goes to NYM_DATA1, the buffer to Nymvis; then the request; then the quote once the buffer is back. -/
def mbxQuote (c : MbxCmd) (s : State) : MbxRes :=
  match c.step with
  | 0 =>
    if s.flag (F.NYM_RSTAT_BUSY 1) then .wait
    else
      match s.nymGive 224 with
      | none => .done s 3 []
      | some t => .go ((List.range 8).foldl (fun (u : State) k => u.mcWrite (R.NYM_DATA 1 k) (leAt c.payload (4 * k) 4)) t)
  | 1 =>
    if s.flag (F.NYM_RSTAT_BUSY 1) || !(s.nymBufOf 224 Init.NYM) then .wait
    else .go ((s.mcWrite (R.NYM_LEN 1) 224).mcWrite (R.NYM_CMD 1) 0x20)
  | _ =>
    if s.flag (F.NYM_RSTAT_BUSY 1) || !(s.nymBufOf 224 Init.MC) then .wait
    else if s.fld (F.NYM_RSTAT_RESULT 1) ≠ 0 then .done s 3 []
    else
      match s.portRead Init.MC (s.fld (F.NYM_BUF_ADDR 1)) 224 with
      | (t, some l) => .done t 0 l
      | (_, none) => .done s 3 []

/-- The answer of FW_UPDATE: RESULT, and the SVN of the class. -/
def fwAnswer (s : State) (cls : Nat) : MbxRes :=
  let r := s.fld (F.NYM_RSTAT_RESULT 1)
  .done s (if r = 0 then 0 else if r = 4 ∨ r = 8 then 4 else 3) (leBytes 4 r ++ leBytes 4 (getBits (s.reg R.NYM_SVN) (8 * cls) 8))

/-- FW_UPDATE (R436): the image comes to the buffer of channel 1; the buffer goes to Nymvis; LOAD_IMAGE installs the class; with
ADVANCE, ADVANCE_SVN follows. -/
def mbxFwUpdate (c : MbxCmd) (s : State) : MbxRes :=
  let flags := leAt c.payload 0 4
  let cls := flags % 2 ^ 8
  let n := leAt c.payload 12 4
  let load := if c.hostmem then 1 else 0
  if 4 ≤ cls then .done s 2 []
  else if c.step ≤ load then
    match s.bulkGet c (leAt c.payload 4 8) n with
    | .wait => .wait
    | .fail => .done s 5 []
    | .go t => .go t
    | .data t m =>
      if t.flag (F.NYM_RSTAT_BUSY 1) then .wait
      else if leAt m 6 1 ≠ cls then .done t 2 []
      else
        match t.portWrite Init.MC (t.fld (F.NYM_BUF_ADDR 1)) m with
        | (u, true) =>
          match u.nymGive n with
          | some v => .go v
          | none => .done u 3 []
        | (_, false) => .done t 3 []
  else if c.step = load + 1 then
    if s.flag (F.NYM_RSTAT_BUSY 1) || !(s.nymBufOf n Init.NYM) then .wait
    else .go ((s.mcWrite (R.NYM_LEN 1) n).mcWrite (R.NYM_CMD 1) (0x30 + 2 ^ 8))
  else if c.step = load + 2 then
    if s.flag (F.NYM_RSTAT_BUSY 1) || !(s.nymBufOf n Init.MC) then .wait
    else if s.fld (F.NYM_RSTAT_RESULT 1) = 0 ∧ bit flags 8 then .go (s.mcWrite (R.NYM_CMD 1) (0x31 + cls * 2 ^ 8))
    else s.fwAnswer cls
  else if s.flag (F.NYM_RSTAT_BUSY 1) then .wait
  else s.fwAnswer cls

/-! ### Logs and NMEA -/

/-- The retained FATAL records, oldest first (R490). -/
def fatalRecords (s : State) : List (List Word) :=
  let k := s.fld F.AON_FATSTAT_NEWEST
  (((List.range 8).map fun i => (k + 1 + i) % 8).filter fun i => bit (s.fld F.AON_FATSTAT_VALID) i).map fun i =>
    (List.range 4).map fun w => s.reg (R.AON_FAT i w)

/-- GET_LOG: up to 14 records from the first entry asked for. -/
def mbxGetLog (c : MbxCmd) (s : State) : MbxRes :=
  let l := if bit (leAt c.payload 0 4) 0 then s.fatalRecords else s.toc.log
  .done s 0 (wordBytes ((l.drop (leAt c.payload 4 4)).take 14).flatten)

/-- NMEA_CONFIG (R502): mask bits 0 to 5 are ZDA, RMC, GGA, GNS, GSA, GSV; the rate is that of UART1. -/
def mbxNmeaConfig (c : MbxCmd) (s : State) : MbxRes :=
  let mask := leAt c.payload 0 4
  let rate := leAt c.payload 4 4
  let div := leAt c.payload 8 4
  if 64 ≤ mask ∨ 8 ≤ rate ∨ div = 0 then .done s 2 []
  else
    let t := s.mcWrites [(R.UART_CFG 1, rate + 8), (R.PAGE_COMMIT P.UART, 0xC0DE0001)]
    .done (t.fwPut { t.host.fw with nmea := some (mask, rate, div) }) 0 []

end State
end Sys2Proof.Machine
end

