-- ==== Sys2Proof/Machine/ExecMailbox.lean ====
section
/-! DEFINITION. The mailbox commands of Table 20-4 (chapter 20). -/

namespace Sys2Proof.Machine

/-- GET_STATUS (R509): The mailbox command returns mode, quality, time and status. -/
def execGetStatus (s : State) : Host.Outcome State Fault Refusal :=
  .next (State.settle (s.mbxWork 0x0001 0 State.mbxGetStatus))

/-- SET_MODE (R509): The mailbox command asks for a mode transition. -/
def execSetMode (s : State) : Host.Outcome State Fault Refusal :=
  .next (State.settle (s.mbxWork 0x0010 4 State.mbxSetMode))

/-- MBX_POWER (R509): The mailbox POWER command asks for a power state. -/
def execMbxPower (s : State) : Host.Outcome State Fault Refusal :=
  .next (State.settle (s.mbxWork 0x0011 4 State.mbxPower))

/-- SURVEY (R265): The mailbox command sets the survey duration and limit. -/
def execSurvey (s : State) : Host.Outcome State Fault Refusal :=
  .next (State.settle (s.mbxWork 0x0020 8 State.mbxSurvey))

/-- SET_POSITION (R266): The mailbox command loads a fixed position. -/
def execSetPosition (s : State) : Host.Outcome State Fault Refusal :=
  .next (State.settle (s.mbxWork 0x0021 24 State.mbxSetPosition))

/-- SET_GEOMETRY (R509): The mailbox command loads the antenna geometry and frame. -/
def execSetGeometry (s : State) : Host.Outcome State Fault Refusal :=
  .next (State.settle (s.mbxWork 0x0030 60 State.mbxSetGeometry))

/-- LOAD_GRATICULE (R107): The mailbox command loads a Graticule image, checked under R107. -/
def execLoadGraticule (s : State) : Host.Outcome State Fault Refusal :=
  .next (State.settle (s.mbxWork 0x0031 16 State.mbxLoadGraticule))

/-- PTP_CONFIG (R509): The mailbox command sets the clock identity, Announce data and port enables. -/
def execPtpConfig (s : State) : Host.Outcome State Fault Refusal :=
  .next (State.settle (s.mbxWork 0x0040 23 State.mbxPtpConfig))

/-- PTP_SESSION (R509): The mailbox command runs a session-table operation. -/
def execPtpSession (s : State) : Host.Outcome State Fault Refusal :=
  .next (State.settle (s.mbxWork 0x0041 72 State.mbxPtpSession))

/-- MBX_PAIR (R509): The mailbox PAIR command issues a PAIR_CMD operation. -/
def execMbxPair (s : State) : Host.Outcome State Fault Refusal :=
  .next (State.settle (s.mbxWork 0x0050 4 State.mbxPair))

/-- MBX_QUOTE (R509): The mailbox QUOTE command returns a signed time quote. -/
def execMbxQuote (s : State) : Host.Outcome State Fault Refusal :=
  .next (State.settle (s.mbxWork 0x0060 32 State.mbxQuote))

/-- FW_UPDATE (R509): The mailbox command verifies and installs a firmware class image. -/
def execFwUpdate (s : State) : Host.Outcome State Fault Refusal :=
  .next (State.settle (s.mbxWork 0x0070 16 State.mbxFwUpdate))

/-- GET_LOG (R509): The mailbox command returns Tocsin log or retained FATAL records. -/
def execGetLog (s : State) : Host.Outcome State Fault Refusal :=
  .next (State.settle (s.mbxWork 0x0080 8 State.mbxGetLog))

/-- NMEA_CONFIG (R502): The mailbox command configures NMEA output on UART1. -/
def execNmeaConfig (s : State) : Host.Outcome State Fault Refusal :=
  .next (State.settle (s.mbxWork 0x0090 12 State.mbxNmeaConfig))

end Sys2Proof.Machine
end

