-- ==== Sys2Proof/Machine/ExecMem.lean ====
section
/-! DEFINITION. The commands of the shared memory banks (chapter 16). -/

namespace Sys2Proof.Machine

/-- HANDOVER_WRITE (R398): A write of a new OWNER to MEM_OWNERnn is accepted or refused, then waits for the writer's
stores. -/
def execHandoverWrite (init b w : Nat) (s : State) : Host.Outcome State Fault Refusal :=
  .next (State.settle (s.ownerCommand init b w true))

/-- HANDOVER_COMPLETE (R399): Earlier accesses drain, and the new owner and flags take effect with PENDING cleared. -/
def execHandoverComplete (b : Nat) (s : State) : Host.Outcome State Fault Refusal :=
  .next (State.settle (((s.handComplete b).cmdpiRelease).hostResume))

/-- OWNER_FLAGS_WRITE (R398): A write of the same OWNER changes DMA_DELEGATE, DMA_RDONLY and ROT at once. -/
def execOwnerFlagsWrite (init b w : Nat) (s : State) : Host.Outcome State Fault Refusal :=
  .next (State.settle (s.ownerCommand init b w false))

/-- BANK_ACCESS (R542): An access to shared SRAM is checked for span, ownership, alignment and ECC and served by
slot arbitration. -/
def execBankAccess (ecc : Option (Nat × Bool)) (p d : Option BankReq) (s : State) : Host.Outcome State Fault Refusal :=
  .next (State.settle (s.bankCommand ecc p d))

/-- SCRUB_TICK (R402): Every SCRUB.PERIOD the scrubber reads one word per bank and rewrites corrected words. -/
def execScrubTick (busy : List Nat) (s : State) : Host.Outcome State Fault Refusal :=
  .next (State.settle (s.scrubTick busy))

end Sys2Proof.Machine
end

