-- ==== Sys2Proof/Machine/ExecNym.lean ====
section
/-! DEFINITION. The commands of Nymvis (chapter 17): a service is asked for by a write of NYM_CMDc, and NYM_REQUEST_DONE carries it out. -/

namespace Sys2Proof.Machine

/-- GET_INFO (R425): Nymvis returns the lifecycle, module version, APPROVED and SVN counters. -/
def execGetInfo (init ch : Nat) (s : State) : Host.Outcome State Fault Refusal :=
  .next (State.settle (s.nymStart init ch .getInfo))

/-- SELF_TEST (R428): Nymvis runs its self-tests on demand and may leave the error state. -/
def execSelfTest (init ch : Nat) (s : State) : Host.Outcome State Fault Refusal :=
  .next (State.settle (s.nymStart init ch .selfTest))

/-- CO_NONCE (R423): Nymvis issues a fresh 32-byte nonce that replaces the previous one. -/
def execCoNonce (init ch : Nat) (s : State) : Host.Outcome State Fault Refusal :=
  .next (State.settle (s.nymStart init ch .coNonce))

/-- AUTH_USER (R423): A channel authenticates as User with an HMAC over a fresh nonce. -/
def execAuthUser (init ch idx : Nat) (s : State) : Host.Outcome State Fault Refusal :=
  .next (State.settle (s.nymStart init ch (.authUser idx)))

/-- AUTH_END (R423): A channel ends its User authentication. -/
def execAuthEnd (init ch : Nat) (s : State) : Host.Outcome State Fault Refusal :=
  .next (State.settle (s.nymStart init ch .authEnd))

/-- AUTH_TIMEOUT (R423): 300 s pass without a request on an authenticated channel and the authentication ends. -/
def execAuthTimeout (ch : Nat) (s : State) : Host.Outcome State Fault Refusal :=
  .next (State.settle (s.authTimeout ch))

/-- GET_CARTOUCHE (R439): Nymvis returns the DER certificate chain in the buffer. -/
def execGetCartouche (init ch : Nat) (s : State) : Host.Outcome State Fault Refusal :=
  .next (State.settle (s.nymStart init ch .getCartouche))

/-- HASH (R425): Nymvis computes the SHA-256 of the buffer. -/
def execHash (init ch : Nat) (s : State) : Host.Outcome State Fault Refusal :=
  .next (State.settle (s.nymStart init ch .hash))

/-- HMAC (R425): Nymvis computes HMAC-SHA-256 with a supplied key. -/
def execHmac (init ch : Nat) (s : State) : Host.Outcome State Fault Refusal :=
  .next (State.settle (s.nymStart init ch .hmac))

/-- CMAC (R425): Nymvis computes AES-256 CMAC with a supplied key. -/
def execCmac (init ch : Nat) (s : State) : Host.Outcome State Fault Refusal :=
  .next (State.settle (s.nymStart init ch .cmac))

/-- GCM (R425): Nymvis encrypts or decrypts the buffer with AES-256 GCM. -/
def execGcm (init ch : Nat) (decrypt : Bool) (slot : Nat) (iv tag : List Byte) (s : State) : Host.Outcome State Fault Refusal :=
  .next (State.settle (s.nymStart init ch (.gcm decrypt slot iv tag)))

/-- VERIFY (R425): Nymvis verifies an ECDSA P-256 signature. -/
def execVerify (init ch : Nat) (s : State) : Host.Outcome State Fault Refusal :=
  .next (State.settle (s.nymStart init ch .verify))

/-- RANDOM (R425): Nymvis returns up to 64 bytes of DRBG output. -/
def execRandom (init ch count : Nat) (s : State) : Host.Outcome State Fault Refusal :=
  .next (State.settle (s.nymStart init ch (.random count)))

/-- QUOTE (R442): Nymvis captures TBU time and signs a 224-byte time quote. -/
def execQuote (init ch : Nat) (s : State) : Host.Outcome State Fault Refusal :=
  .next (State.settle (s.nymStart init ch .quote))

/-- LOAD_IMAGE (R436): Nymvis verifies a class image in the buffer. -/
def execLoadImage (init ch : Nat) (s : State) : Host.Outcome State Fault Refusal :=
  .next (State.settle (s.nymStart init ch (.loadImage false)))

/-- INSTALL_IMAGE (R438): LOAD_IMAGE with INSTALL writes the verified segments into held cores and updates the
measurement. -/
def execInstallImage (init ch : Nat) (s : State) : Host.Outcome State Fault Refusal :=
  .next (State.settle (s.nymStart init ch (.loadImage true)))

/-- ADVANCE_SVN (R437): Nymvis raises a class anti-rollback counter to the running SVN. -/
def execAdvanceSvn (init ch cls : Nat) (s : State) : Host.Outcome State Fault Refusal :=
  .next (State.settle (s.nymStart init ch (.advanceSvn cls)))

/-- OSNMA_KROOT (R444): Nymvis verifies a DSM-KROOT against the stored Merkle root. -/
def execOsnmaKroot (init ch : Nat) (s : State) : Host.Outcome State Fault Refusal :=
  .next (State.settle (s.nymStart init ch .osnmaKroot))

/-- ZEROISE_SESSION (R430): Nymvis zeroises the session items of Table 17-3. -/
def execZeroiseSession (init ch : Nat) (s : State) : Host.Outcome State Fault Refusal :=
  .next (State.settle (s.nymStart init ch .zeroiseSession))

/-- TAKE_OWNERSHIP (R432): CO_COMMAND moves PROVISIONED to OWNED and writes owner slot 0. -/
def execTakeOwnership (init ch : Nat) (keyHash : List Byte) (ownerReq : Bool) (s : State) : Host.Outcome State Fault Refusal :=
  .next (State.settle (s.nymStart init ch (.co (some (.takeOwnership keyHash ownerReq)))))

/-- ROTATE_OWNER (R432): CO_COMMAND writes the next owner slot and revokes the previous one. -/
def execRotateOwner (init ch : Nat) (keyHash : List Byte) (s : State) : Host.Outcome State Fault Refusal :=
  .next (State.settle (s.nymStart init ch (.co (some (.rotateOwner keyHash)))))

/-- RMA (R432): CO_COMMAND or a Lanidan token moves the lifecycle to RMA and zeroises the key store. -/
def execRma (init ch : Nat) (token : Bool) (s : State) : Host.Outcome State Fault Refusal :=
  .next (State.settle (s.nymStart init ch (.co (some (.rma token)))))

/-- SCRAP (R432): The lifecycle moves to SCRAPPED, destroying the PUF data and the Cartouche key. -/
def execScrap (init ch : Nat) (token : Bool) (s : State) : Host.Outcome State Fault Refusal :=
  .next (State.settle (s.nymStart init ch (.co (some (.scrap token)))))

/-- DEBUG_GRANT (R433): CO_COMMAND opens DBG to every core except NYC until reset. -/
def execDebugGrant (init ch : Nat) (s : State) : Host.Outcome State Fault Refusal :=
  .next (State.settle (s.nymStart init ch (.co (some .debugGrant))))

/-- INSTALL_USER_KEY (R440): An encrypted User key is entered under a CDH-derived KEK. -/
def execInstallUserKey (init ch idx : Nat) (eph wrapped : List Byte) (s : State) : Host.Outcome State Fault Refusal :=
  .next (State.settle (s.nymStart init ch (.co (some (.userKey idx eph wrapped)))))

/-- INSTALL_PTP_KEY (R443): An encrypted PTP key is entered and loaded into its engine slot. -/
def execInstallPtpKey (init ch slot : Nat) (eph wrapped : List Byte) (keyId spp : Nat) (s : State) : Host.Outcome State Fault Refusal :=
  .next (State.settle (s.nymStart init ch (.co (some (.ptpKey slot eph wrapped keyId spp)))))

/-- ZEROISE (R430): CO_COMMAND ZEROISE overwrites the keys and clears the PTP slots. -/
def execZeroise (init ch : Nat) (s : State) : Host.Outcome State Fault Refusal :=
  .next (State.settle (s.nymStart init ch (.co (some .zeroise))))

/-- PAIR_BIND (R441): CO_COMMAND stores a pair-binding record. -/
def execPairBind (init ch version : Nat) (own peer clock : List Byte) (s : State) : Host.Outcome State Fault Refusal :=
  .next (State.settle (s.nymStart init ch (.co (some (.pairBind version own peer clock)))))

/-- SERVICE_GRANT (R440): CO_COMMAND stores a single-use grant for entry to SERVICE. -/
def execServiceGrant (init ch : Nat) (s : State) : Host.Outcome State Fault Refusal :=
  .next (State.settle (s.nymStart init ch (.co (some .serviceGrant))))

/-- OSNMA_ROOT (R440): CO_COMMAND stores the OSNMA Merkle tree root. -/
def execOsnmaRoot (init ch : Nat) (root : List Byte) (s : State) : Host.Outcome State Fault Refusal :=
  .next (State.settle (s.nymStart init ch (.co (some (.osnmaRoot root)))))

/-- SET_POLICY (R440): CO_COMMAND sets OWNER_REQ. -/
def execSetPolicy (init ch : Nat) (ownerReq : Bool) (s : State) : Host.Outcome State Fault Refusal :=
  .next (State.settle (s.nymStart init ch (.co (some (.setPolicy ownerReq)))))

/-- TAMPER_TRIP (R445): A voltage, temperature or clock sensor trips, which zeroises the RAM CSPs and enters the
error state. -/
def execTamperTrip (sensor : Nat) (s : State) : Host.Outcome State Fault Refusal :=
  .next (State.settle (s.tamperTrip sensor))

/-- HOST_BUNDLE_READY (R434): The host writes the boot word at the last word of B21 and Nymvis takes the banks back
to verify. -/
def execHostBundleReady (s : State) : Host.Outcome State Fault Refusal :=
  .next (State.settle (s.hostBundle))

/-- BUNDLE_VERIFIED (R436): Bundle verification ends, MC is released, or the bundle is rejected. -/
def execBundleVerified (a b : List Byte) (keyStoreOk : Bool) (s : State) : Host.Outcome State Fault Refusal :=
  .next (State.settle (s.bootVerified a b keyStoreOk))

/-- POWER_ON_SELF_TESTS_DONE (R428): The power-on self-tests of NYC finish at every start of NYC, which enters the
error state on failure or begins the bundle fetch. -/
def execPowerOnSelfTestsDone (pass : Bool) (s : State) : Host.Outcome State Fault Refusal :=
  .next (State.settle (s.nymStarted pass))

/-- NYM_REQUEST_DONE (R424): Nymvis finishes a service request, writes the output words and RESULT, clears BUSY,
sets the channel's IRQ_RAW bit and hands back the buffer banks. -/
def execNymRequestDone (ch : Nat) (pass : Bool) (s : State) : Host.Outcome State Fault Refusal :=
  .next (State.settle (s.nymDone ch pass))

/-- TAMPER_CONDITION_CLEARED (R445): A voltage, temperature or clock condition that tripped a tamper sensor goes
away, which clears its NYM_TAMPER.NOW bit. -/
def execTamperConditionCleared (sensor : Nat) (s : State) : Host.Outcome State Fault Refusal :=
  .next (State.settle (s.tamperClear sensor))

end Sys2Proof.Machine
end

