-- ==== Sys2Proof/Machine/Epoch.lean ====
section
/-! DEFINITION. The firing of Drumline triggers and their targets (R287 to R289, Table 11-1), the measurement epoch (R17,
R29, R275), and the measured status fields of R546. -/

namespace Sys2Proof.Machine
namespace State

/-- Instant `i` of trigger n has not fired, and an instant lies strictly between the time before a forward step and the
time after it (R287). -/
def trigSkips (s : State) (n i : Nat) : Option (Nat × Nat) → Bool
  | none => false
  | some (b, a) => decide (i * tuNs < a ∧ instantAfter (s.trigP n) (s.trigF n) (b / tuNs) * tuNs < a)

/-- The instant that a firing of trigger n carries now, in ns, and whether it is a SKIP firing; `none` when none is due. After
a step past instants it is the latest one that the step reached or passed. -/
def trigDue (s : State) (n : Nat) : Option (Nat × Bool) :=
  if s.drlLive then
    match (s.trigGet n).next with
    | none => none
    | some i =>
      if s.nowNs < i then none
      else if s.trigSkips n i s.tbu.stepSpan then
        match s.tbu.stepSpan with
        | none => none
        | some (_, a) => some ((instantUpTo (s.trigP n) (s.trigF n) (a / tuNs)).getD i, true)
      else some (i, false)
  else none

/-- TOUT k is selected by trigger n and makes an edge for a firing of its mode (R292), unless a forward step passed the edge's own
instant (R545). -/
def toutStart (n i : Nat) (s : State) (k : Nat) : State :=
  let md := s.fld (F.TIO_TOUTCFG_MODE k)
  let x : OutStart := ⟨i, (i * 40 + s.fld (F.TIO_TOUTDLY_DELAY k) : Nat), decide (i % 1000000000 = s.trigF n % 1000000000), none⟩
  if s.tioRuns ∧ s.fld (F.TIO_TOUTCFG_DRL k) = n ∧ (md = 1 ∨ md = 2) ∧ !(s.stepOver x) then
    let p := s.tio.tout.getD k OutPin.reset
    { s with tio := { s.tio with tout := s.tio.tout.set k { p with starts := p.starts ++ [x] } } }
  else s

/-- One firing of trigger n at instant `i` ns: what every target but the epoch does (Table 11-1). `off` is the time from
the instant to the first SAMP edge in 2^-16 ns, `samp` the SAMP edges from now up to it. -/
def trigFire (s : State) (n i : Nat) (skip : Bool) (off samp : Nat) : State :=
  let s := (s.irq P.DRL n).addFld (F.DRL_STAT_COUNT n) 1
  let s := if skip then (s.setFlag (F.DRL_STAT_SKIP n) true).sticky P.DRL 9 n else s
  let s := if skip then s else ((List.range 8).foldl (toutStart n i) s).pinsDue
  let s := if s.domRuns 2 then
      s.capEvent (fun c => s.fld (F.DFE_CAPTRIG_START c) = 1 && s.fld (F.DFE_CAPTRIG_DRL_IDX c) = n) (some (i * 65536 + off)) samp
    else s
  let s := if s.fld F.AUX_ADCCFG_DRL = n then s.adcFire i else s
  let s := if s.fld F.AUX_DACCFG_DRL = n then s.dacFire else s
  let s := s.dmaEvents 1 n
  let s := if s.fld F.PTP_CFG_DRL = n then ((s.handoverTick (tickOf i)).ptpTick i).tickMirror i else s
  let c := s.fld (F.DRL_CFG_CORE n)
  if c ≤ 10 then s.coreLine c 2 else s

/-- After a firing has acted, the trigger's S fields transfer and it arms for the next instant of its settings (R288);
SHADOW_HOLD suspends the transfer (R53). -/
def trigRearm (s : State) (n i : Nat) : State :=
  let t := if s.hold P.DRL then s else s.trigTransfer n
  t.trigSet n ⟨if t.flag (F.DRL_CFG_EN n) then some (instantAfter (t.trigP n) (t.trigF n) i) else none, some i⟩

/-- XBAR's commit point with what it changes in the fabric and in Carillon's plans (R162, R185, Table 8-9). -/
def epochXbar (s : State) : State :=
  if s.hold P.XBAR ∨ !(s.commitPending P.XBAR) then s
  else
    let t := (streamChanges s s.xbarEpoch).corXbar
    if (List.range 64).all fun j => s.streamRate j = t.streamRate j then t else t.ratesChanged

/-- The measurement epoch of instant `i` ns: the latch (R17, R207, R282), the mode transitions that take effect at it (R29),
the TBU commit in the order of R275, the epoch's commit points (Table 2-5), and the epoch's solution. `mode0` is the mode before
the cycle; a takeover of the same cycle comes before automatic transitions and commands (R346). -/
def epochAct (s : State) (i mode0 : Nat) (e : EpochIn) : State :=
  let s := s.commitPoint P.SYS
  let s := if s.domRuns 2 then
      let at_ := (s.tbu.samp + e.samp) % 2 ^ 48
      let t := (s.epLatch (i * 65536 + e.off) at_).calLatch at_
      t.capEvent (fun c => t.fld (F.DFE_CAPTRIG_START c) = 2) (some (i * 65536 + e.off)) e.samp
    else s
  let s := if !(s.gated P.COR) && !(s.inReset P.COR) && s.domRuns 3 then
      let at_ := (s.tbu.samp + e.samp) % 2 ^ 48
      ((s.slotsAtLatch at_).foldl chsCodeEpoch s).corLatch at_
    else s
  let s := s.modeEpoch i s.sys.solved.1 s.sys.solved.2 (s.mode ≠ mode0 || s.pair.tookAt = some s.tbu.time)
  ((s.tbuCommit.epochXbar).corCommitPages).epochSolve i e.verdict e.sol

/-- TRIGGER_FIRE: time advances by `dt` TIME and `ds` SAMP cycles, every trigger whose instant is reached or passed fires
once, and the epoch acts after the firings (R275, R287). -/
def triggerFire (s : State) (dt ds : Nat) (e : EpochIn) : State :=
  let s := s.advance dt ds
  let due := (List.range 32).filterMap fun n => (s.trigDue n).map fun x => (n, x)
  let m := s.mode
  let s := due.foldl (fun (t : State) x => t.trigFire x.1 x.2.1 x.2.2 e.off e.samp) s
  let s := { s with tbu := { s.tbu with stepSpan := none } }
  let s := match due.find? fun x => x.1 = s.fld F.COR_CTL_EPOCH_DRL with
    | some x => s.epochAct x.2.1 m e
    | none => s
  (due.foldl (fun (t : State) x => t.trigRearm x.1 x.2.1) s).wakeShadow

/-- A time-driven command: time advances by `dt` TIME and `ds` SAMP cycles, and the command acts. -/
def after (s : State) (dt ds : Nat) (act : State → State) : State := act (s.advance dt ds)

/-- MEASUREMENT_SAMPLE: the interval of a measured status field expires (R546). -/
def measured (s : State) : Measured → State
  | .vant v => s.setFld F.ANT_VANT_VOLT v
  | .feed n c v => if n < 8 then ((s.setFld (F.ANT_MEAS_CUR n) c).setFld (F.ANT_MEAS_VOUT n) v).antLimiting n c else s
  | .vbat v => s.setFld F.AON_VBAT_VBAT v

end State
end Sys2Proof.Machine
end

