-- ==== Sys2Proof/Machine/ExecPages.lean ====
section
/-! DEFINITION. The commands of register space and of the measurement epoch (chapters 1 and 2): writes and reads of a register, the common header, the mode command, and measured fields. -/

namespace Sys2Proof.Machine

/-- REGISTER_WRITE (R50): A write to a register that has no row of its own, applied under the field's access code
and update class and checked for width, rights, lock and mapping. -/
def execRegisterWrite (init addr width value : Nat) (s : State) : Host.Outcome State Fault Refusal :=
  .next (State.settle (s.busWrite init addr width (BitVec.ofNat 32 value)))

/-- RC_FIELD_READ (R14): A read of an RC field returns its value and then clears that field. -/
def execRcFieldRead (init addr width : Nat) (s : State) : Host.Outcome State Fault Refusal :=
  .next (State.settle (s.busRead init addr width))

/-- TBU_NOW_READ (R282): A read of TBU_NOW0 captures the TBU time and the SAMP count of one TIME cycle in TBU_NOW1
to TBU_NOW5. -/
def execTbuNowRead (init : Nat) (s : State) : Host.Outcome State Fault Refusal :=
  .next (State.settle (s.busRead init R.TBU_NOW0 4))

/-- RTC_CNT_READ (R14): A read of RTC_CNT0 latches RTC_CNT1 and RTC_SUB at the same edge. -/
def execRtcCntRead (init : Nat) (s : State) : Host.Outcome State Fault Refusal :=
  .next (State.settle (s.busRead init R.RTC_CNT0 4))

/-- RTC_CAL_READ (R14): A read of RTC_CAL0 latches RTC_CAL1. -/
def execRtcCalRead (init : Nat) (s : State) : Host.Outcome State Fault Refusal :=
  .next (State.settle (s.busRead init R.RTC_CAL0 4))

/-- AON_RAW_READ (R14): A read of AON_RAW0 latches AON_RAW1. -/
def execAonRawRead (init : Nat) (s : State) : Host.Outcome State Fault Refusal :=
  .next (State.settle (s.busRead init R.AON_RAW0 4))

/-- ACQ_CELLS_READ (R14): A read of ACQ_CELLSLO latches ACQ_CELLSHI. -/
def execAcqCellsRead (init : Nat) (s : State) : Host.Outcome State Fault Refusal :=
  .next (State.settle (s.busRead init R.ACQ_CELLSLO 4))

/-- UART_DATA_READ (R14): A read of UART_DATAu pops the next received byte from the receive FIFO. -/
def execUartDataRead (init u : Nat) (s : State) : Host.Outcome State Fault Refusal :=
  .next (State.settle (if u < 2 then s.busRead init (R.UART_DATA u) 4 else s))

/-- UART_DATA_WRITE (R501): A write of UART_DATAu pushes a byte into the transmit FIFO. -/
def execUartDataWrite (init u value : Nat) (s : State) : Host.Outcome State Fault Refusal :=
  .next (State.settle (if u < 2 then s.via init (R.UART_DATA u) fun t => t.uartPush u value else s))

/-- QSPI_DATA_ACCESS (R14): An access to QSPI_DATA moves the next word through the 256-byte QSPI FIFO. -/
def execQspiDataAccess (init : Nat) (write : Bool) (value : Nat) (s : State) : Host.Outcome State Fault Refusal :=
  .next (State.settle (if write then s.via init R.QSPI_DATA fun t => t.qspiPush value else s.busRead init R.QSPI_DATA 4))

/-- PTP_RXDATA_READ (R321): A read of PTP_RXDATA returns the next four octets of the oldest receive FIFO entry. -/
def execPtpRxdataRead (init : Nat) (s : State) : Host.Outcome State Fault Refusal :=
  .next (State.settle (s.busRead init R.PTP_RXDATA 4))

/-- PMU_RETDATA_ACCESS (R14): An access to PMU_RETDATA reads or writes firmware word INDEX of the retention list and
advances INDEX. -/
def execPmuRetdataAccess (init : Nat) (write : Bool) (value : Nat) (s : State) : Host.Outcome State Fault Refusal :=
  .next (State.settle (if write then s.via init R.PMU_RETDATA fun t => (t.retData (some value)).1 else s.busRead init R.PMU_RETDATA 4))

/-- ENABLE_WRITE (R45): A write of PAGE_CTRL.ENABLE starts a block, or stops it at its stop point. -/
def execEnableWrite (init page : Nat) (on : Bool) (s : State) : Host.Outcome State Fault Refusal :=
  .next (State.settle (if page % 4096 = 0 then s.busWrite init (R.PAGE_CTRL page) 4 (putBits (s.reg (R.PAGE_CTRL page) &&& ~~~2) 0 1 (b2n on)) else s))

/-- BLOCK_STOPPED (R45): A block that was told to stop reaches its stop point after its drain and clears RUNNING. -/
def execBlockStopped (page : Nat) (s : State) : Host.Outcome State Fault Refusal :=
  .next (State.settle (s.blockStopped page))

/-- SOFT_RESET (R47): A write of 1 to PAGE_CTRL.SOFT_RESET starts a block reset: it discards shadows, clears IRQ_RAW
and sets ENABLE to 0. -/
def execSoftReset (init page : Nat) (s : State) : Host.Outcome State Fault Refusal :=
  .next (State.settle (if page % 4096 = 0 then s.busWrite init (R.PAGE_CTRL page) 4 (s.reg (R.PAGE_CTRL page) ||| 2) else s))

/-- SOFT_RESET_DONE (R47): A soft reset completes, and SOFT_RESET and IN_RESET read 0. -/
def execSoftResetDone (page : Nat) (s : State) : Host.Outcome State Fault Refusal :=
  .next (State.settle (s.softDone page))

/-- PAGE_COMMIT (R54): A write of 0xC0DE_0001 to PAGE_COMMIT transfers the page's shadowed fields. -/
def execPageCommit (init page value : Nat) (s : State) : Host.Outcome State Fault Refusal :=
  .next (State.settle (if page % 4096 = 0 then s.busWrite init (R.PAGE_COMMIT page) 4 (BitVec.ofNat 32 value) else s))

/-- PAGE_LOCK (R56): A write to PAGE_LOCK locks the page, or unlocks it when the writer is NYM. -/
def execPageLock (init page value : Nat) (s : State) : Host.Outcome State Fault Refusal :=
  .next (State.settle (if page % 4096 = 0 then s.busWrite init (R.PAGE_LOCK page) 4 (BitVec.ofNat 32 value) else s))

/-- MEASUREMENT_SAMPLE (R546): The interval of a measured status field expires and the field takes the new
measurement. -/
def execMeasurementSample (m : Measured) (s : State) : Host.Outcome State Fault Refusal :=
  .next (State.settle (s.measured m))

/-- EVICT_READ (R224): A read of CHS2_EVICT removes the oldest eviction entry. -/
def execEvictRead (init : Nat) (s : State) : Host.Outcome State Fault Refusal :=
  .next (State.settle (s.busRead init R.CHS2_EVICT 4))

/-- MODE_COMMAND (R31): MC writes SYS_MODECMD.GO, which posts TARGET into the single pending command slot. -/
def execModeCommand (init target : Nat) (s : State) : Host.Outcome State Fault Refusal :=
  .next (State.settle (s.via init R.SYS_MODECMD fun t => t.modeCommand (target % 8)))

end Sys2Proof.Machine
end

