-- ==== Sys2Proof/Machine/ExecPair.lean ====
section
/-! DEFINITION. The commands of the pair link (chapter 13). -/

namespace Sys2Proof.Machine

/-- ROLE_PRIMARY (R332): PAIR_CMD role PRIMARY sets ROLE, or is refused while the peer is alive or attestation has
not passed. -/
def execRolePrimary (init : Nat) (s : State) : Host.Outcome State Fault Refusal :=
  .next (State.settle (s.via init R.PAIR_CMD fun t => t.rolePrimary init))

/-- ROLE_SECONDARY (R332): PAIR_CMD role SECONDARY sets ROLE to SECONDARY. -/
def execRoleSecondary (init : Nat) (s : State) : Host.Outcome State Fault Refusal :=
  .next (State.settle (s.via init R.PAIR_CMD fun t => t.roleSecondary))

/-- ROLE_NONE (R332): PAIR_CMD role NONE sets ROLE to NONE. -/
def execRoleNone (init : Nat) (s : State) : Host.Outcome State Fault Refusal :=
  .next (State.settle (s.via init R.PAIR_CMD fun t => t.roleNone))

/-- TAKEOVER_COMMAND (R340): PAIR_CMD TAKEOVER starts a COMMAND takeover, or a PLANNED takeover request. -/
def execTakeoverCommand (init : Nat) (s : State) : Host.Outcome State Fault Refusal :=
  .next (State.settle (s.via init R.PAIR_CMD fun t => t.takeoverCommand))

/-- RE_ATTEST (R333): PAIR_CMD re-attest starts a new mutual attestation. -/
def execReAttest (init : Nat) (s : State) : Host.Outcome State Fault Refusal :=
  .next (State.settle (s.via init R.PAIR_CMD fun t => t.reAttest))

/-- PAIR_LINK_UP (R333): Both pair lanes reach frame lock and attestation starts. -/
def execPairLinkUp (s : State) : Host.Outcome State Fault Refusal :=
  .next (State.settle (s.pairLinkUp))

/-- PAIR_LINK_DOWN (R340): The pair link drops, which stops mirroring without a takeover. -/
def execPairLinkDown (s : State) : Host.Outcome State Fault Refusal :=
  .next (State.settle (s.pairLinkDown))

/-- ATT_DONE (R333): The mutual attestation ends with PASSED or FAILED. -/
def execAttDone (chain sig : Bool) (id : List Byte) (peer : Bool) (s : State) : Host.Outcome State Fault Refusal :=
  .next (State.settle (s.attDone (s.attPeer chain sig id && peer)))

/-- HEARTBEAT_PULSE (R331): At each whole TBU millisecond a PRIMARY pulls PAIR_HB low for 50 µs. -/
def execHeartbeatPulse (s : State) : Host.Outcome State Fault Refusal :=
  .next (State.settle (s.heartbeatPulse))

/-- TIMING_FRAME_SEND (R335): A device sends its timing frame on lane 0 each millisecond. -/
def execTimingFrameSend (s : State) : Host.Outcome State Fault Refusal :=
  .next (State.settle (s.timingSend))

/-- TIMING_FRAME_RECEIVE (R335): A timing frame is received and the secondary updates OFFSET and RTT. -/
def execTimingFrameReceive (t1 t4 : Nat) (s : State) : Host.Outcome State Fault Refusal :=
  .next (State.settle (s.timingReceive t1 t4))

/-- FAIL_FAST_DETECT (R340): PAIR_HB has stayed low for 200 µs and the secondary takes over with cause 1. -/
def execFailFastDetect (s : State) : Host.Outcome State Fault Refusal :=
  .next (State.settle (s.failFast))

/-- MISSED_HEARTBEAT (R340): Three whole milliseconds pass without a pulse or a timing frame and the secondary takes
over with cause 2. -/
def execMissedHeartbeat (s : State) : Host.Outcome State Fault Refusal :=
  .next (State.settle (s.missedHeartbeat))

/-- PAIR_FENCE (R345): A primary receiving a takeover request or announcement becomes SECONDARY and silences its
outputs. -/
def execPairFence (request : Bool) (s : State) : Host.Outcome State Fault Refusal :=
  .next (State.settle (s.pairFence request))

/-- PLANNED_TAKEOVER_TIMEOUT (R344): No reply to a takeover request within 3 ms, and the takeover proceeds as
COMMAND. -/
def execPlannedTakeoverTimeout (s : State) : Host.Outcome State Fault Refusal :=
  .next (State.settle (s.takeoverTimeout))

/-- MIRROR_SEND (R337): A write of PAIR_MTXCMD.GO sends a firmware mirror block to the secondary. -/
def execMirrorSend (init : Nat) (s : State) : Host.Outcome State Fault Refusal :=
  .next (State.settle (s.via init R.PAIR_MTXCMD fun t => t.mirrorSend))

/-- MTXDATA_PUSH (R337): A write to PAIR_MTXDATA pushes four octets of a mirror block. -/
def execMtxdataPush (init w : Nat) (s : State) : Host.Outcome State Fault Refusal :=
  .next (State.settle (s.via init R.PAIR_MTXDATA fun t => t.mtxPush w))

/-- MIRROR_RECEIVE (R337): The secondary writes a received mirror block into its mirror ring. -/
def execMirrorReceive (type : Nat) (octets : List Byte) (mode qual : Nat) (s : State) : Host.Outcome State Fault Refusal :=
  .next (State.settle (if octets.length ≤ 256 then s.mirrorReceive type octets mode qual else s))

/-- SESSION_MIRROR_RECEIVE (R337): The secondary writes a received table change or sequence block into its session
table. -/
def execSessionMirrorReceive (m : MirrorMsg) (s : State) : Host.Outcome State Fault Refusal :=
  .next (State.settle (s.sessionMirror m))

/-- MIRROR_ACK (R338): The secondary's acknowledgement lets a primary PTP_SESSCMD complete. -/
def execMirrorAck (s : State) : Host.Outcome State Fault Refusal :=
  .next (State.settle (s.mirrorAck))

/-- PAIR_HB_EDGE (R331): The peer pulls PAIR_HB low or releases it, which is seen as a heartbeat pulse or as the
start of a fail-fast low. -/
def execPairHbEdge (low : Bool) (s : State) : Host.Outcome State Fault Refusal :=
  .next (State.settle (s.pairHbEdge low))

/-- HEARTBEAT_WINDOW_END (R340): 100 µs after each whole TBU millisecond the device judges whether a peer pulse or
timing frame arrived, updating PAIR_STAT.MISS and HB_OK and setting HB_LINE when only the frame came. -/
def execHeartbeatWindowEnd (s : State) : Host.Outcome State Fault Refusal :=
  .next (State.settle (s.heartbeatWindow))

/-- TAKEOVER_REPLY_RECEIVE (R344): The secondary receives the primary's reply to a takeover request, which names the
handover tick k_h. -/
def execTakeoverReplyReceive (sec k : Nat) (s : State) : Host.Outcome State Fault Refusal :=
  .next (State.settle (s.takeoverReply sec k))

end Sys2Proof.Machine
end

