-- ==== Sys2Proof/Machine/ExecPower.lean ====
section
/-! DEFINITION. The commands of the power-management unit and the clock tree (chapter 18). -/

namespace Sys2Proof.Machine

/-- OPP_ANNOUNCE (R239): The PMU sets CHS_OPP.REQ and Carillon re-plans for the lower budget until CLEAR. -/
def execOppAnnounce (s : State) : Host.Outcome State Fault Refusal :=
  .next (State.settle (s.oppAnnounceAgain))

/-- OPP_CLEAR_TIMEOUT (R239): CHS_OPP.WAIT expires without CLEAR and the PMU proceeds, setting OPP_TIMEOUT. -/
def execOppClearTimeout (s : State) : Host.Outcome State Fault Refusal :=
  .next (State.settle (s.oppClearTimeout))

/-- POWER_REQ_RUN (R452): PMU_REQ RUN ends a standing IDLE request or aborts an entry. -/
def execPowerReqRun (init : Nat) (s : State) : Host.Outcome State Fault Refusal :=
  .next (State.settle (s.via init R.PMU_REQ fun t => t.powerRequest init 0))

/-- POWER_REQ_IDLE (R452): PMU_REQ IDLE places a standing request to stop the IDLEMASK domains. -/
def execPowerReqIdle (init : Nat) (s : State) : Host.Outcome State Fault Refusal :=
  .next (State.settle (s.via init R.PMU_REQ fun t => t.powerRequest init 1))

/-- POWER_REQ_SLEEP (R453): PMU_REQ SLEEP starts an entry sequence. -/
def execPowerReqSleep (init : Nat) (s : State) : Host.Outcome State Fault Refusal :=
  .next (State.settle (s.via init R.PMU_REQ fun t => t.powerRequest init 2))

/-- POWER_REQ_DEEP (R453): PMU_REQ DEEP starts an entry sequence. -/
def execPowerReqDeep (init : Nat) (s : State) : Host.Outcome State Fault Refusal :=
  .next (State.settle (s.via init R.PMU_REQ fun t => t.powerRequest init 3))

/-- POWER_REQ_OFF (R453): PMU_REQ OFF starts an entry sequence without retention. -/
def execPowerReqOff (init : Nat) (s : State) : Host.Outcome State Fault Refusal :=
  .next (State.settle (s.via init R.PMU_REQ fun t => t.powerRequest init 4))

/-- RETENTION_SAVE (R458): PMU_REQ.SAVE writes the retention list now. -/
def execRetentionSave (init : Nat) (s : State) : Host.Outcome State Fault Refusal :=
  .next (State.settle (s.via init R.PMU_REQ fun t => t.retCommand))

/-- IDLE_ENTER (R452): Every released core is in WAIT, and the IDLEMASK domains stop. -/
def execIdleEnter (s : State) : Host.Outcome State Fault Refusal :=
  .next (State.settle (s.idleEnter))

/-- IDLE_EXIT (R452): An enabled line becomes pending, and the IDLE domains restart. -/
def execIdleExit (s : State) : Host.Outcome State Fault Refusal :=
  .next (State.settle (s.idleExit))

/-- QUIESCE_DONE (R453): Cores wait, buffers drain and the NoC idles, which ends the QUIESCE phase. -/
def execQuiesceDone (s : State) : Host.Outcome State Fault Refusal :=
  .next (State.settle (s.quiesceDone))

/-- QUIESCE_TIMEOUT (R453): QTO elapses in QUIESCE and the entry aborts. -/
def execQuiesceTimeout (s : State) : Host.Outcome State Fault Refusal :=
  .next (State.settle (s.quiesceTimeout))

/-- TBU_SNAPSHOT (R283): At the first RTC edge of the TBU phase, T_e and C_e are captured. -/
def execTbuSnapshot (edges : Nat) (s : State) : Host.Outcome State Fault Refusal :=
  .next (State.settle (s.snapshotAt edges))

/-- SAVE_DONE (R453): The retention list is written with its CRC. -/
def execSaveDone (s : State) : Host.Outcome State Fault Refusal :=
  .next (State.settle (s.saveDone))

/-- ISOLATE (R453): The mode is stored, MODE is set to SAFE, the wake timer is armed and the clamps engage. -/
def execIsolate (s : State) : Host.Outcome State Fault Refusal :=
  .next (State.settle (s.isolate))

/-- POWER_DOWN_DONE (R453): The last PMBus transaction of the POWER phase completes and the state is reached. -/
def execPowerDownDone (s : State) : Host.Outcome State Fault Refusal :=
  .next (State.settle (s.powerDown))

/-- WAKE_PIN (R457): The WAKE pin holds its active level for two AON cycles, which is a wake event. -/
def execWakePin (s : State) : Host.Outcome State Fault Refusal :=
  .next (State.settle (s.wakePin))

/-- WAKE_TIMER_EXPIRY (R454): The AON wake comparator reaches its count, which is a wake event. -/
def execWakeTimerExpiry (edges : Nat) (s : State) : Host.Outcome State Fault Refusal :=
  .next (State.settle (s.wakeTimerAt edges))

/-- EXIT_WAKE_DONE (R457): VDD_PROC is valid and acknowledged or ACKTO has passed, which ends the WAKE phase. -/
def execExitWakeDone (procAck engAck : Bool) (s : State) : Host.Outcome State Fault Refusal :=
  .next (State.settle (s.exitWakeDone procAck engAck))

/-- OPP_CHANGE (R460): A write of PMU_OPP.TARGET starts or queues an operating-point change. -/
def execOppChange (init target : Nat) (s : State) : Host.Outcome State Fault Refusal :=
  .next (State.settle (s.via init R.PMU_OPP fun t => t.oppChange init target))

/-- PMBUS_TRANSACTION_DONE (R450): A PMBus transaction to a regulator completes. -/
def execPmbusTransactionDone (eng : Bool) (data : Nat) (s : State) : Host.Outcome State Fault Refusal :=
  .next (State.settle (s.pmbusDone eng data))

/-- PMBUS_ACK (R450): A polled READ_VOUT lies within 10 mV of the target, which is an acknowledgement. -/
def execPmbusAck (eng : Bool) (mv : Nat) (s : State) : Host.Outcome State Fault Refusal :=
  .next (State.settle (s.pmbusAck eng mv))

/-- PMBUS_ACK_TIMEOUT (R450): ACKTO passes without acknowledgement and PMB_TIMEOUT is set. -/
def execPmbusAckTimeout (eng : Bool) (s : State) : Host.Outcome State Fault Refusal :=
  .next (State.settle (s.pmbusTimeout eng))

/-- DVFS_SETTLE_DONE (R460): SETTLE µs after a raised voltage is acknowledged, the dividers are written. -/
def execDvfsSettleDone (s : State) : Host.Outcome State Fault Refusal :=
  .next (State.settle (s.settleDone))

/-- PMB_ALERT (R450): PMB_ALERT_N goes low and STATUS_WORD is read into PMU_PMBSTAT. -/
def execPmbAlert (low : Bool) (status : Nat) (proc : Bool) (s : State) : Host.Outcome State Fault Refusal :=
  .next (State.settle (s.pmbAlert low status proc))

/-- PROCV_WRITE (R450): A write of PMU_PROCV commands VDD_PROC at once. -/
def execProcvWrite (init value : Nat) (s : State) : Host.Outcome State Fault Refusal :=
  .next (State.settle (s.via init R.PMU_PROCV fun t => t.procvWrite value))

/-- DIVIDER_APPLY (R461): A divider change takes effect at the next 40-ROOT-cycle boundary and changes the CORR and
ACQ clocks. -/
def execDividerApply (s : State) : Host.Outcome State Fault Refusal :=
  .next (State.settle (s.dividerApply))

/-- PLL_LOCK (R463): The root PLL locks on a stable reference and sets LOCK. -/
def execPllLock (s : State) : Host.Outcome State Fault Refusal :=
  .next (State.settle (s.pllLock))

/-- XO_STABLE (R463): Twenty consecutive in-window XO counts set XO_STABLE. -/
def execXoStable (s : State) : Host.Outcome State Fault Refusal :=
  .next (State.settle (s.xoStable))

/-- REFIN_STABLE (R463): Ten consecutive in-window REF_IN counts set REFIN_STABLE. -/
def execRefinStable (s : State) : Host.Outcome State Fault Refusal :=
  .next (State.settle (s.refinStable))

/-- DOMAIN_RUN_WRITE (R464): A write of CLK_RUN starts or stops domains on a clock edge. -/
def execDomainRunWrite (init value : Nat) (s : State) : Host.Outcome State Fault Refusal :=
  .next (State.settle (s.via init R.CLK_RUN fun t => t.runWrite init value))

/-- DOMAIN_SWITCH (R465): A write of CLK_SRC stops a domain to switch its source. -/
def execDomainSwitch (init value : Nat) (s : State) : Host.Outcome State Fault Refusal :=
  .next (State.settle (s.via init R.CLK_SRC fun t => t.srcWrite init value))

/-- SWITCH_RESTART (R465): The fourth edge of the new source restarts the switched domain. -/
def execSwitchRestart (d : Nat) (s : State) : Host.Outcome State Fault Refusal :=
  .next (State.settle (s.switchRestart d))

/-- SWITCH_FORCED (R465): The old source gives no edge within the timed wait, so the switch is forced. -/
def execSwitchForced (d : Nat) (s : State) : Host.Outcome State Fault Refusal :=
  .next (State.settle (s.switchForced d))

/-- MONITOR_MEASURE (R467): A clock-monitor interval ends and its deviation is judged for trip or return. -/
def execMonitorMeasure (m : Nat) (dev : Int) (s : State) : Host.Outcome State Fault Refusal :=
  .next (State.settle (if m < 6 then s.monMeasure m dev else s))

/-- ROOT_LOCK_LOST (R467): Monitor 4's lock detector sees ROOT lose lock and the policy acts. -/
def execRootLockLost (s : State) : Host.Outcome State Fault Refusal :=
  .next (State.settle (s.rootLost))

/-- IRO_READY (R469): IRO becomes ready and a pending fallback is carried out. -/
def execIroReady (s : State) : Host.Outcome State Fault Refusal :=
  .next (State.settle (s.iroReady))

end Sys2Proof.Machine
end

