-- ==== Sys2Proof/Machine/ExecPtp.lean ====
section
/-! DEFINITION. The commands of the Ethernet ports and the PTP engine (chapter 12). -/

namespace Sys2Proof.Machine

/-- FRAME_RECEIVE (R321): A port receives a frame that is filtered by address and passed to the receive FIFO when
the engine does not consume it. -/
def execFrameReceive (f : RxFrame) (s : State) : Host.Outcome State Fault Refusal :=
  .next (State.settle (if f.port < 4 then s.receive f else s))

/-- DELAY_REQ_RECEIVE (R315): A received Delay_Req is matched to a master session and answered with Delay_Resp, or
passed to the FIFO. -/
def execDelayReqReceive (f : RxFrame) (s : State) : Host.Outcome State Fault Refusal :=
  .next (State.settle (if f.port < 4 then s.receive f else s))

/-- PDELAY_REQ_RECEIVE (R315): A received Pdelay_Req is answered one-step when PDRESP = 1, or passed to the FIFO. -/
def execPdelayReqReceive (f : RxFrame) (s : State) : Host.Outcome State Fault Refusal :=
  .next (State.settle (if f.port < 4 then s.receive f else s))

/-- PTP_MESSAGE_RECEIVE (R314): A received Sync, Follow_Up, Delay_Resp, Announce, Signaling or Management message is
verified and passed to the FIFO. -/
def execPtpMessageReceive (f : RxFrame) (s : State) : Host.Outcome State Fault Refusal :=
  .next (State.settle (if f.port < 4 then s.receive f else s))

/-- SYNC_TRANSMIT (R317): A queued Sync leaves its port with one-step fields inserted, or two-step. -/
def execSyncTransmit (n : Nat) (s : State) : Host.Outcome State Fault Refusal :=
  .next (State.settle (if n < 4 then s.syncTx n else s))

/-- FOLLOW_UP_TRANSMIT (R318): The Follow_Up of a two-step Sync leaves with its precise origin time. -/
def execFollowUpTransmit (n : Nat) (s : State) : Host.Outcome State Fault Refusal :=
  .next (State.settle (if n < 4 then s.followUpTx n else s))

/-- ANNOUNCE_TRANSMIT (R316): A queued Announce built from PTP_ANN and the TBU leaves its port. -/
def execAnnounceTransmit (n : Nat) (s : State) : Host.Outcome State Fault Refusal :=
  .next (State.settle (if n < 4 then s.announceTx n else s))

/-- DELAY_REQ_TRANSMIT (R314): A client Delay_Req leaves and its egress report enters the receive FIFO. -/
def execDelayReqTransmit (n : Nat) (s : State) : Host.Outcome State Fault Refusal :=
  .next (State.settle (if n < 4 then s.delayReqTx n else s))

/-- DELAY_RESP_TRANSMIT (R315): A Delay_Resp answering a Delay_Req leaves its port. -/
def execDelayRespTransmit (n : Nat) (s : State) : Host.Outcome State Fault Refusal :=
  .next (State.settle (if n < 4 then s.delayRespTx n else s))

/-- PDELAY_RESP_TRANSMIT (R315): A one-step Pdelay_Resp leaves with its turnaround in correctionField. -/
def execPdelayRespTransmit (n : Nat) (s : State) : Host.Outcome State Fault Refusal :=
  .next (State.settle (if n < 4 then s.pdelayRespTx n else s))

/-- FIRMWARE_FRAME_TRANSMIT (R322): A firmware frame leaves its port queue, with an egress report when TS = 1. -/
def execFirmwareFrameTransmit (n : Nat) (s : State) : Host.Outcome State Fault Refusal :=
  .next (State.settle (if n < 4 then s.frameTx n else s))

/-- TXDATA_PUSH (R322): A write to PTP_TXDATA pushes four octets of a firmware frame. -/
def execTxdataPush (init w : Nat) (s : State) : Host.Outcome State Fault Refusal :=
  .next (State.settle (s.via init R.PTP_TXDATA fun t => t.txPush w))

/-- TX_GO (R322): A write of PTP_TXCMD.GO queues the staged firmware frame. -/
def execTxGo (init : Nat) (s : State) : Host.Outcome State Fault Refusal :=
  .next (State.settle (s.via init R.PTP_TXCMD fun t => t.txGo))

/-- RX_POP (R321): A write of PTP_RXPOP removes the oldest receive FIFO entry. -/
def execRxPop (init : Nat) (s : State) : Host.Outcome State Fault Refusal :=
  .next (State.settle (s.via init R.PTP_RXPOP fun t => t.rxPop))

/-- PUT (R311): PTP_SESSCMD PUT writes the staged session entry with staged sequence numbers. -/
def execPut (init ix : Nat) (s : State) : Host.Outcome State Fault Refusal :=
  .next (State.settle (if ix < 4096 then s.via init R.PTP_SESSCMD fun t => t.sessCmd init ix true (State.sesPutCmd ix false) else s))

/-- PUT_KEEP (R311): PTP_SESSCMD PUT_KEEP writes the staged entry and keeps the device fields. -/
def execPutKeep (init ix : Nat) (s : State) : Host.Outcome State Fault Refusal :=
  .next (State.settle (if ix < 4096 then s.via init R.PTP_SESSCMD fun t => t.sessCmd init ix true (State.sesPutCmd ix true) else s))

/-- SESSION_GET (R311): PTP_SESSCMD GET copies a session entry to the staging. -/
def execSessionGet (init ix : Nat) (s : State) : Host.Outcome State Fault Refusal :=
  .next (State.settle (if ix < 4096 then s.via init R.PTP_SESSCMD fun t => t.sessCmd init ix false (State.sesGetCmd ix) else s))

/-- SESSION_CLEAR (R311): PTP_SESSCMD CLEAR writes an all-zero session entry. -/
def execSessionClear (init ix : Nat) (s : State) : Host.Outcome State Fault Refusal :=
  .next (State.settle (if ix < 4096 then s.via init R.PTP_SESSCMD fun t => t.sessCmd init ix true (State.sesClearCmd ix) else s))

/-- GRANT (R311): PTP_SESSCMD GRANT copies the LOG and END fields of the chosen message types. -/
def execGrant (init ix arg : Nat) (s : State) : Host.Outcome State Fault Refusal :=
  .next (State.settle (if ix < 4096 then s.via init R.PTP_SESSCMD fun t => t.sessCmd init ix true (State.sesGrantCmd ix arg) else s))

/-- GRANT_END (R310): TBU SEC reaches a session's END and that grant ends. -/
def execGrantEnd (ix : Nat) (s : State) : Host.Outcome State Fault Refusal :=
  .next (State.settle (if ix < 4096 then s.grantEnd ix else s))

/-- LINK_CHANGE (R326): A port gains or loses link or block lock, and a squelched recovered clock is withdrawn. -/
def execLinkChange (n stat : Nat) (s : State) : Host.Outcome State Fault Refusal :=
  .next (State.settle (if n < 4 then (s.linkChange n stat).rclkWatch else s))

/-- SESS_DONE (R311): A PTP_SESSCMD command completes locally, clearing PTP_SESSSTAT.BUSY and setting
IRQ_RAW.SESS_DONE. -/
def execSessDone (s : State) : Host.Outcome State Fault Refusal :=
  .next (State.settle (s.sessDone))

end Sys2Proof.Machine
end

