-- ==== Sys2Proof/Machine/ExecReset.lean ====
section
/-! DEFINITION. Device resets, the restore phase of an exit, and Tocsin (chapters 18 and 21). -/

namespace Sys2Proof.Machine

/-- NYM_WDT_EXPIRY (R446): The Nymvis watchdog expires and restarts NYC, warm-resetting on a second expiry within 1
s. -/
def execNymWdtExpiry (edges : Nat) (s : State) : Host.Outcome State Fault Refusal :=
  .next (State.settle ((s.aonRun edges).nymExpiry))

/-- EXIT_RESTORE (R457): The retention list is checked and restored, isolation is released and the cores start. -/
def execExitRestore (upset : Option (Nat × Nat)) (s : State) : Host.Outcome State Fault Refusal :=
  .next (State.settle (s.exitRestore upset))

/-- POWER_ON_RESET (R449): The marked rails qualify after 50 µs, or one falls, and power-on reset is released or
asserted. -/
def execPowerOnReset (rails : Nat) (s : State) : Host.Outcome State Fault Refusal :=
  .next (State.settle (s.powerOnReset rails))

/-- RESET_N (R473): RESET_N held low for 20 µs saves retention and resets everything but AON. -/
def execResetN (s : State) : Host.Outcome State Fault Refusal :=
  .next (State.settle (s.resetN))

/-- RESET_N_RELEASE (R473): RESET_N rises after a reset of 20 µs or more, and the device starts at the immediate
stage. -/
def execResetNRelease (s : State) : Host.Outcome State Fault Refusal :=
  .next (State.settle (s.resetNRelease))

/-- FAULT_ENTRY (R513): Tocsin receives an ERR_STICKY 0-to-1 transition and logs it, raises NMI or escalates by
class. -/
def execFaultEntry (s : State) : Host.Outcome State Fault Refusal :=
  .next (State.settle (s.faultEntry))

/-- TOC_NMIACK (R516): MC writes the acknowledge key, clearing NMI_ACTIVE and re-raising NMI if MISSED. -/
def execTocNmiack (init value : Nat) (s : State) : Host.Outcome State Fault Refusal :=
  .next (State.settle (s.via init R.TOC_NMIACK fun t => t.nmiAck init value))

/-- WINDOW_EXPIRY (R518): The NMI handling window ends with NMI_ACTIVE set, which sets WIN_EXPIRED and escalates. -/
def execWindowExpiry (edges : Nat) (s : State) : Host.Outcome State Fault Refusal :=
  .next (State.settle (s.windowExpiry edges))

/-- RELEASE (R519): TOC_ESC ACTION 1 ends the escalation at once. -/
def execRelease (init : Nat) (keepTime : Bool) (s : State) : Host.Outcome State Fault Refusal :=
  .next (State.settle (s.via init R.TOC_ESC fun t => t.escWrite init (1 + b2n keepTime * 4)))

/-- PLANE_RESET (R520): TOC_ESC ACTION 2 soft-resets the data and control planes and holds the loop and solution
cores. -/
def execPlaneReset (init : Nat) (keepTime : Bool) (s : State) : Host.Outcome State Fault Refusal :=
  .next (State.settle (s.via init R.TOC_ESC fun t => t.escWrite init (2 + b2n keepTime * 4)))

/-- PLANE_DONE (R520): The plane reset completes and ends the escalation. -/
def execPlaneDone (s : State) : Host.Outcome State Fault Refusal :=
  .next (State.settle (s.planeDone))

/-- ESCALATION_TIMEOUT (R519): ESCTO passes without a valid TOC_ESC write and the device warm-resets. -/
def execEscalationTimeout (edges : Nat) (s : State) : Host.Outcome State Fault Refusal :=
  .next (State.settle (s.escTimeout edges))

/-- TOC_LOGPOP (R515): A write of TOC_LOGPOP removes the oldest log entry. -/
def execTocLogpop (init value : Nat) (s : State) : Host.Outcome State Fault Refusal :=
  .next (State.settle (s.via init R.TOC_LOGPOP fun t => t.logPop value))

end Sys2Proof.Machine
end

