-- ==== Sys2Proof/Machine/ExecRf.lean ====
section
/-! DEFINITION. The commands of the calibration injector, the synthesisers, the antenna-feed supervisor and the RF paths (chapters 3 and 4). -/

namespace Sys2Proof.Machine

/-- SYN_CAL (R75): A write of SYN_CTRL.CAL transfers a pending frequency and starts a VCO calibration. -/
def execSynCal (b init : Nat) (s : State) : Host.Outcome State Fault Refusal :=
  .next (State.settle (if b < 2 then s.via init (R.SYN_CTRL b) fun t => t.synCal b init else s))

/-- SYN_TEMP_SAMPLE (R75): The 1 ms temperature sample starts a calibration when the drift exceeds DELTA. -/
def execSynTempSample (b : Nat) (t : Int) (s : State) : Host.Outcome State Fault Refusal :=
  .next (State.settle (if b < 2 then (s.synTempSample b t).gratFollow b else s))

/-- SYN_LOCK_ACHIEVED (R77): The synthesiser reaches LOCKED from CAL, SETTLE or UNLOCKED and PHASE_EPOCH increments. -/
def execSynLockAchieved (b : Nat) (s : State) : Host.Outcome State Fault Refusal :=
  .next (State.settle (if b < 2 then s.synLockAchieved b else s))

/-- SYN_LOCK_LOST (R77): The lock detector drops in LOCKED and the synthesiser goes to UNLOCKED. -/
def execSynLockLost (b : Nat) (s : State) : Host.Outcome State Fault Refusal :=
  .next (State.settle (if b < 2 then s.synLockLost b else s))

/-- SYN_LOCK_TIMEOUT (R77): 1 ms passes in CAL or SETTLE without lock and the synthesiser goes to UNLOCKED. -/
def execSynLockTimeout (b : Nat) (s : State) : Host.Outcome State Fault Refusal :=
  .next (State.settle (if b < 2 then s.synLockTimeout b else s))

/-- ANT_SHORT (R85): A feed current stays at its limit for 2 µs outside blanking and the switch folds back to 3 mA. -/
def execAntShort (n : Nat) (s : State) : Host.Outcome State Fault Refusal :=
  .next (State.settle (s.antShort n))

/-- ANT_OPEN (R85): A feed current stays below OPEN_TH for 100 ms and OPEN is set. -/
def execAntOpen (n : Nat) (s : State) : Host.Outcome State Fault Refusal :=
  .next (State.settle (s.antOpen n))

/-- ANT_BLANK_END (R86): The short-detection blanking time of a switch expires. -/
def execAntBlankEnd (n : Nat) (s : State) : Host.Outcome State Fault Refusal :=
  .next (State.settle (s.antBlankEnd n))

/-- ANT_AUTORETRY (R87): A folded switch with AUTORETRY whose output has stayed above half VANT for 10 ms returns to
normal. -/
def execAntAutoretry (n : Nat) (s : State) : Host.Outcome State Fault Refusal :=
  .next (State.settle (s.antAutoretry n))

/-- ANT_REARM (R87): A write of ANT_REARM restarts a folded or hot switch with blanking. -/
def execAntRearm (init mask : Nat) (s : State) : Host.Outcome State Fault Refusal :=
  .next (State.settle (s.via init R.ANT_REARM fun t => t.antRearm mask))

/-- ANT_OVERTEMP (R87): A switch reaches 150 °C, turns off and sets HOT. -/
def execAntOvertemp (n : Nat) (s : State) : Host.Outcome State Fault Refusal :=
  .next (State.settle (s.antOvertemp n))

/-- VANT_UNDERVOLTAGE (R88): VANT falls below 2.8 V and every switch turns off. -/
def execVantUndervoltage (s : State) : Host.Outcome State Fault Refusal :=
  .next (State.settle (s.vantUnder))

/-- VANT_OVERVOLTAGE (R88): VANT rises above 16.8 V and every switch turns off. -/
def execVantOvervoltage (s : State) : Host.Outcome State Fault Refusal :=
  .next (State.settle (s.vantOver))

/-- VANT_RECOVER (R88): VANT stays within range for 1 ms and the enabled switches turn on again with blanking. -/
def execVantRecover (s : State) : Host.Outcome State Fault Refusal :=
  .next (State.settle (s.vantRecover))

/-- CAL_GO (R96): A write of CAL_CMD.GO starts the injector, holds it for lock, or is refused or ignored. -/
def execCalGo (init : Nat) (s : State) : Host.Outcome State Fault Refusal :=
  .next (State.settle (s.via init R.CAL_CMD fun t => t.calGo init))

/-- CAL_STOP (R96): A write of CAL_CMD.STOP stops the injector through SEQ_OFF. -/
def execCalStop (init : Nat) (s : State) : Host.Outcome State Fault Refusal :=
  .next (State.settle (s.via init R.CAL_CMD fun t => t.calStop))

/-- CAL_HOLD_TIMEOUT (R96): The hold timer reaches TIMEOUT in HELD, and the GO is dropped with GO_TIMEOUT. -/
def execCalHoldTimeout (s : State) : Host.Outcome State Fault Refusal :=
  .next (State.settle (s.calHoldTimeout))

/-- CAL_SEQ_STEP (R99): A programmed gap expires and the next CAL_CTL line asserts, with RF on at the last step. -/
def execCalSeqStep (s : State) : Host.Outcome State Fault Refusal :=
  .next (State.settle (s.calSeqStep))

/-- CAL_RELEASE_STEP (R99): A release gap expires and the next CAL_CTL line releases in reverse order, ending in
IDLE. -/
def execCalReleaseStep (s : State) : Host.Outcome State Fault Refusal :=
  .next (State.settle (s.calReleaseStep))

/-- CAL_RL_WINDOW (R101): A 10 µs return-loss window ends and stops the injector when RL is worse than RL_TH. -/
def execCalRlWindow (rl pwr : Nat) (s : State) : Host.Outcome State Fault Refusal :=
  .next (State.settle (s.calRlWindow rl pwr))

/-- CAL_LEVEL_OK (R100): The output level has stayed within ±0.5 dB for 10 µs and LEVEL_OK is set. -/
def execCalLevelOk (s : State) : Host.Outcome State Fault Refusal :=
  .next (State.settle (s.calLevelOk))

/-- CAL_LEVEL_FAIL (R100): The level stays more than 1 dB off for 1 ms and LEVEL_FAIL is set. -/
def execCalLevelFail (s : State) : Host.Outcome State Fault Refusal :=
  .next (State.settle (s.calLevelFail))

end Sys2Proof.Machine
end

