-- ==== Sys2Proof/Machine/ExecSwiale.lean ====
section
/-! DEFINITION. The instructions of the Swiale cores (chapters 14 and 15): core c executes the instruction at its PC when it is the one named. -/

namespace Sys2Proof.Machine

/-- NOP (R380): No operation. -/
def execSwNop (c : Nat) (stall : Nat) (s : State) : Host.Outcome State Fault Refusal :=
  .next (State.settle (s.coreStep c (fun o => o matches .nop) none stall))

/-- DUP (R380): Duplicates T0. -/
def execSwDup (c : Nat) (stall : Nat) (s : State) : Host.Outcome State Fault Refusal :=
  .next (State.settle (s.coreStep c (fun o => o matches .dup) none stall))

/-- DROP (R380): Drops T0. -/
def execSwDrop (c : Nat) (stall : Nat) (s : State) : Host.Outcome State Fault Refusal :=
  .next (State.settle (s.coreStep c (fun o => o matches .drop) none stall))

/-- SWAP_T (R380): SWAP exchanges the top two stack entries. -/
def execSwSwapT (c : Nat) (stall : Nat) (s : State) : Host.Outcome State Fault Refusal :=
  .next (State.settle (s.coreStep c (fun o => o matches .swapT) none stall))

/-- OVER (R380): Pushes a copy of the second entry. -/
def execSwOver (c : Nat) (stall : Nat) (s : State) : Host.Outcome State Fault Refusal :=
  .next (State.settle (s.coreStep c (fun o => o matches .overT) none stall))

/-- ROT (R380): Rotates the third entry to the top. -/
def execSwRot (c : Nat) (stall : Nat) (s : State) : Host.Outcome State Fault Refusal :=
  .next (State.settle (s.coreStep c (fun o => o matches .rot) none stall))

/-- PICK (R380): Pushes a copy of entry T_F. -/
def execSwPick (c : Nat) (stall : Nat) (s : State) : Host.Outcome State Fault Refusal :=
  .next (State.settle (s.coreStep c (fun o => o matches .pick _) none stall))

/-- ADD (R380): Wrapping addition. -/
def execSwAdd (c : Nat) (stall : Nat) (s : State) : Host.Outcome State Fault Refusal :=
  .next (State.settle (s.coreStep c (fun o => o matches .add) none stall))

/-- SUB (R380): Wrapping subtraction. -/
def execSwSub (c : Nat) (stall : Nat) (s : State) : Host.Outcome State Fault Refusal :=
  .next (State.settle (s.coreStep c (fun o => o matches .sub) none stall))

/-- ADDS (R380): Saturating addition. -/
def execSwAdds (c : Nat) (stall : Nat) (s : State) : Host.Outcome State Fault Refusal :=
  .next (State.settle (s.coreStep c (fun o => o matches .adds) none stall))

/-- SUBS (R380): Saturating subtraction. -/
def execSwSubs (c : Nat) (stall : Nat) (s : State) : Host.Outcome State Fault Refusal :=
  .next (State.settle (s.coreStep c (fun o => o matches .subs) none stall))

/-- AND (R380): Bitwise AND. -/
def execSwAnd (c : Nat) (stall : Nat) (s : State) : Host.Outcome State Fault Refusal :=
  .next (State.settle (s.coreStep c (fun o => o matches .and) none stall))

/-- OR (R380): Bitwise OR. -/
def execSwOr (c : Nat) (stall : Nat) (s : State) : Host.Outcome State Fault Refusal :=
  .next (State.settle (s.coreStep c (fun o => o matches .or) none stall))

/-- XOR (R380): Bitwise XOR. -/
def execSwXor (c : Nat) (stall : Nat) (s : State) : Host.Outcome State Fault Refusal :=
  .next (State.settle (s.coreStep c (fun o => o matches .xor) none stall))

/-- NOT (R380): Ones' complement. -/
def execSwNot (c : Nat) (stall : Nat) (s : State) : Host.Outcome State Fault Refusal :=
  .next (State.settle (s.coreStep c (fun o => o matches .not) none stall))

/-- NEG (R380): Wrapping two's complement negation. -/
def execSwNeg (c : Nat) (stall : Nat) (s : State) : Host.Outcome State Fault Refusal :=
  .next (State.settle (s.coreStep c (fun o => o matches .neg) none stall))

/-- ABS (R380): Saturating absolute value. -/
def execSwAbs (c : Nat) (stall : Nat) (s : State) : Host.Outcome State Fault Refusal :=
  .next (State.settle (s.coreStep c (fun o => o matches .abs) none stall))

/-- MIN (R380): Signed minimum. -/
def execSwMin (c : Nat) (stall : Nat) (s : State) : Host.Outcome State Fault Refusal :=
  .next (State.settle (s.coreStep c (fun o => o matches .min) none stall))

/-- MAX (R380): Signed maximum. -/
def execSwMax (c : Nat) (stall : Nat) (s : State) : Host.Outcome State Fault Refusal :=
  .next (State.settle (s.coreStep c (fun o => o matches .max) none stall))

/-- SLT (R380): Signed set-less-than. -/
def execSwSlt (c : Nat) (stall : Nat) (s : State) : Host.Outcome State Fault Refusal :=
  .next (State.settle (s.coreStep c (fun o => o matches .slt) none stall))

/-- SLTU (R380): Unsigned set-less-than. -/
def execSwSltu (c : Nat) (stall : Nat) (s : State) : Host.Outcome State Fault Refusal :=
  .next (State.settle (s.coreStep c (fun o => o matches .sltu) none stall))

/-- MUL (R380): Low 32 bits of a product. -/
def execSwMul (c : Nat) (stall : Nat) (s : State) : Host.Outcome State Fault Refusal :=
  .next (State.settle (s.coreStep c (fun o => o matches .mul) none stall))

/-- MULH (R380): High 32 bits of a signed product. -/
def execSwMulh (c : Nat) (stall : Nat) (s : State) : Host.Outcome State Fault Refusal :=
  .next (State.settle (s.coreStep c (fun o => o matches .mulh) none stall))

/-- MULHU (R380): High 32 bits of an unsigned product. -/
def execSwMulhu (c : Nat) (stall : Nat) (s : State) : Host.Outcome State Fault Refusal :=
  .next (State.settle (s.coreStep c (fun o => o matches .mulhu) none stall))

/-- SHL (R380): Logical left shift by F. -/
def execSwShl (c : Nat) (stall : Nat) (s : State) : Host.Outcome State Fault Refusal :=
  .next (State.settle (s.coreStep c (fun o => o matches .shl _) none stall))

/-- SHR (R380): Logical right shift by F. -/
def execSwShr (c : Nat) (stall : Nat) (s : State) : Host.Outcome State Fault Refusal :=
  .next (State.settle (s.coreStep c (fun o => o matches .shr _) none stall))

/-- SAR (R380): Arithmetic right shift by F. -/
def execSwSar (c : Nat) (stall : Nat) (s : State) : Host.Outcome State Fault Refusal :=
  .next (State.settle (s.coreStep c (fun o => o matches .sar _) none stall))

/-- SHLV (R380): Logical left shift by a stack operand. -/
def execSwShlv (c : Nat) (stall : Nat) (s : State) : Host.Outcome State Fault Refusal :=
  .next (State.settle (s.coreStep c (fun o => o matches .shlv) none stall))

/-- SHRV (R380): Logical right shift by a stack operand. -/
def execSwShrv (c : Nat) (stall : Nat) (s : State) : Host.Outcome State Fault Refusal :=
  .next (State.settle (s.coreStep c (fun o => o matches .shrv) none stall))

/-- SARV (R380): Arithmetic right shift by a stack operand. -/
def execSwSarv (c : Nat) (stall : Nat) (s : State) : Host.Outcome State Fault Refusal :=
  .next (State.settle (s.coreStep c (fun o => o matches .sarv) none stall))

/-- SEXT (R380): Sign-extends T0 from bit F. -/
def execSwSext (c : Nat) (stall : Nat) (s : State) : Host.Outcome State Fault Refusal :=
  .next (State.settle (s.coreStep c (fun o => o matches .sext _) none stall))

/-- EXP (R380): Counts the redundant sign bits of T0. -/
def execSwExp (c : Nat) (stall : Nat) (s : State) : Host.Outcome State Fault Refusal :=
  .next (State.settle (s.coreStep c (fun o => o matches .exp) none stall))

/-- NORM (R380): Normalises T0 and pushes the shift count. -/
def execSwNorm (c : Nat) (stall : Nat) (s : State) : Host.Outcome State Fault Refusal :=
  .next (State.settle (s.coreStep c (fun o => o matches .norm) none stall))

/-- JR (R386): Jumps to an I memory offset, with a delay slot. -/
def execSwJr (c : Nat) (stall : Nat) (s : State) : Host.Outcome State Fault Refusal :=
  .next (State.settle (s.coreStep c (fun o => o matches .jr) none stall))

/-- CALLR (R386): Calls an I memory offset from the stack, with a delay slot. -/
def execSwCallr (c : Nat) (stall : Nat) (s : State) : Host.Outcome State Fault Refusal :=
  .next (State.settle (s.coreStep c (fun o => o matches .callr) none stall))

/-- RET (R386): Returns through the return stack, with a delay slot. -/
def execSwRet (c : Nat) (stall : Nat) (s : State) : Host.Outcome State Fault Refusal :=
  .next (State.settle (s.coreStep c (fun o => o matches .ret) none stall))

/-- RTI (R387): Pops STATUS and the return address and returns from an interrupt or exception. -/
def execSwRti (c : Nat) (stall : Nat) (s : State) : Host.Outcome State Fault Refusal :=
  .next (State.settle (s.coreStep c (fun o => o matches .rti) none stall))

/-- FENCE (R356): Stalls until every earlier far store has completed. -/
def execSwFence (c : Nat) (stall : Nat) (s : State) : Host.Outcome State Fault Refusal :=
  .next (State.settle (s.coreStep c (fun o => o matches .fence) none stall))

/-- WAIT (R394): Stalls the core in WAIT until an enabled line is pending. -/
def execSwWait (c : Nat) (stall : Nat) (s : State) : Host.Outcome State Fault Refusal :=
  .next (State.settle (s.coreStep c (fun o => o matches .wait) none stall))

/-- TRAP (R394): Raises exception TRAP with F in EADDR. -/
def execSwTrap (c : Nat) (stall : Nat) (s : State) : Host.Outcome State Fault Refusal :=
  .next (State.settle (s.coreStep c (fun o => o matches .trap _) none stall))

/-- LPOP (R389): Pops the loop stack. -/
def execSwLpop (c : Nat) (stall : Nat) (s : State) : Host.Outcome State Fault Refusal :=
  .next (State.settle (s.coreStep c (fun o => o matches .lpop) none stall))

/-- PUSHI (R381): Pushes a sign-extended 12-bit literal. -/
def execSwPushi (c : Nat) (stall : Nat) (s : State) : Host.Outcome State Fault Refusal :=
  .next (State.settle (s.coreStep c (fun o => o matches .pushi _) none stall))

/-- PUSHA (R381): Pushes address register An. -/
def execSwPusha (c : Nat) (stall : Nat) (s : State) : Host.Outcome State Fault Refusal :=
  .next (State.settle (s.coreStep c (fun o => o matches .pusha _) none stall))

/-- POPA (R381): Pops into address register An. -/
def execSwPopa (c : Nat) (stall : Nat) (s : State) : Host.Outcome State Fault Refusal :=
  .next (State.settle (s.coreStep c (fun o => o matches .popa _) none stall))

/-- PUSHM (R381): Pushes offset register Mn. -/
def execSwPushm (c : Nat) (stall : Nat) (s : State) : Host.Outcome State Fault Refusal :=
  .next (State.settle (s.coreStep c (fun o => o matches .pushm _) none stall))

/-- POPM (R381): Pops into offset register Mn. -/
def execSwPopm (c : Nat) (stall : Nat) (s : State) : Host.Outcome State Fault Refusal :=
  .next (State.settle (s.coreStep c (fun o => o matches .popm _) none stall))

/-- PUSHL (R381): Pushes length register Ln. -/
def execSwPushl (c : Nat) (stall : Nat) (s : State) : Host.Outcome State Fault Refusal :=
  .next (State.settle (s.coreStep c (fun o => o matches .pushl _) none stall))

/-- POPL (R381): Pops into length register Ln. -/
def execSwPopl (c : Nat) (stall : Nat) (s : State) : Host.Outcome State Fault Refusal :=
  .next (State.settle (s.coreStep c (fun o => o matches .popl _) none stall))

/-- ADDA (R381): Modifies An by 4 × IMM6 under circular addressing. -/
def execSwAdda (c : Nat) (stall : Nat) (s : State) : Host.Outcome State Fault Refusal :=
  .next (State.settle (s.coreStep c (fun o => o matches .adda _ _) none stall))

/-- PUSHL24 (R381): Pushes a sign-extended 24-bit literal. -/
def execSwPushl24 (c : Nat) (stall : Nat) (s : State) : Host.Outcome State Fault Refusal :=
  .next (State.settle (s.coreStep c (fun o => o matches .pushl24 _) none stall))

/-- LUI (R381): Pushes IMM24 shifted left by 8. -/
def execSwLui (c : Nat) (stall : Nat) (s : State) : Host.Outcome State Fault Refusal :=
  .next (State.settle (s.coreStep c (fun o => o matches .lui _) none stall))

/-- ADDI (R381): Adds a sign-extended 24-bit literal to T0. -/
def execSwAddi (c : Nat) (stall : Nat) (s : State) : Host.Outcome State Fault Refusal :=
  .next (State.settle (s.coreStep c (fun o => o matches .addi _) none stall))

/-- LD (R382): A local load through An with optional post-modify. -/
def execSwLd (c : Nat) (ecc : Option (Nat × Bool)) (stall : Nat) (s : State) : Host.Outcome State Fault Refusal :=
  .next (State.settle (s.coreStep c (fun o => o matches .ld _ _ _ _) ecc stall))

/-- ST (R382): A local store through An with optional post-modify. -/
def execSwSt (c : Nat) (stall : Nat) (s : State) : Host.Outcome State Fault Refusal :=
  .next (State.settle (s.coreStep c (fun o => o matches .st _ _ _ _) none stall))

/-- LDX (R382): A local load from an absolute X or Y offset. -/
def execSwLdx (c : Nat) (ecc : Option (Nat × Bool)) (stall : Nat) (s : State) : Host.Outcome State Fault Refusal :=
  .next (State.settle (s.coreStep c (fun o => o matches .ldx _ _ _) ecc stall))

/-- STX (R382): A local store to an absolute X or Y offset. -/
def execSwStx (c : Nat) (stall : Nat) (s : State) : Host.Outcome State Fault Refusal :=
  .next (State.settle (s.coreStep c (fun o => o matches .stx _ _ _) none stall))

/-- LDF (R383): A far load at a + DISP16, stalling until the response arrives. -/
def execSwLdf (c : Nat) (ecc : Option (Nat × Bool)) (stall : Nat) (s : State) : Host.Outcome State Fault Refusal :=
  .next (State.settle (s.coreStep c (fun o => o matches .ldf _ _) ecc stall))

/-- STF (R383): A far store at a + DISP16 through the write buffer. -/
def execSwStf (c : Nat) (stall : Nat) (s : State) : Host.Outcome State Fault Refusal :=
  .next (State.settle (s.coreStep c (fun o => o matches .stf _ _) none stall))

/-- MAC (R384): Adds an X × Y product to an accumulator and post-modifies both pointers. -/
def execSwMac (c : Nat) (ecc : Option (Nat × Bool)) (stall : Nat) (s : State) : Host.Outcome State Fault Refusal :=
  .next (State.settle (s.coreStep c (fun o => o matches .mac _ _ _ _ _) ecc stall))

/-- MSU (R384): Subtracts an X × Y product from an accumulator. -/
def execSwMsu (c : Nat) (ecc : Option (Nat × Bool)) (stall : Nat) (s : State) : Host.Outcome State Fault Refusal :=
  .next (State.settle (s.coreStep c (fun o => o matches .msu _ _ _ _ _) ecc stall))

/-- MPY (R384): Loads an accumulator with an X × Y product. -/
def execSwMpy (c : Nat) (ecc : Option (Nat × Bool)) (stall : Nat) (s : State) : Host.Outcome State Fault Refusal :=
  .next (State.settle (s.coreStep c (fun o => o matches .mpy _ _ _ _ _) ecc stall))

/-- MPYN (R384): Loads an accumulator with a negated X × Y product. -/
def execSwMpyn (c : Nat) (ecc : Option (Nat × Bool)) (stall : Nat) (s : State) : Host.Outcome State Fault Refusal :=
  .next (State.settle (s.coreStep c (fun o => o matches .mpyn _ _ _ _ _) ecc stall))

/-- CLR (R384): Clears an accumulator. -/
def execSwClr (c : Nat) (stall : Nat) (s : State) : Host.Outcome State Fault Refusal :=
  .next (State.settle (s.coreStep c (fun o => o matches .clr _) none stall))

/-- MACS (R384): Adds a stack product to an accumulator. -/
def execSwMacs (c : Nat) (stall : Nat) (s : State) : Host.Outcome State Fault Refusal :=
  .next (State.settle (s.coreStep c (fun o => o matches .macs _) none stall))

/-- MSUS (R384): Subtracts a stack product from an accumulator. -/
def execSwMsus (c : Nat) (stall : Nat) (s : State) : Host.Outcome State Fault Refusal :=
  .next (State.settle (s.coreStep c (fun o => o matches .msus _) none stall))

/-- MPYS (R384): Loads an accumulator with a stack product. -/
def execSwMpys (c : Nat) (stall : Nat) (s : State) : Host.Outcome State Fault Refusal :=
  .next (State.settle (s.coreStep c (fun o => o matches .mpys _) none stall))

/-- LDA (R384): Loads an accumulator with T0 × 2^s. -/
def execSwLda (c : Nat) (stall : Nat) (s : State) : Host.Outcome State Fault Refusal :=
  .next (State.settle (s.coreStep c (fun o => o matches .lda _ _) none stall))

/-- ACCADD (R384): Adds T0 × 2^s to an accumulator. -/
def execSwAccadd (c : Nat) (stall : Nat) (s : State) : Host.Outcome State Fault Refusal :=
  .next (State.settle (s.coreStep c (fun o => o matches .accadd _ _) none stall))

/-- ACCSUB (R384): Subtracts T0 × 2^s from an accumulator. -/
def execSwAccsub (c : Nat) (stall : Nat) (s : State) : Host.Outcome State Fault Refusal :=
  .next (State.settle (s.coreStep c (fun o => o matches .accsub _ _) none stall))

/-- NEGA (R384): Negates an accumulator. -/
def execSwNega (c : Nat) (stall : Nat) (s : State) : Host.Outcome State Fault Refusal :=
  .next (State.settle (s.coreStep c (fun o => o matches .nega _) none stall))

/-- MOVA (R384): Copies the other accumulator. -/
def execSwMova (c : Nat) (stall : Nat) (s : State) : Host.Outcome State Fault Refusal :=
  .next (State.settle (s.coreStep c (fun o => o matches .mova _) none stall))

/-- SRA (R384): Shifts an accumulator arithmetically right by s. -/
def execSwSra (c : Nat) (stall : Nat) (s : State) : Host.Outcome State Fault Refusal :=
  .next (State.settle (s.coreStep c (fun o => o matches .sra _ _) none stall))

/-- EXPA (R384): Pushes the redundant sign bits of an accumulator. -/
def execSwExpa (c : Nat) (stall : Nat) (s : State) : Host.Outcome State Fault Refusal :=
  .next (State.settle (s.coreStep c (fun o => o matches .expa _) none stall))

/-- NORMA (R384): Normalises an accumulator and pushes the count. -/
def execSwNorma (c : Nat) (stall : Nat) (s : State) : Host.Outcome State Fault Refusal :=
  .next (State.settle (s.coreStep c (fun o => o matches .norma _) none stall))

/-- PUSHAL (R384): Pushes accumulator bits [31:0]. -/
def execSwPushal (c : Nat) (stall : Nat) (s : State) : Host.Outcome State Fault Refusal :=
  .next (State.settle (s.coreStep c (fun o => o matches .pushal _) none stall))

/-- PUSHAH (R384): Pushes accumulator bits [63:32]. -/
def execSwPushah (c : Nat) (stall : Nat) (s : State) : Host.Outcome State Fault Refusal :=
  .next (State.settle (s.coreStep c (fun o => o matches .pushah _) none stall))

/-- PUSHAG (R384): Pushes the sign-extended accumulator guard bits. -/
def execSwPushag (c : Nat) (stall : Nat) (s : State) : Host.Outcome State Fault Refusal :=
  .next (State.settle (s.coreStep c (fun o => o matches .pushag _) none stall))

/-- POPACC (R384): Loads an accumulator whole from three stack entries. -/
def execSwPopacc (c : Nat) (stall : Nat) (s : State) : Host.Outcome State Fault Refusal :=
  .next (State.settle (s.coreStep c (fun o => o matches .popacc _) none stall))

/-- STACC (R361): Stores a rounded, saturated accumulator value to the stack, a local word or a far word. -/
def execSwStacc (c : Nat) (stall : Nat) (s : State) : Host.Outcome State Fault Refusal :=
  .next (State.settle (s.coreStep c (fun o => o matches .stacc _ _ _ _ _ _) none stall))

/-- BEQ (R385): Branches when a = b. -/
def execSwBeq (c : Nat) (stall : Nat) (s : State) : Host.Outcome State Fault Refusal :=
  .next (State.settle (s.coreStep c (fun o => o matches .beq _) none stall))

/-- BNE (R385): Branches when a ≠ b. -/
def execSwBne (c : Nat) (stall : Nat) (s : State) : Host.Outcome State Fault Refusal :=
  .next (State.settle (s.coreStep c (fun o => o matches .bne _) none stall))

/-- BLT (R385): Branches when a < b, signed. -/
def execSwBlt (c : Nat) (stall : Nat) (s : State) : Host.Outcome State Fault Refusal :=
  .next (State.settle (s.coreStep c (fun o => o matches .blt _) none stall))

/-- BGE (R385): Branches when a ≥ b, signed. -/
def execSwBge (c : Nat) (stall : Nat) (s : State) : Host.Outcome State Fault Refusal :=
  .next (State.settle (s.coreStep c (fun o => o matches .bge _) none stall))

/-- BLTU (R385): Branches when a < b, unsigned. -/
def execSwBltu (c : Nat) (stall : Nat) (s : State) : Host.Outcome State Fault Refusal :=
  .next (State.settle (s.coreStep c (fun o => o matches .bltu _) none stall))

/-- BGEU (R385): Branches when a ≥ b, unsigned. -/
def execSwBgeu (c : Nat) (stall : Nat) (s : State) : Host.Outcome State Fault Refusal :=
  .next (State.settle (s.coreStep c (fun o => o matches .bgeu _) none stall))

/-- BZ (R385): Branches when a = 0. -/
def execSwBz (c : Nat) (stall : Nat) (s : State) : Host.Outcome State Fault Refusal :=
  .next (State.settle (s.coreStep c (fun o => o matches .bz _) none stall))

/-- BNZ (R385): Branches when a ≠ 0. -/
def execSwBnz (c : Nat) (stall : Nat) (s : State) : Host.Outcome State Fault Refusal :=
  .next (State.settle (s.coreStep c (fun o => o matches .bnz _) none stall))

/-- BNEG (R385): Branches when a < 0. -/
def execSwBneg (c : Nat) (stall : Nat) (s : State) : Host.Outcome State Fault Refusal :=
  .next (State.settle (s.coreStep c (fun o => o matches .bneg _) none stall))

/-- BR (R385): Always branches. -/
def execSwBr (c : Nat) (stall : Nat) (s : State) : Host.Outcome State Fault Refusal :=
  .next (State.settle (s.coreStep c (fun o => o matches .br _) none stall))

/-- CALL (R386): Calls a relative target and pushes the return address. -/
def execSwCall (c : Nat) (stall : Nat) (s : State) : Host.Outcome State Fault Refusal :=
  .next (State.settle (s.coreStep c (fun o => o matches .call _) none stall))

/-- LOOP (R388): Sets up a hardware loop with an immediate count. -/
def execSwLoop (c : Nat) (stall : Nat) (s : State) : Host.Outcome State Fault Refusal :=
  .next (State.settle (s.coreStep c (fun o => o matches .loop _ _) none stall))

/-- LOOPT (R388): Sets up a hardware loop with a count from the stack. -/
def execSwLoopt (c : Nat) (stall : Nat) (s : State) : Host.Outcome State Fault Refusal :=
  .next (State.settle (s.coreStep c (fun o => o matches .loopt _) none stall))

/-- REP (R391): Repeats the next instruction n times. -/
def execSwRep (c : Nat) (stall : Nat) (s : State) : Host.Outcome State Fault Refusal :=
  .next (State.settle (s.coreStep c (fun o => o matches .rep _) none stall))

/-- REPT (R391): Repeats the next instruction a stack-given number of times. -/
def execSwRept (c : Nat) (stall : Nat) (s : State) : Host.Outcome State Fault Refusal :=
  .next (State.settle (s.coreStep c (fun o => o matches .rept) none stall))

/-- MFCR (R393): Pushes a control register. -/
def execSwMfcr (c : Nat) (stall : Nat) (s : State) : Host.Outcome State Fault Refusal :=
  .next (State.settle (s.coreStep c (fun o => o matches .mfcr _) none stall))

/-- MTCR (R393): Writes a control register, such as WDKICK or SP, from the stack. -/
def execSwMtcr (c : Nat) (stall : Nat) (s : State) : Host.Outcome State Fault Refusal :=
  .next (State.settle (s.coreStep c (fun o => o matches .mtcr _) none stall))

/-- UNDEFINED_ENCODING (R378): A core fetches a halfword or long form that no instruction table defines, such as
0x0000, and raises ILLEGAL at its address. -/
def execUndefinedEncoding (c : Nat) (ecc : Option (Nat × Bool)) (s : State) : Host.Outcome State Fault Refusal :=
  .next (State.settle (s.coreBadFetch c ecc))

/-- INTERRUPT_ENTRY (R368): At an instruction boundary not held off, the lowest pending enabled line is taken. -/
def execInterruptEntry (c : Nat) (s : State) : Host.Outcome State Fault Refusal :=
  .next (State.settle (s.coreInterrupt c))

/-- NMI_ENTRY (R368): Tocsin's NMI is taken on MC at the next boundary not held off. -/
def execNmiEntry (s : State) : Host.Outcome State Fault Refusal :=
  .next (State.settle (s.coreNmi))

/-- WRITE_BUFFER_ISSUE (R355): The write buffer issues its oldest store in program order. -/
def execWriteBufferIssue (c : Nat) (s : State) : Host.Outcome State Fault Refusal :=
  .next (State.settle (s.bufferIssue c))

/-- WAIT_WAKE (R368): An enabled line becomes pending for a core in WAIT and the core resumes. -/
def execWaitWake (c cycles : Nat) (s : State) : Host.Outcome State Fault Refusal :=
  .next (State.settle (s.waitWake c cycles))

/-- CORE_WDT_EXPIRY (R372): A core watchdog expires: a first expiry warns, a second holds the core or flags MC. -/
def execCoreWdtExpiry (c edges : Nat) (s : State) : Host.Outcome State Fault Refusal :=
  .next (State.settle ((s.aonRun edges).coreWatchdog c))

end Sys2Proof.Machine
end

