-- ==== Sys2Proof/Machine/ExecTime.lean ====
section
/-! DEFINITION. The commands of the time base, Drumline, the time outputs and the auxiliary converters (chapter 11). -/

namespace Sys2Proof.Machine

/-- TRIGGER_FIRE (R287): TBU time reaches or passes an instant of a Drumline trigger, and the trigger acts on every
target that names it. -/
def execTriggerFire (dt ds : Nat) (raw : List (List Iq)) (e : EpochIn) (s : State) : Host.Outcome State Fault Refusal :=
  .next (State.settle ((s.feed raw).triggerFire dt ds e))

/-- SOL_STALE (R279): No SOLQ has transferred for 2 s at LOCKED quality, so SOLQ becomes HOLDOVER. -/
def execSolStale (dt ds : Nat) (s : State) : Host.Outcome State Fault Refusal :=
  .next (State.settle (s.after dt ds State.solStale))

/-- LEAP_DUE (R280): TBU time is at or past LEAPSEC with a leap scheduled: OFFSET changes by one and LEAP clears. -/
def execLeapDue (dt ds : Nat) (s : State) : Host.Outcome State Fault Refusal :=
  .next (State.settle (s.after dt ds State.leapAct))

/-- TBU_LOAD (R273): An enabled TBU that waited for a referenced ROOT loads its time from TBU_LD or from the RTC. -/
def execTbuLoad (edges : Nat) (s : State) : Host.Outcome State Fault Refusal :=
  .next (State.settle (s.tbuLoad edges))

/-- TBU_UNC_UPDATE (R278): Every 1 ms TBU_UNC grows by UNCGROW over the TBU time elapsed. -/
def execTbuUncUpdate (dt ds : Nat) (s : State) : Host.Outcome State Fault Refusal :=
  .next (State.settle (s.after dt ds State.uncUpdate))

/-- TBU_RELOAD (R284): After a wake with a valid snapshot, the TBU reloads at an RTC edge from T_e and the elapsed
RTC cycles. -/
def execTbuReload (edges : Nat) (s : State) : Host.Outcome State Fault Refusal :=
  .next (State.settle (s.tbuReload edges))

/-- TIO_SECOND (R290): TBU time reaches a whole second: PPS pulses, SECOND is set and TIO fields transfer. -/
def execTioSecond (dt ds : Nat) (s : State) : Host.Outcome State Fault Refusal :=
  .next (State.settle (s.after dt ds State.tioSecond))

/-- PULSE_END (R292): The WIDTH of a PPS or TOUT pulse expires and the pin returns to its inactive level. -/
def execPulseEnd (dt ds : Nat) (s : State) : Host.Outcome State Fault Refusal :=
  .next (State.settle (s.after dt ds State.pulseEnd))

/-- EVIN_CAPTURE (R293): A selected edge on EVINm is timestamped into its four-event FIFO, or lost with OVR. -/
def execEvinCapture (dt ds m : Nat) (rise : Bool) (off : Nat) (s : State) : Host.Outcome State Fault Refusal :=
  .next (State.settle (if m < 4 then s.after dt ds fun t => t.evCapture m rise off else s))

/-- EVENT_POP (R293): A write of 1 to TIO_EVSEC1m.VALID removes the oldest event. -/
def execEventPop (init m : Nat) (s : State) : Host.Outcome State Fault Refusal :=
  .next (State.settle (if m < 4 then s.via init (R.TIO_EVSEC1 m) fun t => t.evPop m else s))

/-- DAC_TARGET_WRITE (R295): A write to AUX_DACNEXT sets the steering target and PEND. -/
def execDacTargetWrite (init value : Nat) (s : State) : Host.Outcome State Fault Refusal :=
  .next (State.settle (s.via init R.AUX_DACNEXT fun t => t.dacTarget value))

/-- ADC_SCAN_DONE (R297): An aux ADC scan completes and writes the means to AUX_RESk. -/
def execAdcScanDone (sums : List Nat) (s : State) : Host.Outcome State Fault Refusal :=
  .next (State.settle (s.adcDone sums))

end Sys2Proof.Machine
end

