-- ==== Sys2Proof/Machine/Dispatch.lean ====
section
/-! DEFINITION. One arm per command: the direct call of its meaning. -/

namespace Sys2Proof.Machine

/-- The effect of a command on everything but the queue. -/
def exec (i : Instr) (s : State) : Host.Outcome State Fault Refusal :=
  match i with
  | .registerWrite init addr width value => Sys2Proof.Machine.execRegisterWrite init addr width value s
  | .rcFieldRead init addr width => Sys2Proof.Machine.execRcFieldRead init addr width s
  | .tbuNowRead init => Sys2Proof.Machine.execTbuNowRead init s
  | .rtcCntRead init => Sys2Proof.Machine.execRtcCntRead init s
  | .rtcCalRead init => Sys2Proof.Machine.execRtcCalRead init s
  | .aonRawRead init => Sys2Proof.Machine.execAonRawRead init s
  | .acqCellsRead init => Sys2Proof.Machine.execAcqCellsRead init s
  | .uartDataRead init u => Sys2Proof.Machine.execUartDataRead init u s
  | .uartDataWrite init u value => Sys2Proof.Machine.execUartDataWrite init u value s
  | .qspiDataAccess init write value => Sys2Proof.Machine.execQspiDataAccess init write value s
  | .ptpRxdataRead init => Sys2Proof.Machine.execPtpRxdataRead init s
  | .pmuRetdataAccess init write value => Sys2Proof.Machine.execPmuRetdataAccess init write value s
  | .enableWrite init page on => Sys2Proof.Machine.execEnableWrite init page on s
  | .blockStopped page => Sys2Proof.Machine.execBlockStopped page s
  | .softReset init page => Sys2Proof.Machine.execSoftReset init page s
  | .softResetDone page => Sys2Proof.Machine.execSoftResetDone page s
  | .pageCommit init page value => Sys2Proof.Machine.execPageCommit init page value s
  | .pageLock init page value => Sys2Proof.Machine.execPageLock init page value s
  | .measurementSample m => Sys2Proof.Machine.execMeasurementSample m s
  | .modeCommand init target => Sys2Proof.Machine.execModeCommand init target s
  | .triggerFire dt ds raw e => Sys2Proof.Machine.execTriggerFire dt ds raw e s
  | .solStale dt ds => Sys2Proof.Machine.execSolStale dt ds s
  | .leapDue dt ds => Sys2Proof.Machine.execLeapDue dt ds s
  | .tbuLoad edges => Sys2Proof.Machine.execTbuLoad edges s
  | .tbuUncUpdate dt ds => Sys2Proof.Machine.execTbuUncUpdate dt ds s
  | .tbuReload edges => Sys2Proof.Machine.execTbuReload edges s
  | .tioSecond dt ds => Sys2Proof.Machine.execTioSecond dt ds s
  | .pulseEnd dt ds => Sys2Proof.Machine.execPulseEnd dt ds s
  | .evinCapture dt ds m rise off => Sys2Proof.Machine.execEvinCapture dt ds m rise off s
  | .eventPop init m => Sys2Proof.Machine.execEventPop init m s
  | .dacTargetWrite init value => Sys2Proof.Machine.execDacTargetWrite init value s
  | .adcScanDone sums => Sys2Proof.Machine.execAdcScanDone sums s
  | .covarianceBlockEnd raw => Sys2Proof.Machine.execCovarianceBlockEnd raw s
  | .b0Solve b => Sys2Proof.Machine.execB0Solve b s
  | .jamReportDone b => Sys2Proof.Machine.execJamReportDone b s
  | .smBlockEnd raw => Sys2Proof.Machine.execSmBlockEnd raw s
  | .smReport p => Sys2Proof.Machine.execSmReport p s
  | .synCal b init => Sys2Proof.Machine.execSynCal b init s
  | .synTempSample b t => Sys2Proof.Machine.execSynTempSample b t s
  | .synLockAchieved b => Sys2Proof.Machine.execSynLockAchieved b s
  | .synLockLost b => Sys2Proof.Machine.execSynLockLost b s
  | .synLockTimeout b => Sys2Proof.Machine.execSynLockTimeout b s
  | .antShort n => Sys2Proof.Machine.execAntShort n s
  | .antOpen n => Sys2Proof.Machine.execAntOpen n s
  | .antBlankEnd n => Sys2Proof.Machine.execAntBlankEnd n s
  | .antAutoretry n => Sys2Proof.Machine.execAntAutoretry n s
  | .antRearm init mask => Sys2Proof.Machine.execAntRearm init mask s
  | .antOvertemp n => Sys2Proof.Machine.execAntOvertemp n s
  | .vantUndervoltage => Sys2Proof.Machine.execVantUndervoltage s
  | .vantOvervoltage => Sys2Proof.Machine.execVantOvervoltage s
  | .vantRecover => Sys2Proof.Machine.execVantRecover s
  | .calGo init => Sys2Proof.Machine.execCalGo init s
  | .calStop init => Sys2Proof.Machine.execCalStop init s
  | .calHoldTimeout => Sys2Proof.Machine.execCalHoldTimeout s
  | .calSeqStep => Sys2Proof.Machine.execCalSeqStep s
  | .calReleaseStep => Sys2Proof.Machine.execCalReleaseStep s
  | .calRlWindow rl pwr => Sys2Proof.Machine.execCalRlWindow rl pwr s
  | .calLevelOk => Sys2Proof.Machine.execCalLevelOk s
  | .calLevelFail => Sys2Proof.Machine.execCalLevelFail s
  | .capArm n init => Sys2Proof.Machine.execCapArm n init s
  | .capStop n init => Sys2Proof.Machine.execCapStop n init s
  | .capRmsBlock n time raw => Sys2Proof.Machine.execCapRmsBlock n time raw s
  | .capBufferFull n raw => Sys2Proof.Machine.execCapBufferFull n raw s
  | .capPostDone n raw => Sys2Proof.Machine.execCapPostDone n raw s
  | .capFifoOverflow n => Sys2Proof.Machine.execCapFifoOverflow n s
  | .capOwnError n => Sys2Proof.Machine.execCapOwnError n s
  | .capComplete n time => Sys2Proof.Machine.execCapComplete n time s
  | .acqJobpush init addr => Sys2Proof.Machine.execAcqJobpush init addr s
  | .acqJobTake => Sys2Proof.Machine.execAcqJobTake s
  | .acqJobFinish k => Sys2Proof.Machine.execAcqJobFinish k s
  | .acqJobRetire => Sys2Proof.Machine.execAcqJobRetire s
  | .seedingEvent => Sys2Proof.Machine.execSeedingEvent s
  | .codeEpoch k raw => Sys2Proof.Machine.execCodeEpoch k raw s
  | .dumpRecordEnqueue => Sys2Proof.Machine.execDumpRecordEnqueue s
  | .latchDone => Sys2Proof.Machine.execLatchDone s
  | .setWant init v w => Sys2Proof.Machine.execSetWant init v w s
  | .setRank init v cls prio => Sys2Proof.Machine.execSetRank init v cls prio s
  | .putHw init v => Sys2Proof.Machine.execPutHw init v s
  | .putCb init v => Sys2Proof.Machine.execPutCb init v s
  | .get init v => Sys2Proof.Machine.execGet init v s
  | .planningPass => Sys2Proof.Machine.execPlanningPass s
  | .pageIn v => Sys2Proof.Machine.execPageIn v s
  | .pageOut v => Sys2Proof.Machine.execPageOut v s
  | .swap v => Sys2Proof.Machine.execSwap v s
  | .pageOpDone => Sys2Proof.Machine.execPageOpDone s
  | .dumpTaskForm v => Sys2Proof.Machine.execDumpTaskForm v s
  | .taskDispatch => Sys2Proof.Machine.execTaskDispatch s
  | .taskDelivered => Sys2Proof.Machine.execTaskDelivered s
  | .taskComplete init c ctl => Sys2Proof.Machine.execTaskComplete init c ctl s
  | .firmwareWriteBack init c ctl same => Sys2Proof.Machine.execFirmwareWriteBack init c ctl same s
  | .ncoRateUpdate init c ctl carr code same => Sys2Proof.Machine.execNcoRateUpdate init c ctl carr code same s
  | .cmplWantDormant init c ctl same => Sys2Proof.Machine.execCmplWantDormant init c ctl same s
  | .cmplWantSeek init c ctl same => Sys2Proof.Machine.execCmplWantSeek init c ctl same s
  | .cmplWantOff init c ctl same => Sys2Proof.Machine.execCmplWantOff init c ctl same s
  | .reimage init c ctl same => Sys2Proof.Machine.execReimage init c ctl same s
  | .dutyPeriodElapsed v => Sys2Proof.Machine.execDutyPeriodElapsed v s
  | .evictRead init => Sys2Proof.Machine.execEvictRead init s
  | .oppAnnounce => Sys2Proof.Machine.execOppAnnounce s
  | .oppClearTimeout => Sys2Proof.Machine.execOppClearTimeout s
  | .frameReceive f => Sys2Proof.Machine.execFrameReceive f s
  | .delayReqReceive f => Sys2Proof.Machine.execDelayReqReceive f s
  | .pdelayReqReceive f => Sys2Proof.Machine.execPdelayReqReceive f s
  | .ptpMessageReceive f => Sys2Proof.Machine.execPtpMessageReceive f s
  | .syncTransmit n => Sys2Proof.Machine.execSyncTransmit n s
  | .followUpTransmit n => Sys2Proof.Machine.execFollowUpTransmit n s
  | .announceTransmit n => Sys2Proof.Machine.execAnnounceTransmit n s
  | .delayReqTransmit n => Sys2Proof.Machine.execDelayReqTransmit n s
  | .delayRespTransmit n => Sys2Proof.Machine.execDelayRespTransmit n s
  | .pdelayRespTransmit n => Sys2Proof.Machine.execPdelayRespTransmit n s
  | .firmwareFrameTransmit n => Sys2Proof.Machine.execFirmwareFrameTransmit n s
  | .txdataPush init w => Sys2Proof.Machine.execTxdataPush init w s
  | .txGo init => Sys2Proof.Machine.execTxGo init s
  | .rxPop init => Sys2Proof.Machine.execRxPop init s
  | .put init ix => Sys2Proof.Machine.execPut init ix s
  | .putKeep init ix => Sys2Proof.Machine.execPutKeep init ix s
  | .sessionGet init ix => Sys2Proof.Machine.execSessionGet init ix s
  | .sessionClear init ix => Sys2Proof.Machine.execSessionClear init ix s
  | .grant init ix arg => Sys2Proof.Machine.execGrant init ix arg s
  | .grantEnd ix => Sys2Proof.Machine.execGrantEnd ix s
  | .linkChange n stat => Sys2Proof.Machine.execLinkChange n stat s
  | .rolePrimary init => Sys2Proof.Machine.execRolePrimary init s
  | .roleSecondary init => Sys2Proof.Machine.execRoleSecondary init s
  | .roleNone init => Sys2Proof.Machine.execRoleNone init s
  | .takeoverCommand init => Sys2Proof.Machine.execTakeoverCommand init s
  | .reAttest init => Sys2Proof.Machine.execReAttest init s
  | .pairLinkUp => Sys2Proof.Machine.execPairLinkUp s
  | .pairLinkDown => Sys2Proof.Machine.execPairLinkDown s
  | .attDone chain sig id peer => Sys2Proof.Machine.execAttDone chain sig id peer s
  | .heartbeatPulse => Sys2Proof.Machine.execHeartbeatPulse s
  | .timingFrameSend => Sys2Proof.Machine.execTimingFrameSend s
  | .timingFrameReceive t1 t4 => Sys2Proof.Machine.execTimingFrameReceive t1 t4 s
  | .failFastDetect => Sys2Proof.Machine.execFailFastDetect s
  | .missedHeartbeat => Sys2Proof.Machine.execMissedHeartbeat s
  | .pairFence request => Sys2Proof.Machine.execPairFence request s
  | .plannedTakeoverTimeout => Sys2Proof.Machine.execPlannedTakeoverTimeout s
  | .mirrorSend init => Sys2Proof.Machine.execMirrorSend init s
  | .mtxdataPush init w => Sys2Proof.Machine.execMtxdataPush init w s
  | .mirrorReceive type octets mode qual => Sys2Proof.Machine.execMirrorReceive type octets mode qual s
  | .sessionMirrorReceive m => Sys2Proof.Machine.execSessionMirrorReceive m s
  | .mirrorAck => Sys2Proof.Machine.execMirrorAck s
  | .swNop c stall => Sys2Proof.Machine.execSwNop c stall s
  | .swDup c stall => Sys2Proof.Machine.execSwDup c stall s
  | .swDrop c stall => Sys2Proof.Machine.execSwDrop c stall s
  | .swSwapT c stall => Sys2Proof.Machine.execSwSwapT c stall s
  | .swOver c stall => Sys2Proof.Machine.execSwOver c stall s
  | .swRot c stall => Sys2Proof.Machine.execSwRot c stall s
  | .swPick c stall => Sys2Proof.Machine.execSwPick c stall s
  | .swAdd c stall => Sys2Proof.Machine.execSwAdd c stall s
  | .swSub c stall => Sys2Proof.Machine.execSwSub c stall s
  | .swAdds c stall => Sys2Proof.Machine.execSwAdds c stall s
  | .swSubs c stall => Sys2Proof.Machine.execSwSubs c stall s
  | .swAnd c stall => Sys2Proof.Machine.execSwAnd c stall s
  | .swOr c stall => Sys2Proof.Machine.execSwOr c stall s
  | .swXor c stall => Sys2Proof.Machine.execSwXor c stall s
  | .swNot c stall => Sys2Proof.Machine.execSwNot c stall s
  | .swNeg c stall => Sys2Proof.Machine.execSwNeg c stall s
  | .swAbs c stall => Sys2Proof.Machine.execSwAbs c stall s
  | .swMin c stall => Sys2Proof.Machine.execSwMin c stall s
  | .swMax c stall => Sys2Proof.Machine.execSwMax c stall s
  | .swSlt c stall => Sys2Proof.Machine.execSwSlt c stall s
  | .swSltu c stall => Sys2Proof.Machine.execSwSltu c stall s
  | .swMul c stall => Sys2Proof.Machine.execSwMul c stall s
  | .swMulh c stall => Sys2Proof.Machine.execSwMulh c stall s
  | .swMulhu c stall => Sys2Proof.Machine.execSwMulhu c stall s
  | .swShl c stall => Sys2Proof.Machine.execSwShl c stall s
  | .swShr c stall => Sys2Proof.Machine.execSwShr c stall s
  | .swSar c stall => Sys2Proof.Machine.execSwSar c stall s
  | .swShlv c stall => Sys2Proof.Machine.execSwShlv c stall s
  | .swShrv c stall => Sys2Proof.Machine.execSwShrv c stall s
  | .swSarv c stall => Sys2Proof.Machine.execSwSarv c stall s
  | .swSext c stall => Sys2Proof.Machine.execSwSext c stall s
  | .swExp c stall => Sys2Proof.Machine.execSwExp c stall s
  | .swNorm c stall => Sys2Proof.Machine.execSwNorm c stall s
  | .swJr c stall => Sys2Proof.Machine.execSwJr c stall s
  | .swCallr c stall => Sys2Proof.Machine.execSwCallr c stall s
  | .swRet c stall => Sys2Proof.Machine.execSwRet c stall s
  | .swRti c stall => Sys2Proof.Machine.execSwRti c stall s
  | .swFence c stall => Sys2Proof.Machine.execSwFence c stall s
  | .swWait c stall => Sys2Proof.Machine.execSwWait c stall s
  | .swTrap c stall => Sys2Proof.Machine.execSwTrap c stall s
  | .swLpop c stall => Sys2Proof.Machine.execSwLpop c stall s
  | .swPushi c stall => Sys2Proof.Machine.execSwPushi c stall s
  | .swPusha c stall => Sys2Proof.Machine.execSwPusha c stall s
  | .swPopa c stall => Sys2Proof.Machine.execSwPopa c stall s
  | .swPushm c stall => Sys2Proof.Machine.execSwPushm c stall s
  | .swPopm c stall => Sys2Proof.Machine.execSwPopm c stall s
  | .swPushl c stall => Sys2Proof.Machine.execSwPushl c stall s
  | .swPopl c stall => Sys2Proof.Machine.execSwPopl c stall s
  | .swAdda c stall => Sys2Proof.Machine.execSwAdda c stall s
  | .swPushl24 c stall => Sys2Proof.Machine.execSwPushl24 c stall s
  | .swLui c stall => Sys2Proof.Machine.execSwLui c stall s
  | .swAddi c stall => Sys2Proof.Machine.execSwAddi c stall s
  | .swLd c ecc stall => Sys2Proof.Machine.execSwLd c ecc stall s
  | .swSt c stall => Sys2Proof.Machine.execSwSt c stall s
  | .swLdx c ecc stall => Sys2Proof.Machine.execSwLdx c ecc stall s
  | .swStx c stall => Sys2Proof.Machine.execSwStx c stall s
  | .swLdf c ecc stall => Sys2Proof.Machine.execSwLdf c ecc stall s
  | .swStf c stall => Sys2Proof.Machine.execSwStf c stall s
  | .swMac c ecc stall => Sys2Proof.Machine.execSwMac c ecc stall s
  | .swMsu c ecc stall => Sys2Proof.Machine.execSwMsu c ecc stall s
  | .swMpy c ecc stall => Sys2Proof.Machine.execSwMpy c ecc stall s
  | .swMpyn c ecc stall => Sys2Proof.Machine.execSwMpyn c ecc stall s
  | .swClr c stall => Sys2Proof.Machine.execSwClr c stall s
  | .swMacs c stall => Sys2Proof.Machine.execSwMacs c stall s
  | .swMsus c stall => Sys2Proof.Machine.execSwMsus c stall s
  | .swMpys c stall => Sys2Proof.Machine.execSwMpys c stall s
  | .swLda c stall => Sys2Proof.Machine.execSwLda c stall s
  | .swAccadd c stall => Sys2Proof.Machine.execSwAccadd c stall s
  | .swAccsub c stall => Sys2Proof.Machine.execSwAccsub c stall s
  | .swNega c stall => Sys2Proof.Machine.execSwNega c stall s
  | .swMova c stall => Sys2Proof.Machine.execSwMova c stall s
  | .swSra c stall => Sys2Proof.Machine.execSwSra c stall s
  | .swExpa c stall => Sys2Proof.Machine.execSwExpa c stall s
  | .swNorma c stall => Sys2Proof.Machine.execSwNorma c stall s
  | .swPushal c stall => Sys2Proof.Machine.execSwPushal c stall s
  | .swPushah c stall => Sys2Proof.Machine.execSwPushah c stall s
  | .swPushag c stall => Sys2Proof.Machine.execSwPushag c stall s
  | .swPopacc c stall => Sys2Proof.Machine.execSwPopacc c stall s
  | .swStacc c stall => Sys2Proof.Machine.execSwStacc c stall s
  | .swBeq c stall => Sys2Proof.Machine.execSwBeq c stall s
  | .swBne c stall => Sys2Proof.Machine.execSwBne c stall s
  | .swBlt c stall => Sys2Proof.Machine.execSwBlt c stall s
  | .swBge c stall => Sys2Proof.Machine.execSwBge c stall s
  | .swBltu c stall => Sys2Proof.Machine.execSwBltu c stall s
  | .swBgeu c stall => Sys2Proof.Machine.execSwBgeu c stall s
  | .swBz c stall => Sys2Proof.Machine.execSwBz c stall s
  | .swBnz c stall => Sys2Proof.Machine.execSwBnz c stall s
  | .swBneg c stall => Sys2Proof.Machine.execSwBneg c stall s
  | .swBr c stall => Sys2Proof.Machine.execSwBr c stall s
  | .swCall c stall => Sys2Proof.Machine.execSwCall c stall s
  | .swLoop c stall => Sys2Proof.Machine.execSwLoop c stall s
  | .swLoopt c stall => Sys2Proof.Machine.execSwLoopt c stall s
  | .swRep c stall => Sys2Proof.Machine.execSwRep c stall s
  | .swRept c stall => Sys2Proof.Machine.execSwRept c stall s
  | .swMfcr c stall => Sys2Proof.Machine.execSwMfcr c stall s
  | .swMtcr c stall => Sys2Proof.Machine.execSwMtcr c stall s
  | .interruptEntry c => Sys2Proof.Machine.execInterruptEntry c s
  | .nmiEntry => Sys2Proof.Machine.execNmiEntry s
  | .storeError c => Sys2Proof.Machine.execStoreError c s
  | .farLoadResponse c cycles => Sys2Proof.Machine.execFarLoadResponse c cycles s
  | .writeBufferIssue c => Sys2Proof.Machine.execWriteBufferIssue c s
  | .storeComplete c => Sys2Proof.Machine.execStoreComplete c s
  | .waitWake c cycles => Sys2Proof.Machine.execWaitWake c cycles s
  | .coreWdtExpiry c edges => Sys2Proof.Machine.execCoreWdtExpiry c edges s
  | .coreHold init c => Sys2Proof.Machine.execCoreHold init c s
  | .coreRelease init c => Sys2Proof.Machine.execCoreRelease init c s
  | .doorbellRing init c => Sys2Proof.Machine.execDoorbellRing init c s
  | .windowWrite init addr size value => Sys2Proof.Machine.execWindowWrite init addr size value s
  | .handoverWrite init b w => Sys2Proof.Machine.execHandoverWrite init b w s
  | .handoverComplete b => Sys2Proof.Machine.execHandoverComplete b s
  | .ownerFlagsWrite init b w => Sys2Proof.Machine.execOwnerFlagsWrite init b w s
  | .bankAccess ecc p d => Sys2Proof.Machine.execBankAccess ecc p d s
  | .scrubTick busy => Sys2Proof.Machine.execScrubTick busy s
  | .dmaStart init n => Sys2Proof.Machine.execDmaStart init n s
  | .dmaPause init n on => Sys2Proof.Machine.execDmaPause init n on s
  | .dmaResume init n => Sys2Proof.Machine.execDmaResume init n s
  | .dmaSkip init n => Sys2Proof.Machine.execDmaSkip init n s
  | .dmaAbort init n k u => Sys2Proof.Machine.execDmaAbort init n k u s
  | .descriptorFetched n => Sys2Proof.Machine.execDescriptorFetched n s
  | .dmaTrigger n => Sys2Proof.Machine.execDmaTrigger n s
  | .dmaTimer n => Sys2Proof.Machine.execDmaTimer n s
  | .dmaRequest n spi => Sys2Proof.Machine.execDmaRequest n spi s
  | .dmaBurstEnd n => Sys2Proof.Machine.execDmaBurstEnd n s
  | .dmaPaused n k => Sys2Proof.Machine.execDmaPaused n k s
  | .dmaAccessError n k u collide => Sys2Proof.Machine.execDmaAccessError n k u collide s
  | .dmaRetry n collide => Sys2Proof.Machine.execDmaRetry n collide s
  | .dmaComplete n => Sys2Proof.Machine.execDmaComplete n s
  | .getInfo init ch => Sys2Proof.Machine.execGetInfo init ch s
  | .selfTest init ch => Sys2Proof.Machine.execSelfTest init ch s
  | .coNonce init ch => Sys2Proof.Machine.execCoNonce init ch s
  | .authUser init ch idx => Sys2Proof.Machine.execAuthUser init ch idx s
  | .authEnd init ch => Sys2Proof.Machine.execAuthEnd init ch s
  | .authTimeout ch => Sys2Proof.Machine.execAuthTimeout ch s
  | .getCartouche init ch => Sys2Proof.Machine.execGetCartouche init ch s
  | .hash init ch => Sys2Proof.Machine.execHash init ch s
  | .hmac init ch => Sys2Proof.Machine.execHmac init ch s
  | .cmac init ch => Sys2Proof.Machine.execCmac init ch s
  | .gcm init ch decrypt slot iv tag => Sys2Proof.Machine.execGcm init ch decrypt slot iv tag s
  | .verify init ch => Sys2Proof.Machine.execVerify init ch s
  | .random init ch count => Sys2Proof.Machine.execRandom init ch count s
  | .quote init ch => Sys2Proof.Machine.execQuote init ch s
  | .loadImage init ch => Sys2Proof.Machine.execLoadImage init ch s
  | .installImage init ch => Sys2Proof.Machine.execInstallImage init ch s
  | .advanceSvn init ch cls => Sys2Proof.Machine.execAdvanceSvn init ch cls s
  | .osnmaKroot init ch => Sys2Proof.Machine.execOsnmaKroot init ch s
  | .zeroiseSession init ch => Sys2Proof.Machine.execZeroiseSession init ch s
  | .takeOwnership init ch keyHash ownerReq => Sys2Proof.Machine.execTakeOwnership init ch keyHash ownerReq s
  | .rotateOwner init ch keyHash => Sys2Proof.Machine.execRotateOwner init ch keyHash s
  | .rma init ch token => Sys2Proof.Machine.execRma init ch token s
  | .scrap init ch token => Sys2Proof.Machine.execScrap init ch token s
  | .debugGrant init ch => Sys2Proof.Machine.execDebugGrant init ch s
  | .installUserKey init ch idx eph wrapped => Sys2Proof.Machine.execInstallUserKey init ch idx eph wrapped s
  | .installPtpKey init ch slot eph wrapped keyId spp => Sys2Proof.Machine.execInstallPtpKey init ch slot eph wrapped keyId spp s
  | .zeroise init ch => Sys2Proof.Machine.execZeroise init ch s
  | .pairBind init ch version own peer clock => Sys2Proof.Machine.execPairBind init ch version own peer clock s
  | .serviceGrant init ch => Sys2Proof.Machine.execServiceGrant init ch s
  | .osnmaRoot init ch root => Sys2Proof.Machine.execOsnmaRoot init ch root s
  | .setPolicy init ch ownerReq => Sys2Proof.Machine.execSetPolicy init ch ownerReq s
  | .tamperTrip sensor => Sys2Proof.Machine.execTamperTrip sensor s
  | .nymWdtExpiry edges => Sys2Proof.Machine.execNymWdtExpiry edges s
  | .hostBundleReady => Sys2Proof.Machine.execHostBundleReady s
  | .bundleVerified a b keyStoreOk => Sys2Proof.Machine.execBundleVerified a b keyStoreOk s
  | .powerReqRun init => Sys2Proof.Machine.execPowerReqRun init s
  | .powerReqIdle init => Sys2Proof.Machine.execPowerReqIdle init s
  | .powerReqSleep init => Sys2Proof.Machine.execPowerReqSleep init s
  | .powerReqDeep init => Sys2Proof.Machine.execPowerReqDeep init s
  | .powerReqOff init => Sys2Proof.Machine.execPowerReqOff init s
  | .retentionSave init => Sys2Proof.Machine.execRetentionSave init s
  | .idleEnter => Sys2Proof.Machine.execIdleEnter s
  | .idleExit => Sys2Proof.Machine.execIdleExit s
  | .quiesceDone => Sys2Proof.Machine.execQuiesceDone s
  | .quiesceTimeout => Sys2Proof.Machine.execQuiesceTimeout s
  | .tbuSnapshot edges => Sys2Proof.Machine.execTbuSnapshot edges s
  | .saveDone => Sys2Proof.Machine.execSaveDone s
  | .isolate => Sys2Proof.Machine.execIsolate s
  | .powerDownDone => Sys2Proof.Machine.execPowerDownDone s
  | .wakePin => Sys2Proof.Machine.execWakePin s
  | .wakeTimerExpiry edges => Sys2Proof.Machine.execWakeTimerExpiry edges s
  | .exitWakeDone procAck engAck => Sys2Proof.Machine.execExitWakeDone procAck engAck s
  | .exitRestore upset => Sys2Proof.Machine.execExitRestore upset s
  | .oppChange init target => Sys2Proof.Machine.execOppChange init target s
  | .pmbusTransactionDone eng data => Sys2Proof.Machine.execPmbusTransactionDone eng data s
  | .pmbusAck eng mv => Sys2Proof.Machine.execPmbusAck eng mv s
  | .pmbusAckTimeout eng => Sys2Proof.Machine.execPmbusAckTimeout eng s
  | .dvfsSettleDone => Sys2Proof.Machine.execDvfsSettleDone s
  | .pmbAlert low status proc => Sys2Proof.Machine.execPmbAlert low status proc s
  | .procvWrite init value => Sys2Proof.Machine.execProcvWrite init value s
  | .dividerApply => Sys2Proof.Machine.execDividerApply s
  | .pllLock => Sys2Proof.Machine.execPllLock s
  | .xoStable => Sys2Proof.Machine.execXoStable s
  | .refinStable => Sys2Proof.Machine.execRefinStable s
  | .domainRunWrite init value => Sys2Proof.Machine.execDomainRunWrite init value s
  | .domainSwitch init value => Sys2Proof.Machine.execDomainSwitch init value s
  | .switchRestart d => Sys2Proof.Machine.execSwitchRestart d s
  | .switchForced d => Sys2Proof.Machine.execSwitchForced d s
  | .monitorMeasure m dev => Sys2Proof.Machine.execMonitorMeasure m dev s
  | .rootLockLost => Sys2Proof.Machine.execRootLockLost s
  | .iroReady => Sys2Proof.Machine.execIroReady s
  | .powerOnReset rails => Sys2Proof.Machine.execPowerOnReset rails s
  | .resetN => Sys2Proof.Machine.execResetN s
  | .rtcSecond edges => Sys2Proof.Machine.execRtcSecond edges s
  | .aonCommitApply => Sys2Proof.Machine.execAonCommitApply s
  | .setTbu init => Sys2Proof.Machine.execSetTbu init s
  | .setTbuLoad => Sys2Proof.Machine.execSetTbuLoad s
  | .vmainFail => Sys2Proof.Machine.execVmainFail s
  | .vmainValid => Sys2Proof.Machine.execVmainValid s
  | .vbatLow => Sys2Proof.Machine.execVbatLow s
  | .aonBrownOut => Sys2Proof.Machine.execAonBrownOut s
  | .firstswClear init => Sys2Proof.Machine.execFirstswClear init s
  | .fatalRecordClear init => Sys2Proof.Machine.execFatalRecordClear init s
  | .bar0Access off width write value => Sys2Proof.Machine.execBar0Access off width write value s
  | .bar2Access off write words count => Sys2Proof.Machine.execBar2Access off write words count s
  | .fetchStart init value => Sys2Proof.Machine.execFetchStart init value s
  | .fetchDone data => Sys2Proof.Machine.execFetchDone data s
  | .fetchTimeout data => Sys2Proof.Machine.execFetchTimeout data s
  | .eoiWrite init vec => Sys2Proof.Machine.execEoiWrite init vec s
  | .pcieLinkChange up speed width => Sys2Proof.Machine.execPcieLinkChange up speed width s
  | .spiReadFrame cmd addr count n fill => Sys2Proof.Machine.execSpiReadFrame cmd addr count n fill s
  | .spiWriteFrame cmd addr count data crc => Sys2Proof.Machine.execSpiWriteFrame cmd addr count data crc s
  | .uartRxByte u b => Sys2Proof.Machine.execUartRxByte u b s
  | .uartTxByte u => Sys2Proof.Machine.execUartTxByte u s
  | .qspiCommand init value => Sys2Proof.Machine.execQspiCommand init value s
  | .qspiDone data => Sys2Proof.Machine.execQspiDone data s
  | .mdioCommand init value => Sys2Proof.Machine.execMdioCommand init value s
  | .mdioDone data => Sys2Proof.Machine.execMdioDone data s
  | .gpioSet init value => Sys2Proof.Machine.execGpioSet init value s
  | .gpioClr init value => Sys2Proof.Machine.execGpioClr init value s
  | .gpioEdge n level held => Sys2Proof.Machine.execGpioEdge n level held s
  | .cmdpiWrite init value => Sys2Proof.Machine.execCmdpiWrite init value s
  | .rsppiWrite init value => Sys2Proof.Machine.execRsppiWrite init value s
  | .rspciWrite init value => Sys2Proof.Machine.execRspciWrite init value s
  | .cmdciWrite init value => Sys2Proof.Machine.execCmdciWrite init value s
  | .getStatus => Sys2Proof.Machine.execGetStatus s
  | .setMode => Sys2Proof.Machine.execSetMode s
  | .mbxPower => Sys2Proof.Machine.execMbxPower s
  | .survey => Sys2Proof.Machine.execSurvey s
  | .setPosition => Sys2Proof.Machine.execSetPosition s
  | .setGeometry => Sys2Proof.Machine.execSetGeometry s
  | .loadGraticule => Sys2Proof.Machine.execLoadGraticule s
  | .ptpConfig => Sys2Proof.Machine.execPtpConfig s
  | .ptpSession => Sys2Proof.Machine.execPtpSession s
  | .mbxPair => Sys2Proof.Machine.execMbxPair s
  | .mbxQuote => Sys2Proof.Machine.execMbxQuote s
  | .fwUpdate => Sys2Proof.Machine.execFwUpdate s
  | .getLog => Sys2Proof.Machine.execGetLog s
  | .nmeaConfig => Sys2Proof.Machine.execNmeaConfig s
  | .faultEntry => Sys2Proof.Machine.execFaultEntry s
  | .tocNmiack init value => Sys2Proof.Machine.execTocNmiack init value s
  | .windowExpiry edges => Sys2Proof.Machine.execWindowExpiry edges s
  | .release init keepTime => Sys2Proof.Machine.execRelease init keepTime s
  | .planeReset init keepTime => Sys2Proof.Machine.execPlaneReset init keepTime s
  | .planeDone => Sys2Proof.Machine.execPlaneDone s
  | .escalationTimeout edges => Sys2Proof.Machine.execEscalationTimeout edges s
  | .tocLogpop init value => Sys2Proof.Machine.execTocLogpop init value s
  | .lnaOverload p active => Sys2Proof.Machine.execLnaOverload p active s
  | .lnaStepWindowEnd p => Sys2Proof.Machine.execLnaStepWindowEnd p s
  | .pairHbEdge low => Sys2Proof.Machine.execPairHbEdge low s
  | .heartbeatWindowEnd => Sys2Proof.Machine.execHeartbeatWindowEnd s
  | .takeoverReplyReceive sec k => Sys2Proof.Machine.execTakeoverReplyReceive sec k s
  | .undefinedEncoding c ecc => Sys2Proof.Machine.execUndefinedEncoding c ecc s
  | .powerOnSelfTestsDone pass => Sys2Proof.Machine.execPowerOnSelfTestsDone pass s
  | .nymRequestDone ch pass => Sys2Proof.Machine.execNymRequestDone ch pass s
  | .cmdDone => Sys2Proof.Machine.execCmdDone s
  | .sessDone => Sys2Proof.Machine.execSessDone s
  | .tamperConditionCleared sensor => Sys2Proof.Machine.execTamperConditionCleared sensor s
  | .trimWindowStart edges => Sys2Proof.Machine.execTrimWindowStart edges s
  | .vbatRecover => Sys2Proof.Machine.execVbatRecover s
  | .resetNRelease => Sys2Proof.Machine.execResetNRelease s
  | .pcieConfigAccess cfg => Sys2Proof.Machine.execPcieConfigAccess cfg s

end Sys2Proof.Machine
end

