-- ==== Sys2Proof/Safety.lean ====
section
/-! DEFINITION. What counts as a safe run, and the conditions on a state in whose terms the statements are written. -/

namespace Sys2Proof.Machine

/-- The step goes on. -/
def goesOn (o : Host.Outcome State Fault Refusal) : Bool :=
  match o with
  | .next _ => true
  | _ => false

/-- `n` steps from `s` all go on. -/
def safeRun : Nat → State → Bool
  | 0, _ => true
  | n + 1, s =>
    match step s with
    | .next t => safeRun n t
    | _ => false

/-- A computation of a core ends without an exception, with this value. -/
def gives {α : Type} [DecidableEq α] (e : Except Exn α) (v : α) : Bool :=
  match e with
  | .ok x => decide (x = v)
  | .error _ => false

/-- A computation of a core raises this exception. -/
def raises {α : Type} (e : Except Exn α) (x : Exn) : Bool :=
  match e with
  | .ok _ => false
  | .error y => decide (y = x)

/-- The core on which a row of the Swiale instruction set runs; `none` for every other command. -/
def swialeCore : Instr → Option Nat
  | .swNop c _ => some c
  | .swDup c _ => some c
  | .swDrop c _ => some c
  | .swSwapT c _ => some c
  | .swOver c _ => some c
  | .swRot c _ => some c
  | .swPick c _ => some c
  | .swAdd c _ => some c
  | .swSub c _ => some c
  | .swAdds c _ => some c
  | .swSubs c _ => some c
  | .swAnd c _ => some c
  | .swOr c _ => some c
  | .swXor c _ => some c
  | .swNot c _ => some c
  | .swNeg c _ => some c
  | .swAbs c _ => some c
  | .swMin c _ => some c
  | .swMax c _ => some c
  | .swSlt c _ => some c
  | .swSltu c _ => some c
  | .swMul c _ => some c
  | .swMulh c _ => some c
  | .swMulhu c _ => some c
  | .swShl c _ => some c
  | .swShr c _ => some c
  | .swSar c _ => some c
  | .swShlv c _ => some c
  | .swShrv c _ => some c
  | .swSarv c _ => some c
  | .swSext c _ => some c
  | .swExp c _ => some c
  | .swNorm c _ => some c
  | .swJr c _ => some c
  | .swCallr c _ => some c
  | .swRet c _ => some c
  | .swRti c _ => some c
  | .swFence c _ => some c
  | .swWait c _ => some c
  | .swTrap c _ => some c
  | .swLpop c _ => some c
  | .swPushi c _ => some c
  | .swPusha c _ => some c
  | .swPopa c _ => some c
  | .swPushm c _ => some c
  | .swPopm c _ => some c
  | .swPushl c _ => some c
  | .swPopl c _ => some c
  | .swAdda c _ => some c
  | .swPushl24 c _ => some c
  | .swLui c _ => some c
  | .swAddi c _ => some c
  | .swLd c _ _ => some c
  | .swSt c _ => some c
  | .swLdx c _ _ => some c
  | .swStx c _ => some c
  | .swLdf c _ _ => some c
  | .swStf c _ => some c
  | .swMac c _ _ => some c
  | .swMsu c _ _ => some c
  | .swMpy c _ _ => some c
  | .swMpyn c _ _ => some c
  | .swClr c _ => some c
  | .swMacs c _ => some c
  | .swMsus c _ => some c
  | .swMpys c _ => some c
  | .swLda c _ => some c
  | .swAccadd c _ => some c
  | .swAccsub c _ => some c
  | .swNega c _ => some c
  | .swMova c _ => some c
  | .swSra c _ => some c
  | .swExpa c _ => some c
  | .swNorma c _ => some c
  | .swPushal c _ => some c
  | .swPushah c _ => some c
  | .swPushag c _ => some c
  | .swPopacc c _ => some c
  | .swStacc c _ => some c
  | .swBeq c _ => some c
  | .swBne c _ => some c
  | .swBlt c _ => some c
  | .swBge c _ => some c
  | .swBltu c _ => some c
  | .swBgeu c _ => some c
  | .swBz c _ => some c
  | .swBnz c _ => some c
  | .swBneg c _ => some c
  | .swBr c _ => some c
  | .swCall c _ => some c
  | .swLoop c _ => some c
  | .swLoopt c _ => some c
  | .swRep c _ => some c
  | .swRept c _ => some c
  | .swMfcr c _ => some c
  | .swMtcr c _ => some c
  | _ => none

namespace State

/-- The source of MSI-X vector `v` (R497). -/
def vectorSource (s : State) (v : Nat) : Bool :=
  s.flag (F.PCIE_VMAP_EN v) && s.pageIrq (pageNumbered (s.fld (F.PCIE_VMAP_PAGE v)))

/-- Every MSI-X vector stands as R497 leaves it: a pending bit only while messages of the vector cannot leave; no memory of
an edge while its source is inactive; and an active source that can send has sent. -/
def vectorsFollow (s : State) : Bool :=
  !s.host.msixEn || (List.range 32).all fun v =>
    (!(bit s.host.pba v) || s.vecMasked v || !s.msixOpen) &&
    (s.vectorSource v || bit s.host.pba v || !(bit s.host.vecWait v)) &&
    (!(s.vectorSource v && s.msixOpen && !(s.vecMasked v)) || bit s.host.vecWait v)

/-- What holds between two commands: every ERR_STICKY transition has gone to Tocsin (R513), and the vectors follow. -/
def settled (s : State) : Bool := s.tocPend.isEmpty && s.vectorsFollow

end State

namespace State

/-- A word write by `init` at register address `a` is accepted: the initiator has register space (R62), the page is there,
powered, clocked and out of reset (R39, R58, R48), a register is there (R40), MC has been released for HOST (R25), and
Table 2-2 and the block's chapter permit it (R43). -/
def admits (s : State) (init a : Nat) : Bool :=
  regSpace init && decide (s.accessCheck a 4 = .served) && mapped a && !(init = Init.HOST && s.beforeMc) && s.mayWrite init a

/-- A word read by `init` at register address `a` is served (R62, R39, R48, R58). -/
def serves (s : State) (init a : Nat) : Bool := regSpace init && decide (s.accessCheck a 4 = .served)

/-- What a served read leaves: its read effect, the response and the value. -/
def readDone (s : State) (a : Nat) : State := { (s.readEffect a).respond .served with rdata := s.readWord a }

/-- A core holds at most 8 operands, 16 entries of its return stack and 4 loops in registers (R357, R358, R362), as does
the copy kept for an exception in a delay slot. The statement CoreStacksKeepTheirDepth says that its steps keep this. -/
def depthsHold (k : Core) : Bool :=
  decide (k.stack.length ≤ 8) && decide (k.rstack.length ≤ 16) && decide (k.loops.length ≤ 4) &&
    k.slot.all fun d => decide (d.stack.length ≤ 8) && decide (d.rstack.length ≤ 16)

/-- Core `c` is about to execute instruction `o` of `len` bytes, with soft error `ecc` arising meanwhile: it executes its
next instruction (R368, R369), the fetch at its PC gives `o` and leaves the core `k`, its PC noted (R374, R376), and no placement rule forbids
it (R362, R387, R391). Its stacks and loops have the depths that the core can hold. -/
def begins (s : State) (c : Nat) (ecc : Option (Nat × Bool)) (o : SwOp) (len : Nat) (k : Core) : Bool :=
  let k0 := coreEcc (s.coreGet c) ecc
  s.coreReady c && gives ((k0.fetch k0.pc).map fun x => (x.1, x.2.1, { x.2.2 with lastPc := k0.pc })) (o, len, k) &&
    gives (k.misplaced o len) () && depthsHold k

/-- The instruction has completed: `k` is the core after the fetch, `k2` after the instruction's own effect. -/
def finishes (s : State) (c : Nat) (k k2 : Core) (o : SwOp) (len : Nat) (f : Flow) (stall : Nat) : State :=
  (s.coreSet c k).corePut c { (Core.complete k k2 o len f) with cycle := (Core.complete k k2 o len f).cycle + stall }

/-- The request that a write of NYM_CMDc makes: buffer, length and the verdict of the checks at the write (R424, R426, R429);
`cap` is the captured time of a quote. -/
def nymRequest (s : State) (ch : Nat) (op : NymOp) (cap : Option (Nat × Nat × Nat)) : NymReq :=
  ⟨ch, op, s.fld (F.NYM_BUF_ADDR ch), s.fld (F.NYM_LEN_LEN ch),
    s.nymCheck ch op (s.fld (F.NYM_BUF_ADDR ch)) (s.fld (F.NYM_LEN_LEN ch)), cap⟩

/-- The write has been served, the channel is busy, and the request is the last of the queue (R424). -/
def nymQueued (s : State) (r : NymReq) : State :=
  let t := (s.respond .served).setReg (R.NYM_RSTAT r.ch) 0x101
  t.nymPut { t.nym with queue := t.nym.queue ++ [r], reqAt := t.nym.reqAt.set r.ch t.aon.raw }

end State

/-- Frequency response of a filter of `n` taps in 2^-16 at `v` cycles per input sample. -/
noncomputable def response (tap : Nat → Int) (n : Nat) (v : ℝ) : ℂ :=
  ∑ k ∈ Finset.range n, ((tap k : ℂ) / 2 ^ 16) * Complex.exp (-(2 * Real.pi * v * k : ℝ) * Complex.I)

/-- The gain in decibels. -/
noncomputable def decibels (g : ℝ) : ℝ := 20 * Real.log g / Real.log 10

/-- What R128 asks of the decimation filters, whose taps are free values: from 0 to 0.4 of the output rate the gain varies by at
most 0.1 dB, and beyond 0.5 of it lies 60 dB below. A statement that needs it takes it as a premise. -/
def decimationMeets : Prop :=
  ∀ d : Nat, 1 ≤ d → d ≤ 3 → ∀ u v : ℝ, |u| * 2 ^ d ≤ 0.4 →
    (|v| * 2 ^ d ≤ 0.4 → |decibels ‖response (Config.decimTap d) (filterLen d) u‖ - decibels ‖response (Config.decimTap d) (filterLen d) v‖| ≤ 0.1) ∧
    (0.5 ≤ |v| * 2 ^ d → |v| ≤ 0.5 →
      decibels ‖response (Config.decimTap d) (filterLen d) v‖ + 60 ≤ decibels ‖response (Config.decimTap d) (filterLen d) u‖)

/-- What R143 asks of the fractional-delay filter, whose taps are free values: within 100 MHz of the LO its gain lies within 0.05 dB
of 1, and its phase between two frequencies differs from that of the delay by the angle that 5 ps make (1/800 of a sample) at
most. -/
def delayMeets : Prop :=
  ∃ whole : ℝ, ∀ f : Nat, f < 256 → ∀ u v : ℝ, |u| ≤ 0.4 → |v| ≤ 0.4 →
    |decibels ‖response (Config.delayTap f) 16 u‖| ≤ 0.05 ∧
    |Complex.arg (response (Config.delayTap f) 16 u * star (response (Config.delayTap f) 16 v) *
      Complex.exp ((2 * Real.pi * (u - v) * (whole + f / 256) : ℝ) * Complex.I))| ≤ 2 * Real.pi * |u - v| / 800

end Sys2Proof.Machine
end

