-- ==== Sys2Proof/Certificates/Slice0/Obligations.lean ====
section
/-! DEFINITION. The statements for the provers. `State.settle` ends every command (R497, R513); `State.admits` and
`State.serves` are the checks that a write and a read of register space meet (Safety.lean). -/

open Sys2Proof Sys2Proof.Machine Sys2Proof.Machine.State

/-- A word access to register space that is accepted acts, and a read that is served answers. For every state and operands that meet the checks of register space (a mapped word of a page that answers, an initiator that may write it), each register command answers the next state in which the access is served and the register has acted, or its value has been returned and its read effect has happened. Completes: registerWrite, rcFieldRead, tbuNowRead, rtcCntRead, rtcCalRead, aonRawRead, acqCellsRead, uartDataRead, uartDataWrite, qspiDataAccess, ptpRxdataRead, pmuRetdataAccess, evictRead. (02_register_pages.md R39; 02_register_pages.md R40; 02_register_pages.md R41; 02_register_pages.md R43; 02_register_pages.md R48) -/
def Obligations.RegisterSpaceCommandsComplete : Prop :=
  (∀ (s : State) (init addr value : Nat), s.admits init addr = true → 
      exec (.registerWrite init addr 4 value) s = .next (State.settle ((s.respond .served).regAct init addr (BitVec.ofNat 32 value)))) ∧
  (∀ (s : State) (init addr : Nat), s.serves init addr = true → 
      exec (.rcFieldRead init addr 4) s = .next (State.settle (s.readDone addr))) ∧
  (∀ (s : State) (init : Nat), s.serves init R.TBU_NOW0 = true → 
      exec (.tbuNowRead init) s = .next (State.settle ({ (s.captureTime R.TBU_NOW0 s.nowFrac s.tbu.samp).respond .served with rdata := s.readWord R.TBU_NOW0 }))) ∧
  (∀ (s : State) (init : Nat), s.serves init R.RTC_CNT0 = true → 
      exec (.rtcCntRead init) s = .next (State.settle ({ ((s.setReg R.RTC_CNT1 (BitVec.ofNat 32 (s.aon.sec / 2 ^ 32 % 2 ^ 16))).setReg R.RTC_SUB (BitVec.ofNat 32 s.aon.sub)).respond .served with rdata := s.readWord R.RTC_CNT0 }))) ∧
  (∀ (s : State) (init : Nat), s.serves init R.RTC_CAL0 = true → 
      exec (.rtcCalRead init) s = .next (State.settle ({ (s.setReg R.RTC_CAL1 (BitVec.ofNat 32 (s.aon.cal.getD 4 0 + s.aon.cal.getD 5 0 * 2 ^ 8))).respond .served with rdata := s.readWord R.RTC_CAL0 }))) ∧
  (∀ (s : State) (init : Nat), s.serves init R.AON_RAW0 = true → 
      exec (.aonRawRead init) s = .next (State.settle ({ (s.setReg R.AON_RAW1 (BitVec.ofNat 32 (s.aon.raw / 2 ^ 32 % 2 ^ 16))).respond .served with rdata := s.readWord R.AON_RAW0 }))) ∧
  (∀ (s : State) (init : Nat), s.serves init R.ACQ_CELLSLO = true → 
      exec (.acqCellsRead init) s = .next (State.settle ({ (s.setReg R.ACQ_CELLSHI (BitVec.ofNat 32 (s.acq.cells / 2 ^ 32))).respond .served with rdata := s.readWord R.ACQ_CELLSLO }))) ∧
  (∀ (s : State) (init u : Nat), u < 2 → s.serves init (R.UART_DATA u) = true → 
      exec (.uartDataRead init u) s = .next (State.settle ({ (s.uartPop u).1.respond .served with rdata := s.readWord (R.UART_DATA u) }))) ∧
  (∀ (s : State) (init u value : Nat), u < 2 → s.admits init (R.UART_DATA u) = true → (s.host.uartTx.getD u []).length < 64 → 
      exec (.uartDataWrite init u value) s = .next (State.settle ((s.respond .served).hostPut { s.host with uartTx := s.host.uartTx.set u (s.host.uartTx.getD u [] ++ [BitVec.ofNat 8 value]) }))) ∧
  (∀ (s : State) (init value : Nat), s.admits init R.QSPI_DATA = true → 
      exec (.qspiDataAccess init true value) s = .next (State.settle ((s.respond .served).hostPut { s.host with qspi := (s.host.qspi ++ leBytes 4 value).take 256 }))) ∧
  (∀ (s : State) (init value : Nat), s.serves init R.QSPI_DATA = true → 
      exec (.qspiDataAccess init false value) s = .next (State.settle ({ s.qspiPop.1.respond .served with rdata := s.readWord R.QSPI_DATA }))) ∧
  (∀ (s : State) (init : Nat), s.serves init R.PTP_RXDATA = true → 
      exec (.ptpRxdataRead init) s = .next (State.settle ({ s.rxData.1.respond .served with rdata := s.readWord R.PTP_RXDATA }))) ∧
  (∀ (s : State) (init value : Nat), s.admits init R.PMU_RETDATA = true → 
      exec (.pmuRetdataAccess init true value) s = .next (State.settle (((s.respond .served).retNat (311 + s.fld F.PMU_RETIDX_INDEX) value).addFld F.PMU_RETIDX_INDEX 1))) ∧
  (∀ (s : State) (init value : Nat), s.serves init R.PMU_RETDATA = true → 
      exec (.pmuRetdataAccess init false value) s = .next (State.settle ({ (s.addFld F.PMU_RETIDX_INDEX 1).respond .served with rdata := s.readWord R.PMU_RETDATA }))) ∧
  (∀ (s : State) (init : Nat), s.serves init R.CHS2_EVICT = true → 
      exec (.evictRead init) s = .next (State.settle ({ s.evictPop.respond .served with rdata := s.readWord R.CHS2_EVICT })))

/-- The commands of the common header, the mode command and the measured fields complete. An accepted write of ENABLE, SOFT_RESET, PAGE_COMMIT or PAGE_LOCK acts on its page; a block that has drained clears RUNNING, a soft reset ends; the mode command of MC becomes pending; a measured field takes its value. Completes: enableWrite, blockStopped, softReset, softResetDone, pageCommit, pageLock, modeCommand, measurementSample. (02_register_pages.md R45; 02_register_pages.md R47; 02_register_pages.md R51; 02_register_pages.md R54; 02_register_pages.md R56; 01_receiver_overview.md R25; 02_register_pages.md R546) -/
def Obligations.PageCommandsComplete : Prop :=
  (∀ (s : State) (init page : Nat) (on : Bool), page % 4096 = 0 → s.admits init (R.PAGE_CTRL page) = true → s.flag (F.LOCK_LOCK page) = false → 
      exec (.enableWrite init page on) s = .next (State.settle ((s.respond .served).ctrlWrite init page (putBits (s.reg (R.PAGE_CTRL page) &&& ~~~2) 0 1 (b2n on))))) ∧
  (∀ (s : State) (page : Nat), (kindOf page).isSome = true → page ≠ P.CORE 11 → s.enabled page = false → s.running page = true → s.drained page = true → 
      exec (.blockStopped page) s = .next (State.settle (s.setFlag (F.STAT_RUNNING page) false))) ∧
  (∀ (s : State) (init page : Nat), page % 4096 = 0 → s.admits init (R.PAGE_CTRL page) = true → s.flag (F.LOCK_LOCK page) = false → ctrlFixed page = false → 
      exec (.softReset init page) s = .next (State.settle ((s.respond .served).ctrlWrite init page (s.reg (R.PAGE_CTRL page) ||| 2)))) ∧
  (∀ (s : State) (page : Nat), (kindOf page).isSome = true → s.inReset page = true → (((s.setFlag (F.CTRL_SOFT_RESET page) false).setFlag (F.STAT_IN_RESET page) false).enabled page) = false → 
      exec (.softResetDone page) s = .next (State.settle ((s.setFlag (F.CTRL_SOFT_RESET page) false).setFlag (F.STAT_IN_RESET page) false))) ∧
  (∀ (s : State) (page : Nat), (kindOf page).isSome = true → s.inReset page = true → (((s.setFlag (F.CTRL_SOFT_RESET page) false).setFlag (F.STAT_IN_RESET page) false).enabled page) = true → 
      exec (.softResetDone page) s = .next (State.settle (((s.setFlag (F.CTRL_SOFT_RESET page) false).setFlag (F.STAT_IN_RESET page) false).blockStart page))) ∧
  (∀ (s : State) (init page : Nat), page % 4096 = 0 → s.admits init (R.PAGE_COMMIT page) = true → ((kindOf page).any fun k => decide (k.1.commit = .commit)) = true → 
      exec (.pageCommit init page 0xC0DE0001) s = .next (State.settle ((s.respond .served).pageTransfer page))) ∧
  (∀ (s : State) (init page : Nat), page % 4096 = 0 → s.admits init (R.PAGE_LOCK page) = true → s.flag (F.LOCK_LOCK page) = false → 
      exec (.pageLock init page 1) s = .next (State.settle ((s.respond .served).setReg (R.PAGE_LOCK page) (BitVec.ofNat 32 (1 + init % 32 * 256))))) ∧
  (∀ (s : State) (init target : Nat), init = Init.MC → s.admits init R.SYS_MODECMD = true → 
      exec (.modeCommand init target) s = .next (State.settle (({ (s.respond .served).setFld F.SYS_MODECMD_TARGET (target % 8) with sys := { s.sys with cmdTarget := target % 8 % 8 } }).setFlag F.SYS_MODE_CMD_PEND true))) ∧
  (∀ (s : State) (v : Nat), 
      exec (.measurementSample (.vant v)) s = .next (State.settle (s.setFld F.ANT_VANT_VOLT v))) ∧
  (∀ (s : State) (n cur vout : Nat), n < 8 → 
      exec (.measurementSample (.feed n cur vout)) s = .next (State.settle (((s.setFld (F.ANT_MEAS_CUR n) cur).setFld (F.ANT_MEAS_VOUT n) vout).antLimiting n cur))) ∧
  (∀ (s : State) (v : Nat), 
      exec (.measurementSample (.vbat v)) s = .next (State.settle (s.setFld F.AON_VBAT_VBAT v)))

/-- The events of the time base, Drumline, the time outputs and the auxiliary converters complete. Under the conditions that the rules give each event (a loaded TBU, the stale interval, a due leap, a waiting TBU with a reference, a wanted edge with room in its FIFO, a running scan), the command answers the next state with that event's own effect. Completes: triggerFire, solStale, leapDue, tbuLoad, tbuUncUpdate, tbuReload, tioSecond, pulseEnd, evinCapture, eventPop, dacTargetWrite, adcScanDone. (11_timebase.md R273; 11_timebase.md R276; 11_timebase.md R278; 11_timebase.md R281; 11_timebase.md R284; 11_timebase.md R286; 11_timebase.md R290; 11_timebase.md R293; 11_timebase.md R545) -/
def Obligations.TimeCommandsComplete : Prop :=
  (∀ (s : State) (dt ds n i : Nat) (raw : List (List Iq)) (e : EpochIn) (s0 s2 s1 : State), s0 = (s.feed raw).advance dt ds → ((List.range 32).filterMap fun n => (s0.trigDue n).map fun x => (n, x)) = [(n, i, false)] → s2 = s0.trigFire n i false e.off e.samp → s1 = ({ s2 with tbu := { s2.tbu with stepSpan := none } } : State) → n ≠ s1.fld F.COR_CTL_EPOCH_DRL → 
      exec (.triggerFire dt ds raw e) s = .next (State.settle ((s1.trigRearm n i).wakeShadow))) ∧
  (∀ (s : State) (dt ds : Nat), 3 ≤ (s.advance dt ds).qual → (s.advance dt ds).tbu.lastSolq + 2 * tuSec ≤ (s.advance dt ds).tbu.time → 
      exec (.solStale dt ds) s = .next (State.settle (((((s.advance dt ds).setFld F.TBU_QUAL_SOLQ 2).irq P.TBU 3).sticky P.TBU 10).qualUpdate))) ∧
  (∀ (s : State) (dt ds : Nat), (s.advance dt ds).leapDue = true → (s.advance dt ds).fld F.TBU_UTC_LEAP = 1 → 
      exec (.leapDue dt ds) s = .next (State.settle ((((s.advance dt ds).setFldI F.TBU_UTC_OFFSET ((s.advance dt ds).fldI F.TBU_UTC_OFFSET + 1)).setFld F.TBU_UTC_LEAP 0).irq P.TBU 1))) ∧
  (∀ (s : State) (edges : Nat), s.flag F.TBU_QUAL_WAIT = true → s.loaded = false → s.tbuRefOk = true → s.regBit (R.PAGE_CTRL P.TBU) 4 = false → 
      exec (.tbuLoad edges) s = .next (State.settle (s.tbuLoadAt (((s.reg R.TBU_LD0).toNat + s.fld F.TBU_LD1_SEC * 2 ^ 32) * tuSec + min 999999999 (s.fld F.TBU_LD2_NS) * tuNs) 0 uncMax))) ∧
  (∀ (s : State) (dt ds : Nat), 
      exec (.tbuUncUpdate dt ds) s = .next (State.settle ((s.advance dt ds).uncUpdate))) ∧
  (∀ (s : State) (edges : Nat) (s1 : State) (n unc : Nat), s.flag F.TBU_SLPSTAT_PENDING = true → s.tbuRefOk = true → edges ≠ 0 → s1 = s.aonRun edges → n = (s1.aon.raw + 2 ^ 48 - s1.tbu.snapC) % 2 ^ 48 → unc = (-(-(((n * (1000000000 * 2 ^ 16) : Nat) : Int) * ((2 ^ 25 : Int) + s1.aon.trim) * s1.fld F.RTC_UNCPPB_PPB * 1000 + (30517578 * 10 ^ 9 * 2 ^ 56 : Nat)) / ((10 ^ 12 * 2 ^ 56 : Nat) : Int))).toNat → 
      exec (.tbuReload edges) s = .next (State.settle (((((((s1.setReg R.TBU_RATE0 (BitVec.ofNat 32 s1.tbu.snapRate)).setFld F.TBU_RATE1_RATE (s1.tbu.snapRate / 2 ^ 32)).tbuLoadAt ((s1.tbu.snapT + roundDiv (((n * (1000000000 * 2 ^ 16) : Nat) : Int) * ((2 ^ 25 : Int) + s1.aon.trim)) (2 ^ 40)).toNat * tuFrac) 1 unc).setFld F.TBU_SLPCYC0_CYC n).setFld F.TBU_SLPCYC1_CYC (n / 2 ^ 32)).setFlag F.TBU_SLPSTAT_PENDING false).setFlag F.TBU_SLPSTAT_RELOADED true))) ∧
  (∀ (s : State) (dt ds : Nat), (s.advance dt ds).loaded = true → (s.advance dt ds).tioRuns = true → ((s.advance dt ds).tio.second.all fun l => decide (l < (s.advance dt ds).nowSec)) = true → 
      exec (.tioSecond dt ds) s = .next (State.settle ((((((({ s.advance dt ds with tio := { (s.advance dt ds).tio with second := some (s.advance dt ds).nowSec } } : State).irq P.TIO 4).ppsKeepPol).commitPoint P.TIO).toutFit).ppsNext ((s.advance dt ds).nowSec + 1)).pinsDue))) ∧
  (∀ (s : State) (dt ds : Nat), (s.advance dt ds).gated P.TIO = false → 
      exec (.pulseEnd dt ds) s = .next (State.settle ({ s.advance dt ds with tio := { (s.advance dt ds).tio with pps := (s.advance dt ds).tio.pps.map (s.advance dt ds).pinEnd, tout := (s.advance dt ds).tio.tout.map (s.advance dt ds).pinEnd } }))) ∧
  (∀ (s : State) (dt ds m : Nat) (rise : Bool) (off : Nat), m < 4 → (s.advance dt ds).loaded = true → (s.advance dt ds).tioRuns = true → (s.advance dt ds).fld (F.TIO_EVCFG_EDGE m) = 3 → ((s.advance dt ds).evFifo m).length < 4 → (s.advance dt ds).tio.evLast.getD m none = none → 
      exec (.evinCapture dt ds m rise off) s = .next (State.settle (({ s.advance dt ds with tio := { (s.advance dt ds).tio with ev := (s.advance dt ds).tio.ev.set m ((s.advance dt ds).evFifo m ++ [⟨((s.advance dt ds).tbu.time + off * tu25) / tuFrac, rise, (s.advance dt ds).qual⟩]), evLast := (s.advance dt ds).tio.evLast.set m (some (((s.advance dt ds).tbu.time + off * tu25) / tuFrac)) } } : State).irq P.TIO m))) ∧
  (∀ (s : State) (init m : Nat), m < 4 → s.admits init (R.TIO_EVSEC1 m) = true → 
      exec (.eventPop init m) s = .next (State.settle ({ s.respond .served with tio := { s.tio with ev := s.tio.ev.set m ((s.evFifo m).drop 1) } }))) ∧
  (∀ (s : State) (init value : Nat), s.admits init R.AUX_DACNEXT = true → 
      exec (.dacTargetWrite init value) s = .next (State.settle (((s.respond .served).setFld F.AUX_DACNEXT_TARGET value).setFlag F.AUX_DACNEXT_PEND true))) ∧
  (∀ (s : State) (sums : List Nat), s.adcLive = true → s.flag F.AUX_ADCSTAT_BUSY = true → 
      exec (.adcScanDone sums) s = .next (State.settle ((((List.range 8).foldl (State.adcResult sums) (s.addFld F.AUX_ADCSTAT_SCANS 1)).setFlag F.AUX_ADCSTAT_BUSY (s.flag F.AUX_ADCCFG_FREE)).irq P.AUX 0)))

/-- Synthesiser commands complete from the states that the rules give them. A calibration command of a locked synthesiser in range starts a calibration with cause 1; a temperature sample is stored; lock ends a calibration or a settling; lock loss and the lock time-outs lead to UNLOCKED with their sticky bits and counters. Completes: synCal, synTempSample, synLockAchieved, synLockLost, synLockTimeout. (03_antenna_rf.md (synthesisers: SYN_STAT, SYN_TCAL, R76 to R86)) -/
def Obligations.SynthesiserCommandsComplete : Prop :=
  (∀ (s : State) (b init : Nat), b < 2 → s.admits init (R.SYN_CTRL b) = true → s.shM = [] → s.synState b = .locked → synInRange b (s.synWanted b) = true → 
      exec (.synCal b init) s = .next (State.settle ((s.respond .served).synStartCal b (s.synWanted b) 1))) ∧
  (∀ (s : State) (b : Nat) (t : Int), b < 2 → (s.setFldI (F.SYN_TEMP_NOW b) t).flag (F.SYN_TEMP_CAL_V b) = false → 
      exec (.synTempSample b t) s = .next (State.settle ((s.setFldI (F.SYN_TEMP_NOW b) t).gratFollow b))) ∧
  (∀ (s : State) (b : Nat), b < 2 → s.synState b = .unlocked → (s.synGet b).retune = false → 
      exec (.synLockAchieved b) s = .next (State.settle ((s.synSet b { s.synGet b with retune := false }).synEnter b .locked))) ∧
  (∀ (s : State) (b : Nat), b < 2 → s.synState b = .locked → 
      exec (.synLockLost b) s = .next (State.settle (((s.synEnter b .unlocked).satFld (F.SYN_COUNT_LOSSES b) 1).sticky (P.SYN b) 10))) ∧
  (∀ (s : State) (b : Nat), b < 2 → s.synState b = .cal → 
      exec (.synLockTimeout b) s = .next (State.settle (((s.synSet b ⟨(s.synGet b).retune, 0⟩).synEnter b .unlocked).sticky (P.SYN b) 11))) ∧
  (∀ (s : State) (b : Nat), b < 2 → s.synState b = .settle → 
      exec (.synLockTimeout b) s = .next (State.settle (((s.synSet b ⟨(s.synGet b).retune, 0⟩).synEnter b .unlocked).sticky (P.SYN b) 10)))

/-- Antenna-feed commands complete. A short of a switched-on feed outside its blanking folds it back, an open feed is recorded, the blanking ends, an automatic retry clears the fold-back, REARM re-arms the feeds of its mask, over-temperature clears a feed, and the supply monitor records undervoltage, overvoltage and recovery. Completes: antShort, antOpen, antBlankEnd, antAutoretry, antRearm, antOvertemp, vantUndervoltage, vantOvervoltage, vantRecover. (03_antenna_rf.md (antenna feeds: ANT_EN, ANT_STAT, R87 to R93)) -/
def Obligations.AntennaCommandsComplete : Prop :=
  (∀ (s : State) (n : Nat), n < 8 → bit (s.fld F.ANT_STAT_ON) n = true → 10 < s.antIlim n → s.rfs.blank.getD n false = false → bit (s.fld F.ANT_STAT_FOLDED) n = false → 
      exec (.antShort n) s = .next (State.settle (((s.setFld F.ANT_STAT_FOLDED (setBit (s.fld F.ANT_STAT_FOLDED) n true)).setFld F.ANT_STAT_LIMITING (setBit (s.fld F.ANT_STAT_LIMITING) n false)).sticky P.ANT (8 + n) n))) ∧
  (∀ (s : State) (n : Nat), n < 8 → bit (s.fld F.ANT_STAT_ON) n = true → 
      exec (.antOpen n) s = .next (State.settle ((s.setFld F.ANT_STAT_OPEN (setBit (s.fld F.ANT_STAT_OPEN) n true)).sticky P.ANT (16 + n) n))) ∧
  (∀ (s : State) (n : Nat), 
      exec (.antBlankEnd n) s = .next (State.settle ({ s with rfs := { s.rfs with blank := s.rfs.blank.set n false } }))) ∧
  (∀ (s : State) (n : Nat), n < 8 → bit (s.fld F.ANT_STAT_FOLDED) n = true → s.flag (F.ANT_CFG_AUTORETRY n) = true → 
      exec (.antAutoretry n) s = .next (State.settle (s.setFld F.ANT_STAT_FOLDED (setBit (s.fld F.ANT_STAT_FOLDED) n false)))) ∧
  (∀ (s : State) (init mask : Nat), s.admits init R.ANT_REARM = true → 
      exec (.antRearm init mask) s = .next (State.settle ((List.range 8).foldl (State.antRearmOne mask) (s.respond .served)))) ∧
  (∀ (s : State) (n : Nat), n < 8 → 
      exec (.antOvertemp n) s = .next (State.settle ((((s.antClear n).blankSet n false).setFld F.ANT_STAT2_HOT (setBit (s.fld F.ANT_STAT2_HOT) n true)).sticky P.ANT 26 n))) ∧
  (∀ (s : State), 
      exec (.vantUndervoltage) s = .next (State.settle (((s.setFlag F.ANT_VANT_UV true).antApply).sticky P.ANT 24))) ∧
  (∀ (s : State), 
      exec (.vantOvervoltage) s = .next (State.settle (((s.setFlag F.ANT_VANT_OV true).antApply).sticky P.ANT 25))) ∧
  (∀ (s : State), 
      exec (.vantRecover) s = .next (State.settle (((s.setFlag F.ANT_VANT_UV false).setFlag F.ANT_VANT_OV false).antApply)))

/-- Commands of the calibration injector and of the LNA protection complete. GO of an idle injector whose conditions hold starts the sequence; STOP ends it; HOLD times out to idle with GO_TIMEOUT; a sequence step raises the next line; a release step lowers one; a return-loss window records its measurements and stops a mismatched injector; the level checks act while it radiates; an overload and its window end act on their path. Completes: calGo, calStop, calHoldTimeout, calSeqStep, calReleaseStep, calRlWindow, calLevelOk, calLevelFail, lnaOverload, lnaStepWindowEnd. (04_calibration_injector.md (CAL states, R93 to R103); 03_antenna_rf.md (RF paths, LNA protection)) -/
def Obligations.InjectorAndPathCommandsComplete : Prop :=
  (∀ (s : State) (init : Nat), s.admits init R.CAL_CMD = true → s.calState = 0 → s.calRefuse = 0 → s.synState (s.fld F.CAL_CFG_SYN) = .locked → 
      exec (.calGo init) s = .next (State.settle ((s.respond .served).calStart))) ∧
  (∀ (s : State) (init : Nat), s.admits init R.CAL_CMD = true → s.calState = 3 → 
      exec (.calStop init) s = .next (State.settle ((s.respond .served).calStopNow))) ∧
  (∀ (s : State), s.calState = 1 → 
      exec (.calHoldTimeout) s = .next (State.settle (((s.setCalState 0).setFlag F.CAL_STAT_GO_TIMEOUT true).sticky P.CAL 9))) ∧
  (∀ (s : State), s.calState = 2 → s.calLinesUp ≠ 3 → 
      exec (.calSeqStep) s = .next (State.settle (s.setFld F.CAL_STAT_LINES (setBit (s.fld F.CAL_STAT_LINES) s.calLinesUp true)))) ∧
  (∀ (s : State), s.calState = 4 → 
      exec (.calReleaseStep) s = .next (State.settle (({ s with rfs := { s.rfs with calStop := none } } : State).calReleaseOne))) ∧
  (∀ (s : State) (rl pwr : Nat), s.calState = 3 → ¬ rl < 5 * clampNat 8 40 (s.fld F.CAL_MATCH_RL_TH) → 
      exec (.calRlWindow rl pwr) s = .next (State.settle ((s.setFld F.CAL_RL_RL rl).setFld F.CAL_RL_PWR pwr))) ∧
  (∀ (s : State) (rl pwr : Nat), s.calState = 3 → rl < 5 * clampNat 8 40 (s.fld F.CAL_MATCH_RL_TH) → 
      exec (.calRlWindow rl pwr) s = .next (State.settle (((((s.setFld F.CAL_RL_RL rl).setFld F.CAL_RL_PWR pwr).calStopNow).setFlag F.CAL_STAT_MISMATCH_STOP true).sticky P.CAL 8))) ∧
  (∀ (s : State), s.calState = 3 → 
      exec (.calLevelOk) s = .next (State.settle (s.setFlag F.CAL_STAT_LEVEL_OK true))) ∧
  (∀ (s : State), s.calState = 3 → 
      exec (.calLevelFail) s = .next (State.settle (s.sticky P.CAL 11))) ∧
  (∀ (s : State) (p : Nat) (active : Bool), p < 16 → active = true → 
      exec (.lnaOverload p active) s = .next (State.settle ((s.setFlag (F.RFE_STAT_OVL p) true).sticky (P.RFE p) 8))) ∧
  (∀ (s : State) (p : Nat) (active : Bool), p < 16 → active = false → 
      exec (.lnaOverload p active) s = .next (State.settle (s.setFlag (F.RFE_STAT_OVL p) false))) ∧
  (∀ (s : State) (p : Nat), p < 16 → 
      exec (.lnaStepWindowEnd p) s = .next (State.settle (s.pathSet p { s.pathGet p with lnaWindow := false })))

/-- Block boundaries, solves and reports of the front end and the arrays complete. A covariance or monitor block ends on every path and band, a due solve whose system is regular publishes its weights, a due jammer report is shown with JAM_REPORT raised, and a spectrum report of a live path is shown. Completes: covarianceBlockEnd, b0Solve, jamReportDone, smBlockEnd, smReport. (05_digital_front_end.md (blocks, spectrum monitor); 06_array_processor.md (solve, report, R147 to R156)) -/
def Obligations.SignalBlockCommandsComplete : Prop :=
  (∀ (s : State) (raw rest : List (List Iq)) (s1 s2 s3 : State), s.feedTo raw = (s1, rest) → s1.sig.covDue = true → s2 = (List.range 16).foldl State.showCoefs (((List.range 16).foldl State.dfePathEnd ((List.range 2).foldl State.bandBlockEnd s1.smBlockEnd)).notchChanges) → s3 = ({ s2 with sig := { s2.sig with covDue := false, tail := some 72 } } : State).feed rest → s3.sig.tail ≠ some 0 → 
      exec (.covarianceBlockEnd raw) s = .next (State.settle (s3))) ∧
  (∀ (s : State) (raw rest : List (List Iq)) (s1 s2 s3 : State), s.feedTo raw = (s1, rest) → s1.sig.covDue = false → s2 = s1.feed rest → s2.sig.tail = some 0 → s3 = (List.range 2).foldl State.arrBlockEnd s2 → 
      exec (.covarianceBlockEnd raw) s = .next (State.settle ({ s3 with sig := { s3.sig with tail := none } }))) ∧
  (∀ (s : State) (b : Nat) (job : SolveJob) (x : List Cx), b < 2 → s.live (P.ARR b) = true → (s.arrGet b).due = some job → b0Mode job.cfg ≠ 2 → job.fresh = true → solveWeights job = some x → 
      exec (.b0Solve b) s = .next (State.settle ((((arrPublish b (s.arrSet b { s.arrGet b with due := none }) 0 x).addFld (F.ARR_WSTAT_WEPOCH b) 1).setFld (F.ARR_WSTAT_LAST b) 1).arrSet b { ((((arrPublish b (s.arrSet b { s.arrGet b with due := none }) 0 x).addFld (F.ARR_WSTAT_WEPOCH b) 1).setFld (F.ARR_WSTAT_LAST b) 1).arrGet b) with reportDue := some job }))) ∧
  (∀ (s : State) (b n : Nat) (job : SolveJob) (cand : List (Nat × List Iq)) (js : List (Nat × Option (Nat × Int × Nat))) (s2 : State), b < 2 → (s.arrGet b).reportDue = some job → cand = ((jamEigen (job.ravg.getD [])).2.filter fun v => aboveFloor (4 * v.1) (jamEigen (job.ravg.getD [])).1 (getBits job.cfg 16 8)) → js = ((cand.take 4).map fun v => (levelAbove (4 * v.1) (jamEigen (job.ravg.getD [])).1, if getBits job.ctl 1 1 = 1 then some ((jamDirection (elementPos job.pos) job.lo v.2).1, (jamDirection (elementPos job.pos) job.lo v.2).2, nullDepth (elementPos job.pos) job.lo ((List.range 8).map fun e => cxWord (s.reg (R.ARR_B0W b e))) (jamDirection (elementPos job.pos) job.lo v.2)) else none)) → n = min 7 cand.length → s2 = (((((List.range 4).foldl (State.jamShow b js) (s.arrSet b { s.arrGet b with reportDue := none })).setFld (F.ARR_NULL_NJAM b) n).jamSupp b job)).irq (P.ARR b) 0 → ((List.range 4).any fun k => s2.flag (F.ARR_JAMA_DIR_V b k) && decide (s2.fld (F.ARR_JAMB_DEPTH b k) < getBits job.cfg 24 8)) = false → n = s.fld (F.ARR_NULL_NJAM b) → s.jamMoved s2 b = false → 
      exec (.jamReportDone b) s = .next (State.settle (s2))) ∧
  (∀ (s : State) (raw : List (List Iq)) (s1 s2 : State), s1 = s.feed raw → s1.sig.smDue = true → s2 = (List.range 16).foldl State.smPath s1 → 
      exec (.smBlockEnd raw) s = .next (State.settle (({ s2 with sig := { s2.sig with smDue := false } } : State).dfeBoundary s2.sig.covDue))) ∧
  (∀ (s : State) (p used fl : Nat) (sum bins : List Nat) (pw : List Nat) (pk : List (Int × Nat)) (s1 s2 s3 s4 s5 : State), p < 16 → (s.pathSig p).mon.report = some (sum, used) → bins = byBin sum → fl = (if 0 < used then floorPower (s.ifBw p) bins else 0) → pk = (if 0 < used then reportPeaks (localMaxima (s.ifBw p) fl (s.fld (F.DFE_SMCFG_PK_TH p)) bins) else []) → pw = (if 0 < used then (List.range 8).map (fun k => s.notchPower p k (s.pathSig p).mon.valid fl used) else []) → s1 = s.pathSigSet p { s.pathSig p with notch := (s.pathSig p).notch.map (fun x => { x with removed := 0 }), mon := { (s.pathSig p).mon with report := none, valid := 0 } } → s2 = (List.range 8).foldl (State.smShowPeak p fl pk) ((((if 0 < used then s1.setFld (F.DFE_SMSTAT_FLOOR p) (binLevel fl used) else s1).setFld (F.DFE_SMSTAT_NPEAK p) pk.length).setFlag (F.DFE_SMSTAT_VALID p) (decide (0 < used))).irq (P.DFE p) 0) → s3 = s2.dfeSet p { s2.dfeGet p with peaks := pk.map (·.1) } → s4 = (if s3.notchLeader p = p then (pk.foldl (State.notchAssign p fl) ((List.range 8).foldl (State.notchRelease p pw) s3)).notchShow (p % 2) else s3) → s5 = (if 0 < used then (List.range 16).foldl (State.capSpectrum p (bins.map fun b => binLevel b used)) s4 else s4) → 
      exec (.smReport p) s = .next (State.settle ((if (pk.any fun m => (s.dfeGet p).peaks.all fun o => decide (3 < (o - m.1).natAbs)) then (s5.irq (P.DFE p) 1).capInterference (p % 2) else s5))))

/-- Commands and events of the capture port complete. ARM of an idle valid channel arms it; STOP of an armed channel returns it to idle; a first RMS block starts a channel that waits for nothing else; a buffer that the next group does not fit into closes a linear capture; the post-trigger count, an overflow and an ownership error end a running capture; a closed capture completes. Completes: capArm, capStop, capRmsBlock, capBufferFull, capPostDone, capFifoOverflow, capOwnError, capComplete. (05_digital_front_end.md (capture port, R132 to R138)) -/
def Obligations.CaptureCommandsComplete : Prop :=
  (∀ (s : State) (n init : Nat), n < 16 → s.admits init (R.DFE_CAPCMD n) = true → s.capState n = 0 → s.capValid n = true → 
      exec (.capArm n init) s = .next (State.settle ((((((s.respond .served).capSet n CapChan.reset).setFld (F.DFE_CAPSTAT_STATE n) 1).setFlag (F.DFE_CAPSTAT_WRAPPED n) false)).capShow n))) ∧
  (∀ (s : State) (n init : Nat), n < 16 → s.admits init (R.DFE_CAPCMD n) = true → s.capState n = 1 → 
      exec (.capStop n init) s = .next (State.settle ((s.respond .served).setFld (F.DFE_CAPSTAT_STATE n) 0))) ∧
  (∀ (s : State) (n time : Nat) (raw : List (List Iq)) (s1 : State), n < 16 → s1 = s.feed raw → s1.capState n = 2 → s1.capRmsDue n = true → 
      exec (.capRmsBlock n time raw) s = .next (State.settle (s1.capSet n { s1.capGet n with mix := (s1.capGet n).mix.close, spectrum := false }))) ∧
  (∀ (s : State) (n time : Nat) (raw : List (List Iq)) (s1 s2 : State), n < 16 → s1 = s.feed raw → s1.capState n = 1 → s1.capRmsDue n = true → (s1.capGet n).mix.rms = none → s1.fld (F.DFE_CAPTRIG_START n) = 0 → s2 = s1.capSet n { s1.capGet n with mix := (s1.capGet n).mix.close, spectrum := false } → 
      exec (.capRmsBlock n time raw) s = .next (State.settle ((s2.capSet n { s2.capGet n with t0 := some time, skip := 0 }).setFld (F.DFE_CAPSTAT_STATE n) 2))) ∧
  (∀ (s : State) (n : Nat) (raw : List (List Iq)) (s1 : State), n < 16 → s1 = s.feed raw → s1.fld (F.DFE_CAPSRC_KIND n) ≠ 3 → s1.capState n = 2 → (s1.capGet n).closing = none → s1.capFits n (s1.capGroup n) = false → s1.capRing n = false → 
      exec (.capBufferFull n raw) s = .next (State.settle (s1.capClose n 0))) ∧
  (∀ (s : State) (n : Nat) (raw : List (List Iq)) (s1 : State), n < 16 → s1 = s.feed raw → s1.capState n = 3 → (s1.capGet n).closing = none → (s1.capGet n).postLeft = 0 → 
      exec (.capPostDone n raw) s = .next (State.settle (s1.capClose n 0))) ∧
  (∀ (s : State) (n : Nat), n < 16 → s.capState n = 2 → (s.capGet n).closing = none → 
      exec (.capFifoOverflow n) s = .next (State.settle (((s.capClose n 2).setFlag (F.DFE_CAPSTAT_OVERRUN n) true).sticky (P.DFE n) 10 2))) ∧
  (∀ (s : State) (n : Nat), n < 16 → s.capState n = 3 → 
      exec (.capOwnError n) s = .next (State.settle ((((s.setFld (F.DFE_CAPSTAT_STATE n) 0).setFlag (F.DFE_CAPSTAT_OWN_ERR n) true).sticky (P.DFE n) 11 3).irq (P.DFE n) 4))) ∧
  (∀ (s : State) (n time st : Nat) (s1 s2 : State), n < 16 → (s.capGet n).closing = some st → s1 = s.capFlush n → s1.capState n ≠ 0 → s1.portWrite Init.DFE (s1.capBase n) (s1.capHeader n (if s1.flag (F.DFE_CAPSTAT_WRAPPED n) then time else (s1.capGet n).t0.getD time) (st + b2n (s1.flag (F.DFE_CAPSTAT_WRAPPED n)))) = (s2, true) → s2.fld (F.DFE_CAPFMT_HANDTO n) = 0 → 
      exec (.capComplete n time) s = .next (State.settle (((s2.capSet n { s2.capGet n with closing := none }).setFld (F.DFE_CAPSTAT_STATE n) 4).irq (P.DFE n) 3)))

/-- Commands of the acquisition engine complete. An aligned job pushed by MC or NYM while the queue has room joins the queue; a job whose descriptor fails its check is taken with its status, and one that passes is taken with its pipes; a running job finishes; the oldest finished job retires. Completes: acqJobpush, acqJobTake, acqJobFinish, acqJobRetire. (07_acquisition.md (JOBPUSH, jobs, R165 to R182)) -/
def Obligations.AcquisitionCommandsComplete : Prop :=
  (∀ (s : State) (init addr : Nat), s.admits init R.ACQ_JOBPUSH = true → init = Init.MC → addr % 64 = 0 → s.acq.queue.length < 32 → 
      exec (.acqJobpush init addr) s = .next (State.settle ({ s.respond .served with acq := { s.acq with queue := s.acq.queue ++ [addr] } }))) ∧
  (∀ (s : State) (a : Nat) (rest : List Nat) (s1 s2 : State) (bytes : List Byte) (j : AcqJob), s.acq.queue = a :: rest → s.live P.ACQ = true → s.acqClock = true → s.acqOwns a 64 = true → s.portRead Init.ACQ a 64 = (s1, some bytes) → getBits (BitVec.ofNat 32 (leValue (bytes.take 4))) 4 4 = 1 → 1 ≤ s.acqFree.length → s1.acqCheck ⟨a, (List.range 16).map (fun k => BitVec.ofNat 32 (leValue (((bytes).drop (4 * k)).take 4))), [], s.flag F.ACQ_CFG_SEED_EN, 0, false, (0, 0), [], 0, 0, 0, [], 0⟩ = (s2, j) → j.status = 0 → 
      exec (.acqJobTake) s = .next (State.settle (s2.acqPut { s2.acq with queue := rest, jobs := s2.acq.jobs ++ [{ j with pipes := s2.acqFree.take 1 }] }))) ∧
  (∀ (s : State) (a : Nat) (rest : List Nat), s.acq.queue = a :: rest → s.live P.ACQ = true → s.acqClock = true → s.acqOwns a 64 = false → 
      exec (.acqJobTake) s = .next (State.settle ((s.portRead Init.ACQ a 64).1.acqPut { (s.portRead Init.ACQ a 64).1.acq with queue := rest, jobs := (s.portRead Init.ACQ a 64).1.acq.jobs ++ [⟨a, (List.range 16).map (fun k => BitVec.ofNat 32 (leValue (((((s.portRead Init.ACQ a 64).2).getD []).drop (4 * k)).take 4))), [], s.flag F.ACQ_CFG_SEED_EN, 1, true, (0, 0), [], 0, 0, 0, [], 0⟩] }))) ∧
  (∀ (s : State) (k : Nat) (j : AcqJob) (s1 : State) (ps : List AcqPeak), s.acqClock = true → s.acq.jobs[k]? = some j → j.done = false → j.type = 0 → s.acqSearch j = (s1, .ok ps) → 
      exec (.acqJobFinish k) s = .next (State.settle (s1.acqPut { s1.acq with jobs := s1.acq.jobs.set k { j with done := true, pipes := [], peaks := ps, cells := j.prns.length * j.hypotheses * j.points * j.nc }, cells := (s1.acq.cells + j.prns.length * j.hypotheses * j.points * j.nc) % 2 ^ 64 }))) ∧
  (∀ (s : State) (k : Nat) (j : AcqJob) (s1 : State) (ps : List AcqPeak), s.acqClock = true → s.acq.jobs[k]? = some j → j.done = false → j.type = 1 → s.acqBuild j = (s1, .ok ps) → 
      exec (.acqJobFinish k) s = .next (State.settle (s1.acqPut { s1.acq with jobs := s1.acq.jobs.set k { j with done := true, pipes := [], peaks := ps, cells := 0 }, cells := s1.acq.cells % 2 ^ 64 }))) ∧
  (∀ (s : State) (k e : Nat) (j : AcqJob) (s1 : State), s.acqClock = true → s.acq.jobs[k]? = some j → j.done = false → j.type = 0 → j.cells = 0 → s.acqSearch j = (s1, .error e) → 
      exec (.acqJobFinish k) s = .next (State.settle (s1.acqPut { s1.acq with jobs := s1.acq.jobs.set k { j with done := true, pipes := [], status := e }, cells := s1.acq.cells % 2 ^ 64 }))) ∧
  (∀ (s : State) (j0 j1 j : AcqJob) (rest : List AcqJob) (s1 s2 s3 : State), s.acqClock = true → s.acq.jobs = j0 :: rest → j0.done = true → rest ≠ [] → s.acqWriteHeader j0 = (s1, j1) → s1.acqWriteStatus j1 = (s2, j) → s3 = (s2.acqHandovers j).acqPut { (s2.acqHandovers j).acq with jobs := rest, seeds := (s2.acqHandovers j).acq.seeds ++ (if acqSeeds j then (acqDetections j).map fun (e : Nat × AcqPeak) => (⟨(j.vcbase + e.1) % 4096, e.2.code, e.2.doppler, e.2.ratioPk, j.t0⟩ : Seed) else []) } → j.status = 0 → 
      exec (.acqJobRetire) s = .next (State.settle ((s3.addFld F.ACQ_COUNT_RETIRED 1).irq P.ACQ 0))) ∧
  (∀ (s : State) (j0 j1 j : AcqJob) (rest : List AcqJob) (s1 s2 s3 : State), s.acqClock = true → s.acq.jobs = j0 :: rest → j0.done = true → rest ≠ [] → s.acqWriteHeader j0 = (s1, j1) → s1.acqWriteStatus j1 = (s2, j) → s3 = (s2.acqHandovers j).acqPut { (s2.acqHandovers j).acq with jobs := rest, seeds := (s2.acqHandovers j).acq.seeds ++ (if acqSeeds j then (acqDetections j).map fun (e : Nat × AcqPeak) => (⟨(j.vcbase + e.1) % 4096, e.2.code, e.2.doppler, e.2.ratioPk, j.t0⟩ : Seed) else []) } → j.status ≠ 0 → 
      exec (.acqJobRetire) s = .next (State.settle ((((((s3.sticky P.ACQ (acqErrBit j.status) s3.acqDetail).setFld F.ACQ_ERRADDR_ADDR j.addr).setFld F.ACQ_ERRSTAT_STATUS j.status).addFld F.ACQ_COUNT_RETIRED 1).addFld F.ACQ_COUNT_FAILED 1).irq P.ACQ 1)))

/-- The commands of CHS_VCCMD complete. An accepted command that finds no other in progress and can reach the channel's context carries out its change, sets BUSY and leaves RESULT 0; CMD_DONE then clears BUSY and raises its interrupt. Completes: setWant, setRank, putHw, putCb, get, cmdDone. (09_channel_scheduler.md (commands of CHS_VCCMD, R217 to R224)) -/
def Obligations.ChannelCommandsComplete : Prop :=
  (∀ (s : State) (init v w : Nat), v < 4096 → s.admits init R.CHS_VCCMD = true → s.flag F.CHS_VCSTAT2_BUSY = false → w ≤ 4 → ((s.respond .served).vcWant v w).2 = true → 
      exec (.setWant init v w) s = .next (State.settle (((((s.respond .served).vcWant v w).1.setFlag F.CHS_VCSTAT2_BUSY true).setFld F.CHS_VCSTAT2_RESULT 0).chsShow))) ∧
  (∀ (s : State) (init v cls prio : Nat), v < 4096 → s.admits init R.CHS_VCCMD = true → s.flag F.CHS_VCSTAT2_BUSY = false → (cmdSetRank v cls prio (s.respond .served)).2 = 0 → 
      exec (.setRank init v cls prio) s = .next (State.settle ((((cmdSetRank v cls prio (s.respond .served)).1.setFlag F.CHS_VCSTAT2_BUSY true).setFld F.CHS_VCSTAT2_RESULT 0).chsShow))) ∧
  (∀ (s : State) (init v : Nat), v < 4096 → s.admits init R.CHS_VCCMD = true → s.flag F.CHS_VCSTAT2_BUSY = false → (s.vcGet v).st ≠ 4 → ((s.respond .served).ctxWrite v 0 (wordBytes (s.stage 0 32))).2 = true → 
      exec (.putHw init v) s = .next (State.settle (((((s.respond .served).ctxWrite v 0 (wordBytes (s.stage 0 32))).1.setFlag F.CHS_VCSTAT2_BUSY true).setFld F.CHS_VCSTAT2_RESULT 0).chsShow))) ∧
  (∀ (s : State) (init v : Nat), v < 4096 → s.admits init R.CHS_VCCMD = true → s.flag F.CHS_VCSTAT2_BUSY = false → (cmdPutCb v (s.respond .served)).2 = 0 → 
      exec (.putCb init v) s = .next (State.settle ((((cmdPutCb v (s.respond .served)).1.setFlag F.CHS_VCSTAT2_BUSY true).setFld F.CHS_VCSTAT2_RESULT 0).chsShow))) ∧
  (∀ (s : State) (init v : Nat), v < 4096 → s.admits init R.CHS_VCCMD = true → s.flag F.CHS_VCSTAT2_BUSY = false → (cmdGet v (s.respond .served)).2 = 0 → 
      exec (.get init v) s = .next (State.settle ((((cmdGet v (s.respond .served)).1.setFlag F.CHS_VCSTAT2_BUSY true).setFld F.CHS_VCSTAT2_RESULT 0).chsShow))) ∧
  (∀ (s : State), s.flag F.CHS_VCSTAT2_BUSY = true → 
      exec (.cmdDone) s = .next (State.settle ((s.setFlag F.CHS_VCSTAT2_BUSY false).irq P.CHS 2)))

/-- Planning passes, page operations, code epochs, latches and seeding complete. A planning pass of a running Carillon with PLACE_EN applies pending WANT changes and places queued channels; a page operation whose place and channel are ready begins; a page operation in progress ends; a code epoch advances its slot; a latch table is written; a seed of a channel that does not seek it is refused and counted; a duty period that has elapsed queues its channel. Completes: planningPass, pageIn, pageOut, swap, pageOpDone, codeEpoch, latchDone, seedingEvent, dutyPeriodElapsed. (08_correlator_fabric.md (latch, code epochs); 09_channel_scheduler.md (planning, page operations, seeding, R225 to R241)) -/
def Obligations.PlacementCommandsComplete : Prop :=
  (∀ (s : State) (v : Nat), s.chsRuns = true → s.flag F.CHS_CTL_PLACE_EN = true → s.vcsWith (fun x => x.pend) = [] → s.chs.replan = none → s.vcsWith (fun x => decide (x.st = 3)) = [v] → 
      exec (.planningPass) s = .next (State.settle ((State.planOne s.planBudget s.planUnits s v).oppClearCheck.chsShow))) ∧
  (∀ (s : State) (v k : Nat), v < 4096 → (s.vcGet v).loc = some k → (s.vcGet v).st = 4 → (s.vcGet v).phys = none → s.placeEmpty k (s.vcGet v).len = true → s.pageOk (s.vcGet v).len = true → 
      exec (.pageIn v) s = .next (State.settle (((s.pageBegin (s.vcGet v).len).pageInAt v k).chsShow))) ∧
  (∀ (s : State) (v : Nat), v < 4096 → (s.vcGet v).held = true → (s.vcGet v).out.isSome = true → s.pageOk (s.vcGet v).len = true → ((s.pageBegin (s.vcGet v).len).writeBack v).2 = true → 
      exec (.pageOut v) s = .next (State.settle ((((s.pageBegin (s.vcGet v).len).writeBack v).1.afterBack v).chsShow))) ∧
  (∀ (s : State) (v k : Nat), v < 4096 → (s.vcGet v).held = true → (s.vcGet v).out = none → (s.vcGet v).loc = some k → s.pageOk (s.vcGet v).len = true → ((s.pageBegin (s.vcGet v).len).writeBack v).2 = true → 
      exec (.swap v) s = .next (State.settle ((((s.pageBegin (s.vcGet v).len).writeBack v).1.pageInAt v k).chsShow))) ∧
  (∀ (s : State), s.chs.busy = true → (({ s with chs := { s.chs with busy := false } } : State).oppClearCheck).enabled P.CHS = true → 
      exec (.pageOpDone) s = .next (State.settle (({ s with chs := { s.chs with busy := false } } : State).oppClearCheck))) ∧
  (∀ (s : State) (k : Nat) (raw : List (List Iq)) (x : Slot) (s1 : State) (img : List Word) (members : List Nat) (upd : Bool), k < 2048 → s1 = s.feed raw → s1.slotGet k = some x → s1.live P.COR = true → s1.domRuns 3 = true → x.held = false → Img.chainPos x.img = 0 → s1.slotDue x = true → img = Img.advance x.img x.taken (s1.streamDiv (Img.stream x.img)) → Img.dumpCnt img ≠ 0 → upd = (x.pendCarr.isSome || x.pendCode.isSome) → (s1.chainSlots k x).1 = members → (s1.chainSlots k x).2 = true → 
      exec (.codeEpoch k raw) s = .next (State.settle (((members.foldl (State.slotBegin upd) (s1.slotPass k img (x.pendCarr.getD (imgW x.img 0x04).toNat, x.pendCode.getD (imgW x.img 0x10).toNat) upd)).corShow (k / 8))))) ∧
  (∀ (s : State) (c : LatchCap) (s1 : State), s1 = s.latchWrite.1 → s.latchWrite.2 = some c → s1.inReset P.CHS = false → s1.domRuns 3 = true → 
      exec (.latchDone) s = .next (State.settle (({ s1 with chs := { s1.chs with queue := s1.chs.queue ++ (eights 256 (c.records.filter fun r => decide (leValue (r.2.take 4) / 2 ^ 12 % 2 = 1))).map fun g => (⟨true, (g.headD (0, [])).1, s1.fld F.CHS_MEASCFG_CLASS, c.samp, (c.samp + max 1 (s1.fld F.CHS_MEASCFG_DL) * 2500) % 2 ^ 48, g.map fun r => r.2, g.map fun r => leValue (r.2.take 4) % 4096, c.epoch, true⟩ : ChsTask) } } : State).chsShow))) ∧
  (∀ (s : State) (x : Seed) (rest : List Seed) (b : List Byte) (s0 s1 s2 s3 s4 : State), s.acq.seeds = x :: rest → s0 = s.acqPut { s.acq with seeds := rest } → s0.flag F.CHS_CTL_SEED_EN = true → (s0.vcGet x.vc).st = 2 → s0.live P.CHS = true → s0.ctxRead x.vc 0 144 = (s1, some b) → getBits ((toWords b).getD 35 0) 0 16 ≤ x.ratio → s1.flag (F.XBAR_SRC_EN (Img.stream ((toWords b).take 32))) = true → s1.nowFrac ≤ x.t0 + 2500000000 * 65536 → s1.ctxWrite x.vc 0 (wordBytes (s1.seedImage ((toWords b).take 32) ((toWords b).getD 33 0).toNat x (s1.sampAt x.t0))) = (s2, true) → s3 = (s2.ctxPutBits x.vc 0x80 (maskBits 0 3) 2).1 → s4 = s3.vcSet x.vc { s3.vcGet x.vc with want := 2, inForce := 2, pend := false } → 
      exec (.seedingEvent) s = .next (State.settle ((((s4.vcState x.vc 3).addFld F.CHS_SEEDCNT_ACCEPTED 1).irq P.CHS 3).chsShow))) ∧
  (∀ (s : State) (x : Seed) (rest : List Seed), s.acq.seeds = x :: rest → (s.vcGet x.vc).st ≠ 2 → 
      exec (.seedingEvent) s = .next (State.settle (({ s with acq := { s.acq with seeds := rest } } : State).addFld F.CHS_SEEDCNT_REFUSED 1))) ∧
  (∀ (s : State) (v : Nat) (b : List Byte), v < 4096 → (s.vcGet v).st = 5 → (s.ctxRead v 0x88 4).2 = some b → max 1 (leValue b / 256 % 256) * 25000000 ≤ (s.tbu.samp + 2 ^ 48 - (s.vcGet v).inAt) % 2 ^ 48 → 
      exec (.dutyPeriodElapsed v) s = .next (State.settle (((s.ctxRead v 0x88 4).1.vcState v 3).chsShow)))

/-- Dump records, tasks and their completion complete. The oldest pushed record joins the dump queue; the task of a channel is formed with its deadline; a formed task is dispatched to a free buffer; its transfer ends; and a completion word of the core that holds the task applies its rates and its action and frees the buffer. Completes: dumpRecordEnqueue, dumpTaskForm, taskDispatch, taskDelivered, taskComplete, firmwareWriteBack, ncoRateUpdate, cmplWantDormant, cmplWantSeek, cmplWantOff, reimage. (09_channel_scheduler.md (dump queue, tasks, completion, R228 to R237)) -/
def Obligations.TaskCommandsComplete : Prop :=
  (∀ (s : State) (r : OutRec) (rest : List OutRec), s.cor.out = r :: rest → s.chs.queue = [] → 
      exec (.dumpRecordEnqueue) s = .next (State.settle (({ s with cor := { s.cor with out := rest }, chs := { s.chs with queue := [⟨false, r.vc, (s.vcGet r.vc).cls, r.boundary, 0, [r.bytes], [], 0, false⟩] } } : State).chsShow))) ∧
  (∀ (s : State) (v : Nat) (t : ChsTask), s.chs.queue = [t] → t.meas = false → t.vc = v → t.formed = false → s.cor.out = [] → s.vcInFlight v = false → 
      exec (.dumpTaskForm v) s = .next (State.settle (({ s with chs := { s.chs with queue := [{ t with formed := true, deadline := s.taskDeadline v t.boundary (t.recs.headD []) }] } } : State).chsShow))) ∧
  (∀ (s : State) (t : ChsTask) (i : Nat), s.chsRuns = true → s.chs.queue = [t] → t.formed = true → t.meas = true → s.freeBuf = some i → 
      exec (.taskDispatch) s = .next (State.settle (((s.chsPut { s.chs with queue := [], seq := (s.chs.seq + 1) % 2 ^ 32, transit := s.chs.transit ++ [i] }).bufSet i (some ⟨t, s.chs.seq, false⟩)).chsShow))) ∧
  (∀ (s : State) (i : Nat) (rest : List Nat) (b : ChsBuf), s.chs.transit = i :: rest → s.bufGet i = some b → b.task.meas = true → b.task.vcs = [] → 
      exec (.taskDelivered) s = .next (State.settle (((((s.chsPut { s.chs with transit := rest }).xmemStore (i / 2) (0xF000 + 0x800 * (i % 2)) (toWords ((s.chsPut { s.chs with transit := rest }).measBuffer b []))).bufSet i (some { b with delivered := true }))).coreLine (i / 2) (i % 2)))) ∧
  (∀ (s : State) (init c ctl : Nat) (b : ChsBuf), c < 8 → init = c + 1 → s.admits init (R.CHS_CMPL_CTL c) = true → s.bufGet (2 * c + ctl % 2) = some b → b.delivered = true → b.task.meas = true → 
      exec (.taskComplete init c ctl) s = .next (State.settle ((((s.respond .served).taskCount b.task).bufSet (2 * c + ctl % 2) none).chsShow))) ∧
  (∀ (s : State) (init c ctl : Nat) (b : ChsBuf) (s1 s2 : State), c < 8 → init = c + 1 → s.admits init (R.CHS_CMPL_CTL c) = true → s.bufGet (2 * c + ctl % 2) = some b → b.delivered = true → b.task.meas = false → s1 = (if bit ctl 3 then ((s.respond .served).ctxWrite b.task.vc 0x90 (s.xmemBytes c ((0xF000 + 0x800 * (ctl % 2)) + 0x30) 368)).1 else (s.respond .served)) → s2 = s1.vcRates b.task.vc (if bit ctl 1 then some (s.reg (R.CHS_CMPL_CARR c)).toNat else none) (if bit ctl 2 then some (s.reg (R.CHS_CMPL_CODE c)).toNat else none) → 
      exec (.taskComplete init c ctl) s = .next (State.settle (((s2.taskCount b.task).bufSet (2 * c + ctl % 2) none).chsShow))) ∧
  (∀ (s : State) (init c ctl : Nat) (same : Bool) (b : ChsBuf) (s1 s2 : State), c < 8 → init = c + 1 → s.admits init (R.CHS_CMPL_CTL c) = true → s.bufGet (2 * c + ctl % 2) = some b → b.delivered = true → b.task.meas = false → s1 = ((s.respond .served).ctxWrite b.task.vc 0x90 (s.xmemBytes c ((0xF000 + 0x800 * (ctl % 2)) + 0x30) 368)).1 → s2 = (s1.vcRates b.task.vc (if bit ctl 1 then some (s.reg (R.CHS_CMPL_CARR c)).toNat else none) (if bit ctl 2 then some (s.reg (R.CHS_CMPL_CODE c)).toNat else none)).vcAction b.task.vc (if same then 0 else ctl / 16 % 8) (toWords (s.xmemBytes c ((0xF000 + 0x800 * (ctl % 2)) + 0x1A0) 32)) → 
      exec (.firmwareWriteBack init c ctl same) s = .next (State.settle (((s2.taskCount b.task).bufSet (2 * c + ctl % 2) none).chsShow))) ∧
  (∀ (s : State) (init c ctl : Nat) (carr code same : Bool) (b : ChsBuf) (s1 s2 : State), c < 8 → init = c + 1 → s.admits init (R.CHS_CMPL_CTL c) = true → s.bufGet (2 * c + ctl % 2) = some b → b.delivered = true → b.task.meas = false → s1 = (if bit ctl 3 then ((s.respond .served).ctxWrite b.task.vc 0x90 (s.xmemBytes c ((0xF000 + 0x800 * (ctl % 2)) + 0x30) 368)).1 else (s.respond .served)) → s2 = (s1.vcRates b.task.vc (if carr || !code then some (s.reg (R.CHS_CMPL_CARR c)).toNat else none) (if code then some (s.reg (R.CHS_CMPL_CODE c)).toNat else none)).vcAction b.task.vc (if same then 0 else ctl / 16 % 8) (toWords (s.xmemBytes c ((0xF000 + 0x800 * (ctl % 2)) + 0x1A0) 32)) → 
      exec (.ncoRateUpdate init c ctl carr code same) s = .next (State.settle (((s2.taskCount b.task).bufSet (2 * c + ctl % 2) none).chsShow))) ∧
  (∀ (s : State) (init c ctl : Nat) (same : Bool) (b : ChsBuf) (s1 s2 : State), c < 8 → init = c + 1 → s.admits init (R.CHS_CMPL_CTL c) = true → s.bufGet (2 * c + ctl % 2) = some b → b.delivered = true → b.task.meas = false → same = false → s1 = (if bit ctl 3 then ((s.respond .served).ctxWrite b.task.vc 0x90 (s.xmemBytes c ((0xF000 + 0x800 * (ctl % 2)) + 0x30) 368)).1 else (s.respond .served)) → s2 = ((s1.vcRates b.task.vc (if bit ctl 1 then some (s.reg (R.CHS_CMPL_CARR c)).toNat else none) (if bit ctl 2 then some (s.reg (R.CHS_CMPL_CODE c)).toNat else none)).vcWant b.task.vc 1).1 → 
      exec (.cmplWantDormant init c ctl same) s = .next (State.settle (((s2.taskCount b.task).bufSet (2 * c + ctl % 2) none).chsShow))) ∧
  (∀ (s : State) (init c ctl : Nat) (same : Bool) (b : ChsBuf) (s1 s2 : State), c < 8 → init = c + 1 → s.admits init (R.CHS_CMPL_CTL c) = true → s.bufGet (2 * c + ctl % 2) = some b → b.delivered = true → b.task.meas = false → same = false → s1 = (if bit ctl 3 then ((s.respond .served).ctxWrite b.task.vc 0x90 (s.xmemBytes c ((0xF000 + 0x800 * (ctl % 2)) + 0x30) 368)).1 else (s.respond .served)) → s2 = ((s1.vcRates b.task.vc (if bit ctl 1 then some (s.reg (R.CHS_CMPL_CARR c)).toNat else none) (if bit ctl 2 then some (s.reg (R.CHS_CMPL_CODE c)).toNat else none)).vcWant b.task.vc 4).1 → 
      exec (.cmplWantSeek init c ctl same) s = .next (State.settle (((s2.taskCount b.task).bufSet (2 * c + ctl % 2) none).chsShow))) ∧
  (∀ (s : State) (init c ctl : Nat) (same : Bool) (b : ChsBuf) (s1 s2 : State), c < 8 → init = c + 1 → s.admits init (R.CHS_CMPL_CTL c) = true → s.bufGet (2 * c + ctl % 2) = some b → b.delivered = true → b.task.meas = false → same = false → s1 = (if bit ctl 3 then ((s.respond .served).ctxWrite b.task.vc 0x90 (s.xmemBytes c ((0xF000 + 0x800 * (ctl % 2)) + 0x30) 368)).1 else (s.respond .served)) → s2 = ((s1.vcRates b.task.vc (if bit ctl 1 then some (s.reg (R.CHS_CMPL_CARR c)).toNat else none) (if bit ctl 2 then some (s.reg (R.CHS_CMPL_CODE c)).toNat else none)).vcWant b.task.vc 0).1 → 
      exec (.cmplWantOff init c ctl same) s = .next (State.settle (((s2.taskCount b.task).bufSet (2 * c + ctl % 2) none).chsShow))) ∧
  (∀ (s : State) (init c ctl : Nat) (same : Bool) (b : ChsBuf) (s1 s2 : State), c < 8 → init = c + 1 → s.admits init (R.CHS_CMPL_CTL c) = true → s.bufGet (2 * c + ctl % 2) = some b → b.delivered = true → b.task.meas = false → same = false → s1 = (if bit ctl 3 then ((s.respond .served).ctxWrite b.task.vc 0x90 (s.xmemBytes c ((0xF000 + 0x800 * (ctl % 2)) + 0x30) 368)).1 else (s.respond .served)) → s2 = (if ((s1.vcRates b.task.vc (if bit ctl 1 then some (s.reg (R.CHS_CMPL_CARR c)).toNat else none) (if bit ctl 2 then some (s.reg (R.CHS_CMPL_CODE c)).toNat else none)).vcGet b.task.vc).st = 4 then (s1.vcRates b.task.vc (if bit ctl 1 then some (s.reg (R.CHS_CMPL_CARR c)).toNat else none) (if bit ctl 2 then some (s.reg (R.CHS_CMPL_CODE c)).toNat else none)).vcSet b.task.vc { (s1.vcRates b.task.vc (if bit ctl 1 then some (s.reg (R.CHS_CMPL_CARR c)).toNat else none) (if bit ctl 2 then some (s.reg (R.CHS_CMPL_CODE c)).toNat else none)).vcGet b.task.vc with patch := some (toWords (s.xmemBytes c ((0xF000 + 0x800 * (ctl % 2)) + 0x1A0) 32)) } else s1.vcRates b.task.vc (if bit ctl 1 then some (s.reg (R.CHS_CMPL_CARR c)).toNat else none) (if bit ctl 2 then some (s.reg (R.CHS_CMPL_CODE c)).toNat else none)) → 
      exec (.reimage init c ctl same) s = .next (State.settle (((s2.taskCount b.task).bufSet (2 * c + ctl % 2) none).chsShow)))

/-- Frames that arrive at a running port complete. A frame that its port accepts reaches the receive FIFO or the engine: other frames and messages without a session are pushed, a Delay_Req of a running, granted master session is answered and counted, a Pdelay_Req is answered when PDRESP is 1 and pushed when it is 0, a message of a running client session is pushed with its session. Completes: frameReceive, delayReqReceive, pdelayReqReceive, ptpMessageReceive, linkChange. (12_network_time.md (reception, R305, R307 to R309, R314, R315, R321)) -/
def Obligations.FrameReceiveCommandsComplete : Prop :=
  (∀ (s : State) (f : RxFrame) (s1 : State), f.port < 4 → s.rxGate f = (s1, true) → f.ptp = none → s1.live P.PTP = true → s1.ptp.rx.length < 1024 → 
      exec (.frameReceive f) s = .next (State.settle ({ s1 with ptp := { s1.ptp with rx := s1.ptp.rx ++ [s1.rxEntry f f.kind false false false 0] } }))) ∧
  (∀ (s : State) (f : RxFrame) (s1 s2 : State), f.port < 4 → s.rxGate f = (s1, true) → f.ptp.isSome = true → f.toFifo = false → s1.ptpRuns = true → s1.sesBanks = (s2, true) → f.type = 1 → s2.masterMatch f = none → s2.ptp.rx.length < 1024 → 
      exec (.delayReqReceive f) s = .next (State.settle ({ s2 with ptp := { s2.ptp with rx := s2.ptp.rx ++ [s2.rxEntry f 1 true false false 0] } }))) ∧
  (∀ (s : State) (f : RxFrame) (s1 s2 s3 : State) (k : Nat) (ok : Bool), f.port < 4 → s.rxGate f = (s1, true) → f.ptp.isSome = true → f.toFifo = false → s1.ptpRuns = true → s1.sesBanks = (s2, true) → f.type = 1 → s2.masterMatch f = some k → s2.sesRuns (s2.sesPeek k) = true → s2.authCheck k f = (s3, some ok) → granted s3.nowSec (sesF (s2.sesPeek k) 0x34 4) = true → s3.qualServes = true → (s3.portQueue f.port).length < 8192 → 
      exec (.delayReqReceive f) s = .next (State.settle ((s3.enqueue f.port { blankJob .delayResp k (s3.ingressTime f.port) with seq := f.seq, identity := f.identity, corr := f.corr, dest := f.srcMac, destIp := f.srcIp, map := f.map, domain := f.domain }).addFld (F.PTPP_RXCNT_COUNT f.port) 1))) ∧
  (∀ (s : State) (f : RxFrame) (s1 s2 : State), f.port < 4 → s.rxGate f = (s1, true) → f.ptp.isSome = true → f.toFifo = false → s1.ptpRuns = true → s1.sesBanks = (s2, true) → f.type = 2 → s2.flag (F.PTPP_CFG_PDRESP f.port) = true → (f.dest.headD 0).toNat % 2 = 1 → (s2.portQueue f.port).length < 8192 → 
      exec (.pdelayReqReceive f) s = .next (State.settle (s2.enqueue f.port { blankJob .pdelayResp 0 (s2.ingressTime f.port) with seq := f.seq, identity := f.identity, corr := f.corr, dest := f.dest, destIp := f.destIp, map := f.map, domain := f.domain }))) ∧
  (∀ (s : State) (f : RxFrame) (s1 s2 : State), f.port < 4 → s.rxGate f = (s1, true) → f.ptp.isSome = true → f.toFifo = false → s1.ptpRuns = true → s1.sesBanks = (s2, true) → f.type = 2 → s2.flag (F.PTPP_CFG_PDRESP f.port) = false → s2.ptp.rx.length < 1024 → 
      exec (.pdelayReqReceive f) s = .next (State.settle ({ s2 with ptp := { s2.ptp with rx := s2.ptp.rx ++ [s2.rxEntry f 1 false false false 0] } }))) ∧
  (∀ (s : State) (f : RxFrame) (s1 s2 : State), f.port < 4 → s.rxGate f = (s1, true) → f.ptp.isSome = true → f.toFifo = false → s1.ptpRuns = true → s1.sesBanks = (s2, true) → f.type ≠ 1 → f.type ≠ 2 → s2.messageMatch f = none → s2.ptp.rx.length < 1024 → 
      exec (.ptpMessageReceive f) s = .next (State.settle ({ s2 with ptp := { s2.ptp with rx := s2.ptp.rx ++ [s2.rxEntry f f.kind true false false 0] } }))) ∧
  (∀ (s : State) (f : RxFrame) (s1 s2 s3 : State) (k : Nat) (ok : Bool), f.port < 4 → s.rxGate f = (s1, true) → f.ptp.isSome = true → f.toFifo = false → s1.ptpRuns = true → s1.sesBanks = (s2, true) → f.type ≠ 1 → f.type ≠ 2 → s2.messageMatch f = some k → s2.sesRuns (s2.sesPeek k) = true → s2.authCheck k f = (s3, some ok) → s3.ptp.rx.length < 1024 → 
      exec (.ptpMessageReceive f) s = .next (State.settle ({ s3 with ptp := { s3.ptp with rx := s3.ptp.rx ++ [s3.rxEntry f f.kind false false ok k] } }))) ∧
  (∀ (s : State) (n stat : Nat), n < 4 → s.portRuns n = true → s.flag (F.ETH_STAT_LINK n) = false → ((s.setFld ⟨R.ETH_STAT n, 0, 6⟩ stat).flag (F.ETH_STAT_LINK n)) = true → ((s.setFld ⟨R.ETH_STAT n, 0, 6⟩ stat).flag (F.ETH_SYNCE_RCLK_EN n)) = false → 
      exec (.linkChange n stat) s = .next (State.settle (((s.setFld ⟨R.ETH_STAT n, 0, 6⟩ stat).setFlag (F.ETH_STAT_RCLK_V n) false).irq (P.ETH n) 0 |> State.rclkWatch)))

/-- Messages and firmware frames leave a running port. When the next job of a running port's queue is of the command's kind and its session runs, the message is sent with the fields that the rules give it and its count advances; a pushed frame and a taken descriptor go through the staging buffer. Completes: syncTransmit, followUpTransmit, announceTransmit, delayReqTransmit, delayRespTransmit, pdelayRespTransmit, firmwareFrameTransmit, txdataPush, txGo, rxPop. (12_network_time.md (transmission, R306, R308, R312 to R322)) -/
def Obligations.MessageTransmitCommandsComplete : Prop :=
  (∀ (s : State) (n : Nat) (j : PtpJob) (s1 s2 : State) (e : List Byte), n < 4 → s.portRuns n = true → s.ptpRuns = true → s.portTake n .sync = some (j, s1) → s1.sesRead j.session = (s2, some e) → s2.sesRuns e = true → sesAuth e = false → s2.qualServes = true → 
      exec (.syncTransmit n) s = .next (State.settle ((State.syncSend n s2 j e).unstage))) ∧
  (∀ (s : State) (n : Nat) (j : PtpJob) (s1 s2 : State) (e : List Byte), n < 4 → s.portRuns n = true → s.ptpRuns = true → s.portTake n .followUp = some (j, s1) → s1.sesRead j.session = (s2, some e) → s2.sesRuns e = true → sesAuth e = false → s2.qualServes = true → 
      exec (.followUpTransmit n) s = .next (State.settle ((State.followUpSend n s2 j e).unstage))) ∧
  (∀ (s : State) (n : Nat) (j : PtpJob) (s1 s2 : State) (e : List Byte), n < 4 → s.portRuns n = true → s.ptpRuns = true → s.portTake n .announce = some (j, s1) → s1.sesRead j.session = (s2, some e) → s2.sesRuns e = true → sesAuth e = false → 
      exec (.announceTransmit n) s = .next (State.settle ((State.announceSend n s2 j e).unstage))) ∧
  (∀ (s : State) (n : Nat) (j : PtpJob) (s1 s2 : State) (e : List Byte), n < 4 → s.portRuns n = true → s.ptpRuns = true → s.portTake n .delayReq = some (j, s1) → s1.sesRead j.session = (s2, some e) → s2.sesRuns e = true → sesAuth e = false → 
      exec (.delayReqTransmit n) s = .next (State.settle ((State.delayReqSend n s2 j e).unstage))) ∧
  (∀ (s : State) (n : Nat) (j : PtpJob) (s1 s2 : State) (e : List Byte), n < 4 → s.portRuns n = true → s.ptpRuns = true → s.portTake n .delayResp = some (j, s1) → s1.sesRead j.session = (s2, some e) → s2.sesRuns e = true → sesAuth e = false → s2.qualServes = true → 
      exec (.delayRespTransmit n) s = .next (State.settle ((State.delayRespSend n s2 j e).unstage))) ∧
  (∀ (s : State) (n : Nat) (j : PtpJob) (s1 : State), n < 4 → s.portRuns n = true → s.ptpRuns = true → s.portTake n .pdelayResp = some (j, s1) → 
      exec (.pdelayRespTransmit n) s = .next (State.settle ((State.pdelaySend n s1 j).unstage))) ∧
  (∀ (s : State) (n : Nat) (j : PtpJob) (s1 : State), n < 4 → s.portRuns n = true → s.live P.PTP = true → s.portTake n .frame = some (j, s1) → 
      exec (.firmwareFrameTransmit n) s = .next (State.settle ((State.frameSend n s1 j).unstage))) ∧
  (∀ (s : State) (init w : Nat), s.admits init R.PTP_TXDATA = true → 
      exec (.txdataPush init w) s = .next (State.settle ({ s.respond .served with ptp := { s.ptp with stage := (s.ptp.stage ++ leBytes 4 w).take 256 } }))) ∧
  (∀ (s : State) (init : Nat), s.admits init R.PTP_TXCMD = true → s.ptp.staged = none → 14 ≤ s.fld F.PTP_TXDESC_LEN → s.fld F.PTP_TXDESC_LEN ≤ 256 → 
      exec (.txGo init) s = .next (State.settle ((({ s.respond .served with ptp := { s.ptp with stage := [], staged := some (s.reg R.PTP_TXDESC, (s.ptp.stage ++ List.replicate 256 0).take (s.fld F.PTP_TXDESC_LEN)) } } : State).setFlag F.PTP_TXSTAT_BUSY true).unstage))) ∧
  (∀ (s : State) (init : Nat), s.admits init R.PTP_RXPOP = true → 
      exec (.rxPop init) s = .next (State.settle ({ s.respond .served with ptp := { s.ptp with rx := s.ptp.rx.drop 1, rxIdx := 0 } })))

/-- The operations of the session table complete. An accepted operation that finds no other in progress, on a device that is not a pairing primary, carries out its change, sets BUSY and leaves RESULT 0; its completion clears BUSY; the end of a grant raises its interrupt. Completes: put, putKeep, sessionGet, sessionClear, grant, grantEnd, sessDone. (12_network_time.md (session table, R310, R311); 13_redundant_pair.md R338) -/
def Obligations.SessionCommandsComplete : Prop :=
  (∀ (s : State) (init ix : Nat) (t : State), ix < 4096 → s.admits init R.PTP_SESSCMD = true → s.flag F.PTP_SESSSTAT_BUSY = false → sesPutCmd ix false (s.respond .served) = (t, 0) → ((t.setFlag F.PTP_SESSSTAT_BUSY true).setFld F.PTP_SESSSTAT_RESULT 0).pairPrimary = false → 
      exec (.put init ix) s = .next (State.settle ((t.setFlag F.PTP_SESSSTAT_BUSY true).setFld F.PTP_SESSSTAT_RESULT 0))) ∧
  (∀ (s : State) (init ix : Nat) (t : State), ix < 4096 → s.admits init R.PTP_SESSCMD = true → s.flag F.PTP_SESSSTAT_BUSY = false → sesPutCmd ix true (s.respond .served) = (t, 0) → ((t.setFlag F.PTP_SESSSTAT_BUSY true).setFld F.PTP_SESSSTAT_RESULT 0).pairPrimary = false → 
      exec (.putKeep init ix) s = .next (State.settle ((t.setFlag F.PTP_SESSSTAT_BUSY true).setFld F.PTP_SESSSTAT_RESULT 0))) ∧
  (∀ (s : State) (init ix : Nat) (t : State), ix < 4096 → s.admits init R.PTP_SESSCMD = true → s.flag F.PTP_SESSSTAT_BUSY = false → sesGetCmd ix (s.respond .served) = (t, 0) → 
      exec (.sessionGet init ix) s = .next (State.settle ((t.setFlag F.PTP_SESSSTAT_BUSY true).setFld F.PTP_SESSSTAT_RESULT 0))) ∧
  (∀ (s : State) (init ix : Nat) (t : State), ix < 4096 → s.admits init R.PTP_SESSCMD = true → s.flag F.PTP_SESSSTAT_BUSY = false → (s.respond .served).sesWrite ix (List.replicate 64 0) = (t, true) → ((t.setFlag F.PTP_SESSSTAT_BUSY true).setFld F.PTP_SESSSTAT_RESULT 0).pairPrimary = false → 
      exec (.sessionClear init ix) s = .next (State.settle ((t.setFlag F.PTP_SESSSTAT_BUSY true).setFld F.PTP_SESSSTAT_RESULT 0))) ∧
  (∀ (s : State) (init ix arg : Nat) (t : State), ix < 4096 → s.admits init R.PTP_SESSCMD = true → s.flag F.PTP_SESSSTAT_BUSY = false → sesGrantCmd ix arg (s.respond .served) = (t, 0) → ((t.setFlag F.PTP_SESSSTAT_BUSY true).setFld F.PTP_SESSSTAT_RESULT 0).pairPrimary = false → 
      exec (.grant init ix arg) s = .next (State.settle ((t.setFlag F.PTP_SESSSTAT_BUSY true).setFld F.PTP_SESSSTAT_RESULT 0))) ∧
  (∀ (s : State) (ix : Nat), ix < 4096 → s.ptpRuns = true → s.grantsOf ix ||| grantMask s.nowSec (s.sesPeek ix) ≠ grantMask s.nowSec (s.sesPeek ix) → 
      exec (.grantEnd ix) s = .next (State.settle ((s.grantsSet ix (grantMask s.nowSec (s.sesPeek ix))).irq P.PTP 3))) ∧
  (∀ (s : State), s.flag F.PTP_SESSSTAT_BUSY = true → s.pair.waitAck = false → 
      exec (.sessDone) s = .next (State.settle ((s.setFlag F.PTP_SESSSTAT_BUSY false).irq P.PTP 2)))

/-- Role, attestation, link and timing-frame commands of the pair complete. MC's role commands set ROLE where nothing refuses them; the link comes up with attestation running and goes down with its interrupt; attestation ends PASSED or FAILED; pulses and timing frames are sent, and a received frame gives a secondary its offset and round-trip time. Completes: rolePrimary, roleSecondary, roleNone, reAttest, pairLinkUp, pairLinkDown, attDone, heartbeatPulse, timingFrameSend, timingFrameReceive, pairHbEdge, heartbeatWindowEnd. (13_redundant_pair.md (roles, attestation, link, timing frames, R332 to R336)) -/
def Obligations.PairRoleAndLinkCommandsComplete : Prop :=
  (∀ (s : State) (init : Nat), s.admits init R.PAIR_CMD = true → s.recent s.pair.lastPulse 3000000 = false → s.flag F.PAIR_CFG_EN = false → 
      exec (.rolePrimary init) s = .next (State.settle ((s.respond .served).setFld F.PAIR_STAT_ROLE 1))) ∧
  (∀ (s : State) (init : Nat), s.admits init R.PAIR_CMD = true → 
      exec (.roleSecondary init) s = .next (State.settle ((s.respond .served).setFld F.PAIR_STAT_ROLE 2))) ∧
  (∀ (s : State) (init : Nat), s.admits init R.PAIR_CMD = true → 
      exec (.roleNone init) s = .next (State.settle ((s.respond .served).setFld F.PAIR_STAT_ROLE 0))) ∧
  (∀ (s : State) (init : Nat), s.admits init R.PAIR_CMD = true → s.flag F.PAIR_STAT_LINK = true → 
      exec (.reAttest init) s = .next (State.settle ((s.respond .served).setFld F.PAIR_STAT_ATT 1))) ∧
  (∀ (s : State), s.live P.PAIR = true → s.flag F.PAIR_STAT_LINK = false → 
      exec (.pairLinkUp) s = .next (State.settle (((s.setFlag F.PAIR_STAT_LINK true).setFld F.PAIR_STAT_ATT 1).irq P.PAIR 2))) ∧
  (∀ (s : State), s.flag F.PAIR_STAT_LINK = true → ((((s.setFlag F.PAIR_STAT_LINK false).irq P.PAIR 2).ackLost).recent (((s.setFlag F.PAIR_STAT_LINK false).irq P.PAIR 2).ackLost).pair.lastPulse 3000000) = false → 
      exec (.pairLinkDown) s = .next (State.settle (((s.setFlag F.PAIR_STAT_LINK false).irq P.PAIR 2).ackLost))) ∧
  (∀ (s : State) (chain sig : Bool) (id : List Byte) (peer : Bool) (x : PairRec), s.fld F.PAIR_STAT_ATT = 1 → s.flag F.PAIR_STAT_LINK = true → chain = true → sig = true → peer = true → s.nym.pairRec = some x → x.own = deviceKeyId → x.peer = id → ((s.setFld F.PAIR_STAT_ATT 2).irq P.PAIR 1).role ≠ 1 → 
      exec (.attDone chain sig id peer) s = .next (State.settle ((s.setFld F.PAIR_STAT_ATT 2).irq P.PAIR 1))) ∧
  (∀ (s : State) (chain sig : Bool) (id : List Byte) (peer : Bool), s.fld F.PAIR_STAT_ATT = 1 → s.flag F.PAIR_STAT_LINK = true → (s.attPeer chain sig id && peer) = false → 
      exec (.attDone chain sig id peer) s = .next (State.settle (((s.setFld F.PAIR_STAT_ATT 3).irq P.PAIR 1).sticky P.PAIR 9))) ∧
  (∀ (s : State), s.role = 1 → s.live P.PAIR = true → s.loaded = true → 
      exec (.heartbeatPulse) s = .next (State.settle ({ s with pair := { s.pair with pulseEnd := some (s.nowNs / 1000000 * 1000000 + 50000) } }))) ∧
  (∀ (s : State), s.flag F.PAIR_STAT_LINK = true → s.live P.PAIR = true → 
      exec (.timingFrameSend) s = .next (State.settle ({ s with pair := { s.pair with t3 := s.planeTime 0, frameOut := if s.role = 1 then some (s.planeTime 0, s.pair.ingress) else none } }))) ∧
  (∀ (s : State) (t1 t4 : Nat), s.flag F.PAIR_STAT_LINK = true → s.live P.PAIR = true → s.role = 2 → 
      exec (.timingFrameReceive t1 t4) s = .next (State.settle ((({ s with pair := { s.pair with frame := true, lastFrame := some s.nowNs, ingress := s.planeTime 0 } } : State).setFldI F.PAIR_OFFSET_PS (roundDiv (((((s.planeTime 0 : Nat) : Int) - t1) - ((t4 : Int) - s.pair.t3)) * 25) 2 - s.fldI F.PAIR_ASYM_PS)).setFldI F.PAIR_RTT_PS (((((s.planeTime 0 : Nat) : Int) - t1) + ((t4 : Int) - s.pair.t3)) * 25)))) ∧
  (∀ (s : State) (low : Bool), low = true → s.selfLow = false → 
      exec (.pairHbEdge low) s = .next (State.settle ((({ s with pair := { s.pair with peerLow := true, lowSince := some (s.pair.lowSince.getD s.nowNs), lastPulse := some s.nowNs, pulse := s.pair.pulse || decide (s.nowNs % 1000000 ≤ 100000) } } : State)).setFlag F.PAIR_STAT_HB_OK true))) ∧
  (∀ (s : State) (low : Bool), low = false → 
      exec (.pairHbEdge low) s = .next (State.settle ({ s with pair := { s.pair with peerLow := false, lowSince := none } }))) ∧
  (∀ (s : State), s.live P.PAIR = true → s.selfLow = false → (s.pair.released.any fun t => decide (t < s.nowNs / 1000000 * 1000000)) = true → s.role ≠ 2 → 
      exec (.heartbeatWindowEnd) s = .next (State.settle ((({ s with pair := { s.pair with pulse := false, frame := false } } : State).setFlag F.PAIR_STAT_HB_OK (s.recent s.pair.lastPulse 3000000)).setFld F.PAIR_STAT_MISS 0)))

/-- Takeover, fence and mirror commands of the pair complete. A secondary that may take over does so with the cause of the command that finds the primary gone, or asks it and takes over when it does not answer; a primary fences or sets the handover tick; mirror records are staged, sent and received into the ring; mirrored sessions are stored and acknowledged. Completes: takeoverCommand, failFastDetect, missedHeartbeat, pairFence, plannedTakeoverTimeout, takeoverReplyReceive, mirrorSend, mtxdataPush, mirrorReceive, sessionMirrorReceive, mirrorAck. (13_redundant_pair.md (takeover, fence, mirror, R337 to R346)) -/
def Obligations.PairTakeoverAndMirrorCommandsComplete : Prop :=
  (∀ (s : State) (init : Nat), s.admits init R.PAIR_CMD = true → (s.respond .served).mayTakeOver = true → s.recent s.pair.lastPulse 3000000 = false → s.recent s.pair.lastFrame 3000000 = false → 
      exec (.takeoverCommand init) s = .next (State.settle ((s.respond .served).takeover 3))) ∧
  (∀ (s : State) (init : Nat), s.admits init R.PAIR_CMD = true → (s.respond .served).mayTakeOver = true → s.recent s.pair.lastPulse 3000000 = true → 
      exec (.takeoverCommand init) s = .next (State.settle ({ s.respond .served with pair := { s.pair with asked := true } }))) ∧
  (∀ (s : State) (t : Nat), s.mayTakeOver = true → s.flag F.PAIR_CFG_AUTO = true → s.selfLow = false → s.live P.PAIR = true → s.pair.lowSince = some t → t + 200000 ≤ s.nowNs → 
      exec (.failFastDetect) s = .next (State.settle (s.takeover 1))) ∧
  (∀ (s : State), s.mayTakeOver = true → s.flag F.PAIR_CFG_AUTO = true → s.selfLow = false → s.live P.PAIR = true → s.fld F.PAIR_STAT_MISS = 3 → 
      exec (.missedHeartbeat) s = .next (State.settle (s.takeover 2))) ∧
  (∀ (s : State) (request : Bool), s.role = 1 → request = false → 
      exec (.pairFence request) s = .next (State.settle (s.fence))) ∧
  (∀ (s : State) (request : Bool), s.role = 1 → request = true → 
      exec (.pairFence request) s = .next (State.settle ({ s with pair := { s.pair with handTick := some (tickOf (s.nowNs + 1000000) + b2n ((s.nowNs + 1000000) % 1000000000 % 7812500 ≠ 0)) } }))) ∧
  (∀ (s : State), s.pair.asked = true → ({ s with pair := { s.pair with asked := false } } : State).mayTakeOver = true → 
      exec (.plannedTakeoverTimeout) s = .next (State.settle (({ s with pair := { s.pair with asked := false } } : State).takeover 3))) ∧
  (∀ (s : State) (sec k : Nat), s.pair.asked = true → 
      exec (.takeoverReplyReceive sec k) s = .next (State.settle ({ s with pair := { s.pair with asked := false, handTick := some (sec * 128 + k) } }))) ∧
  (∀ (s : State) (init : Nat), s.admits init R.PAIR_MTXCMD = true → s.mirrors = true → s.role = 1 → 1 ≤ s.fld F.PAIR_MTXDESC_LEN → s.fld F.PAIR_MTXDESC_LEN ≤ 256 → 
      exec (.mirrorSend init) s = .next (State.settle ({ s.respond .served with pair := { s.pair with stage := [], sent := some (s.fld F.PAIR_MTXDESC_TYPE, (s.pair.stage ++ List.replicate 256 0).take (s.fld F.PAIR_MTXDESC_LEN)) } }))) ∧
  (∀ (s : State) (init w : Nat), s.admits init R.PAIR_MTXDATA = true → 
      exec (.mtxdataPush init w) s = .next (State.settle ({ s.respond .served with pair := { s.pair with stage := (s.pair.stage ++ leBytes 4 w).take 256 } }))) ∧
  (∀ (s : State) (type : Nat) (octets : List Byte) (mode qual : Nat) (s2 s3 : State), octets.length ≤ 256 → s.mirrors = true → s.role = 2 → type ≠ 5 → s.portWrite Init.PAIR (sramBase + bankSize * s.fld F.PAIR_MBASE_BANK + 64 + 320 * (s.pair.ringWr % 819)) (leBytes 4 (type % 256 + octets.length * 256) ++ leBytes 4 s.pair.ringWr ++ leBytes 4 (s.nowSec % 2 ^ 32) ++ leBytes 4 (s.nowNs % 1000000000) ++ (octets ++ List.replicate 256 0).take 256 ++ List.replicate 48 0) = (s2, true) → s3 = (s2.portWrite Init.PAIR (sramBase + bankSize * s.fld F.PAIR_MBASE_BANK) (leBytes 4 0x524E4731 ++ leBytes 2 1 ++ leBytes 1 2 ++ leBytes 1 Init.PAIR ++ leBytes 4 320 ++ leBytes 4 819 ++ leBytes 4 ((s.pair.ringWr + 1) % 2 ^ 32) ++ leBytes 4 (s.fld F.COR_LATSTAT_EPOCHS % 256) ++ List.replicate 40 0)).1 → 
      exec (.mirrorReceive type octets mode qual) s = .next (State.settle (({ s3 with pair := { s3.pair with ringWr := (s.pair.ringWr + 1) % 2 ^ 32 } } : State).irq P.PAIR 3))) ∧
  (∀ (s : State) (type : Nat) (octets : List Byte) (mode qual : Nat) (s2 s3 s4 : State), octets.length ≤ 256 → s.mirrors = true → s.role = 2 → type = 5 → s.portWrite Init.PAIR (sramBase + bankSize * s.fld F.PAIR_MBASE_BANK + 64 + 320 * (s.pair.ringWr % 819)) (leBytes 4 (type % 256 + octets.length * 256) ++ leBytes 4 s.pair.ringWr ++ leBytes 4 (s.nowSec % 2 ^ 32) ++ leBytes 4 (s.nowNs % 1000000000) ++ (octets ++ List.replicate 256 0).take 256 ++ List.replicate 48 0) = (s2, true) → s3 = (s2.portWrite Init.PAIR (sramBase + bankSize * s.fld F.PAIR_MBASE_BANK) (leBytes 4 0x524E4731 ++ leBytes 2 1 ++ leBytes 1 2 ++ leBytes 1 Init.PAIR ++ leBytes 4 320 ++ leBytes 4 819 ++ leBytes 4 ((s.pair.ringWr + 1) % 2 ^ 32) ++ leBytes 4 (s.fld F.COR_LATSTAT_EPOCHS % 256) ++ List.replicate 40 0)).1 → s4 = ({ s3 with pair := { s3.pair with ringWr := (s.pair.ringWr + 1) % 2 ^ 32 } } : State).irq P.PAIR 3 → 
      exec (.mirrorReceive type octets mode qual) s = .next (State.settle (({ s4 with pair := { s4.pair with mirMode := mode % 8, mirQual := qual % 8, mirOrigin := if mode % 8 = 2 ∨ mode % 8 = 3 then mode % 8 else s4.pair.mirOrigin } } : State).qualUpdate))) ∧
  (∀ (s : State) (k : Nat) (bytes : List Byte), s.mirrors = true → s.role = 2 → k < 4096 → 
      exec (.sessionMirrorReceive (.entry k bytes)) s = .next (State.settle ((s.sesWrite k ((bytes ++ List.replicate 64 0).take 64)).1))) ∧
  (∀ (s : State), s.pair.waitAck = true → 
      exec (.mirrorAck) s = .next (State.settle ((({ s with pair := { s.pair with waitAck := false } } : State).setFlag F.PTP_SESSSTAT_BUSY false).irq P.PTP 2)))

/-- The stack instructions complete. NOP changes no operand; DUP, DROP, SWAP, OVER, ROT and PICK rearrange the top entries, filled from memory where the core holds too few and spilling where it holds too many. Completes: swNop, swDup, swDrop, swSwapT, swOver, swRot, swPick. (15_swiale_instructions.md (Table 15-3: NOP to PICK); 14_swiale_cores.md (operand stack)) -/
def Obligations.SwialeStackManipulationCompletes : Prop :=
  (∀ (s : State) (c len : Nat) (k k1 : Core) (stall : Nat), s.begins c none .nop len k = true → k1 = k → 
      exec (.swNop c stall) s = .next (State.settle (s.finishes c k k1 .nop len .next stall))) ∧
  (∀ (s : State) (c len : Nat) (k k1 : Core) (a : Word) (r : List Word) (k2 : Core) (stall : Nat), s.begins c none .dup len k = true → gives (k.need 1) k1 = true → k1.stack = a :: r → gives (k1.push a) k2 = true → 
      exec (.swDup c stall) s = .next (State.settle (s.finishes c k k2 .dup len .next stall))) ∧
  (∀ (s : State) (c len : Nat) (k k1 : Core) (a : Word) (r : List Word) (stall : Nat), s.begins c none .drop len k = true → gives (k.need 1) k1 = true → k1.stack = a :: r → 
      exec (.swDrop c stall) s = .next (State.settle (s.finishes c k { k1 with stack := r } .drop len .next stall))) ∧
  (∀ (s : State) (c len : Nat) (k k1 : Core) (a b : Word) (r : List Word) (stall : Nat), s.begins c none .swapT len k = true → gives (k.need 2) k1 = true → k1.stack = b :: a :: r → 
      exec (.swSwapT c stall) s = .next (State.settle (s.finishes c k { k1 with stack := a :: b :: r } .swapT len .next stall))) ∧
  (∀ (s : State) (c len : Nat) (k k1 : Core) (a b : Word) (r : List Word) (k2 : Core) (stall : Nat), s.begins c none .overT len k = true → gives (k.need 2) k1 = true → k1.stack = b :: a :: r → gives (k1.push a) k2 = true → 
      exec (.swOver c stall) s = .next (State.settle (s.finishes c k k2 .overT len .next stall))) ∧
  (∀ (s : State) (c len : Nat) (k k1 : Core) (a b d : Word) (r : List Word) (stall : Nat), s.begins c none .rot len k = true → gives (k.need 3) k1 = true → k1.stack = d :: b :: a :: r → 
      exec (.swRot c stall) s = .next (State.settle (s.finishes c k { k1 with stack := a :: d :: b :: r } .rot len .next stall))) ∧
  (∀ (s : State) (c len : Nat) (k k1 : Core) (f : Nat) (k2 : Core) (stall : Nat), s.begins c none (.pick f) len k = true → gives (k.need (f + 1)) k1 = true → gives (k1.push (k1.stack.getD f 0)) k2 = true → 
      exec (.swPick c stall) s = .next (State.settle (s.finishes c k k2 (.pick f) len .next stall)))

/-- The two-operand arithmetic instructions complete with their result. For a and b on the stack, b on top, each instruction replaces them by its result; the saturating forms record saturation in SAT. Completes: swAdd, swSub, swAnd, swOr, swXor, swMin, swMax, swSlt, swSltu, swMul, swMulh, swMulhu, swShlv, swShrv, swSarv, swAdds, swSubs. (15_swiale_instructions.md (Table 15-3: ADD to SARV)) -/
def Obligations.SwialeTwoOperandInstructionsComplete : Prop :=
  (∀ (s : State) (c len : Nat) (k k1 : Core) (a b : Word) (r : List Word) (stall : Nat), s.begins c none .add len k = true → gives (k.need 2) k1 = true → k1.stack = b :: a :: r → 
      exec (.swAdd c stall) s = .next (State.settle (s.finishes c k { k1 with stack := (a + b) :: r } .add len .next stall))) ∧
  (∀ (s : State) (c len : Nat) (k k1 : Core) (a b : Word) (r : List Word) (stall : Nat), s.begins c none .sub len k = true → gives (k.need 2) k1 = true → k1.stack = b :: a :: r → 
      exec (.swSub c stall) s = .next (State.settle (s.finishes c k { k1 with stack := (a - b) :: r } .sub len .next stall))) ∧
  (∀ (s : State) (c len : Nat) (k k1 : Core) (a b : Word) (r : List Word) (stall : Nat), s.begins c none .and len k = true → gives (k.need 2) k1 = true → k1.stack = b :: a :: r → 
      exec (.swAnd c stall) s = .next (State.settle (s.finishes c k { k1 with stack := (a &&& b) :: r } .and len .next stall))) ∧
  (∀ (s : State) (c len : Nat) (k k1 : Core) (a b : Word) (r : List Word) (stall : Nat), s.begins c none .or len k = true → gives (k.need 2) k1 = true → k1.stack = b :: a :: r → 
      exec (.swOr c stall) s = .next (State.settle (s.finishes c k { k1 with stack := (a ||| b) :: r } .or len .next stall))) ∧
  (∀ (s : State) (c len : Nat) (k k1 : Core) (a b : Word) (r : List Word) (stall : Nat), s.begins c none .xor len k = true → gives (k.need 2) k1 = true → k1.stack = b :: a :: r → 
      exec (.swXor c stall) s = .next (State.settle (s.finishes c k { k1 with stack := (a ^^^ b) :: r } .xor len .next stall))) ∧
  (∀ (s : State) (c len : Nat) (k k1 : Core) (a b : Word) (r : List Word) (stall : Nat), s.begins c none .min len k = true → gives (k.need 2) k1 = true → k1.stack = b :: a :: r → 
      exec (.swMin c stall) s = .next (State.settle (s.finishes c k { k1 with stack := (if a.toInt ≤ b.toInt then a else b) :: r } .min len .next stall))) ∧
  (∀ (s : State) (c len : Nat) (k k1 : Core) (a b : Word) (r : List Word) (stall : Nat), s.begins c none .max len k = true → gives (k.need 2) k1 = true → k1.stack = b :: a :: r → 
      exec (.swMax c stall) s = .next (State.settle (s.finishes c k { k1 with stack := (if a.toInt ≤ b.toInt then b else a) :: r } .max len .next stall))) ∧
  (∀ (s : State) (c len : Nat) (k k1 : Core) (a b : Word) (r : List Word) (stall : Nat), s.begins c none .slt len k = true → gives (k.need 2) k1 = true → k1.stack = b :: a :: r → 
      exec (.swSlt c stall) s = .next (State.settle (s.finishes c k { k1 with stack := (if a.toInt < b.toInt then 1 else 0) :: r } .slt len .next stall))) ∧
  (∀ (s : State) (c len : Nat) (k k1 : Core) (a b : Word) (r : List Word) (stall : Nat), s.begins c none .sltu len k = true → gives (k.need 2) k1 = true → k1.stack = b :: a :: r → 
      exec (.swSltu c stall) s = .next (State.settle (s.finishes c k { k1 with stack := (if a.toNat < b.toNat then 1 else 0) :: r } .sltu len .next stall))) ∧
  (∀ (s : State) (c len : Nat) (k k1 : Core) (a b : Word) (r : List Word) (stall : Nat), s.begins c none .mul len k = true → gives (k.need 2) k1 = true → k1.stack = b :: a :: r → 
      exec (.swMul c stall) s = .next (State.settle (s.finishes c k { k1 with stack := (BitVec.ofInt 32 (a.toInt * b.toInt)) :: r } .mul len .next stall))) ∧
  (∀ (s : State) (c len : Nat) (k k1 : Core) (a b : Word) (r : List Word) (stall : Nat), s.begins c none .mulh len k = true → gives (k.need 2) k1 = true → k1.stack = b :: a :: r → 
      exec (.swMulh c stall) s = .next (State.settle (s.finishes c k { k1 with stack := (BitVec.ofInt 32 (a.toInt * b.toInt / 2 ^ 32)) :: r } .mulh len .next stall))) ∧
  (∀ (s : State) (c len : Nat) (k k1 : Core) (a b : Word) (r : List Word) (stall : Nat), s.begins c none .mulhu len k = true → gives (k.need 2) k1 = true → k1.stack = b :: a :: r → 
      exec (.swMulhu c stall) s = .next (State.settle (s.finishes c k { k1 with stack := (BitVec.ofNat 32 (a.toNat * b.toNat / 2 ^ 32)) :: r } .mulhu len .next stall))) ∧
  (∀ (s : State) (c len : Nat) (k k1 : Core) (a b : Word) (r : List Word) (stall : Nat), s.begins c none .shlv len k = true → gives (k.need 2) k1 = true → k1.stack = b :: a :: r → 
      exec (.swShlv c stall) s = .next (State.settle (s.finishes c k { k1 with stack := (if b.toNat % 64 < 32 then a <<< (b.toNat % 64) else 0) :: r } .shlv len .next stall))) ∧
  (∀ (s : State) (c len : Nat) (k k1 : Core) (a b : Word) (r : List Word) (stall : Nat), s.begins c none .shrv len k = true → gives (k.need 2) k1 = true → k1.stack = b :: a :: r → 
      exec (.swShrv c stall) s = .next (State.settle (s.finishes c k { k1 with stack := (if b.toNat % 64 < 32 then a >>> (b.toNat % 64) else 0) :: r } .shrv len .next stall))) ∧
  (∀ (s : State) (c len : Nat) (k k1 : Core) (a b : Word) (r : List Word) (stall : Nat), s.begins c none .sarv len k = true → gives (k.need 2) k1 = true → k1.stack = b :: a :: r → 
      exec (.swSarv c stall) s = .next (State.settle (s.finishes c k { k1 with stack := (if b.toNat % 64 < 32 then a.sshiftRight (b.toNat % 64) else if a.toInt < 0 then BitVec.allOnes 32 else 0) :: r } .sarv len .next stall))) ∧
  (∀ (s : State) (c len : Nat) (k k1 : Core) (a b : Word) (r : List Word) (stall : Nat), s.begins c none .adds len k = true → gives (k.need 2) k1 = true → k1.stack = b :: a :: r → 
      exec (.swAdds c stall) s = .next (State.settle (s.finishes c k { k1 with stack := BitVec.ofInt 32 (clampInt (-(2 ^ 31)) (2 ^ 31 - 1) (a.toInt + b.toInt)) :: r, sat := k1.sat || decide (clampInt (-(2 ^ 31)) (2 ^ 31 - 1) (a.toInt + b.toInt) ≠ a.toInt + b.toInt) } .adds len .next stall))) ∧
  (∀ (s : State) (c len : Nat) (k k1 : Core) (a b : Word) (r : List Word) (stall : Nat), s.begins c none .subs len k = true → gives (k.need 2) k1 = true → k1.stack = b :: a :: r → 
      exec (.swSubs c stall) s = .next (State.settle (s.finishes c k { k1 with stack := BitVec.ofInt 32 (clampInt (-(2 ^ 31)) (2 ^ 31 - 1) (a.toInt - b.toInt)) :: r, sat := k1.sat || decide (clampInt (-(2 ^ 31)) (2 ^ 31 - 1) (a.toInt - b.toInt) ≠ a.toInt - b.toInt) } .subs len .next stall)))

/-- The one-operand arithmetic instructions complete with their result. For a on top of the stack, each instruction replaces it by its result; NORM pushes the shift count as well. Completes: swNot, swNeg, swShl, swShr, swSar, swSext, swExp, swAbs, swNorm, swAddi. (15_swiale_instructions.md (Table 15-3: NOT to NORM, and Table 15-4: ADDI)) -/
def Obligations.SwialeOneOperandInstructionsComplete : Prop :=
  (∀ (s : State) (c len : Nat) (k k1 : Core) (a : Word) (r : List Word) (stall : Nat), s.begins c none .not len k = true → gives (k.need 1) k1 = true → k1.stack = a :: r → 
      exec (.swNot c stall) s = .next (State.settle (s.finishes c k { k1 with stack := (~~~ a) :: r } .not len .next stall))) ∧
  (∀ (s : State) (c len : Nat) (k k1 : Core) (a : Word) (r : List Word) (stall : Nat), s.begins c none .neg len k = true → gives (k.need 1) k1 = true → k1.stack = a :: r → 
      exec (.swNeg c stall) s = .next (State.settle (s.finishes c k { k1 with stack := (0 - a) :: r } .neg len .next stall))) ∧
  (∀ (s : State) (c len : Nat) (k k1 : Core) (f : Nat) (a : Word) (r : List Word) (stall : Nat), s.begins c none (.shl f) len k = true → gives (k.need 1) k1 = true → k1.stack = a :: r → 
      exec (.swShl c stall) s = .next (State.settle (s.finishes c k { k1 with stack := (a <<< f) :: r } (.shl f) len .next stall))) ∧
  (∀ (s : State) (c len : Nat) (k k1 : Core) (f : Nat) (a : Word) (r : List Word) (stall : Nat), s.begins c none (.shr f) len k = true → gives (k.need 1) k1 = true → k1.stack = a :: r → 
      exec (.swShr c stall) s = .next (State.settle (s.finishes c k { k1 with stack := (a >>> f) :: r } (.shr f) len .next stall))) ∧
  (∀ (s : State) (c len : Nat) (k k1 : Core) (f : Nat) (a : Word) (r : List Word) (stall : Nat), s.begins c none (.sar f) len k = true → gives (k.need 1) k1 = true → k1.stack = a :: r → 
      exec (.swSar c stall) s = .next (State.settle (s.finishes c k { k1 with stack := (a.sshiftRight f) :: r } (.sar f) len .next stall))) ∧
  (∀ (s : State) (c len : Nat) (k k1 : Core) (f : Nat) (a : Word) (r : List Word) (stall : Nat), s.begins c none (.sext f) len k = true → gives (k.need 1) k1 = true → k1.stack = a :: r → 
      exec (.swSext c stall) s = .next (State.settle (s.finishes c k { k1 with stack := (BitVec.ofInt 32 (signed (f + 1) (a.toNat % 2 ^ (f + 1)))) :: r } (.sext f) len .next stall))) ∧
  (∀ (s : State) (c len : Nat) (k k1 : Core) (a : Word) (r : List Word) (stall : Nat), s.begins c none .exp len k = true → gives (k.need 1) k1 = true → k1.stack = a :: r → 
      exec (.swExp c stall) s = .next (State.settle (s.finishes c k { k1 with stack := (BitVec.ofNat 32 (redundant 32 a.toInt)) :: r } .exp len .next stall))) ∧
  (∀ (s : State) (c len : Nat) (k k1 : Core) (a : Word) (r : List Word) (stall : Nat), s.begins c none .abs len k = true → gives (k.need 1) k1 = true → k1.stack = a :: r → 
      exec (.swAbs c stall) s = .next (State.settle (s.finishes c k { k1 with stack := (if a.toInt = -(2 ^ 31) then 0x7FFFFFFF else if a.toInt < 0 then 0 - a else a) :: r, sat := k1.sat || decide (a.toInt = -(2 ^ 31)) } .abs len .next stall))) ∧
  (∀ (s : State) (c len : Nat) (k k1 : Core) (a : Word) (r : List Word) (k2 : Core) (stall : Nat), s.begins c none .norm len k = true → gives (k.need 1) k1 = true → k1.stack = a :: r → gives (({ k1 with stack := (a <<< redundant 32 a.toInt) :: r } : Core).push (BitVec.ofNat 32 (redundant 32 a.toInt))) k2 = true → 
      exec (.swNorm c stall) s = .next (State.settle (s.finishes c k k2 .norm len .next stall))) ∧
  (∀ (s : State) (c len : Nat) (k k1 : Core) (v : Int) (a : Word) (r : List Word) (stall : Nat), s.begins c none (.addi v) len k = true → gives (k.need 1) k1 = true → k1.stack = a :: r → 
      exec (.swAddi c stall) s = .next (State.settle (s.finishes c k { k1 with stack := (a + BitVec.ofInt 32 v) :: r } (.addi v) len .next stall)))

/-- Literal, address-register and control-register instructions complete with their effect. A literal or a register is pushed, sign-extended or zero-extended as Table 15-4 says; a pop writes its register; ADDA modifies An by 4 times its literal under its length; MFCR pushes a control register and MTCR writes one, the stack-placement registers after both stacks have been brought to memory. Completes: swPushi, swPushl24, swLui, swPusha, swPushm, swPushl, swPopa, swPopm, swPopl, swAdda, swMfcr, swMtcr. (15_swiale_instructions.md (Table 15-4, Table 15-8); 14_swiale_cores.md (address arithmetic, Table 14-4)) -/
def Obligations.SwialeLiteralAndRegisterInstructionsComplete : Prop :=
  (∀ (s : State) (c len : Nat) (k k1 : Core) (v : Int) (k2 : Core) (stall : Nat), s.begins c none (.pushi v) len k = true → k1 = k → gives (k1.push (BitVec.ofInt 32 v)) k2 = true → 
      exec (.swPushi c stall) s = .next (State.settle (s.finishes c k k2 (.pushi v) len .next stall))) ∧
  (∀ (s : State) (c len : Nat) (k k1 : Core) (v : Int) (k2 : Core) (stall : Nat), s.begins c none (.pushl24 v) len k = true → k1 = k → gives (k1.push (BitVec.ofInt 32 v)) k2 = true → 
      exec (.swPushl24 c stall) s = .next (State.settle (s.finishes c k k2 (.pushl24 v) len .next stall))) ∧
  (∀ (s : State) (c len : Nat) (k k1 : Core) (v : Nat) (k2 : Core) (stall : Nat), s.begins c none (.lui v) len k = true → k1 = k → gives (k1.push (BitVec.ofNat 32 (v * 256))) k2 = true → 
      exec (.swLui c stall) s = .next (State.settle (s.finishes c k k2 (.lui v) len .next stall))) ∧
  (∀ (s : State) (c len : Nat) (k k1 : Core) (n : Nat) (k2 : Core) (stall : Nat), s.begins c none (.pusha n) len k = true → k1 = k → gives (k1.push (BitVec.ofNat 32 (k1.a.getD n 0))) k2 = true → 
      exec (.swPusha c stall) s = .next (State.settle (s.finishes c k k2 (.pusha n) len .next stall))) ∧
  (∀ (s : State) (c len : Nat) (k k1 : Core) (n : Nat) (k2 : Core) (stall : Nat), s.begins c none (.pushm n) len k = true → k1 = k → gives (k1.push (BitVec.ofInt 32 (signed 16 (k1.m.getD n 0)))) k2 = true → 
      exec (.swPushm c stall) s = .next (State.settle (s.finishes c k k2 (.pushm n) len .next stall))) ∧
  (∀ (s : State) (c len : Nat) (k k1 : Core) (n : Nat) (k2 : Core) (stall : Nat), s.begins c none (.pushl n) len k = true → k1 = k → gives (k1.push (BitVec.ofNat 32 (k1.l.getD n 0))) k2 = true → 
      exec (.swPushl c stall) s = .next (State.settle (s.finishes c k k2 (.pushl n) len .next stall))) ∧
  (∀ (s : State) (c len : Nat) (k k1 : Core) (n : Nat) (w : Word) (r : List Word) (stall : Nat), s.begins c none (.popa n) len k = true → gives (k.need 1) k1 = true → k1.stack = w :: r → 
      exec (.swPopa c stall) s = .next (State.settle (s.finishes c k { k1 with stack := r, a := k1.a.set n (w.toNat % 65536) } (.popa n) len .next stall))) ∧
  (∀ (s : State) (c len : Nat) (k k1 : Core) (n : Nat) (w : Word) (r : List Word) (stall : Nat), s.begins c none (.popm n) len k = true → gives (k.need 1) k1 = true → k1.stack = w :: r → 
      exec (.swPopm c stall) s = .next (State.settle (s.finishes c k { k1 with stack := r, m := k1.m.set n (w.toNat % 65536) } (.popm n) len .next stall))) ∧
  (∀ (s : State) (c len : Nat) (k k1 : Core) (n : Nat) (w : Word) (r : List Word) (stall : Nat), s.begins c none (.popl n) len k = true → gives (k.need 1) k1 = true → k1.stack = w :: r → 
      exec (.swPopl c stall) s = .next (State.settle (s.finishes c k { k1 with stack := r, l := k1.l.set n (w.toNat % 65536 / 4 * 4) } (.popl n) len .next stall))) ∧
  (∀ (s : State) (c len : Nat) (k k1 : Core) (n : Nat) (v : Int) (stall : Nat), s.begins c none (.adda n v) len k = true → k1 = k → 
      exec (.swAdda c stall) s = .next (State.settle (s.finishes c k { k1 with a := k1.a.set n (circular (k1.a.getD n 0) (min 32768 (k1.l.getD n 0)) (4 * v)) } (.adda n v) len .next stall))) ∧
  (∀ (s : State) (c len : Nat) (k k1 : Core) (n : Nat) (k2 : Core) (stall : Nat), s.begins c none (.mfcr n) len k = true → k1 = k → gives (k1.push (k1.crRead (s.coreIpend c) (c + 1) n)) k2 = true → 
      exec (.swMfcr c stall) s = .next (State.settle (s.finishes c k k2 (.mfcr n) len .next stall))) ∧
  (∀ (s : State) (c len : Nat) (k k1 : Core) (n : Nat) (w : Word) (r : List Word) (stall : Nat), s.begins c none (.mtcr n) len k = true → gives (k.need 1) k1 = true → k1.stack = w :: r → n = 0 → 
      exec (.swMtcr c stall) s = .next (State.settle (s.finishes c k (({ k1 with stack := r } : Core).setStatus w) (.mtcr n) len .next stall))) ∧
  (∀ (s : State) (c len : Nat) (k k1 : Core) (n : Nat) (w : Word) (r : List Word) (stall : Nat), s.begins c none (.mtcr n) len k = true → gives (k.need 1) k1 = true → k1.stack = w :: r → n = 5 → 
      exec (.swMtcr c stall) s = .next (State.settle (s.finishes c k { k1 with stack := r, vbar := w.toNat / 512 * 512 } (.mtcr n) len .next stall))) ∧
  (∀ (s : State) (c len : Nat) (k k1 : Core) (n : Nat) (w : Word) (r : List Word) (stall : Nat), s.begins c none (.mtcr n) len k = true → gives (k.need 1) k1 = true → k1.stack = w :: r → n = 6 → 
      exec (.swMtcr c stall) s = .next (State.settle (s.finishes c k { k1 with stack := r, epc := w.toNat } (.mtcr n) len .next stall))) ∧
  (∀ (s : State) (c len : Nat) (k k1 : Core) (n : Nat) (w : Word) (r : List Word) (stall : Nat), s.begins c none (.mtcr n) len k = true → gives (k.need 1) k1 = true → k1.stack = w :: r → n = 9 → 
      exec (.swMtcr c stall) s = .next (State.settle (s.finishes c k { k1 with stack := r, imask := w.toNat } (.mtcr n) len .next stall))) ∧
  (∀ (s : State) (c len : Nat) (k k1 : Core) (n : Nat) (w : Word) (r : List Word) (stall : Nat), s.begins c none (.mtcr n) len k = true → gives (k.need 1) k1 = true → k1.stack = w :: r → n = 11 → 
      exec (.swMtcr c stall) s = .next (State.settle (s.finishes c k { k1 with stack := r, replim := clampNat 1 4096 w.toNat } (.mtcr n) len .next stall))) ∧
  (∀ (s : State) (c len : Nat) (k k1 : Core) (n : Nat) (w : Word) (r : List Word) (e : LoopEntry) (es : List LoopEntry) (stall : Nat), s.begins c none (.mtcr n) len k = true → gives (k.need 1) k1 = true → k1.stack = w :: r → n = 12 → k1.loops = e :: es → 
      exec (.swMtcr c stall) s = .next (State.settle (s.finishes c k { k1 with stack := r, loops := { e with ls := w.toNat } :: es } (.mtcr n) len .next stall))) ∧
  (∀ (s : State) (c len : Nat) (k k1 : Core) (n : Nat) (w : Word) (r : List Word) (e : LoopEntry) (es : List LoopEntry) (stall : Nat), s.begins c none (.mtcr n) len k = true → gives (k.need 1) k1 = true → k1.stack = w :: r → n = 13 → k1.loops = e :: es → 
      exec (.swMtcr c stall) s = .next (State.settle (s.finishes c k { k1 with stack := r, loops := { e with le := w.toNat } :: es } (.mtcr n) len .next stall))) ∧
  (∀ (s : State) (c len : Nat) (k k1 : Core) (n : Nat) (w : Word) (r : List Word) (e : LoopEntry) (es : List LoopEntry) (stall : Nat), s.begins c none (.mtcr n) len k = true → gives (k.need 1) k1 = true → k1.stack = w :: r → n = 14 → k1.loops = e :: es → 
      exec (.swMtcr c stall) s = .next (State.settle (s.finishes c k { k1 with stack := r, loops := { e with lc := w.toNat } :: es } (.mtcr n) len .next stall))) ∧
  (∀ (s : State) (c len : Nat) (k k1 : Core) (n : Nat) (w : Word) (r : List Word) (k2 : Core) (stall : Nat), s.begins c none (.mtcr n) len k = true → gives (k.need 1) k1 = true → k1.stack = w :: r → n = 1 → gives ({ k1 with stack := r } : Core).settle k2 = true → 
      exec (.swMtcr c stall) s = .next (State.settle (s.finishes c k { k2 with sp := w.toNat % 65536 } (.mtcr n) len .next stall))) ∧
  (∀ (s : State) (c len : Nat) (k k1 : Core) (n : Nat) (w : Word) (r : List Word) (k2 : Core) (stall : Nat), s.begins c none (.mtcr n) len k = true → gives (k.need 1) k1 = true → k1.stack = w :: r → n = 2 → gives ({ k1 with stack := r } : Core).settle k2 = true → 
      exec (.swMtcr c stall) s = .next (State.settle (s.finishes c k { k2 with spLo := w.toNat % 65536, spHi := w.toNat / 65536 } (.mtcr n) len .next stall))) ∧
  (∀ (s : State) (c len : Nat) (k k1 : Core) (n : Nat) (w : Word) (r : List Word) (k2 : Core) (stall : Nat), s.begins c none (.mtcr n) len k = true → gives (k.need 1) k1 = true → k1.stack = w :: r → n = 3 → gives ({ k1 with stack := r } : Core).settle k2 = true → 
      exec (.swMtcr c stall) s = .next (State.settle (s.finishes c k { k2 with rsp := w.toNat % 65536 } (.mtcr n) len .next stall))) ∧
  (∀ (s : State) (c len : Nat) (k k1 : Core) (n : Nat) (w : Word) (r : List Word) (k2 : Core) (stall : Nat), s.begins c none (.mtcr n) len k = true → gives (k.need 1) k1 = true → k1.stack = w :: r → n = 4 → gives ({ k1 with stack := r } : Core).settle k2 = true → 
      exec (.swMtcr c stall) s = .next (State.settle (s.finishes c k { k2 with rspLo := w.toNat % 65536, rspHi := w.toNat / 65536 } (.mtcr n) len .next stall))) ∧
  (∀ (s : State) (c len : Nat) (k k1 : Core) (n : Nat) (w : Word) (r : List Word) (stall : Nat), s.begins c none (.mtcr n) len k = true → gives (k.need 1) k1 = true → k1.stack = w :: r → n = 17 → 
      exec (.swMtcr c stall) s = .next (State.settle (s.finishes c k { k1 with stack := r, wdtWarned := if w = 0x4B1C then false else k1.wdtWarned, wdtKick := if w = 0x4B1C then true else k1.wdtKick } (.mtcr n) len .next stall)))

/-- Local and far loads and stores complete. A local load pushes the aligned value of its size and a local store writes it, with the post-modify where PM is set; a far load becomes a request under way and a far store enters the write buffer; a far form at an address of the core itself is served locally. Completes: swLd, swSt, swLdx, swStx, swLdf, swStf. (15_swiale_instructions.md (R382, R383, Table 15-5); 14_swiale_cores.md (far accesses and the write buffer)) -/
def Obligations.SwialeMemoryInstructionsComplete : Prop :=
  (∀ (s : State) (c len : Nat) (k k1 : Core) (sz a m : Nat) (k2 : Core) (ecc : Option (Nat × Bool)) (stall : Nat), s.begins c ecc (.ld sz a m false) len k = true → k1 = k → gives (k1.loadAt (Core.aMem a) (k1.a.getD a 0) sz) k2 = true → 
      exec (.swLd c ecc stall) s = .next (State.settle (s.finishes c k k2 (.ld sz a m false) len .next stall))) ∧
  (∀ (s : State) (c len : Nat) (k k1 : Core) (sz a m : Nat) (k2 : Core) (ecc : Option (Nat × Bool)) (stall : Nat), s.begins c ecc (.ld sz a m true) len k = true → k1 = k → gives (k1.loadAt (Core.aMem a) (k1.a.getD a 0) sz) k2 = true → 
      exec (.swLd c ecc stall) s = .next (State.settle (s.finishes c k { k2 with a := k2.a.set a (circular (k2.a.getD a 0) (min 32768 (k2.l.getD a 0)) (signed 16 (k2.m.getD m 0))) } (.ld sz a m true) len .next stall))) ∧
  (∀ (s : State) (c len : Nat) (k k1 : Core) (sz a m : Nat) (w : Word) (r : List Word) (stall : Nat), s.begins c none (.st sz a m false) len k = true → gives (k.need 1) k1 = true → k1.stack = w :: r → k1.a.getD a 0 % swSize sz = 0 → 
      exec (.swSt c stall) s = .next (State.settle (s.finishes c k (({ k1 with stack := r } : Core).putLocal (Core.aMem a) (k1.a.getD a 0) (swSize sz) w.toNat) (.st sz a m false) len .next stall))) ∧
  (∀ (s : State) (c len : Nat) (k k1 : Core) (sz a m : Nat) (w : Word) (r : List Word) (stall : Nat), s.begins c none (.st sz a m true) len k = true → gives (k.need 1) k1 = true → k1.stack = w :: r → k1.a.getD a 0 % swSize sz = 0 → 
      exec (.swSt c stall) s = .next (State.settle (s.finishes c k { (({ k1 with stack := r } : Core).putLocal (Core.aMem a) (k1.a.getD a 0) (swSize sz) w.toNat) with a := k1.a.set a (circular (k1.a.getD a 0) (min 32768 (k1.l.getD a 0)) (signed 16 (k1.m.getD m 0))) } (.st sz a m true) len .next stall))) ∧
  (∀ (s : State) (c len : Nat) (k k1 : Core) (y : Bool) (sz off : Nat) (k2 : Core) (ecc : Option (Nat × Bool)) (stall : Nat), s.begins c ecc (.ldx y sz off) len k = true → k1 = k → gives (k1.loadAt (if y then .y else .x) off sz) k2 = true → 
      exec (.swLdx c ecc stall) s = .next (State.settle (s.finishes c k k2 (.ldx y sz off) len .next stall))) ∧
  (∀ (s : State) (c len : Nat) (k k1 : Core) (y : Bool) (sz off : Nat) (w : Word) (r : List Word) (stall : Nat), s.begins c none (.stx y sz off) len k = true → gives (k.need 1) k1 = true → k1.stack = w :: r → off % swSize sz = 0 → 
      exec (.swStx c stall) s = .next (State.settle (s.finishes c k (({ k1 with stack := r } : Core).putLocal (if y then .y else .x) off (swSize sz) w.toNat) (.stx y sz off) len .next stall))) ∧
  (∀ (s : State) (c len : Nat) (k k1 : Core) (sz : Nat) (disp : Int) (w : Word) (r : List Word) (ecc : Option (Nat × Bool)) (stall : Nat), s.begins c ecc (.ldf sz disp) len k = true → gives (k.need 1) k1 = true → k1.stack = w :: r → localOf ((w.toNat + disp) % 4294967296).toNat = none → ({ k1 with stack := r } : Core).loadWaits ((w.toNat + disp) % 4294967296).toNat = false → 
      exec (.swLdf c ecc stall) s = .next (State.settle (((s.coreSet c k).corePut c { k with load := some ⟨((w.toNat + disp) % 4294967296).toNat, swSize sz, swSigned sz⟩ }).coreStall c stall))) ∧
  (∀ (s : State) (c len : Nat) (k k1 : Core) (sz : Nat) (disp : Int) (w : Word) (r : List Word) (m : LocalMem) (off : Nat) (k2 : Core) (ecc : Option (Nat × Bool)) (stall : Nat), s.begins c ecc (.ldf sz disp) len k = true → gives (k.need 1) k1 = true → k1.stack = w :: r → localOf ((w.toNat + disp) % 4294967296).toNat = some (m, off) → gives (({ k1 with stack := r } : Core).loadAt m off sz) k2 = true → 
      exec (.swLdf c ecc stall) s = .next (State.settle (s.finishes c k { k2 with cycle := k2.cycle + 1 } (.ldf sz disp) len .next stall))) ∧
  (∀ (s : State) (c len : Nat) (k k1 : Core) (sz : Nat) (disp : Int) (w v : Word) (r : List Word) (stall : Nat), s.begins c none (.stf sz disp) len k = true → gives (k.need 2) k1 = true → k1.stack = w :: v :: r → localOf ((w.toNat + disp) % 4294967296).toNat = none → k1.wbuf.length < 4 → 
      exec (.swStf c stall) s = .next (State.settle (s.finishes c k { k1 with stack := r, wbuf := k1.wbuf ++ [⟨((w.toNat + disp) % 4294967296).toNat, swSize sz, v.toNat % 2 ^ (8 * swSize sz)⟩] } (.stf sz disp) len .next stall))) ∧
  (∀ (s : State) (c len : Nat) (k k1 : Core) (sz : Nat) (disp : Int) (w v : Word) (r : List Word) (m : LocalMem) (off : Nat) (stall : Nat), s.begins c none (.stf sz disp) len k = true → gives (k.need 2) k1 = true → k1.stack = w :: v :: r → localOf ((w.toNat + disp) % 4294967296).toNat = some (m, off) → m ≠ .i → off % swSize sz = 0 → 
      exec (.swStf c stall) s = .next (State.settle (s.finishes c k { (({ k1 with stack := r } : Core).putLocal m off (swSize sz) v.toNat) with cycle := (({ k1 with stack := r } : Core).putLocal m off (swSize sz) v.toNat).cycle + 1 } (.stf sz disp) len .next stall)))

/-- MAC and accumulator instructions complete with the accumulator they leave. Each form gives its accumulator the value of Table 15-6, saturated to 72 bits with OVF; the two-memory forms post-modify both pointers; the reading forms push a part of it; STACC delivers the rounded, saturated value. Completes: swMac, swMsu, swMpy, swMpyn, swMacs, swMsus, swMpys, swLda, swAccadd, swAccsub, swClr, swNega, swMova, swSra, swExpa, swPushal, swPushah, swPushag, swNorma, swPopacc, swStacc. (15_swiale_instructions.md (R384, Table 15-6); 14_swiale_cores.md (accumulators, R360, R361)) -/
def Obligations.SwialeAccumulatorInstructionsComplete : Prop :=
  (∀ (s : State) (c len : Nat) (k k1 : Core) (acc ax ay mx my : Nat) (xv yv : Nat) (x y : Int) (kx k2 : Core) (ecc : Option (Nat × Bool)) (stall : Nat), s.begins c ecc (.mac acc ax ay mx my) len k = true → k1 = k → gives (k.readLocal .x (k.a.getD ax 0) 4) (xv, kx) = true → gives (kx.readLocal .y (k.a.getD ay 0) 4) (yv, k2) = true → x = signed 32 xv → y = signed 32 yv → 
      exec (.swMac c ecc stall) s = .next (State.settle (s.finishes c k (((k2.setAcc acc (k.accOf acc + x * y)).modA ax (k.mOf mx)).modA ay (k.mOf my)) (.mac acc ax ay mx my) len .next stall))) ∧
  (∀ (s : State) (c len : Nat) (k k1 : Core) (acc ax ay mx my : Nat) (xv yv : Nat) (x y : Int) (kx k2 : Core) (ecc : Option (Nat × Bool)) (stall : Nat), s.begins c ecc (.msu acc ax ay mx my) len k = true → k1 = k → gives (k.readLocal .x (k.a.getD ax 0) 4) (xv, kx) = true → gives (kx.readLocal .y (k.a.getD ay 0) 4) (yv, k2) = true → x = signed 32 xv → y = signed 32 yv → 
      exec (.swMsu c ecc stall) s = .next (State.settle (s.finishes c k (((k2.setAcc acc (k.accOf acc - x * y)).modA ax (k.mOf mx)).modA ay (k.mOf my)) (.msu acc ax ay mx my) len .next stall))) ∧
  (∀ (s : State) (c len : Nat) (k k1 : Core) (acc ax ay mx my : Nat) (xv yv : Nat) (x y : Int) (kx k2 : Core) (ecc : Option (Nat × Bool)) (stall : Nat), s.begins c ecc (.mpy acc ax ay mx my) len k = true → k1 = k → gives (k.readLocal .x (k.a.getD ax 0) 4) (xv, kx) = true → gives (kx.readLocal .y (k.a.getD ay 0) 4) (yv, k2) = true → x = signed 32 xv → y = signed 32 yv → 
      exec (.swMpy c ecc stall) s = .next (State.settle (s.finishes c k (((k2.setAcc acc (x * y)).modA ax (k.mOf mx)).modA ay (k.mOf my)) (.mpy acc ax ay mx my) len .next stall))) ∧
  (∀ (s : State) (c len : Nat) (k k1 : Core) (acc ax ay mx my : Nat) (xv yv : Nat) (x y : Int) (kx k2 : Core) (ecc : Option (Nat × Bool)) (stall : Nat), s.begins c ecc (.mpyn acc ax ay mx my) len k = true → k1 = k → gives (k.readLocal .x (k.a.getD ax 0) 4) (xv, kx) = true → gives (kx.readLocal .y (k.a.getD ay 0) 4) (yv, k2) = true → x = signed 32 xv → y = signed 32 yv → 
      exec (.swMpyn c ecc stall) s = .next (State.settle (s.finishes c k (((k2.setAcc acc (-(x * y))).modA ax (k.mOf mx)).modA ay (k.mOf my)) (.mpyn acc ax ay mx my) len .next stall))) ∧
  (∀ (s : State) (c len : Nat) (k k1 : Core) (acc : Nat) (a b : Word) (r : List Word) (stall : Nat), s.begins c none (.macs acc) len k = true → gives (k.need 2) k1 = true → k1.stack = b :: a :: r → 
      exec (.swMacs c stall) s = .next (State.settle (s.finishes c k (({ k1 with stack := r } : Core).setAcc acc (k.accOf acc + a.toInt * b.toInt)) (.macs acc) len .next stall))) ∧
  (∀ (s : State) (c len : Nat) (k k1 : Core) (acc : Nat) (a b : Word) (r : List Word) (stall : Nat), s.begins c none (.msus acc) len k = true → gives (k.need 2) k1 = true → k1.stack = b :: a :: r → 
      exec (.swMsus c stall) s = .next (State.settle (s.finishes c k (({ k1 with stack := r } : Core).setAcc acc (k.accOf acc - a.toInt * b.toInt)) (.msus acc) len .next stall))) ∧
  (∀ (s : State) (c len : Nat) (k k1 : Core) (acc : Nat) (a b : Word) (r : List Word) (stall : Nat), s.begins c none (.mpys acc) len k = true → gives (k.need 2) k1 = true → k1.stack = b :: a :: r → 
      exec (.swMpys c stall) s = .next (State.settle (s.finishes c k (({ k1 with stack := r } : Core).setAcc acc (a.toInt * b.toInt)) (.mpys acc) len .next stall))) ∧
  (∀ (s : State) (c len : Nat) (k k1 : Core) (acc sh : Nat) (a : Word) (r : List Word) (stall : Nat), s.begins c none (.lda acc sh) len k = true → gives (k.need 1) k1 = true → k1.stack = a :: r → 
      exec (.swLda c stall) s = .next (State.settle (s.finishes c k (({ k1 with stack := r } : Core).setAcc acc (a.toInt * 2 ^ sh)) (.lda acc sh) len .next stall))) ∧
  (∀ (s : State) (c len : Nat) (k k1 : Core) (acc sh : Nat) (a : Word) (r : List Word) (stall : Nat), s.begins c none (.accadd acc sh) len k = true → gives (k.need 1) k1 = true → k1.stack = a :: r → 
      exec (.swAccadd c stall) s = .next (State.settle (s.finishes c k (({ k1 with stack := r } : Core).setAcc acc (k.accOf acc + a.toInt * 2 ^ sh)) (.accadd acc sh) len .next stall))) ∧
  (∀ (s : State) (c len : Nat) (k k1 : Core) (acc sh : Nat) (a : Word) (r : List Word) (stall : Nat), s.begins c none (.accsub acc sh) len k = true → gives (k.need 1) k1 = true → k1.stack = a :: r → 
      exec (.swAccsub c stall) s = .next (State.settle (s.finishes c k (({ k1 with stack := r } : Core).setAcc acc (k.accOf acc - a.toInt * 2 ^ sh)) (.accsub acc sh) len .next stall))) ∧
  (∀ (s : State) (c len : Nat) (k k1 : Core) (acc : Nat) (stall : Nat), s.begins c none (.clr acc) len k = true → k1 = k → 
      exec (.swClr c stall) s = .next (State.settle (s.finishes c k (k1.setAcc acc (0)) (.clr acc) len .next stall))) ∧
  (∀ (s : State) (c len : Nat) (k k1 : Core) (acc : Nat) (stall : Nat), s.begins c none (.nega acc) len k = true → k1 = k → 
      exec (.swNega c stall) s = .next (State.settle (s.finishes c k (k1.setAcc acc (-(k1.accOf acc))) (.nega acc) len .next stall))) ∧
  (∀ (s : State) (c len : Nat) (k k1 : Core) (acc : Nat) (stall : Nat), s.begins c none (.mova acc) len k = true → k1 = k → 
      exec (.swMova c stall) s = .next (State.settle (s.finishes c k (k1.setAcc acc (k1.accOf (1 - acc))) (.mova acc) len .next stall))) ∧
  (∀ (s : State) (c len : Nat) (k k1 : Core) (acc sh : Nat) (stall : Nat), s.begins c none (.sra acc sh) len k = true → k1 = k → 
      exec (.swSra c stall) s = .next (State.settle (s.finishes c k (k1.setAcc acc (k1.accOf acc / 2 ^ sh)) (.sra acc sh) len .next stall))) ∧
  (∀ (s : State) (c len : Nat) (k k1 : Core) (acc : Nat) (k2 : Core) (stall : Nat), s.begins c none (.expa acc) len k = true → k1 = k → gives (k1.push (BitVec.ofNat 32 (redundant 72 (k1.accOf acc)))) k2 = true → 
      exec (.swExpa c stall) s = .next (State.settle (s.finishes c k k2 (.expa acc) len .next stall))) ∧
  (∀ (s : State) (c len : Nat) (k k1 : Core) (acc : Nat) (k2 : Core) (stall : Nat), s.begins c none (.pushal acc) len k = true → k1 = k → gives (k1.push (BitVec.ofInt 32 (k1.accOf acc))) k2 = true → 
      exec (.swPushal c stall) s = .next (State.settle (s.finishes c k k2 (.pushal acc) len .next stall))) ∧
  (∀ (s : State) (c len : Nat) (k k1 : Core) (acc : Nat) (k2 : Core) (stall : Nat), s.begins c none (.pushah acc) len k = true → k1 = k → gives (k1.push (BitVec.ofInt 32 (k1.accOf acc / 2 ^ 32))) k2 = true → 
      exec (.swPushah c stall) s = .next (State.settle (s.finishes c k k2 (.pushah acc) len .next stall))) ∧
  (∀ (s : State) (c len : Nat) (k k1 : Core) (acc : Nat) (k2 : Core) (stall : Nat), s.begins c none (.pushag acc) len k = true → k1 = k → gives (k1.push (BitVec.ofInt 32 (k1.accOf acc / 2 ^ 64))) k2 = true → 
      exec (.swPushag c stall) s = .next (State.settle (s.finishes c k k2 (.pushag acc) len .next stall))) ∧
  (∀ (s : State) (c len : Nat) (k k1 : Core) (acc : Nat) (k2 : Core) (stall : Nat), s.begins c none (.norma acc) len k = true → k1 = k → gives ((k1.setAcc acc (k1.accOf acc * 2 ^ redundant 72 (k1.accOf acc))).push (BitVec.ofNat 32 (redundant 72 (k1.accOf acc)))) k2 = true → 
      exec (.swNorma c stall) s = .next (State.settle (s.finishes c k k2 (.norma acc) len .next stall))) ∧
  (∀ (s : State) (c len : Nat) (k k1 : Core) (acc : Nat) (g h l : Word) (r : List Word) (stall : Nat), s.begins c none (.popacc acc) len k = true → gives (k.need 3) k1 = true → k1.stack = l :: h :: g :: r → 
      exec (.swPopacc c stall) s = .next (State.settle (s.finishes c k (({ k1 with stack := r } : Core).setAcc acc (signed 72 (g.toNat % 256 * 2 ^ 64 + h.toNat * 2 ^ 32 + l.toNat))) (.popacc acc) len .next stall))) ∧
  (∀ (s : State) (c len : Nat) (k k1 : Core) (acc a m : Nat) (pm : Bool) (sh : Nat) (v : Word) (kv k2 : Core) (stall : Nat), s.begins c none (.stacc acc 0 a m pm sh) len k = true → k1 = k → k.sat32 (roundEven (k.accOf acc) sh) = (v, kv) → gives (kv.push v) k2 = true → 
      exec (.swStacc c stall) s = .next (State.settle (s.finishes c k k2 (.stacc acc 0 a m pm sh) len .next stall))) ∧
  (∀ (s : State) (c len : Nat) (k k1 : Core) (acc a m : Nat) (pm : Bool) (sh : Nat) (v : Word) (kv : Core) (stall : Nat), s.begins c none (.stacc acc 1 a m pm sh) len k = true → k1 = k → k.sat32 (roundEven (k.accOf acc) sh) = (v, kv) → k.a.getD a 0 % 4 = 0 → 
      exec (.swStacc c stall) s = .next (State.settle (s.finishes c k (if pm then (kv.putLocal (Core.aMem a) (kv.a.getD a 0) 4 v.toNat).modA a (kv.mOf m) else kv.putLocal (Core.aMem a) (kv.a.getD a 0) 4 v.toNat) (.stacc acc 1 a m pm sh) len .next stall))) ∧
  (∀ (s : State) (c len : Nat) (k k1 : Core) (acc a m : Nat) (pm : Bool) (sh : Nat) (v w : Word) (r : List Word) (kv k2 : Core) (stall : Nat), s.begins c none (.stacc acc 2 a m pm sh) len k = true → k1 = k → k.sat32 (roundEven (k.accOf acc) sh) = (v, kv) → gives (kv.need 1) k2 = true → k2.stack = w :: r → localOf w.toNat = none → k2.wbuf.length < 4 → 
      exec (.swStacc c stall) s = .next (State.settle (s.finishes c k { k2 with stack := r, wbuf := k2.wbuf ++ [⟨w.toNat, 4, v.toNat % 2 ^ 32⟩] } (.stacc acc 2 a m pm sh) len .next stall)))

/-- Branches, calls, returns, loops and REP complete. A taken transfer to a legal target enters its delay slot with that target and an untaken one with none; a call pushes the return address; a loop pushes its entry, or skips its body for a count of 0; REP arms the repetition. Completes: swBeq, swBne, swBlt, swBge, swBltu, swBgeu, swBz, swBnz, swBneg, swBr, swCall, swJr, swCallr, swRet, swRti, swLpop, swLoop, swLoopt, swRep, swRept. (15_swiale_instructions.md (R385 to R391, Table 15-7); 14_swiale_cores.md (loops and REP)) -/
def Obligations.SwialeControlFlowInstructionsComplete : Prop :=
  (∀ (s : State) (c len : Nat) (k k1 : Core) (off : Int) (a b : Word) (r : List Word) (tgt : Nat) (stall : Nat), s.begins c none (.beq off) len k = true → gives (k.need 2) k1 = true → k1.stack = b :: a :: r → a = b → (tgt : Int) = k1.pc + 2 * off → tgt ≤ 0x1FFFE → tgt % 2 = 0 → 
      exec (.swBeq c stall) s = .next (State.settle (s.finishes c k { k1 with stack := r } (.beq off) len (.transfer (some tgt)) stall))) ∧
  (∀ (s : State) (c len : Nat) (k k1 : Core) (off : Int) (a b : Word) (r : List Word) (stall : Nat), s.begins c none (.beq off) len k = true → gives (k.need 2) k1 = true → k1.stack = b :: a :: r → ¬ (a = b) → 
      exec (.swBeq c stall) s = .next (State.settle (s.finishes c k { k1 with stack := r } (.beq off) len (.transfer none) stall))) ∧
  (∀ (s : State) (c len : Nat) (k k1 : Core) (off : Int) (a b : Word) (r : List Word) (tgt : Nat) (stall : Nat), s.begins c none (.bne off) len k = true → gives (k.need 2) k1 = true → k1.stack = b :: a :: r → a ≠ b → (tgt : Int) = k1.pc + 2 * off → tgt ≤ 0x1FFFE → tgt % 2 = 0 → 
      exec (.swBne c stall) s = .next (State.settle (s.finishes c k { k1 with stack := r } (.bne off) len (.transfer (some tgt)) stall))) ∧
  (∀ (s : State) (c len : Nat) (k k1 : Core) (off : Int) (a b : Word) (r : List Word) (stall : Nat), s.begins c none (.bne off) len k = true → gives (k.need 2) k1 = true → k1.stack = b :: a :: r → ¬ (a ≠ b) → 
      exec (.swBne c stall) s = .next (State.settle (s.finishes c k { k1 with stack := r } (.bne off) len (.transfer none) stall))) ∧
  (∀ (s : State) (c len : Nat) (k k1 : Core) (off : Int) (a b : Word) (r : List Word) (tgt : Nat) (stall : Nat), s.begins c none (.blt off) len k = true → gives (k.need 2) k1 = true → k1.stack = b :: a :: r → a.toInt < b.toInt → (tgt : Int) = k1.pc + 2 * off → tgt ≤ 0x1FFFE → tgt % 2 = 0 → 
      exec (.swBlt c stall) s = .next (State.settle (s.finishes c k { k1 with stack := r } (.blt off) len (.transfer (some tgt)) stall))) ∧
  (∀ (s : State) (c len : Nat) (k k1 : Core) (off : Int) (a b : Word) (r : List Word) (stall : Nat), s.begins c none (.blt off) len k = true → gives (k.need 2) k1 = true → k1.stack = b :: a :: r → ¬ (a.toInt < b.toInt) → 
      exec (.swBlt c stall) s = .next (State.settle (s.finishes c k { k1 with stack := r } (.blt off) len (.transfer none) stall))) ∧
  (∀ (s : State) (c len : Nat) (k k1 : Core) (off : Int) (a b : Word) (r : List Word) (tgt : Nat) (stall : Nat), s.begins c none (.bge off) len k = true → gives (k.need 2) k1 = true → k1.stack = b :: a :: r → b.toInt ≤ a.toInt → (tgt : Int) = k1.pc + 2 * off → tgt ≤ 0x1FFFE → tgt % 2 = 0 → 
      exec (.swBge c stall) s = .next (State.settle (s.finishes c k { k1 with stack := r } (.bge off) len (.transfer (some tgt)) stall))) ∧
  (∀ (s : State) (c len : Nat) (k k1 : Core) (off : Int) (a b : Word) (r : List Word) (stall : Nat), s.begins c none (.bge off) len k = true → gives (k.need 2) k1 = true → k1.stack = b :: a :: r → ¬ (b.toInt ≤ a.toInt) → 
      exec (.swBge c stall) s = .next (State.settle (s.finishes c k { k1 with stack := r } (.bge off) len (.transfer none) stall))) ∧
  (∀ (s : State) (c len : Nat) (k k1 : Core) (off : Int) (a b : Word) (r : List Word) (tgt : Nat) (stall : Nat), s.begins c none (.bltu off) len k = true → gives (k.need 2) k1 = true → k1.stack = b :: a :: r → a.toNat < b.toNat → (tgt : Int) = k1.pc + 2 * off → tgt ≤ 0x1FFFE → tgt % 2 = 0 → 
      exec (.swBltu c stall) s = .next (State.settle (s.finishes c k { k1 with stack := r } (.bltu off) len (.transfer (some tgt)) stall))) ∧
  (∀ (s : State) (c len : Nat) (k k1 : Core) (off : Int) (a b : Word) (r : List Word) (stall : Nat), s.begins c none (.bltu off) len k = true → gives (k.need 2) k1 = true → k1.stack = b :: a :: r → ¬ (a.toNat < b.toNat) → 
      exec (.swBltu c stall) s = .next (State.settle (s.finishes c k { k1 with stack := r } (.bltu off) len (.transfer none) stall))) ∧
  (∀ (s : State) (c len : Nat) (k k1 : Core) (off : Int) (a b : Word) (r : List Word) (tgt : Nat) (stall : Nat), s.begins c none (.bgeu off) len k = true → gives (k.need 2) k1 = true → k1.stack = b :: a :: r → b.toNat ≤ a.toNat → (tgt : Int) = k1.pc + 2 * off → tgt ≤ 0x1FFFE → tgt % 2 = 0 → 
      exec (.swBgeu c stall) s = .next (State.settle (s.finishes c k { k1 with stack := r } (.bgeu off) len (.transfer (some tgt)) stall))) ∧
  (∀ (s : State) (c len : Nat) (k k1 : Core) (off : Int) (a b : Word) (r : List Word) (stall : Nat), s.begins c none (.bgeu off) len k = true → gives (k.need 2) k1 = true → k1.stack = b :: a :: r → ¬ (b.toNat ≤ a.toNat) → 
      exec (.swBgeu c stall) s = .next (State.settle (s.finishes c k { k1 with stack := r } (.bgeu off) len (.transfer none) stall))) ∧
  (∀ (s : State) (c len : Nat) (k k1 : Core) (off : Int) (a : Word) (r : List Word) (tgt : Nat) (stall : Nat), s.begins c none (.bz off) len k = true → gives (k.need 1) k1 = true → k1.stack = a :: r → a = 0 → (tgt : Int) = k1.pc + 2 * off → tgt ≤ 0x1FFFE → tgt % 2 = 0 → 
      exec (.swBz c stall) s = .next (State.settle (s.finishes c k { k1 with stack := r } (.bz off) len (.transfer (some tgt)) stall))) ∧
  (∀ (s : State) (c len : Nat) (k k1 : Core) (off : Int) (a : Word) (r : List Word) (stall : Nat), s.begins c none (.bz off) len k = true → gives (k.need 1) k1 = true → k1.stack = a :: r → ¬ (a = 0) → 
      exec (.swBz c stall) s = .next (State.settle (s.finishes c k { k1 with stack := r } (.bz off) len (.transfer none) stall))) ∧
  (∀ (s : State) (c len : Nat) (k k1 : Core) (off : Int) (a : Word) (r : List Word) (tgt : Nat) (stall : Nat), s.begins c none (.bnz off) len k = true → gives (k.need 1) k1 = true → k1.stack = a :: r → a ≠ 0 → (tgt : Int) = k1.pc + 2 * off → tgt ≤ 0x1FFFE → tgt % 2 = 0 → 
      exec (.swBnz c stall) s = .next (State.settle (s.finishes c k { k1 with stack := r } (.bnz off) len (.transfer (some tgt)) stall))) ∧
  (∀ (s : State) (c len : Nat) (k k1 : Core) (off : Int) (a : Word) (r : List Word) (stall : Nat), s.begins c none (.bnz off) len k = true → gives (k.need 1) k1 = true → k1.stack = a :: r → ¬ (a ≠ 0) → 
      exec (.swBnz c stall) s = .next (State.settle (s.finishes c k { k1 with stack := r } (.bnz off) len (.transfer none) stall))) ∧
  (∀ (s : State) (c len : Nat) (k k1 : Core) (off : Int) (a : Word) (r : List Word) (tgt : Nat) (stall : Nat), s.begins c none (.bneg off) len k = true → gives (k.need 1) k1 = true → k1.stack = a :: r → a.toInt < 0 → (tgt : Int) = k1.pc + 2 * off → tgt ≤ 0x1FFFE → tgt % 2 = 0 → 
      exec (.swBneg c stall) s = .next (State.settle (s.finishes c k { k1 with stack := r } (.bneg off) len (.transfer (some tgt)) stall))) ∧
  (∀ (s : State) (c len : Nat) (k k1 : Core) (off : Int) (a : Word) (r : List Word) (stall : Nat), s.begins c none (.bneg off) len k = true → gives (k.need 1) k1 = true → k1.stack = a :: r → ¬ (a.toInt < 0) → 
      exec (.swBneg c stall) s = .next (State.settle (s.finishes c k { k1 with stack := r } (.bneg off) len (.transfer none) stall))) ∧
  (∀ (s : State) (c len : Nat) (k k1 : Core) (off : Int) (tgt : Nat) (stall : Nat), s.begins c none (.br off) len k = true → k1 = k → (tgt : Int) = k1.pc + 2 * off → tgt ≤ 0x1FFFE → tgt % 2 = 0 → 
      exec (.swBr c stall) s = .next (State.settle (s.finishes c k k1 (.br off) len (.transfer (some tgt)) stall))) ∧
  (∀ (s : State) (c len : Nat) (k k1 : Core) (off : Int) (tgt : Nat) (k2 : Core) (stall : Nat), s.begins c none (.call off) len k = true → k1 = k → (tgt : Int) = k1.pc + 2 * off → tgt ≤ 0x1FFFE → tgt % 2 = 0 → gives (k1.rpush (BitVec.ofNat 32 (k.pc + len + swLen (k.half (k.pc + len))))) k2 = true → 
      exec (.swCall c stall) s = .next (State.settle (s.finishes c k k2 (.call off) len (.transfer (some tgt)) stall))) ∧
  (∀ (s : State) (c len : Nat) (k k1 : Core) (w : Word) (r : List Word) (stall : Nat), s.begins c none .jr len k = true → gives (k.need 1) k1 = true → k1.stack = w :: r → w.toNat ≤ 0x1FFFE → w.toNat % 2 = 0 → 
      exec (.swJr c stall) s = .next (State.settle (s.finishes c k { k1 with stack := r } .jr len (.transfer (some w.toNat)) stall))) ∧
  (∀ (s : State) (c len : Nat) (k k1 : Core) (w : Word) (r : List Word) (k2 : Core) (stall : Nat), s.begins c none .callr len k = true → gives (k.need 1) k1 = true → k1.stack = w :: r → w.toNat ≤ 0x1FFFE → w.toNat % 2 = 0 → gives (({ k1 with stack := r } : Core).rpush (BitVec.ofNat 32 (k.pc + len + swLen (k.half (k.pc + len))))) k2 = true → 
      exec (.swCallr c stall) s = .next (State.settle (s.finishes c k k2 .callr len (.transfer (some w.toNat)) stall))) ∧
  (∀ (s : State) (c len : Nat) (k k1 : Core) (w : Word) (k2 : Core) (stall : Nat), s.begins c none .ret len k = true → k1 = k → gives k1.rpop (w, k2) = true → w.toNat ≤ 0x1FFFE → w.toNat % 2 = 0 → 
      exec (.swRet c stall) s = .next (State.settle (s.finishes c k k2 .ret len (.transfer (some w.toNat)) stall))) ∧
  (∀ (s : State) (c len : Nat) (k k1 : Core) (st w : Word) (k2 k3 : Core) (stall : Nat), s.begins c none .rti len k = true → k1 = k → gives k1.rpop (st, k2) = true → gives k2.rpop (w, k3) = true → 
      exec (.swRti c stall) s = .next (State.settle (s.finishes c k (k3.setStatus st) .rti len (.goto w.toNat) stall))) ∧
  (∀ (s : State) (c len : Nat) (k k1 : Core) (e : LoopEntry) (es : List LoopEntry) (stall : Nat), s.begins c none .lpop len k = true → k1 = k → k1.loops = e :: es → 
      exec (.swLpop c stall) s = .next (State.settle (s.finishes c k { k1 with loops := es } .lpop len .next stall))) ∧
  (∀ (s : State) (c len : Nat) (k k1 : Core) (n endOff : Nat) (stall : Nat), s.begins c none (.loop n endOff) len k = true → k1 = k → 2 ≤ endOff → k1.pc + 2 * endOff ≤ 0x1FFFE → n ≠ 0 → k1.loops.length < 4 → 
      exec (.swLoop c stall) s = .next (State.settle (s.finishes c k { k1 with loops := ⟨k1.pc + 4, k1.pc + 2 * endOff, n⟩ :: k1.loops } (.loop n endOff) len .next stall))) ∧
  (∀ (s : State) (c len : Nat) (k k1 : Core) (endOff : Nat) (stall : Nat), s.begins c none (.loop 0 endOff) len k = true → k1 = k → 2 ≤ endOff → k1.pc + 2 * endOff ≤ 0x1FFFE → 
      exec (.swLoop c stall) s = .next (State.settle (s.finishes c k k1 (.loop 0 endOff) len (.goto (k1.pc + 2 * endOff + swLen (k1.half (k1.pc + 2 * endOff)))) stall))) ∧
  (∀ (s : State) (c len : Nat) (k k1 : Core) (endOff : Nat) (w : Word) (r : List Word) (stall : Nat), s.begins c none (.loopt endOff) len k = true → gives (k.need 1) k1 = true → 2 ≤ endOff → k.pc + 2 * endOff ≤ 0x1FFFE → k1.stack = w :: r → w.toNat ≠ 0 → k1.loops.length < 4 → 
      exec (.swLoopt c stall) s = .next (State.settle (s.finishes c k { k1 with stack := r, loops := ⟨k1.pc + 4, k1.pc + 2 * endOff, w.toNat⟩ :: k1.loops } (.loopt endOff) len .next stall))) ∧
  (∀ (s : State) (c len : Nat) (k k1 : Core) (endOff : Nat) (w : Word) (r : List Word) (stall : Nat), s.begins c none (.loopt endOff) len k = true → gives (k.need 1) k1 = true → 2 ≤ endOff → k.pc + 2 * endOff ≤ 0x1FFFE → k1.stack = w :: r → w.toNat = 0 → 
      exec (.swLoopt c stall) s = .next (State.settle (s.finishes c k { k1 with stack := r } (.loopt endOff) len (.goto (k1.pc + 2 * endOff + swLen (k1.half (k1.pc + 2 * endOff)))) stall))) ∧
  (∀ (s : State) (c len : Nat) (k k1 : Core) (n : Nat) (stall : Nat), s.begins c none (.rep n) len k = true → k1 = k → n ≠ 0 → n ≤ k1.replim → 
      exec (.swRep c stall) s = .next (State.settle (s.finishes c k { k1 with rep := some (n, 0) } (.rep n) len .next stall))) ∧
  (∀ (s : State) (c len : Nat) (k k1 : Core) (w : Word) (r : List Word) (stall : Nat), s.begins c none .rept len k = true → gives (k.need 1) k1 = true → k1.stack = w :: r → w.toNat ≠ 0 → w.toNat ≤ k1.replim → 
      exec (.swRept c stall) s = .next (State.settle (s.finishes c k { k1 with stack := r, rep := some (w.toNat, 0) } .rept len .next stall)))

/-- WAIT, FENCE, TRAP, entries, watchdog, write buffer, hold and release complete. FENCE completes when no store is under way; WAIT stops the core unless something ends it; TRAP and an undefined encoding raise their exception; a due interrupt or NMI is entered; the write buffer issues its oldest store; a woken core runs; a watchdog warns, then holds the core or flags MC; a hold and a release do what R373 says. Completes: swFence, swWait, swTrap, undefinedEncoding, interruptEntry, nmiEntry, writeBufferIssue, waitWake, coreWdtExpiry. (15_swiale_instructions.md (R394); 14_swiale_cores.md (R355, R368, R371 to R373)) -/
def Obligations.SwialeSystemCommandsComplete : Prop :=
  (∀ (s : State) (c len : Nat) (k k1 : Core)  (stall : Nat), s.begins c none .fence len k = true → k1 = k → k1.wbuf = [] → k1.flight = [] → k1.hand = 0 → 
      exec (.swFence c stall) s = .next (State.settle (s.finishes c k k1 .fence len .next stall))) ∧
  (∀ (s : State) (c len : Nat) (k k1 : Core) (stall : Nat), s.begins c none .wait len k = true → k1 = k → s.waitOver c = false → 
      exec (.swWait c stall) s = .next (State.settle (s.finishes c k { k1 with run := .wait } .wait len .next stall))) ∧
  (∀ (s : State) (c len : Nat) (k k1 : Core) (stall : Nat), s.begins c none .wait len k = true → k1 = k → s.waitOver c = true → 
      exec (.swWait c stall) s = .next (State.settle (s.finishes c k k1 .wait len .next stall))) ∧
  (∀ (s : State) (c len : Nat) (k k1 : Core) (f : Nat) (stall : Nat), s.begins c none (.trap f) len k = true → k1 = k → 
      exec (.swTrap c stall) s = .next (State.settle (((s.coreSet c k).coreStall c stall).coreRaise c ⟨13, some f⟩))) ∧
  (∀ (s : State) (c : Nat) (ecc : Option (Nat × Bool)) (e : Exn), s.coreReady c = true → raises ((coreEcc (s.coreGet c) ecc).fetch (coreEcc (s.coreGet c) ecc).pc) e = true → 
      exec (.undefinedEncoding c ecc) s = .next (State.settle ((s.coreSet c (coreEcc (s.coreGet c) ecc)).coreRaise c e))) ∧
  (∀ (s : State) (c n : Nat) (k : Core), s.atBoundary c = true → s.nmiPending c = false → (s.coreGet c).stErr = [] → s.irqLine c = some n → gives ((s.coreGet c).enter (s.coreGet c).pc (8 * n)) k = true → 
      exec (.interruptEntry c) s = .next (State.settle (s.corePut c { k with events := if n < 8 then setBit k.events n false else k.events }))) ∧
  (∀ (s : State) (k : Core), s.atBoundary 10 = true → s.nmiPending 10 = true → gives ((s.coreGet 10).enter (s.coreGet 10).pc 0x100) k = true → 
      exec (.nmiEntry) s = .next (State.settle (s.corePut 10 { k with nmiAct := true }))) ∧
  (∀ (s : State) (c : Nat) (r : StoreReq) (rs : List StoreReq), c < 12 → (s.coreGet c).wbuf = r :: rs → 
      exec (.writeBufferIssue c) s = .next (State.settle (s.coreSet c { s.coreGet c with wbuf := rs, flight := (s.coreGet c).flight ++ [r] }))) ∧
  (∀ (s : State) (c cycles : Nat), c < 12 → (s.coreGet c).run = .wait → s.waitOver c = true → s.pmu.isolated = false → 
      exec (.waitWake c cycles) s = .next (State.settle (s.coreSet c { s.coreGet c with run := .running, cycle := (s.coreGet c).cycle + cycles }))) ∧
  (∀ (s : State) (c edges : Nat) (t : State), t = s.aonRun edges → c < 11 → (t.coreGet c).run ≠ .held ∨ c = 10 → t.fld (F.CORE_WDT_PERIOD c) ≠ 0 → t.fld (F.CORE_WDT_PERIOD c) ≤ t.wdtCount c → (t.coreGet c).wdtWarned = false → 
      exec (.coreWdtExpiry c edges) s = .next (State.settle (((t.coreSet c { t.coreGet c with wdtAt := t.aon.raw, wdtWarned := true }).coreLine c 3).irq (P.CORE c) 1))) ∧
  (∀ (s : State) (c edges : Nat) (t : State), t = s.aonRun edges → c < 11 → (t.coreGet c).run ≠ .held ∨ c = 10 → t.fld (F.CORE_WDT_PERIOD c) ≠ 0 → t.fld (F.CORE_WDT_PERIOD c) ≤ t.wdtCount c → (t.coreGet c).wdtWarned = true → c ≠ 10 → 
      exec (.coreWdtExpiry c edges) s = .next (State.settle (((((t.coreSet c { t.coreGet c with wdtAt := t.aon.raw, wdtWarned := false }).sticky (P.CORE c) 9)).coreHold c).setFlag (F.CTRL_ENABLE (P.CORE c)) false))) ∧
  (∀ (s : State) (c edges : Nat) (t : State), t = s.aonRun edges → c < 11 → (t.coreGet c).run ≠ .held ∨ c = 10 → t.fld (F.CORE_WDT_PERIOD c) ≠ 0 → t.fld (F.CORE_WDT_PERIOD c) ≤ t.wdtCount c → (t.coreGet c).wdtWarned = true → c = 10 → 
      exec (.coreWdtExpiry c edges) s = .next (State.settle ((t.coreSet c { t.coreGet c with wdtAt := t.aon.raw, wdtWarned := false }).sticky (P.CORE c) 9)))

/-- Responses of far accesses, core hold and release, doorbells and window writes complete. A served far load delivers its extended value to the waiting instruction; a completed far store takes effect and leaves the write buffer; the reply to a load or a store from before the core was last held is discarded and counted; an error response raises ST_ERR; hold and release act as a write of ENABLE; a doorbell sets line 5; a window write into a held core stores. Completes: farLoadResponse, storeComplete, storeError, coreHold, coreRelease, doorbellRing, windowWrite. (14_swiale_cores.md (R355, R356, R371, R373, R374); 21_faults.md (R523)) -/
def Obligations.FarAccessAndCoreCommandsComplete : Prop :=
  (∀ (s : State) (c n : Nat) (r : LoadReq) (t : State) (v len : Nat) (o : SwOp) (k2 k3 k4 : Core) (w x : Word), c < 12 → (s.coreGet c).load = some r → s.farWaits (c + 1) r.addr r.size false = false → s.farRead (c + 1) r.addr r.size = (t, .served, v) → gives (({ t.coreGet c with load := none } : Core).fetch (t.coreGet c).pc) (o, len, k2) = true → w = (if r.signExt then BitVec.ofInt 32 (signed (8 * r.size) v) else BitVec.ofNat 32 v) → gives k2.pop (x, k3) = true → gives (k3.push w) k4 = true → 
      exec (.farLoadResponse c n) s = .next (State.settle (t.corePut c { Core.complete k2 k4 o len .next with cycle := (Core.complete k2 k4 o len .next).cycle + n }))) ∧
  (∀ (s : State) (c n : Nat) (r : LoadReq) (rs : List LoadReq) (t : State), c < 12 → (s.coreGet c).load = none → (s.coreGet c).lost = r :: rs → s.farWaits (c + 1) r.addr r.size false = false → t = (s.farRead (c + 1) r.addr r.size).1 → 
      exec (.farLoadResponse c n) s = .next (State.settle (({ t.coreSet c { t.coreGet c with lost := (t.coreGet c).lost.drop 1 } with resp := s.resp, rdata := s.rdata } : State).nocDiscard))) ∧
  (∀ (s : State) (c : Nat) (r : StoreReq) (rs : List StoreReq) (t : State), c < 12 → (s.coreGet c).old = [] → (s.coreGet c).flight = r :: rs → s.farWaits (c + 1) r.addr r.size true = false → s.corePerform c r = (t, .served) → 
      exec (.storeComplete c) s = .next (State.settle (t.handStart))) ∧
  (∀ (s : State) (c : Nat) (r : StoreReq) (rs : List StoreReq) (t : State), c < 12 → (s.coreGet c).old = r :: rs → s.farWaits (c + 1) r.addr r.size true = false → s.coreSend c r = (t, .served, false) → 
      exec (.storeComplete c) s = .next (State.settle ((t.coreSet c { t.coreGet c with old := (t.coreGet c).old.drop 1 }).nocDiscard.handStart))) ∧
  (∀ (s : State) (c : Nat) (a : Nat) (r : List Nat), c < 12 → (s.coreGet c).stErr = a :: r → s.atBoundary c = true → s.nmiPending c = false → 
      exec (.storeError c) s = .next (State.settle ((s.coreSet c { s.coreGet c with stErr := r }).coreRaise c ⟨11, some a⟩))) ∧
  (∀ (s : State) (init c : Nat), c < 12 → s.admits init (R.PAGE_CTRL (P.CORE c)) = true → s.flag (F.LOCK_LOCK (P.CORE c)) = false → 
      exec (.coreHold init c) s = .next (State.settle ((s.respond .served).ctrlWrite init (P.CORE c) (s.reg (R.PAGE_CTRL (P.CORE c)) &&& ~~~3)))) ∧
  (∀ (s : State) (init c : Nat), c < 12 → s.admits init (R.PAGE_CTRL (P.CORE c)) = true → s.flag (F.LOCK_LOCK (P.CORE c)) = false → 
      exec (.coreRelease init c) s = .next (State.settle ((s.respond .served).ctrlWrite init (P.CORE c) ((s.reg (R.PAGE_CTRL (P.CORE c)) &&& ~~~2) ||| 1)))) ∧
  (∀ (s : State) (init c : Nat), c < 12 → s.storesOpen init = false → s.admits init (R.CORE_DOORBELL c) = true → 
      exec (.doorbellRing init c) s = .next (State.settle ((s.respond .served).coreLine c 5))) ∧
  (∀ (s : State) (init addr size v c off : Nat) (m : LocalMem), s.windowOf init addr = some (c, m, off) → size = 1 ∨ size = 2 ∨ size = 4 → s.held (P.CORE c) = false → (s.coreGet c).run = .held → off % size = 0 → 
      exec (.windowWrite init addr size v) s = .next (State.settle ((if init = Init.MC ∧ m = .i then (s.coreSet c ((s.coreGet c).putLocal m off size (v % 2 ^ (8 * size)))).unmeasure c else s.coreSet c ((s.coreGet c).putLocal m off size (v % 2 ^ (8 * size)))).respond .served)))

/-- Handovers, flag writes, bank accesses and scrub ticks complete. A handover that R398 accepts is recorded with its writer, and completes with the new owner in force; a write of the owner in force changes the three flags at once; an access that no handover holds ends with the response of its checks and its data; a scrub tick moves on by one word of every bank. Completes: handoverWrite, ownerFlagsWrite, handoverComplete, bankAccess, scrubTick. (16_memory_dma.md (R398, R399, R402, R542)) -/
def Obligations.MemoryCommandsComplete : Prop :=
  (∀ (s : State) (init b w owner : Nat), b < 96 → s.admits init (R.MEM_OWNER b) = true → owner = getBits (BitVec.ofNat 32 w) 0 5 → owner ≠ s.bankOwner b → validOwner owner = true → getBits (BitVec.ofNat 32 w) 8 5 = s.bankOwner b ∨ getBits (BitVec.ofNat 32 w) 8 5 = 0x1F → init = Init.MC ∨ init = Init.NYM ∨ (init = Init.HOST ∧ s.bankOwner b = Init.HOST) → s.bankPending b = false → s.handOf b = none → 
      exec (.handoverWrite init b w) s = .next (State.settle ((s.respond .served).handAccept b owner (decide (getBits (BitVec.ofNat 32 w) 16 1 = 1)) (decide (getBits (BitVec.ofNat 32 w) 17 1 = 1)) (decide (getBits (BitVec.ofNat 32 w) 18 1 = 1)) init))) ∧
  (∀ (s : State) (init b w : Nat), b < 96 → s.admits init (R.MEM_OWNER b) = true → getBits (BitVec.ofNat 32 w) 0 5 = s.bankOwner b → init = Init.MC ∨ init = Init.NYM ∨ (init = Init.HOST ∧ s.bankOwner b = Init.HOST) → s.bankPending b = false → s.handOf b = none → 
      exec (.ownerFlagsWrite init b w) s = .next (State.settle ((((s.respond .served).setFlag (F.MEM_OWNER_DMA_DELEGATE b) (decide (getBits (BitVec.ofNat 32 w) 16 1 = 1))).setFlag (F.MEM_OWNER_DMA_RDONLY b) (decide (getBits (BitVec.ofNat 32 w) 17 1 = 1))).setFlag (F.MEM_OWNER_ROT b) (decide (getBits (BitVec.ofNat 32 w) 18 1 = 1))))) ∧
  (∀ (s : State) (b : Nat) (h : Handover) (s1 : State), s.handOf b = some h → h.started = true → s.dmaCompletes b = false → s1 = (((((s.setFld (F.MEM_OWNER_OWNER b) h.owner).setFlag (F.MEM_OWNER_DMA_DELEGATE b) h.delegate).setFlag (F.MEM_OWNER_DMA_RDONLY b) h.rdonly).setFlag (F.MEM_OWNER_ROT b) h.rot).setFld (F.MEM_OWNER_PREV b) (s.bankOwner b)).setFlag (F.MEM_OWNER_PENDING b) false → 
      exec (.handoverComplete b) s = .next (State.settle ((((({ s1 with mem := { s1.mem with hand := s1.mem.hand.filter fun g => decide (g.bank ≠ b) } } : State).irq P.MEM 0).handRelease b).handRespond h.writer).handStart.cmdpiRelease.hostResume))) ∧
  (∀ (s : State) (x : BankReq) (t : State) (r : Resp) (v : Nat), x.init ≠ Init.DMA → s.bankHolds ⟨x.init, x.write, x.addr, x.size, x.value⟩ = false → s.bankAccess ⟨x.init, x.write, x.addr, x.size, x.value⟩ = (t, r, v) → 
      exec (.bankAccess none (some x) none) s = .next (State.settle ({ t with resp := r, rdata := BitVec.ofNat 32 v, mem := { t.mem with rdataP := v } }))) ∧
  (∀ (s : State) (x : BankReq) (t : State) (r : Resp) (v : Nat), x.init = Init.DMA → s.bankHolds ⟨x.init, x.write, x.addr, x.size, x.value⟩ = false → s.bankAccess ⟨x.init, x.write, x.addr, x.size, x.value⟩ = (t, r, v) → 
      exec (.bankAccess none none (some x)) s = .next (State.settle ({ t with mem := { t.mem with respD := r, rdataD := v } }))) ∧
  (∀ (s : State) (busy : List Nat), s.fld F.MEM_SCRUB_PERIOD ≠ 0 → s.mem.eccUnc = [] → s.mem.eccCorr = [] → 
      exec (.scrubTick busy) s = .next (State.settle ({ s with mem := { s.mem with scrubWord := (s.mem.scrubWord + 1) % 65536 } })))

/-- A service request becomes busy and waits for its end. A write of NYM_CMD that its channel admits while the channel is not busy records the request with the verdict of its checks, sets BUSY and raises no result yet; a time quote that is served at once captures its time. Completes: getInfo, selfTest, coNonce, authUser, authEnd, getCartouche, hash, hmac, cmac, gcm, verify, random, loadImage, installImage, advanceSvn, osnmaKroot, zeroiseSession, takeOwnership, rotateOwner, rma, scrap, debugGrant, installUserKey, installPtpKey, zeroise, pairBind, serviceGrant, osnmaRoot, setPolicy, quote. (17_nymvis_security.md (R422 to R426, Table 17-2)) -/
def Obligations.NymvisRequestsComplete : Prop :=
  (∀ (s : State) (init ch : Nat), ch < 2 → s.admits init (R.NYM_CMD ch) = true → s.flag (F.NYM_RSTAT_BUSY ch) = false → 
      exec (.getInfo init ch) s = .next (State.settle (s.nymQueued (s.nymRequest ch .getInfo none)))) ∧
  (∀ (s : State) (init ch : Nat), ch < 2 → s.admits init (R.NYM_CMD ch) = true → s.flag (F.NYM_RSTAT_BUSY ch) = false → 
      exec (.selfTest init ch) s = .next (State.settle (s.nymQueued (s.nymRequest ch .selfTest none)))) ∧
  (∀ (s : State) (init ch : Nat), ch < 2 → s.admits init (R.NYM_CMD ch) = true → s.flag (F.NYM_RSTAT_BUSY ch) = false → 
      exec (.coNonce init ch) s = .next (State.settle (s.nymQueued (s.nymRequest ch .coNonce none)))) ∧
  (∀ (s : State) (init ch : Nat) (idx : Nat), ch < 2 → s.admits init (R.NYM_CMD ch) = true → s.flag (F.NYM_RSTAT_BUSY ch) = false → 
      exec (.authUser init ch idx) s = .next (State.settle (s.nymQueued (s.nymRequest ch (.authUser idx) none)))) ∧
  (∀ (s : State) (init ch : Nat), ch < 2 → s.admits init (R.NYM_CMD ch) = true → s.flag (F.NYM_RSTAT_BUSY ch) = false → 
      exec (.authEnd init ch) s = .next (State.settle (s.nymQueued (s.nymRequest ch .authEnd none)))) ∧
  (∀ (s : State) (init ch : Nat), ch < 2 → s.admits init (R.NYM_CMD ch) = true → s.flag (F.NYM_RSTAT_BUSY ch) = false → 
      exec (.getCartouche init ch) s = .next (State.settle (s.nymQueued (s.nymRequest ch .getCartouche none)))) ∧
  (∀ (s : State) (init ch : Nat), ch < 2 → s.admits init (R.NYM_CMD ch) = true → s.flag (F.NYM_RSTAT_BUSY ch) = false → 
      exec (.hash init ch) s = .next (State.settle (s.nymQueued (s.nymRequest ch .hash none)))) ∧
  (∀ (s : State) (init ch : Nat), ch < 2 → s.admits init (R.NYM_CMD ch) = true → s.flag (F.NYM_RSTAT_BUSY ch) = false → 
      exec (.hmac init ch) s = .next (State.settle (s.nymQueued (s.nymRequest ch .hmac none)))) ∧
  (∀ (s : State) (init ch : Nat), ch < 2 → s.admits init (R.NYM_CMD ch) = true → s.flag (F.NYM_RSTAT_BUSY ch) = false → 
      exec (.cmac init ch) s = .next (State.settle (s.nymQueued (s.nymRequest ch .cmac none)))) ∧
  (∀ (s : State) (init ch : Nat) (dec : Bool) (slot : Nat) (iv tag : List Byte), ch < 2 → s.admits init (R.NYM_CMD ch) = true → s.flag (F.NYM_RSTAT_BUSY ch) = false → 
      exec (.gcm init ch dec slot iv tag) s = .next (State.settle (s.nymQueued (s.nymRequest ch (.gcm dec slot iv tag) none)))) ∧
  (∀ (s : State) (init ch : Nat), ch < 2 → s.admits init (R.NYM_CMD ch) = true → s.flag (F.NYM_RSTAT_BUSY ch) = false → 
      exec (.verify init ch) s = .next (State.settle (s.nymQueued (s.nymRequest ch .verify none)))) ∧
  (∀ (s : State) (init ch : Nat) (count : Nat), ch < 2 → s.admits init (R.NYM_CMD ch) = true → s.flag (F.NYM_RSTAT_BUSY ch) = false → 
      exec (.random init ch count) s = .next (State.settle (s.nymQueued (s.nymRequest ch (.random count) none)))) ∧
  (∀ (s : State) (init ch : Nat), ch < 2 → s.admits init (R.NYM_CMD ch) = true → s.flag (F.NYM_RSTAT_BUSY ch) = false → 
      exec (.loadImage init ch) s = .next (State.settle (s.nymQueued (s.nymRequest ch (.loadImage false) none)))) ∧
  (∀ (s : State) (init ch : Nat), ch < 2 → s.admits init (R.NYM_CMD ch) = true → s.flag (F.NYM_RSTAT_BUSY ch) = false → 
      exec (.installImage init ch) s = .next (State.settle (s.nymQueued (s.nymRequest ch (.loadImage true) none)))) ∧
  (∀ (s : State) (init ch : Nat) (cls : Nat), ch < 2 → s.admits init (R.NYM_CMD ch) = true → s.flag (F.NYM_RSTAT_BUSY ch) = false → 
      exec (.advanceSvn init ch cls) s = .next (State.settle (s.nymQueued (s.nymRequest ch (.advanceSvn cls) none)))) ∧
  (∀ (s : State) (init ch : Nat), ch < 2 → s.admits init (R.NYM_CMD ch) = true → s.flag (F.NYM_RSTAT_BUSY ch) = false → 
      exec (.osnmaKroot init ch) s = .next (State.settle (s.nymQueued (s.nymRequest ch .osnmaKroot none)))) ∧
  (∀ (s : State) (init ch : Nat), ch < 2 → s.admits init (R.NYM_CMD ch) = true → s.flag (F.NYM_RSTAT_BUSY ch) = false → 
      exec (.zeroiseSession init ch) s = .next (State.settle (s.nymQueued (s.nymRequest ch .zeroiseSession none)))) ∧
  (∀ (s : State) (init ch : Nat) (keyHash : List Byte) (ownerReq : Bool), ch < 2 → s.admits init (R.NYM_CMD ch) = true → s.flag (F.NYM_RSTAT_BUSY ch) = false → 
      exec (.takeOwnership init ch keyHash ownerReq) s = .next (State.settle (s.nymQueued (s.nymRequest ch (.co (some (.takeOwnership keyHash ownerReq))) none)))) ∧
  (∀ (s : State) (init ch : Nat) (keyHash : List Byte), ch < 2 → s.admits init (R.NYM_CMD ch) = true → s.flag (F.NYM_RSTAT_BUSY ch) = false → 
      exec (.rotateOwner init ch keyHash) s = .next (State.settle (s.nymQueued (s.nymRequest ch (.co (some (.rotateOwner keyHash))) none)))) ∧
  (∀ (s : State) (init ch : Nat) (token : Bool), ch < 2 → s.admits init (R.NYM_CMD ch) = true → s.flag (F.NYM_RSTAT_BUSY ch) = false → 
      exec (.rma init ch token) s = .next (State.settle (s.nymQueued (s.nymRequest ch (.co (some (.rma token))) none)))) ∧
  (∀ (s : State) (init ch : Nat) (token : Bool), ch < 2 → s.admits init (R.NYM_CMD ch) = true → s.flag (F.NYM_RSTAT_BUSY ch) = false → 
      exec (.scrap init ch token) s = .next (State.settle (s.nymQueued (s.nymRequest ch (.co (some (.scrap token))) none)))) ∧
  (∀ (s : State) (init ch : Nat), ch < 2 → s.admits init (R.NYM_CMD ch) = true → s.flag (F.NYM_RSTAT_BUSY ch) = false → 
      exec (.debugGrant init ch) s = .next (State.settle (s.nymQueued (s.nymRequest ch (.co (some .debugGrant)) none)))) ∧
  (∀ (s : State) (init ch : Nat) (idx : Nat) (eph wrapped : List Byte), ch < 2 → s.admits init (R.NYM_CMD ch) = true → s.flag (F.NYM_RSTAT_BUSY ch) = false → 
      exec (.installUserKey init ch idx eph wrapped) s = .next (State.settle (s.nymQueued (s.nymRequest ch (.co (some (.userKey idx eph wrapped))) none)))) ∧
  (∀ (s : State) (init ch : Nat) (slot : Nat) (eph wrapped : List Byte) (keyId spp : Nat), ch < 2 → s.admits init (R.NYM_CMD ch) = true → s.flag (F.NYM_RSTAT_BUSY ch) = false → 
      exec (.installPtpKey init ch slot eph wrapped keyId spp) s = .next (State.settle (s.nymQueued (s.nymRequest ch (.co (some (.ptpKey slot eph wrapped keyId spp))) none)))) ∧
  (∀ (s : State) (init ch : Nat), ch < 2 → s.admits init (R.NYM_CMD ch) = true → s.flag (F.NYM_RSTAT_BUSY ch) = false → 
      exec (.zeroise init ch) s = .next (State.settle (s.nymQueued (s.nymRequest ch (.co (some .zeroise)) none)))) ∧
  (∀ (s : State) (init ch : Nat) (version : Nat) (own peer clock : List Byte), ch < 2 → s.admits init (R.NYM_CMD ch) = true → s.flag (F.NYM_RSTAT_BUSY ch) = false → 
      exec (.pairBind init ch version own peer clock) s = .next (State.settle (s.nymQueued (s.nymRequest ch (.co (some (.pairBind version own peer clock))) none)))) ∧
  (∀ (s : State) (init ch : Nat), ch < 2 → s.admits init (R.NYM_CMD ch) = true → s.flag (F.NYM_RSTAT_BUSY ch) = false → 
      exec (.serviceGrant init ch) s = .next (State.settle (s.nymQueued (s.nymRequest ch (.co (some .serviceGrant)) none)))) ∧
  (∀ (s : State) (init ch : Nat) (root : List Byte), ch < 2 → s.admits init (R.NYM_CMD ch) = true → s.flag (F.NYM_RSTAT_BUSY ch) = false → 
      exec (.osnmaRoot init ch root) s = .next (State.settle (s.nymQueued (s.nymRequest ch (.co (some (.osnmaRoot root))) none)))) ∧
  (∀ (s : State) (init ch : Nat) (ownerReq : Bool), ch < 2 → s.admits init (R.NYM_CMD ch) = true → s.flag (F.NYM_RSTAT_BUSY ch) = false → 
      exec (.setPolicy init ch ownerReq) s = .next (State.settle (s.nymQueued (s.nymRequest ch (.co (some (.setPolicy ownerReq))) none)))) ∧
  (∀ (s : State) (init ch : Nat), ch < 2 → s.admits init (R.NYM_CMD ch) = true → s.flag (F.NYM_RSTAT_BUSY ch) = false → s.nym.queue = [] → 
      exec (.quote init ch) s = .next (State.settle (s.nymQueued (s.nymRequest ch .quote (some (s.nowFrac, s.qual, s.fld F.TBU_UNC_UNC)))))) ∧
  (∀ (s : State) (init ch : Nat) (r : NymReq) (rs : List NymReq), ch < 2 → s.admits init (R.NYM_CMD ch) = true → s.flag (F.NYM_RSTAT_BUSY ch) = false → s.nym.queue = r :: rs → r.op ≠ .quote → 
      exec (.quote init ch) s = .next (State.settle (s.nymQueued (s.nymRequest ch .quote none))))

/-- Each Nymvis service ends with its own result and output. When the request at the head of the queue passed its checks, its end carries out the service: digests, keys, images, counters, nonces and quotes are computed from the buffer or the stored items, with RESULT 0 and the output words, or the RESULT that the rules give. Completes: nymRequestDone. (17_nymvis_security.md (R424, R425, R428, R430, R436 to R444, Table 17-2)) -/
def Obligations.NymvisServicesComplete : Prop :=
  (∀ (s : State) (ch : Nat) (pass : Bool) (r : NymReq) (rs : List NymReq), s.nym.queue = r :: rs → r.ch = ch → s.nym.starting = false → s.flag F.NYM_STAT_ERROR = false → r.fail = none → r.op = .getInfo → 
      exec (.nymRequestDone ch pass) s = .next (State.settle (s.nymEnd 0 [BitVec.ofNat 32 s.lcs, Config.moduleVersion, BitVec.ofNat 32 (b2n (s.flag F.NYM_STAT_APPROVED)), s.reg R.NYM_SVN]))) ∧
  (∀ (s : State) (ch : Nat) (pass : Bool) (r : NymReq) (rs : List NymReq), s.nym.queue = r :: rs → r.ch = ch → s.nym.starting = false → s.flag F.NYM_STAT_ERROR = false → r.fail = none → r.op = .selfTest → pass = true → s.fld F.NYM_TAMPER_NOW = 0 → 
      exec (.nymRequestDone ch pass) s = .next (State.settle ((((s.setFlag F.NYM_STAT_ERROR false).setFlag F.NYM_STAT_APPROVED true).nymPut { s.nym with drbg := true }).nymEnd 0 []))) ∧
  (∀ (s : State) (ch : Nat) (pass : Bool) (r : NymReq) (rs : List NymReq) (t : State) (ws : List Word), s.nym.queue = r :: rs → r.ch = ch → s.nym.starting = false → s.flag F.NYM_STAT_ERROR = false → r.fail = none → r.op = .coNonce → pass = true → s.freshWords 24 = (t, ws) → (t.nym.certKey && t.nym.rootKey) = true → 
      exec (.nymRequestDone ch pass) s = .next (State.settle ((t.nymPut { t.nym with nonce := some (ws.take 8), nonceAt := t.aon.raw, eph := some (keyFrom ((ws.drop 8).take 8), deviceSign (ws.drop 16) (ecPublic (keyFrom ((ws.drop 8).take 8)))), drbg := true }).nymEnd 0 (ws.take 8)))) ∧
  (∀ (s : State) (ch : Nat) (pass : Bool) (r : NymReq) (rs : List NymReq) (i : Nat), s.nym.queue = r :: rs → r.ch = ch → s.nym.starting = false → s.flag F.NYM_STAT_ERROR = false → r.fail = none → r.op = .authUser i → s.authPass ch i = true → 
      exec (.nymRequestDone ch pass) s = .next (State.settle ((s.nymPut { s.nym with nonce := none, auth := s.nym.auth.set ch true }).nymEnd 0 []))) ∧
  (∀ (s : State) (ch : Nat) (pass : Bool) (r : NymReq) (rs : List NymReq) (i : Nat), s.nym.queue = r :: rs → r.ch = ch → s.nym.starting = false → s.flag F.NYM_STAT_ERROR = false → r.fail = none → r.op = .authUser i → s.authPass ch i = false → 
      exec (.nymRequestDone ch pass) s = .next (State.settle ((s.nymPut { s.nym with nonce := none }).nymEnd 4 []))) ∧
  (∀ (s : State) (ch : Nat) (pass : Bool) (r : NymReq) (rs : List NymReq), s.nym.queue = r :: rs → r.ch = ch → s.nym.starting = false → s.flag F.NYM_STAT_ERROR = false → r.fail = none → r.op = .authEnd → 
      exec (.nymRequestDone ch pass) s = .next (State.settle ((s.nymPut { s.nym with auth := s.nym.auth.set ch false }).nymEnd 0 []))) ∧
  (∀ (s : State) (ch : Nat) (pass : Bool) (r : NymReq) (rs : List NymReq), s.nym.queue = r :: rs → r.ch = ch → s.nym.starting = false → s.flag F.NYM_STAT_ERROR = false → r.fail = none → r.op = .getCartouche → 
      exec (.nymRequestDone ch pass) s = .next (State.settle ((s.portWrite Init.NYM r.buf cartouche).1.nymEnd (if (s.portWrite Init.NYM r.buf cartouche).2 then 0 else 7) []))) ∧
  (∀ (s : State) (ch : Nat) (pass : Bool) (r : NymReq) (rs : List NymReq) (t : State) (l : List Byte), s.nym.queue = r :: rs → r.ch = ch → s.nym.starting = false → s.flag F.NYM_STAT_ERROR = false → r.fail = none → r.op = .hash → s.portRead Init.NYM r.buf r.len = (t, some l) → 
      exec (.nymRequestDone ch pass) s = .next (State.settle (t.nymEnd 0 (toWords (sha256 l))))) ∧
  (∀ (s : State) (ch : Nat) (pass : Bool) (r : NymReq) (rs : List NymReq) (t : State) (l : List Byte), s.nym.queue = r :: rs → r.ch = ch → s.nym.starting = false → s.flag F.NYM_STAT_ERROR = false → r.fail = none → r.op = .hmac → s.portRead Init.NYM r.buf r.len = (t, some l) → 
      exec (.nymRequestDone ch pass) s = .next (State.settle (t.nymEnd 0 (toWords (hmac256 (t.dataBytes ch 16) l))))) ∧
  (∀ (s : State) (ch : Nat) (pass : Bool) (r : NymReq) (rs : List NymReq) (t : State) (l : List Byte), s.nym.queue = r :: rs → r.ch = ch → s.nym.starting = false → s.flag F.NYM_STAT_ERROR = false → r.fail = none → r.op = .cmac → s.portRead Init.NYM r.buf r.len = (t, some l) → 
      exec (.nymRequestDone ch pass) s = .next (State.settle (t.nymEnd 0 (toWords (aesCmac (t.dataBytes ch 8) l))))) ∧
  (∀ (s : State) (ch : Nat) (pass : Bool) (r : NymReq) (rs : List NymReq) (t : State) (l : List Byte) (slot : Nat) (iv tag key : List Byte), s.nym.queue = r :: rs → r.ch = ch → s.nym.starting = false → s.flag F.NYM_STAT_ERROR = false → r.fail = none → r.op = .gcm false slot iv tag → s.portRead Init.NYM r.buf r.len = (t, some l) → s.nym.userKeys.getD slot none = some key → 
      exec (.nymRequestDone ch pass) s = .next (State.settle ((t.portWrite Init.NYM r.buf (gcmStream key iv l)).1.nymEnd (if (t.portWrite Init.NYM r.buf (gcmStream key iv l)).2 then 0 else 7) (toWords (gcmTag key iv (gcmStream key iv l)))))) ∧
  (∀ (s : State) (ch : Nat) (pass : Bool) (r : NymReq) (rs : List NymReq) (t : State) (l : List Byte) (slot : Nat) (iv tag key : List Byte), s.nym.queue = r :: rs → r.ch = ch → s.nym.starting = false → s.flag F.NYM_STAT_ERROR = false → r.fail = none → r.op = .gcm true slot iv tag → s.portRead Init.NYM r.buf r.len = (t, some l) → s.nym.userKeys.getD slot none = some key → gcmTag key iv l ≠ tag → 
      exec (.nymRequestDone ch pass) s = .next (State.settle (t.nymEnd 4 []))) ∧
  (∀ (s : State) (ch : Nat) (pass : Bool) (r : NymReq) (rs : List NymReq) (t : State) (l : List Byte), s.nym.queue = r :: rs → r.ch = ch → s.nym.starting = false → s.flag F.NYM_STAT_ERROR = false → r.fail = none → r.op = .verify → s.portRead Init.NYM r.buf r.len = (t, some l) → 
      exec (.nymRequestDone ch pass) s = .next (State.settle (t.nymEnd (if ecdsaVerify (slice l 0 64) (slice l 64 32) (slice l 96 64) then 0 else 4) []))) ∧
  (∀ (s : State) (ch : Nat) (pass : Bool) (r : NymReq) (rs : List NymReq) (k : Nat) (t : State) (ws : List Word), s.nym.queue = r :: rs → r.ch = ch → s.nym.starting = false → s.flag F.NYM_STAT_ERROR = false → r.fail = none → r.op = .random k → pass = true → k ≤ 64 → s.freshWords (ceilDiv k 4) = (t, ws) → 
      exec (.nymRequestDone ch pass) s = .next (State.settle ((t.nymPut { t.nym with drbg := true }).nymEnd 0 ws))) ∧
  (∀ (s : State) (ch : Nat) (pass : Bool) (r : NymReq) (rs : List NymReq) (t : State) (ws : List Word), s.nym.queue = r :: rs → r.ch = ch → s.nym.starting = false → s.flag F.NYM_STAT_ERROR = false → r.fail = none → r.op = .quote → s.nym.certKey = true → s.nym.rootKey = true → pass = true → s.freshWords 8 = (t, ws) → 
      exec (.nymRequestDone ch pass) s = .next (State.settle (((t.portWrite Init.NYM r.buf (t.quoteBytes r ++ deviceSign ws (t.quoteBytes r))).1.nymPut { (t.portWrite Init.NYM r.buf (t.quoteBytes r ++ deviceSign ws (t.quoteBytes r))).1.nym with quotes := (t.portWrite Init.NYM r.buf (t.quoteBytes r ++ deviceSign ws (t.quoteBytes r))).1.nym.quotes + 1 }).nymEnd (if (t.portWrite Init.NYM r.buf (t.quoteBytes r ++ deviceSign ws (t.quoteBytes r))).2 then 0 else 7) []))) ∧
  (∀ (s : State) (ch : Nat) (pass : Bool) (r : NymReq) (rs : List NymReq) (t : State) (l : List Byte) (v : Nat), s.nym.queue = r :: rs → r.ch = ch → s.nym.starting = false → s.flag F.NYM_STAT_ERROR = false → r.fail = none → r.op = .loadImage false → s.portRead Init.NYM r.buf r.len = (t, some l) → t.imgVerdict l = v → v ≠ 0 → 
      exec (.nymRequestDone ch pass) s = .next (State.settle (t.nymEnd v []))) ∧
  (∀ (s : State) (ch : Nat) (pass : Bool) (r : NymReq) (rs : List NymReq) (t : State) (l : List Byte) (v : Nat), s.nym.queue = r :: rs → r.ch = ch → s.nym.starting = false → s.flag F.NYM_STAT_ERROR = false → r.fail = none → r.op = .loadImage true → s.portRead Init.NYM r.buf r.len = (t, some l) → t.imgVerdict l = v → v ≠ 0 → 
      exec (.nymRequestDone ch pass) s = .next (State.settle (t.nymEnd v []))) ∧
  (∀ (s : State) (ch : Nat) (pass : Bool) (r : NymReq) (rs : List NymReq) (t : State) (l : List Byte), s.nym.queue = r :: rs → r.ch = ch → s.nym.starting = false → s.flag F.NYM_STAT_ERROR = false → r.fail = none → r.op = .loadImage false → s.portRead Init.NYM r.buf r.len = (t, some l) → t.imgVerdict l = 0 → 
      exec (.nymRequestDone ch pass) s = .next (State.settle (t.nymEnd 0 (toWords (sha256 ((t.nym.digests.set (imgClass l) (imgDigest l)).flatten)))))) ∧
  (∀ (s : State) (ch : Nat) (pass : Bool) (r : NymReq) (rs : List NymReq) (t : State) (l : List Byte), s.nym.queue = r :: rs → r.ch = ch → s.nym.starting = false → s.flag F.NYM_STAT_ERROR = false → r.fail = none → r.op = .loadImage true → s.portRead Init.NYM r.buf r.len = (t, some l) → t.imgVerdict l = 0 → (imgSegs l).any (fun g => decide ((t.coreGet (g.target - 1)).run ≠ .held)) = false → 
      exec (.nymRequestDone ch pass) s = .next (State.settle ((t.imgInstall l).nymEnd 0 (toWords (t.imgInstall l).measurement)))) ∧
  (∀ (s : State) (ch : Nat) (pass : Bool) (r : NymReq) (rs : List NymReq) (cls v : Nat), s.nym.queue = r :: rs → r.ch = ch → s.nym.starting = false → s.flag F.NYM_STAT_ERROR = false → r.fail = none → r.op = .advanceSvn cls → cls < 4 → v = max (getBits (s.reg R.NYM_SVN) (8 * cls) 8) (s.nym.svns.getD cls 0) → 
      exec (.nymRequestDone ch pass) s = .next (State.settle ((s.setReg R.NYM_SVN (putBits (s.reg R.NYM_SVN) (8 * cls) 8 v)).nymEnd 0 [BitVec.ofNat 32 v]))) ∧
  (∀ (s : State) (ch : Nat) (pass : Bool) (r : NymReq) (rs : List NymReq) (t : State) (l root : List Byte) (held : Option (Option (List Byte))) (key : Option (List Byte)), s.nym.queue = r :: rs → r.ch = ch → s.nym.starting = false → s.flag F.NYM_STAT_ERROR = false → r.fail = none → r.op = .osnmaKroot → s.nym.osnmaRoot = some root → s.portRead Init.NYM r.buf r.len = (t, some l) → (osnmaVerify root l).1 = held → (osnmaVerify root l).2 = key → 
      exec (.nymRequestDone ch pass) s = .next (State.settle (((held.map fun k => t.nymPut { t.nym with osnmaKey := k }).getD t).nymEnd (if key.isSome then 0 else 4) (toWords (key.getD []))))) ∧
  (∀ (s : State) (ch : Nat) (pass : Bool) (r : NymReq) (rs : List NymReq), s.nym.queue = r :: rs → r.ch = ch → s.nym.starting = false → s.flag F.NYM_STAT_ERROR = false → r.fail = none → r.op = .zeroiseSession → 
      exec (.nymRequestDone ch pass) s = .next (State.settle ((s.nymPut { s.nym with drbg := false }).nymEnd 0 []))) ∧
  (∀ (s : State) (ch : Nat) (pass : Bool) (r : NymReq) (rs : List NymReq), s.nym.queue = r :: rs → r.ch = ch → s.nym.starting = false → s.flag F.NYM_STAT_ERROR = false → r.fail = none → tests r.op = true → pass = false → 
      exec (.nymRequestDone ch pass) s = .next (State.settle (s.selfTestFail)))

/-- An authenticated owner command has its effect and consumes the nonce. With a nonce outstanding, a structure in the buffer that carries it and a signature that verifies, each owner command changes the lifecycle, the owner slots, the keys, the pair record, the grants or the policy as its row of Table 17-5 says, and ends with RESULT 0. Completes: nymRequestDone. (17_nymvis_security.md (R430, R432, R433, R440, R441, R443, Table 17-5)) -/
def Obligations.NymvisOwnerCommandsComplete : Prop :=
  (∀ (s : State) (ch : Nat) (pass : Bool) (r : NymReq) (rs : List NymReq) (c : Option CoCmd) (t : State) (l : List Byte) (h : List Byte) (req : Bool), s.nym.queue = r :: rs → r.ch = ch → s.nym.starting = false → s.flag F.NYM_STAT_ERROR = false → r.fail = none → r.op = .co c → s.nonceFresh = true → s.portRead Init.NYM r.buf r.len = (t, some l) → coParse l = some ((.takeOwnership h req)) → c = none ∨ c = some ((.takeOwnership h req)) → t.coVerdict ((.takeOwnership h req)) l = 0 → 
      exec (.nymRequestDone ch pass) s = .next (State.settle ((((t.nymPut { t.nym with owner := t.nym.owner.set 0 (some h), ownerReq := req }).setFld F.NYM_STAT_LCS 2).setFld F.NYM_STAT_OWNER_SLOT 0).coEnd.nymEnd 0 []))) ∧
  (∀ (s : State) (ch : Nat) (pass : Bool) (r : NymReq) (rs : List NymReq) (c : Option CoCmd) (t : State) (l : List Byte) (h : List Byte), s.nym.queue = r :: rs → r.ch = ch → s.nym.starting = false → s.flag F.NYM_STAT_ERROR = false → r.fail = none → r.op = .co c → s.nonceFresh = true → s.portRead Init.NYM r.buf r.len = (t, some l) → coParse l = some ((.rotateOwner h)) → c = none ∨ c = some ((.rotateOwner h)) → t.coVerdict ((.rotateOwner h)) l = 0 → 
      exec (.nymRequestDone ch pass) s = .next (State.settle (((t.nymPut { t.nym with owner := t.nym.owner.set (t.fld F.NYM_STAT_OWNER_SLOT + 1) (some h), revoked := t.nym.revoked.set (t.fld F.NYM_STAT_OWNER_SLOT) true }).setFld F.NYM_STAT_OWNER_SLOT (t.fld F.NYM_STAT_OWNER_SLOT + 1)).coEnd.nymEnd 0 []))) ∧
  (∀ (s : State) (ch : Nat) (pass : Bool) (r : NymReq) (rs : List NymReq) (c : Option CoCmd) (t : State) (l : List Byte) (k : Bool), s.nym.queue = r :: rs → r.ch = ch → s.nym.starting = false → s.flag F.NYM_STAT_ERROR = false → r.fail = none → r.op = .co c → s.nonceFresh = true → s.portRead Init.NYM r.buf r.len = (t, some l) → coParse l = some ((.rma k)) → c = none ∨ c = some ((.rma k)) → t.coVerdict ((.rma k)) l = 0 → 
      exec (.nymRequestDone ch pass) s = .next (State.settle ((((t.nymPut { t.nym with revoked := List.replicate 4 true }).zeroiseKeys).setFld F.NYM_STAT_LCS 3).coEnd.nymEnd 0 []))) ∧
  (∀ (s : State) (ch : Nat) (pass : Bool) (r : NymReq) (rs : List NymReq) (c : Option CoCmd) (t : State) (l : List Byte) (k : Bool), s.nym.queue = r :: rs → r.ch = ch → s.nym.starting = false → s.flag F.NYM_STAT_ERROR = false → r.fail = none → r.op = .co c → s.nonceFresh = true → s.portRead Init.NYM r.buf r.len = (t, some l) → coParse l = some ((.scrap k)) → c = none ∨ c = some ((.scrap k)) → t.coVerdict ((.scrap k)) l = 0 → 
      exec (.nymRequestDone ch pass) s = .next (State.settle ((((t.zeroiseKeys.nymPut { t.zeroiseKeys.nym with puf := false, certKey := false, jtagFuse := true, rootKey := false }).setFld F.NYM_STAT_LCS 4).setFlag F.NYM_STAT_DEBUG false).coEnd.nymEnd 0 []))) ∧
  (∀ (s : State) (ch : Nat) (pass : Bool) (r : NymReq) (rs : List NymReq) (c : Option CoCmd) (t : State) (l : List Byte), s.nym.queue = r :: rs → r.ch = ch → s.nym.starting = false → s.flag F.NYM_STAT_ERROR = false → r.fail = none → r.op = .co c → s.nonceFresh = true → s.portRead Init.NYM r.buf r.len = (t, some l) → coParse l = some .debugGrant → c = none ∨ c = some .debugGrant → t.coVerdict .debugGrant l = 0 → 
      exec (.nymRequestDone ch pass) s = .next (State.settle ((t.setFlag F.NYM_STAT_DEBUG true).coEnd.nymEnd 0 []))) ∧
  (∀ (s : State) (ch : Nat) (pass : Bool) (r : NymReq) (rs : List NymReq) (c : Option CoCmd) (t : State) (l : List Byte) (i : Nat) (e w k : List Byte), s.nym.queue = r :: rs → r.ch = ch → s.nym.starting = false → s.flag F.NYM_STAT_ERROR = false → r.fail = none → r.op = .co c → s.nonceFresh = true → s.portRead Init.NYM r.buf r.len = (t, some l) → coParse l = some ((.userKey i e w)) → c = none ∨ c = some ((.userKey i e w)) → t.coVerdict ((.userKey i e w)) l = 0 → i < 4 → t.nym.rootKey = true → t.keyOpen e w = some k → 
      exec (.nymRequestDone ch pass) s = .next (State.settle (((t.nymPut { t.nym with userKeys := t.nym.userKeys.set i (some k), store := { t.nym.store with user := t.nym.store.user.set i (some k) } })).coEnd.nymEnd 0 []))) ∧
  (∀ (s : State) (ch : Nat) (pass : Bool) (r : NymReq) (rs : List NymReq) (c : Option CoCmd) (t : State) (l : List Byte) (i kid spp : Nat) (e w k : List Byte), s.nym.queue = r :: rs → r.ch = ch → s.nym.starting = false → s.flag F.NYM_STAT_ERROR = false → r.fail = none → r.op = .co c → s.nonceFresh = true → s.portRead Init.NYM r.buf r.len = (t, some l) → coParse l = some ((.ptpKey i e w kid spp)) → c = none ∨ c = some ((.ptpKey i e w kid spp)) → t.coVerdict ((.ptpKey i e w kid spp)) l = 0 → i < 16 → t.nym.rootKey = true → t.keyOpen e w = some k → 
      exec (.nymRequestDone ch pass) s = .next (State.settle (((t.nymPut { t.nym with ptpKeys := t.nym.ptpKeys.set i (some ⟨k, kid, spp⟩), store := { t.nym.store with ptp := t.nym.store.ptp.set i (some ⟨k, kid, spp⟩) } }).keyInstall i (some ⟨k, kid, spp⟩)).coEnd.nymEnd 0 []))) ∧
  (∀ (s : State) (ch : Nat) (pass : Bool) (r : NymReq) (rs : List NymReq) (c : Option CoCmd) (t : State) (l : List Byte), s.nym.queue = r :: rs → r.ch = ch → s.nym.starting = false → s.flag F.NYM_STAT_ERROR = false → r.fail = none → r.op = .co c → s.nonceFresh = true → s.portRead Init.NYM r.buf r.len = (t, some l) → coParse l = some .zeroise → c = none ∨ c = some .zeroise → t.coVerdict .zeroise l = 0 → 
      exec (.nymRequestDone ch pass) s = .next (State.settle ((t.zeroiseKeys).coEnd.nymEnd 0 []))) ∧
  (∀ (s : State) (ch : Nat) (pass : Bool) (r : NymReq) (rs : List NymReq) (c : Option CoCmd) (t : State) (l : List Byte) (v : Nat) (a b clk : List Byte), s.nym.queue = r :: rs → r.ch = ch → s.nym.starting = false → s.flag F.NYM_STAT_ERROR = false → r.fail = none → r.op = .co c → s.nonceFresh = true → s.portRead Init.NYM r.buf r.len = (t, some l) → coParse l = some ((.pairBind v a b clk)) → c = none ∨ c = some ((.pairBind v a b clk)) → t.coVerdict ((.pairBind v a b clk)) l = 0 → t.nym.pairRec = none → 
      exec (.nymRequestDone ch pass) s = .next (State.settle (((t.nymPut { t.nym with pairRec := some ⟨v, a, b, clk⟩ })).coEnd.nymEnd 0 []))) ∧
  (∀ (s : State) (ch : Nat) (pass : Bool) (r : NymReq) (rs : List NymReq) (c : Option CoCmd) (t : State) (l : List Byte), s.nym.queue = r :: rs → r.ch = ch → s.nym.starting = false → s.flag F.NYM_STAT_ERROR = false → r.fail = none → r.op = .co c → s.nonceFresh = true → s.portRead Init.NYM r.buf r.len = (t, some l) → coParse l = some .serviceGrant → c = none ∨ c = some .serviceGrant → t.coVerdict .serviceGrant l = 0 → 
      exec (.nymRequestDone ch pass) s = .next (State.settle ((t.setFlag F.NYM_STAT_SVC_GRANT true).coEnd.nymEnd 0 []))) ∧
  (∀ (s : State) (ch : Nat) (pass : Bool) (r : NymReq) (rs : List NymReq) (c : Option CoCmd) (t : State) (l : List Byte) (h : List Byte), s.nym.queue = r :: rs → r.ch = ch → s.nym.starting = false → s.flag F.NYM_STAT_ERROR = false → r.fail = none → r.op = .co c → s.nonceFresh = true → s.portRead Init.NYM r.buf r.len = (t, some l) → coParse l = some ((.osnmaRoot h)) → c = none ∨ c = some ((.osnmaRoot h)) → t.coVerdict ((.osnmaRoot h)) l = 0 → 
      exec (.nymRequestDone ch pass) s = .next (State.settle (((t.nymPut { t.nym with osnmaRoot := some h })).coEnd.nymEnd 0 []))) ∧
  (∀ (s : State) (ch : Nat) (pass : Bool) (r : NymReq) (rs : List NymReq) (c : Option CoCmd) (t : State) (l : List Byte) (req : Bool), s.nym.queue = r :: rs → r.ch = ch → s.nym.starting = false → s.flag F.NYM_STAT_ERROR = false → r.fail = none → r.op = .co c → s.nonceFresh = true → s.portRead Init.NYM r.buf r.len = (t, some l) → coParse l = some ((.setPolicy req)) → c = none ∨ c = some ((.setPolicy req)) → t.coVerdict ((.setPolicy req)) l = 0 → 
      exec (.nymRequestDone ch pass) s = .next (State.settle (((t.nymPut { t.nym with ownerReq := req })).coEnd.nymEnd 0 [])))

/-- Boot, tamper, time-out and watchdog events of Nymvis complete. Passed self-tests approve the module and begin the bundle fetch; the host bundle is taken back for verification; a rejected bundle fails the boot; a tripped sensor zeroises and enters the error state, and its end clears its bit; an idle channel loses its authentication; a watchdog expiry restarts NYC in the error state, and a second one warm-resets the device. Completes: authTimeout, tamperTrip, tamperConditionCleared, hostBundleReady, bundleVerified, powerOnSelfTestsDone, nymWdtExpiry. (17_nymvis_security.md (R423, R428, R429, R434, R436, R445, R446)) -/
def Obligations.NymvisEventsComplete : Prop :=
  (∀ (s : State) (ch : Nat), (s.nym.queue.any fun r => decide (r.ch = ch)) = false → 300 * 32768 ≤ s.rawSince (s.nym.reqAt.getD ch 0) → 
      exec (.authTimeout ch) s = .next (State.settle (s.nymPut { s.nym with auth := s.nym.auth.set ch false }))) ∧
  (∀ (s : State) (k : Nat), k < 2 → 
      exec (.tamperTrip k) s = .next (State.settle (((((((s.setFld F.NYM_TAMPER_NOW (setBit (s.fld F.NYM_TAMPER_NOW) k true)).setFld F.NYM_TAMPER_SEEN (setBit (s.fld F.NYM_TAMPER_SEEN) k true)).satFld F.NYM_TAMPER_COUNT 1).sticky P.NYM 10).irq P.NYM 2).zeroiseRam).nymError))) ∧
  (∀ (s : State), 
      exec (.tamperTrip 2) s = .next (State.settle ((((((((s.setFld F.NYM_TAMPER_NOW (setBit (s.fld F.NYM_TAMPER_NOW) 2 true)).setFld F.NYM_TAMPER_SEEN (setBit (s.fld F.NYM_TAMPER_SEEN) 2 true)).satFld F.NYM_TAMPER_COUNT 1).sticky P.NYM 10).irq P.NYM 2).zeroiseRam).nymError.setFlag F.RTC_STAT_SUSPECT true).sticky P.RTC 8))) ∧
  (∀ (s : State) (k : Nat), k < 3 → 
      exec (.tamperConditionCleared k) s = .next (State.settle (s.setFld F.NYM_TAMPER_NOW (setBit (s.fld F.NYM_TAMPER_NOW) k false)))) ∧
  (∀ (s : State), s.fld F.NYM_STAT_BOOT = 2 → s.sramValue (sramBase + 22 * bankSize - 4) 4 = 0x424F4F54 → 
      exec (.hostBundleReady) s = .next (State.settle ([18, 19, 20, 21].foldl (fun (t : State) b => t.nymHand b Init.NYM) (s.setFld F.NYM_STAT_BOOT 3)))) ∧
  (∀ (s : State) (a b : List Byte) (ks : Bool), s.flag F.NYM_STAT_ERROR = false → s.fld F.NYM_STAT_BOOT = 1 → a ≠ [] → s.bundleOk a = false → s.bundleOk b = false → 
      exec (.bundleVerified a b ks) s = .next (State.settle ([18, 19, 20, 21].foldl (fun (t : State) b => t.nymHand b Init.HOST) ((s.sticky P.NYM 11).setFld F.NYM_STAT_BOOT 2)))) ∧
  (∀ (s : State) (pass : Bool), s.nym.starting = true → pass = true → s.flag F.NYM_STAT_ERROR = false → s.fld F.NYM_STAT_BOOT = 0 → 
      exec (.powerOnSelfTestsDone pass) s = .next (State.settle (((s.nymPut { s.nym with starting := false, rootKey := s.nym.puf, drbg := true }).setFlag F.NYM_STAT_APPROVED true).setFld F.NYM_STAT_BOOT 1))) ∧
  (∀ (s : State) (pass : Bool), s.nym.starting = true → pass = false → 
      exec (.powerOnSelfTestsDone pass) s = .next (State.settle ((s.nymPut { s.nym with starting := false, rootKey := false, drbg := false }).selfTestFail))) ∧
  (∀ (s : State) (edges : Nat) (t0 : Nat) (t : State), t = s.aonRun edges → t.nym.expiryAt = some t0 → t.rawSince t0 < 32768 → 
      exec (.nymWdtExpiry edges) s = .next (State.settle ((({ t with nym := { t.nym with expiryAt := some t.aon.raw } } : State).sticky P.NYM 13).warmReset 4))) ∧
  (∀ (s : State) (edges : Nat) (t : State), t = s.aonRun edges → t.nym.expiryAt = none → 
      exec (.nymWdtExpiry edges) s = .next (State.settle (((({ t with nym := { t.nym with expiryAt := some t.aon.raw } } : State).nymError.sticky P.NYM 13).nymPut { (({ t with nym := { t.nym with expiryAt := some t.aon.raw } } : State).nymError.sticky P.NYM 13).nym with starting := true, rootKey := false }).nycStart))) ∧
  (∀ (s : State) (edges : Nat) (t0 : Nat) (t : State), t = s.aonRun edges → t.nym.expiryAt = some t0 → 32768 ≤ t.rawSince t0 → 
      exec (.nymWdtExpiry edges) s = .next (State.settle (((({ t with nym := { t.nym with expiryAt := some t.aon.raw } } : State).nymError.sticky P.NYM 13).nymPut { (({ t with nym := { t.nym with expiryAt := some t.aon.raw } } : State).nymError.sticky P.NYM 13).nym with starting := true, rootKey := false }).nycStart)))

/-- Power-state requests and the phases of entry and exit complete. A request is carried out in RUN or IDLE, held while a sequence runs, or abandons an entry that has not reached isolation for a lighter state; each phase ends under its own condition; wake events abandon an entry, are kept until the power-down, or start the exit. Completes: powerReqRun, powerReqIdle, powerReqSleep, powerReqDeep, powerReqOff, retentionSave, idleEnter, idleExit, quiesceDone, quiesceTimeout, tbuSnapshot, saveDone, isolate, powerDownDone, wakePin, wakeTimerExpiry, exitWakeDone, exitRestore. (18_power_clocks.md (requests, IDLE, entry, exit and wake events, R451 to R458)) -/
def Obligations.PowerCommandsComplete : Prop :=
  (∀ (s : State) (init : Nat), s.admits init R.PMU_REQ = true → s.inSequence = false → s.pmuState ≠ 0 → 
      exec (.powerReqRun init) s = .next (State.settle (((s.respond .served).setFld F.PMU_STAT_STATE 0).pmuPut { s.pmu with idleDomains := [] }))) ∧
  (∀ (s : State) (init : Nat), s.admits init R.PMU_REQ = true → s.inSequence = false → s.pmuState ≠ 1 → 
      exec (.powerReqIdle init) s = .next (State.settle ((s.respond .served).setFld F.PMU_STAT_STATE 1))) ∧
  (∀ (s : State) (init : Nat), s.admits init R.PMU_REQ = true → s.inSequence = false → s.pmuState ≠ 2 → 
      exec (.powerReqSleep init) s = .next (State.settle ((s.respond .served).entryStart 2))) ∧
  (∀ (s : State) (init : Nat), s.admits init R.PMU_REQ = true → s.inSequence = false → s.pmuState ≠ 3 → 
      exec (.powerReqDeep init) s = .next (State.settle ((s.respond .served).entryStart 3))) ∧
  (∀ (s : State) (init : Nat), s.admits init R.PMU_REQ = true → s.inSequence = false → s.pmuState ≠ 4 → 
      exec (.powerReqOff init) s = .next (State.settle ((s.respond .served).entryStart 4))) ∧
  (∀ (s : State) (init : Nat), s.admits init R.PMU_REQ = true → s.pmuState = 6 → 
      exec (.powerReqSleep init) s = .next (State.settle (((s.respond .served).setFld F.PMU_STAT_PEND 2).setFlag F.PMU_STAT_PEND_V true))) ∧
  (∀ (s : State) (init : Nat), s.admits init R.PMU_REQ = true → s.inSequence = false → 
      exec (.retentionSave init) s = .next (State.settle ((s.respond .served).retSave 3))) ∧
  (∀ (s : State), s.pmuState = 1 → s.allWait = true → s.pmu.idleDomains = [] → 
      exec (.idleEnter) s = .next (State.settle (s.pmuPut { s.pmu with idleDomains := State.derived.filter fun d => s.regBit R.PMU_CFG d && d ≠ 5 && d ≠ 8 && d ≠ 9 }))) ∧
  (∀ (s : State) (c : Nat), s.pmu.idleDomains ≠ [] → c < 12 → (s.coreGet c).run ≠ .held → s.waitOver c = true → 
      exec (.idleExit) s = .next (State.settle ((s.pmuPut { s.pmu with idleDomains := [] }).setFld F.PMU_STAT_WAKE_SRC 4))) ∧
  (∀ (s : State), s.pmuState = 5 → s.pmuPhase = 1 → s.allWait = true → s.allDrained = true → s.pmu.opp = .idle → 
      exec (.quiesceDone) s = .next (State.settle (s.setFld F.PMU_STAT_PHASE 2))) ∧
  (∀ (s : State), s.pmuState = 5 → s.pmuPhase = 1 → 
      exec (.quiesceTimeout) s = .next (State.settle ((s.sticky P.PMU 8).entryAbort 3))) ∧
  (∀ (s : State) (edges : Nat), s.pmuState = 5 → s.pmuPhase = 2 → 0 < edges → (s.aonRun edges).pmuState = 5 → (s.aonRun edges).pmuPhase = 2 → (s.aonRun edges).loaded = true → (s.aonRun edges).pmuTarget ≤ 3 → 
      exec (.tbuSnapshot edges) s = .next (State.settle ((({ s.aonRun edges with tbu := { (s.aonRun edges).tbu with snapT := (s.aonRun edges).nowFrac, snapC := (s.aonRun edges).aon.raw, snapRate := unsigned 40 (s.aonRun edges).tbuRate } } : State).pmuPut { (s.aonRun edges).pmu with snapshot := true }).setFld F.PMU_STAT_PHASE 3))) ∧
  (∀ (s : State), s.pmuState = 5 → s.pmuPhase = 4 - 1 → s.pmuTarget = 2 → 
      exec (.saveDone) s = .next (State.settle ((s.retSave 1).setFld F.PMU_STAT_PHASE 4))) ∧
  (∀ (s : State), s.pmuState = 5 → s.pmuPhase = 4 - 1 → s.pmuTarget = 3 → 
      exec (.saveDone) s = .next (State.settle ((s.retSave 2).setFld F.PMU_STAT_PHASE 4))) ∧
  (∀ (s : State), s.pmuState = 5 → s.pmuPhase = 4 - 1 → s.pmuTarget = 4 → 
      exec (.saveDone) s = .next (State.settle (s.setFld F.PMU_STAT_PHASE 4))) ∧
  (∀ (s : State) (arm : Bool) (s0 s1 s2 : State), s.pmuState = 5 → s.pmuPhase = 4 → s0 = (if s.pmuTarget ≤ 3 then (s.retNat 6 s.mode).retSeal else s) → arm = (s0.flag F.PMU_CFG_WTIMER && s0.flag F.PMU_WSHAD0_VALID && s0.loaded && decide (s0.pmuTarget ≤ 3) && s0.pmu.snapshot) → s1 = s0.padsHold.pmuPut { s0.pmu with isolated := true, poweredDown := true, wakeCmp := if arm then some s0.wakeCount else none } → s2 = s1.cmonPut { Cmon.reset with iroFailed := s1.cmon.iroFailed } → 
      exec (.isolate) s = .next (State.settle ((((s2.hwSafe 3).calClamp.tbuStop.engCommand none).procCommand (if s0.pmuTarget = 2 then some 600 else none)).setFld F.PMU_STAT_PHASE 5))) ∧
  (∀ (s : State) (s0 s1 s2 : State), s.pmuState = 5 → s.pmuPhase = 5 → s.pmu.engBusy = false → s.pmu.procBusy = false → s.pmuTarget = 4 → s0 = (s.setFlag (F.STAT_RUNNING P.ANT) false).antApply → s1 = (s0.lockChange false).setFlag F.CLK_ROOTSTAT_HOLD false → s2 = (s1.sourcesStop false).pmuPut { s1.pmu with power := .off, engAck := none, wakeCmp := none } → s2.pmu.wakeAfterIso = none → s2.flag F.PMU_STAT_PEND_V = false → 
      exec (.powerDownDone) s = .next (State.settle (s2))) ∧
  (∀ (s : State), s.flag F.PMU_CFG_WAKE_EN = true → s.beforeIso = true → 
      exec (.wakePin) s = .next (State.settle (s.entryAbort 2))) ∧
  (∀ (s : State), s.flag F.PMU_CFG_WAKE_EN = true → s.pmuState = 5 → s.beforeIso = false → s.pmu.power ≠ .run → 
      exec (.wakePin) s = .next (State.settle (s.exitStart 2))) ∧
  (∀ (s : State) (edges n : Nat), (s.aonRun edges).pmu.wakeCmp = some n → n ≤ (s.aonRun edges).aon.raw → 
      exec (.wakeTimerExpiry edges) s = .next (State.settle (((s.aonRun edges).pmuPut { (s.aonRun edges).pmu with wakeCmp := none }).wakeEvent 3))) ∧
  (∀ (s : State) (procAck engAck : Bool), s.pmuState = 6 → s.pmuPhase = 6 → procAck = true → engAck = true → 
      exec (.exitWakeDone procAck engAck) s = .next (State.settle ((s.pmuPut { s.pmu with engHold := !decide (s.pmu.power = .sleep), engAck := if s.pmu.power = .sleep then s.pmu.engCmd else none, procAck := s.pmu.procCmd }).setFld F.PMU_STAT_PHASE 7))) ∧
  (∀ (s : State) (upset : Option (Nat × Nat)) (t : State), s.pmuState = 6 → s.pmuPhase = 7 → s.pmu.power = .sleep → t = (s.wakeClear true).retUpset upset → t.retValid = true → 
      exec (.exitRestore upset) s = .next (State.settle ((t.retRestore.setFlag F.PMU_RETSTAT_CRC_BAD false).exitEnd true)))

/-- Operating-point changes and regulator transactions complete. A change to a lower point announces itself to Carillon and a change to a higher one raises the voltage first; each step ends under its own condition; acknowledgements, time-outs and alerts of the regulators have their effects; a direct divider change applies at the boundary. Completes: oppChange, oppAnnounce, oppClearTimeout, pmbusTransactionDone, pmbusAck, pmbusAckTimeout, dvfsSettleDone, pmbAlert, procvWrite, dividerApply. (18_power_clocks.md (R450, R459 to R461); 09_channel_scheduler.md (CHS_OPP, R239)) -/
def Obligations.RegulatorAndOperatingPointCommandsComplete : Prop :=
  (∀ (s : State) (init k : Nat), s.admits init R.PMU_OPP = true → k < 3 → s.pmu.opp = .idle → s.inSequence = false → 
      exec (.oppChange init k) s = .next (State.settle (((s.respond .served).setFld F.PMU_OPP_TARGET k).oppStart k))) ∧
  (∀ (s : State), s.pmu.opp = .waitClear → s.flag F.CHS_OPP_REQ = false → 
      exec (.oppAnnounce) s = .next (State.settle (s.oppAnnounce s.pmu.oppNext))) ∧
  (∀ (s : State), s.pmu.opp = .waitClear → s.flag F.CHS_OPP_CLEAR = false → 
      exec (.oppClearTimeout) s = .next (State.settle ((s.sticky P.CHS 15).pmuPut { s.pmu with opp := .divDown }))) ∧
  (∀ (s : State) (eng : Bool) (data : Nat), eng = true → 
      exec (.pmbusTransactionDone eng data) s = .next (State.settle (s.pmuPut { s.pmu with engBusy := false, engMode := if (s.pmu.pmbSent.any fun t => decide (t.cmd = .voutMode)) then some (data % 256) else s.pmu.engMode }))) ∧
  (∀ (s : State) (eng : Bool) (data : Nat), eng = false → 
      exec (.pmbusTransactionDone eng data) s = .next (State.settle (s.pmuPut { s.pmu with procBusy := false, procMode := if (s.pmu.pmbSent.any fun t => decide (t.cmd = .voutMode)) then some (data % 256) else s.pmu.procMode }))) ∧
  (∀ (s : State) (eng : Bool) (mv v : Nat) (t : State), eng = true → t = s.pmuPut { s.pmu with pmbSent := [s.pmbTx true .readVout] } → s.pmu.engCmd = some v → mv ≤ v + 10 → v ≤ mv + 10 → s.pmu.opp = .waitAckUp → 
      exec (.pmbusAck eng mv) s = .next (State.settle (t.pmuPut { t.pmu with engAck := some v, engAwait := false, engHold := false, opp := .settle }))) ∧
  (∀ (s : State) (eng : Bool) (mv v : Nat) (t : State), eng = false → t = s.pmuPut { s.pmu with pmbSent := [s.pmbTx false .readVout] } → s.pmu.procCmd = some v → mv ≤ v + 10 → v ≤ mv + 10 → 
      exec (.pmbusAck eng mv) s = .next (State.settle (t.pmuPut { t.pmu with procAck := some v, procAwait := false }))) ∧
  (∀ (s : State) (eng : Bool), eng = true → s.pmu.engAwait = true → s.pmu.opp = .waitAckUp → 
      exec (.pmbusAckTimeout eng) s = .next (State.settle ((((s.sticky P.PMU 9).pmuPut { s.pmu with engAwait := false }).setFlag F.PMU_OPP_FAILED true).oppEnd))) ∧
  (∀ (s : State) (eng : Bool), eng = false → s.pmu.procAwait = true → 
      exec (.pmbusAckTimeout eng) s = .next (State.settle ((s.sticky P.PMU 9).pmuPut { s.pmu with procAwait := false }))) ∧
  (∀ (s : State), s.pmu.opp = .settle → 
      exec (.dvfsSettleDone) s = .next (State.settle (s.pmuPut { s.pmu with opp := .divUp }))) ∧
  (∀ (s : State) (low : Bool) (status : Nat) (proc : Bool), low = true → 
      exec (.pmbAlert low status proc) s = .next (State.settle (((((s.pmuPut { s.pmu with alertN := false, pmbSent := [s.pmbTx (!proc) .statusWord] }).setFlag F.PMU_PMBSTAT_ALERT true).setFld F.PMU_PMBSTAT_STATUS_WORD status).setFlag F.PMU_PMBSTAT_SOURCE proc).sticky P.PMU 10))) ∧
  (∀ (s : State) (init w : Nat), s.admits init R.PMU_PROCV = true → 
      exec (.procvWrite init w) s = .next (State.settle (((s.respond .served).setFld F.PMU_PROCV_MV (clampNat 600 850 (getBits (BitVec.ofNat 32 w) 0 10))).procCommand (some (clampNat 600 850 (getBits (BitVec.ofNat 32 w) 0 10)))))) ∧
  (∀ (s : State), s.clk.divNext = none → s.pmu.opp = .divUp → 
      exec (.dividerApply) s = .next (State.settle ((((s.divSet s.pmu.oppNext s.pmu.oppNext).setFld F.PMU_OPP_CUR s.pmu.oppNext).chsShow).oppEnd))) ∧
  (∀ (s : State) (c a : Nat), s.pmu.opp = .idle → s.clk.divNext = some (c, a) → 
      exec (.dividerApply) s = .next (State.settle (s.divSet c a)))

/-- Root PLL, domain and clock-monitor commands complete. The PLL locks on a stable reference and loses lock with the policy of monitor 4; the reference counts set their stable flags; CLK_RUN and CLK_SRC act on their domains; a switch restarts its domain or is forced; a measurement is stored and judged; IRO becomes ready. Completes: pllLock, xoStable, refinStable, domainRunWrite, domainSwitch, switchRestart, switchForced, monitorMeasure, rootLockLost, iroReady. (18_power_clocks.md (R463 to R470)) -/
def Obligations.ClockCommandsComplete : Prop :=
  (∀ (s : State) (ref : Nat), s.clk.pllOn = true → s.flag F.CLK_ROOTSTAT_LOCK = false → ref = s.clk.refWait.getD (s.fld F.CLK_ROOTSTAT_REF) → s.refStable ref = true → s.holdsForReturn = false → (s.monGet 4).tripped = false → 
      exec (.pllLock) s = .next (State.settle (((((s.setFld F.CLK_ROOTSTAT_REF ref).setFlag F.CLK_ROOTSTAT_HOLD false).clkPut { s.clk with refWait := none, everLocked := true }).lockChange true).clockChanged))) ∧
  (∀ (s : State), 20 ≤ s.cmon.xoCount → s.flag F.CLK_ROOTSTAT_XO_STABLE = false → 
      exec (.xoStable) s = .next (State.settle ((s.setFlag F.CLK_ROOTSTAT_XO_STABLE true).irq P.CLK 2))) ∧
  (∀ (s : State), 10 ≤ s.cmon.refCount → s.flag F.CLK_ROOTSTAT_REFIN_STABLE = false → 
      exec (.refinStable) s = .next (State.settle (s.setFlag F.CLK_ROOTSTAT_REFIN_STABLE true))) ∧
  (∀ (s : State) (init w : Nat), s.admits init R.CLK_RUN = true → 
      exec (.domainRunWrite init w) s = .next (State.settle ((derived.foldl (fun (t : State) d => if bit w d = t.regBit R.CLK_RUN d then t else if bit w d = false then ((t.setRegBit R.CLK_RUN d false).setRegBit R.CLK_STAT d false).clkPut { t.clk with switching := t.clk.switching.filter fun e => decide (e.1 ≠ d), stopped := t.clk.stopped.filter fun e => decide (e ≠ d) } else if t.onIro d = false ∧ t.flag F.CLK_ROOTSTAT_LOCK = false then t.stickyAt P.CLK 9 (offOf R.CLK_RUN) true init 0 else if t.onIro d = false ∧ (d = 3 ∨ d = 4) ∧ t.pmu.engHold = true then t else if t.railFor d = false then t else t.setRegBit R.CLK_RUN d true) (s.respond .served)).clockChanged))) ∧
  (∀ (s : State) (init w : Nat), s.admits init R.CLK_SRC = true → 
      exec (.domainSwitch init w) s = .next (State.settle ((derived.foldl (fun (t : State) d => if bit w d = t.onIro d then t else if t.regBit R.CLK_STAT d = true then t.stickyAt P.CLK 10 (offOf R.CLK_SRC) true init 0 else if bit w d = false ∧ t.flag F.CLK_ROOTSTAT_LOCK = false then t.stickyAt P.CLK 9 (offOf R.CLK_SRC) true init 0 else if bit w d = false ∧ (d = 3 ∨ d = 4) ∧ t.pmu.engHold = true then t else t.switchStart d (bit w d)) (s.respond .served)).clockChanged))) ∧
  (∀ (s : State) (d iro : Nat), d ≠ 5 → d ≠ 2 → iro ≠ 2 → s.clk.switching.find? (fun e => decide (e.1 = d)) = some (d, iro) → s.newSourceRuns iro = true → 
      exec (.switchRestart d) s = .next (State.settle (((((s.clkPut { s.clk with switching := s.clk.switching.filter fun e => decide (e.1 ≠ d) }).setRegBit R.CLK_STAT d false).irq P.CLK 1)).clockChanged))) ∧
  (∀ (s : State) (d iro : Nat), d ≠ 5 → s.clk.switching.find? (fun e => decide (e.1 = d)) = some (d, iro) → s.newSourceRuns iro = true → 
      exec (.switchForced d) s = .next (State.settle ((s.setRegBit R.CLK_STAT (16 + d) true).sticky P.CLK 11))) ∧
  (∀ (s : State) (m : Nat) (dev : Int), m < 6 → 2 ≤ m → m ≠ 4 → s.pmu.isolated = false → s.policy m ≠ 0 → (s.setFldI (F.CMON_MEAS_DEV m) dev).armed m = false → 
      exec (.monitorMeasure m dev) s = .next (State.settle (s.setFldI (F.CMON_MEAS_DEV m) dev))) ∧
  (∀ (s : State), s.clk.pllOn = true → s.flag F.CLK_ROOTSTAT_LOCK = true → s.flag F.CLK_ROOTSTAT_HOLD = false → (s.lockChange false).armed 4 = false → 
      exec (.rootLockLost) s = .next (State.settle ((s.lockChange false).clockChanged))) ∧
  (∀ (s : State), (s.cmon.mon.any fun m => m.fallback) = false → 
      exec (.iroReady) s = .next (State.settle ((((s.setFlag F.CMON_STAT_IRO_READY true).setFlag F.CLK_ROOTSTAT_IRO_READY true).safeWaitShow).clockChanged)))

/-- Device resets and the commands of Tocsin complete. Power-on reset and RESET_N are asserted and released; a fault entry is logged by class and a FAULT raises NMI; the acknowledge key ends NMI or raises it again; window and escalation timers expire; RELEASE and PLANE_RESET act during an escalation; a plane reset ends; a pop removes the oldest log entry. Completes: powerOnReset, resetN, resetNRelease, faultEntry, tocNmiack, windowExpiry, release, planeReset, planeDone, escalationTimeout, tocLogpop. (18_power_clocks.md (R449, R472, R473); 21_faults.md (R513 to R521)) -/
def Obligations.ResetAndTocsinCommandsComplete : Prop :=
  (∀ (s : State) (rails : Nat), rails % 256 &&& s.railsNeeded ≠ s.railsNeeded → 
      exec (.powerOnReset rails) s = .next (State.settle (((((s.deviceClear true false).pmuPut { (s.deviceClear true false).pmu with porHeld := true, deviceReset := true }).aonPut { (s.deviceClear true false).aon with powered := true }).setReg R.PMU_RAILS (BitVec.ofNat 32 (rails % 256 + (((((s.deviceClear true false).pmuPut { (s.deviceClear true false).pmu with porHeld := true, deviceReset := true }).aonPut { (s.deviceClear true false).aon with powered := true }).reg R.PMU_RAILS).toNat / 256 * 256))))))) ∧
  (∀ (s : State) (rails : Nat), rails % 256 &&& s.railsNeeded = s.railsNeeded → s.pmu.porHeld = true → 
      exec (.powerOnReset rails) s = .next (State.settle ((((s.pmuPut { s.pmu with porHeld := false, deviceReset := false }).setReg R.PMU_RAILS (BitVec.ofNat 32 (rails % 256 + (((s.pmuPut { s.pmu with porHeld := false, deviceReset := false }).reg R.PMU_RAILS).toNat / 256 * 256)))).setRegBit R.PMU_RSTCAUSE 0 true).immediate 0))) ∧
  (∀ (s : State), s.pmu.resetLow = false → s.pmu.porHeld = false → 
      exec (.resetN) s = .next (State.settle (((s.retSave 3).deviceClear false true).pmuPut { ((s.retSave 3).deviceClear false true).pmu with resetLow := true, deviceReset := true }))) ∧
  (∀ (s : State), s.pmu.resetLow = true → 
      exec (.resetNRelease) s = .next (State.settle (((s.pmuPut { s.pmu with resetLow := false, deviceReset := false }).setRegBit R.PMU_RSTCAUSE 2 true).immediate 0))) ∧
  (∀ (s : State) (b : TocBatch) (bs : List TocBatch) (e : StickyEvent), s.pmu.isolated = false → s.toc.inbox = b :: bs → b.evs = [e] → stickyClass e.page e.bit = 2 → s.flag F.TOC_STAT_NMI_ACTIVE = false → 
      exec (.faultEntry) s = .next (State.settle ((((s.tocPut { s.toc with inbox := bs }).logEntry b e 2 true false).nmiRaise).pairLine))) ∧
  (∀ (s : State) (init w : Nat), s.admits init R.TOC_NMIACK = true → w = 0xAC4B → (s.flag F.TOC_STAT_MISSED) = false → 
      exec (.tocNmiack init w) s = .next (State.settle (((s.respond .served).setFlag F.TOC_STAT_NMI_ACTIVE false).tocPut { s.toc with window := none }))) ∧
  (∀ (s : State) (n d : Nat), s.toc.window = some d → s.pmu.isolated = false → d ≤ s.aon.raw + n → ((s.aonRun n).flag F.TOC_STAT_NMI_ACTIVE) = false → 
      exec (.windowExpiry n) s = .next (State.settle ((s.aonRun n).tocPut { (s.aonRun n).toc with window := none }))) ∧
  (∀ (s : State) (init : Nat) (keep : Bool), s.admits init R.TOC_ESC = true → s.flag F.TOC_STAT_ESC = true → 
      exec (.release init keep) s = .next (State.settle ((s.respond .served).escEnd))) ∧
  (∀ (s : State) (init : Nat) (keep : Bool), s.admits init R.TOC_ESC = true → s.flag F.TOC_STAT_ESC = true → 
      exec (.planeReset init keep) s = .next (State.settle ((s.respond .served).planeStart keep))) ∧
  (∀ (s : State), s.toc.planeReset = true → 
      exec (.planeDone) s = .next (State.settle (((((s.tocPut { s.toc with planeReset := false, keepTime := false }).irq P.TOC 2).satFld F.TOC_ESCCNT_PLANE 1).setRegBit R.PMU_RSTCAUSE 5 true).escEnd))) ∧
  (∀ (s : State) (n d : Nat), s.toc.escTimer = some d → d ≤ s.aon.raw + n → 
      exec (.escalationTimeout n) s = .next (State.settle ((s.aonRun n).warmReset 3))) ∧
  (∀ (s : State) (init w : Nat), s.admits init R.TOC_LOGPOP = true → w % 2 = 1 → 
      exec (.tocLogpop init w) s = .next (State.settle ((s.respond .served).tocPut { s.toc with log := s.toc.log.drop 1 })))

/-- The commands of the always-on domain complete. AON edges bring the next second, the committed values, the load from the TBU and the trim window; the supply changes over and returns, with a brown-out reported; the battery threshold sets and clears its flag; the first-switch record and the fatal records are cleared. Completes: rtcSecond, aonCommitApply, setTbu, setTbuLoad, trimWindowStart, vmainFail, vmainValid, vbatLow, vbatRecover, aonBrownOut, firstswClear, fatalRecordClear. (19_rtc_backup.md (R479 to R490)) -/
def Obligations.AlwaysOnCommandsComplete : Prop :=
  (∀ (s : State) (n : Nat), n ≠ 0 → s.aon.brown = false → (s.aonRun (n - 1)).aon.sec = s.aon.sec → (s.aonRun (n - 1)).aonEdge.aon.sec ≠ (s.aonRun (n - 1)).aon.sec → 
      exec (.rtcSecond n) s = .next (State.settle ((s.aonRun (n - 1)).aonEdge))) ∧
  (∀ (s : State), s.aon.commit = true → s.aon.brown = false → 
      exec (.aonCommitApply) s = .next (State.settle (s.aonEdge))) ∧
  (∀ (s : State) (init : Nat), s.admits init R.RTC_CTL = true → 
      exec (.setTbu init) s = .next (State.settle ((s.respond .served).aonPut { s.aon with setTbu := true }))) ∧
  (∀ (s : State), s.aon.setTbu = true → s.aon.brown = false → 
      exec (.setTbuLoad) s = .next (State.settle (s.aonEdge))) ∧
  (∀ (s : State) (n : Nat), (s.aon.raw + n) % 33554432 = 0 → 0 < n → 
      exec (.trimWindowStart n) s = .next (State.settle (s.aonRun n))) ∧
  (∀ (s : State), s.aon.onVbat = false → s.flag F.RTC_FIRSTSW1_VALID = false → s.aon.swPend = false → 
      exec (.vmainFail) s = .next (State.settle (((s.aonPut { s.aon with onVbat := true, powered := true }).setRegBit R.PMU_RAILS 8 true).aonPut { s.aon with onVbat := true, powered := true, swPend := true }))) ∧
  (∀ (s : State), s.aon.onVbat = false → s.flag F.RTC_FIRSTSW1_VALID = true → 
      exec (.vmainFail) s = .next (State.settle (((s.aonPut { s.aon with onVbat := true, powered := true }).setRegBit R.PMU_RAILS 8 true).satFld F.AON_SWCNT_COUNT 1))) ∧
  (∀ (s : State), s.aon.brown = false → s.aon.powered = true → 
      exec (.vmainValid) s = .next (State.settle ((s.aonPut { s.aon with onVbat := false }).setRegBit R.PMU_RAILS 8 false))) ∧
  (∀ (s : State), s.aon.brown = true ∨ s.aon.powered = false → 
      exec (.vmainValid) s = .next (State.settle ((((((s.aonPut { s.aon with onVbat := false }).setRegBit R.PMU_RAILS 8 false).aonClear.setFlag F.AON_STAT_BOR true).sticky P.AON 8)).setRegBit R.PMU_RSTCAUSE 1 true))) ∧
  (∀ (s : State), s.aon.onVbat = false → s.flag F.AON_STAT_VBAT_LOW = false → 
      exec (.vbatLow) s = .next (State.settle (((s.setFlag F.AON_STAT_VBAT_LOW true).sticky P.AON 9).irq P.AON 0))) ∧
  (∀ (s : State), s.aon.onVbat = false → s.flag F.AON_STAT_VBAT_LOW = true → 
      exec (.vbatRecover) s = .next (State.settle (s.setFlag F.AON_STAT_VBAT_LOW false))) ∧
  (∀ (s : State), s.aon.onVbat = true → 
      exec (.aonBrownOut) s = .next (State.settle (s.aonPut { s.aon with brown := true }))) ∧
  (∀ (s : State) (init : Nat), s.admits init R.RTC_FIRSTSW1 = true → 
      exec (.firstswClear init) s = .next (State.settle ((((s.respond .served).setReg R.RTC_FIRSTSW0 0).setReg R.RTC_FIRSTSW1 0).setFld F.AON_SWCNT_COUNT 0))) ∧
  (∀ (s : State) (init : Nat), s.admits init R.AON_FATCTL = true → 
      exec (.fatalRecordClear init) s = .next (State.settle (((List.range 8).foldl (fun (t : State) k => (List.range 4).foldl (fun (u : State) w => u.setReg (R.AON_FAT k w) 0) t) (s.respond .served)).setReg R.AON_FATSTAT 0)))

/-- Commands and events of the DMA engine complete. START, PAUSE, RESUME, SKIP and ABORT act on a channel in the states that take them; an accepted descriptor is followed by WAIT, one that Carillon or firmware still owns by EMPTY; trigger events are held or start a burst; a burst, a pause and the completion sequence end; a failing access retries or halts. Completes: dmaStart, dmaPause, dmaResume, dmaSkip, dmaAbort, descriptorFetched, dmaTrigger, dmaTimer, dmaRequest, dmaBurstEnd, dmaPaused, dmaAccessError, dmaRetry, dmaComplete. (16_memory_dma.md (R406 to R418, Tables 16-2, 16-4, 16-5)) -/
def Obligations.DmaCommandsComplete : Prop :=
  (∀ (s : State) (init n : Nat), n < 32 → s.storesOpen init = false → s.admits init (R.CH_CTRL n) = true → s.chanState n = 0 → s.flag (F.CH_CTRL_PAUSE n) = false → 
      exec (.dmaStart init n) s = .next (State.settle (((s.respond .served).setFlag (F.CH_CTRL_PAUSE n) false).chanStart n))) ∧
  (∀ (s : State) (init n : Nat) (on : Bool), n < 32 → s.storesOpen init = false → s.admits init (R.CH_CTRL n) = true → s.chanState n = 3 → on = true → 
      exec (.dmaPause init n on) s = .next (State.settle (((s.respond .served).setFlag (F.CH_CTRL_PAUSE n) true).chanGo n 4))) ∧
  (∀ (s : State) (init n : Nat) (on : Bool), n < 32 → s.storesOpen init = false → s.admits init (R.CH_CTRL n) = true → s.chanState n = 5 → (s.chanGet n).from_ = 3 → s.enabled P.DMA = true → on = false → 
      exec (.dmaPause init n on) s = .next (State.settle (((s.respond .served).setFlag (F.CH_CTRL_PAUSE n) false).chanGo n 3))) ∧
  (∀ (s : State) (init n : Nat), n < 32 → s.storesOpen init = false → s.admits init (R.CH_CTRL n) = true → s.chanState n = 6 → s.flag (F.CH_CTRL_PAUSE n) = false → 
      exec (.dmaResume init n) s = .next (State.settle (((s.respond .served).setFlag (F.CH_CTRL_PAUSE n) false).haltLeave n))) ∧
  (∀ (s : State) (init n : Nat), n < 32 → s.storesOpen init = false → s.admits init (R.CH_CTRL n) = true → s.chanState n = 6 → s.flag (F.CH_CTRL_PAUSE n) = false → (s.chanGet n).stage = .data → 
      exec (.dmaSkip init n) s = .next (State.settle (((((s.respond .served).setFlag (F.CH_CTRL_PAUSE n) false).chanSet n { (s.chanGet n).next with skipped := true }).haltLeave n).chanShow n))) ∧
  (∀ (s : State) (init n k u : Nat), n < 32 → s.storesOpen init = false → s.admits init (R.CH_CTRL n) = true → s.chanState n = 6 → s.flag (F.CH_CTRL_PAUSE n) = false → (s.chanGet n).desc.isEmpty = false → 
      exec (.dmaAbort init n k u) s = .next (State.settle (((s.respond .served).setFlag (F.CH_CTRL_PAUSE n) false).completeEnter n 9))) ∧
  (∀ (s : State) (n : Nat) (t : State) (ws : List Word), s.dmaRuns = true → n < 32 → s.chanState n = 1 → (s.chanGet n).backoff = false → s.descRead (s.descAddr n) 16 = (t, .inl ws) → ({ DmaChan.reset with desc := ws } : DmaChan).own = true → ({ DmaChan.reset with desc := ws } : DmaChan).refused = false → 
      exec (.descriptorFetched n) s = .next (State.settle ((((t.chanSet n { DmaChan.reset with desc := ws }).setFld (F.CH_BYTES_COUNT n) 0).chanShow n).waitEnter n))) ∧
  (∀ (s : State) (n : Nat) (t : State) (ws : List Word), s.dmaRuns = true → n < 32 → s.chanState n = 1 → (s.chanGet n).backoff = false → s.descRead (s.descAddr n) 16 = (t, .inl ws) → ({ DmaChan.reset with desc := ws } : DmaChan).own = false → s.flag (F.CH_CFG_POLL n) = false → 
      exec (.descriptorFetched n) s = .next (State.settle ((((((t.chanSet n { DmaChan.reset with desc := ws }).setFld (F.CH_BYTES_COUNT n) 0).chanShow n).setFlag (F.CH_STAT_EMPTY n) true).irq P.DMA n).chanGo n 0))) ∧
  (∀ (s : State) (n : Nat), n < 32 → s.dmaRuns = true → s.fld (F.CH_TRIG_SRC n) = 1 → s.chanState n = 3 → s.flag (F.CH_STAT_PEND n) = false → 
      exec (.dmaTrigger n) s = .next (State.settle (s.setFlag (F.CH_STAT_PEND n) true))) ∧
  (∀ (s : State) (n : Nat), n < 32 → s.dmaRuns = true → s.fld (F.CH_TRIG_SRC n) = 3 → s.chanState n = 2 → 
      exec (.dmaTrigger n) s = .next (State.settle (s.waitGo n))) ∧
  (∀ (s : State) (n : Nat), n < 32 → s.dmaRuns = true → s.fld (F.CH_TRIG_SRC n) = 2 → s.chanState n = 2 → 
      exec (.dmaTimer n) s = .next (State.settle (s.waitGo n))) ∧
  (∀ (s : State) (n : Nat) (spi : Bool), n < 32 → s.dmaRuns = true → s.fld (F.CH_TRIG_SRC n) = 4 → s.chanState n = 2 → s.requestLine (s.fld (F.CH_TRIG_IDX n)) = true → s.fld (F.CH_TRIG_IDX n) < 4 → 
      exec (.dmaRequest n spi) s = .next (State.settle (s.waitGo n))) ∧
  (∀ (s : State) (n : Nat) (t : State), s.dmaRuns = true → n < 32 → s.chanState n = 3 → (s.chanGet n).backoff = false → s.dmaServe n = some t → 
      exec (.dmaBurstEnd n) s = .next (State.settle (t.burstOver n))) ∧
  (∀ (s : State) (n k : Nat) (t : State), s.dmaRuns = true → n < 32 → s.chanState n = 4 → (s.chanGet n).backoff = false → s.dataElems n k = some t → (t.chanGet n).got = [] → 
      exec (.dmaPaused n k) s = .next (State.settle (((t.chanSet n { t.chanGet n with from_ := 3 }).chanGo n 5).chanPauseStep n))) ∧
  (∀ (s : State) (n k u code : Nat) (collide : Bool) (t w : State), s.dmaRuns = true → n < 32 → s.chanState n = 3 → (s.chanGet n).backoff = false → (s.dataElems n k).bind (State.dataUnits n u) = some t → (t.chanGet n).left ≠ 0 → t.dataUnit n collide = (w, .bad code) → 
      exec (.dmaAccessError n k u collide) s = .next (State.settle (w.chanFail n .data code (t.chanGet n).nextAccess.2 (t.chanGet n).nextAccess.1))) ∧
  (∀ (s : State) (n : Nat) (collide : Bool) (t : State) (v : Nat), s.dmaRuns = true → n < 32 → (s.chanGet n).backoff = true → s.chanState n = 3 → (s.chanSet n { s.chanGet n with backoff := false }).dataUnit n collide = (t, .ok v) → 
      exec (.dmaRetry n collide) s = .next (State.settle (t))) ∧
  (∀ (s : State) (n : Nat) (t : State), s.dmaRuns = true → n < 32 → s.chanState n = 7 → (s.chanGet n).backoff = false → State.stagesRun n 3 s = some t → 
      exec (.dmaComplete n) s = .next (State.settle (t.dmaFinish n)))

/-- Commands and events of the UARTs, QSPI, MDIO, GPIO, the fetch engine and the PCI Express link complete. A good copy starts and ends; EOI rearms a vector; the link and its configuration change; UART bytes enter and leave the FIFOs, an overrun is recorded; QSPI and MDIO commands start and end; GPIO outputs are set and cleared and a selected edge is recorded. Completes: fetchStart, fetchDone, fetchTimeout, eoiWrite, pcieLinkChange, pcieConfigAccess, uartRxByte, uartTxByte, qspiCommand, qspiDone, mdioCommand, mdioDone, gpioSet, gpioClr, gpioEdge. (20_host_interface.md (R496 to R498, R501, R503 to R505)) -/
def Obligations.HostInterfaceCommandsComplete : Prop :=
  (∀ (s : State) (init w h n : Nat), s.admits init R.PCIE_FCMD = true → w = 1 → h = (s.reg R.PCIE_FHADDR0).toNat + (s.reg R.PCIE_FHADDR1).toNat * 2 ^ 32 → n = s.fld F.PCIE_FLEN_LEN → s.host.fetch = none → s.live P.PCIE = true → (((s.respond .served).setFld F.PCIE_FCMD_DIR 0)).fetchOk = true → 
      exec (.fetchStart init w) s = .next (State.settle (((((s.respond .served).setFld F.PCIE_FCMD_DIR 0).setFlag F.PCIE_FSTAT_BUSY true).setFld F.PCIE_FSTAT_RESULT 0).hostPut { s.host with fetch := some (0, (s.reg R.PCIE_FLADDR).toNat, n, h), fetchReq := tlpReads s.host.mrrs (n / s.host.mrrs + 1) h n }))) ∧
  (∀ (s : State) (data : List Byte) (a n h : Nat) (t : State), s.host.fetch = some (0, a, n, h) → s.pcieUp = true → s.flag F.PCIE_STAT_BME = true → data.length = n → s.portWrite Init.HOST a data = (t, true) → 
      exec (.fetchDone data) s = .next (State.settle ((t.fetchEnd 0).irq P.PCIE 0))) ∧
  (∀ (s : State) (data l : List Byte) (a n h : Nat) (t : State), s.host.fetch = some (1, a, n, h) → s.pcieUp = true → s.flag F.PCIE_STAT_BME = true → s.portRead Init.HOST a n = (t, some l) → 
      exec (.fetchDone data) s = .next (State.settle (((t.hostPut { t.host with fetchOut := tlpWrites s.host.mps (n / s.host.mps + 1) h l }).fetchEnd 0).irq P.PCIE 0))) ∧
  (∀ (s : State) (data : List Byte) (a n h : Nat), s.host.fetch = some (1, a, n, h) → 
      exec (.fetchTimeout data) s = .next (State.settle ((s.fetchEnd 2).sticky P.PCIE 10))) ∧
  (∀ (s : State) (data : List Byte) (a n h : Nat), s.host.fetch = some (0, a, n, h) → 
      exec (.fetchTimeout data) s = .next (State.settle (((s.portWrite Init.HOST a (data.take n)).1.fetchEnd 2).sticky P.PCIE 10))) ∧
  (∀ (s : State) (init v : Nat), s.admits init R.PCIE_EOI = true → 
      exec (.eoiWrite init v) s = .next (State.settle ((s.respond .served).hostPut { s.host with vecWait := setBit s.host.vecWait (v % 32) false }))) ∧
  (∀ (s : State) (up : Bool) (speed width : Nat), s.live P.PCIE = true → s.flag F.PCIE_STAT_LINK_UP = false → up = true → 
      exec (.pcieLinkChange up speed width) s = .next (State.settle ((((s.setFlag F.PCIE_STAT_LINK_UP true).setFld F.PCIE_STAT_SPEED (clampNat 1 3 speed)).setFld F.PCIE_STAT_WIDTH (clampNat 1 2 width)).irq P.PCIE 1))) ∧
  (∀ (s : State) (up : Bool) (speed width : Nat), s.live P.PCIE = true → s.flag F.PCIE_STAT_LINK_UP = true → up = false → 
      exec (.pcieLinkChange up speed width) s = .next (State.settle ((((((s.setFlag F.PCIE_STAT_LINK_UP false).setFld F.PCIE_STAT_SPEED 0).setFld F.PCIE_STAT_WIDTH 0).irq P.PCIE 1).sticky P.PCIE 9).hostPut { s.host with waiting := s.host.waiting.filter (·.spi) }))) ∧
  (∀ (s : State) (on : Bool), s.live P.PCIE = true → s.flag F.PCIE_STAT_LINK_UP = true → 
      exec (.pcieConfigAccess (.busMaster on)) s = .next (State.settle (s.setFlag F.PCIE_STAT_BME on))) ∧
  (∀ (s : State) (d3hot : Bool), s.live P.PCIE = true → s.flag F.PCIE_STAT_LINK_UP = true → 
      exec (.pcieConfigAccess (.power d3hot)) s = .next (State.settle (s.setFlag F.PCIE_STAT_D3HOT d3hot))) ∧
  (∀ (s : State) (en : Bool) (mask : Bool), s.live P.PCIE = true → s.flag F.PCIE_STAT_LINK_UP = true → en = true → 
      exec (.pcieConfigAccess (.msix en mask)) s = .next (State.settle (s.hostPut { s.host with msixEn := true, msixMask := mask }))) ∧
  (∀ (s : State) (u : Nat) (b : Byte), s.uartOn u = true → (s.host.uartRx.getD u []).length < 64 → 
      exec (.uartRxByte u b) s = .next (State.settle (s.hostPut { s.host with uartRx := s.host.uartRx.set u (s.host.uartRx.getD u [] ++ [b]) }))) ∧
  (∀ (s : State) (u : Nat) (b : Byte), s.uartOn u = true → 64 ≤ (s.host.uartRx.getD u []).length → 
      exec (.uartRxByte u b) s = .next (State.settle ((s.setFlag (F.UART_STAT_RXOVR u) true).sticky P.UART 8 u))) ∧
  (∀ (s : State) (u : Nat), s.uartOn u = true → 
      exec (.uartTxByte u) s = .next (State.settle (s.hostPut { s.host with uartTx := s.host.uartTx.set u ((s.host.uartTx.getD u []).drop 1) } |> State.nmeaDrain))) ∧
  (∀ (s : State) (init w : Nat), s.admits init R.QSPI_CMD = true → getBits (BitVec.ofNat 32 w) 31 1 = 1 → s.host.qspiCmd = none → s.live P.UART = true → 
      exec (.qspiCommand init w) s = .next (State.settle ((((s.respond .served).setReg R.QSPI_CMD (BitVec.ofNat 32 w &&& 0x00FFFFFF)).hostPut { s.host with qspiCmd := some (BitVec.ofNat 32 w) }).setFlag F.QSPI_STAT_BUSY true))) ∧
  (∀ (s : State) (data : List Byte) (v : Word), s.host.qspiCmd = some v → getBits v 23 1 = 1 → 
      exec (.qspiDone data) s = .next (State.settle ((s.hostPut { s.host with qspi := s.host.qspi.drop (qspiLen v), qspiCmd := none }).setFlag F.QSPI_STAT_BUSY false))) ∧
  (∀ (s : State) (data : List Byte) (v : Word), s.host.qspiCmd = some v → getBits v 23 1 = 0 → data.length = qspiLen v → 
      exec (.qspiDone data) s = .next (State.settle ((s.hostPut { s.host with qspi := (s.host.qspi ++ data).take 256, qspiCmd := none }).setFlag F.QSPI_STAT_BUSY false))) ∧
  (∀ (s : State) (init w : Nat), s.admits init R.MDIO_CMD = true → s.host.mdio = none → s.live P.UART = true → 
      exec (.mdioCommand init w) s = .next (State.settle ((((s.respond .served).setReg R.MDIO_CMD (BitVec.ofNat 32 w &&& 0xFFFF3FFF)).hostPut { s.host with mdio := some (BitVec.ofNat 32 w) }).setFlag F.MDIO_STAT_BUSY true))) ∧
  (∀ (s : State) (data : Nat) (v : Word), s.host.mdio = some v → mdioReads v = false → 
      exec (.mdioDone data) s = .next (State.settle ((s.hostPut { s.host with mdio := none }).setFlag F.MDIO_STAT_BUSY false))) ∧
  (∀ (s : State) (data : Nat) (v : Word), s.host.mdio = some v → mdioReads v = true → 
      exec (.mdioDone data) s = .next (State.settle (((s.hostPut { s.host with mdio := none }).setFlag F.MDIO_STAT_BUSY false).setFld F.MDIO_STAT_DATA data))) ∧
  (∀ (s : State) (init w : Nat), s.admits init R.GPIO_SET = true → 
      exec (.gpioSet init w) s = .next (State.settle ((s.respond .served).setReg R.GPIO_OUT (s.reg R.GPIO_OUT ||| BitVec.ofNat 32 (w % 65536)) |> State.gpioShow))) ∧
  (∀ (s : State) (init w : Nat), s.admits init R.GPIO_CLR = true → 
      exec (.gpioClr init w) s = .next (State.settle ((s.respond .served).setReg R.GPIO_OUT (s.reg R.GPIO_OUT &&& ~~~(BitVec.ofNat 32 (w % 65536))) |> State.gpioShow))) ∧
  (∀ (s : State) (n : Nat) (level held : Bool) (t : State), n < 16 → t = s.hostPut { s.host with ext := setBit s.host.ext n level } → held = true ∨ bit (s.fld F.GPIO_DEB_DEB) n = false → bit t.gpioLevel n = level → bit s.host.balls n ≠ level → s.live P.GPIO = true → bit (s.fld F.GPIO_EDGE_EDGE / 4 ^ n % 4) (if level then 0 else 1) = true → 
      exec (.gpioEdge n level held) s = .next (State.settle ((t.hostPut { t.host with balls := setBit t.host.balls n level }).irq P.GPIO n)))

/-- Accesses of the host through PCI Express and SPI, and writes of the mailbox indices, complete. An accepted BAR0 access acts on register space as HOST; a BAR2 access and an SPI frame reach their words in order; CMDPI takes effect, rings line 4 of MC and raises CMD when it stays within the ring; the other indices are stored. Completes: bar0Access, bar2Access, spiReadFrame, spiWriteFrame, cmdpiWrite, cmdciWrite, rsppiWrite, rspciWrite. (20_host_interface.md (R494, R495, R499, R500, R507, R508)) -/
def Obligations.HostAccessAndMailboxIndexCommandsComplete : Prop :=
  (∀ (s : State) (off v : Nat), s.pcieUp = true → off < 16777216 → s.admits Init.HOST (0x40000000 + off) = true → ((s.respond .served).regAct Init.HOST (0x40000000 + off) (BitVec.ofNat 32 v)).resp = .served → 
      exec (.bar0Access off 4 true v) s = .next (State.settle ((s.respond .served).regAct Init.HOST (0x40000000 + off) (BitVec.ofNat 32 v)))) ∧
  (∀ (s : State) (off v : Nat), s.pcieUp = true → off < 16777216 → s.serves Init.HOST (0x40000000 + off) = true → 
      exec (.bar0Access off 4 false v) s = .next (State.settle ((s.readDone (0x40000000 + off)).hostPut { (s.readDone (0x40000000 + off)).host with words := [some (s.readWord (0x40000000 + off))] }))) ∧
  (∀ (s : State) (off v count : Nat) (t : State), s.pcieUp = true → off % 4 = 0 → off + 4 ≤ 4194304 → 4 ≤ s.host.mps → s.bankHolds ⟨Init.HOST, true, s.bar2Addr off, 4, v % 4294967296⟩ = false → s.farWrite Init.HOST (s.bar2Addr off) 4 (v % 4294967296) = (t, .served) → 
      exec (.bar2Access off true [(15, v)] count) s = .next (State.settle (t.respond .served))) ∧
  (∀ (s : State) (off count : Nat) (words : List (Nat × Nat)) (t : State) (l : List (Option Word)), s.pcieUp = true → off % 4 = 0 → off + 4 * count ≤ 4194304 → ((List.range count).any fun k => s.bankHolds ⟨Init.HOST, false, s.bar2Addr off + 4 * k, 4, 0⟩) = false → State.hostReads s (s.bar2Addr off) count = (t, l) → l.contains none = false → 
      exec (.bar2Access off false words count) s = .next (State.settle (t.hostPut { t.host with words := l }))) ∧
  (∀ (s : State) (addr count n : Nat) (fill : List Nat) (t u : State) (l : List (Option Word)), s.spiUp = true → n = count % 64 + 1 → s.flag F.SPIT_CFG_CRC = false → t = s.spiBegin → t.readWaits ⟨true, addr % 2 ^ 32, n, true, fill⟩ = false → State.hostReads t (addr % 2 ^ 32) n = (u, l) → 
      exec (.spiReadFrame 3 addr count n fill) s = .next (State.settle (u.hostPut { u.host with words := l, spiErr := l.contains none, spiCrc := false, miso := if t.pinsForced then [] else u.host.miso ++ spiWords l fill }))) ∧
  (∀ (s : State) (addr count crc : Nat) (data : List Byte) (t u : State) (e : Bool), s.spiUp = true → s.flag F.SPIT_CFG_CRC = false → data.length = 4 * (count % 64 + 1) → t = s.spiBegin → State.hostWrites t (addr % 2 ^ 32) (toWords data) = (u, e) → 
      exec (.spiWriteFrame 2 addr count data crc) s = .next (State.settle (u.hostPut { u.host with spiErr := e, spiCrc := false }))) ∧
  (∀ (s : State) (init v : Nat), s.admits init R.MBX_CMDPI = true → s.hostWriteHeld = false → ringLen (v % 65536) (s.fld F.MBX_CMDCI_IDX) ≤ 1024 → 
      exec (.cmdpiWrite init v) s = .next (State.settle ((((s.respond .served).setFld F.MBX_CMDPI_IDX (v % 65536)).irq P.MBX 1).coreLine 10 4))) ∧
  (∀ (s : State) (init v : Nat), s.admits init R.MBX_CMDCI = true → 
      exec (.cmdciWrite init v) s = .next (State.settle ((s.respond .served).setFld F.MBX_CMDCI_IDX v))) ∧
  (∀ (s : State) (init v : Nat), s.admits init R.MBX_RSPPI = true → 
      exec (.rsppiWrite init v) s = .next (State.settle ((s.respond .served).setFld F.MBX_RSPPI_IDX v))) ∧
  (∀ (s : State) (init v : Nat), s.admits init R.MBX_RSPCI = true → 
      exec (.rspciWrite init v) s = .next (State.settle ((s.respond .served).setFld F.MBX_RSPCI_IDX v)))

/-- The mailbox commands complete with their response. While MC serves the mailbox and has a command in hand whose payload is long enough, the command has its effect and one response is written, or the next stage of its work is reached. Completes: getStatus, setMode, mbxPower, survey, setPosition, ptpSession, mbxPair, mbxQuote, fwUpdate, getLog, nmeaConfig, setGeometry, loadGraticule, ptpConfig. (20_host_interface.md (R502, R507 to R510, Table 20-4); 10_measurements_integrity.md (R265, R266); 04_calibration_injector.md (R107)) -/
def Obligations.MailboxCommandsComplete : Prop :=
  (∀ (s : State) (c : MbxCmd), s.mbxServes = true → s.host.taken = none → s.mbxTake.host.taken = some c → c.op = 1 → c.step < 1000 → 
      exec (.getStatus) s = .next (State.settle (s.mbxTake.mbxAnswer c 0 (leBytes 4 (s.mbxTake.mcRead R.SYS_MODE) ++ leBytes 4 (s.mbxTake.mcRead R.TBU_QUAL) ++ leBytes 8 (s.mbxTake.nowFrac / 65536 / 1000000000) ++ leBytes 4 (s.mbxTake.nowFrac / 65536 % 1000000000) ++ leBytes 4 (s.mbxTake.nowFrac % 65536) ++ leBytes 4 (s.mbxTake.mcRead R.TBU_UNC) ++ leBytes 4 (s.mbxTake.mcRead R.NYM_INTEG) ++ leBytes 4 (s.mbxTake.mcRead R.PMU_STAT))))) ∧
  (∀ (s : State) (c : MbxCmd), s.mbxServes = true → s.host.taken = some c → c.op = 16 → c.step < 1000 → 4 ≤ c.payload.length → c.step = 0 → 
      exec (.setMode) s = .next (State.settle (((s.mcWrites [(R.SYS_MODE, 196608), (R.SYS_MODECMD, leAt c.payload 0 4 % 8 + leAt c.payload 0 4 / 256 % 2 * 65536 + 2147483648)])).hostPut { ((s.mcWrites [(R.SYS_MODE, 196608), (R.SYS_MODECMD, leAt c.payload 0 4 % 8 + leAt c.payload 0 4 / 256 % 2 * 65536 + 2147483648)])).host with taken := some { c with step := c.step + 1 } }))) ∧
  (∀ (s : State) (c : MbxCmd), s.mbxServes = true → s.host.taken = some c → c.op = 16 → c.step < 1000 → 4 ≤ c.payload.length → c.step ≠ 0 → s.flag F.SYS_MODE_CMD_PEND = false → s.flag F.SYS_MODE_CMD_REFUSED = false → s.flag F.SYS_MODE_CMD_DROPPED = false → 
      exec (.setMode) s = .next (State.settle (s.mbxAnswer c 0 (leBytes 4 (s.mcRead R.SYS_MODE))))) ∧
  (∀ (s : State) (c : MbxCmd), s.mbxServes = true → s.host.taken = some c → c.op = 17 → c.step < 1000 → 4 ≤ c.payload.length → leAt c.payload 0 4 % 8 < 5 → 
      exec (.mbxPower) s = .next (State.settle ((s.mcWrite R.PMU_REQ (leAt c.payload 0 4 % 8 + 2147483648)).mbxAnswer c 0 (leBytes 4 ((s.mcWrite R.PMU_REQ (leAt c.payload 0 4 % 8 + 2147483648)).mcRead R.PMU_STAT))))) ∧
  (∀ (s : State) (c : MbxCmd), s.mbxServes = true → s.host.taken = some c → c.op = 32 → c.step < 1000 → 8 ≤ c.payload.length → 
      exec (.survey) s = .next (State.settle (({ (s.fwPut { s.host.fw with survey := some (leAt c.payload 0 4, leAt c.payload 4 4) }) with sys := { s.sys with survey := { s.sys.survey with complete := false } } } : State).mbxAnswer c 0 []))) ∧
  (∀ (s : State) (c : MbxCmd), s.mbxServes = true → s.host.taken = some c → c.op = 33 → c.step < 1000 → 24 ≤ c.payload.length → 
      exec (.setPosition) s = .next (State.settle (({ (s.fwPut { s.host.fw with position := some (signed 64 (leAt c.payload 0 8), signed 64 (leAt c.payload 8 8), signed 64 (leAt c.payload 16 8)) }) with sys := { s.sys with fixedPos := true } } : State).mbxAnswer c 0 []))) ∧
  (∀ (s : State) (c : MbxCmd), s.mbxServes = true → s.host.taken = some c → c.op = 65 → c.step < 1000 → 72 ≤ c.payload.length → c.step = 0 → s.flag F.PTP_SESSSTAT_BUSY = false → 
      exec (.ptpSession) s = .next (State.settle (((((List.range 16).foldl (fun (t : State) k => t.mcWrite (R.PTP_STAGE k) (leAt c.payload (8 + 4 * k) 4)) s).mcWrite R.PTP_SESSCMD (leAt c.payload 0 2 % 4096 + leAt c.payload 2 2 % 16 * 4096 + leAt c.payload 4 4 % 65536 * 65536))).hostPut { ((((List.range 16).foldl (fun (t : State) k => t.mcWrite (R.PTP_STAGE k) (leAt c.payload (8 + 4 * k) 4)) s).mcWrite R.PTP_SESSCMD (leAt c.payload 0 2 % 4096 + leAt c.payload 2 2 % 16 * 4096 + leAt c.payload 4 4 % 65536 * 65536))).host with taken := some { c with step := c.step + 1 } }))) ∧
  (∀ (s : State) (c : MbxCmd), s.mbxServes = true → s.host.taken = some c → c.op = 65 → c.step < 1000 → 72 ≤ c.payload.length → c.step ≠ 0 → s.flag F.PTP_SESSSTAT_BUSY = false → 
      exec (.ptpSession) s = .next (State.settle (s.mbxAnswer c 0 (leBytes 4 (s.mcRead R.PTP_SESSSTAT) ++ (if leAt c.payload 2 2 % 16 = 3 then wordBytes ((List.range 16).map fun k => s.reg (R.PTP_STAGE k)) else []))))) ∧
  (∀ (s : State) (c : MbxCmd), s.mbxServes = true → s.host.taken = some c → c.op = 80 → c.step < 1000 → 4 ≤ c.payload.length → 2 ≤ leAt c.payload 0 4 → leAt c.payload 0 4 ≤ 5 → 
      exec (.mbxPair) s = .next (State.settle ((s.mcWrite R.PAIR_CMD (leAt c.payload 0 4)).mbxAnswer c 0 (leBytes 4 ((s.mcWrite R.PAIR_CMD (leAt c.payload 0 4)).mcRead R.PAIR_STAT))))) ∧
  (∀ (s : State) (c : MbxCmd) (t : State), s.mbxServes = true → s.host.taken = some c → c.op = 96 → c.step < 1000 → 32 ≤ c.payload.length → c.step = 0 → s.flag (F.NYM_RSTAT_BUSY 1) = false → s.nymGive 224 = some t → 
      exec (.mbxQuote) s = .next (State.settle ((((List.range 8).foldl (fun (u : State) k => u.mcWrite (R.NYM_DATA 1 k) (leAt c.payload (4 * k) 4)) t)).hostPut { (((List.range 8).foldl (fun (u : State) k => u.mcWrite (R.NYM_DATA 1 k) (leAt c.payload (4 * k) 4)) t)).host with taken := some { c with step := c.step + 1 } }))) ∧
  (∀ (s : State) (c : MbxCmd), s.mbxServes = true → s.host.taken = some c → c.op = 96 → c.step < 1000 → 32 ≤ c.payload.length → c.step = 1 → s.flag (F.NYM_RSTAT_BUSY 1) = false → s.nymBufOf 224 Init.NYM = true → 
      exec (.mbxQuote) s = .next (State.settle ((((s.mcWrite (R.NYM_LEN 1) 224).mcWrite (R.NYM_CMD 1) 0x20)).hostPut { (((s.mcWrite (R.NYM_LEN 1) 224).mcWrite (R.NYM_CMD 1) 0x20)).host with taken := some { c with step := c.step + 1 } }))) ∧
  (∀ (s : State) (c : MbxCmd) (t : State) (l : List Byte), s.mbxServes = true → s.host.taken = some c → c.op = 96 → c.step < 1000 → 32 ≤ c.payload.length → 2 ≤ c.step → s.flag (F.NYM_RSTAT_BUSY 1) = false → s.nymBufOf 224 Init.MC = true → s.fld (F.NYM_RSTAT_RESULT 1) = 0 → s.portRead Init.MC (s.fld (F.NYM_BUF_ADDR 1)) 224 = (t, some l) → 
      exec (.mbxQuote) s = .next (State.settle (t.mbxAnswer c 0 l))) ∧
  (∀ (s : State) (c : MbxCmd), s.mbxServes = true → s.host.taken = some c → c.op = 112 → c.step < 1000 → 16 ≤ c.payload.length → c.hostmem = false → leAt c.payload 0 4 % 256 < 4 → c.step = 1 → s.flag (F.NYM_RSTAT_BUSY 1) = false → s.nymBufOf (leAt c.payload 12 4) Init.NYM = true → 
      exec (.fwUpdate) s = .next (State.settle ((((s.mcWrite (R.NYM_LEN 1) (leAt c.payload 12 4)).mcWrite (R.NYM_CMD 1) 0x130)).hostPut { (((s.mcWrite (R.NYM_LEN 1) (leAt c.payload 12 4)).mcWrite (R.NYM_CMD 1) 0x130)).host with taken := some { c with step := c.step + 1 } }))) ∧
  (∀ (s : State) (c : MbxCmd), s.mbxServes = true → s.host.taken = some c → c.op = 112 → c.step < 1000 → 16 ≤ c.payload.length → c.hostmem = false → leAt c.payload 0 4 % 256 < 4 → c.step = 2 → s.flag (F.NYM_RSTAT_BUSY 1) = false → s.nymBufOf (leAt c.payload 12 4) Init.MC = true → s.fld (F.NYM_RSTAT_RESULT 1) = 0 → bit (leAt c.payload 0 4) 8 = false → 
      exec (.fwUpdate) s = .next (State.settle (s.mbxAnswer c 0 (leBytes 4 0 ++ leBytes 4 (getBits (s.reg R.NYM_SVN) (8 * (leAt c.payload 0 4 % 256)) 8))))) ∧
  (∀ (s : State) (c : MbxCmd), s.mbxServes = true → s.host.taken = some c → c.op = 128 → c.step < 1000 → 8 ≤ c.payload.length → 
      exec (.getLog) s = .next (State.settle (s.mbxAnswer c 0 (wordBytes (((if bit (leAt c.payload 0 4) 0 then s.fatalRecords else s.toc.log).drop (leAt c.payload 4 4)).take 14).flatten)))) ∧
  (∀ (s : State) (c : MbxCmd) (t : State), s.mbxServes = true → s.host.taken = some c → c.op = 144 → c.step < 1000 → 12 ≤ c.payload.length → leAt c.payload 0 4 < 64 → leAt c.payload 4 4 < 8 → leAt c.payload 8 4 ≠ 0 → s.mcWrites [(R.UART_CFG 1, leAt c.payload 4 4 + 8), (R.PAGE_COMMIT P.UART, 0xC0DE0001)] = t → 
      exec (.nmeaConfig) s = .next (State.settle ((t.fwPut { t.host.fw with nmea := some (leAt c.payload 0 4, leAt c.payload 4 4, leAt c.payload 8 4) }).mbxAnswer c 0 []))) ∧
  (∀ (s : State) (c : MbxCmd) (band : Nat) (t u : State), s.mbxServes = true → s.host.taken = some c → c.op = 48 → c.step < 1000 → 60 ≤ c.payload.length → leAt c.payload 0 4 = band → band < 2 → t = (List.range 8).foldl (fun (t : State) e => t.mcWrites [(R.ARR_POSXY band e, leAt c.payload (4 + 6 * e) 2 + leAt c.payload (6 + 6 * e) 2 * 65536), (R.ARR_POSZ band e, leAt c.payload (8 + 6 * e) 2)]) s → u = t.mcWrite (R.ARR_CTL band) (putBits (BitVec.ofNat 32 (t.mcRead (R.ARR_CTL band))) 1 1 1).toNat → 
      exec (.setGeometry) s = .next (State.settle ((u.fwPut { u.host.fw with geometry := u.host.fw.geometry.set band (some ((List.range 24).map fun k => signed 16 (leAt c.payload (4 + 2 * k) 2), signed 32 (leAt c.payload 52 4), signed 32 (leAt c.payload 56 4))) }).mbxAnswer c 0 []))) ∧
  (∀ (s : State) (c : MbxCmd) (t v : State) (m : List Byte), s.mbxServes = true → s.host.taken = some c → c.op = 49 → c.step < 1000 → 16 ≤ c.payload.length → c.hostmem = false → sramBase + 20 * bankSize ≤ leAt c.payload 0 8 → leAt c.payload 0 8 + leAt c.payload 8 4 ≤ sramBase + 22 * bankSize → leAt c.payload 8 4 ≠ 0 → s.portRead Init.DMA (leAt c.payload 0 8) (leAt c.payload 8 4) = (t, some m) → gratForm m = true → t.gratTag m 0 = true → t.gratTag m 1 = true → v = ((t.gratWrites m 0).gratWrites m 1).fwPut { ((t.gratWrites m 0).gratWrites m 1).host.fw with graticule := some m } → 
      exec (.loadGraticule) s = .next (State.settle ((if bit (leAt c.payload 12 4) 0 then v.hostPut { v.host with flash := some m } else v).mbxAnswer c 0 []))) ∧
  (∀ (s : State) (c : MbxCmd) (t u : State), s.mbxServes = true → s.host.taken = some c → c.op = 64 → c.step < 1000 → 23 ≤ c.payload.length → beValue (slice c.payload 0 4) = s.mcRead R.PTP_CLKID1 → beValue (slice c.payload 4 4) = s.mcRead R.PTP_CLKID0 → leAt c.payload 21 1 ≤ 1 → leAt c.payload 20 1 ≤ 7 → leAt c.payload 22 1 ≤ 15 → t = s.mcWrites [(R.PTP_ANN0, leAt c.payload 8 4), (R.PTP_ANN1, leAt c.payload 12 4), (R.PTP_ANN2, leAt c.payload 16 4), (R.PTP_CFG, s.mcRead R.PTP_CFG / 16 * 16 + leAt c.payload 20 1 * 2 + leAt c.payload 21 1), (R.PAGE_COMMIT P.PTP, 0xC0DE0001)] → u = (List.range 4).foldl (fun (u : State) n => u.mcWrites [(R.PTPP_CFG n, (putBits (BitVec.ofNat 32 (u.mcRead (R.PTPP_CFG n))) 0 1 (leAt c.payload 22 1 / 2 ^ n)).toNat), (R.PAGE_COMMIT (P.PTPP n), 0xC0DE0001)]) t → 
      exec (.ptpConfig) s = .next (State.settle (u.mbxAnswer c 0 [])))

/-- A step takes the command at the front of the queue. Where command c is at the front of the queue and rest follows it, the step is exec of c on the state whose queue is rest. On an empty queue the step answers the same state, which is the model's choice (log entry 1). (95_what_each_step_holds.md (the steps of the part)) -/
def Obligations.StepTakesTheFrontCommand : Prop :=
  (∀ (s : State) (c : Instr) (rest : List Instr), s.pending = c :: rest → step s = exec c { s with pending := rest }) ∧
  (∀ s : State, s.pending = [] → step s = .next s)

/-- No command stops the block. Every run of any length from any state goes on: no command faults or is refused, whatever the queue holds. Errors are responses, sticky bits and exceptions, which are state. (95_what_each_step_holds.md; 02_register_pages.md R40; 14_swiale_cores.md R371) -/
def Obligations.EveryRunGoesOn : Prop :=
  ∀ (n : Nat) (s : State), safeRun n s = true

/-- Every step leaves the fault records with Tocsin and the MSI-X vectors in line with their sources. Whatever the state before, a command leaves a settled state: every ERR_STICKY transition has gone to Tocsin, a pending bit stands only while its vector cannot send, and an active source whose vector can send has sent. So settled is an invariant of every step, the idle one included. (21_faults.md R513; 20_host_interface.md R497) -/
def Obligations.EveryStepSettles : Prop :=
  (∀ (c : Instr) (s t : State), exec c s = .next t → t.settled = true) ∧
  (∀ s t : State, s.settled = true → step s = .next t → t.settled = true)

/-- The state after reset meets the invariants. After reset the state is settled, shared SRAM is in its canonical form with nothing listed, no command waits, and the stacks and loops of every core have the depths that it can hold. (21_faults.md R513; 20_host_interface.md R497; 16_memory_dma.md R396) -/
def Obligations.ResetMeetsTheInvariants : Prop :=
  State.reset.settled = true ∧ Memory.wf State.reset.mem.sram = true ∧ State.reset.pending = [] ∧
    (∀ d, State.depthsHold (State.reset.coreGet d) = true)

/-- A mode command from anyone but MC, and a host write before MC is released, are ignored and recorded. Where the access is served, a write of SYS_MODECMD by any initiator other than MC sets MODE_ACCESS, and a host write to any page before the boot stage has released MC sets EARLY_WRITE; no register but SYS's ERR_STICKY and ERR_INFO changes, nor a shadow, the mode logic or shared SRAM. (01_receiver_overview.md R25; 02_register_pages.md R39) -/
def Obligations.ModeCommandAndEarlyWritesAreRefused : Prop :=
  (∀ (s : State) (init target : Nat), init ≠ Init.MC → regSpace init = true → s.accessCheck R.SYS_MODECMD 4 = .served →
    ∃ t : State, exec (.modeCommand init target) s = .next t ∧ t.flag ⟨R.ERR_STICKY P.SYS, 8, 1⟩ = true ∧
      t.sys = s.sys ∧ t.shM = s.shM ∧ t.shV = s.shV ∧ (∀ a, t.sramByte a = s.sramByte a) ∧
      ∀ a, a ≠ R.ERR_STICKY P.SYS → a ≠ R.ERR_INFO P.SYS → t.reg a = s.reg a) ∧
  (∀ (s : State) (addr width value : Nat), s.beforeMc = true → s.accessCheck addr width = .served →
    ∃ t : State, exec (.registerWrite Init.HOST addr width value) s = .next t ∧ t.flag ⟨R.ERR_STICKY P.SYS, 9, 1⟩ = true ∧
      t.sys = s.sys ∧ t.shM = s.shM ∧ t.shV = s.shV ∧ (∀ a, t.sramByte a = s.sramByte a) ∧
      ∀ a, a ≠ R.ERR_STICKY P.SYS → a ≠ R.ERR_INFO P.SYS → t.reg a = s.reg a)

/-- An access of another width, or at an unaligned address, gets an alignment error and sets WIDTH. On a page that is neither held nor gated, a write or a read that is not an aligned 32-bit access answers the alignment error and sets ERR_STICKY.WIDTH of the page addressed; no other register than that page's ERR_STICKY and ERR_INFO changes, no shadow, no byte of shared SRAM, and no read data. (02_register_pages.md R39; 02_register_pages.md R58; 02_register_pages.md R62) -/
def Obligations.MisshapenAccessesChangeNothing : Prop :=
  ∀ (s : State) (init addr width value : Nat), regSpace init = true → (kindOf (pageOf addr)).isSome = true →
    s.held (pageOf addr) = false → s.gated (pageOf addr) = false → (width ≠ 4 ∨ addr % 4 ≠ 0) →
    ∀ c : Instr, c = .registerWrite init addr width value ∨ c = .rcFieldRead init addr width →
    ∃ t : State, exec c s = .next t ∧ t.resp = .align ∧ t.flag ⟨R.ERR_STICKY (pageOf addr), 4, 1⟩ = true ∧
      t.rdata = s.rdata ∧ t.shM = s.shM ∧ t.shV = s.shV ∧ (∀ a, t.sramByte a = s.sramByte a) ∧
      ∀ a, a ≠ R.ERR_STICKY (pageOf addr) → a ≠ R.ERR_INFO (pageOf addr) → t.reg a = s.reg a

/-- An address outside every page gets a decode error; an undescribed offset reads 0 and its writes set UNMAPPED. Outside every page a write and a read answer the decode error and change no register. At an offset of a page that holds no register, a served read returns 0 and changes no register, and a served write (a host write only after MC is released) sets UNMAPPED and changes no register but the page's ERR_STICKY and ERR_INFO. (02_register_pages.md R40; 02_register_pages.md R62) -/
def Obligations.AbsentAddressesAnswerAlike : Prop :=
  (∀ (s : State) (init addr width value : Nat), (kindOf (pageOf addr)).isNone = true →
    ∀ c : Instr, c = .registerWrite init addr width value ∨ c = .rcFieldRead init addr width →
    ∃ t : State, exec c s = .next t ∧ t.resp = .decode ∧ t.rdata = s.rdata ∧ ∀ a, t.reg a = s.reg a) ∧
  (∀ (s : State) (init addr : Nat), mapped addr = false → s.serves init addr = true →
    ∃ t : State, exec (.rcFieldRead init addr 4) s = .next t ∧ t.resp = .served ∧ t.rdata = 0 ∧ ∀ a, t.reg a = s.reg a) ∧
  (∀ (s : State) (init addr value : Nat), mapped addr = false → s.serves init addr = true →
    (init = Init.HOST → s.beforeMc = false) →
    ∃ t : State, exec (.registerWrite init addr 4 value) s = .next t ∧ t.flag ⟨R.ERR_STICKY (pageOf addr), 5, 1⟩ = true ∧
      t.shM = s.shM ∧ ∀ a, a ≠ R.ERR_STICKY (pageOf addr) → a ≠ R.ERR_INFO (pageOf addr) → t.reg a = s.reg a)

/-- ERR_INFO keeps the first error until ERR_STICKY is clear. An error on a page whose ERR_STICKY is zero writes ERR_INFO; on a page whose ERR_STICKY is not zero it leaves ERR_INFO; either way its bit is then set and no bit of ERR_STICKY clears. An accepted W1C write of ERR_STICKY clears the bits written 1, and ERR_INFO reads 0 exactly when that leaves ERR_STICKY zero, else it stays. (02_register_pages.md R46; 02_register_pages.md R42) -/
def Obligations.TheFirstErrorIsFrozen : Prop :=
  (∀ (s : State) (page b off init d : Nat) (w : Bool), b < 32 →
    (s.stickyAt page b off w init d).reg (R.ERR_INFO page) =
      (if s.reg (R.ERR_STICKY page) = 0 then errWord off init b d w else s.reg (R.ERR_INFO page)) ∧
    (s.stickyAt page b off w init d).reg (R.ERR_STICKY page) = (s.reg (R.ERR_STICKY page) ||| BitVec.ofNat 32 (2 ^ b))) ∧
  (∀ (s : State) (init page value : Nat), page % 4096 = 0 → s.admits init (R.ERR_STICKY page) = true →
    ∃ t : State, exec (.registerWrite init (R.ERR_STICKY page) 4 value) s = .next t ∧
      t.reg (R.ERR_STICKY page) = (s.reg (R.ERR_STICKY page) &&& ~~~(BitVec.ofNat 32 value)) ∧
      t.reg (R.ERR_INFO page) =
        (if s.reg (R.ERR_STICKY page) &&& ~~~(BitVec.ofNat 32 value) = 0 then 0 else s.reg (R.ERR_INFO page)))

/-- While a page is locked, PAGE_CTRL keeps its value, and only NYM unlocks it. On a locked page, accepted writes of ENABLE and of SOFT_RESET leave PAGE_CTRL as it is and set LOCKED_WRITE. A write of 0 to PAGE_LOCK from NYM clears LOCK; from any other initiator it leaves PAGE_LOCK and sets LOCKED_WRITE. (02_register_pages.md R56; 02_register_pages.md R57) -/
def Obligations.ALockedPageRefusesItsControl : Prop :=
  (∀ (s : State) (init page : Nat) (on : Bool), page % 4096 = 0 → s.admits init (R.PAGE_CTRL page) = true →
    s.flag (F.LOCK_LOCK page) = true → ∀ c : Instr, c = .enableWrite init page on ∨ c = .softReset init page →
    ∃ t : State, exec c s = .next t ∧ t.reg (R.PAGE_CTRL page) = s.reg (R.PAGE_CTRL page) ∧
      t.flag ⟨R.ERR_STICKY page, 1, 1⟩ = true) ∧
  (∀ (s : State) (init page : Nat), page % 4096 = 0 → s.admits init (R.PAGE_LOCK page) = true →
    s.flag (F.LOCK_LOCK page) = true →
    ∃ t : State, exec (.pageLock init page 0) s = .next t ∧
      (init = Init.NYM → t.flag (F.LOCK_LOCK page) = false) ∧
      (init ≠ Init.NYM → t.reg (R.PAGE_LOCK page) = s.reg (R.PAGE_LOCK page) ∧ t.flag ⟨R.ERR_STICKY page, 1, 1⟩ = true))

/-- A commit point transfers every written S field of its registers together, and no other. For every choice of registers, a transfer leaves each chosen register at the value written (its unwritten bits kept) with nothing left to transfer, and each other register and its shadow as they were. (02_register_pages.md R51; 02_register_pages.md R52) -/
def Obligations.ATransferMovesEveryShadowAtOnce : Prop :=
  ∀ (s : State) (sel : Nat → Bool) (a : Nat),
    (s.transfer sel).reg a = (if sel a then s.written a else s.reg a) ∧
    (s.transfer sel).shadowMask a = (if sel a then 0 else s.shadowMask a) ∧
    (sel a = false → (s.transfer sel).shadowVal a = s.shadowVal a)

/-- On DMAC an H field is judged against the active state of its own channel. An accepted write of CH_CFG, CH_TRIG, CH_PERIOD or CH_DESC of channel n takes effect when that channel is IDLE and leaves the register as it is in every other state, whatever PAGE_STAT.RUNNING reads and whatever the other channels do. (02_register_pages.md R55) -/
def Obligations.ChannelFieldsAreJudgedByTheirChannel : Prop :=
  ∀ (s : State) (init n value : Nat) (am : Nat × Word), n < 32 →
    am ∈ [(R.CH_CFG n, 0xFFFF000F), (R.CH_DESC n, 0xFFFFFFFF), (R.CH_TRIG n, 0x1F7), (R.CH_PERIOD n, 0xFFFFFF)] →
    s.admits init am.1 = true → s.flag (F.LOCK_LOCK P.DMAC) = false →
    ∃ t : State, exec (.registerWrite init am.1 4 value) s = .next t ∧
      (s.chanState n = 0 → t.reg am.1 = ((s.reg am.1 &&& ~~~am.2) ||| (BitVec.ofNat 32 value &&& am.2))) ∧
      (s.chanState n ≠ 0 → t.reg am.1 = s.reg am.1)

/-- Tocsin drives NMI on MC and on no other core. An NMI is pending on MC exactly when Tocsin asserts it and MC is not in it; it is pending on no other core in any state. (14_swiale_cores.md R367) -/
def Obligations.NmiReachesMcAlone : Prop :=
  (∀ (s : State) (c : Nat), c ≠ mcCore → s.nmiPending c = false) ∧
  (∀ s : State, s.nmiPending mcCore = (s.flag F.TOC_STAT_NMI_ACTIVE && !(s.coreGet mcCore).nmiAct))

/-- An instruction of a core changes no other core, no byte of shared SRAM and no register but its own page's records. For each of the 96 rows that run a Swiale instruction on core c, in every state and with every operand: every other core, the queue, the shadows, the answer of the last access and every byte of shared SRAM stay as they were; so do every register but ERR_STICKY, ERR_INFO and IRQ_RAW of the core's page, and the time base, the triggers, the DMA channels, Carillon, the correlator, PTP, the pair, Nymvis, the power and clock state, the always-on domain, the sample streams, the front end, the arrays and the mode logic. (14_swiale_cores.md R351; 14_swiale_cores.md R355; 14_swiale_cores.md R371; 15_swiale_instructions.md R380) -/
def Obligations.SwialeInstructionsTouchTheirCoreAlone : Prop :=
  ∀ (i : Instr) (s t : State) (c : Nat), swialeCore i = some c → exec i s = .next t →
    (∀ d, d ≠ c → t.coreGet d = s.coreGet d) ∧ (∀ a, t.sramByte a = s.sramByte a) ∧
    (∀ a, a ≠ R.ERR_STICKY (P.CORE c) → a ≠ R.ERR_INFO (P.CORE c) → a ≠ R.IRQ_RAW (P.CORE c) → t.reg a = s.reg a) ∧
    t.pending = s.pending ∧ t.shM = s.shM ∧ t.shV = s.shV ∧ t.resp = s.resp ∧ t.rdata = s.rdata ∧ t.mem = s.mem ∧
    t.tbu = s.tbu ∧ t.drl = s.drl ∧ t.tio = s.tio ∧ t.dma = s.dma ∧ t.chs = s.chs ∧ t.cor = s.cor ∧ t.acq = s.acq ∧
    t.ptp = s.ptp ∧ t.pair = s.pair ∧ t.nym = s.nym ∧ t.pmu = s.pmu ∧ t.clk = s.clk ∧ t.aon = s.aon ∧ t.sig = s.sig ∧
    t.dfe = s.dfe ∧ t.arr = s.arr ∧ t.rfs = s.rfs ∧ t.sys = s.sys ∧ t.cmon = s.cmon

/-- The steps of a core keep the depths of its stacks and loops. If every core holds at most 8 operands, 16 return-stack entries and 4 loops, and so does the copy kept for a delay slot, this still holds after each of the 96 rows that run an instruction, after the entry of an interrupt or NMI and after a wake. (14_swiale_cores.md R357; 14_swiale_cores.md R358; 14_swiale_cores.md R362) -/
def Obligations.CoreStacksKeepTheirDepth : Prop :=
  ∀ (i : Instr) (s t : State) (c n : Nat),
    (swialeCore i = some c ∨ i = .interruptEntry c ∨ i = .nmiEntry ∨ i = .waitWake c n) →
    (∀ d, State.depthsHold (s.coreGet d) = true) → exec i s = .next t → ∀ d, State.depthsHold (t.coreGet d) = true

/-- A push on a full stack spills the deepest entry, and a fill brings it back. On a core whose stack holds 8 entries and whose SP lies in the spill area, a push that is taken leaves SP four lower with the deepest entry at SP in X memory; after the new entry is popped, an instruction that needs 8 operands finds the old stack and the old SP. (14_swiale_cores.md R357) -/
def Obligations.SpillAndFillKeepTheStackExact : Prop :=
  ∀ (k k1 : Core) (w : Word), k.stack.length = 8 → k.sp < 65536 → k.sp ≤ k.spHi → k.push w = .ok k1 →
    k1.sp = k.sp - 4 ∧ k1.stack.length = 8 ∧ k1.stack.head? = some w ∧
    ∃ k2 k3 : Core, k1.pop = .ok (w, k2) ∧ k2.need 8 = .ok k3 ∧ k3.stack = k.stack ∧ k3.sp = k.sp

/-- Taking an exception saves the faulting instruction and its cause, and goes to VBAR + 0x108. On a core outside any exception or NMI, with room for the two entries of the return stack, an exception outside a delay slot and a REP leaves EPC at the faulting instruction, ECAUSE at its code, EADDR at the data address where there is one and else as it was, EXC_ACT 1, IE 0 and the PC at VBAR + 0x108, and pushes the status and the PC on the return stack; while EXC_ACT or NMI_ACT is 1 the core halts and DOUBLE is set. (14_swiale_cores.md R371; 14_swiale_cores.md R368) -/
def Obligations.ExceptionEntrySavesTheInstruction : Prop :=
  (∀ (s : State) (c : Nat) (e : Exn), c < s.cores.length → (s.coreGet c).slot = none → (s.coreGet c).rep = none →
    (s.coreGet c).excAct = false → (s.coreGet c).nmiAct = false → (s.coreGet c).rstack.length + 2 ≤ 16 →
    ((s.coreRaise c e).coreGet c).epc = (s.coreGet c).pc ∧ ((s.coreRaise c e).coreGet c).ecause = e.code ∧
    ((s.coreRaise c e).coreGet c).eaddr = e.addr.getD (s.coreGet c).eaddr ∧
    ((s.coreRaise c e).coreGet c).excAct = true ∧ ((s.coreRaise c e).coreGet c).ie = false ∧
    ((s.coreRaise c e).coreGet c).pc = (s.coreGet c).vbar + 0x108 ∧
    ((s.coreRaise c e).coreGet c).rstack = (s.coreGet c).status :: BitVec.ofNat 32 (s.coreGet c).pc :: (s.coreGet c).rstack ∧
    ((s.coreRaise c e).coreGet c).stack = (s.coreGet c).stack ∧ ((s.coreRaise c e).coreGet c).xmem = (s.coreGet c).xmem ∧
    ((s.coreRaise c e).coreGet c).acc = (s.coreGet c).acc) ∧
  (∀ (s : State) (c : Nat) (e : Exn), c < s.cores.length → ((s.coreGet c).excAct || (s.coreGet c).nmiAct) = true →
    ((s.coreRaise c e).coreGet c).run = .halted ∧ (s.coreRaise c e).flag ⟨R.ERR_STICKY (P.CORE c), 8, 1⟩ = true ∧
    (s.coreRaise c e).flag ⟨R.IRQ_RAW (P.CORE c), 0, 1⟩ = true)

/-- A bank access reads or writes exactly the bytes that the rules give it. An access of port P that is not held: refused by a check, it changes no byte of shared SRAM and answers that check; a read that passes them changes no byte and returns the bytes at its address, rotated in rotate mode; a write that passes them puts its bytes at its address, or into the four lanes of the aligned word in rotate mode, and every other byte of shared SRAM reads as before. (16_memory_dma.md R397; 16_memory_dma.md R403; 16_memory_dma.md R542) -/
def Obligations.BankAccessesWriteTheirBytesOnly : Prop :=
  ∀ (s : State) (x : BankReq) (b : Nat), x.init ≠ Init.DMA → b = (bankOf x.addr).getD 0 →
    s.bankHolds ⟨x.init, x.write, x.addr, x.size, x.value⟩ = false →
    ∃ t : State, exec (.bankAccess none (some x) none) s = .next t ∧
      t.resp = s.bankCheck ⟨x.init, x.write, x.addr, x.size, x.value⟩ ∧
      (t.resp = .served → x.write = true → (s.bankRot b && decide (x.size = 4)) = false →
        (∀ j, j < x.size → t.sramByte (x.addr + j) = BitVec.ofNat 8 (x.value / 2 ^ (8 * j))) ∧
        ∀ y, (y < x.addr ∨ x.addr + x.size ≤ y) → t.sramByte y = s.sramByte y) ∧
      (t.resp = .served → x.write = true → (s.bankRot b && decide (x.size = 4)) = true →
        (∀ j, j < 4 → t.sramByte (x.addr / 4 * 4 + (x.addr + j) % 4) = BitVec.ofNat 8 (x.value / 2 ^ (8 * j))) ∧
        ∀ y, (y < x.addr / 4 * 4 ∨ x.addr / 4 * 4 + 4 ≤ y) → t.sramByte y = s.sramByte y) ∧
      (t.resp = .served → x.write = false → (s.bankRot b && decide (x.size = 4)) = false →
        (∀ j, j < x.size → t.mem.rdataP / 2 ^ (8 * j) % 256 = (s.sramByte (x.addr + j)).toNat)) ∧
      (t.resp = .served → x.write = false → (s.bankRot b && decide (x.size = 4)) = true →
        (∀ j, j < 4 → t.mem.rdataP / 2 ^ (8 * j) % 256 = (s.sramByte (x.addr / 4 * 4 + (x.addr + j) % 4)).toNat)) ∧
      ((t.resp ≠ .served ∨ x.write = false) → ∀ y, t.sramByte y = s.sramByte y)

/-- A handover is accepted from the permitted writer alone, and moves the bank at its completion. A write of a new OWNER that the rules do not accept (another writer, another owner than EXPECT names, an invalid owner, a handover in progress) changes no register but MEM's ERR_STICKY and ERR_INFO, sets OWN_REFUSED and leaves shared SRAM and its handovers as they are. An accepted one is recorded, and PENDING is 1 at once where the writer has no store under way; OWNER changes only when the handover completes, which gives the bank its new owner and flags, records the old owner in PREV, clears PENDING and sets IRQ_RAW.HANDOVER. While a completion of the DMA engine still has accesses to make in the bank, the handover does not complete (R417). (16_memory_dma.md R398; 16_memory_dma.md R399; 16_memory_dma.md R417) -/
def Obligations.HandoversFollowTheOwner : Prop :=
  (∀ (s : State) (init b w : Nat), b < 96 → s.admits init (R.MEM_OWNER b) = true → w % 32 ≠ s.bankOwner b →
    ((init = Init.MC ∨ init = Init.NYM ∨ (init = Init.HOST ∧ s.bankOwner b = Init.HOST)) ∧
      (w / 2 ^ 8 % 32 = s.bankOwner b ∨ w / 2 ^ 8 % 32 = 0x1F) ∧ validOwner (w % 32) = true ∧
      s.bankPending b = false ∧ s.handOf b = none → False) →
    ∃ t : State, exec (.handoverWrite init b (w % 2 ^ 32)) s = .next t ∧ t.flag ⟨R.ERR_STICKY P.MEM, 11, 1⟩ = true ∧ t.mem = s.mem ∧
      ∀ a, a ≠ R.ERR_STICKY P.MEM → a ≠ R.ERR_INFO P.MEM → t.reg a = s.reg a) ∧
  (∀ (s : State) (init b w : Nat), b < 96 → s.admits init (R.MEM_OWNER b) = true → w % 32 ≠ s.bankOwner b →
    (init = Init.MC ∨ init = Init.NYM ∨ (init = Init.HOST ∧ s.bankOwner b = Init.HOST)) →
    (w / 2 ^ 8 % 32 = s.bankOwner b ∨ w / 2 ^ 8 % 32 = 0x1F) → validOwner (w % 32) = true →
    s.bankPending b = false → s.handOf b = none →
    ∃ (t : State) (h : Handover), exec (.handoverWrite init b (w % 2 ^ 32)) s = .next t ∧ t.handOf b = some h ∧ h.owner = w % 32 ∧
      h.writer = init ∧ t.bankOwner b = s.bankOwner b ∧ t.mem.sram = s.mem.sram ∧
      (s.storesOpen init = false → t.bankPending b = true)) ∧
  (∀ (s : State) (b : Nat) (h : Handover), b < 96 → s.handOf b = some h → h.started = true → h.owner < 32 →
    s.dmaCompletes b = false →
    ∃ t : State, exec (.handoverComplete b) s = .next t ∧ t.bankOwner b = h.owner ∧ t.bankDelegate b = h.delegate ∧
      t.bankRdonly b = h.rdonly ∧ t.bankRot b = h.rot ∧ t.fld (F.MEM_OWNER_PREV b) = s.bankOwner b ∧
      t.bankPending b = false ∧ t.handOf b = none ∧ t.flag ⟨R.IRQ_RAW P.MEM, 0, 1⟩ = true) ∧
  (∀ (s : State) (b : Nat), b < 96 → s.dmaCompletes b = true →
    ∃ t : State, exec (.handoverComplete b) s = .next t ∧ t.bankOwner b = s.bankOwner b ∧ t.bankPending b = s.bankPending b ∧
      t.handOf b = s.handOf b)

/-- An event trigger that finds its channel busy is held once, and the next is dropped and recorded. With the engine running, an event of SRC 1 or 3 (dmaTrigger) or SRC 2 (dmaTimer) that meets channel n in any active state but WAIT sets PEND when no event is held; when one is held, PEND stays and TRIG_OVR of the channel and of DMA are set. Either way the channel's state stays and no byte of shared SRAM changes. While the channel is IDLE the event changes nothing. (16_memory_dma.md R411; 16_memory_dma.md R412) -/
def Obligations.DmaTriggersAreHeldOnce : Prop :=
  ∀ (s : State) (n : Nat) (c : Instr), n < 32 → s.dmaRuns = true →
    (c = .dmaTrigger n ∧ (s.fld (F.CH_TRIG_SRC n) = 1 ∨ s.fld (F.CH_TRIG_SRC n) = 3) ∨
      c = .dmaTimer n ∧ s.fld (F.CH_TRIG_SRC n) = 2) → s.chanState n ≠ 2 →
    ∃ t : State, exec c s = .next t ∧ t.chanState n = s.chanState n ∧ t.dma = s.dma ∧ (∀ a, t.sramByte a = s.sramByte a) ∧
      (s.chanState n = 0 → t.flag (F.CH_STAT_PEND n) = s.flag (F.CH_STAT_PEND n) ∧
        t.flag (F.CH_STAT_TRIG_OVR n) = s.flag (F.CH_STAT_TRIG_OVR n)) ∧
      (s.chanState n ≠ 0 → t.flag (F.CH_STAT_PEND n) = true ∧
        (s.flag (F.CH_STAT_PEND n) = false → t.flag (F.CH_STAT_TRIG_OVR n) = s.flag (F.CH_STAT_TRIG_OVR n)) ∧
        (s.flag (F.CH_STAT_PEND n) = true → t.flag (F.CH_STAT_TRIG_OVR n) = true ∧
          t.flag ⟨R.ERR_STICKY P.DMA, 9, 1⟩ = true))

/-- A tamper trip zeroises what Nymvis RAM holds and the DRBG state and enters the error state. A trip of any of the three sensors leaves the device root key and the DRBG state zeroised, ERROR 1 and APPROVED 0, the sensor's NOW and SEEN bits set, TAMPER recorded in ERR_STICKY and IRQ_RAW, no User or PTP key in Nymvis RAM, and the key store on the flash, the keys in the engine's slots, the lifecycle and every byte of shared SRAM as they were. (17_nymvis_security.md R445; 17_nymvis_security.md R429; 17_nymvis_security.md R430) -/
def Obligations.ATamperTripEntersTheErrorState : Prop :=
  ∀ (s : State) (k : Nat), k < 3 →
    ∃ t : State, exec (.tamperTrip k) s = .next t ∧ t.nym.rootKey = false ∧ t.nym.drbg = false ∧
      t.flag F.NYM_STAT_ERROR = true ∧ t.flag F.NYM_STAT_APPROVED = false ∧
      bit (t.fld F.NYM_TAMPER_NOW) k = true ∧ bit (t.fld F.NYM_TAMPER_SEEN) k = true ∧
      t.flag ⟨R.ERR_STICKY P.NYM, 10, 1⟩ = true ∧ t.flag ⟨R.IRQ_RAW P.NYM, 2, 1⟩ = true ∧
      t.nym.userKeys = List.replicate 4 none ∧ t.nym.ptpKeys = List.replicate 16 none ∧ t.nym.eph = none ∧
      t.nym.store = s.nym.store ∧ t.ptp.keys = s.ptp.keys ∧ t.lcs = s.lcs ∧ t.mem.sram = s.mem.sram
end

