-- ==== Sys2Proof/Laws/Bits.lean ====
section
/-! SUPPORT. Laws of bit fields: a field reads what was put into it, fields beside it keep their value, and the bytes of a
number give it back. -/

namespace Sys2Proof.Machine

theorem getBits_lt (w : Word) (l n : Nat) : getBits w l n < 2 ^ n := Nat.mod_lt _ (Nat.two_pow_pos n)

/-- A number cut at a field: what stands above it, the field, what stands below. -/
theorem split_bits (x l n : Nat) : x = x / 2 ^ (l + n) * 2 ^ (l + n) + x / 2 ^ l % 2 ^ n * 2 ^ l + x % 2 ^ l := by
  have h1 := Nat.div_add_mod x (2 ^ l)
  have h2 := Nat.div_add_mod (x / 2 ^ l) (2 ^ n)
  rw [Nat.div_div_eq_div_mul, ← Nat.pow_add] at h2
  have h3 : x / 2 ^ (l + n) * 2 ^ (l + n) = 2 ^ l * (2 ^ n * (x / 2 ^ (l + n))) := by rw [Nat.pow_add]; ring
  calc x = 2 ^ l * (2 ^ n * (x / 2 ^ (l + n)) + x / 2 ^ l % 2 ^ n) + x % 2 ^ l := by rw [h2, h1]
    _ = x / 2 ^ (l + n) * 2 ^ (l + n) + x / 2 ^ l % 2 ^ n * 2 ^ l + x % 2 ^ l := by rw [h3]; ring

theorem putBits_toNat (w : Word) (l n v : Nat) (h : l + n ≤ 32) :
    (putBits w l n v).toNat = w.toNat / 2 ^ (l + n) * 2 ^ (l + n) + v % 2 ^ n * 2 ^ l + w.toNat % 2 ^ l := by
  have hs := split_bits w.toNat l n
  have hw : w.toNat < 2 ^ 32 := w.isLt
  have h1 : w.toNat / 2 ^ (l + n) < 2 ^ (32 - (l + n)) := by
    rw [Nat.div_lt_iff_lt_mul (Nat.two_pow_pos _), ← Nat.pow_add]
    rwa [show 32 - (l + n) + (l + n) = 32 by omega]
  have h2 : v % 2 ^ n * 2 ^ l + w.toNat % 2 ^ l < 2 ^ (l + n) := by
    have a : v % 2 ^ n + 1 ≤ 2 ^ n := Nat.mod_lt _ (Nat.two_pow_pos n)
    have b : w.toNat % 2 ^ l < 2 ^ l := Nat.mod_lt _ (Nat.two_pow_pos l)
    rw [Nat.pow_add]
    nlinarith [Nat.mul_le_mul_right (2 ^ l) a]
  have h3 : w.toNat / 2 ^ (l + n) * 2 ^ (l + n) + v % 2 ^ n * 2 ^ l + w.toNat % 2 ^ l < 2 ^ 32 := by
    have : (w.toNat / 2 ^ (l + n) + 1) * 2 ^ (l + n) ≤ 2 ^ (32 - (l + n)) * 2 ^ (l + n) := Nat.mul_le_mul_right _ h1
    rw [← Nat.pow_add, show 32 - (l + n) + (l + n) = 32 by omega] at this
    nlinarith
  unfold putBits getBits
  rw [BitVec.toNat_ofNat, Nat.mod_eq_of_lt]
  · omega
  · omega

/-- A field reads what was put into it. -/
theorem getBits_putBits_same (w : Word) (l n v : Nat) (h : l + n ≤ 32) : getBits (putBits w l n v) l n = v % 2 ^ n := by
  have b : w.toNat % 2 ^ l < 2 ^ l := Nat.mod_lt _ (Nat.two_pow_pos l)
  unfold getBits
  rw [putBits_toNat w l n v h, Nat.pow_add,
    show w.toNat / (2 ^ l * 2 ^ n) * (2 ^ l * 2 ^ n) + v % 2 ^ n * 2 ^ l + w.toNat % 2 ^ l
      = w.toNat % 2 ^ l + (v % 2 ^ n + w.toNat / (2 ^ l * 2 ^ n) * 2 ^ n) * 2 ^ l by ring,
    Nat.add_mul_div_right _ _ (Nat.two_pow_pos l), Nat.div_eq_of_lt b, Nat.zero_add, Nat.add_mul_mod_self_right, Nat.mod_mod]

/-- A field above the one written keeps its value. -/
theorem getBits_putBits_above (w : Word) (l n v l' n' : Nat) (h : l + n ≤ 32) (ha : l + n ≤ l') :
    getBits (putBits w l n v) l' n' = getBits w l' n' := by
  have key : (putBits w l n v).toNat / 2 ^ (l + n) = w.toNat / 2 ^ (l + n) := by
    have a : v % 2 ^ n + 1 ≤ 2 ^ n := Nat.mod_lt _ (Nat.two_pow_pos n)
    have b : w.toNat % 2 ^ l < 2 ^ l := Nat.mod_lt _ (Nat.two_pow_pos l)
    have h2 : v % 2 ^ n * 2 ^ l + w.toNat % 2 ^ l < 2 ^ (l + n) := by
      rw [Nat.pow_add]
      nlinarith [Nat.mul_le_mul_right (2 ^ l) a]
    rw [putBits_toNat w l n v h, Nat.add_assoc, Nat.add_comm, Nat.add_mul_div_right _ _ (Nat.two_pow_pos _),
      Nat.div_eq_of_lt h2, Nat.zero_add]
  unfold getBits
  rw [show l' = (l + n) + (l' - (l + n)) by omega, Nat.pow_add, ← Nat.div_div_eq_div_mul, key, Nat.div_div_eq_div_mul]

/-- A field below the one written keeps its value. -/
theorem getBits_putBits_below (w : Word) (l n v l' n' : Nat) (h : l + n ≤ 32) (hb : l' + n' ≤ l) :
    getBits (putBits w l n v) l' n' = getBits w l' n' := by
  have key : (putBits w l n v).toNat % 2 ^ (l' + n') = w.toNat % 2 ^ (l' + n') := by
    have e : ∀ x : Nat, x * 2 ^ l = x * 2 ^ (l - (l' + n')) * 2 ^ (l' + n') := fun x => by
      rw [Nat.mul_assoc, ← Nat.pow_add, show l - (l' + n') + (l' + n') = l by omega]
    have e2 : w.toNat / 2 ^ (l + n) * 2 ^ (l + n) + v % 2 ^ n * 2 ^ l + w.toNat % 2 ^ l
        = w.toNat % 2 ^ l + (w.toNat / 2 ^ (l + n) * 2 ^ n + v % 2 ^ n) * 2 ^ (l - (l' + n')) * 2 ^ (l' + n') := by
      rw [← e, Nat.pow_add]
      ring
    rw [putBits_toNat w l n v h, e2, Nat.add_mul_mod_self_right, Nat.mod_mod_of_dvd _ (Nat.pow_dvd_pow 2 hb)]
  have cut : ∀ x : Nat, x / 2 ^ l' % 2 ^ n' = x % 2 ^ (l' + n') / 2 ^ l' := fun x => by
    rw [Nat.pow_add, Nat.mod_mul_right_div_self]
  unfold getBits
  rw [cut, cut, key]

/-! ### Single bits of a number -/

theorem bit_eq_testBit (v i : Nat) : bit v i = v.testBit i := by
  rw [Nat.testBit_eq_decide_div_mod_eq]
  rfl

theorem setBit_eq (v i : Nat) (b : Bool) : setBit v i b = v / 2 ^ (i + 1) * 2 ^ (i + 1) + b2n b * 2 ^ i + v % 2 ^ i := by
  have h := split_bits v i 1
  have h2 : v / 2 ^ i % 2 ^ 1 = v / 2 ^ i % 2 := by norm_num
  unfold setBit
  rw [h2] at h
  cases b <;> simp only [b2n] <;> simp <;> omega

@[simp] theorem bit_setBit_same (v i : Nat) (b : Bool) : bit (setBit v i b) i = b := by
  have hb : v % 2 ^ i < 2 ^ i := Nat.mod_lt _ (Nat.two_pow_pos i)
  unfold bit
  rw [setBit_eq, Nat.pow_succ,
    show v / (2 ^ i * 2) * (2 ^ i * 2) + b2n b * 2 ^ i + v % 2 ^ i = v % 2 ^ i + (b2n b + v / (2 ^ i * 2) * 2) * 2 ^ i by ring,
    Nat.add_mul_div_right _ _ (Nat.two_pow_pos i), Nat.div_eq_of_lt hb, Nat.zero_add, Nat.add_mul_mod_self_right]
  cases b <;> simp [b2n]

theorem bit_setBit_other (v i j : Nat) (b : Bool) (h : j ≠ i) : bit (setBit v i b) j = bit v j := by
  unfold bit
  rw [setBit_eq]
  rcases Nat.lt_or_gt_of_ne h with hj | hj
  · have cut : ∀ x : Nat, x / 2 ^ j % 2 = x % 2 ^ (j + 1) / 2 ^ j := fun x => by
      rw [Nat.pow_succ, Nat.mod_mul_right_div_self]
    have e : ∀ x : Nat, x * 2 ^ i = x * 2 ^ (i - (j + 1)) * 2 ^ (j + 1) := fun x => by
      rw [Nat.mul_assoc, ← Nat.pow_add, show i - (j + 1) + (j + 1) = i by omega]
    have e2 : v / 2 ^ (i + 1) * 2 ^ (i + 1) + b2n b * 2 ^ i + v % 2 ^ i
        = v % 2 ^ i + (v / 2 ^ (i + 1) * 2 + b2n b) * 2 ^ (i - (j + 1)) * 2 ^ (j + 1) := by
      rw [← e, Nat.pow_succ]
      ring
    rw [cut, cut, e2, Nat.add_mul_mod_self_right, Nat.mod_mod_of_dvd _ (Nat.pow_dvd_pow 2 hj)]
  · have h1 : b2n b * 2 ^ i + v % 2 ^ i < 2 ^ (i + 1) := by
      have hb : v % 2 ^ i < 2 ^ i := Nat.mod_lt _ (Nat.two_pow_pos i)
      have : b2n b ≤ 1 := by cases b <;> simp [b2n]
      rw [Nat.pow_succ]
      nlinarith [Nat.mul_le_mul_right (2 ^ i) this]
    have key : (v / 2 ^ (i + 1) * 2 ^ (i + 1) + b2n b * 2 ^ i + v % 2 ^ i) / 2 ^ (i + 1) = v / 2 ^ (i + 1) := by
      rw [Nat.add_assoc, Nat.add_comm, Nat.add_mul_div_right _ _ (Nat.two_pow_pos _), Nat.div_eq_of_lt h1, Nat.zero_add]
    obtain ⟨d, rfl⟩ : ∃ d, j = (i + 1) + d := ⟨j - (i + 1), by omega⟩
    rw [Nat.pow_add 2 (i + 1) d, ← Nat.div_div_eq_div_mul, key, Nat.div_div_eq_div_mul]

/-! ### Bytes -/

@[simp] theorem leBytes_length (n v : Nat) : (leBytes n v).length = n := by
  induction n generalizing v with
  | zero => rfl
  | succ n ih => simp [leBytes, ih]

/-- The bytes of a number give it back. -/
theorem leValue_leBytes (n v : Nat) : leValue (leBytes n v) = v % 256 ^ n := by
  induction n generalizing v with
  | zero => simp [leBytes, leValue, Nat.mod_one]
  | succ n ih =>
    have h : (BitVec.ofNat 8 v).toNat = v % 256 := BitVec.toNat_ofNat ..
    rw [leBytes, leValue, ih, h, Nat.pow_succ', Nat.mod_mul]

end Sys2Proof.Machine
end

