-- ==== Sys2Proof/Laws/Sparse.lean ====
section
/-! SUPPORT. Laws of sparse tables: reading after writing, and the canonical form, which every operation keeps. -/

namespace Sys2Proof.Machine.Sparse

variable {α : Type}

theorem get_erase_same (d : Nat → α) (m : List (Nat × α)) (k : Nat) : get d (erase m k) k = d k := by
  induction m with
  | nil => rfl
  | cons e m ih =>
    obtain ⟨i, v⟩ := e
    simp only [erase]
    split
    · exact ih
    · simp [get, *]

theorem get_erase_other (d : Nat → α) (m : List (Nat × α)) {k j : Nat} (h : j ≠ k) : get d (erase m k) j = get d m j := by
  induction m with
  | nil => rfl
  | cons e m ih =>
    obtain ⟨i, v⟩ := e
    simp only [erase]
    split
    · next hi => simp [get, ih, hi ▸ Ne.symm h]
    · simp [get, ih]

theorem get_insert_same (d : Nat → α) (m : List (Nat × α)) (k : Nat) (v : α) (h : ∀ e ∈ m, e.1 ≠ k) :
    get d (insert m k v) k = v := by
  induction m with
  | nil => simp [insert, get]
  | cons e m ih =>
    obtain ⟨i, w⟩ := e
    have hi : i ≠ k := h (i, w) (by simp)
    simp only [insert]
    split
    · simp [get]
    · simp [get, hi, ih fun e he => h e (by simp [he])]

theorem get_insert_other (d : Nat → α) (m : List (Nat × α)) {k j : Nat} (v : α) (h : j ≠ k) :
    get d (insert m k v) j = get d m j := by
  induction m with
  | nil => simp [insert, get, Ne.symm h]
  | cons e m ih =>
    obtain ⟨i, w⟩ := e
    simp only [insert]
    split
    · simp [get, Ne.symm h]
    · simp [get, ih]

theorem key_ne_of_mem_erase (m : List (Nat × α)) (k : Nat) : ∀ e ∈ erase m k, e.1 ≠ k := by
  induction m with
  | nil => simp [erase]
  | cons e m ih =>
    obtain ⟨i, v⟩ := e
    simp only [erase]
    split
    · exact ih
    · next h =>
      intro e he
      rcases List.mem_cons.1 he with rfl | he
      · exact h
      · exact ih e he

variable [DecidableEq α]

/-- A read after a write to the same key gives the value written. -/
@[simp] theorem get_set_same (d : Nat → α) (m : List (Nat × α)) (k : Nat) (v : α) : get d (set d m k v) k = v := by
  unfold set
  split
  · next h => rw [get_erase_same, h]
  · exact get_insert_same d _ k v (key_ne_of_mem_erase m k)

/-- A write leaves every other key alone. -/
theorem get_set_other (d : Nat → α) (m : List (Nat × α)) {k j : Nat} (v : α) (h : j ≠ k) :
    get d (set d m k v) j = get d m j := by
  unfold set
  split
  · exact get_erase_other d m h
  · rw [get_insert_other d _ v h, get_erase_other d m h]

theorem get_set (d : Nat → α) (m : List (Nat × α)) (k j : Nat) (v : α) :
    get d (set d m k v) j = if j = k then v else get d m j := by
  split
  · next h => rw [h, get_set_same]
  · next h => exact get_set_other d m v h

/-! ### The canonical form -/

theorem wfFrom_mono (d : Nat → α) {m : List (Nat × α)} {lo lo' : Nat} (h : lo' ≤ lo) (hm : wfFrom d lo m = true) :
    wfFrom d lo' m = true := by
  cases m with
  | nil => rfl
  | cons e m =>
    obtain ⟨i, v⟩ := e
    simp only [wfFrom, Bool.and_eq_true, decide_eq_true_eq] at hm ⊢
    exact ⟨⟨by omega, hm.1.2⟩, hm.2⟩

theorem wfFrom_erase (d : Nat → α) (k : Nat) (m : List (Nat × α)) :
    ∀ lo, wfFrom d lo m = true → wfFrom d lo (erase m k) = true := by
  induction m with
  | nil => intro lo h; exact h
  | cons e m ih =>
    obtain ⟨i, v⟩ := e
    intro lo h
    simp only [wfFrom, Bool.and_eq_true, decide_eq_true_eq] at h
    simp only [erase]
    split
    · exact wfFrom_mono d (by omega) (ih _ h.2)
    · simp only [wfFrom, Bool.and_eq_true, decide_eq_true_eq]
      exact ⟨h.1, ih _ h.2⟩

theorem wfFrom_insert (d : Nat → α) (k : Nat) (v : α) (hv : v ≠ d k) (m : List (Nat × α)) :
    ∀ lo, lo ≤ k → (∀ e ∈ m, e.1 ≠ k) → wfFrom d lo m = true → wfFrom d lo (insert m k v) = true := by
  induction m with
  | nil => intro lo hlo _ _; simp [insert, wfFrom, hlo, hv]
  | cons e m ih =>
    obtain ⟨i, w⟩ := e
    intro lo hlo hk h
    have hi : i ≠ k := hk (i, w) (by simp)
    simp only [wfFrom, Bool.and_eq_true, decide_eq_true_eq] at h
    simp only [insert]
    split
    · simp only [wfFrom, Bool.and_eq_true, decide_eq_true_eq]
      exact ⟨⟨hlo, hv⟩, ⟨⟨by omega, h.1.2⟩, h.2⟩⟩
    · simp only [wfFrom, Bool.and_eq_true, decide_eq_true_eq]
      exact ⟨h.1, ih _ (by omega) (fun e he => hk e (by simp [he])) h.2⟩

/-- A write keeps the canonical form. -/
theorem wf_set (d : Nat → α) (m : List (Nat × α)) (k : Nat) (v : α) (h : wf d m = true) : wf d (set d m k v) = true := by
  unfold set
  split
  · exact wfFrom_erase d k m 0 h
  · next hv => exact wfFrom_insert d k v hv _ 0 (by omega) (key_ne_of_mem_erase m k) (wfFrom_erase d k m 0 h)

/-- The form as a sorted list of entries that differ from the default. -/
theorem wfFrom_iff (d : Nat → α) (m : List (Nat × α)) : ∀ lo, wfFrom d lo m = true ↔
    (m.Pairwise fun a b => a.1 < b.1) ∧ ∀ e ∈ m, lo ≤ e.1 ∧ e.2 ≠ d e.1 := by
  induction m with
  | nil => intro lo; simp [wfFrom]
  | cons e m ih =>
    obtain ⟨i, v⟩ := e
    intro lo
    simp only [wfFrom, Bool.and_eq_true, decide_eq_true_eq, ih, List.pairwise_cons, List.mem_cons]
    constructor
    · rintro ⟨⟨hlo, hv⟩, hp, hm⟩
      refine ⟨⟨fun e he => by have := hm e he; omega, hp⟩, ?_⟩
      rintro e (rfl | he)
      · exact ⟨hlo, hv⟩
      · have := hm e he
        exact ⟨by omega, this.2⟩
    · rintro ⟨⟨hlt, hp⟩, hm⟩
      refine ⟨⟨(hm (i, v) (.inl rfl)).1, (hm (i, v) (.inl rfl)).2⟩, hp, fun e he => ⟨?_, (hm e (.inr he)).2⟩⟩
      have := hlt e he
      omega

theorem entries_spec (d : α) (vs : List α) : ∀ k, ((entries d k vs).Pairwise fun a b => a.1 < b.1) ∧
    ∀ e ∈ entries d k vs, k ≤ e.1 ∧ e.1 < k + vs.length ∧ e.2 ≠ d := by
  induction vs with
  | nil => intro k; simp [entries]
  | cons v vs ih =>
    intro k
    obtain ⟨hp, hm⟩ := ih (k + 1)
    simp only [entries]
    split
    · refine ⟨hp, fun e he => ?_⟩
      have := hm e he
      simp only [List.length_cons]
      exact ⟨by omega, by omega, this.2.2⟩
    · next hv =>
      refine ⟨List.pairwise_cons.2 ⟨fun e he => by have := hm e he; simp only; omega, hp⟩, fun e he => ?_⟩
      rcases List.mem_cons.1 he with rfl | he
      · exact ⟨Nat.le_refl _, by simp, hv⟩
      · have := hm e he
        simp only [List.length_cons]
        exact ⟨by omega, by omega, this.2.2⟩

/-- Storing a run of values keeps the canonical form of a table whose unlisted keys all read alike. -/
theorem wf_setRange (d : α) (m : List (Nat × α)) (k : Nat) (vs : List α) (h : wf (fun _ => d) m = true) :
    wf (fun _ => d) (setRange d m k vs) = true := by
  unfold wf at *
  rw [wfFrom_iff] at h ⊢
  obtain ⟨hp, hm⟩ := h
  obtain ⟨ep, em⟩ := entries_spec d vs k
  unfold setRange
  refine ⟨?_, ?_⟩
  · rw [List.pairwise_append, List.pairwise_append]
    refine ⟨⟨hp.filter _, ep, ?_⟩, hp.filter _, ?_⟩
    · intro a ha b hb
      have h1 := (List.mem_filter.1 ha).2
      have h2 := em b hb
      simp only [decide_eq_true_eq] at h1
      omega
    · intro a ha b hb
      have h2 := (List.mem_filter.1 hb).2
      simp only [decide_eq_true_eq] at h2
      rcases List.mem_append.1 ha with ha | ha
      · have h1 := (List.mem_filter.1 ha).2
        simp only [decide_eq_true_eq] at h1
        omega
      · have := em a ha
        omega
  · intro e he
    rcases List.mem_append.1 he with he | he
    · rcases List.mem_append.1 he with he | he
      · exact hm e (List.mem_filter.1 he).1
      · exact ⟨Nat.zero_le _, (em e he).2.2⟩
    · exact hm e (List.mem_filter.1 he).1

/-- A table in canonical form is empty exactly when every key reads the default. -/
theorem wf_nil (d : Nat → α) : wf d ([] : List (Nat × α)) = true := rfl

end Sys2Proof.Machine.Sparse
end

