-- ==== Sys2Proof/Laws/State.lean ====
section
/-! SUPPORT. What each update of State leaves in each field, true by unfolding, and what the register readers give after an
update that is none of a register. -/

namespace Sys2Proof.Machine.State

/-! ### setReg -/

@[simp] theorem setReg_pending (s : State) (a : Nat) (w : Word) : (s.setReg a w).pending = s.pending := rfl
@[simp] theorem setReg_shV (s : State) (a : Nat) (w : Word) : (s.setReg a w).shV = s.shV := rfl
@[simp] theorem setReg_shM (s : State) (a : Nat) (w : Word) : (s.setReg a w).shM = s.shM := rfl
@[simp] theorem setReg_resp (s : State) (a : Nat) (w : Word) : (s.setReg a w).resp = s.resp := rfl
@[simp] theorem setReg_rdata (s : State) (a : Nat) (w : Word) : (s.setReg a w).rdata = s.rdata := rfl
@[simp] theorem setReg_tocPend (s : State) (a : Nat) (w : Word) : (s.setReg a w).tocPend = s.tocPend := rfl
@[simp] theorem setReg_freeCount (s : State) (a : Nat) (w : Word) : (s.setReg a w).freeCount = s.freeCount := rfl
@[simp] theorem setReg_sys (s : State) (a : Nat) (w : Word) : (s.setReg a w).sys = s.sys := rfl
@[simp] theorem setReg_mem (s : State) (a : Nat) (w : Word) : (s.setReg a w).mem = s.mem := rfl
@[simp] theorem setReg_dma (s : State) (a : Nat) (w : Word) : (s.setReg a w).dma = s.dma := rfl
@[simp] theorem setReg_tbu (s : State) (a : Nat) (w : Word) : (s.setReg a w).tbu = s.tbu := rfl
@[simp] theorem setReg_drl (s : State) (a : Nat) (w : Word) : (s.setReg a w).drl = s.drl := rfl
@[simp] theorem setReg_tio (s : State) (a : Nat) (w : Word) : (s.setReg a w).tio = s.tio := rfl
@[simp] theorem setReg_pmu (s : State) (a : Nat) (w : Word) : (s.setReg a w).pmu = s.pmu := rfl
@[simp] theorem setReg_clk (s : State) (a : Nat) (w : Word) : (s.setReg a w).clk = s.clk := rfl
@[simp] theorem setReg_cmon (s : State) (a : Nat) (w : Word) : (s.setReg a w).cmon = s.cmon := rfl
@[simp] theorem setReg_rfs (s : State) (a : Nat) (w : Word) : (s.setReg a w).rfs = s.rfs := rfl
@[simp] theorem setReg_toc (s : State) (a : Nat) (w : Word) : (s.setReg a w).toc = s.toc := rfl
@[simp] theorem setReg_cores (s : State) (a : Nat) (w : Word) : (s.setReg a w).cores = s.cores := rfl
@[simp] theorem setReg_dfe (s : State) (a : Nat) (w : Word) : (s.setReg a w).dfe = s.dfe := rfl
@[simp] theorem setReg_arr (s : State) (a : Nat) (w : Word) : (s.setReg a w).arr = s.arr := rfl
@[simp] theorem setReg_pair (s : State) (a : Nat) (w : Word) : (s.setReg a w).pair = s.pair := rfl
@[simp] theorem setReg_acq (s : State) (a : Nat) (w : Word) : (s.setReg a w).acq = s.acq := rfl
@[simp] theorem setReg_cor (s : State) (a : Nat) (w : Word) : (s.setReg a w).cor = s.cor := rfl
@[simp] theorem setReg_chs (s : State) (a : Nat) (w : Word) : (s.setReg a w).chs = s.chs := rfl
@[simp] theorem setReg_ptp (s : State) (a : Nat) (w : Word) : (s.setReg a w).ptp = s.ptp := rfl
@[simp] theorem setReg_nym (s : State) (a : Nat) (w : Word) : (s.setReg a w).nym = s.nym := rfl
@[simp] theorem setReg_aon (s : State) (a : Nat) (w : Word) : (s.setReg a w).aon = s.aon := rfl
@[simp] theorem setReg_host (s : State) (a : Nat) (w : Word) : (s.setReg a w).host = s.host := rfl
@[simp] theorem setReg_sig (s : State) (a : Nat) (w : Word) : (s.setReg a w).sig = s.sig := rfl

/-! ### setFld -/

@[simp] theorem setFld_pending (s : State) (f : Fld) (v : Nat) : (s.setFld f v).pending = s.pending := setReg_pending s f.addr _
@[simp] theorem setFld_shV (s : State) (f : Fld) (v : Nat) : (s.setFld f v).shV = s.shV := setReg_shV s f.addr _
@[simp] theorem setFld_shM (s : State) (f : Fld) (v : Nat) : (s.setFld f v).shM = s.shM := setReg_shM s f.addr _
@[simp] theorem setFld_resp (s : State) (f : Fld) (v : Nat) : (s.setFld f v).resp = s.resp := setReg_resp s f.addr _
@[simp] theorem setFld_rdata (s : State) (f : Fld) (v : Nat) : (s.setFld f v).rdata = s.rdata := setReg_rdata s f.addr _
@[simp] theorem setFld_tocPend (s : State) (f : Fld) (v : Nat) : (s.setFld f v).tocPend = s.tocPend := setReg_tocPend s f.addr _
@[simp] theorem setFld_freeCount (s : State) (f : Fld) (v : Nat) : (s.setFld f v).freeCount = s.freeCount := setReg_freeCount s f.addr _
@[simp] theorem setFld_sys (s : State) (f : Fld) (v : Nat) : (s.setFld f v).sys = s.sys := setReg_sys s f.addr _
@[simp] theorem setFld_mem (s : State) (f : Fld) (v : Nat) : (s.setFld f v).mem = s.mem := setReg_mem s f.addr _
@[simp] theorem setFld_dma (s : State) (f : Fld) (v : Nat) : (s.setFld f v).dma = s.dma := setReg_dma s f.addr _
@[simp] theorem setFld_tbu (s : State) (f : Fld) (v : Nat) : (s.setFld f v).tbu = s.tbu := setReg_tbu s f.addr _
@[simp] theorem setFld_drl (s : State) (f : Fld) (v : Nat) : (s.setFld f v).drl = s.drl := setReg_drl s f.addr _
@[simp] theorem setFld_tio (s : State) (f : Fld) (v : Nat) : (s.setFld f v).tio = s.tio := setReg_tio s f.addr _
@[simp] theorem setFld_pmu (s : State) (f : Fld) (v : Nat) : (s.setFld f v).pmu = s.pmu := setReg_pmu s f.addr _
@[simp] theorem setFld_clk (s : State) (f : Fld) (v : Nat) : (s.setFld f v).clk = s.clk := setReg_clk s f.addr _
@[simp] theorem setFld_cmon (s : State) (f : Fld) (v : Nat) : (s.setFld f v).cmon = s.cmon := setReg_cmon s f.addr _
@[simp] theorem setFld_rfs (s : State) (f : Fld) (v : Nat) : (s.setFld f v).rfs = s.rfs := setReg_rfs s f.addr _
@[simp] theorem setFld_toc (s : State) (f : Fld) (v : Nat) : (s.setFld f v).toc = s.toc := setReg_toc s f.addr _
@[simp] theorem setFld_cores (s : State) (f : Fld) (v : Nat) : (s.setFld f v).cores = s.cores := setReg_cores s f.addr _
@[simp] theorem setFld_dfe (s : State) (f : Fld) (v : Nat) : (s.setFld f v).dfe = s.dfe := setReg_dfe s f.addr _
@[simp] theorem setFld_arr (s : State) (f : Fld) (v : Nat) : (s.setFld f v).arr = s.arr := setReg_arr s f.addr _
@[simp] theorem setFld_pair (s : State) (f : Fld) (v : Nat) : (s.setFld f v).pair = s.pair := setReg_pair s f.addr _
@[simp] theorem setFld_acq (s : State) (f : Fld) (v : Nat) : (s.setFld f v).acq = s.acq := setReg_acq s f.addr _
@[simp] theorem setFld_cor (s : State) (f : Fld) (v : Nat) : (s.setFld f v).cor = s.cor := setReg_cor s f.addr _
@[simp] theorem setFld_chs (s : State) (f : Fld) (v : Nat) : (s.setFld f v).chs = s.chs := setReg_chs s f.addr _
@[simp] theorem setFld_ptp (s : State) (f : Fld) (v : Nat) : (s.setFld f v).ptp = s.ptp := setReg_ptp s f.addr _
@[simp] theorem setFld_nym (s : State) (f : Fld) (v : Nat) : (s.setFld f v).nym = s.nym := setReg_nym s f.addr _
@[simp] theorem setFld_aon (s : State) (f : Fld) (v : Nat) : (s.setFld f v).aon = s.aon := setReg_aon s f.addr _
@[simp] theorem setFld_host (s : State) (f : Fld) (v : Nat) : (s.setFld f v).host = s.host := setReg_host s f.addr _
@[simp] theorem setFld_sig (s : State) (f : Fld) (v : Nat) : (s.setFld f v).sig = s.sig := setReg_sig s f.addr _

/-! ### setFlag -/

@[simp] theorem setFlag_pending (s : State) (f : Fld) (b : Bool) : (s.setFlag f b).pending = s.pending := setFld_pending s f _
@[simp] theorem setFlag_shV (s : State) (f : Fld) (b : Bool) : (s.setFlag f b).shV = s.shV := setFld_shV s f _
@[simp] theorem setFlag_shM (s : State) (f : Fld) (b : Bool) : (s.setFlag f b).shM = s.shM := setFld_shM s f _
@[simp] theorem setFlag_resp (s : State) (f : Fld) (b : Bool) : (s.setFlag f b).resp = s.resp := setFld_resp s f _
@[simp] theorem setFlag_rdata (s : State) (f : Fld) (b : Bool) : (s.setFlag f b).rdata = s.rdata := setFld_rdata s f _
@[simp] theorem setFlag_tocPend (s : State) (f : Fld) (b : Bool) : (s.setFlag f b).tocPend = s.tocPend := setFld_tocPend s f _
@[simp] theorem setFlag_freeCount (s : State) (f : Fld) (b : Bool) : (s.setFlag f b).freeCount = s.freeCount := setFld_freeCount s f _
@[simp] theorem setFlag_sys (s : State) (f : Fld) (b : Bool) : (s.setFlag f b).sys = s.sys := setFld_sys s f _
@[simp] theorem setFlag_mem (s : State) (f : Fld) (b : Bool) : (s.setFlag f b).mem = s.mem := setFld_mem s f _
@[simp] theorem setFlag_dma (s : State) (f : Fld) (b : Bool) : (s.setFlag f b).dma = s.dma := setFld_dma s f _
@[simp] theorem setFlag_tbu (s : State) (f : Fld) (b : Bool) : (s.setFlag f b).tbu = s.tbu := setFld_tbu s f _
@[simp] theorem setFlag_drl (s : State) (f : Fld) (b : Bool) : (s.setFlag f b).drl = s.drl := setFld_drl s f _
@[simp] theorem setFlag_tio (s : State) (f : Fld) (b : Bool) : (s.setFlag f b).tio = s.tio := setFld_tio s f _
@[simp] theorem setFlag_pmu (s : State) (f : Fld) (b : Bool) : (s.setFlag f b).pmu = s.pmu := setFld_pmu s f _
@[simp] theorem setFlag_clk (s : State) (f : Fld) (b : Bool) : (s.setFlag f b).clk = s.clk := setFld_clk s f _
@[simp] theorem setFlag_cmon (s : State) (f : Fld) (b : Bool) : (s.setFlag f b).cmon = s.cmon := setFld_cmon s f _
@[simp] theorem setFlag_rfs (s : State) (f : Fld) (b : Bool) : (s.setFlag f b).rfs = s.rfs := setFld_rfs s f _
@[simp] theorem setFlag_toc (s : State) (f : Fld) (b : Bool) : (s.setFlag f b).toc = s.toc := setFld_toc s f _
@[simp] theorem setFlag_cores (s : State) (f : Fld) (b : Bool) : (s.setFlag f b).cores = s.cores := setFld_cores s f _
@[simp] theorem setFlag_dfe (s : State) (f : Fld) (b : Bool) : (s.setFlag f b).dfe = s.dfe := setFld_dfe s f _
@[simp] theorem setFlag_arr (s : State) (f : Fld) (b : Bool) : (s.setFlag f b).arr = s.arr := setFld_arr s f _
@[simp] theorem setFlag_pair (s : State) (f : Fld) (b : Bool) : (s.setFlag f b).pair = s.pair := setFld_pair s f _
@[simp] theorem setFlag_acq (s : State) (f : Fld) (b : Bool) : (s.setFlag f b).acq = s.acq := setFld_acq s f _
@[simp] theorem setFlag_cor (s : State) (f : Fld) (b : Bool) : (s.setFlag f b).cor = s.cor := setFld_cor s f _
@[simp] theorem setFlag_chs (s : State) (f : Fld) (b : Bool) : (s.setFlag f b).chs = s.chs := setFld_chs s f _
@[simp] theorem setFlag_ptp (s : State) (f : Fld) (b : Bool) : (s.setFlag f b).ptp = s.ptp := setFld_ptp s f _
@[simp] theorem setFlag_nym (s : State) (f : Fld) (b : Bool) : (s.setFlag f b).nym = s.nym := setFld_nym s f _
@[simp] theorem setFlag_aon (s : State) (f : Fld) (b : Bool) : (s.setFlag f b).aon = s.aon := setFld_aon s f _
@[simp] theorem setFlag_host (s : State) (f : Fld) (b : Bool) : (s.setFlag f b).host = s.host := setFld_host s f _
@[simp] theorem setFlag_sig (s : State) (f : Fld) (b : Bool) : (s.setFlag f b).sig = s.sig := setFld_sig s f _

/-! ### setFldI -/

@[simp] theorem setFldI_pending (s : State) (f : Fld) (v : Int) : (s.setFldI f v).pending = s.pending := setFld_pending s f _
@[simp] theorem setFldI_shV (s : State) (f : Fld) (v : Int) : (s.setFldI f v).shV = s.shV := setFld_shV s f _
@[simp] theorem setFldI_shM (s : State) (f : Fld) (v : Int) : (s.setFldI f v).shM = s.shM := setFld_shM s f _
@[simp] theorem setFldI_resp (s : State) (f : Fld) (v : Int) : (s.setFldI f v).resp = s.resp := setFld_resp s f _
@[simp] theorem setFldI_rdata (s : State) (f : Fld) (v : Int) : (s.setFldI f v).rdata = s.rdata := setFld_rdata s f _
@[simp] theorem setFldI_tocPend (s : State) (f : Fld) (v : Int) : (s.setFldI f v).tocPend = s.tocPend := setFld_tocPend s f _
@[simp] theorem setFldI_freeCount (s : State) (f : Fld) (v : Int) : (s.setFldI f v).freeCount = s.freeCount := setFld_freeCount s f _
@[simp] theorem setFldI_sys (s : State) (f : Fld) (v : Int) : (s.setFldI f v).sys = s.sys := setFld_sys s f _
@[simp] theorem setFldI_mem (s : State) (f : Fld) (v : Int) : (s.setFldI f v).mem = s.mem := setFld_mem s f _
@[simp] theorem setFldI_dma (s : State) (f : Fld) (v : Int) : (s.setFldI f v).dma = s.dma := setFld_dma s f _
@[simp] theorem setFldI_tbu (s : State) (f : Fld) (v : Int) : (s.setFldI f v).tbu = s.tbu := setFld_tbu s f _
@[simp] theorem setFldI_drl (s : State) (f : Fld) (v : Int) : (s.setFldI f v).drl = s.drl := setFld_drl s f _
@[simp] theorem setFldI_tio (s : State) (f : Fld) (v : Int) : (s.setFldI f v).tio = s.tio := setFld_tio s f _
@[simp] theorem setFldI_pmu (s : State) (f : Fld) (v : Int) : (s.setFldI f v).pmu = s.pmu := setFld_pmu s f _
@[simp] theorem setFldI_clk (s : State) (f : Fld) (v : Int) : (s.setFldI f v).clk = s.clk := setFld_clk s f _
@[simp] theorem setFldI_cmon (s : State) (f : Fld) (v : Int) : (s.setFldI f v).cmon = s.cmon := setFld_cmon s f _
@[simp] theorem setFldI_rfs (s : State) (f : Fld) (v : Int) : (s.setFldI f v).rfs = s.rfs := setFld_rfs s f _
@[simp] theorem setFldI_toc (s : State) (f : Fld) (v : Int) : (s.setFldI f v).toc = s.toc := setFld_toc s f _
@[simp] theorem setFldI_cores (s : State) (f : Fld) (v : Int) : (s.setFldI f v).cores = s.cores := setFld_cores s f _
@[simp] theorem setFldI_dfe (s : State) (f : Fld) (v : Int) : (s.setFldI f v).dfe = s.dfe := setFld_dfe s f _
@[simp] theorem setFldI_arr (s : State) (f : Fld) (v : Int) : (s.setFldI f v).arr = s.arr := setFld_arr s f _
@[simp] theorem setFldI_pair (s : State) (f : Fld) (v : Int) : (s.setFldI f v).pair = s.pair := setFld_pair s f _
@[simp] theorem setFldI_acq (s : State) (f : Fld) (v : Int) : (s.setFldI f v).acq = s.acq := setFld_acq s f _
@[simp] theorem setFldI_cor (s : State) (f : Fld) (v : Int) : (s.setFldI f v).cor = s.cor := setFld_cor s f _
@[simp] theorem setFldI_chs (s : State) (f : Fld) (v : Int) : (s.setFldI f v).chs = s.chs := setFld_chs s f _
@[simp] theorem setFldI_ptp (s : State) (f : Fld) (v : Int) : (s.setFldI f v).ptp = s.ptp := setFld_ptp s f _
@[simp] theorem setFldI_nym (s : State) (f : Fld) (v : Int) : (s.setFldI f v).nym = s.nym := setFld_nym s f _
@[simp] theorem setFldI_aon (s : State) (f : Fld) (v : Int) : (s.setFldI f v).aon = s.aon := setFld_aon s f _
@[simp] theorem setFldI_host (s : State) (f : Fld) (v : Int) : (s.setFldI f v).host = s.host := setFld_host s f _
@[simp] theorem setFldI_sig (s : State) (f : Fld) (v : Int) : (s.setFldI f v).sig = s.sig := setFld_sig s f _

/-! ### setRegBit -/

@[simp] theorem setRegBit_pending (s : State) (a i : Nat) (b : Bool) : (s.setRegBit a i b).pending = s.pending := setReg_pending s a _
@[simp] theorem setRegBit_shV (s : State) (a i : Nat) (b : Bool) : (s.setRegBit a i b).shV = s.shV := setReg_shV s a _
@[simp] theorem setRegBit_shM (s : State) (a i : Nat) (b : Bool) : (s.setRegBit a i b).shM = s.shM := setReg_shM s a _
@[simp] theorem setRegBit_resp (s : State) (a i : Nat) (b : Bool) : (s.setRegBit a i b).resp = s.resp := setReg_resp s a _
@[simp] theorem setRegBit_rdata (s : State) (a i : Nat) (b : Bool) : (s.setRegBit a i b).rdata = s.rdata := setReg_rdata s a _
@[simp] theorem setRegBit_tocPend (s : State) (a i : Nat) (b : Bool) : (s.setRegBit a i b).tocPend = s.tocPend := setReg_tocPend s a _
@[simp] theorem setRegBit_freeCount (s : State) (a i : Nat) (b : Bool) : (s.setRegBit a i b).freeCount = s.freeCount := setReg_freeCount s a _
@[simp] theorem setRegBit_sys (s : State) (a i : Nat) (b : Bool) : (s.setRegBit a i b).sys = s.sys := setReg_sys s a _
@[simp] theorem setRegBit_mem (s : State) (a i : Nat) (b : Bool) : (s.setRegBit a i b).mem = s.mem := setReg_mem s a _
@[simp] theorem setRegBit_dma (s : State) (a i : Nat) (b : Bool) : (s.setRegBit a i b).dma = s.dma := setReg_dma s a _
@[simp] theorem setRegBit_tbu (s : State) (a i : Nat) (b : Bool) : (s.setRegBit a i b).tbu = s.tbu := setReg_tbu s a _
@[simp] theorem setRegBit_drl (s : State) (a i : Nat) (b : Bool) : (s.setRegBit a i b).drl = s.drl := setReg_drl s a _
@[simp] theorem setRegBit_tio (s : State) (a i : Nat) (b : Bool) : (s.setRegBit a i b).tio = s.tio := setReg_tio s a _
@[simp] theorem setRegBit_pmu (s : State) (a i : Nat) (b : Bool) : (s.setRegBit a i b).pmu = s.pmu := setReg_pmu s a _
@[simp] theorem setRegBit_clk (s : State) (a i : Nat) (b : Bool) : (s.setRegBit a i b).clk = s.clk := setReg_clk s a _
@[simp] theorem setRegBit_cmon (s : State) (a i : Nat) (b : Bool) : (s.setRegBit a i b).cmon = s.cmon := setReg_cmon s a _
@[simp] theorem setRegBit_rfs (s : State) (a i : Nat) (b : Bool) : (s.setRegBit a i b).rfs = s.rfs := setReg_rfs s a _
@[simp] theorem setRegBit_toc (s : State) (a i : Nat) (b : Bool) : (s.setRegBit a i b).toc = s.toc := setReg_toc s a _
@[simp] theorem setRegBit_cores (s : State) (a i : Nat) (b : Bool) : (s.setRegBit a i b).cores = s.cores := setReg_cores s a _
@[simp] theorem setRegBit_dfe (s : State) (a i : Nat) (b : Bool) : (s.setRegBit a i b).dfe = s.dfe := setReg_dfe s a _
@[simp] theorem setRegBit_arr (s : State) (a i : Nat) (b : Bool) : (s.setRegBit a i b).arr = s.arr := setReg_arr s a _
@[simp] theorem setRegBit_pair (s : State) (a i : Nat) (b : Bool) : (s.setRegBit a i b).pair = s.pair := setReg_pair s a _
@[simp] theorem setRegBit_acq (s : State) (a i : Nat) (b : Bool) : (s.setRegBit a i b).acq = s.acq := setReg_acq s a _
@[simp] theorem setRegBit_cor (s : State) (a i : Nat) (b : Bool) : (s.setRegBit a i b).cor = s.cor := setReg_cor s a _
@[simp] theorem setRegBit_chs (s : State) (a i : Nat) (b : Bool) : (s.setRegBit a i b).chs = s.chs := setReg_chs s a _
@[simp] theorem setRegBit_ptp (s : State) (a i : Nat) (b : Bool) : (s.setRegBit a i b).ptp = s.ptp := setReg_ptp s a _
@[simp] theorem setRegBit_nym (s : State) (a i : Nat) (b : Bool) : (s.setRegBit a i b).nym = s.nym := setReg_nym s a _
@[simp] theorem setRegBit_aon (s : State) (a i : Nat) (b : Bool) : (s.setRegBit a i b).aon = s.aon := setReg_aon s a _
@[simp] theorem setRegBit_host (s : State) (a i : Nat) (b : Bool) : (s.setRegBit a i b).host = s.host := setReg_host s a _
@[simp] theorem setRegBit_sig (s : State) (a i : Nat) (b : Bool) : (s.setRegBit a i b).sig = s.sig := setReg_sig s a _

/-! ### irq -/

@[simp] theorem irq_pending (s : State) (p b : Nat) : (s.irq p b).pending = s.pending := setRegBit_pending s _ b true
@[simp] theorem irq_shV (s : State) (p b : Nat) : (s.irq p b).shV = s.shV := setRegBit_shV s _ b true
@[simp] theorem irq_shM (s : State) (p b : Nat) : (s.irq p b).shM = s.shM := setRegBit_shM s _ b true
@[simp] theorem irq_resp (s : State) (p b : Nat) : (s.irq p b).resp = s.resp := setRegBit_resp s _ b true
@[simp] theorem irq_rdata (s : State) (p b : Nat) : (s.irq p b).rdata = s.rdata := setRegBit_rdata s _ b true
@[simp] theorem irq_tocPend (s : State) (p b : Nat) : (s.irq p b).tocPend = s.tocPend := setRegBit_tocPend s _ b true
@[simp] theorem irq_freeCount (s : State) (p b : Nat) : (s.irq p b).freeCount = s.freeCount := setRegBit_freeCount s _ b true
@[simp] theorem irq_sys (s : State) (p b : Nat) : (s.irq p b).sys = s.sys := setRegBit_sys s _ b true
@[simp] theorem irq_mem (s : State) (p b : Nat) : (s.irq p b).mem = s.mem := setRegBit_mem s _ b true
@[simp] theorem irq_dma (s : State) (p b : Nat) : (s.irq p b).dma = s.dma := setRegBit_dma s _ b true
@[simp] theorem irq_tbu (s : State) (p b : Nat) : (s.irq p b).tbu = s.tbu := setRegBit_tbu s _ b true
@[simp] theorem irq_drl (s : State) (p b : Nat) : (s.irq p b).drl = s.drl := setRegBit_drl s _ b true
@[simp] theorem irq_tio (s : State) (p b : Nat) : (s.irq p b).tio = s.tio := setRegBit_tio s _ b true
@[simp] theorem irq_pmu (s : State) (p b : Nat) : (s.irq p b).pmu = s.pmu := setRegBit_pmu s _ b true
@[simp] theorem irq_clk (s : State) (p b : Nat) : (s.irq p b).clk = s.clk := setRegBit_clk s _ b true
@[simp] theorem irq_cmon (s : State) (p b : Nat) : (s.irq p b).cmon = s.cmon := setRegBit_cmon s _ b true
@[simp] theorem irq_rfs (s : State) (p b : Nat) : (s.irq p b).rfs = s.rfs := setRegBit_rfs s _ b true
@[simp] theorem irq_toc (s : State) (p b : Nat) : (s.irq p b).toc = s.toc := setRegBit_toc s _ b true
@[simp] theorem irq_cores (s : State) (p b : Nat) : (s.irq p b).cores = s.cores := setRegBit_cores s _ b true
@[simp] theorem irq_dfe (s : State) (p b : Nat) : (s.irq p b).dfe = s.dfe := setRegBit_dfe s _ b true
@[simp] theorem irq_arr (s : State) (p b : Nat) : (s.irq p b).arr = s.arr := setRegBit_arr s _ b true
@[simp] theorem irq_pair (s : State) (p b : Nat) : (s.irq p b).pair = s.pair := setRegBit_pair s _ b true
@[simp] theorem irq_acq (s : State) (p b : Nat) : (s.irq p b).acq = s.acq := setRegBit_acq s _ b true
@[simp] theorem irq_cor (s : State) (p b : Nat) : (s.irq p b).cor = s.cor := setRegBit_cor s _ b true
@[simp] theorem irq_chs (s : State) (p b : Nat) : (s.irq p b).chs = s.chs := setRegBit_chs s _ b true
@[simp] theorem irq_ptp (s : State) (p b : Nat) : (s.irq p b).ptp = s.ptp := setRegBit_ptp s _ b true
@[simp] theorem irq_nym (s : State) (p b : Nat) : (s.irq p b).nym = s.nym := setRegBit_nym s _ b true
@[simp] theorem irq_aon (s : State) (p b : Nat) : (s.irq p b).aon = s.aon := setRegBit_aon s _ b true
@[simp] theorem irq_host (s : State) (p b : Nat) : (s.irq p b).host = s.host := setRegBit_host s _ b true
@[simp] theorem irq_sig (s : State) (p b : Nat) : (s.irq p b).sig = s.sig := setRegBit_sig s _ b true

/-! ### satFld -/

@[simp] theorem satFld_pending (s : State) (f : Fld) (k : Nat) : (s.satFld f k).pending = s.pending := setFld_pending s f _
@[simp] theorem satFld_shV (s : State) (f : Fld) (k : Nat) : (s.satFld f k).shV = s.shV := setFld_shV s f _
@[simp] theorem satFld_shM (s : State) (f : Fld) (k : Nat) : (s.satFld f k).shM = s.shM := setFld_shM s f _
@[simp] theorem satFld_resp (s : State) (f : Fld) (k : Nat) : (s.satFld f k).resp = s.resp := setFld_resp s f _
@[simp] theorem satFld_rdata (s : State) (f : Fld) (k : Nat) : (s.satFld f k).rdata = s.rdata := setFld_rdata s f _
@[simp] theorem satFld_tocPend (s : State) (f : Fld) (k : Nat) : (s.satFld f k).tocPend = s.tocPend := setFld_tocPend s f _
@[simp] theorem satFld_freeCount (s : State) (f : Fld) (k : Nat) : (s.satFld f k).freeCount = s.freeCount := setFld_freeCount s f _
@[simp] theorem satFld_sys (s : State) (f : Fld) (k : Nat) : (s.satFld f k).sys = s.sys := setFld_sys s f _
@[simp] theorem satFld_mem (s : State) (f : Fld) (k : Nat) : (s.satFld f k).mem = s.mem := setFld_mem s f _
@[simp] theorem satFld_dma (s : State) (f : Fld) (k : Nat) : (s.satFld f k).dma = s.dma := setFld_dma s f _
@[simp] theorem satFld_tbu (s : State) (f : Fld) (k : Nat) : (s.satFld f k).tbu = s.tbu := setFld_tbu s f _
@[simp] theorem satFld_drl (s : State) (f : Fld) (k : Nat) : (s.satFld f k).drl = s.drl := setFld_drl s f _
@[simp] theorem satFld_tio (s : State) (f : Fld) (k : Nat) : (s.satFld f k).tio = s.tio := setFld_tio s f _
@[simp] theorem satFld_pmu (s : State) (f : Fld) (k : Nat) : (s.satFld f k).pmu = s.pmu := setFld_pmu s f _
@[simp] theorem satFld_clk (s : State) (f : Fld) (k : Nat) : (s.satFld f k).clk = s.clk := setFld_clk s f _
@[simp] theorem satFld_cmon (s : State) (f : Fld) (k : Nat) : (s.satFld f k).cmon = s.cmon := setFld_cmon s f _
@[simp] theorem satFld_rfs (s : State) (f : Fld) (k : Nat) : (s.satFld f k).rfs = s.rfs := setFld_rfs s f _
@[simp] theorem satFld_toc (s : State) (f : Fld) (k : Nat) : (s.satFld f k).toc = s.toc := setFld_toc s f _
@[simp] theorem satFld_cores (s : State) (f : Fld) (k : Nat) : (s.satFld f k).cores = s.cores := setFld_cores s f _
@[simp] theorem satFld_dfe (s : State) (f : Fld) (k : Nat) : (s.satFld f k).dfe = s.dfe := setFld_dfe s f _
@[simp] theorem satFld_arr (s : State) (f : Fld) (k : Nat) : (s.satFld f k).arr = s.arr := setFld_arr s f _
@[simp] theorem satFld_pair (s : State) (f : Fld) (k : Nat) : (s.satFld f k).pair = s.pair := setFld_pair s f _
@[simp] theorem satFld_acq (s : State) (f : Fld) (k : Nat) : (s.satFld f k).acq = s.acq := setFld_acq s f _
@[simp] theorem satFld_cor (s : State) (f : Fld) (k : Nat) : (s.satFld f k).cor = s.cor := setFld_cor s f _
@[simp] theorem satFld_chs (s : State) (f : Fld) (k : Nat) : (s.satFld f k).chs = s.chs := setFld_chs s f _
@[simp] theorem satFld_ptp (s : State) (f : Fld) (k : Nat) : (s.satFld f k).ptp = s.ptp := setFld_ptp s f _
@[simp] theorem satFld_nym (s : State) (f : Fld) (k : Nat) : (s.satFld f k).nym = s.nym := setFld_nym s f _
@[simp] theorem satFld_aon (s : State) (f : Fld) (k : Nat) : (s.satFld f k).aon = s.aon := setFld_aon s f _
@[simp] theorem satFld_host (s : State) (f : Fld) (k : Nat) : (s.satFld f k).host = s.host := setFld_host s f _
@[simp] theorem satFld_sig (s : State) (f : Fld) (k : Nat) : (s.satFld f k).sig = s.sig := setFld_sig s f _

/-! ### addFld -/

@[simp] theorem addFld_pending (s : State) (f : Fld) (k : Nat) : (s.addFld f k).pending = s.pending := setFld_pending s f _
@[simp] theorem addFld_shV (s : State) (f : Fld) (k : Nat) : (s.addFld f k).shV = s.shV := setFld_shV s f _
@[simp] theorem addFld_shM (s : State) (f : Fld) (k : Nat) : (s.addFld f k).shM = s.shM := setFld_shM s f _
@[simp] theorem addFld_resp (s : State) (f : Fld) (k : Nat) : (s.addFld f k).resp = s.resp := setFld_resp s f _
@[simp] theorem addFld_rdata (s : State) (f : Fld) (k : Nat) : (s.addFld f k).rdata = s.rdata := setFld_rdata s f _
@[simp] theorem addFld_tocPend (s : State) (f : Fld) (k : Nat) : (s.addFld f k).tocPend = s.tocPend := setFld_tocPend s f _
@[simp] theorem addFld_freeCount (s : State) (f : Fld) (k : Nat) : (s.addFld f k).freeCount = s.freeCount := setFld_freeCount s f _
@[simp] theorem addFld_sys (s : State) (f : Fld) (k : Nat) : (s.addFld f k).sys = s.sys := setFld_sys s f _
@[simp] theorem addFld_mem (s : State) (f : Fld) (k : Nat) : (s.addFld f k).mem = s.mem := setFld_mem s f _
@[simp] theorem addFld_dma (s : State) (f : Fld) (k : Nat) : (s.addFld f k).dma = s.dma := setFld_dma s f _
@[simp] theorem addFld_tbu (s : State) (f : Fld) (k : Nat) : (s.addFld f k).tbu = s.tbu := setFld_tbu s f _
@[simp] theorem addFld_drl (s : State) (f : Fld) (k : Nat) : (s.addFld f k).drl = s.drl := setFld_drl s f _
@[simp] theorem addFld_tio (s : State) (f : Fld) (k : Nat) : (s.addFld f k).tio = s.tio := setFld_tio s f _
@[simp] theorem addFld_pmu (s : State) (f : Fld) (k : Nat) : (s.addFld f k).pmu = s.pmu := setFld_pmu s f _
@[simp] theorem addFld_clk (s : State) (f : Fld) (k : Nat) : (s.addFld f k).clk = s.clk := setFld_clk s f _
@[simp] theorem addFld_cmon (s : State) (f : Fld) (k : Nat) : (s.addFld f k).cmon = s.cmon := setFld_cmon s f _
@[simp] theorem addFld_rfs (s : State) (f : Fld) (k : Nat) : (s.addFld f k).rfs = s.rfs := setFld_rfs s f _
@[simp] theorem addFld_toc (s : State) (f : Fld) (k : Nat) : (s.addFld f k).toc = s.toc := setFld_toc s f _
@[simp] theorem addFld_cores (s : State) (f : Fld) (k : Nat) : (s.addFld f k).cores = s.cores := setFld_cores s f _
@[simp] theorem addFld_dfe (s : State) (f : Fld) (k : Nat) : (s.addFld f k).dfe = s.dfe := setFld_dfe s f _
@[simp] theorem addFld_arr (s : State) (f : Fld) (k : Nat) : (s.addFld f k).arr = s.arr := setFld_arr s f _
@[simp] theorem addFld_pair (s : State) (f : Fld) (k : Nat) : (s.addFld f k).pair = s.pair := setFld_pair s f _
@[simp] theorem addFld_acq (s : State) (f : Fld) (k : Nat) : (s.addFld f k).acq = s.acq := setFld_acq s f _
@[simp] theorem addFld_cor (s : State) (f : Fld) (k : Nat) : (s.addFld f k).cor = s.cor := setFld_cor s f _
@[simp] theorem addFld_chs (s : State) (f : Fld) (k : Nat) : (s.addFld f k).chs = s.chs := setFld_chs s f _
@[simp] theorem addFld_ptp (s : State) (f : Fld) (k : Nat) : (s.addFld f k).ptp = s.ptp := setFld_ptp s f _
@[simp] theorem addFld_nym (s : State) (f : Fld) (k : Nat) : (s.addFld f k).nym = s.nym := setFld_nym s f _
@[simp] theorem addFld_aon (s : State) (f : Fld) (k : Nat) : (s.addFld f k).aon = s.aon := setFld_aon s f _
@[simp] theorem addFld_host (s : State) (f : Fld) (k : Nat) : (s.addFld f k).host = s.host := setFld_host s f _
@[simp] theorem addFld_sig (s : State) (f : Fld) (k : Nat) : (s.addFld f k).sig = s.sig := setFld_sig s f _

/-! ### respond -/

@[simp] theorem respond_pending (s : State) (r : Resp) : (s.respond r).pending = s.pending := rfl
@[simp] theorem respond_rf (s : State) (r : Resp) : (s.respond r).rf = s.rf := rfl
@[simp] theorem respond_shV (s : State) (r : Resp) : (s.respond r).shV = s.shV := rfl
@[simp] theorem respond_shM (s : State) (r : Resp) : (s.respond r).shM = s.shM := rfl
@[simp] theorem respond_resp (s : State) (r : Resp) : (s.respond r).resp = r := rfl
@[simp] theorem respond_rdata (s : State) (r : Resp) : (s.respond r).rdata = s.rdata := rfl
@[simp] theorem respond_tocPend (s : State) (r : Resp) : (s.respond r).tocPend = s.tocPend := rfl
@[simp] theorem respond_freeCount (s : State) (r : Resp) : (s.respond r).freeCount = s.freeCount := rfl
@[simp] theorem respond_sys (s : State) (r : Resp) : (s.respond r).sys = s.sys := rfl
@[simp] theorem respond_mem (s : State) (r : Resp) : (s.respond r).mem = s.mem := rfl
@[simp] theorem respond_dma (s : State) (r : Resp) : (s.respond r).dma = s.dma := rfl
@[simp] theorem respond_tbu (s : State) (r : Resp) : (s.respond r).tbu = s.tbu := rfl
@[simp] theorem respond_drl (s : State) (r : Resp) : (s.respond r).drl = s.drl := rfl
@[simp] theorem respond_tio (s : State) (r : Resp) : (s.respond r).tio = s.tio := rfl
@[simp] theorem respond_pmu (s : State) (r : Resp) : (s.respond r).pmu = s.pmu := rfl
@[simp] theorem respond_clk (s : State) (r : Resp) : (s.respond r).clk = s.clk := rfl
@[simp] theorem respond_cmon (s : State) (r : Resp) : (s.respond r).cmon = s.cmon := rfl
@[simp] theorem respond_rfs (s : State) (r : Resp) : (s.respond r).rfs = s.rfs := rfl
@[simp] theorem respond_toc (s : State) (r : Resp) : (s.respond r).toc = s.toc := rfl
@[simp] theorem respond_cores (s : State) (r : Resp) : (s.respond r).cores = s.cores := rfl
@[simp] theorem respond_dfe (s : State) (r : Resp) : (s.respond r).dfe = s.dfe := rfl
@[simp] theorem respond_arr (s : State) (r : Resp) : (s.respond r).arr = s.arr := rfl
@[simp] theorem respond_pair (s : State) (r : Resp) : (s.respond r).pair = s.pair := rfl
@[simp] theorem respond_acq (s : State) (r : Resp) : (s.respond r).acq = s.acq := rfl
@[simp] theorem respond_cor (s : State) (r : Resp) : (s.respond r).cor = s.cor := rfl
@[simp] theorem respond_chs (s : State) (r : Resp) : (s.respond r).chs = s.chs := rfl
@[simp] theorem respond_ptp (s : State) (r : Resp) : (s.respond r).ptp = s.ptp := rfl
@[simp] theorem respond_nym (s : State) (r : Resp) : (s.respond r).nym = s.nym := rfl
@[simp] theorem respond_aon (s : State) (r : Resp) : (s.respond r).aon = s.aon := rfl
@[simp] theorem respond_host (s : State) (r : Resp) : (s.respond r).host = s.host := rfl
@[simp] theorem respond_sig (s : State) (r : Resp) : (s.respond r).sig = s.sig := rfl
@[simp] theorem respond_reg (s : State) (r : Resp) (z : Nat) : (s.respond r).reg z = s.reg z := congrArg (fun m => Sparse.get resetWord m z) (respond_rf s r)
@[simp] theorem respond_fld (s : State) (r : Resp) (z : Fld) : (s.respond r).fld z = s.fld z := congrArg (fun w => getBits w z.lsb z.width) (respond_reg s r z.addr)
@[simp] theorem respond_flag (s : State) (r : Resp) (z : Fld) : (s.respond r).flag z = s.flag z := congrArg (fun v => decide (v = 1)) (respond_fld s r z)
@[simp] theorem respond_fldI (s : State) (r : Resp) (z : Fld) : (s.respond r).fldI z = s.fldI z := congrArg (signed z.width) (respond_fld s r z)
@[simp] theorem respond_regBit (s : State) (r : Resp) (z i : Nat) : (s.respond r).regBit z i = s.regBit z i := congrArg (fun w => decide (getBits w i 1 = 1)) (respond_reg s r z)

/-! ### sysPut -/

@[simp] theorem sysPut_pending (s : State) (x : Sys) : (s.sysPut x).pending = s.pending := rfl
@[simp] theorem sysPut_rf (s : State) (x : Sys) : (s.sysPut x).rf = s.rf := rfl
@[simp] theorem sysPut_shV (s : State) (x : Sys) : (s.sysPut x).shV = s.shV := rfl
@[simp] theorem sysPut_shM (s : State) (x : Sys) : (s.sysPut x).shM = s.shM := rfl
@[simp] theorem sysPut_resp (s : State) (x : Sys) : (s.sysPut x).resp = s.resp := rfl
@[simp] theorem sysPut_rdata (s : State) (x : Sys) : (s.sysPut x).rdata = s.rdata := rfl
@[simp] theorem sysPut_tocPend (s : State) (x : Sys) : (s.sysPut x).tocPend = s.tocPend := rfl
@[simp] theorem sysPut_freeCount (s : State) (x : Sys) : (s.sysPut x).freeCount = s.freeCount := rfl
@[simp] theorem sysPut_sys (s : State) (x : Sys) : (s.sysPut x).sys = x := rfl
@[simp] theorem sysPut_mem (s : State) (x : Sys) : (s.sysPut x).mem = s.mem := rfl
@[simp] theorem sysPut_dma (s : State) (x : Sys) : (s.sysPut x).dma = s.dma := rfl
@[simp] theorem sysPut_tbu (s : State) (x : Sys) : (s.sysPut x).tbu = s.tbu := rfl
@[simp] theorem sysPut_drl (s : State) (x : Sys) : (s.sysPut x).drl = s.drl := rfl
@[simp] theorem sysPut_tio (s : State) (x : Sys) : (s.sysPut x).tio = s.tio := rfl
@[simp] theorem sysPut_pmu (s : State) (x : Sys) : (s.sysPut x).pmu = s.pmu := rfl
@[simp] theorem sysPut_clk (s : State) (x : Sys) : (s.sysPut x).clk = s.clk := rfl
@[simp] theorem sysPut_cmon (s : State) (x : Sys) : (s.sysPut x).cmon = s.cmon := rfl
@[simp] theorem sysPut_rfs (s : State) (x : Sys) : (s.sysPut x).rfs = s.rfs := rfl
@[simp] theorem sysPut_toc (s : State) (x : Sys) : (s.sysPut x).toc = s.toc := rfl
@[simp] theorem sysPut_cores (s : State) (x : Sys) : (s.sysPut x).cores = s.cores := rfl
@[simp] theorem sysPut_dfe (s : State) (x : Sys) : (s.sysPut x).dfe = s.dfe := rfl
@[simp] theorem sysPut_arr (s : State) (x : Sys) : (s.sysPut x).arr = s.arr := rfl
@[simp] theorem sysPut_pair (s : State) (x : Sys) : (s.sysPut x).pair = s.pair := rfl
@[simp] theorem sysPut_acq (s : State) (x : Sys) : (s.sysPut x).acq = s.acq := rfl
@[simp] theorem sysPut_cor (s : State) (x : Sys) : (s.sysPut x).cor = s.cor := rfl
@[simp] theorem sysPut_chs (s : State) (x : Sys) : (s.sysPut x).chs = s.chs := rfl
@[simp] theorem sysPut_ptp (s : State) (x : Sys) : (s.sysPut x).ptp = s.ptp := rfl
@[simp] theorem sysPut_nym (s : State) (x : Sys) : (s.sysPut x).nym = s.nym := rfl
@[simp] theorem sysPut_aon (s : State) (x : Sys) : (s.sysPut x).aon = s.aon := rfl
@[simp] theorem sysPut_host (s : State) (x : Sys) : (s.sysPut x).host = s.host := rfl
@[simp] theorem sysPut_sig (s : State) (x : Sys) : (s.sysPut x).sig = s.sig := rfl
@[simp] theorem sysPut_reg (s : State) (x : Sys) (z : Nat) : (s.sysPut x).reg z = s.reg z := congrArg (fun m => Sparse.get resetWord m z) (sysPut_rf s x)
@[simp] theorem sysPut_fld (s : State) (x : Sys) (z : Fld) : (s.sysPut x).fld z = s.fld z := congrArg (fun w => getBits w z.lsb z.width) (sysPut_reg s x z.addr)
@[simp] theorem sysPut_flag (s : State) (x : Sys) (z : Fld) : (s.sysPut x).flag z = s.flag z := congrArg (fun v => decide (v = 1)) (sysPut_fld s x z)
@[simp] theorem sysPut_fldI (s : State) (x : Sys) (z : Fld) : (s.sysPut x).fldI z = s.fldI z := congrArg (signed z.width) (sysPut_fld s x z)
@[simp] theorem sysPut_regBit (s : State) (x : Sys) (z i : Nat) : (s.sysPut x).regBit z i = s.regBit z i := congrArg (fun w => decide (getBits w i 1 = 1)) (sysPut_reg s x z)

/-! ### clkPut -/

@[simp] theorem clkPut_pending (s : State) (x : Clk) : (s.clkPut x).pending = s.pending := rfl
@[simp] theorem clkPut_rf (s : State) (x : Clk) : (s.clkPut x).rf = s.rf := rfl
@[simp] theorem clkPut_shV (s : State) (x : Clk) : (s.clkPut x).shV = s.shV := rfl
@[simp] theorem clkPut_shM (s : State) (x : Clk) : (s.clkPut x).shM = s.shM := rfl
@[simp] theorem clkPut_resp (s : State) (x : Clk) : (s.clkPut x).resp = s.resp := rfl
@[simp] theorem clkPut_rdata (s : State) (x : Clk) : (s.clkPut x).rdata = s.rdata := rfl
@[simp] theorem clkPut_tocPend (s : State) (x : Clk) : (s.clkPut x).tocPend = s.tocPend := rfl
@[simp] theorem clkPut_freeCount (s : State) (x : Clk) : (s.clkPut x).freeCount = s.freeCount := rfl
@[simp] theorem clkPut_sys (s : State) (x : Clk) : (s.clkPut x).sys = s.sys := rfl
@[simp] theorem clkPut_mem (s : State) (x : Clk) : (s.clkPut x).mem = s.mem := rfl
@[simp] theorem clkPut_dma (s : State) (x : Clk) : (s.clkPut x).dma = s.dma := rfl
@[simp] theorem clkPut_tbu (s : State) (x : Clk) : (s.clkPut x).tbu = s.tbu := rfl
@[simp] theorem clkPut_drl (s : State) (x : Clk) : (s.clkPut x).drl = s.drl := rfl
@[simp] theorem clkPut_tio (s : State) (x : Clk) : (s.clkPut x).tio = s.tio := rfl
@[simp] theorem clkPut_pmu (s : State) (x : Clk) : (s.clkPut x).pmu = s.pmu := rfl
@[simp] theorem clkPut_clk (s : State) (x : Clk) : (s.clkPut x).clk = x := rfl
@[simp] theorem clkPut_cmon (s : State) (x : Clk) : (s.clkPut x).cmon = s.cmon := rfl
@[simp] theorem clkPut_rfs (s : State) (x : Clk) : (s.clkPut x).rfs = s.rfs := rfl
@[simp] theorem clkPut_toc (s : State) (x : Clk) : (s.clkPut x).toc = s.toc := rfl
@[simp] theorem clkPut_cores (s : State) (x : Clk) : (s.clkPut x).cores = s.cores := rfl
@[simp] theorem clkPut_dfe (s : State) (x : Clk) : (s.clkPut x).dfe = s.dfe := rfl
@[simp] theorem clkPut_arr (s : State) (x : Clk) : (s.clkPut x).arr = s.arr := rfl
@[simp] theorem clkPut_pair (s : State) (x : Clk) : (s.clkPut x).pair = s.pair := rfl
@[simp] theorem clkPut_acq (s : State) (x : Clk) : (s.clkPut x).acq = s.acq := rfl
@[simp] theorem clkPut_cor (s : State) (x : Clk) : (s.clkPut x).cor = s.cor := rfl
@[simp] theorem clkPut_chs (s : State) (x : Clk) : (s.clkPut x).chs = s.chs := rfl
@[simp] theorem clkPut_ptp (s : State) (x : Clk) : (s.clkPut x).ptp = s.ptp := rfl
@[simp] theorem clkPut_nym (s : State) (x : Clk) : (s.clkPut x).nym = s.nym := rfl
@[simp] theorem clkPut_aon (s : State) (x : Clk) : (s.clkPut x).aon = s.aon := rfl
@[simp] theorem clkPut_host (s : State) (x : Clk) : (s.clkPut x).host = s.host := rfl
@[simp] theorem clkPut_sig (s : State) (x : Clk) : (s.clkPut x).sig = s.sig := rfl
@[simp] theorem clkPut_reg (s : State) (x : Clk) (z : Nat) : (s.clkPut x).reg z = s.reg z := congrArg (fun m => Sparse.get resetWord m z) (clkPut_rf s x)
@[simp] theorem clkPut_fld (s : State) (x : Clk) (z : Fld) : (s.clkPut x).fld z = s.fld z := congrArg (fun w => getBits w z.lsb z.width) (clkPut_reg s x z.addr)
@[simp] theorem clkPut_flag (s : State) (x : Clk) (z : Fld) : (s.clkPut x).flag z = s.flag z := congrArg (fun v => decide (v = 1)) (clkPut_fld s x z)
@[simp] theorem clkPut_fldI (s : State) (x : Clk) (z : Fld) : (s.clkPut x).fldI z = s.fldI z := congrArg (signed z.width) (clkPut_fld s x z)
@[simp] theorem clkPut_regBit (s : State) (x : Clk) (z i : Nat) : (s.clkPut x).regBit z i = s.regBit z i := congrArg (fun w => decide (getBits w i 1 = 1)) (clkPut_reg s x z)

/-! ### cmonPut -/

@[simp] theorem cmonPut_pending (s : State) (x : Cmon) : (s.cmonPut x).pending = s.pending := rfl
@[simp] theorem cmonPut_rf (s : State) (x : Cmon) : (s.cmonPut x).rf = s.rf := rfl
@[simp] theorem cmonPut_shV (s : State) (x : Cmon) : (s.cmonPut x).shV = s.shV := rfl
@[simp] theorem cmonPut_shM (s : State) (x : Cmon) : (s.cmonPut x).shM = s.shM := rfl
@[simp] theorem cmonPut_resp (s : State) (x : Cmon) : (s.cmonPut x).resp = s.resp := rfl
@[simp] theorem cmonPut_rdata (s : State) (x : Cmon) : (s.cmonPut x).rdata = s.rdata := rfl
@[simp] theorem cmonPut_tocPend (s : State) (x : Cmon) : (s.cmonPut x).tocPend = s.tocPend := rfl
@[simp] theorem cmonPut_freeCount (s : State) (x : Cmon) : (s.cmonPut x).freeCount = s.freeCount := rfl
@[simp] theorem cmonPut_sys (s : State) (x : Cmon) : (s.cmonPut x).sys = s.sys := rfl
@[simp] theorem cmonPut_mem (s : State) (x : Cmon) : (s.cmonPut x).mem = s.mem := rfl
@[simp] theorem cmonPut_dma (s : State) (x : Cmon) : (s.cmonPut x).dma = s.dma := rfl
@[simp] theorem cmonPut_tbu (s : State) (x : Cmon) : (s.cmonPut x).tbu = s.tbu := rfl
@[simp] theorem cmonPut_drl (s : State) (x : Cmon) : (s.cmonPut x).drl = s.drl := rfl
@[simp] theorem cmonPut_tio (s : State) (x : Cmon) : (s.cmonPut x).tio = s.tio := rfl
@[simp] theorem cmonPut_pmu (s : State) (x : Cmon) : (s.cmonPut x).pmu = s.pmu := rfl
@[simp] theorem cmonPut_clk (s : State) (x : Cmon) : (s.cmonPut x).clk = s.clk := rfl
@[simp] theorem cmonPut_cmon (s : State) (x : Cmon) : (s.cmonPut x).cmon = x := rfl
@[simp] theorem cmonPut_rfs (s : State) (x : Cmon) : (s.cmonPut x).rfs = s.rfs := rfl
@[simp] theorem cmonPut_toc (s : State) (x : Cmon) : (s.cmonPut x).toc = s.toc := rfl
@[simp] theorem cmonPut_cores (s : State) (x : Cmon) : (s.cmonPut x).cores = s.cores := rfl
@[simp] theorem cmonPut_dfe (s : State) (x : Cmon) : (s.cmonPut x).dfe = s.dfe := rfl
@[simp] theorem cmonPut_arr (s : State) (x : Cmon) : (s.cmonPut x).arr = s.arr := rfl
@[simp] theorem cmonPut_pair (s : State) (x : Cmon) : (s.cmonPut x).pair = s.pair := rfl
@[simp] theorem cmonPut_acq (s : State) (x : Cmon) : (s.cmonPut x).acq = s.acq := rfl
@[simp] theorem cmonPut_cor (s : State) (x : Cmon) : (s.cmonPut x).cor = s.cor := rfl
@[simp] theorem cmonPut_chs (s : State) (x : Cmon) : (s.cmonPut x).chs = s.chs := rfl
@[simp] theorem cmonPut_ptp (s : State) (x : Cmon) : (s.cmonPut x).ptp = s.ptp := rfl
@[simp] theorem cmonPut_nym (s : State) (x : Cmon) : (s.cmonPut x).nym = s.nym := rfl
@[simp] theorem cmonPut_aon (s : State) (x : Cmon) : (s.cmonPut x).aon = s.aon := rfl
@[simp] theorem cmonPut_host (s : State) (x : Cmon) : (s.cmonPut x).host = s.host := rfl
@[simp] theorem cmonPut_sig (s : State) (x : Cmon) : (s.cmonPut x).sig = s.sig := rfl
@[simp] theorem cmonPut_reg (s : State) (x : Cmon) (z : Nat) : (s.cmonPut x).reg z = s.reg z := congrArg (fun m => Sparse.get resetWord m z) (cmonPut_rf s x)
@[simp] theorem cmonPut_fld (s : State) (x : Cmon) (z : Fld) : (s.cmonPut x).fld z = s.fld z := congrArg (fun w => getBits w z.lsb z.width) (cmonPut_reg s x z.addr)
@[simp] theorem cmonPut_flag (s : State) (x : Cmon) (z : Fld) : (s.cmonPut x).flag z = s.flag z := congrArg (fun v => decide (v = 1)) (cmonPut_fld s x z)
@[simp] theorem cmonPut_fldI (s : State) (x : Cmon) (z : Fld) : (s.cmonPut x).fldI z = s.fldI z := congrArg (signed z.width) (cmonPut_fld s x z)
@[simp] theorem cmonPut_regBit (s : State) (x : Cmon) (z i : Nat) : (s.cmonPut x).regBit z i = s.regBit z i := congrArg (fun w => decide (getBits w i 1 = 1)) (cmonPut_reg s x z)

/-! ### pmuPut -/

@[simp] theorem pmuPut_pending (s : State) (x : Pmu) : (s.pmuPut x).pending = s.pending := rfl
@[simp] theorem pmuPut_rf (s : State) (x : Pmu) : (s.pmuPut x).rf = s.rf := rfl
@[simp] theorem pmuPut_shV (s : State) (x : Pmu) : (s.pmuPut x).shV = s.shV := rfl
@[simp] theorem pmuPut_shM (s : State) (x : Pmu) : (s.pmuPut x).shM = s.shM := rfl
@[simp] theorem pmuPut_resp (s : State) (x : Pmu) : (s.pmuPut x).resp = s.resp := rfl
@[simp] theorem pmuPut_rdata (s : State) (x : Pmu) : (s.pmuPut x).rdata = s.rdata := rfl
@[simp] theorem pmuPut_tocPend (s : State) (x : Pmu) : (s.pmuPut x).tocPend = s.tocPend := rfl
@[simp] theorem pmuPut_freeCount (s : State) (x : Pmu) : (s.pmuPut x).freeCount = s.freeCount := rfl
@[simp] theorem pmuPut_sys (s : State) (x : Pmu) : (s.pmuPut x).sys = s.sys := rfl
@[simp] theorem pmuPut_mem (s : State) (x : Pmu) : (s.pmuPut x).mem = s.mem := rfl
@[simp] theorem pmuPut_dma (s : State) (x : Pmu) : (s.pmuPut x).dma = s.dma := rfl
@[simp] theorem pmuPut_tbu (s : State) (x : Pmu) : (s.pmuPut x).tbu = s.tbu := rfl
@[simp] theorem pmuPut_drl (s : State) (x : Pmu) : (s.pmuPut x).drl = s.drl := rfl
@[simp] theorem pmuPut_tio (s : State) (x : Pmu) : (s.pmuPut x).tio = s.tio := rfl
@[simp] theorem pmuPut_pmu (s : State) (x : Pmu) : (s.pmuPut x).pmu = x := rfl
@[simp] theorem pmuPut_clk (s : State) (x : Pmu) : (s.pmuPut x).clk = s.clk := rfl
@[simp] theorem pmuPut_cmon (s : State) (x : Pmu) : (s.pmuPut x).cmon = s.cmon := rfl
@[simp] theorem pmuPut_rfs (s : State) (x : Pmu) : (s.pmuPut x).rfs = s.rfs := rfl
@[simp] theorem pmuPut_toc (s : State) (x : Pmu) : (s.pmuPut x).toc = s.toc := rfl
@[simp] theorem pmuPut_cores (s : State) (x : Pmu) : (s.pmuPut x).cores = s.cores := rfl
@[simp] theorem pmuPut_dfe (s : State) (x : Pmu) : (s.pmuPut x).dfe = s.dfe := rfl
@[simp] theorem pmuPut_arr (s : State) (x : Pmu) : (s.pmuPut x).arr = s.arr := rfl
@[simp] theorem pmuPut_pair (s : State) (x : Pmu) : (s.pmuPut x).pair = s.pair := rfl
@[simp] theorem pmuPut_acq (s : State) (x : Pmu) : (s.pmuPut x).acq = s.acq := rfl
@[simp] theorem pmuPut_cor (s : State) (x : Pmu) : (s.pmuPut x).cor = s.cor := rfl
@[simp] theorem pmuPut_chs (s : State) (x : Pmu) : (s.pmuPut x).chs = s.chs := rfl
@[simp] theorem pmuPut_ptp (s : State) (x : Pmu) : (s.pmuPut x).ptp = s.ptp := rfl
@[simp] theorem pmuPut_nym (s : State) (x : Pmu) : (s.pmuPut x).nym = s.nym := rfl
@[simp] theorem pmuPut_aon (s : State) (x : Pmu) : (s.pmuPut x).aon = s.aon := rfl
@[simp] theorem pmuPut_host (s : State) (x : Pmu) : (s.pmuPut x).host = s.host := rfl
@[simp] theorem pmuPut_sig (s : State) (x : Pmu) : (s.pmuPut x).sig = s.sig := rfl
@[simp] theorem pmuPut_reg (s : State) (x : Pmu) (z : Nat) : (s.pmuPut x).reg z = s.reg z := congrArg (fun m => Sparse.get resetWord m z) (pmuPut_rf s x)
@[simp] theorem pmuPut_fld (s : State) (x : Pmu) (z : Fld) : (s.pmuPut x).fld z = s.fld z := congrArg (fun w => getBits w z.lsb z.width) (pmuPut_reg s x z.addr)
@[simp] theorem pmuPut_flag (s : State) (x : Pmu) (z : Fld) : (s.pmuPut x).flag z = s.flag z := congrArg (fun v => decide (v = 1)) (pmuPut_fld s x z)
@[simp] theorem pmuPut_fldI (s : State) (x : Pmu) (z : Fld) : (s.pmuPut x).fldI z = s.fldI z := congrArg (signed z.width) (pmuPut_fld s x z)
@[simp] theorem pmuPut_regBit (s : State) (x : Pmu) (z i : Nat) : (s.pmuPut x).regBit z i = s.regBit z i := congrArg (fun w => decide (getBits w i 1 = 1)) (pmuPut_reg s x z)

/-! ### tocPut -/

@[simp] theorem tocPut_pending (s : State) (x : Toc) : (s.tocPut x).pending = s.pending := rfl
@[simp] theorem tocPut_rf (s : State) (x : Toc) : (s.tocPut x).rf = s.rf := rfl
@[simp] theorem tocPut_shV (s : State) (x : Toc) : (s.tocPut x).shV = s.shV := rfl
@[simp] theorem tocPut_shM (s : State) (x : Toc) : (s.tocPut x).shM = s.shM := rfl
@[simp] theorem tocPut_resp (s : State) (x : Toc) : (s.tocPut x).resp = s.resp := rfl
@[simp] theorem tocPut_rdata (s : State) (x : Toc) : (s.tocPut x).rdata = s.rdata := rfl
@[simp] theorem tocPut_tocPend (s : State) (x : Toc) : (s.tocPut x).tocPend = s.tocPend := rfl
@[simp] theorem tocPut_freeCount (s : State) (x : Toc) : (s.tocPut x).freeCount = s.freeCount := rfl
@[simp] theorem tocPut_sys (s : State) (x : Toc) : (s.tocPut x).sys = s.sys := rfl
@[simp] theorem tocPut_mem (s : State) (x : Toc) : (s.tocPut x).mem = s.mem := rfl
@[simp] theorem tocPut_dma (s : State) (x : Toc) : (s.tocPut x).dma = s.dma := rfl
@[simp] theorem tocPut_tbu (s : State) (x : Toc) : (s.tocPut x).tbu = s.tbu := rfl
@[simp] theorem tocPut_drl (s : State) (x : Toc) : (s.tocPut x).drl = s.drl := rfl
@[simp] theorem tocPut_tio (s : State) (x : Toc) : (s.tocPut x).tio = s.tio := rfl
@[simp] theorem tocPut_pmu (s : State) (x : Toc) : (s.tocPut x).pmu = s.pmu := rfl
@[simp] theorem tocPut_clk (s : State) (x : Toc) : (s.tocPut x).clk = s.clk := rfl
@[simp] theorem tocPut_cmon (s : State) (x : Toc) : (s.tocPut x).cmon = s.cmon := rfl
@[simp] theorem tocPut_rfs (s : State) (x : Toc) : (s.tocPut x).rfs = s.rfs := rfl
@[simp] theorem tocPut_toc (s : State) (x : Toc) : (s.tocPut x).toc = x := rfl
@[simp] theorem tocPut_cores (s : State) (x : Toc) : (s.tocPut x).cores = s.cores := rfl
@[simp] theorem tocPut_dfe (s : State) (x : Toc) : (s.tocPut x).dfe = s.dfe := rfl
@[simp] theorem tocPut_arr (s : State) (x : Toc) : (s.tocPut x).arr = s.arr := rfl
@[simp] theorem tocPut_pair (s : State) (x : Toc) : (s.tocPut x).pair = s.pair := rfl
@[simp] theorem tocPut_acq (s : State) (x : Toc) : (s.tocPut x).acq = s.acq := rfl
@[simp] theorem tocPut_cor (s : State) (x : Toc) : (s.tocPut x).cor = s.cor := rfl
@[simp] theorem tocPut_chs (s : State) (x : Toc) : (s.tocPut x).chs = s.chs := rfl
@[simp] theorem tocPut_ptp (s : State) (x : Toc) : (s.tocPut x).ptp = s.ptp := rfl
@[simp] theorem tocPut_nym (s : State) (x : Toc) : (s.tocPut x).nym = s.nym := rfl
@[simp] theorem tocPut_aon (s : State) (x : Toc) : (s.tocPut x).aon = s.aon := rfl
@[simp] theorem tocPut_host (s : State) (x : Toc) : (s.tocPut x).host = s.host := rfl
@[simp] theorem tocPut_sig (s : State) (x : Toc) : (s.tocPut x).sig = s.sig := rfl
@[simp] theorem tocPut_reg (s : State) (x : Toc) (z : Nat) : (s.tocPut x).reg z = s.reg z := congrArg (fun m => Sparse.get resetWord m z) (tocPut_rf s x)
@[simp] theorem tocPut_fld (s : State) (x : Toc) (z : Fld) : (s.tocPut x).fld z = s.fld z := congrArg (fun w => getBits w z.lsb z.width) (tocPut_reg s x z.addr)
@[simp] theorem tocPut_flag (s : State) (x : Toc) (z : Fld) : (s.tocPut x).flag z = s.flag z := congrArg (fun v => decide (v = 1)) (tocPut_fld s x z)
@[simp] theorem tocPut_fldI (s : State) (x : Toc) (z : Fld) : (s.tocPut x).fldI z = s.fldI z := congrArg (signed z.width) (tocPut_fld s x z)
@[simp] theorem tocPut_regBit (s : State) (x : Toc) (z i : Nat) : (s.tocPut x).regBit z i = s.regBit z i := congrArg (fun w => decide (getBits w i 1 = 1)) (tocPut_reg s x z)

/-! ### aonPut -/

@[simp] theorem aonPut_pending (s : State) (x : Aon) : (s.aonPut x).pending = s.pending := rfl
@[simp] theorem aonPut_rf (s : State) (x : Aon) : (s.aonPut x).rf = s.rf := rfl
@[simp] theorem aonPut_shV (s : State) (x : Aon) : (s.aonPut x).shV = s.shV := rfl
@[simp] theorem aonPut_shM (s : State) (x : Aon) : (s.aonPut x).shM = s.shM := rfl
@[simp] theorem aonPut_resp (s : State) (x : Aon) : (s.aonPut x).resp = s.resp := rfl
@[simp] theorem aonPut_rdata (s : State) (x : Aon) : (s.aonPut x).rdata = s.rdata := rfl
@[simp] theorem aonPut_tocPend (s : State) (x : Aon) : (s.aonPut x).tocPend = s.tocPend := rfl
@[simp] theorem aonPut_freeCount (s : State) (x : Aon) : (s.aonPut x).freeCount = s.freeCount := rfl
@[simp] theorem aonPut_sys (s : State) (x : Aon) : (s.aonPut x).sys = s.sys := rfl
@[simp] theorem aonPut_mem (s : State) (x : Aon) : (s.aonPut x).mem = s.mem := rfl
@[simp] theorem aonPut_dma (s : State) (x : Aon) : (s.aonPut x).dma = s.dma := rfl
@[simp] theorem aonPut_tbu (s : State) (x : Aon) : (s.aonPut x).tbu = s.tbu := rfl
@[simp] theorem aonPut_drl (s : State) (x : Aon) : (s.aonPut x).drl = s.drl := rfl
@[simp] theorem aonPut_tio (s : State) (x : Aon) : (s.aonPut x).tio = s.tio := rfl
@[simp] theorem aonPut_pmu (s : State) (x : Aon) : (s.aonPut x).pmu = s.pmu := rfl
@[simp] theorem aonPut_clk (s : State) (x : Aon) : (s.aonPut x).clk = s.clk := rfl
@[simp] theorem aonPut_cmon (s : State) (x : Aon) : (s.aonPut x).cmon = s.cmon := rfl
@[simp] theorem aonPut_rfs (s : State) (x : Aon) : (s.aonPut x).rfs = s.rfs := rfl
@[simp] theorem aonPut_toc (s : State) (x : Aon) : (s.aonPut x).toc = s.toc := rfl
@[simp] theorem aonPut_cores (s : State) (x : Aon) : (s.aonPut x).cores = s.cores := rfl
@[simp] theorem aonPut_dfe (s : State) (x : Aon) : (s.aonPut x).dfe = s.dfe := rfl
@[simp] theorem aonPut_arr (s : State) (x : Aon) : (s.aonPut x).arr = s.arr := rfl
@[simp] theorem aonPut_pair (s : State) (x : Aon) : (s.aonPut x).pair = s.pair := rfl
@[simp] theorem aonPut_acq (s : State) (x : Aon) : (s.aonPut x).acq = s.acq := rfl
@[simp] theorem aonPut_cor (s : State) (x : Aon) : (s.aonPut x).cor = s.cor := rfl
@[simp] theorem aonPut_chs (s : State) (x : Aon) : (s.aonPut x).chs = s.chs := rfl
@[simp] theorem aonPut_ptp (s : State) (x : Aon) : (s.aonPut x).ptp = s.ptp := rfl
@[simp] theorem aonPut_nym (s : State) (x : Aon) : (s.aonPut x).nym = s.nym := rfl
@[simp] theorem aonPut_aon (s : State) (x : Aon) : (s.aonPut x).aon = x := rfl
@[simp] theorem aonPut_host (s : State) (x : Aon) : (s.aonPut x).host = s.host := rfl
@[simp] theorem aonPut_sig (s : State) (x : Aon) : (s.aonPut x).sig = s.sig := rfl
@[simp] theorem aonPut_reg (s : State) (x : Aon) (z : Nat) : (s.aonPut x).reg z = s.reg z := congrArg (fun m => Sparse.get resetWord m z) (aonPut_rf s x)
@[simp] theorem aonPut_fld (s : State) (x : Aon) (z : Fld) : (s.aonPut x).fld z = s.fld z := congrArg (fun w => getBits w z.lsb z.width) (aonPut_reg s x z.addr)
@[simp] theorem aonPut_flag (s : State) (x : Aon) (z : Fld) : (s.aonPut x).flag z = s.flag z := congrArg (fun v => decide (v = 1)) (aonPut_fld s x z)
@[simp] theorem aonPut_fldI (s : State) (x : Aon) (z : Fld) : (s.aonPut x).fldI z = s.fldI z := congrArg (signed z.width) (aonPut_fld s x z)
@[simp] theorem aonPut_regBit (s : State) (x : Aon) (z i : Nat) : (s.aonPut x).regBit z i = s.regBit z i := congrArg (fun w => decide (getBits w i 1 = 1)) (aonPut_reg s x z)

/-! ### nymPut -/

@[simp] theorem nymPut_pending (s : State) (x : Nym) : (s.nymPut x).pending = s.pending := rfl
@[simp] theorem nymPut_rf (s : State) (x : Nym) : (s.nymPut x).rf = s.rf := rfl
@[simp] theorem nymPut_shV (s : State) (x : Nym) : (s.nymPut x).shV = s.shV := rfl
@[simp] theorem nymPut_shM (s : State) (x : Nym) : (s.nymPut x).shM = s.shM := rfl
@[simp] theorem nymPut_resp (s : State) (x : Nym) : (s.nymPut x).resp = s.resp := rfl
@[simp] theorem nymPut_rdata (s : State) (x : Nym) : (s.nymPut x).rdata = s.rdata := rfl
@[simp] theorem nymPut_tocPend (s : State) (x : Nym) : (s.nymPut x).tocPend = s.tocPend := rfl
@[simp] theorem nymPut_freeCount (s : State) (x : Nym) : (s.nymPut x).freeCount = s.freeCount := rfl
@[simp] theorem nymPut_sys (s : State) (x : Nym) : (s.nymPut x).sys = s.sys := rfl
@[simp] theorem nymPut_mem (s : State) (x : Nym) : (s.nymPut x).mem = s.mem := rfl
@[simp] theorem nymPut_dma (s : State) (x : Nym) : (s.nymPut x).dma = s.dma := rfl
@[simp] theorem nymPut_tbu (s : State) (x : Nym) : (s.nymPut x).tbu = s.tbu := rfl
@[simp] theorem nymPut_drl (s : State) (x : Nym) : (s.nymPut x).drl = s.drl := rfl
@[simp] theorem nymPut_tio (s : State) (x : Nym) : (s.nymPut x).tio = s.tio := rfl
@[simp] theorem nymPut_pmu (s : State) (x : Nym) : (s.nymPut x).pmu = s.pmu := rfl
@[simp] theorem nymPut_clk (s : State) (x : Nym) : (s.nymPut x).clk = s.clk := rfl
@[simp] theorem nymPut_cmon (s : State) (x : Nym) : (s.nymPut x).cmon = s.cmon := rfl
@[simp] theorem nymPut_rfs (s : State) (x : Nym) : (s.nymPut x).rfs = s.rfs := rfl
@[simp] theorem nymPut_toc (s : State) (x : Nym) : (s.nymPut x).toc = s.toc := rfl
@[simp] theorem nymPut_cores (s : State) (x : Nym) : (s.nymPut x).cores = s.cores := rfl
@[simp] theorem nymPut_dfe (s : State) (x : Nym) : (s.nymPut x).dfe = s.dfe := rfl
@[simp] theorem nymPut_arr (s : State) (x : Nym) : (s.nymPut x).arr = s.arr := rfl
@[simp] theorem nymPut_pair (s : State) (x : Nym) : (s.nymPut x).pair = s.pair := rfl
@[simp] theorem nymPut_acq (s : State) (x : Nym) : (s.nymPut x).acq = s.acq := rfl
@[simp] theorem nymPut_cor (s : State) (x : Nym) : (s.nymPut x).cor = s.cor := rfl
@[simp] theorem nymPut_chs (s : State) (x : Nym) : (s.nymPut x).chs = s.chs := rfl
@[simp] theorem nymPut_ptp (s : State) (x : Nym) : (s.nymPut x).ptp = s.ptp := rfl
@[simp] theorem nymPut_nym (s : State) (x : Nym) : (s.nymPut x).nym = x := rfl
@[simp] theorem nymPut_aon (s : State) (x : Nym) : (s.nymPut x).aon = s.aon := rfl
@[simp] theorem nymPut_host (s : State) (x : Nym) : (s.nymPut x).host = s.host := rfl
@[simp] theorem nymPut_sig (s : State) (x : Nym) : (s.nymPut x).sig = s.sig := rfl
@[simp] theorem nymPut_reg (s : State) (x : Nym) (z : Nat) : (s.nymPut x).reg z = s.reg z := congrArg (fun m => Sparse.get resetWord m z) (nymPut_rf s x)
@[simp] theorem nymPut_fld (s : State) (x : Nym) (z : Fld) : (s.nymPut x).fld z = s.fld z := congrArg (fun w => getBits w z.lsb z.width) (nymPut_reg s x z.addr)
@[simp] theorem nymPut_flag (s : State) (x : Nym) (z : Fld) : (s.nymPut x).flag z = s.flag z := congrArg (fun v => decide (v = 1)) (nymPut_fld s x z)
@[simp] theorem nymPut_fldI (s : State) (x : Nym) (z : Fld) : (s.nymPut x).fldI z = s.fldI z := congrArg (signed z.width) (nymPut_fld s x z)
@[simp] theorem nymPut_regBit (s : State) (x : Nym) (z i : Nat) : (s.nymPut x).regBit z i = s.regBit z i := congrArg (fun w => decide (getBits w i 1 = 1)) (nymPut_reg s x z)

/-! ### ptpPut -/

@[simp] theorem ptpPut_pending (s : State) (x : Ptp) : (s.ptpPut x).pending = s.pending := rfl
@[simp] theorem ptpPut_rf (s : State) (x : Ptp) : (s.ptpPut x).rf = s.rf := rfl
@[simp] theorem ptpPut_shV (s : State) (x : Ptp) : (s.ptpPut x).shV = s.shV := rfl
@[simp] theorem ptpPut_shM (s : State) (x : Ptp) : (s.ptpPut x).shM = s.shM := rfl
@[simp] theorem ptpPut_resp (s : State) (x : Ptp) : (s.ptpPut x).resp = s.resp := rfl
@[simp] theorem ptpPut_rdata (s : State) (x : Ptp) : (s.ptpPut x).rdata = s.rdata := rfl
@[simp] theorem ptpPut_tocPend (s : State) (x : Ptp) : (s.ptpPut x).tocPend = s.tocPend := rfl
@[simp] theorem ptpPut_freeCount (s : State) (x : Ptp) : (s.ptpPut x).freeCount = s.freeCount := rfl
@[simp] theorem ptpPut_sys (s : State) (x : Ptp) : (s.ptpPut x).sys = s.sys := rfl
@[simp] theorem ptpPut_mem (s : State) (x : Ptp) : (s.ptpPut x).mem = s.mem := rfl
@[simp] theorem ptpPut_dma (s : State) (x : Ptp) : (s.ptpPut x).dma = s.dma := rfl
@[simp] theorem ptpPut_tbu (s : State) (x : Ptp) : (s.ptpPut x).tbu = s.tbu := rfl
@[simp] theorem ptpPut_drl (s : State) (x : Ptp) : (s.ptpPut x).drl = s.drl := rfl
@[simp] theorem ptpPut_tio (s : State) (x : Ptp) : (s.ptpPut x).tio = s.tio := rfl
@[simp] theorem ptpPut_pmu (s : State) (x : Ptp) : (s.ptpPut x).pmu = s.pmu := rfl
@[simp] theorem ptpPut_clk (s : State) (x : Ptp) : (s.ptpPut x).clk = s.clk := rfl
@[simp] theorem ptpPut_cmon (s : State) (x : Ptp) : (s.ptpPut x).cmon = s.cmon := rfl
@[simp] theorem ptpPut_rfs (s : State) (x : Ptp) : (s.ptpPut x).rfs = s.rfs := rfl
@[simp] theorem ptpPut_toc (s : State) (x : Ptp) : (s.ptpPut x).toc = s.toc := rfl
@[simp] theorem ptpPut_cores (s : State) (x : Ptp) : (s.ptpPut x).cores = s.cores := rfl
@[simp] theorem ptpPut_dfe (s : State) (x : Ptp) : (s.ptpPut x).dfe = s.dfe := rfl
@[simp] theorem ptpPut_arr (s : State) (x : Ptp) : (s.ptpPut x).arr = s.arr := rfl
@[simp] theorem ptpPut_pair (s : State) (x : Ptp) : (s.ptpPut x).pair = s.pair := rfl
@[simp] theorem ptpPut_acq (s : State) (x : Ptp) : (s.ptpPut x).acq = s.acq := rfl
@[simp] theorem ptpPut_cor (s : State) (x : Ptp) : (s.ptpPut x).cor = s.cor := rfl
@[simp] theorem ptpPut_chs (s : State) (x : Ptp) : (s.ptpPut x).chs = s.chs := rfl
@[simp] theorem ptpPut_ptp (s : State) (x : Ptp) : (s.ptpPut x).ptp = x := rfl
@[simp] theorem ptpPut_nym (s : State) (x : Ptp) : (s.ptpPut x).nym = s.nym := rfl
@[simp] theorem ptpPut_aon (s : State) (x : Ptp) : (s.ptpPut x).aon = s.aon := rfl
@[simp] theorem ptpPut_host (s : State) (x : Ptp) : (s.ptpPut x).host = s.host := rfl
@[simp] theorem ptpPut_sig (s : State) (x : Ptp) : (s.ptpPut x).sig = s.sig := rfl
@[simp] theorem ptpPut_reg (s : State) (x : Ptp) (z : Nat) : (s.ptpPut x).reg z = s.reg z := congrArg (fun m => Sparse.get resetWord m z) (ptpPut_rf s x)
@[simp] theorem ptpPut_fld (s : State) (x : Ptp) (z : Fld) : (s.ptpPut x).fld z = s.fld z := congrArg (fun w => getBits w z.lsb z.width) (ptpPut_reg s x z.addr)
@[simp] theorem ptpPut_flag (s : State) (x : Ptp) (z : Fld) : (s.ptpPut x).flag z = s.flag z := congrArg (fun v => decide (v = 1)) (ptpPut_fld s x z)
@[simp] theorem ptpPut_fldI (s : State) (x : Ptp) (z : Fld) : (s.ptpPut x).fldI z = s.fldI z := congrArg (signed z.width) (ptpPut_fld s x z)
@[simp] theorem ptpPut_regBit (s : State) (x : Ptp) (z i : Nat) : (s.ptpPut x).regBit z i = s.regBit z i := congrArg (fun w => decide (getBits w i 1 = 1)) (ptpPut_reg s x z)

/-! ### pairPut -/

@[simp] theorem pairPut_pending (s : State) (x : Pair) : (s.pairPut x).pending = s.pending := rfl
@[simp] theorem pairPut_rf (s : State) (x : Pair) : (s.pairPut x).rf = s.rf := rfl
@[simp] theorem pairPut_shV (s : State) (x : Pair) : (s.pairPut x).shV = s.shV := rfl
@[simp] theorem pairPut_shM (s : State) (x : Pair) : (s.pairPut x).shM = s.shM := rfl
@[simp] theorem pairPut_resp (s : State) (x : Pair) : (s.pairPut x).resp = s.resp := rfl
@[simp] theorem pairPut_rdata (s : State) (x : Pair) : (s.pairPut x).rdata = s.rdata := rfl
@[simp] theorem pairPut_tocPend (s : State) (x : Pair) : (s.pairPut x).tocPend = s.tocPend := rfl
@[simp] theorem pairPut_freeCount (s : State) (x : Pair) : (s.pairPut x).freeCount = s.freeCount := rfl
@[simp] theorem pairPut_sys (s : State) (x : Pair) : (s.pairPut x).sys = s.sys := rfl
@[simp] theorem pairPut_mem (s : State) (x : Pair) : (s.pairPut x).mem = s.mem := rfl
@[simp] theorem pairPut_dma (s : State) (x : Pair) : (s.pairPut x).dma = s.dma := rfl
@[simp] theorem pairPut_tbu (s : State) (x : Pair) : (s.pairPut x).tbu = s.tbu := rfl
@[simp] theorem pairPut_drl (s : State) (x : Pair) : (s.pairPut x).drl = s.drl := rfl
@[simp] theorem pairPut_tio (s : State) (x : Pair) : (s.pairPut x).tio = s.tio := rfl
@[simp] theorem pairPut_pmu (s : State) (x : Pair) : (s.pairPut x).pmu = s.pmu := rfl
@[simp] theorem pairPut_clk (s : State) (x : Pair) : (s.pairPut x).clk = s.clk := rfl
@[simp] theorem pairPut_cmon (s : State) (x : Pair) : (s.pairPut x).cmon = s.cmon := rfl
@[simp] theorem pairPut_rfs (s : State) (x : Pair) : (s.pairPut x).rfs = s.rfs := rfl
@[simp] theorem pairPut_toc (s : State) (x : Pair) : (s.pairPut x).toc = s.toc := rfl
@[simp] theorem pairPut_cores (s : State) (x : Pair) : (s.pairPut x).cores = s.cores := rfl
@[simp] theorem pairPut_dfe (s : State) (x : Pair) : (s.pairPut x).dfe = s.dfe := rfl
@[simp] theorem pairPut_arr (s : State) (x : Pair) : (s.pairPut x).arr = s.arr := rfl
@[simp] theorem pairPut_pair (s : State) (x : Pair) : (s.pairPut x).pair = x := rfl
@[simp] theorem pairPut_acq (s : State) (x : Pair) : (s.pairPut x).acq = s.acq := rfl
@[simp] theorem pairPut_cor (s : State) (x : Pair) : (s.pairPut x).cor = s.cor := rfl
@[simp] theorem pairPut_chs (s : State) (x : Pair) : (s.pairPut x).chs = s.chs := rfl
@[simp] theorem pairPut_ptp (s : State) (x : Pair) : (s.pairPut x).ptp = s.ptp := rfl
@[simp] theorem pairPut_nym (s : State) (x : Pair) : (s.pairPut x).nym = s.nym := rfl
@[simp] theorem pairPut_aon (s : State) (x : Pair) : (s.pairPut x).aon = s.aon := rfl
@[simp] theorem pairPut_host (s : State) (x : Pair) : (s.pairPut x).host = s.host := rfl
@[simp] theorem pairPut_sig (s : State) (x : Pair) : (s.pairPut x).sig = s.sig := rfl
@[simp] theorem pairPut_reg (s : State) (x : Pair) (z : Nat) : (s.pairPut x).reg z = s.reg z := congrArg (fun m => Sparse.get resetWord m z) (pairPut_rf s x)
@[simp] theorem pairPut_fld (s : State) (x : Pair) (z : Fld) : (s.pairPut x).fld z = s.fld z := congrArg (fun w => getBits w z.lsb z.width) (pairPut_reg s x z.addr)
@[simp] theorem pairPut_flag (s : State) (x : Pair) (z : Fld) : (s.pairPut x).flag z = s.flag z := congrArg (fun v => decide (v = 1)) (pairPut_fld s x z)
@[simp] theorem pairPut_fldI (s : State) (x : Pair) (z : Fld) : (s.pairPut x).fldI z = s.fldI z := congrArg (signed z.width) (pairPut_fld s x z)
@[simp] theorem pairPut_regBit (s : State) (x : Pair) (z i : Nat) : (s.pairPut x).regBit z i = s.regBit z i := congrArg (fun w => decide (getBits w i 1 = 1)) (pairPut_reg s x z)

/-! ### acqPut -/

@[simp] theorem acqPut_pending (s : State) (x : Acq) : (s.acqPut x).pending = s.pending := rfl
@[simp] theorem acqPut_rf (s : State) (x : Acq) : (s.acqPut x).rf = s.rf := rfl
@[simp] theorem acqPut_shV (s : State) (x : Acq) : (s.acqPut x).shV = s.shV := rfl
@[simp] theorem acqPut_shM (s : State) (x : Acq) : (s.acqPut x).shM = s.shM := rfl
@[simp] theorem acqPut_resp (s : State) (x : Acq) : (s.acqPut x).resp = s.resp := rfl
@[simp] theorem acqPut_rdata (s : State) (x : Acq) : (s.acqPut x).rdata = s.rdata := rfl
@[simp] theorem acqPut_tocPend (s : State) (x : Acq) : (s.acqPut x).tocPend = s.tocPend := rfl
@[simp] theorem acqPut_freeCount (s : State) (x : Acq) : (s.acqPut x).freeCount = s.freeCount := rfl
@[simp] theorem acqPut_sys (s : State) (x : Acq) : (s.acqPut x).sys = s.sys := rfl
@[simp] theorem acqPut_mem (s : State) (x : Acq) : (s.acqPut x).mem = s.mem := rfl
@[simp] theorem acqPut_dma (s : State) (x : Acq) : (s.acqPut x).dma = s.dma := rfl
@[simp] theorem acqPut_tbu (s : State) (x : Acq) : (s.acqPut x).tbu = s.tbu := rfl
@[simp] theorem acqPut_drl (s : State) (x : Acq) : (s.acqPut x).drl = s.drl := rfl
@[simp] theorem acqPut_tio (s : State) (x : Acq) : (s.acqPut x).tio = s.tio := rfl
@[simp] theorem acqPut_pmu (s : State) (x : Acq) : (s.acqPut x).pmu = s.pmu := rfl
@[simp] theorem acqPut_clk (s : State) (x : Acq) : (s.acqPut x).clk = s.clk := rfl
@[simp] theorem acqPut_cmon (s : State) (x : Acq) : (s.acqPut x).cmon = s.cmon := rfl
@[simp] theorem acqPut_rfs (s : State) (x : Acq) : (s.acqPut x).rfs = s.rfs := rfl
@[simp] theorem acqPut_toc (s : State) (x : Acq) : (s.acqPut x).toc = s.toc := rfl
@[simp] theorem acqPut_cores (s : State) (x : Acq) : (s.acqPut x).cores = s.cores := rfl
@[simp] theorem acqPut_dfe (s : State) (x : Acq) : (s.acqPut x).dfe = s.dfe := rfl
@[simp] theorem acqPut_arr (s : State) (x : Acq) : (s.acqPut x).arr = s.arr := rfl
@[simp] theorem acqPut_pair (s : State) (x : Acq) : (s.acqPut x).pair = s.pair := rfl
@[simp] theorem acqPut_acq (s : State) (x : Acq) : (s.acqPut x).acq = x := rfl
@[simp] theorem acqPut_cor (s : State) (x : Acq) : (s.acqPut x).cor = s.cor := rfl
@[simp] theorem acqPut_chs (s : State) (x : Acq) : (s.acqPut x).chs = s.chs := rfl
@[simp] theorem acqPut_ptp (s : State) (x : Acq) : (s.acqPut x).ptp = s.ptp := rfl
@[simp] theorem acqPut_nym (s : State) (x : Acq) : (s.acqPut x).nym = s.nym := rfl
@[simp] theorem acqPut_aon (s : State) (x : Acq) : (s.acqPut x).aon = s.aon := rfl
@[simp] theorem acqPut_host (s : State) (x : Acq) : (s.acqPut x).host = s.host := rfl
@[simp] theorem acqPut_sig (s : State) (x : Acq) : (s.acqPut x).sig = s.sig := rfl
@[simp] theorem acqPut_reg (s : State) (x : Acq) (z : Nat) : (s.acqPut x).reg z = s.reg z := congrArg (fun m => Sparse.get resetWord m z) (acqPut_rf s x)
@[simp] theorem acqPut_fld (s : State) (x : Acq) (z : Fld) : (s.acqPut x).fld z = s.fld z := congrArg (fun w => getBits w z.lsb z.width) (acqPut_reg s x z.addr)
@[simp] theorem acqPut_flag (s : State) (x : Acq) (z : Fld) : (s.acqPut x).flag z = s.flag z := congrArg (fun v => decide (v = 1)) (acqPut_fld s x z)
@[simp] theorem acqPut_fldI (s : State) (x : Acq) (z : Fld) : (s.acqPut x).fldI z = s.fldI z := congrArg (signed z.width) (acqPut_fld s x z)
@[simp] theorem acqPut_regBit (s : State) (x : Acq) (z i : Nat) : (s.acqPut x).regBit z i = s.regBit z i := congrArg (fun w => decide (getBits w i 1 = 1)) (acqPut_reg s x z)

/-! ### corPut -/

@[simp] theorem corPut_pending (s : State) (x : Cor) : (s.corPut x).pending = s.pending := rfl
@[simp] theorem corPut_rf (s : State) (x : Cor) : (s.corPut x).rf = s.rf := rfl
@[simp] theorem corPut_shV (s : State) (x : Cor) : (s.corPut x).shV = s.shV := rfl
@[simp] theorem corPut_shM (s : State) (x : Cor) : (s.corPut x).shM = s.shM := rfl
@[simp] theorem corPut_resp (s : State) (x : Cor) : (s.corPut x).resp = s.resp := rfl
@[simp] theorem corPut_rdata (s : State) (x : Cor) : (s.corPut x).rdata = s.rdata := rfl
@[simp] theorem corPut_tocPend (s : State) (x : Cor) : (s.corPut x).tocPend = s.tocPend := rfl
@[simp] theorem corPut_freeCount (s : State) (x : Cor) : (s.corPut x).freeCount = s.freeCount := rfl
@[simp] theorem corPut_sys (s : State) (x : Cor) : (s.corPut x).sys = s.sys := rfl
@[simp] theorem corPut_mem (s : State) (x : Cor) : (s.corPut x).mem = s.mem := rfl
@[simp] theorem corPut_dma (s : State) (x : Cor) : (s.corPut x).dma = s.dma := rfl
@[simp] theorem corPut_tbu (s : State) (x : Cor) : (s.corPut x).tbu = s.tbu := rfl
@[simp] theorem corPut_drl (s : State) (x : Cor) : (s.corPut x).drl = s.drl := rfl
@[simp] theorem corPut_tio (s : State) (x : Cor) : (s.corPut x).tio = s.tio := rfl
@[simp] theorem corPut_pmu (s : State) (x : Cor) : (s.corPut x).pmu = s.pmu := rfl
@[simp] theorem corPut_clk (s : State) (x : Cor) : (s.corPut x).clk = s.clk := rfl
@[simp] theorem corPut_cmon (s : State) (x : Cor) : (s.corPut x).cmon = s.cmon := rfl
@[simp] theorem corPut_rfs (s : State) (x : Cor) : (s.corPut x).rfs = s.rfs := rfl
@[simp] theorem corPut_toc (s : State) (x : Cor) : (s.corPut x).toc = s.toc := rfl
@[simp] theorem corPut_cores (s : State) (x : Cor) : (s.corPut x).cores = s.cores := rfl
@[simp] theorem corPut_dfe (s : State) (x : Cor) : (s.corPut x).dfe = s.dfe := rfl
@[simp] theorem corPut_arr (s : State) (x : Cor) : (s.corPut x).arr = s.arr := rfl
@[simp] theorem corPut_pair (s : State) (x : Cor) : (s.corPut x).pair = s.pair := rfl
@[simp] theorem corPut_acq (s : State) (x : Cor) : (s.corPut x).acq = s.acq := rfl
@[simp] theorem corPut_cor (s : State) (x : Cor) : (s.corPut x).cor = x := rfl
@[simp] theorem corPut_chs (s : State) (x : Cor) : (s.corPut x).chs = s.chs := rfl
@[simp] theorem corPut_ptp (s : State) (x : Cor) : (s.corPut x).ptp = s.ptp := rfl
@[simp] theorem corPut_nym (s : State) (x : Cor) : (s.corPut x).nym = s.nym := rfl
@[simp] theorem corPut_aon (s : State) (x : Cor) : (s.corPut x).aon = s.aon := rfl
@[simp] theorem corPut_host (s : State) (x : Cor) : (s.corPut x).host = s.host := rfl
@[simp] theorem corPut_sig (s : State) (x : Cor) : (s.corPut x).sig = s.sig := rfl
@[simp] theorem corPut_reg (s : State) (x : Cor) (z : Nat) : (s.corPut x).reg z = s.reg z := congrArg (fun m => Sparse.get resetWord m z) (corPut_rf s x)
@[simp] theorem corPut_fld (s : State) (x : Cor) (z : Fld) : (s.corPut x).fld z = s.fld z := congrArg (fun w => getBits w z.lsb z.width) (corPut_reg s x z.addr)
@[simp] theorem corPut_flag (s : State) (x : Cor) (z : Fld) : (s.corPut x).flag z = s.flag z := congrArg (fun v => decide (v = 1)) (corPut_fld s x z)
@[simp] theorem corPut_fldI (s : State) (x : Cor) (z : Fld) : (s.corPut x).fldI z = s.fldI z := congrArg (signed z.width) (corPut_fld s x z)
@[simp] theorem corPut_regBit (s : State) (x : Cor) (z i : Nat) : (s.corPut x).regBit z i = s.regBit z i := congrArg (fun w => decide (getBits w i 1 = 1)) (corPut_reg s x z)

/-! ### chsPut -/

@[simp] theorem chsPut_pending (s : State) (x : Chs) : (s.chsPut x).pending = s.pending := rfl
@[simp] theorem chsPut_rf (s : State) (x : Chs) : (s.chsPut x).rf = s.rf := rfl
@[simp] theorem chsPut_shV (s : State) (x : Chs) : (s.chsPut x).shV = s.shV := rfl
@[simp] theorem chsPut_shM (s : State) (x : Chs) : (s.chsPut x).shM = s.shM := rfl
@[simp] theorem chsPut_resp (s : State) (x : Chs) : (s.chsPut x).resp = s.resp := rfl
@[simp] theorem chsPut_rdata (s : State) (x : Chs) : (s.chsPut x).rdata = s.rdata := rfl
@[simp] theorem chsPut_tocPend (s : State) (x : Chs) : (s.chsPut x).tocPend = s.tocPend := rfl
@[simp] theorem chsPut_freeCount (s : State) (x : Chs) : (s.chsPut x).freeCount = s.freeCount := rfl
@[simp] theorem chsPut_sys (s : State) (x : Chs) : (s.chsPut x).sys = s.sys := rfl
@[simp] theorem chsPut_mem (s : State) (x : Chs) : (s.chsPut x).mem = s.mem := rfl
@[simp] theorem chsPut_dma (s : State) (x : Chs) : (s.chsPut x).dma = s.dma := rfl
@[simp] theorem chsPut_tbu (s : State) (x : Chs) : (s.chsPut x).tbu = s.tbu := rfl
@[simp] theorem chsPut_drl (s : State) (x : Chs) : (s.chsPut x).drl = s.drl := rfl
@[simp] theorem chsPut_tio (s : State) (x : Chs) : (s.chsPut x).tio = s.tio := rfl
@[simp] theorem chsPut_pmu (s : State) (x : Chs) : (s.chsPut x).pmu = s.pmu := rfl
@[simp] theorem chsPut_clk (s : State) (x : Chs) : (s.chsPut x).clk = s.clk := rfl
@[simp] theorem chsPut_cmon (s : State) (x : Chs) : (s.chsPut x).cmon = s.cmon := rfl
@[simp] theorem chsPut_rfs (s : State) (x : Chs) : (s.chsPut x).rfs = s.rfs := rfl
@[simp] theorem chsPut_toc (s : State) (x : Chs) : (s.chsPut x).toc = s.toc := rfl
@[simp] theorem chsPut_cores (s : State) (x : Chs) : (s.chsPut x).cores = s.cores := rfl
@[simp] theorem chsPut_dfe (s : State) (x : Chs) : (s.chsPut x).dfe = s.dfe := rfl
@[simp] theorem chsPut_arr (s : State) (x : Chs) : (s.chsPut x).arr = s.arr := rfl
@[simp] theorem chsPut_pair (s : State) (x : Chs) : (s.chsPut x).pair = s.pair := rfl
@[simp] theorem chsPut_acq (s : State) (x : Chs) : (s.chsPut x).acq = s.acq := rfl
@[simp] theorem chsPut_cor (s : State) (x : Chs) : (s.chsPut x).cor = s.cor := rfl
@[simp] theorem chsPut_chs (s : State) (x : Chs) : (s.chsPut x).chs = x := rfl
@[simp] theorem chsPut_ptp (s : State) (x : Chs) : (s.chsPut x).ptp = s.ptp := rfl
@[simp] theorem chsPut_nym (s : State) (x : Chs) : (s.chsPut x).nym = s.nym := rfl
@[simp] theorem chsPut_aon (s : State) (x : Chs) : (s.chsPut x).aon = s.aon := rfl
@[simp] theorem chsPut_host (s : State) (x : Chs) : (s.chsPut x).host = s.host := rfl
@[simp] theorem chsPut_sig (s : State) (x : Chs) : (s.chsPut x).sig = s.sig := rfl
@[simp] theorem chsPut_reg (s : State) (x : Chs) (z : Nat) : (s.chsPut x).reg z = s.reg z := congrArg (fun m => Sparse.get resetWord m z) (chsPut_rf s x)
@[simp] theorem chsPut_fld (s : State) (x : Chs) (z : Fld) : (s.chsPut x).fld z = s.fld z := congrArg (fun w => getBits w z.lsb z.width) (chsPut_reg s x z.addr)
@[simp] theorem chsPut_flag (s : State) (x : Chs) (z : Fld) : (s.chsPut x).flag z = s.flag z := congrArg (fun v => decide (v = 1)) (chsPut_fld s x z)
@[simp] theorem chsPut_fldI (s : State) (x : Chs) (z : Fld) : (s.chsPut x).fldI z = s.fldI z := congrArg (signed z.width) (chsPut_fld s x z)
@[simp] theorem chsPut_regBit (s : State) (x : Chs) (z i : Nat) : (s.chsPut x).regBit z i = s.regBit z i := congrArg (fun w => decide (getBits w i 1 = 1)) (chsPut_reg s x z)

/-! ### hostPut -/

@[simp] theorem hostPut_pending (s : State) (x : HostIf) : (s.hostPut x).pending = s.pending := rfl
@[simp] theorem hostPut_rf (s : State) (x : HostIf) : (s.hostPut x).rf = s.rf := rfl
@[simp] theorem hostPut_shV (s : State) (x : HostIf) : (s.hostPut x).shV = s.shV := rfl
@[simp] theorem hostPut_shM (s : State) (x : HostIf) : (s.hostPut x).shM = s.shM := rfl
@[simp] theorem hostPut_resp (s : State) (x : HostIf) : (s.hostPut x).resp = s.resp := rfl
@[simp] theorem hostPut_rdata (s : State) (x : HostIf) : (s.hostPut x).rdata = s.rdata := rfl
@[simp] theorem hostPut_tocPend (s : State) (x : HostIf) : (s.hostPut x).tocPend = s.tocPend := rfl
@[simp] theorem hostPut_freeCount (s : State) (x : HostIf) : (s.hostPut x).freeCount = s.freeCount := rfl
@[simp] theorem hostPut_sys (s : State) (x : HostIf) : (s.hostPut x).sys = s.sys := rfl
@[simp] theorem hostPut_mem (s : State) (x : HostIf) : (s.hostPut x).mem = s.mem := rfl
@[simp] theorem hostPut_dma (s : State) (x : HostIf) : (s.hostPut x).dma = s.dma := rfl
@[simp] theorem hostPut_tbu (s : State) (x : HostIf) : (s.hostPut x).tbu = s.tbu := rfl
@[simp] theorem hostPut_drl (s : State) (x : HostIf) : (s.hostPut x).drl = s.drl := rfl
@[simp] theorem hostPut_tio (s : State) (x : HostIf) : (s.hostPut x).tio = s.tio := rfl
@[simp] theorem hostPut_pmu (s : State) (x : HostIf) : (s.hostPut x).pmu = s.pmu := rfl
@[simp] theorem hostPut_clk (s : State) (x : HostIf) : (s.hostPut x).clk = s.clk := rfl
@[simp] theorem hostPut_cmon (s : State) (x : HostIf) : (s.hostPut x).cmon = s.cmon := rfl
@[simp] theorem hostPut_rfs (s : State) (x : HostIf) : (s.hostPut x).rfs = s.rfs := rfl
@[simp] theorem hostPut_toc (s : State) (x : HostIf) : (s.hostPut x).toc = s.toc := rfl
@[simp] theorem hostPut_cores (s : State) (x : HostIf) : (s.hostPut x).cores = s.cores := rfl
@[simp] theorem hostPut_dfe (s : State) (x : HostIf) : (s.hostPut x).dfe = s.dfe := rfl
@[simp] theorem hostPut_arr (s : State) (x : HostIf) : (s.hostPut x).arr = s.arr := rfl
@[simp] theorem hostPut_pair (s : State) (x : HostIf) : (s.hostPut x).pair = s.pair := rfl
@[simp] theorem hostPut_acq (s : State) (x : HostIf) : (s.hostPut x).acq = s.acq := rfl
@[simp] theorem hostPut_cor (s : State) (x : HostIf) : (s.hostPut x).cor = s.cor := rfl
@[simp] theorem hostPut_chs (s : State) (x : HostIf) : (s.hostPut x).chs = s.chs := rfl
@[simp] theorem hostPut_ptp (s : State) (x : HostIf) : (s.hostPut x).ptp = s.ptp := rfl
@[simp] theorem hostPut_nym (s : State) (x : HostIf) : (s.hostPut x).nym = s.nym := rfl
@[simp] theorem hostPut_aon (s : State) (x : HostIf) : (s.hostPut x).aon = s.aon := rfl
@[simp] theorem hostPut_host (s : State) (x : HostIf) : (s.hostPut x).host = x := rfl
@[simp] theorem hostPut_sig (s : State) (x : HostIf) : (s.hostPut x).sig = s.sig := rfl
@[simp] theorem hostPut_reg (s : State) (x : HostIf) (z : Nat) : (s.hostPut x).reg z = s.reg z := congrArg (fun m => Sparse.get resetWord m z) (hostPut_rf s x)
@[simp] theorem hostPut_fld (s : State) (x : HostIf) (z : Fld) : (s.hostPut x).fld z = s.fld z := congrArg (fun w => getBits w z.lsb z.width) (hostPut_reg s x z.addr)
@[simp] theorem hostPut_flag (s : State) (x : HostIf) (z : Fld) : (s.hostPut x).flag z = s.flag z := congrArg (fun v => decide (v = 1)) (hostPut_fld s x z)
@[simp] theorem hostPut_fldI (s : State) (x : HostIf) (z : Fld) : (s.hostPut x).fldI z = s.fldI z := congrArg (signed z.width) (hostPut_fld s x z)
@[simp] theorem hostPut_regBit (s : State) (x : HostIf) (z i : Nat) : (s.hostPut x).regBit z i = s.regBit z i := congrArg (fun w => decide (getBits w i 1 = 1)) (hostPut_reg s x z)

/-! ### coreSet -/

@[simp] theorem coreSet_pending (s : State) (c : Nat) (k : Core) : (s.coreSet c k).pending = s.pending := rfl
@[simp] theorem coreSet_rf (s : State) (c : Nat) (k : Core) : (s.coreSet c k).rf = s.rf := rfl
@[simp] theorem coreSet_shV (s : State) (c : Nat) (k : Core) : (s.coreSet c k).shV = s.shV := rfl
@[simp] theorem coreSet_shM (s : State) (c : Nat) (k : Core) : (s.coreSet c k).shM = s.shM := rfl
@[simp] theorem coreSet_resp (s : State) (c : Nat) (k : Core) : (s.coreSet c k).resp = s.resp := rfl
@[simp] theorem coreSet_rdata (s : State) (c : Nat) (k : Core) : (s.coreSet c k).rdata = s.rdata := rfl
@[simp] theorem coreSet_tocPend (s : State) (c : Nat) (k : Core) : (s.coreSet c k).tocPend = s.tocPend := rfl
@[simp] theorem coreSet_freeCount (s : State) (c : Nat) (k : Core) : (s.coreSet c k).freeCount = s.freeCount := rfl
@[simp] theorem coreSet_sys (s : State) (c : Nat) (k : Core) : (s.coreSet c k).sys = s.sys := rfl
@[simp] theorem coreSet_mem (s : State) (c : Nat) (k : Core) : (s.coreSet c k).mem = s.mem := rfl
@[simp] theorem coreSet_dma (s : State) (c : Nat) (k : Core) : (s.coreSet c k).dma = s.dma := rfl
@[simp] theorem coreSet_tbu (s : State) (c : Nat) (k : Core) : (s.coreSet c k).tbu = s.tbu := rfl
@[simp] theorem coreSet_drl (s : State) (c : Nat) (k : Core) : (s.coreSet c k).drl = s.drl := rfl
@[simp] theorem coreSet_tio (s : State) (c : Nat) (k : Core) : (s.coreSet c k).tio = s.tio := rfl
@[simp] theorem coreSet_pmu (s : State) (c : Nat) (k : Core) : (s.coreSet c k).pmu = s.pmu := rfl
@[simp] theorem coreSet_clk (s : State) (c : Nat) (k : Core) : (s.coreSet c k).clk = s.clk := rfl
@[simp] theorem coreSet_cmon (s : State) (c : Nat) (k : Core) : (s.coreSet c k).cmon = s.cmon := rfl
@[simp] theorem coreSet_rfs (s : State) (c : Nat) (k : Core) : (s.coreSet c k).rfs = s.rfs := rfl
@[simp] theorem coreSet_toc (s : State) (c : Nat) (k : Core) : (s.coreSet c k).toc = s.toc := rfl
@[simp] theorem coreSet_dfe (s : State) (c : Nat) (k : Core) : (s.coreSet c k).dfe = s.dfe := rfl
@[simp] theorem coreSet_arr (s : State) (c : Nat) (k : Core) : (s.coreSet c k).arr = s.arr := rfl
@[simp] theorem coreSet_pair (s : State) (c : Nat) (k : Core) : (s.coreSet c k).pair = s.pair := rfl
@[simp] theorem coreSet_acq (s : State) (c : Nat) (k : Core) : (s.coreSet c k).acq = s.acq := rfl
@[simp] theorem coreSet_cor (s : State) (c : Nat) (k : Core) : (s.coreSet c k).cor = s.cor := rfl
@[simp] theorem coreSet_chs (s : State) (c : Nat) (k : Core) : (s.coreSet c k).chs = s.chs := rfl
@[simp] theorem coreSet_ptp (s : State) (c : Nat) (k : Core) : (s.coreSet c k).ptp = s.ptp := rfl
@[simp] theorem coreSet_nym (s : State) (c : Nat) (k : Core) : (s.coreSet c k).nym = s.nym := rfl
@[simp] theorem coreSet_aon (s : State) (c : Nat) (k : Core) : (s.coreSet c k).aon = s.aon := rfl
@[simp] theorem coreSet_host (s : State) (c : Nat) (k : Core) : (s.coreSet c k).host = s.host := rfl
@[simp] theorem coreSet_sig (s : State) (c : Nat) (k : Core) : (s.coreSet c k).sig = s.sig := rfl
@[simp] theorem coreSet_reg (s : State) (c : Nat) (k : Core) (z : Nat) : (s.coreSet c k).reg z = s.reg z := congrArg (fun m => Sparse.get resetWord m z) (coreSet_rf s c k)
@[simp] theorem coreSet_fld (s : State) (c : Nat) (k : Core) (z : Fld) : (s.coreSet c k).fld z = s.fld z := congrArg (fun w => getBits w z.lsb z.width) (coreSet_reg s c k z.addr)
@[simp] theorem coreSet_flag (s : State) (c : Nat) (k : Core) (z : Fld) : (s.coreSet c k).flag z = s.flag z := congrArg (fun v => decide (v = 1)) (coreSet_fld s c k z)
@[simp] theorem coreSet_fldI (s : State) (c : Nat) (k : Core) (z : Fld) : (s.coreSet c k).fldI z = s.fldI z := congrArg (signed z.width) (coreSet_fld s c k z)
@[simp] theorem coreSet_regBit (s : State) (c : Nat) (k : Core) (z i : Nat) : (s.coreSet c k).regBit z i = s.regBit z i := congrArg (fun w => decide (getBits w i 1 = 1)) (coreSet_reg s c k z)

/-! ### chanSet -/

@[simp] theorem chanSet_pending (s : State) (n : Nat) (x : DmaChan) : (s.chanSet n x).pending = s.pending := rfl
@[simp] theorem chanSet_rf (s : State) (n : Nat) (x : DmaChan) : (s.chanSet n x).rf = s.rf := rfl
@[simp] theorem chanSet_shV (s : State) (n : Nat) (x : DmaChan) : (s.chanSet n x).shV = s.shV := rfl
@[simp] theorem chanSet_shM (s : State) (n : Nat) (x : DmaChan) : (s.chanSet n x).shM = s.shM := rfl
@[simp] theorem chanSet_resp (s : State) (n : Nat) (x : DmaChan) : (s.chanSet n x).resp = s.resp := rfl
@[simp] theorem chanSet_rdata (s : State) (n : Nat) (x : DmaChan) : (s.chanSet n x).rdata = s.rdata := rfl
@[simp] theorem chanSet_tocPend (s : State) (n : Nat) (x : DmaChan) : (s.chanSet n x).tocPend = s.tocPend := rfl
@[simp] theorem chanSet_freeCount (s : State) (n : Nat) (x : DmaChan) : (s.chanSet n x).freeCount = s.freeCount := rfl
@[simp] theorem chanSet_sys (s : State) (n : Nat) (x : DmaChan) : (s.chanSet n x).sys = s.sys := rfl
@[simp] theorem chanSet_mem (s : State) (n : Nat) (x : DmaChan) : (s.chanSet n x).mem = s.mem := rfl
@[simp] theorem chanSet_tbu (s : State) (n : Nat) (x : DmaChan) : (s.chanSet n x).tbu = s.tbu := rfl
@[simp] theorem chanSet_drl (s : State) (n : Nat) (x : DmaChan) : (s.chanSet n x).drl = s.drl := rfl
@[simp] theorem chanSet_tio (s : State) (n : Nat) (x : DmaChan) : (s.chanSet n x).tio = s.tio := rfl
@[simp] theorem chanSet_pmu (s : State) (n : Nat) (x : DmaChan) : (s.chanSet n x).pmu = s.pmu := rfl
@[simp] theorem chanSet_clk (s : State) (n : Nat) (x : DmaChan) : (s.chanSet n x).clk = s.clk := rfl
@[simp] theorem chanSet_cmon (s : State) (n : Nat) (x : DmaChan) : (s.chanSet n x).cmon = s.cmon := rfl
@[simp] theorem chanSet_rfs (s : State) (n : Nat) (x : DmaChan) : (s.chanSet n x).rfs = s.rfs := rfl
@[simp] theorem chanSet_toc (s : State) (n : Nat) (x : DmaChan) : (s.chanSet n x).toc = s.toc := rfl
@[simp] theorem chanSet_cores (s : State) (n : Nat) (x : DmaChan) : (s.chanSet n x).cores = s.cores := rfl
@[simp] theorem chanSet_dfe (s : State) (n : Nat) (x : DmaChan) : (s.chanSet n x).dfe = s.dfe := rfl
@[simp] theorem chanSet_arr (s : State) (n : Nat) (x : DmaChan) : (s.chanSet n x).arr = s.arr := rfl
@[simp] theorem chanSet_pair (s : State) (n : Nat) (x : DmaChan) : (s.chanSet n x).pair = s.pair := rfl
@[simp] theorem chanSet_acq (s : State) (n : Nat) (x : DmaChan) : (s.chanSet n x).acq = s.acq := rfl
@[simp] theorem chanSet_cor (s : State) (n : Nat) (x : DmaChan) : (s.chanSet n x).cor = s.cor := rfl
@[simp] theorem chanSet_chs (s : State) (n : Nat) (x : DmaChan) : (s.chanSet n x).chs = s.chs := rfl
@[simp] theorem chanSet_ptp (s : State) (n : Nat) (x : DmaChan) : (s.chanSet n x).ptp = s.ptp := rfl
@[simp] theorem chanSet_nym (s : State) (n : Nat) (x : DmaChan) : (s.chanSet n x).nym = s.nym := rfl
@[simp] theorem chanSet_aon (s : State) (n : Nat) (x : DmaChan) : (s.chanSet n x).aon = s.aon := rfl
@[simp] theorem chanSet_host (s : State) (n : Nat) (x : DmaChan) : (s.chanSet n x).host = s.host := rfl
@[simp] theorem chanSet_sig (s : State) (n : Nat) (x : DmaChan) : (s.chanSet n x).sig = s.sig := rfl
@[simp] theorem chanSet_reg (s : State) (n : Nat) (x : DmaChan) (z : Nat) : (s.chanSet n x).reg z = s.reg z := congrArg (fun m => Sparse.get resetWord m z) (chanSet_rf s n x)
@[simp] theorem chanSet_fld (s : State) (n : Nat) (x : DmaChan) (z : Fld) : (s.chanSet n x).fld z = s.fld z := congrArg (fun w => getBits w z.lsb z.width) (chanSet_reg s n x z.addr)
@[simp] theorem chanSet_flag (s : State) (n : Nat) (x : DmaChan) (z : Fld) : (s.chanSet n x).flag z = s.flag z := congrArg (fun v => decide (v = 1)) (chanSet_fld s n x z)
@[simp] theorem chanSet_fldI (s : State) (n : Nat) (x : DmaChan) (z : Fld) : (s.chanSet n x).fldI z = s.fldI z := congrArg (signed z.width) (chanSet_fld s n x z)
@[simp] theorem chanSet_regBit (s : State) (n : Nat) (x : DmaChan) (z i : Nat) : (s.chanSet n x).regBit z i = s.regBit z i := congrArg (fun w => decide (getBits w i 1 = 1)) (chanSet_reg s n x z)

/-! ### arrSet -/

@[simp] theorem arrSet_pending (s : State) (b : Nat) (x : Arr) : (s.arrSet b x).pending = s.pending := rfl
@[simp] theorem arrSet_rf (s : State) (b : Nat) (x : Arr) : (s.arrSet b x).rf = s.rf := rfl
@[simp] theorem arrSet_shV (s : State) (b : Nat) (x : Arr) : (s.arrSet b x).shV = s.shV := rfl
@[simp] theorem arrSet_shM (s : State) (b : Nat) (x : Arr) : (s.arrSet b x).shM = s.shM := rfl
@[simp] theorem arrSet_resp (s : State) (b : Nat) (x : Arr) : (s.arrSet b x).resp = s.resp := rfl
@[simp] theorem arrSet_rdata (s : State) (b : Nat) (x : Arr) : (s.arrSet b x).rdata = s.rdata := rfl
@[simp] theorem arrSet_tocPend (s : State) (b : Nat) (x : Arr) : (s.arrSet b x).tocPend = s.tocPend := rfl
@[simp] theorem arrSet_freeCount (s : State) (b : Nat) (x : Arr) : (s.arrSet b x).freeCount = s.freeCount := rfl
@[simp] theorem arrSet_sys (s : State) (b : Nat) (x : Arr) : (s.arrSet b x).sys = s.sys := rfl
@[simp] theorem arrSet_mem (s : State) (b : Nat) (x : Arr) : (s.arrSet b x).mem = s.mem := rfl
@[simp] theorem arrSet_dma (s : State) (b : Nat) (x : Arr) : (s.arrSet b x).dma = s.dma := rfl
@[simp] theorem arrSet_tbu (s : State) (b : Nat) (x : Arr) : (s.arrSet b x).tbu = s.tbu := rfl
@[simp] theorem arrSet_drl (s : State) (b : Nat) (x : Arr) : (s.arrSet b x).drl = s.drl := rfl
@[simp] theorem arrSet_tio (s : State) (b : Nat) (x : Arr) : (s.arrSet b x).tio = s.tio := rfl
@[simp] theorem arrSet_pmu (s : State) (b : Nat) (x : Arr) : (s.arrSet b x).pmu = s.pmu := rfl
@[simp] theorem arrSet_clk (s : State) (b : Nat) (x : Arr) : (s.arrSet b x).clk = s.clk := rfl
@[simp] theorem arrSet_cmon (s : State) (b : Nat) (x : Arr) : (s.arrSet b x).cmon = s.cmon := rfl
@[simp] theorem arrSet_rfs (s : State) (b : Nat) (x : Arr) : (s.arrSet b x).rfs = s.rfs := rfl
@[simp] theorem arrSet_toc (s : State) (b : Nat) (x : Arr) : (s.arrSet b x).toc = s.toc := rfl
@[simp] theorem arrSet_cores (s : State) (b : Nat) (x : Arr) : (s.arrSet b x).cores = s.cores := rfl
@[simp] theorem arrSet_dfe (s : State) (b : Nat) (x : Arr) : (s.arrSet b x).dfe = s.dfe := rfl
@[simp] theorem arrSet_pair (s : State) (b : Nat) (x : Arr) : (s.arrSet b x).pair = s.pair := rfl
@[simp] theorem arrSet_acq (s : State) (b : Nat) (x : Arr) : (s.arrSet b x).acq = s.acq := rfl
@[simp] theorem arrSet_cor (s : State) (b : Nat) (x : Arr) : (s.arrSet b x).cor = s.cor := rfl
@[simp] theorem arrSet_chs (s : State) (b : Nat) (x : Arr) : (s.arrSet b x).chs = s.chs := rfl
@[simp] theorem arrSet_ptp (s : State) (b : Nat) (x : Arr) : (s.arrSet b x).ptp = s.ptp := rfl
@[simp] theorem arrSet_nym (s : State) (b : Nat) (x : Arr) : (s.arrSet b x).nym = s.nym := rfl
@[simp] theorem arrSet_aon (s : State) (b : Nat) (x : Arr) : (s.arrSet b x).aon = s.aon := rfl
@[simp] theorem arrSet_host (s : State) (b : Nat) (x : Arr) : (s.arrSet b x).host = s.host := rfl
@[simp] theorem arrSet_sig (s : State) (b : Nat) (x : Arr) : (s.arrSet b x).sig = s.sig := rfl
@[simp] theorem arrSet_reg (s : State) (b : Nat) (x : Arr) (z : Nat) : (s.arrSet b x).reg z = s.reg z := congrArg (fun m => Sparse.get resetWord m z) (arrSet_rf s b x)
@[simp] theorem arrSet_fld (s : State) (b : Nat) (x : Arr) (z : Fld) : (s.arrSet b x).fld z = s.fld z := congrArg (fun w => getBits w z.lsb z.width) (arrSet_reg s b x z.addr)
@[simp] theorem arrSet_flag (s : State) (b : Nat) (x : Arr) (z : Fld) : (s.arrSet b x).flag z = s.flag z := congrArg (fun v => decide (v = 1)) (arrSet_fld s b x z)
@[simp] theorem arrSet_fldI (s : State) (b : Nat) (x : Arr) (z : Fld) : (s.arrSet b x).fldI z = s.fldI z := congrArg (signed z.width) (arrSet_fld s b x z)
@[simp] theorem arrSet_regBit (s : State) (b : Nat) (x : Arr) (z i : Nat) : (s.arrSet b x).regBit z i = s.regBit z i := congrArg (fun w => decide (getBits w i 1 = 1)) (arrSet_reg s b x z)

/-! ### dfeSet -/

@[simp] theorem dfeSet_pending (s : State) (p : Nat) (x : DfePath) : (s.dfeSet p x).pending = s.pending := rfl
@[simp] theorem dfeSet_rf (s : State) (p : Nat) (x : DfePath) : (s.dfeSet p x).rf = s.rf := rfl
@[simp] theorem dfeSet_shV (s : State) (p : Nat) (x : DfePath) : (s.dfeSet p x).shV = s.shV := rfl
@[simp] theorem dfeSet_shM (s : State) (p : Nat) (x : DfePath) : (s.dfeSet p x).shM = s.shM := rfl
@[simp] theorem dfeSet_resp (s : State) (p : Nat) (x : DfePath) : (s.dfeSet p x).resp = s.resp := rfl
@[simp] theorem dfeSet_rdata (s : State) (p : Nat) (x : DfePath) : (s.dfeSet p x).rdata = s.rdata := rfl
@[simp] theorem dfeSet_tocPend (s : State) (p : Nat) (x : DfePath) : (s.dfeSet p x).tocPend = s.tocPend := rfl
@[simp] theorem dfeSet_freeCount (s : State) (p : Nat) (x : DfePath) : (s.dfeSet p x).freeCount = s.freeCount := rfl
@[simp] theorem dfeSet_sys (s : State) (p : Nat) (x : DfePath) : (s.dfeSet p x).sys = s.sys := rfl
@[simp] theorem dfeSet_mem (s : State) (p : Nat) (x : DfePath) : (s.dfeSet p x).mem = s.mem := rfl
@[simp] theorem dfeSet_dma (s : State) (p : Nat) (x : DfePath) : (s.dfeSet p x).dma = s.dma := rfl
@[simp] theorem dfeSet_tbu (s : State) (p : Nat) (x : DfePath) : (s.dfeSet p x).tbu = s.tbu := rfl
@[simp] theorem dfeSet_drl (s : State) (p : Nat) (x : DfePath) : (s.dfeSet p x).drl = s.drl := rfl
@[simp] theorem dfeSet_tio (s : State) (p : Nat) (x : DfePath) : (s.dfeSet p x).tio = s.tio := rfl
@[simp] theorem dfeSet_pmu (s : State) (p : Nat) (x : DfePath) : (s.dfeSet p x).pmu = s.pmu := rfl
@[simp] theorem dfeSet_clk (s : State) (p : Nat) (x : DfePath) : (s.dfeSet p x).clk = s.clk := rfl
@[simp] theorem dfeSet_cmon (s : State) (p : Nat) (x : DfePath) : (s.dfeSet p x).cmon = s.cmon := rfl
@[simp] theorem dfeSet_rfs (s : State) (p : Nat) (x : DfePath) : (s.dfeSet p x).rfs = s.rfs := rfl
@[simp] theorem dfeSet_toc (s : State) (p : Nat) (x : DfePath) : (s.dfeSet p x).toc = s.toc := rfl
@[simp] theorem dfeSet_cores (s : State) (p : Nat) (x : DfePath) : (s.dfeSet p x).cores = s.cores := rfl
@[simp] theorem dfeSet_arr (s : State) (p : Nat) (x : DfePath) : (s.dfeSet p x).arr = s.arr := rfl
@[simp] theorem dfeSet_pair (s : State) (p : Nat) (x : DfePath) : (s.dfeSet p x).pair = s.pair := rfl
@[simp] theorem dfeSet_acq (s : State) (p : Nat) (x : DfePath) : (s.dfeSet p x).acq = s.acq := rfl
@[simp] theorem dfeSet_cor (s : State) (p : Nat) (x : DfePath) : (s.dfeSet p x).cor = s.cor := rfl
@[simp] theorem dfeSet_chs (s : State) (p : Nat) (x : DfePath) : (s.dfeSet p x).chs = s.chs := rfl
@[simp] theorem dfeSet_ptp (s : State) (p : Nat) (x : DfePath) : (s.dfeSet p x).ptp = s.ptp := rfl
@[simp] theorem dfeSet_nym (s : State) (p : Nat) (x : DfePath) : (s.dfeSet p x).nym = s.nym := rfl
@[simp] theorem dfeSet_aon (s : State) (p : Nat) (x : DfePath) : (s.dfeSet p x).aon = s.aon := rfl
@[simp] theorem dfeSet_host (s : State) (p : Nat) (x : DfePath) : (s.dfeSet p x).host = s.host := rfl
@[simp] theorem dfeSet_sig (s : State) (p : Nat) (x : DfePath) : (s.dfeSet p x).sig = s.sig := rfl
@[simp] theorem dfeSet_reg (s : State) (p : Nat) (x : DfePath) (z : Nat) : (s.dfeSet p x).reg z = s.reg z := congrArg (fun m => Sparse.get resetWord m z) (dfeSet_rf s p x)
@[simp] theorem dfeSet_fld (s : State) (p : Nat) (x : DfePath) (z : Fld) : (s.dfeSet p x).fld z = s.fld z := congrArg (fun w => getBits w z.lsb z.width) (dfeSet_reg s p x z.addr)
@[simp] theorem dfeSet_flag (s : State) (p : Nat) (x : DfePath) (z : Fld) : (s.dfeSet p x).flag z = s.flag z := congrArg (fun v => decide (v = 1)) (dfeSet_fld s p x z)
@[simp] theorem dfeSet_fldI (s : State) (p : Nat) (x : DfePath) (z : Fld) : (s.dfeSet p x).fldI z = s.fldI z := congrArg (signed z.width) (dfeSet_fld s p x z)
@[simp] theorem dfeSet_regBit (s : State) (p : Nat) (x : DfePath) (z i : Nat) : (s.dfeSet p x).regBit z i = s.regBit z i := congrArg (fun w => decide (getBits w i 1 = 1)) (dfeSet_reg s p x z)

/-! ### synSet -/

@[simp] theorem synSet_pending (s : State) (b : Nat) (x : Syn) : (s.synSet b x).pending = s.pending := rfl
@[simp] theorem synSet_rf (s : State) (b : Nat) (x : Syn) : (s.synSet b x).rf = s.rf := rfl
@[simp] theorem synSet_shV (s : State) (b : Nat) (x : Syn) : (s.synSet b x).shV = s.shV := rfl
@[simp] theorem synSet_shM (s : State) (b : Nat) (x : Syn) : (s.synSet b x).shM = s.shM := rfl
@[simp] theorem synSet_resp (s : State) (b : Nat) (x : Syn) : (s.synSet b x).resp = s.resp := rfl
@[simp] theorem synSet_rdata (s : State) (b : Nat) (x : Syn) : (s.synSet b x).rdata = s.rdata := rfl
@[simp] theorem synSet_tocPend (s : State) (b : Nat) (x : Syn) : (s.synSet b x).tocPend = s.tocPend := rfl
@[simp] theorem synSet_freeCount (s : State) (b : Nat) (x : Syn) : (s.synSet b x).freeCount = s.freeCount := rfl
@[simp] theorem synSet_sys (s : State) (b : Nat) (x : Syn) : (s.synSet b x).sys = s.sys := rfl
@[simp] theorem synSet_mem (s : State) (b : Nat) (x : Syn) : (s.synSet b x).mem = s.mem := rfl
@[simp] theorem synSet_dma (s : State) (b : Nat) (x : Syn) : (s.synSet b x).dma = s.dma := rfl
@[simp] theorem synSet_tbu (s : State) (b : Nat) (x : Syn) : (s.synSet b x).tbu = s.tbu := rfl
@[simp] theorem synSet_drl (s : State) (b : Nat) (x : Syn) : (s.synSet b x).drl = s.drl := rfl
@[simp] theorem synSet_tio (s : State) (b : Nat) (x : Syn) : (s.synSet b x).tio = s.tio := rfl
@[simp] theorem synSet_pmu (s : State) (b : Nat) (x : Syn) : (s.synSet b x).pmu = s.pmu := rfl
@[simp] theorem synSet_clk (s : State) (b : Nat) (x : Syn) : (s.synSet b x).clk = s.clk := rfl
@[simp] theorem synSet_cmon (s : State) (b : Nat) (x : Syn) : (s.synSet b x).cmon = s.cmon := rfl
@[simp] theorem synSet_toc (s : State) (b : Nat) (x : Syn) : (s.synSet b x).toc = s.toc := rfl
@[simp] theorem synSet_cores (s : State) (b : Nat) (x : Syn) : (s.synSet b x).cores = s.cores := rfl
@[simp] theorem synSet_dfe (s : State) (b : Nat) (x : Syn) : (s.synSet b x).dfe = s.dfe := rfl
@[simp] theorem synSet_arr (s : State) (b : Nat) (x : Syn) : (s.synSet b x).arr = s.arr := rfl
@[simp] theorem synSet_pair (s : State) (b : Nat) (x : Syn) : (s.synSet b x).pair = s.pair := rfl
@[simp] theorem synSet_acq (s : State) (b : Nat) (x : Syn) : (s.synSet b x).acq = s.acq := rfl
@[simp] theorem synSet_cor (s : State) (b : Nat) (x : Syn) : (s.synSet b x).cor = s.cor := rfl
@[simp] theorem synSet_chs (s : State) (b : Nat) (x : Syn) : (s.synSet b x).chs = s.chs := rfl
@[simp] theorem synSet_ptp (s : State) (b : Nat) (x : Syn) : (s.synSet b x).ptp = s.ptp := rfl
@[simp] theorem synSet_nym (s : State) (b : Nat) (x : Syn) : (s.synSet b x).nym = s.nym := rfl
@[simp] theorem synSet_aon (s : State) (b : Nat) (x : Syn) : (s.synSet b x).aon = s.aon := rfl
@[simp] theorem synSet_host (s : State) (b : Nat) (x : Syn) : (s.synSet b x).host = s.host := rfl
@[simp] theorem synSet_sig (s : State) (b : Nat) (x : Syn) : (s.synSet b x).sig = s.sig := rfl
@[simp] theorem synSet_reg (s : State) (b : Nat) (x : Syn) (z : Nat) : (s.synSet b x).reg z = s.reg z := congrArg (fun m => Sparse.get resetWord m z) (synSet_rf s b x)
@[simp] theorem synSet_fld (s : State) (b : Nat) (x : Syn) (z : Fld) : (s.synSet b x).fld z = s.fld z := congrArg (fun w => getBits w z.lsb z.width) (synSet_reg s b x z.addr)
@[simp] theorem synSet_flag (s : State) (b : Nat) (x : Syn) (z : Fld) : (s.synSet b x).flag z = s.flag z := congrArg (fun v => decide (v = 1)) (synSet_fld s b x z)
@[simp] theorem synSet_fldI (s : State) (b : Nat) (x : Syn) (z : Fld) : (s.synSet b x).fldI z = s.fldI z := congrArg (signed z.width) (synSet_fld s b x z)
@[simp] theorem synSet_regBit (s : State) (b : Nat) (x : Syn) (z i : Nat) : (s.synSet b x).regBit z i = s.regBit z i := congrArg (fun w => decide (getBits w i 1 = 1)) (synSet_reg s b x z)

/-! ### pathSet -/

@[simp] theorem pathSet_pending (s : State) (p : Nat) (x : Path) : (s.pathSet p x).pending = s.pending := rfl
@[simp] theorem pathSet_rf (s : State) (p : Nat) (x : Path) : (s.pathSet p x).rf = s.rf := rfl
@[simp] theorem pathSet_shV (s : State) (p : Nat) (x : Path) : (s.pathSet p x).shV = s.shV := rfl
@[simp] theorem pathSet_shM (s : State) (p : Nat) (x : Path) : (s.pathSet p x).shM = s.shM := rfl
@[simp] theorem pathSet_resp (s : State) (p : Nat) (x : Path) : (s.pathSet p x).resp = s.resp := rfl
@[simp] theorem pathSet_rdata (s : State) (p : Nat) (x : Path) : (s.pathSet p x).rdata = s.rdata := rfl
@[simp] theorem pathSet_tocPend (s : State) (p : Nat) (x : Path) : (s.pathSet p x).tocPend = s.tocPend := rfl
@[simp] theorem pathSet_freeCount (s : State) (p : Nat) (x : Path) : (s.pathSet p x).freeCount = s.freeCount := rfl
@[simp] theorem pathSet_sys (s : State) (p : Nat) (x : Path) : (s.pathSet p x).sys = s.sys := rfl
@[simp] theorem pathSet_mem (s : State) (p : Nat) (x : Path) : (s.pathSet p x).mem = s.mem := rfl
@[simp] theorem pathSet_dma (s : State) (p : Nat) (x : Path) : (s.pathSet p x).dma = s.dma := rfl
@[simp] theorem pathSet_tbu (s : State) (p : Nat) (x : Path) : (s.pathSet p x).tbu = s.tbu := rfl
@[simp] theorem pathSet_drl (s : State) (p : Nat) (x : Path) : (s.pathSet p x).drl = s.drl := rfl
@[simp] theorem pathSet_tio (s : State) (p : Nat) (x : Path) : (s.pathSet p x).tio = s.tio := rfl
@[simp] theorem pathSet_pmu (s : State) (p : Nat) (x : Path) : (s.pathSet p x).pmu = s.pmu := rfl
@[simp] theorem pathSet_clk (s : State) (p : Nat) (x : Path) : (s.pathSet p x).clk = s.clk := rfl
@[simp] theorem pathSet_cmon (s : State) (p : Nat) (x : Path) : (s.pathSet p x).cmon = s.cmon := rfl
@[simp] theorem pathSet_toc (s : State) (p : Nat) (x : Path) : (s.pathSet p x).toc = s.toc := rfl
@[simp] theorem pathSet_cores (s : State) (p : Nat) (x : Path) : (s.pathSet p x).cores = s.cores := rfl
@[simp] theorem pathSet_dfe (s : State) (p : Nat) (x : Path) : (s.pathSet p x).dfe = s.dfe := rfl
@[simp] theorem pathSet_arr (s : State) (p : Nat) (x : Path) : (s.pathSet p x).arr = s.arr := rfl
@[simp] theorem pathSet_pair (s : State) (p : Nat) (x : Path) : (s.pathSet p x).pair = s.pair := rfl
@[simp] theorem pathSet_acq (s : State) (p : Nat) (x : Path) : (s.pathSet p x).acq = s.acq := rfl
@[simp] theorem pathSet_cor (s : State) (p : Nat) (x : Path) : (s.pathSet p x).cor = s.cor := rfl
@[simp] theorem pathSet_chs (s : State) (p : Nat) (x : Path) : (s.pathSet p x).chs = s.chs := rfl
@[simp] theorem pathSet_ptp (s : State) (p : Nat) (x : Path) : (s.pathSet p x).ptp = s.ptp := rfl
@[simp] theorem pathSet_nym (s : State) (p : Nat) (x : Path) : (s.pathSet p x).nym = s.nym := rfl
@[simp] theorem pathSet_aon (s : State) (p : Nat) (x : Path) : (s.pathSet p x).aon = s.aon := rfl
@[simp] theorem pathSet_host (s : State) (p : Nat) (x : Path) : (s.pathSet p x).host = s.host := rfl
@[simp] theorem pathSet_sig (s : State) (p : Nat) (x : Path) : (s.pathSet p x).sig = s.sig := rfl
@[simp] theorem pathSet_reg (s : State) (p : Nat) (x : Path) (z : Nat) : (s.pathSet p x).reg z = s.reg z := congrArg (fun m => Sparse.get resetWord m z) (pathSet_rf s p x)
@[simp] theorem pathSet_fld (s : State) (p : Nat) (x : Path) (z : Fld) : (s.pathSet p x).fld z = s.fld z := congrArg (fun w => getBits w z.lsb z.width) (pathSet_reg s p x z.addr)
@[simp] theorem pathSet_flag (s : State) (p : Nat) (x : Path) (z : Fld) : (s.pathSet p x).flag z = s.flag z := congrArg (fun v => decide (v = 1)) (pathSet_fld s p x z)
@[simp] theorem pathSet_fldI (s : State) (p : Nat) (x : Path) (z : Fld) : (s.pathSet p x).fldI z = s.fldI z := congrArg (signed z.width) (pathSet_fld s p x z)
@[simp] theorem pathSet_regBit (s : State) (p : Nat) (x : Path) (z i : Nat) : (s.pathSet p x).regBit z i = s.regBit z i := congrArg (fun w => decide (getBits w i 1 = 1)) (pathSet_reg s p x z)

/-! ### blankSet -/

@[simp] theorem blankSet_pending (s : State) (n : Nat) (v : Bool) : (s.blankSet n v).pending = s.pending := rfl
@[simp] theorem blankSet_rf (s : State) (n : Nat) (v : Bool) : (s.blankSet n v).rf = s.rf := rfl
@[simp] theorem blankSet_shV (s : State) (n : Nat) (v : Bool) : (s.blankSet n v).shV = s.shV := rfl
@[simp] theorem blankSet_shM (s : State) (n : Nat) (v : Bool) : (s.blankSet n v).shM = s.shM := rfl
@[simp] theorem blankSet_resp (s : State) (n : Nat) (v : Bool) : (s.blankSet n v).resp = s.resp := rfl
@[simp] theorem blankSet_rdata (s : State) (n : Nat) (v : Bool) : (s.blankSet n v).rdata = s.rdata := rfl
@[simp] theorem blankSet_tocPend (s : State) (n : Nat) (v : Bool) : (s.blankSet n v).tocPend = s.tocPend := rfl
@[simp] theorem blankSet_freeCount (s : State) (n : Nat) (v : Bool) : (s.blankSet n v).freeCount = s.freeCount := rfl
@[simp] theorem blankSet_sys (s : State) (n : Nat) (v : Bool) : (s.blankSet n v).sys = s.sys := rfl
@[simp] theorem blankSet_mem (s : State) (n : Nat) (v : Bool) : (s.blankSet n v).mem = s.mem := rfl
@[simp] theorem blankSet_dma (s : State) (n : Nat) (v : Bool) : (s.blankSet n v).dma = s.dma := rfl
@[simp] theorem blankSet_tbu (s : State) (n : Nat) (v : Bool) : (s.blankSet n v).tbu = s.tbu := rfl
@[simp] theorem blankSet_drl (s : State) (n : Nat) (v : Bool) : (s.blankSet n v).drl = s.drl := rfl
@[simp] theorem blankSet_tio (s : State) (n : Nat) (v : Bool) : (s.blankSet n v).tio = s.tio := rfl
@[simp] theorem blankSet_pmu (s : State) (n : Nat) (v : Bool) : (s.blankSet n v).pmu = s.pmu := rfl
@[simp] theorem blankSet_clk (s : State) (n : Nat) (v : Bool) : (s.blankSet n v).clk = s.clk := rfl
@[simp] theorem blankSet_cmon (s : State) (n : Nat) (v : Bool) : (s.blankSet n v).cmon = s.cmon := rfl
@[simp] theorem blankSet_toc (s : State) (n : Nat) (v : Bool) : (s.blankSet n v).toc = s.toc := rfl
@[simp] theorem blankSet_cores (s : State) (n : Nat) (v : Bool) : (s.blankSet n v).cores = s.cores := rfl
@[simp] theorem blankSet_dfe (s : State) (n : Nat) (v : Bool) : (s.blankSet n v).dfe = s.dfe := rfl
@[simp] theorem blankSet_arr (s : State) (n : Nat) (v : Bool) : (s.blankSet n v).arr = s.arr := rfl
@[simp] theorem blankSet_pair (s : State) (n : Nat) (v : Bool) : (s.blankSet n v).pair = s.pair := rfl
@[simp] theorem blankSet_acq (s : State) (n : Nat) (v : Bool) : (s.blankSet n v).acq = s.acq := rfl
@[simp] theorem blankSet_cor (s : State) (n : Nat) (v : Bool) : (s.blankSet n v).cor = s.cor := rfl
@[simp] theorem blankSet_chs (s : State) (n : Nat) (v : Bool) : (s.blankSet n v).chs = s.chs := rfl
@[simp] theorem blankSet_ptp (s : State) (n : Nat) (v : Bool) : (s.blankSet n v).ptp = s.ptp := rfl
@[simp] theorem blankSet_nym (s : State) (n : Nat) (v : Bool) : (s.blankSet n v).nym = s.nym := rfl
@[simp] theorem blankSet_aon (s : State) (n : Nat) (v : Bool) : (s.blankSet n v).aon = s.aon := rfl
@[simp] theorem blankSet_host (s : State) (n : Nat) (v : Bool) : (s.blankSet n v).host = s.host := rfl
@[simp] theorem blankSet_sig (s : State) (n : Nat) (v : Bool) : (s.blankSet n v).sig = s.sig := rfl
@[simp] theorem blankSet_reg (s : State) (n : Nat) (v : Bool) (z : Nat) : (s.blankSet n v).reg z = s.reg z := congrArg (fun m => Sparse.get resetWord m z) (blankSet_rf s n v)
@[simp] theorem blankSet_fld (s : State) (n : Nat) (v : Bool) (z : Fld) : (s.blankSet n v).fld z = s.fld z := congrArg (fun w => getBits w z.lsb z.width) (blankSet_reg s n v z.addr)
@[simp] theorem blankSet_flag (s : State) (n : Nat) (v : Bool) (z : Fld) : (s.blankSet n v).flag z = s.flag z := congrArg (fun v => decide (v = 1)) (blankSet_fld s n v z)
@[simp] theorem blankSet_fldI (s : State) (n : Nat) (v : Bool) (z : Fld) : (s.blankSet n v).fldI z = s.fldI z := congrArg (signed z.width) (blankSet_fld s n v z)
@[simp] theorem blankSet_regBit (s : State) (n : Nat) (v : Bool) (z i : Nat) : (s.blankSet n v).regBit z i = s.regBit z i := congrArg (fun w => decide (getBits w i 1 = 1)) (blankSet_reg s n v z)

/-! ### sramSetByte -/

@[simp] theorem sramSetByte_pending (s : State) (a : Nat) (b : Byte) : (s.sramSetByte a b).pending = s.pending := rfl
@[simp] theorem sramSetByte_rf (s : State) (a : Nat) (b : Byte) : (s.sramSetByte a b).rf = s.rf := rfl
@[simp] theorem sramSetByte_shV (s : State) (a : Nat) (b : Byte) : (s.sramSetByte a b).shV = s.shV := rfl
@[simp] theorem sramSetByte_shM (s : State) (a : Nat) (b : Byte) : (s.sramSetByte a b).shM = s.shM := rfl
@[simp] theorem sramSetByte_resp (s : State) (a : Nat) (b : Byte) : (s.sramSetByte a b).resp = s.resp := rfl
@[simp] theorem sramSetByte_rdata (s : State) (a : Nat) (b : Byte) : (s.sramSetByte a b).rdata = s.rdata := rfl
@[simp] theorem sramSetByte_tocPend (s : State) (a : Nat) (b : Byte) : (s.sramSetByte a b).tocPend = s.tocPend := rfl
@[simp] theorem sramSetByte_freeCount (s : State) (a : Nat) (b : Byte) : (s.sramSetByte a b).freeCount = s.freeCount := rfl
@[simp] theorem sramSetByte_sys (s : State) (a : Nat) (b : Byte) : (s.sramSetByte a b).sys = s.sys := rfl
@[simp] theorem sramSetByte_dma (s : State) (a : Nat) (b : Byte) : (s.sramSetByte a b).dma = s.dma := rfl
@[simp] theorem sramSetByte_tbu (s : State) (a : Nat) (b : Byte) : (s.sramSetByte a b).tbu = s.tbu := rfl
@[simp] theorem sramSetByte_drl (s : State) (a : Nat) (b : Byte) : (s.sramSetByte a b).drl = s.drl := rfl
@[simp] theorem sramSetByte_tio (s : State) (a : Nat) (b : Byte) : (s.sramSetByte a b).tio = s.tio := rfl
@[simp] theorem sramSetByte_pmu (s : State) (a : Nat) (b : Byte) : (s.sramSetByte a b).pmu = s.pmu := rfl
@[simp] theorem sramSetByte_clk (s : State) (a : Nat) (b : Byte) : (s.sramSetByte a b).clk = s.clk := rfl
@[simp] theorem sramSetByte_cmon (s : State) (a : Nat) (b : Byte) : (s.sramSetByte a b).cmon = s.cmon := rfl
@[simp] theorem sramSetByte_rfs (s : State) (a : Nat) (b : Byte) : (s.sramSetByte a b).rfs = s.rfs := rfl
@[simp] theorem sramSetByte_toc (s : State) (a : Nat) (b : Byte) : (s.sramSetByte a b).toc = s.toc := rfl
@[simp] theorem sramSetByte_cores (s : State) (a : Nat) (b : Byte) : (s.sramSetByte a b).cores = s.cores := rfl
@[simp] theorem sramSetByte_dfe (s : State) (a : Nat) (b : Byte) : (s.sramSetByte a b).dfe = s.dfe := rfl
@[simp] theorem sramSetByte_arr (s : State) (a : Nat) (b : Byte) : (s.sramSetByte a b).arr = s.arr := rfl
@[simp] theorem sramSetByte_pair (s : State) (a : Nat) (b : Byte) : (s.sramSetByte a b).pair = s.pair := rfl
@[simp] theorem sramSetByte_acq (s : State) (a : Nat) (b : Byte) : (s.sramSetByte a b).acq = s.acq := rfl
@[simp] theorem sramSetByte_cor (s : State) (a : Nat) (b : Byte) : (s.sramSetByte a b).cor = s.cor := rfl
@[simp] theorem sramSetByte_chs (s : State) (a : Nat) (b : Byte) : (s.sramSetByte a b).chs = s.chs := rfl
@[simp] theorem sramSetByte_ptp (s : State) (a : Nat) (b : Byte) : (s.sramSetByte a b).ptp = s.ptp := rfl
@[simp] theorem sramSetByte_nym (s : State) (a : Nat) (b : Byte) : (s.sramSetByte a b).nym = s.nym := rfl
@[simp] theorem sramSetByte_aon (s : State) (a : Nat) (b : Byte) : (s.sramSetByte a b).aon = s.aon := rfl
@[simp] theorem sramSetByte_host (s : State) (a : Nat) (b : Byte) : (s.sramSetByte a b).host = s.host := rfl
@[simp] theorem sramSetByte_sig (s : State) (a : Nat) (b : Byte) : (s.sramSetByte a b).sig = s.sig := rfl
@[simp] theorem sramSetByte_reg (s : State) (a : Nat) (b : Byte) (z : Nat) : (s.sramSetByte a b).reg z = s.reg z := congrArg (fun m => Sparse.get resetWord m z) (sramSetByte_rf s a b)
@[simp] theorem sramSetByte_fld (s : State) (a : Nat) (b : Byte) (z : Fld) : (s.sramSetByte a b).fld z = s.fld z := congrArg (fun w => getBits w z.lsb z.width) (sramSetByte_reg s a b z.addr)
@[simp] theorem sramSetByte_flag (s : State) (a : Nat) (b : Byte) (z : Fld) : (s.sramSetByte a b).flag z = s.flag z := congrArg (fun v => decide (v = 1)) (sramSetByte_fld s a b z)
@[simp] theorem sramSetByte_fldI (s : State) (a : Nat) (b : Byte) (z : Fld) : (s.sramSetByte a b).fldI z = s.fldI z := congrArg (signed z.width) (sramSetByte_fld s a b z)
@[simp] theorem sramSetByte_regBit (s : State) (a : Nat) (b : Byte) (z i : Nat) : (s.sramSetByte a b).regBit z i = s.regBit z i := congrArg (fun w => decide (getBits w i 1 = 1)) (sramSetByte_reg s a b z)

/-! ### sramSetBytes -/

@[simp] theorem sramSetBytes_pending (s : State) (a : Nat) (l : List Byte) : (s.sramSetBytes a l).pending = s.pending := rfl
@[simp] theorem sramSetBytes_rf (s : State) (a : Nat) (l : List Byte) : (s.sramSetBytes a l).rf = s.rf := rfl
@[simp] theorem sramSetBytes_shV (s : State) (a : Nat) (l : List Byte) : (s.sramSetBytes a l).shV = s.shV := rfl
@[simp] theorem sramSetBytes_shM (s : State) (a : Nat) (l : List Byte) : (s.sramSetBytes a l).shM = s.shM := rfl
@[simp] theorem sramSetBytes_resp (s : State) (a : Nat) (l : List Byte) : (s.sramSetBytes a l).resp = s.resp := rfl
@[simp] theorem sramSetBytes_rdata (s : State) (a : Nat) (l : List Byte) : (s.sramSetBytes a l).rdata = s.rdata := rfl
@[simp] theorem sramSetBytes_tocPend (s : State) (a : Nat) (l : List Byte) : (s.sramSetBytes a l).tocPend = s.tocPend := rfl
@[simp] theorem sramSetBytes_freeCount (s : State) (a : Nat) (l : List Byte) : (s.sramSetBytes a l).freeCount = s.freeCount := rfl
@[simp] theorem sramSetBytes_sys (s : State) (a : Nat) (l : List Byte) : (s.sramSetBytes a l).sys = s.sys := rfl
@[simp] theorem sramSetBytes_dma (s : State) (a : Nat) (l : List Byte) : (s.sramSetBytes a l).dma = s.dma := rfl
@[simp] theorem sramSetBytes_tbu (s : State) (a : Nat) (l : List Byte) : (s.sramSetBytes a l).tbu = s.tbu := rfl
@[simp] theorem sramSetBytes_drl (s : State) (a : Nat) (l : List Byte) : (s.sramSetBytes a l).drl = s.drl := rfl
@[simp] theorem sramSetBytes_tio (s : State) (a : Nat) (l : List Byte) : (s.sramSetBytes a l).tio = s.tio := rfl
@[simp] theorem sramSetBytes_pmu (s : State) (a : Nat) (l : List Byte) : (s.sramSetBytes a l).pmu = s.pmu := rfl
@[simp] theorem sramSetBytes_clk (s : State) (a : Nat) (l : List Byte) : (s.sramSetBytes a l).clk = s.clk := rfl
@[simp] theorem sramSetBytes_cmon (s : State) (a : Nat) (l : List Byte) : (s.sramSetBytes a l).cmon = s.cmon := rfl
@[simp] theorem sramSetBytes_rfs (s : State) (a : Nat) (l : List Byte) : (s.sramSetBytes a l).rfs = s.rfs := rfl
@[simp] theorem sramSetBytes_toc (s : State) (a : Nat) (l : List Byte) : (s.sramSetBytes a l).toc = s.toc := rfl
@[simp] theorem sramSetBytes_cores (s : State) (a : Nat) (l : List Byte) : (s.sramSetBytes a l).cores = s.cores := rfl
@[simp] theorem sramSetBytes_dfe (s : State) (a : Nat) (l : List Byte) : (s.sramSetBytes a l).dfe = s.dfe := rfl
@[simp] theorem sramSetBytes_arr (s : State) (a : Nat) (l : List Byte) : (s.sramSetBytes a l).arr = s.arr := rfl
@[simp] theorem sramSetBytes_pair (s : State) (a : Nat) (l : List Byte) : (s.sramSetBytes a l).pair = s.pair := rfl
@[simp] theorem sramSetBytes_acq (s : State) (a : Nat) (l : List Byte) : (s.sramSetBytes a l).acq = s.acq := rfl
@[simp] theorem sramSetBytes_cor (s : State) (a : Nat) (l : List Byte) : (s.sramSetBytes a l).cor = s.cor := rfl
@[simp] theorem sramSetBytes_chs (s : State) (a : Nat) (l : List Byte) : (s.sramSetBytes a l).chs = s.chs := rfl
@[simp] theorem sramSetBytes_ptp (s : State) (a : Nat) (l : List Byte) : (s.sramSetBytes a l).ptp = s.ptp := rfl
@[simp] theorem sramSetBytes_nym (s : State) (a : Nat) (l : List Byte) : (s.sramSetBytes a l).nym = s.nym := rfl
@[simp] theorem sramSetBytes_aon (s : State) (a : Nat) (l : List Byte) : (s.sramSetBytes a l).aon = s.aon := rfl
@[simp] theorem sramSetBytes_host (s : State) (a : Nat) (l : List Byte) : (s.sramSetBytes a l).host = s.host := rfl
@[simp] theorem sramSetBytes_sig (s : State) (a : Nat) (l : List Byte) : (s.sramSetBytes a l).sig = s.sig := rfl
@[simp] theorem sramSetBytes_reg (s : State) (a : Nat) (l : List Byte) (z : Nat) : (s.sramSetBytes a l).reg z = s.reg z := congrArg (fun m => Sparse.get resetWord m z) (sramSetBytes_rf s a l)
@[simp] theorem sramSetBytes_fld (s : State) (a : Nat) (l : List Byte) (z : Fld) : (s.sramSetBytes a l).fld z = s.fld z := congrArg (fun w => getBits w z.lsb z.width) (sramSetBytes_reg s a l z.addr)
@[simp] theorem sramSetBytes_flag (s : State) (a : Nat) (l : List Byte) (z : Fld) : (s.sramSetBytes a l).flag z = s.flag z := congrArg (fun v => decide (v = 1)) (sramSetBytes_fld s a l z)
@[simp] theorem sramSetBytes_fldI (s : State) (a : Nat) (l : List Byte) (z : Fld) : (s.sramSetBytes a l).fldI z = s.fldI z := congrArg (signed z.width) (sramSetBytes_fld s a l z)
@[simp] theorem sramSetBytes_regBit (s : State) (a : Nat) (l : List Byte) (z i : Nat) : (s.sramSetBytes a l).regBit z i = s.regBit z i := congrArg (fun w => decide (getBits w i 1 = 1)) (sramSetBytes_reg s a l z)

/-! ### eccClear -/

@[simp] theorem eccClear_pending (s : State) (l : List Nat) : (s.eccClear l).pending = s.pending := rfl
@[simp] theorem eccClear_rf (s : State) (l : List Nat) : (s.eccClear l).rf = s.rf := rfl
@[simp] theorem eccClear_shV (s : State) (l : List Nat) : (s.eccClear l).shV = s.shV := rfl
@[simp] theorem eccClear_shM (s : State) (l : List Nat) : (s.eccClear l).shM = s.shM := rfl
@[simp] theorem eccClear_resp (s : State) (l : List Nat) : (s.eccClear l).resp = s.resp := rfl
@[simp] theorem eccClear_rdata (s : State) (l : List Nat) : (s.eccClear l).rdata = s.rdata := rfl
@[simp] theorem eccClear_tocPend (s : State) (l : List Nat) : (s.eccClear l).tocPend = s.tocPend := rfl
@[simp] theorem eccClear_freeCount (s : State) (l : List Nat) : (s.eccClear l).freeCount = s.freeCount := rfl
@[simp] theorem eccClear_sys (s : State) (l : List Nat) : (s.eccClear l).sys = s.sys := rfl
@[simp] theorem eccClear_dma (s : State) (l : List Nat) : (s.eccClear l).dma = s.dma := rfl
@[simp] theorem eccClear_tbu (s : State) (l : List Nat) : (s.eccClear l).tbu = s.tbu := rfl
@[simp] theorem eccClear_drl (s : State) (l : List Nat) : (s.eccClear l).drl = s.drl := rfl
@[simp] theorem eccClear_tio (s : State) (l : List Nat) : (s.eccClear l).tio = s.tio := rfl
@[simp] theorem eccClear_pmu (s : State) (l : List Nat) : (s.eccClear l).pmu = s.pmu := rfl
@[simp] theorem eccClear_clk (s : State) (l : List Nat) : (s.eccClear l).clk = s.clk := rfl
@[simp] theorem eccClear_cmon (s : State) (l : List Nat) : (s.eccClear l).cmon = s.cmon := rfl
@[simp] theorem eccClear_rfs (s : State) (l : List Nat) : (s.eccClear l).rfs = s.rfs := rfl
@[simp] theorem eccClear_toc (s : State) (l : List Nat) : (s.eccClear l).toc = s.toc := rfl
@[simp] theorem eccClear_cores (s : State) (l : List Nat) : (s.eccClear l).cores = s.cores := rfl
@[simp] theorem eccClear_dfe (s : State) (l : List Nat) : (s.eccClear l).dfe = s.dfe := rfl
@[simp] theorem eccClear_arr (s : State) (l : List Nat) : (s.eccClear l).arr = s.arr := rfl
@[simp] theorem eccClear_pair (s : State) (l : List Nat) : (s.eccClear l).pair = s.pair := rfl
@[simp] theorem eccClear_acq (s : State) (l : List Nat) : (s.eccClear l).acq = s.acq := rfl
@[simp] theorem eccClear_cor (s : State) (l : List Nat) : (s.eccClear l).cor = s.cor := rfl
@[simp] theorem eccClear_chs (s : State) (l : List Nat) : (s.eccClear l).chs = s.chs := rfl
@[simp] theorem eccClear_ptp (s : State) (l : List Nat) : (s.eccClear l).ptp = s.ptp := rfl
@[simp] theorem eccClear_nym (s : State) (l : List Nat) : (s.eccClear l).nym = s.nym := rfl
@[simp] theorem eccClear_aon (s : State) (l : List Nat) : (s.eccClear l).aon = s.aon := rfl
@[simp] theorem eccClear_host (s : State) (l : List Nat) : (s.eccClear l).host = s.host := rfl
@[simp] theorem eccClear_sig (s : State) (l : List Nat) : (s.eccClear l).sig = s.sig := rfl
@[simp] theorem eccClear_reg (s : State) (l : List Nat) (z : Nat) : (s.eccClear l).reg z = s.reg z := congrArg (fun m => Sparse.get resetWord m z) (eccClear_rf s l)
@[simp] theorem eccClear_fld (s : State) (l : List Nat) (z : Fld) : (s.eccClear l).fld z = s.fld z := congrArg (fun w => getBits w z.lsb z.width) (eccClear_reg s l z.addr)
@[simp] theorem eccClear_flag (s : State) (l : List Nat) (z : Fld) : (s.eccClear l).flag z = s.flag z := congrArg (fun v => decide (v = 1)) (eccClear_fld s l z)
@[simp] theorem eccClear_fldI (s : State) (l : List Nat) (z : Fld) : (s.eccClear l).fldI z = s.fldI z := congrArg (signed z.width) (eccClear_fld s l z)
@[simp] theorem eccClear_regBit (s : State) (l : List Nat) (z i : Nat) : (s.eccClear l).regBit z i = s.regBit z i := congrArg (fun w => decide (getBits w i 1 = 1)) (eccClear_reg s l z)

/-! ### stickyAt and sticky -/

/-- An ERR_STICKY transition changes registers and the list of transitions alone. -/
theorem stickyAt_shape (s : State) (p b off : Nat) (w : Bool) (i d : Nat) :
    ∃ r t, s.stickyAt p b off w i d = { s with rf := r, tocPend := t } := by
  have h1 : ∀ (c : Prop) [Decidable c] (x : Word) (l : List StickyEvent), ∃ r t, (if c then ({ s.setReg (R.ERR_INFO p) x with tocPend := l } : State) else s) = { s with rf := r, tocPend := t } := by
    intro c _ x l
    by_cases h : c
    · exact ⟨_, _, if_pos h⟩
    · exact ⟨_, _, if_neg h⟩
  unfold stickyAt
  dsimp only
  obtain ⟨r, t, hr⟩ := h1 (s.reg (R.ERR_STICKY p) = 0 ∨ s.stickyNew p = true ∧ b < getBits (s.reg (R.ERR_INFO p)) 18 5) (errWord off i b d w) (s.tocPend.map fun e => if e.page = p then { e with info := errWord off i b d w } else e)
  rw [hr]
  by_cases h : getBits (s.reg (R.ERR_STICKY p)) b 1 = 1
  · exact ⟨r, t, if_pos h⟩
  · exact ⟨_, _, if_neg h⟩

@[simp] theorem stickyAt_pending (s : State) (p b off : Nat) (w : Bool) (i d : Nat) : (s.stickyAt p b off w i d).pending = s.pending := by
  obtain ⟨r, t, h⟩ := stickyAt_shape s p b off w i d
  rw [h]
@[simp] theorem sticky_pending (s : State) (p b d : Nat) : (s.sticky p b d).pending = s.pending := stickyAt_pending ..
@[simp] theorem stickyAt_shV (s : State) (p b off : Nat) (w : Bool) (i d : Nat) : (s.stickyAt p b off w i d).shV = s.shV := by
  obtain ⟨r, t, h⟩ := stickyAt_shape s p b off w i d
  rw [h]
@[simp] theorem sticky_shV (s : State) (p b d : Nat) : (s.sticky p b d).shV = s.shV := stickyAt_shV ..
@[simp] theorem stickyAt_shM (s : State) (p b off : Nat) (w : Bool) (i d : Nat) : (s.stickyAt p b off w i d).shM = s.shM := by
  obtain ⟨r, t, h⟩ := stickyAt_shape s p b off w i d
  rw [h]
@[simp] theorem sticky_shM (s : State) (p b d : Nat) : (s.sticky p b d).shM = s.shM := stickyAt_shM ..
@[simp] theorem stickyAt_resp (s : State) (p b off : Nat) (w : Bool) (i d : Nat) : (s.stickyAt p b off w i d).resp = s.resp := by
  obtain ⟨r, t, h⟩ := stickyAt_shape s p b off w i d
  rw [h]
@[simp] theorem sticky_resp (s : State) (p b d : Nat) : (s.sticky p b d).resp = s.resp := stickyAt_resp ..
@[simp] theorem stickyAt_rdata (s : State) (p b off : Nat) (w : Bool) (i d : Nat) : (s.stickyAt p b off w i d).rdata = s.rdata := by
  obtain ⟨r, t, h⟩ := stickyAt_shape s p b off w i d
  rw [h]
@[simp] theorem sticky_rdata (s : State) (p b d : Nat) : (s.sticky p b d).rdata = s.rdata := stickyAt_rdata ..
@[simp] theorem stickyAt_freeCount (s : State) (p b off : Nat) (w : Bool) (i d : Nat) : (s.stickyAt p b off w i d).freeCount = s.freeCount := by
  obtain ⟨r, t, h⟩ := stickyAt_shape s p b off w i d
  rw [h]
@[simp] theorem sticky_freeCount (s : State) (p b d : Nat) : (s.sticky p b d).freeCount = s.freeCount := stickyAt_freeCount ..
@[simp] theorem stickyAt_sys (s : State) (p b off : Nat) (w : Bool) (i d : Nat) : (s.stickyAt p b off w i d).sys = s.sys := by
  obtain ⟨r, t, h⟩ := stickyAt_shape s p b off w i d
  rw [h]
@[simp] theorem sticky_sys (s : State) (p b d : Nat) : (s.sticky p b d).sys = s.sys := stickyAt_sys ..
@[simp] theorem stickyAt_mem (s : State) (p b off : Nat) (w : Bool) (i d : Nat) : (s.stickyAt p b off w i d).mem = s.mem := by
  obtain ⟨r, t, h⟩ := stickyAt_shape s p b off w i d
  rw [h]
@[simp] theorem sticky_mem (s : State) (p b d : Nat) : (s.sticky p b d).mem = s.mem := stickyAt_mem ..
@[simp] theorem stickyAt_dma (s : State) (p b off : Nat) (w : Bool) (i d : Nat) : (s.stickyAt p b off w i d).dma = s.dma := by
  obtain ⟨r, t, h⟩ := stickyAt_shape s p b off w i d
  rw [h]
@[simp] theorem sticky_dma (s : State) (p b d : Nat) : (s.sticky p b d).dma = s.dma := stickyAt_dma ..
@[simp] theorem stickyAt_tbu (s : State) (p b off : Nat) (w : Bool) (i d : Nat) : (s.stickyAt p b off w i d).tbu = s.tbu := by
  obtain ⟨r, t, h⟩ := stickyAt_shape s p b off w i d
  rw [h]
@[simp] theorem sticky_tbu (s : State) (p b d : Nat) : (s.sticky p b d).tbu = s.tbu := stickyAt_tbu ..
@[simp] theorem stickyAt_drl (s : State) (p b off : Nat) (w : Bool) (i d : Nat) : (s.stickyAt p b off w i d).drl = s.drl := by
  obtain ⟨r, t, h⟩ := stickyAt_shape s p b off w i d
  rw [h]
@[simp] theorem sticky_drl (s : State) (p b d : Nat) : (s.sticky p b d).drl = s.drl := stickyAt_drl ..
@[simp] theorem stickyAt_tio (s : State) (p b off : Nat) (w : Bool) (i d : Nat) : (s.stickyAt p b off w i d).tio = s.tio := by
  obtain ⟨r, t, h⟩ := stickyAt_shape s p b off w i d
  rw [h]
@[simp] theorem sticky_tio (s : State) (p b d : Nat) : (s.sticky p b d).tio = s.tio := stickyAt_tio ..
@[simp] theorem stickyAt_pmu (s : State) (p b off : Nat) (w : Bool) (i d : Nat) : (s.stickyAt p b off w i d).pmu = s.pmu := by
  obtain ⟨r, t, h⟩ := stickyAt_shape s p b off w i d
  rw [h]
@[simp] theorem sticky_pmu (s : State) (p b d : Nat) : (s.sticky p b d).pmu = s.pmu := stickyAt_pmu ..
@[simp] theorem stickyAt_clk (s : State) (p b off : Nat) (w : Bool) (i d : Nat) : (s.stickyAt p b off w i d).clk = s.clk := by
  obtain ⟨r, t, h⟩ := stickyAt_shape s p b off w i d
  rw [h]
@[simp] theorem sticky_clk (s : State) (p b d : Nat) : (s.sticky p b d).clk = s.clk := stickyAt_clk ..
@[simp] theorem stickyAt_cmon (s : State) (p b off : Nat) (w : Bool) (i d : Nat) : (s.stickyAt p b off w i d).cmon = s.cmon := by
  obtain ⟨r, t, h⟩ := stickyAt_shape s p b off w i d
  rw [h]
@[simp] theorem sticky_cmon (s : State) (p b d : Nat) : (s.sticky p b d).cmon = s.cmon := stickyAt_cmon ..
@[simp] theorem stickyAt_rfs (s : State) (p b off : Nat) (w : Bool) (i d : Nat) : (s.stickyAt p b off w i d).rfs = s.rfs := by
  obtain ⟨r, t, h⟩ := stickyAt_shape s p b off w i d
  rw [h]
@[simp] theorem sticky_rfs (s : State) (p b d : Nat) : (s.sticky p b d).rfs = s.rfs := stickyAt_rfs ..
@[simp] theorem stickyAt_toc (s : State) (p b off : Nat) (w : Bool) (i d : Nat) : (s.stickyAt p b off w i d).toc = s.toc := by
  obtain ⟨r, t, h⟩ := stickyAt_shape s p b off w i d
  rw [h]
@[simp] theorem sticky_toc (s : State) (p b d : Nat) : (s.sticky p b d).toc = s.toc := stickyAt_toc ..
@[simp] theorem stickyAt_cores (s : State) (p b off : Nat) (w : Bool) (i d : Nat) : (s.stickyAt p b off w i d).cores = s.cores := by
  obtain ⟨r, t, h⟩ := stickyAt_shape s p b off w i d
  rw [h]
@[simp] theorem sticky_cores (s : State) (p b d : Nat) : (s.sticky p b d).cores = s.cores := stickyAt_cores ..
@[simp] theorem stickyAt_dfe (s : State) (p b off : Nat) (w : Bool) (i d : Nat) : (s.stickyAt p b off w i d).dfe = s.dfe := by
  obtain ⟨r, t, h⟩ := stickyAt_shape s p b off w i d
  rw [h]
@[simp] theorem sticky_dfe (s : State) (p b d : Nat) : (s.sticky p b d).dfe = s.dfe := stickyAt_dfe ..
@[simp] theorem stickyAt_arr (s : State) (p b off : Nat) (w : Bool) (i d : Nat) : (s.stickyAt p b off w i d).arr = s.arr := by
  obtain ⟨r, t, h⟩ := stickyAt_shape s p b off w i d
  rw [h]
@[simp] theorem sticky_arr (s : State) (p b d : Nat) : (s.sticky p b d).arr = s.arr := stickyAt_arr ..
@[simp] theorem stickyAt_pair (s : State) (p b off : Nat) (w : Bool) (i d : Nat) : (s.stickyAt p b off w i d).pair = s.pair := by
  obtain ⟨r, t, h⟩ := stickyAt_shape s p b off w i d
  rw [h]
@[simp] theorem sticky_pair (s : State) (p b d : Nat) : (s.sticky p b d).pair = s.pair := stickyAt_pair ..
@[simp] theorem stickyAt_acq (s : State) (p b off : Nat) (w : Bool) (i d : Nat) : (s.stickyAt p b off w i d).acq = s.acq := by
  obtain ⟨r, t, h⟩ := stickyAt_shape s p b off w i d
  rw [h]
@[simp] theorem sticky_acq (s : State) (p b d : Nat) : (s.sticky p b d).acq = s.acq := stickyAt_acq ..
@[simp] theorem stickyAt_cor (s : State) (p b off : Nat) (w : Bool) (i d : Nat) : (s.stickyAt p b off w i d).cor = s.cor := by
  obtain ⟨r, t, h⟩ := stickyAt_shape s p b off w i d
  rw [h]
@[simp] theorem sticky_cor (s : State) (p b d : Nat) : (s.sticky p b d).cor = s.cor := stickyAt_cor ..
@[simp] theorem stickyAt_chs (s : State) (p b off : Nat) (w : Bool) (i d : Nat) : (s.stickyAt p b off w i d).chs = s.chs := by
  obtain ⟨r, t, h⟩ := stickyAt_shape s p b off w i d
  rw [h]
@[simp] theorem sticky_chs (s : State) (p b d : Nat) : (s.sticky p b d).chs = s.chs := stickyAt_chs ..
@[simp] theorem stickyAt_ptp (s : State) (p b off : Nat) (w : Bool) (i d : Nat) : (s.stickyAt p b off w i d).ptp = s.ptp := by
  obtain ⟨r, t, h⟩ := stickyAt_shape s p b off w i d
  rw [h]
@[simp] theorem sticky_ptp (s : State) (p b d : Nat) : (s.sticky p b d).ptp = s.ptp := stickyAt_ptp ..
@[simp] theorem stickyAt_nym (s : State) (p b off : Nat) (w : Bool) (i d : Nat) : (s.stickyAt p b off w i d).nym = s.nym := by
  obtain ⟨r, t, h⟩ := stickyAt_shape s p b off w i d
  rw [h]
@[simp] theorem sticky_nym (s : State) (p b d : Nat) : (s.sticky p b d).nym = s.nym := stickyAt_nym ..
@[simp] theorem stickyAt_aon (s : State) (p b off : Nat) (w : Bool) (i d : Nat) : (s.stickyAt p b off w i d).aon = s.aon := by
  obtain ⟨r, t, h⟩ := stickyAt_shape s p b off w i d
  rw [h]
@[simp] theorem sticky_aon (s : State) (p b d : Nat) : (s.sticky p b d).aon = s.aon := stickyAt_aon ..
@[simp] theorem stickyAt_host (s : State) (p b off : Nat) (w : Bool) (i d : Nat) : (s.stickyAt p b off w i d).host = s.host := by
  obtain ⟨r, t, h⟩ := stickyAt_shape s p b off w i d
  rw [h]
@[simp] theorem sticky_host (s : State) (p b d : Nat) : (s.sticky p b d).host = s.host := stickyAt_host ..
@[simp] theorem stickyAt_sig (s : State) (p b off : Nat) (w : Bool) (i d : Nat) : (s.stickyAt p b off w i d).sig = s.sig := by
  obtain ⟨r, t, h⟩ := stickyAt_shape s p b off w i d
  rw [h]
@[simp] theorem sticky_sig (s : State) (p b d : Nat) : (s.sticky p b d).sig = s.sig := stickyAt_sig ..

/-! ### Registers and fields -/

/-- A register reads the word written to it. -/
@[simp] theorem reg_setReg_same (s : State) (a : Nat) (w : Word) : (s.setReg a w).reg a = w := Sparse.get_set_same ..

/-- A write leaves every other register alone. -/
theorem reg_setReg_other (s : State) {a b : Nat} (w : Word) (h : b ≠ a) : (s.setReg a w).reg b = s.reg b :=
  Sparse.get_set_other _ _ _ h

/-- A field reads what was put into it. -/
theorem fld_setFld_same (s : State) (f : Fld) (v : Nat) (h : f.lsb + f.width ≤ 32) : (s.setFld f v).fld f = v % 2 ^ f.width := by
  unfold setFld fld
  rw [reg_setReg_same, getBits_putBits_same _ _ _ _ h]

/-- A field of another register keeps its value. -/
theorem fld_setFld_addr (s : State) (f g : Fld) (v : Nat) (h : g.addr ≠ f.addr) : (s.setFld f v).fld g = s.fld g := by
  unfold setFld fld
  rw [reg_setReg_other _ _ h]

/-- Another field of the same register keeps its value. -/
theorem fld_setFld_bits (s : State) (f g : Fld) (v : Nat) (h : f.lsb + f.width ≤ 32)
    (hd : f.lsb + f.width ≤ g.lsb ∨ g.lsb + g.width ≤ f.lsb) (ha : g.addr = f.addr) : (s.setFld f v).fld g = s.fld g := by
  unfold setFld fld
  rw [ha, reg_setReg_same]
  rcases hd with hd | hd
  · exact getBits_putBits_above _ _ _ _ _ _ h hd
  · exact getBits_putBits_below _ _ _ _ _ _ h hd

theorem flag_setFlag_same (s : State) (f : Fld) (b : Bool) (h : f.lsb + f.width ≤ 32) (hw : f.width = 1) :
    (s.setFlag f b).flag f = b := by
  unfold flag setFlag
  rw [fld_setFld_same _ _ _ h, hw]
  cases b <;> rfl

end Sys2Proof.Machine.State
end

