-- ==== Sys2Proof/Laws/Bus.lean ====
section
/-! SUPPORT. What an access to register space can do, once for every command that is a write of one register. -/

namespace Sys2Proof.Machine.State

@[simp] theorem respond_mayWrite (s : State) (r : Resp) (i a : Nat) : (s.respond r).mayWrite i a = s.mayWrite i a := rfl
@[simp] theorem respond_beforeMc (s : State) (r : Resp) : (s.respond r).beforeMc = s.beforeMc := rfl

/-- A command whose write is accepted acts on the state in which the access has been served. -/
theorem via_admits {s : State} {init a : Nat} (h : s.admits init a = true) (act : State → State) :
    s.via init a act = act (s.respond .served) := by
  simp only [admits, Bool.and_eq_true, decide_eq_true_eq, Bool.not_eq_true'] at h
  obtain ⟨⟨⟨⟨h1, h2⟩, h3⟩, h4⟩, h5⟩ := h
  have h6 : ¬ (init = Init.HOST ∧ s.beforeMc = true) := by
    rintro ⟨a, b⟩
    simp [a, b] at h4
  simp only [via, viaWidth, h1, h2, h3, Bool.not_true, Bool.false_eq_true, if_false, respond_beforeMc, respond_mayWrite, h5, if_true, h6]

/-- A word write that is accepted acts on its register. -/
theorem busWrite_admits {s : State} {init a : Nat} (h : s.admits init a = true) (v : Word) :
    s.busWrite init a 4 v = (s.respond .served).regAct init a v := via_admits h _

/-- A word read that is served returns the word and has its read effect. -/
theorem busRead_serves {s : State} {init a : Nat} (h : s.serves init a = true) : s.busRead init a 4 = s.readDone a := by
  simp only [serves, Bool.and_eq_true, decide_eq_true_eq] at h
  obtain ⟨h1, h2⟩ := h
  simp only [busRead, h1, h2, Bool.not_true, Bool.false_eq_true, if_false]
  rfl

/-- Everything a command that is a write of one register can do: act; or end with a response, where one or two ERR_STICKY
bits may be set. -/
theorem via_cases (s : State) (init a : Nat) (act : State → State) :
    (s.admits init a = true ∧ s.via init a act = act (s.respond .served)) ∨
    (∃ r, s.via init a act = s.respond r) ∨
    (∃ r p b off w d, s.via init a act = (s.respond r).stickyAt p b off w init d) ∨
    (s.via init a act = (s.respond .served).refuseEarly a) ∨
    (s.via init a act = (s.respond .served).refuseWrite init a) := by
  by_cases h : s.admits init a = true
  · exact .inl ⟨h, via_admits h act⟩
  · right
    unfold via viaWidth
    by_cases h1 : regSpace init = true
    · simp only [h1, Bool.not_true, Bool.false_eq_true, if_false]
      cases h2 : s.accessCheck a 4
      case served =>
        by_cases h4 : init = Init.HOST ∧ (s.respond .served).beforeMc = true
        · rw [if_pos h4]
          exact .inr (.inr (.inl rfl))
        · by_cases h3 : mapped a = true
          · by_cases h5 : (s.respond .served).mayWrite init a = true
            · exfalso
              apply h
              simp only [admits, h1, h2, h3, Bool.and_eq_true, decide_eq_true_eq]
              refine ⟨⟨⟨⟨trivial, trivial⟩, trivial⟩, ?_⟩, h5⟩
              simp only [respond_beforeMc] at h4
              cases hb : s.beforeMc <;> simp_all
            · simp only [h3, Bool.not_true, Bool.false_eq_true, if_false]
              rw [if_neg h4, if_neg h5]
              exact .inr (.inr (.inr rfl))
          · simp only [h3]
            rw [if_neg h4]
            exact .inr (.inl ⟨_, _, _, _, _, _, rfl⟩)
      case align => exact .inr (.inl ⟨_, _, _, _, _, _, rfl⟩)
      all_goals exact .inl ⟨_, rfl⟩
    · simp only [h1]
      exact .inl ⟨_, rfl⟩

end Sys2Proof.Machine.State
end

