-- ==== Sys2Proof/Laws/Settle.lean ====
section
/-! SUPPORT. What the end of a command changes: the transitions that wait for Tocsin, Tocsin's inbox and the MSI-X part of the
host interface, and nothing else; what an ERR_STICKY transition does to the two registers of its page. -/

namespace Sys2Proof.Machine.State

/-- The end of a command, said whole: it touches three fields of the state. -/
theorem settle_shape (s : State) : ∃ tp toc host, s.settle = { s with tocPend := tp, toc := toc, host := host } := by
  have h : ∀ u : State, ∃ host, u.msixStep = { u with host := host } := by
    intro u
    unfold msixStep
    split
    · exact ⟨_, rfl⟩
    · exact ⟨u.host, rfl⟩
  unfold settle toTocsin
  split
  · obtain ⟨x, hx⟩ := h s
    exact ⟨s.tocPend, s.toc, x, hx⟩
  · obtain ⟨x, hx⟩ := h { s with
      tocPend := []
      toc := { s.toc with inbox := s.toc.inbox ++ [⟨s.logTime.1, s.logTime.2, s.mode, stickySort s.tocPend⟩] } }
    exact ⟨_, _, x, hx⟩

@[simp] theorem settle_rf (s : State) : s.settle.rf = s.rf := by
  obtain ⟨a, b, c, h⟩ := settle_shape s
  exact (congrArg State.rf h).trans rfl

@[simp] theorem settle_pending (s : State) : s.settle.pending = s.pending := by
  obtain ⟨a, b, c, h⟩ := settle_shape s
  exact (congrArg State.pending h).trans rfl

@[simp] theorem settle_shV (s : State) : s.settle.shV = s.shV := by
  obtain ⟨a, b, c, h⟩ := settle_shape s
  exact (congrArg State.shV h).trans rfl

@[simp] theorem settle_shM (s : State) : s.settle.shM = s.shM := by
  obtain ⟨a, b, c, h⟩ := settle_shape s
  exact (congrArg State.shM h).trans rfl

@[simp] theorem settle_resp (s : State) : s.settle.resp = s.resp := by
  obtain ⟨a, b, c, h⟩ := settle_shape s
  exact (congrArg State.resp h).trans rfl

@[simp] theorem settle_rdata (s : State) : s.settle.rdata = s.rdata := by
  obtain ⟨a, b, c, h⟩ := settle_shape s
  exact (congrArg State.rdata h).trans rfl

@[simp] theorem settle_freeCount (s : State) : s.settle.freeCount = s.freeCount := by
  obtain ⟨a, b, c, h⟩ := settle_shape s
  exact (congrArg State.freeCount h).trans rfl

@[simp] theorem settle_sys (s : State) : s.settle.sys = s.sys := by
  obtain ⟨a, b, c, h⟩ := settle_shape s
  exact (congrArg State.sys h).trans rfl

@[simp] theorem settle_mem (s : State) : s.settle.mem = s.mem := by
  obtain ⟨a, b, c, h⟩ := settle_shape s
  exact (congrArg State.mem h).trans rfl

@[simp] theorem settle_dma (s : State) : s.settle.dma = s.dma := by
  obtain ⟨a, b, c, h⟩ := settle_shape s
  exact (congrArg State.dma h).trans rfl

@[simp] theorem settle_tbu (s : State) : s.settle.tbu = s.tbu := by
  obtain ⟨a, b, c, h⟩ := settle_shape s
  exact (congrArg State.tbu h).trans rfl

@[simp] theorem settle_drl (s : State) : s.settle.drl = s.drl := by
  obtain ⟨a, b, c, h⟩ := settle_shape s
  exact (congrArg State.drl h).trans rfl

@[simp] theorem settle_tio (s : State) : s.settle.tio = s.tio := by
  obtain ⟨a, b, c, h⟩ := settle_shape s
  exact (congrArg State.tio h).trans rfl

@[simp] theorem settle_pmu (s : State) : s.settle.pmu = s.pmu := by
  obtain ⟨a, b, c, h⟩ := settle_shape s
  exact (congrArg State.pmu h).trans rfl

@[simp] theorem settle_clk (s : State) : s.settle.clk = s.clk := by
  obtain ⟨a, b, c, h⟩ := settle_shape s
  exact (congrArg State.clk h).trans rfl

@[simp] theorem settle_cmon (s : State) : s.settle.cmon = s.cmon := by
  obtain ⟨a, b, c, h⟩ := settle_shape s
  exact (congrArg State.cmon h).trans rfl

@[simp] theorem settle_rfs (s : State) : s.settle.rfs = s.rfs := by
  obtain ⟨a, b, c, h⟩ := settle_shape s
  exact (congrArg State.rfs h).trans rfl

@[simp] theorem settle_cores (s : State) : s.settle.cores = s.cores := by
  obtain ⟨a, b, c, h⟩ := settle_shape s
  exact (congrArg State.cores h).trans rfl

@[simp] theorem settle_dfe (s : State) : s.settle.dfe = s.dfe := by
  obtain ⟨a, b, c, h⟩ := settle_shape s
  exact (congrArg State.dfe h).trans rfl

@[simp] theorem settle_arr (s : State) : s.settle.arr = s.arr := by
  obtain ⟨a, b, c, h⟩ := settle_shape s
  exact (congrArg State.arr h).trans rfl

@[simp] theorem settle_pair (s : State) : s.settle.pair = s.pair := by
  obtain ⟨a, b, c, h⟩ := settle_shape s
  exact (congrArg State.pair h).trans rfl

@[simp] theorem settle_acq (s : State) : s.settle.acq = s.acq := by
  obtain ⟨a, b, c, h⟩ := settle_shape s
  exact (congrArg State.acq h).trans rfl

@[simp] theorem settle_cor (s : State) : s.settle.cor = s.cor := by
  obtain ⟨a, b, c, h⟩ := settle_shape s
  exact (congrArg State.cor h).trans rfl

@[simp] theorem settle_chs (s : State) : s.settle.chs = s.chs := by
  obtain ⟨a, b, c, h⟩ := settle_shape s
  exact (congrArg State.chs h).trans rfl

@[simp] theorem settle_ptp (s : State) : s.settle.ptp = s.ptp := by
  obtain ⟨a, b, c, h⟩ := settle_shape s
  exact (congrArg State.ptp h).trans rfl

@[simp] theorem settle_nym (s : State) : s.settle.nym = s.nym := by
  obtain ⟨a, b, c, h⟩ := settle_shape s
  exact (congrArg State.nym h).trans rfl

@[simp] theorem settle_sig (s : State) : s.settle.sig = s.sig := by
  obtain ⟨a, b, c, h⟩ := settle_shape s
  exact (congrArg State.sig h).trans rfl

@[simp] theorem settle_aon (s : State) : s.settle.aon = s.aon := by
  obtain ⟨a, b, c, h⟩ := settle_shape s
  exact (congrArg State.aon h).trans rfl

@[simp] theorem settle_reg (s : State) (a : Nat) : s.settle.reg a = s.reg a := by
  unfold reg
  rw [settle_rf]

@[simp] theorem settle_fld (s : State) (f : Fld) : s.settle.fld f = s.fld f := by
  unfold fld
  rw [settle_reg]

@[simp] theorem settle_flag (s : State) (f : Fld) : s.settle.flag f = s.flag f := by
  unfold flag
  rw [settle_fld]

@[simp] theorem settle_sramByte (s : State) (a : Nat) : s.settle.sramByte a = s.sramByte a := by
  unfold sramByte
  rw [settle_mem]

@[simp] theorem settle_coreGet (s : State) (c : Nat) : s.settle.coreGet c = s.coreGet c := by
  unfold coreGet
  rw [settle_cores]

@[simp] theorem respond_sramByte (s : State) (r : Resp) (a : Nat) : (s.respond r).sramByte a = s.sramByte a := rfl

/-! ### ERR_STICKY transitions -/

theorem sticky_ne_info (p : Nat) : R.ERR_STICKY p ≠ R.ERR_INFO p := by
  unfold R.ERR_STICKY R.ERR_INFO
  omega

/-- What a transition does to the registers: ERR_INFO where it is the first or the lowest of its cycle, then its bit. -/
theorem stickyAt_rf (s : State) (p b off : Nat) (w : Bool) (i d : Nat) :
    ∃ u : State, (∀ a, a ≠ R.ERR_INFO p → u.reg a = s.reg a) ∧ ∀ a, (s.stickyAt p b off w i d).reg a =
      (if getBits (s.reg (R.ERR_STICKY p)) b 1 = 1 then u else u.setRegBit (R.ERR_STICKY p) b true).reg a := by
  have h1 : ∀ (c : Prop) [Decidable c] (x : Word) (l : List StickyEvent) (a : Nat), a ≠ R.ERR_INFO p →
      (if c then ({ s.setReg (R.ERR_INFO p) x with tocPend := l } : State) else s).reg a = s.reg a := by
    intro c _ x l a h
    by_cases hc : c
    · rw [if_pos hc]
      exact reg_setReg_other s x h
    · rw [if_neg hc]
  refine ⟨if s.reg (R.ERR_STICKY p) = 0 ∨ s.stickyNew p = true ∧ b < getBits (s.reg (R.ERR_INFO p)) 18 5 then
      { s.setReg (R.ERR_INFO p) (errWord off i b d w) with
        tocPend := s.tocPend.map fun e => if e.page = p then { e with info := errWord off i b d w } else e }
    else s, h1 _ _ _, fun a => ?_⟩
  unfold stickyAt
  dsimp only
  by_cases h : getBits (s.reg (R.ERR_STICKY p)) b 1 = 1
  · rw [if_pos h, if_pos h]
  · rw [if_neg h, if_neg h]
    rfl

/-- A transition leaves every register but its page's ERR_STICKY and ERR_INFO. -/
theorem stickyAt_reg (s : State) (p b off : Nat) (w : Bool) (i d : Nat) {a : Nat} (h1 : a ≠ R.ERR_STICKY p)
    (h2 : a ≠ R.ERR_INFO p) : (s.stickyAt p b off w i d).reg a = s.reg a := by
  obtain ⟨u, hu, e⟩ := stickyAt_rf s p b off w i d
  rw [e]
  split
  · exact hu a h2
  · exact (reg_setReg_other u _ h1).trans (hu a h2)

@[simp] theorem stickyAt_sramByte (s : State) (p b off : Nat) (w : Bool) (i d a : Nat) :
    (s.stickyAt p b off w i d).sramByte a = s.sramByte a := by
  unfold sramByte
  rw [stickyAt_mem]

/-- After a transition its bit is set. -/
theorem stickyAt_flag (s : State) (p b off : Nat) (w : Bool) (i d : Nat) (h : b < 32) :
    (s.stickyAt p b off w i d).flag ⟨R.ERR_STICKY p, b, 1⟩ = true := by
  obtain ⟨u, hu, e⟩ := stickyAt_rf s p b off w i d
  unfold flag fld
  simp only [decide_eq_true_eq]
  rw [e]
  split
  · next hb => rw [hu _ (sticky_ne_info p), hb]
  · unfold setRegBit
    rw [reg_setReg_same, getBits_putBits_same _ _ _ _ (by omega)]
    rfl

end Sys2Proof.Machine.State
end

