-- ==== Sys2Proof/Laws/Core.lean ====
section
/-! SUPPORT. What an action of one Swiale core leaves unchanged, said once for the instruction step, exceptions and entries. -/

namespace Sys2Proof.Machine

/-- `t` differs from `s` only in core `c` and in the records of its page: ERR_STICKY, ERR_INFO, IRQ_RAW and the transitions
that wait for Tocsin. -/
structure CoreFrame (c : Nat) (s t : State) : Prop where
  shape : ∃ rf tp cs, t = { s with rf := rf, tocPend := tp, cores := cs }
  other : ∀ d, d ≠ c → t.coreGet d = s.coreGet d
  regs : ∀ a, a ≠ R.ERR_STICKY (P.CORE c) → a ≠ R.ERR_INFO (P.CORE c) → a ≠ R.IRQ_RAW (P.CORE c) → t.reg a = s.reg a

namespace State

theorem coreFrame_refl (c : Nat) (s : State) : CoreFrame c s s :=
  ⟨⟨s.rf, s.tocPend, s.cores, rfl⟩, fun _ _ => rfl, fun _ _ _ _ => rfl⟩

theorem coreFrame_trans {c : Nat} {s t u : State} (h : CoreFrame c s t) (k : CoreFrame c t u) : CoreFrame c s u := by
  obtain ⟨r, tp, cs, e⟩ := h.shape
  obtain ⟨r2, tp2, cs2, e2⟩ := k.shape
  refine ⟨⟨r2, tp2, cs2, ?_⟩, fun d hd => (k.other d hd).trans (h.other d hd), fun a h1 h2 h3 => ?_⟩
  · rw [e2, e]
  · exact (k.regs a h1 h2 h3).trans (h.regs a h1 h2 h3)

theorem coreGet_coreSet_other (s : State) {c d : Nat} (k : Core) (h : d ≠ c) : (s.coreSet c k).coreGet d = s.coreGet d := by
  unfold coreSet coreGet
  simp only [List.getD_eq_getElem?_getD]
  rw [List.getElem?_set_ne (Ne.symm h)]

theorem coreGet_coreSet_same (s : State) {c : Nat} (k : Core) (h : c < s.cores.length) : (s.coreSet c k).coreGet c = k := by
  unfold coreSet coreGet
  simp [List.getD_eq_getElem?_getD, h]

theorem coreSet_frame (s : State) (c : Nat) (k : Core) : CoreFrame c s (s.coreSet c k) :=
  ⟨⟨s.rf, s.tocPend, s.cores.set c k, rfl⟩, fun _ hd => coreGet_coreSet_other s k hd, fun _ _ _ _ => rfl⟩

theorem stickyAt_frame (s : State) (c b off : Nat) (w : Bool) (i d : Nat) :
    CoreFrame c s (s.stickyAt (P.CORE c) b off w i d) := by
  obtain ⟨r, t, h⟩ := stickyAt_shape s (P.CORE c) b off w i d
  refine ⟨⟨r, t, s.cores, by rw [h]⟩, fun e _ => ?_, fun a h1 h2 _ => stickyAt_reg s _ _ _ _ _ _ h1 h2⟩
  unfold coreGet
  rw [stickyAt_cores]

theorem sticky_frame (s : State) (c b d : Nat) : CoreFrame c s (s.sticky (P.CORE c) b d) := stickyAt_frame ..

theorem irq_frame (s : State) (c b : Nat) : CoreFrame c s (s.irq (P.CORE c) b) :=
  ⟨⟨_, s.tocPend, s.cores, rfl⟩, fun _ _ => rfl, fun _ _ _ h => reg_setReg_other _ _ h⟩

theorem corePut_frame (s : State) (c : Nat) (k : Core) : CoreFrame c s (s.corePut c k) := by
  unfold corePut
  simp only
  split
  · exact coreFrame_trans (coreSet_frame ..) (sticky_frame ..)
  · exact coreSet_frame ..

theorem coreRaise_frame (s : State) (c : Nat) (e : Exn) : CoreFrame c s (s.coreRaise c e) := by
  unfold coreRaise
  simp only
  have h1 : CoreFrame c s (if e.code = 12 then s.sticky (P.CORE c) 10 else s) := by
    split
    · exact sticky_frame ..
    · exact coreFrame_refl ..
  have hh : ∀ k : Core, CoreFrame c s
      ((((if e.code = 12 then s.sticky (P.CORE c) 10 else s).corePut c k).sticky (P.CORE c) 8).irq (P.CORE c) 0) :=
    fun k => coreFrame_trans h1 (coreFrame_trans (corePut_frame ..) (coreFrame_trans (sticky_frame ..) (irq_frame ..)))
  split
  · exact hh _
  · split
    · exact coreFrame_trans h1 (coreFrame_trans (corePut_frame ..) (irq_frame ..))
    · exact hh _

theorem coreStall_frame (s : State) (c n : Nat) : CoreFrame c s (s.coreStall c n) := coreSet_frame ..

/-- The instruction step of a core, whatever it executes and however it ends. -/
theorem coreStep_frame (s : State) (c : Nat) (is : SwOp → Bool) (ecc : Option (Nat × Bool)) (stall : Nat) :
    CoreFrame c s (s.coreStep c is ecc stall) := by
  unfold coreStep
  split
  · exact coreFrame_refl ..
  · simp only
    split
    · exact coreFrame_refl ..
    · next o len k1 _ =>
      split
      · exact coreFrame_refl ..
      · split
        · exact coreFrame_trans (coreSet_frame ..) (coreFrame_trans (coreStall_frame ..) (coreRaise_frame ..))
        · split
          · exact coreFrame_trans (coreSet_frame ..) (coreFrame_trans (coreStall_frame ..) (coreRaise_frame ..))
          · split
            · exact coreFrame_refl ..
            · exact coreFrame_trans (coreSet_frame ..) (coreFrame_trans (corePut_frame ..) (coreStall_frame ..))
            · exact coreFrame_trans (coreSet_frame ..) (corePut_frame ..)

theorem coreBadFetch_frame (s : State) (c : Nat) (ecc : Option (Nat × Bool)) : CoreFrame c s (s.coreBadFetch c ecc) := by
  unfold coreBadFetch
  split
  · exact coreFrame_refl ..
  · simp only
    split
    · exact coreFrame_refl ..
    · exact coreFrame_trans (coreSet_frame ..) (coreRaise_frame ..)

theorem coreEnter_frame (s : State) (c : Nat) (k : Core) (v : Nat) (f : Core → Core) : CoreFrame c s (s.coreEnter c k v f) := by
  unfold coreEnter
  split
  · exact corePut_frame ..
  · exact coreRaise_frame ..

/-- What a frame leaves of shared SRAM. -/
theorem coreFrame_sramByte {c : Nat} {s t : State} (h : CoreFrame c s t) (a : Nat) : t.sramByte a = s.sramByte a := by
  obtain ⟨r, tp, cs, e⟩ := h.shape
  unfold sramByte
  rw [e]

end State
end Sys2Proof.Machine
end

