-- ==== Sys2Proof/Laws/Signal.lean ====
section
/-! SUPPORT. The operations of the sample stream: reading back what was set, flagged samples, quantisers, how far a stretch of
samples runs, and what a monitor report can hold. -/

namespace Sys2Proof.Machine

namespace State

theorem pathSig_pathSigSet_same (s : State) {p : Nat} (x : PathSig) (h : p < s.sig.path.length) :
    (s.pathSigSet p x).pathSig p = x := by
  simp [pathSig, pathSigSet, List.getD_eq_getElem?_getD, h]

theorem pathSig_pathSigSet_other (s : State) {p q : Nat} (x : PathSig) (h : q ≠ p) :
    (s.pathSigSet p x).pathSig q = s.pathSig q := by
  simp [pathSig, pathSigSet, List.getD_eq_getElem?_getD, List.getElem?_set_ne (Ne.symm h)]

theorem bandSig_bandSigSet_same (s : State) {b : Nat} (x : BandSig) (h : b < s.sig.band.length) :
    (s.bandSigSet b x).bandSig b = x := by
  simp [bandSig, bandSigSet, List.getD_eq_getElem?_getD, h]

theorem bandSig_bandSigSet_other (s : State) {b c : Nat} (x : BandSig) (h : c ≠ b) :
    (s.bandSigSet b x).bandSig c = s.bandSig c := by
  simp [bandSig, bandSigSet, List.getD_eq_getElem?_getD, List.getElem?_set_ne (Ne.symm h)]

@[simp] theorem pathSigSet_reg (s : State) (p : Nat) (x : PathSig) (a : Nat) : (s.pathSigSet p x).reg a = s.reg a := rfl
@[simp] theorem bandSigSet_reg (s : State) (b : Nat) (x : BandSig) (a : Nat) : (s.bandSigSet b x).reg a = s.reg a := rfl

/-- A stretch of samples takes a first part of them and leaves the rest in order. -/
theorem feedTo_suffix (s : State) (raw : List (List Iq)) : (s.feedTo raw).2 <:+ raw := by
  induction raw generalizing s with
  | nil => exact List.suffix_refl _
  | cons r rs ih =>
    unfold feedTo
    split
    · exact List.suffix_refl _
    · exact (ih _).trans (List.suffix_cons r rs)

/-- Where something is due, no sample is taken. -/
theorem feedTo_due (s : State) (raw : List (List Iq)) (h : s.feedStops = true) : s.feedTo raw = (s, raw) := by
  cases raw with
  | nil => rfl
  | cons r rs => simp [feedTo, h]

/-- Samples are left over only where something has fallen due or the clock stands. -/
theorem feedTo_rest (s : State) (raw : List (List Iq)) (h : (s.feedTo raw).2 ≠ []) :
    (s.feedTo raw).1.feedStops = true ∨ (s.feedTo raw).1.domRuns 2 = false := by
  induction raw generalizing s with
  | nil => exact absurd rfl h
  | cons r rs ih =>
    unfold feedTo at h ⊢
    split at h
    · next g =>
      rw [if_pos g]
      simpa using g
    · next g =>
      rw [if_neg g]
      exact ih _ h

end State

/-! ### Flagged samples (R113, R146) -/

@[simp] theorem outSample_flag (x : Sample) : (outSample x).flag = x.flag := by
  cases x with
  | mk v f => cases f <;> rfl

theorem outSample_flagged {x : Sample} (h : x.flag = true) : outSample x = Sample.none := by simp [outSample, h]

theorem correctElement_flagged {hist : List (List Sample)} {e : Nat} {c : Corr} (h : (correctElement hist e c).flag = true) :
    correctElement hist e c = Sample.none := by
  unfold correctElement at h ⊢
  dsimp only at h ⊢
  split at h
  · next g => rw [if_pos g]
  · exact absurd h (by simp)

theorem beamSample_flagged {w : List Iq} {xs : List Sample} (h : (beamSample w xs).1.flag = true) :
    beamSample w xs = (Sample.none, false) := by
  unfold beamSample at h ⊢
  split at h
  · next g => rw [if_pos g]
  · exact absurd h (by simp)

/-! ### Quantisers (R129) -/

theorem quant2_le (x : Int) (qth rms : Nat) : quant2 x qth rms ≤ 1 := by
  unfold quant2
  split <;> omega

theorem quant4_le (x : Int) (qth rms : Nat) : quant4 x qth rms ≤ 7 := Nat.min_le_left ..

/-- A quantised value is odd. -/
theorem quantValue_odd (neg : Bool) (mag : Nat) : quantValue neg mag % 2 = 1 := by
  unfold quantValue
  split <;> omega

/-! ### Reports (R126, R154) -/

theorem reportPeaks_length (m : List (Int × Nat)) : (reportPeaks m).length ≤ 8 := by
  simp [reportPeaks, List.length_take]

/-- The peaks of a report lie more than 3 bins apart. -/
theorem reportPeaks_apart (m : List (Int × Nat)) :
    (reportPeaks m).Pairwise fun a b => 3 < (a.1 - b.1).natAbs := by
  have keep : ∀ (l acc : List (Int × Nat)), (acc.Pairwise fun a b => 3 < (a.1 - b.1).natAbs) →
      ((l.foldl (fun (l : List (Int × Nat)) m => if l.any (fun k => (k.1 - m.1).natAbs ≤ 3) then l else l ++ [m]) acc).Pairwise
        fun a b => 3 < (a.1 - b.1).natAbs) := by
    intro l
    induction l with
    | nil => exact fun _ h => h
    | cons x xs ih =>
      intro acc h
      refine ih _ ?_
      dsimp only
      split
      · exact h
      · next g =>
        refine List.pairwise_append.mpr ⟨h, List.pairwise_singleton .., fun a ha b hb => ?_⟩
        rw [List.mem_singleton.mp hb]
        by_contra hc
        exact g (List.any_eq_true.mpr ⟨a, ha, by simpa using hc⟩)
  exact (keep _ _ List.Pairwise.nil).sublist (List.take_sublist ..)

/-- A diagonal matrix is its own eigenvalues. -/
theorem jacobi_diagonal (m : List (List Iq)) (h : matDiagonal m = true) : (jacobi m).1 = m := by
  simp [jacobi, jacobiSweeps, h]

end Sys2Proof.Machine
end

