-- ==== Sys2Proof/Laws/Sram.lean ====
section
/-! SUPPORT. Laws of shared SRAM: a read after a write, what an access leaves unchanged, and the canonical form, which every
operation on memory keeps. -/

namespace Sys2Proof.Machine

theorem Sparse.get_append {α : Type} (d : Nat → α) (l m : List (Nat × α)) (j : Nat) (h : ∀ e ∈ l, e.1 ≠ j) :
    Sparse.get d (l ++ m) j = Sparse.get d m j := by
  induction l with
  | nil => rfl
  | cons e l ih =>
    obtain ⟨i, v⟩ := e
    have hi : i ≠ j := h (i, v) (by simp)
    simp only [List.cons_append, Sparse.get, hi, if_false]
    exact ih fun e he => h e (by simp [he])

theorem Sparse.get_append_left {α : Type} (d : Nat → α) (l m : List (Nat × α)) (j : Nat) (h : ∀ e ∈ m, e.1 ≠ j) :
    Sparse.get d (l ++ m) j = Sparse.get d l j := by
  induction l with
  | nil =>
    have := Sparse.get_append d m [] j h
    simpa [Sparse.get] using this
  | cons e l ih =>
    obtain ⟨i, v⟩ := e
    simp only [List.cons_append, Sparse.get]
    split
    · rfl
    · exact ih

theorem Sparse.get_filter {α : Type} (d : Nat → α) (m : List (Nat × α)) (q : Nat × α → Bool) (j : Nat)
    (h : ∀ v, q (j, v) = true) : Sparse.get d (m.filter q) j = Sparse.get d m j := by
  induction m with
  | nil => rfl
  | cons e m ih =>
    obtain ⟨i, v⟩ := e
    by_cases hi : i = j
    · subst hi
      simp [List.filter, h v, Sparse.get]
    · simp only [List.filter, Sparse.get, hi, if_false]
      split
      · simpa [Sparse.get, hi] using ih
      · exact ih

theorem Sparse.get_entries {α : Type} [DecidableEq α] (d : α) (vs : List α) : ∀ k j, k ≤ j → j < k + vs.length →
    Sparse.get (fun _ => d) (Sparse.entries d k vs) j = vs.getD (j - k) d := by
  induction vs with
  | nil =>
    intro k j h1 h2
    simp only [List.length_nil] at h2
    omega
  | cons v vs ih =>
    intro k j h1 h2
    simp only [List.length_cons] at h2
    simp only [Sparse.entries]
    by_cases hj : j = k
    · subst hj
      split
      · next hv =>
        have hn : ∀ e ∈ Sparse.entries d (j + 1) vs, e.1 ≠ j := fun e he => by
          have := (Sparse.entries_spec d vs (j + 1)).2 e he
          omega
        have := Sparse.get_append (fun _ => d) (Sparse.entries d (j + 1) vs) [] j hn
        simp only [List.append_nil] at this
        rw [this]
        simp [Sparse.get, hv]
      · simp [Sparse.get]
    · have e : j - k = (j - (k + 1)) + 1 := by omega
      rw [e, List.getD_cons_succ]
      split
      · exact ih (k + 1) j (by omega) (by omega)
      · rw [← ih (k + 1) j (by omega) (by omega)]
        simp [Sparse.get, Ne.symm hj]

/-- A stored run reads back. -/
theorem Sparse.get_setRange_in {α : Type} [DecidableEq α] (d : α) (m : List (Nat × α)) (k : Nat) (vs : List α) {j : Nat}
    (h1 : k ≤ j) (h2 : j < k + vs.length) : Sparse.get (fun _ => d) (Sparse.setRange d m k vs) j = vs.getD (j - k) d := by
  unfold Sparse.setRange
  rw [Sparse.get_append_left, Sparse.get_append, Sparse.get_entries d vs k j h1 h2]
  · intro e he
    have := (List.mem_filter.1 he).2
    simp only [decide_eq_true_eq] at this
    omega
  · intro e he
    have := (List.mem_filter.1 he).2
    simp only [decide_eq_true_eq] at this
    omega

/-- A stored run leaves every other key alone. -/
theorem Sparse.get_setRange_out {α : Type} [DecidableEq α] (d : α) (m : List (Nat × α)) (k : Nat) (vs : List α) {j : Nat}
    (h : j < k ∨ k + vs.length ≤ j) : Sparse.get (fun _ => d) (Sparse.setRange d m k vs) j = Sparse.get (fun _ => d) m j := by
  have he : ∀ e ∈ Sparse.entries d k vs, e.1 ≠ j := fun e he => by
    have := (Sparse.entries_spec d vs k).2 e he
    omega
  unfold Sparse.setRange
  rcases h with h | h
  · rw [List.append_assoc, Sparse.get_append_left]
    · exact Sparse.get_filter _ _ _ _ fun v => by simp [h]
    · intro e hm
      rcases List.mem_append.1 hm with hm | hm
      · exact he e hm
      · have := (List.mem_filter.1 hm).2
        simp only [decide_eq_true_eq] at this
        omega
  · rw [Sparse.get_append]
    · exact Sparse.get_filter _ _ _ _ fun v => by simp [h]
    · intro e hm
      rcases List.mem_append.1 hm with hm | hm
      · have := (List.mem_filter.1 hm).2
        simp only [decide_eq_true_eq] at this
        omega
      · exact he e hm

namespace State

/-- A byte reads as stored. -/
theorem sramByte_sramSetBytes_in (s : State) (a : Nat) (bs : List Byte) {y : Nat} (h1 : a ≤ y) (h2 : y < a + bs.length) :
    (s.sramSetBytes a bs).sramByte y = bs.getD (y - a) 0 := Sparse.get_setRange_in 0 s.mem.sram a bs h1 h2

/-- Every other byte reads as before. -/
theorem sramByte_sramSetBytes_out (s : State) (a : Nat) (bs : List Byte) {y : Nat} (h : y < a ∨ a + bs.length ≤ y) :
    (s.sramSetBytes a bs).sramByte y = s.sramByte y := Sparse.get_setRange_out 0 s.mem.sram a bs h

@[simp] theorem sramByte_sramSetByte_same (s : State) (a : Nat) (b : Byte) : (s.sramSetByte a b).sramByte a = b :=
  Sparse.get_set_same ..

theorem sramByte_sramSetByte_other (s : State) {a y : Nat} (b : Byte) (h : y ≠ a) :
    (s.sramSetByte a b).sramByte y = s.sramByte y := Sparse.get_set_other _ _ _ h

/-! ### What an operation leaves of shared SRAM -/

@[simp] theorem eccClear_sram (s : State) (ws : List Nat) : (s.eccClear ws).mem.sram = s.mem.sram := rfl

@[simp] theorem eccCount_mem (s : State) (ws : List Nat) (x : Access) : (s.eccCount ws x).mem = s.mem := by
  unfold eccCount
  simp only
  split
  · rfl
  · rw [stickyAt_mem, satFld_mem]

@[simp] theorem bankFail_mem (s : State) (x : Access) (r : Resp) : (s.bankFail x r).mem = s.mem := by
  unfold bankFail
  cases r
  case own => exact (stickyAt_mem ..).trans (setRegBit_mem ..)
  case align => exact stickyAt_mem ..
  case ecc => exact (stickyAt_mem ..).trans (setFld_mem ..)
  all_goals rfl

@[simp] theorem bankRecord_sram (s : State) (d : Bool) (r : Resp) (v : Nat) :
    (s.bankRecord d r v).mem.sram = s.mem.sram := by
  unfold bankRecord
  split <;> rfl

/-- Everything one access can do to shared SRAM: nothing, or store its bytes at its address, or the four lanes of its word. -/
theorem bankAccess_sram (s : State) (x : Access) :
    (s.bankAccess x).1.mem.sram = s.mem.sram ∨
    (∃ n v, x.write = true ∧ (s.bankAccess x).1.mem.sram = Sparse.setRange 0 s.mem.sram x.addr (leBytes n v)) ∨
    (∃ v, x.write = true ∧ (s.bankAccess x).1.mem.sram = Sparse.setRange 0 s.mem.sram (x.addr / 4 * 4) (leBytes 4 v)) := by
  unfold bankAccess
  split
  · simp only [bankDo]
    by_cases hw : x.write = true
    · simp only [hw, if_true]
      split
      · refine .inr (.inl ⟨x.size, x.value, trivial, ?_⟩)
        show Sparse.setRange 0 _ _ _ = _
        simp only [eccClear_sram, eccCount_mem]
      · split
        · exact .inr (.inr ⟨_, trivial, rfl⟩)
        · exact .inr (.inl ⟨x.size, x.value, trivial, rfl⟩)
    · simp only [hw, Bool.false_eq_true, if_false]
      split
      · exact .inl (congrArg Mem.sram (eccCount_mem ..))
      · exact .inl (congrArg Mem.sram (eccCount_mem ..))
  · exact .inl (congrArg Mem.sram (bankFail_mem ..))

/-! ### The canonical form -/

theorem sramSetByte_wf (s : State) (a : Nat) (b : Byte) (h : Memory.wf s.mem.sram = true) :
    Memory.wf (s.sramSetByte a b).mem.sram = true := Sparse.wf_set _ _ _ _ h

theorem sramSetBytes_wf (s : State) (a : Nat) (bs : List Byte) (h : Memory.wf s.mem.sram = true) :
    Memory.wf (s.sramSetBytes a bs).mem.sram = true := Sparse.wf_setRange _ _ _ _ h

theorem bankAccess_wf (s : State) (x : Access) (h : Memory.wf s.mem.sram = true) :
    Memory.wf (s.bankAccess x).1.mem.sram = true := by
  rcases bankAccess_sram s x with e | ⟨n, v, -, e⟩ | ⟨v, -, e⟩ <;> rw [e]
  · exact h
  · exact Sparse.wf_setRange _ _ _ _ h
  · exact Sparse.wf_setRange _ _ _ _ h

theorem bankPresent_wf (s : State) (x : Access) (h : Memory.wf s.mem.sram = true) :
    Memory.wf (s.bankPresent x).mem.sram = true := by
  unfold bankPresent
  split
  · exact h
  · simp only [bankRecord_sram]
    exact bankAccess_wf s x h

theorem bankSlot_wf (s : State) (p d : Access) (h : Memory.wf s.mem.sram = true) :
    Memory.wf (s.bankSlot p d).1.mem.sram = true := by
  unfold bankSlot
  simp only
  split
  · exact bankAccess_wf s p h
  · exact bankAccess_wf _ d (bankAccess_wf s p h)

/-- A slot of a bank keeps the canonical form. -/
theorem bankPresentSlot_wf (s : State) (p d : Option Access) (h : Memory.wf s.mem.sram = true) :
    Memory.wf (s.bankPresentSlot p d).mem.sram = true := by
  unfold bankPresentSlot
  split
  · exact h
  · exact bankPresent_wf _ _ h
  · exact bankPresent_wf _ _ h
  · split
    · exact bankPresent_wf _ _ (bankPresent_wf _ _ h)
    · simp only [bankRecord_sram]
      exact bankSlot_wf _ _ _ h

theorem portWrite_wf (s : State) (i a : Nat) (bs : List Byte) (h : Memory.wf s.mem.sram = true) :
    Memory.wf (s.portWrite i a bs).1.mem.sram = true := by
  unfold portWrite
  simp only
  split
  · rw [bankFail_mem]
    exact h
  · split
    · exact h
    · split
      · rw [bankFail_mem]
        exact h
      · refine Sparse.wf_setRange _ _ _ _ ?_
        rw [eccClear_sram, eccCount_mem]
        exact h

/-- A block's read stores nothing. -/
@[simp] theorem portRead_sram (s : State) (i a n : Nat) : (s.portRead i a n).1.mem.sram = s.mem.sram := by
  unfold portRead
  split
  · rw [bankFail_mem]
  · split
    · rfl
    · split
      · rw [bankFail_mem]
      · rw [eccCount_mem]

@[simp] theorem postedError_mem (s : State) (a : Nat) : (s.postedError a).mem = s.mem :=
  (stickyAt_mem ..).trans (setFld_mem ..)

theorem handRelease_wf (s : State) (b : Nat) (h : Memory.wf s.mem.sram = true) :
    Memory.wf (s.handRelease b).mem.sram = true := by
  unfold handRelease
  simp only
  refine List.foldlRecOn (motive := fun t : State => Memory.wf t.mem.sram = true) _ _ h fun t ht x _ => ?_
  have hp := bankPresent_wf t x.acc ht
  split
  · exact hp
  · split
    · exact hp
    · rw [postedError_mem]
      exact hp
    · exact hp

@[simp] theorem handRespond_mem (s : State) (w : Nat) : (s.handRespond w).mem = s.mem := by
  unfold handRespond nocDiscard
  split
  · simp only
    split <;> simp
  · rfl

@[simp] theorem handStart_sram (s : State) : (s.handStart).mem.sram = s.mem.sram := by
  unfold handStart
  simp only
  refine List.foldlRecOn (motive := fun t : State => t.mem.sram = s.mem.sram) _ _ rfl fun t ht h _ => ?_
  rw [setFlag_mem]
  exact ht

theorem handComplete_wf (s : State) (b : Nat) (h : Memory.wf s.mem.sram = true) :
    Memory.wf (s.handComplete b).mem.sram = true := by
  unfold handComplete
  split
  · exact h
  · split
    · simp only [handStart_sram, handRespond_mem]
      refine handRelease_wf _ _ ?_
      simp only [irq_mem, setFlag_mem, setFld_mem]
      exact h
    · exact h

/-- The hardware clear leaves nothing listed. -/
theorem sramClear_wf (s : State) : Memory.wf s.sramClear.mem.sram = true := by
  unfold sramClear
  exact Sparse.wf_nil _

/-- Memory after reset has the canonical form. -/
theorem reset_wf : Memory.wf State.reset.mem.sram = true := rfl

end State
end Sys2Proof.Machine
end

