-- ==== Sys2Proof/Laws/Swiale.lean ====
section
/-! SUPPORT. How an instruction of a core that is about to execute it ends: once for all rows, then for the shapes of
instructions that take their operands from the operand stack. -/

namespace Sys2Proof.Machine

theorem gives_iff {α : Type} [DecidableEq α] {e : Except Exn α} {v : α} : gives e v = true ↔ e = .ok v := by
  cases e <;> simp [gives]

theorem raises_iff {α : Type} {e : Except Exn α} {x : Exn} : raises e x = true ↔ e = .error x := by
  cases e <;> simp [raises]

namespace Core

/-- A push on a stack with room spills nothing. -/
theorem push_room {k : Core} (w : Word) (h : k.stack.length < 8) : k.push w = .ok { k with stack := w :: k.stack } := by
  simp [push, h]

/-- An instruction that needs `n` operands finds at least `n`, and no more are filled. -/
theorem need_length : ∀ (n : Nat) (k k1 : Core), k.need n = .ok k1 →
    k1.stack.length = max k.stack.length n := by
  intro n
  induction n with
  | zero => intro k k1 h; simp [need] at h; subst h; simp
  | succ n ih =>
    intro k k1 h
    simp only [need] at h
    cases hk : k.need n with
    | error e => simp [hk, bind, Except.bind] at h
    | ok k2 =>
      have := ih k k2 hk
      simp only [hk, bind, Except.bind] at h
      split at h
      · next hl =>
        unfold fill at h
        split at h
        · simp at h
        · simp only [bind, Except.bind, pure, Except.pure, readLocal] at h
          repeat' split at h
          all_goals first | (simp at h; done) | (simp only [Except.ok.injEq, Prod.mk.injEq, reduceCtorEq] at *; subst_vars; simp_all; omega) | (simp_all; done)
      · simp [pure, Except.pure] at h; subst h; omega

/-- Taking `n` operands once they are there. -/
theorem pops_need {k k1 : Core} {n : Nat} (h : k.need n = .ok k1) :
    k.pops n = .ok (k1.stack.take n, { k1 with stack := k1.stack.drop n }) := by
  simp [pops, h, bind, Except.bind, pure, Except.pure]

/-- Taking T0. -/
theorem pop_need {k k1 : Core} {a : Word} {r : List Word} (h : k.need 1 = .ok k1) (hs : k1.stack = a :: r) :
    k.pop = .ok (a, { k1 with stack := r }) := by
  simp [pop, pops_need h, hs, bind, Except.bind, pure, Except.pure]

end Core

namespace State

/-- A core about to execute an instruction has the depths that it can hold. -/
theorem begins_depths {s : State} {c len : Nat} {ecc : Option (Nat × Bool)} {o : SwOp} {k : Core}
    (h : s.begins c ecc o len k = true) : k.stack.length ≤ 8 ∧ k.rstack.length ≤ 16 ∧ k.loops.length ≤ 4 := by
  simp [begins, depthsHold] at h
  tauto

/-- What a core about to execute `o` has fetched. -/
theorem begins_fetch {s : State} {c len : Nat} {ecc : Option (Nat × Bool)} {o : SwOp} {k : Core}
    (h : s.begins c ecc o len k = true) : s.coreReady c = true ∧ k.misplaced o len = .ok () ∧
      ∃ k1, (coreEcc (s.coreGet c) ecc).fetch (coreEcc (s.coreGet c) ecc).pc = .ok (o, len, k1) ∧
        k = { k1 with lastPc := (coreEcc (s.coreGet c) ecc).pc } := by
  simp only [begins, Bool.and_eq_true, gives_iff] at h
  obtain ⟨⟨⟨hr, hk⟩, hm⟩, -⟩ := h
  refine ⟨hr, hm, ?_⟩
  cases hf : (coreEcc (s.coreGet c) ecc).fetch (coreEcc (s.coreGet c) ecc).pc with
  | error e => simp [hf, Except.map] at hk
  | ok x =>
    obtain ⟨o1, len1, k1⟩ := x
    simp only [hf, Except.map, Except.ok.injEq, Prod.mk.injEq] at hk
    exact ⟨k1, by rw [hk.1, hk.2.1], hk.2.2.symm⟩

/-- A core about to execute `o` finishes it where its own effect succeeds and neither waits nor leaves the core. -/
theorem coreStep_finishes {s : State} {c len stall : Nat} {is : SwOp → Bool} {ecc : Option (Nat × Bool)} {o : SwOp}
    {k k2 : Core} {f : Flow} (h : s.begins c ecc o len k = true) (hi : is o = true)
    (ho : k.operate (s.coreIpend c) (c + 1) (s.waitOver c) o len = .ok (k2, f)) (hb : f ≠ .blocked)
    (hf : ∀ r, f ≠ .far r) : s.coreStep c is ecc stall = s.finishes c k k2 o len f stall := by
  obtain ⟨hr, hm, k1, hk, rfl⟩ := begins_fetch h
  unfold coreStep finishes
  simp only [hr, hk, hi, hm, ho]
  cases f <;> simp_all

/-- A core about to execute `o` raises the exception that its own effect raises. -/
theorem coreStep_raises {s : State} {c len stall : Nat} {is : SwOp → Bool} {ecc : Option (Nat × Bool)} {o : SwOp}
    {k : Core} {e : Exn} (h : s.begins c ecc o len k = true) (hi : is o = true)
    (ho : k.operate (s.coreIpend c) (c + 1) (s.waitOver c) o len = .error e) :
    s.coreStep c is ecc stall = ((s.coreSet c k).coreStall c stall).coreRaise c e := by
  obtain ⟨hr, hm, k1, hk, rfl⟩ := begins_fetch h
  unfold coreStep
  simp only [hr, hk, hi, hm, ho]
  simp

/-- A load from beyond the core leaves it waiting for the response. -/
theorem coreStep_far {s : State} {c len stall : Nat} {is : SwOp → Bool} {ecc : Option (Nat × Bool)} {o : SwOp}
    {k k2 : Core} {r : LoadReq} (h : s.begins c ecc o len k = true) (hi : is o = true)
    (ho : k.operate (s.coreIpend c) (c + 1) (s.waitOver c) o len = .ok (k2, .far r)) :
    s.coreStep c is ecc stall = ((s.coreSet c k).corePut c { k with load := some r }).coreStall c stall := by
  obtain ⟨hr, hm, k1, hk, rfl⟩ := begins_fetch h
  unfold coreStep
  simp only [hr, hk, hi, hm, ho]
  simp

end State
end Sys2Proof.Machine
end

