-- ==== Sys2Proof/WellFormed.lean ====
section
/-! DEFINITION. Which commands are well formed: the operands lie in the ranges that the spec gives them (initiator IDs of
Table 2-2, 32-bit addresses and values, 4 KiB pages, the twelve cores, octet strings of their length). A meaning is total
and does not lean on it. -/

namespace Sys2Proof

/-- An initiator ID of Table 2-2. -/
def initOk (init : Nat) : Bool := (1 ≤ init && init ≤ 0x0C) || (0x10 ≤ init && init ≤ 0x17)

/-- An address or value of 32 bits (R39). -/
def wordOk (v : Nat) : Bool := v < 2 ^ 32

/-- The base address of a 4 KiB page (R39). -/
def pageOk (p : Nat) : Bool := p % 4096 = 0 && p < 2 ^ 32

/-- A core: LC0 to LC7, SC0, SC1, MC, NYC. -/
def coreOk (c : Nat) : Bool := c < 12

/-- An octet string of `n` octets. -/
def bytesOk (n : Nat) (l : List Byte) : Bool := l.length = n

/-- A number of a unit, a channel or an entry of which the spec gives `k`, numbered from 0. -/
def below (k i : Nat) : Bool := i < k

/-- ADC samples of the sixteen paths: 8-bit codes, two's complement (R66). -/
def rawOk (raw : List (List Iq)) : Bool :=
  let code := fun (x : Int) => decide (-128 ≤ x) && decide (x ≤ 127)
  raw.all fun l => l.length = 16 && l.all fun x => code x.i && code x.q

/-- The command's operands are in range. -/
def Instr.wellFormed : Instr → Bool
  | .registerWrite init addr _ value => initOk init && wordOk addr && wordOk value
  | .rcFieldRead init addr _ => initOk init && wordOk addr
  | .tbuNowRead init => initOk init
  | .rtcCntRead init => initOk init
  | .rtcCalRead init => initOk init
  | .aonRawRead init => initOk init
  | .acqCellsRead init => initOk init
  | .uartDataRead init u => initOk init && below 2 u
  | .uartDataWrite init u value => initOk init && below 2 u && wordOk value
  | .qspiDataAccess init _ value => initOk init && wordOk value
  | .ptpRxdataRead init => initOk init
  | .pmuRetdataAccess init _ value => initOk init && wordOk value
  | .enableWrite init page _ => initOk init && pageOk page
  | .blockStopped page => pageOk page
  | .softReset init page => initOk init && pageOk page
  | .softResetDone page => pageOk page
  | .pageCommit init page value => initOk init && pageOk page && wordOk value
  | .pageLock init page value => initOk init && pageOk page && wordOk value
  | .measurementSample _ => true
  | .modeCommand init _ => initOk init
  | .triggerFire _ _ raw _ => rawOk raw
  | .solStale _ _ => true
  | .leapDue _ _ => true
  | .tbuLoad _ => true
  | .tbuUncUpdate _ _ => true
  | .tbuReload _ => true
  | .tioSecond _ _ => true
  | .pulseEnd _ _ => true
  | .evinCapture _ _ m _ _ => below 4 m
  | .eventPop init m => initOk init && below 4 m
  | .dacTargetWrite init value => initOk init && wordOk value
  | .adcScanDone _ => true
  | .covarianceBlockEnd raw => rawOk raw
  | .b0Solve b => below 2 b
  | .jamReportDone b => below 2 b
  | .smBlockEnd raw => rawOk raw
  | .smReport p => below 16 p
  | .synCal b init => below 2 b && initOk init
  | .synTempSample b _ => below 2 b
  | .synLockAchieved b => below 2 b
  | .synLockLost b => below 2 b
  | .synLockTimeout b => below 2 b
  | .antShort n => below 8 n
  | .antOpen n => below 8 n
  | .antBlankEnd n => below 8 n
  | .antAutoretry n => below 8 n
  | .antRearm init _ => initOk init
  | .antOvertemp n => below 8 n
  | .vantUndervoltage => true
  | .vantOvervoltage => true
  | .vantRecover => true
  | .calGo init => initOk init
  | .calStop init => initOk init
  | .calHoldTimeout => true
  | .calSeqStep => true
  | .calReleaseStep => true
  | .calRlWindow _ _ => true
  | .calLevelOk => true
  | .calLevelFail => true
  | .capArm n init => below 16 n && initOk init
  | .capStop n init => below 16 n && initOk init
  | .capRmsBlock n _ raw => below 16 n && rawOk raw
  | .capBufferFull n raw => below 16 n && rawOk raw
  | .capPostDone n raw => below 16 n && rawOk raw
  | .capFifoOverflow n => below 16 n
  | .capOwnError n => below 16 n
  | .capComplete n _ => below 16 n
  | .acqJobpush init addr => initOk init && wordOk addr
  | .acqJobTake => true
  | .acqJobFinish _ => true
  | .acqJobRetire => true
  | .seedingEvent => true
  | .codeEpoch k raw => below 2048 k && rawOk raw
  | .dumpRecordEnqueue => true
  | .latchDone => true
  | .setWant init v w => initOk init && below 4096 v && wordOk w
  | .setRank init v _ _ => initOk init && below 4096 v
  | .putHw init v => initOk init && below 4096 v
  | .putCb init v => initOk init && below 4096 v
  | .get init v => initOk init && below 4096 v
  | .planningPass => true
  | .pageIn v => below 4096 v
  | .pageOut v => below 4096 v
  | .swap v => below 4096 v
  | .pageOpDone => true
  | .dumpTaskForm v => below 4096 v
  | .taskDispatch => true
  | .taskDelivered => true
  | .taskComplete init c _ => initOk init && below 8 c
  | .firmwareWriteBack init c _ _ => initOk init && below 8 c
  | .ncoRateUpdate init c _ _ _ _ => initOk init && below 8 c
  | .cmplWantDormant init c _ _ => initOk init && below 8 c
  | .cmplWantSeek init c _ _ => initOk init && below 8 c
  | .cmplWantOff init c _ _ => initOk init && below 8 c
  | .reimage init c _ _ => initOk init && below 8 c
  | .dutyPeriodElapsed v => below 4096 v
  | .evictRead init => initOk init
  | .oppAnnounce => true
  | .oppClearTimeout => true
  | .frameReceive _ => true
  | .delayReqReceive _ => true
  | .pdelayReqReceive _ => true
  | .ptpMessageReceive _ => true
  | .syncTransmit n => below 4 n
  | .followUpTransmit n => below 4 n
  | .announceTransmit n => below 4 n
  | .delayReqTransmit n => below 4 n
  | .delayRespTransmit n => below 4 n
  | .pdelayRespTransmit n => below 4 n
  | .firmwareFrameTransmit n => below 4 n
  | .txdataPush init w => initOk init && wordOk w
  | .txGo init => initOk init
  | .rxPop init => initOk init
  | .put init ix => initOk init && below 4096 ix
  | .putKeep init ix => initOk init && below 4096 ix
  | .sessionGet init ix => initOk init && below 4096 ix
  | .sessionClear init ix => initOk init && below 4096 ix
  | .grant init ix _ => initOk init && below 4096 ix
  | .grantEnd ix => below 4096 ix
  | .linkChange n _ => below 4 n
  | .rolePrimary init => initOk init
  | .roleSecondary init => initOk init
  | .roleNone init => initOk init
  | .takeoverCommand init => initOk init
  | .reAttest init => initOk init
  | .pairLinkUp => true
  | .pairLinkDown => true
  | .attDone _ _ _ _ => true
  | .heartbeatPulse => true
  | .timingFrameSend => true
  | .timingFrameReceive _ _ => true
  | .failFastDetect => true
  | .missedHeartbeat => true
  | .pairFence _ => true
  | .plannedTakeoverTimeout => true
  | .mirrorSend init => initOk init
  | .mtxdataPush init w => initOk init && wordOk w
  | .mirrorReceive _ _ _ _ => true
  | .sessionMirrorReceive _ => true
  | .mirrorAck => true
  | .swNop c _ => coreOk c
  | .swDup c _ => coreOk c
  | .swDrop c _ => coreOk c
  | .swSwapT c _ => coreOk c
  | .swOver c _ => coreOk c
  | .swRot c _ => coreOk c
  | .swPick c _ => coreOk c
  | .swAdd c _ => coreOk c
  | .swSub c _ => coreOk c
  | .swAdds c _ => coreOk c
  | .swSubs c _ => coreOk c
  | .swAnd c _ => coreOk c
  | .swOr c _ => coreOk c
  | .swXor c _ => coreOk c
  | .swNot c _ => coreOk c
  | .swNeg c _ => coreOk c
  | .swAbs c _ => coreOk c
  | .swMin c _ => coreOk c
  | .swMax c _ => coreOk c
  | .swSlt c _ => coreOk c
  | .swSltu c _ => coreOk c
  | .swMul c _ => coreOk c
  | .swMulh c _ => coreOk c
  | .swMulhu c _ => coreOk c
  | .swShl c _ => coreOk c
  | .swShr c _ => coreOk c
  | .swSar c _ => coreOk c
  | .swShlv c _ => coreOk c
  | .swShrv c _ => coreOk c
  | .swSarv c _ => coreOk c
  | .swSext c _ => coreOk c
  | .swExp c _ => coreOk c
  | .swNorm c _ => coreOk c
  | .swJr c _ => coreOk c
  | .swCallr c _ => coreOk c
  | .swRet c _ => coreOk c
  | .swRti c _ => coreOk c
  | .swFence c _ => coreOk c
  | .swWait c _ => coreOk c
  | .swTrap c _ => coreOk c
  | .swLpop c _ => coreOk c
  | .swPushi c _ => coreOk c
  | .swPusha c _ => coreOk c
  | .swPopa c _ => coreOk c
  | .swPushm c _ => coreOk c
  | .swPopm c _ => coreOk c
  | .swPushl c _ => coreOk c
  | .swPopl c _ => coreOk c
  | .swAdda c _ => coreOk c
  | .swPushl24 c _ => coreOk c
  | .swLui c _ => coreOk c
  | .swAddi c _ => coreOk c
  | .swLd c _ _ => coreOk c
  | .swSt c _ => coreOk c
  | .swLdx c _ _ => coreOk c
  | .swStx c _ => coreOk c
  | .swLdf c _ _ => coreOk c
  | .swStf c _ => coreOk c
  | .swMac c _ _ => coreOk c
  | .swMsu c _ _ => coreOk c
  | .swMpy c _ _ => coreOk c
  | .swMpyn c _ _ => coreOk c
  | .swClr c _ => coreOk c
  | .swMacs c _ => coreOk c
  | .swMsus c _ => coreOk c
  | .swMpys c _ => coreOk c
  | .swLda c _ => coreOk c
  | .swAccadd c _ => coreOk c
  | .swAccsub c _ => coreOk c
  | .swNega c _ => coreOk c
  | .swMova c _ => coreOk c
  | .swSra c _ => coreOk c
  | .swExpa c _ => coreOk c
  | .swNorma c _ => coreOk c
  | .swPushal c _ => coreOk c
  | .swPushah c _ => coreOk c
  | .swPushag c _ => coreOk c
  | .swPopacc c _ => coreOk c
  | .swStacc c _ => coreOk c
  | .swBeq c _ => coreOk c
  | .swBne c _ => coreOk c
  | .swBlt c _ => coreOk c
  | .swBge c _ => coreOk c
  | .swBltu c _ => coreOk c
  | .swBgeu c _ => coreOk c
  | .swBz c _ => coreOk c
  | .swBnz c _ => coreOk c
  | .swBneg c _ => coreOk c
  | .swBr c _ => coreOk c
  | .swCall c _ => coreOk c
  | .swLoop c _ => coreOk c
  | .swLoopt c _ => coreOk c
  | .swRep c _ => coreOk c
  | .swRept c _ => coreOk c
  | .swMfcr c _ => coreOk c
  | .swMtcr c _ => coreOk c
  | .interruptEntry c => coreOk c
  | .nmiEntry => true
  | .storeError c => coreOk c
  | .farLoadResponse c _ => coreOk c
  | .writeBufferIssue c => coreOk c
  | .storeComplete c => coreOk c
  | .waitWake c _ => coreOk c
  | .coreWdtExpiry c _ => coreOk c
  | .coreHold init c => initOk init && coreOk c
  | .coreRelease init c => initOk init && coreOk c
  | .doorbellRing init c => initOk init && coreOk c
  | .windowWrite init addr _ value => initOk init && wordOk addr && wordOk value
  | .handoverWrite init b w => initOk init && below 96 b && wordOk w
  | .handoverComplete b => below 96 b
  | .ownerFlagsWrite init b w => initOk init && below 96 b && wordOk w
  | .bankAccess _ _ _ => true
  | .scrubTick _ => true
  | .dmaStart init n => initOk init && below 32 n
  | .dmaPause init n _ => initOk init && below 32 n
  | .dmaResume init n => initOk init && below 32 n
  | .dmaSkip init n => initOk init && below 32 n
  | .dmaAbort init n _ _ => initOk init && below 32 n
  | .descriptorFetched n => below 32 n
  | .dmaTrigger n => below 32 n
  | .dmaTimer n => below 32 n
  | .dmaRequest n _ => below 32 n
  | .dmaBurstEnd n => below 32 n
  | .dmaPaused n _ => below 32 n
  | .dmaAccessError n _ _ _ => below 32 n
  | .dmaRetry n _ => below 32 n
  | .dmaComplete n => below 32 n
  | .getInfo init _ => initOk init
  | .selfTest init _ => initOk init
  | .coNonce init _ => initOk init
  | .authUser init _ _ => initOk init
  | .authEnd init _ => initOk init
  | .authTimeout _ => true
  | .getCartouche init _ => initOk init
  | .hash init _ => initOk init
  | .hmac init _ => initOk init
  | .cmac init _ => initOk init
  | .gcm init _ _ _ iv tag => initOk init && bytesOk 12 iv && bytesOk 16 tag
  | .verify init _ => initOk init
  | .random init _ _ => initOk init
  | .quote init _ => initOk init
  | .loadImage init _ => initOk init
  | .installImage init _ => initOk init
  | .advanceSvn init _ _ => initOk init
  | .osnmaKroot init _ => initOk init
  | .zeroiseSession init _ => initOk init
  | .takeOwnership init _ keyHash _ => initOk init && bytesOk 32 keyHash
  | .rotateOwner init _ keyHash => initOk init && bytesOk 32 keyHash
  | .rma init _ _ => initOk init
  | .scrap init _ _ => initOk init
  | .debugGrant init _ => initOk init
  | .installUserKey init _ _ _ _ => initOk init
  | .installPtpKey init _ _ _ _ _ _ => initOk init
  | .zeroise init _ => initOk init
  | .pairBind init _ _ _ _ _ => initOk init
  | .serviceGrant init _ => initOk init
  | .osnmaRoot init _ root => initOk init && bytesOk 32 root
  | .setPolicy init _ _ => initOk init
  | .tamperTrip sensor => below 3 sensor
  | .nymWdtExpiry _ => true
  | .hostBundleReady => true
  | .bundleVerified _ _ _ => true
  | .powerReqRun init => initOk init
  | .powerReqIdle init => initOk init
  | .powerReqSleep init => initOk init
  | .powerReqDeep init => initOk init
  | .powerReqOff init => initOk init
  | .retentionSave init => initOk init
  | .idleEnter => true
  | .idleExit => true
  | .quiesceDone => true
  | .quiesceTimeout => true
  | .tbuSnapshot _ => true
  | .saveDone => true
  | .isolate => true
  | .powerDownDone => true
  | .wakePin => true
  | .wakeTimerExpiry _ => true
  | .exitWakeDone _ _ => true
  | .exitRestore _ => true
  | .oppChange init _ => initOk init
  | .pmbusTransactionDone _ _ => true
  | .pmbusAck _ _ => true
  | .pmbusAckTimeout _ => true
  | .dvfsSettleDone => true
  | .pmbAlert _ _ _ => true
  | .procvWrite init value => initOk init && wordOk value
  | .dividerApply => true
  | .pllLock => true
  | .xoStable => true
  | .refinStable => true
  | .domainRunWrite init value => initOk init && wordOk value
  | .domainSwitch init value => initOk init && wordOk value
  | .switchRestart d => below 13 d
  | .switchForced d => below 13 d
  | .monitorMeasure m _ => below 6 m
  | .rootLockLost => true
  | .iroReady => true
  | .powerOnReset _ => true
  | .resetN => true
  | .rtcSecond _ => true
  | .aonCommitApply => true
  | .setTbu init => initOk init
  | .setTbuLoad => true
  | .vmainFail => true
  | .vmainValid => true
  | .vbatLow => true
  | .aonBrownOut => true
  | .firstswClear init => initOk init
  | .fatalRecordClear init => initOk init
  | .bar0Access _ _ _ value => wordOk value
  | .bar2Access _ _ _ _ => true
  | .fetchStart init value => initOk init && wordOk value
  | .fetchDone _ => true
  | .fetchTimeout _ => true
  | .eoiWrite init vec => initOk init && below 32 vec
  | .pcieLinkChange _ _ _ => true
  | .spiReadFrame _ addr _ _ _ => wordOk addr
  | .spiWriteFrame _ addr _ _ _ => wordOk addr
  | .uartRxByte u _ => below 2 u
  | .uartTxByte u => below 2 u
  | .qspiCommand init value => initOk init && wordOk value
  | .qspiDone _ => true
  | .mdioCommand init value => initOk init && wordOk value
  | .mdioDone _ => true
  | .gpioSet init value => initOk init && wordOk value
  | .gpioClr init value => initOk init && wordOk value
  | .gpioEdge n _ _ => below 16 n
  | .cmdpiWrite init value => initOk init && wordOk value
  | .rsppiWrite init value => initOk init && wordOk value
  | .rspciWrite init value => initOk init && wordOk value
  | .cmdciWrite init value => initOk init && wordOk value
  | .getStatus => true
  | .setMode => true
  | .mbxPower => true
  | .survey => true
  | .setPosition => true
  | .setGeometry => true
  | .loadGraticule => true
  | .ptpConfig => true
  | .ptpSession => true
  | .mbxPair => true
  | .mbxQuote => true
  | .fwUpdate => true
  | .getLog => true
  | .nmeaConfig => true
  | .faultEntry => true
  | .tocNmiack init value => initOk init && wordOk value
  | .windowExpiry _ => true
  | .release init _ => initOk init
  | .planeReset init _ => initOk init
  | .planeDone => true
  | .escalationTimeout _ => true
  | .tocLogpop init value => initOk init && wordOk value
  | .lnaOverload p _ => below 16 p
  | .lnaStepWindowEnd p => below 16 p
  | .pairHbEdge _ => true
  | .heartbeatWindowEnd => true
  | .takeoverReplyReceive _ _ => true
  | .undefinedEncoding c _ => coreOk c
  | .powerOnSelfTestsDone _ => true
  | .nymRequestDone _ _ => true
  | .cmdDone => true
  | .sessDone => true
  | .tamperConditionCleared sensor => below 3 sensor
  | .trimWindowStart _ => true
  | .vbatRecover => true
  | .resetNRelease => true
  | .pcieConfigAccess _ => true

end Sys2Proof
end

