-- ==== Sys2Proof/Tests/Slice0.lean ====
section
/-! SUPPORT. Tests: a smoke test of the well-formedness checks, small tests of commands with results worked out by hand from
the spec, and for each statement states and operands that meet its hypotheses. -/

namespace Sys2Proof.Tests

set_option Elab.async false

open Sys2Proof Sys2Proof.Machine Sys2Proof.Machine.State

/-- The command answers a next state with a property. -/
def nextIs (o : Host.Outcome State Fault Refusal) (p : State → Bool) : Bool :=
  match o with
  | .next t => p t
  | _ => false

theorem pairEq {α β : Type} {p : α × β} {b : β} (h : p.2 = b) : p = (p.1, b) := Prod.ext rfl h
theorem someEq {α : Type} {o : Option α} {d : α} (h : o.isSome = true) : o = some (o.getD d) := by
  cases o with
  | none => cases h
  | some x => rfl
theorem somePair {α β : Type} {o : Option (α × β)} {d : α × β} (h : o.isSome = true) :
    o = some ((o.getD d).1, (o.getD d).2) := someEq h
theorem pairSome {α β : Type} {p : α × Option β} {d : β} (h : p.2.isSome = true) : p = (p.1, some (p.2.getD d)) :=
  pairEq (someEq h)
theorem pairOk {α β ε : Type} {p : α × Except ε β} {b : β} (h : p.2.toOption = some b) : p = (p.1, .ok b) := by
  obtain ⟨x, _ | y⟩ := p
  · cases h
  · cases h; rfl
def exError {α ε : Type} : Except ε α → Option ε
  | .error e => some e
  | .ok _ => none
theorem pairError {α β ε : Type} {p : α × Except ε β} {e : ε} (h : exError p.2 = some e) : p = (p.1, .error e) := by
  obtain ⟨x, _ | y⟩ := p
  · cases h; rfl
  · cases h

/-- Core 0 with its PC noted as the PC of the instruction that it executes. -/
def kOf (s : State) : Core := { s.coreGet 0 with lastPc := (s.coreGet 0).pc }

/-- The page runs. -/
def wPage (s : State) (p : Nat) : State := (s.setFlag (F.CTRL_ENABLE p) true).setFlag (F.STAT_RUNNING p) true

/-- A device whose boot has released MC, with every clock running and every page that the statements need running (its
PAGE_CTRL and PAGE_STATUS at 8 and 12). -/
def wBase : State :=
  { State.reset with
    rf := [(R.CLK_ROOTSTAT, 0x81), (R.CLK_RUN, 0x1FFC), (R.CLK_SRC, 0), (R.CLK_GATE0, 0xFFFFFFFF), (R.CLK_GATE1, 0xFFFFFFFF),
        (R.NYM_STAT, 0x401)]
      ++ [P.RFE 2, P.SYN 0, P.CAL, P.DFE 2, P.ARR 0, P.ACQ, P.COR, P.CHS, P.TBU, P.DRL, P.TIO, P.PTP, P.ETH 1, P.DMA, P.PCIE,
        P.SPIT, P.UART, P.MBX, P.AUX, P.GPIO, P.PAIR].flatMap fun p => [(p + 8, 1), (p + 12, 1)]
    clk := { State.reset.clk with pllOn := true } }

/-- The time base is loaded at 100 s. -/
def wTime : State :=
  let s := (wBase.setFlag F.TBU_QUAL_LOADED true).setFld F.TBU_QUAL_QUAL 4
  { s with tbu := { s.tbu with time := 100 * tuSec, uncAt := 100 * tuSec, lastSolq := 100 * tuSec } }

/-- Trigger 3 is armed and due. -/
def wTrig : State := { wTime with drl := wTime.drl.set 3 ⟨some 0, none⟩ }

/-- Synthesiser 0 is on and locked. -/
def wSyn : State := (wBase.setFlag (F.SYN_STAT_ON 0) true).setFlag (F.SYN_STAT_LOCK 0) true

/-- The injector may run: TIMING mode, its synthesiser locked. -/
def wCal : State := wSyn.setFld F.SYS_MODE_MODE 7

/-- A valid capture set-up on channel 2: bank 40 belongs to DFE. -/
def wCap : State := ((wBase.setFld (F.MEM_OWNER_OWNER 40) 0x12).setReg (R.DFE_CAPBASE 2) 0x20A00000).setReg (R.DFE_CAPLEN 2) 4096

/-- A due solve of mode 0 over the unit covariance. -/
def wJob : SolveJob :=
  ⟨0x00400000, [], some ((List.range 8).map fun i => (List.range 8).map fun j => if i = j then Cx.ofInts 1 0 else Cx.zero), true, 0, [], 0, 1, 1⟩

/-- A report interval of path 2 has ended without a valid block; path 0 leads its notches. -/
def wSmRep : State :=
  let s := (wBase.setFlag (F.DFE_CTL_NLINK 0) true).setFlag (F.DFE_CTL_NLINK 2) true
  s.pathSigSet 2 { s.pathSig 2 with mon := { (s.pathSig 2).mon with report := some ([], 0) } }

/-- A spectrum job of 1024 points of one code of 32 chips on one pipe, at the head of the queue; bank 40 is ACQ's. -/
def wAcqDesc : List Word := [0x11, 0x20A10000, 0, 0, 1, 0, 0x0A000000, 0x00010001, 0, 0x00010000, 0x20A20000, 0, 32, 0, 0, 0]
def wAcq : State :=
  let s := (wBase.setFld (F.MEM_OWNER_OWNER 40) Init.ACQ).sramSetBytes 0x20A00000 (wordBytes wAcqDesc)
  { s with acq := { s.acq with queue := [0x20A00000] } }
def wAcqBytes : List Byte := wordBytes wAcqDesc
abbrev wAcqTaken : AcqJob :=
  ((wAcq.portRead Init.ACQ 0x20A00000 64).1.acqCheck ⟨0x20A00000, wAcqDesc, [], wAcq.flag F.ACQ_CFG_SEED_EN, 0, false, (0, 0),
    [], 0, 0, 0, [], 0⟩).2

/-- Carillon owns the eight banks of its contexts, and LC0 takes tasks. -/
def wChs : State :=
  let s := ([60, 61, 62, 63, 64, 65, 66, 67].foldl (fun (t : State) b => t.setFld (F.MEM_OWNER_OWNER b) 0x10) wBase).setFld
    F.CHS_CTXBASE_BANK 60
  (s.setFld F.CHS_CORES_MASK 1).coreSet 0 { s.coreGet 0 with run := .running }

/-- Channel 5 holds its image in slot 8 and leaves. -/
def wChsHeld : State :=
  (wChs.vcSet 5 { ChsVc.reset with st := 4, loc := some 8, phys := some 8, held := true, out := some (.leave 3 none) })

/-- A code of one chip in slot 8 whose period ends with the samples taken; the code period is not the last of its interval. -/
def wSlot : Slot :=
  { img := [0x03000000, 0, 0, 0, 0xFFFFFFFF, 0, 0, 0, 0, 0, 0, 0, 0, 1] ++ List.replicate 18 0, taken := 2, live := true
    overrun := false, held := false, acc := List.replicate 14 0, nsamp := 2, nflag := 0, sat := false, updated := false
    loaded := false, xbar := false, codeErr := false, pendCarr := none, pendCode := none, before := none }
def wCodeDue : State := wChs.slotSet 8 (some wSlot)

/-- A seed of channel 5, which seeks it on a stream that is enabled. -/
def wSeed : State :=
  let s := ((wChs.setFlag F.CHS_CTL_SEED_EN true).setFlag (F.XBAR_SRC_EN 0) true).vcSet 5 { ChsVc.reset with st := 2 }
  { s with acq := { s.acq with seeds := [⟨5, 0, 0, 0, 0⟩] } }

/-- A delivered dump task of channel 5 in buffer 0 of LC0. -/
def wTaskBuf : ChsBuf := ⟨⟨false, 5, 0, 7, 0, [], [], 0, true⟩, 1, true⟩
def wChsTask : State := wChs.bufSet 0 (some wTaskBuf)

/-- Port 1 runs in TIMING; the engine has its banks; session 0 is a valid master on port 1. -/
def wPtp : State :=
  let s := ((([72, 73, 74, 75, 76, 77, 78, 79].foldl (fun (t : State) b => t.setFld (F.MEM_OWNER_OWNER b) 0x13) wTime).setFld
    F.PTP_BASE_BANK 72).setFld F.SYS_MODE_MODE 2).setFlag (F.PTPP_CFG_EN 1) true
  let t := ((s.sramSetBytes (s.sesAddrOf 0) (leBytes 4 5)).sramSetBytes (s.sesAddrOf 0 + 0x34) (leBytes 4 200)).setFld
    F.TBU_QUAL_QUAL 5
  { t with rf := Sparse.insert (Sparse.insert t.rf (R.ETH_MAC0 1) 0x04050607) (R.ETH_MAC1 1) 0x0203 }

/-- The same session as a client. -/
def wPtpClient : State := (wPtp.sramSetBytes (wPtp.sesAddrOf 0) (leBytes 4 7)).setFld F.SYS_MODE_MODE 5

/-- A PTP message of a type and domain to the group address 01-1B-19-00-00-00, with identity and addresses 0. -/
def wMsg (type domain : Nat) : RxFrame :=
  ⟨1, true, [0x01, 0x1B, 0x19, 0, 0, 0] ++ List.replicate 6 0 ++ [0x88, 0xF7, BitVec.ofNat 8 type, 0x12, 0, 44,
    BitVec.ofNat 8 domain] ++ List.replicate 25 0 ++ [0, 7] ++ List.replicate 12 0⟩

/-- An ARP frame to the broadcast address. -/
def wArp : RxFrame := ⟨1, true, List.replicate 6 0xFF ++ List.replicate 6 0 ++ [0x08, 0x06] ++ List.replicate 46 0⟩

/-- A job of a kind at the head of port 1. -/
def wTxJob (k : MsgKind) : PtpJob := { blankJob k 0 0 with seq := 4 }
def wTx (k : MsgKind) : State := { wPtpFor k with ptp := { (wPtpFor k).ptp with queue := [[], [wTxJob k], [], []] } }
where
  wPtpFor (k : MsgKind) : State := if k = .delayReq then wPtpClient else wPtp
abbrev wTxGot (k : MsgKind) : PtpJob × State := ((wTx k).portTake 1 k).getD (wTxJob k, wTx k)
abbrev wTxSes (k : MsgKind) : State × Option (List Byte) := (wTxGot k).2.sesRead (wTxGot k).1.session

/-- An attested secondary in STANDBY with the link up; bank 80 holds its mirror ring. -/
def wSec : State :=
  let s := (((((((wPtp.setFld F.SYS_MODE_MODE 6).setFlag F.PAIR_CFG_EN true).setFlag F.PAIR_CFG_AUTO true).setFlag F.PAIR_STAT_LINK true).setFld
    F.PAIR_STAT_ATT 2).setFld F.PAIR_STAT_ROLE 2).setFld F.PAIR_MBASE_BANK 80).setFld (F.MEM_OWNER_OWNER 80) 0x15
  { s with pair := { s.pair with released := some 0 } }
abbrev wSeven : List Byte := [7]

/-- Core 0 runs at offset 0x400 with a word of I memory there and operands on its stack. -/
def wSw (w : Nat) (stack : List Word) : State :=
  wBase.coreSet 0 { Core.reset with run := .running, pc := 0x400, stack := stack, imem := [(0x100, BitVec.ofNat 32 w)] }
def wOn0 (f : Core → Core) (s : State) : State := s.coreSet 0 (f (s.coreGet 0))
/-- Inside a loop from 0x500 to 0x600. -/
def wLoop : State → State := wOn0 fun k => { k with loops := [⟨0x500, 0x600, 2⟩] }
/-- A NOP at 0x402; a NOP at 0x404. -/
def wNop : State → State := wOn0 fun k => { k with imem := (k.imem.map fun e => (e.1, e.2 ||| 0x00400000)) }
def wNop4 : State → State := wOn0 fun k => { k with imem := k.imem ++ [(0x101, 0x40)] }
/-- Return stacks with a return address, and with an address below a STATUS. -/
def wRet : State → State := wOn0 fun k => { k with rstack := [0x600] }
def wRti : State → State := wOn0 fun k => { k with rstack := [0x600, 0x702] }
/-- Event line 4 pends and is enabled. -/
def wIrq : State → State := wOn0 fun k => { k with ie := true, imask := 16, events := 16 }
/-- Tocsin's NMI is asserted on the running MC. -/
def wNmi : State := ((wBase.coreSet 10 { Core.reset with run := .running })).setFlag F.TOC_STAT_NMI_ACTIVE true
/-- Core 0 holds a store in its write buffer. -/
def wBuf : State := wOn0 (fun k => { k with wbuf := [⟨0x20A00000, 4, 5⟩] }) (wSw 0x40 [])
/-- A running core whose watchdog counts. -/
def wWdt (c : Nat) (warned : Bool) : State :=
  (wBase.coreSet c { Core.reset with run := .running, wdtWarned := warned }).setFld (F.CORE_WDT_PERIOD c) 100 |> fun s => { s with aon := { s.aon with raw := 200 } }
/-- The same with interrupts off. -/
def wIrqOff : State → State := wOn0 fun k => { k with imask := 16, events := 16 }
/-- Core 0 waits for a far load, and has issued a far store, in bank 40 of its own. -/
def wOwn : State := (wSw 0x0010DC00 [0x209FFFF0]).setFld (F.MEM_OWNER_OWNER 40) 1
def wLoad : State := wOn0 (fun k => { k with load := some ⟨0x20A00000, 4, false⟩ }) wOwn
def wFlight : State := wOn0 (fun k => { k with flight := [⟨0x20A00000, 4, 5⟩] }) wOwn
def wOld : State := wOn0 (fun k => { k with run := .held, old := [⟨0x20A00000, 4, 5⟩] }) wOwn
def wLost : State := wOn0 (fun k => { k with run := .held, lost := [⟨0x20A00000, 4, false⟩] }) wOwn
/-- An owned device whose channel 1 is a User; and the same with a request of channel `ch` at the head of the queue. -/
def wNymIdle : State :=
  let s := (((wBase.setFld F.NYM_STAT_LCS 2).setFld (F.MEM_OWNER_OWNER 40) Init.NYM).setFld (F.NYM_BUF_ADDR 1) 0x20A00000).setFld
    (F.NYM_LEN_LEN 1) 64
  { s with nym := { s.nym with
      starting := false, auth := [false, true], nonce := some [], certKey := true, rootKey := true, osnmaRoot := some []
      userKeys := s.nym.userKeys.set 1 (some [7]) } }
def wNym (ch : Nat) (op : NymOp) : State :=
  { wNymIdle with nym := { wNymIdle.nym with queue := [⟨ch, op, 0x20A00000, 64, none, none⟩] } }

/-- The same for AUTH_USER with User key 1, the octet 7: the nonce is empty and DATA holds its HMAC-SHA-256. -/
def wAuth : State :=
  ((wNym 1 (.authUser 1)).sramSetBytes 0 []).nymWords 1 (toWords (beBytes 32 0x8769c0197cd02259f561eb1bf6156fd3ffe5a51483481c090cb477b9312e3f79))

/-- An image of class 2 for core SC0 with four bytes of payload, signed under an owner key made for this test; and a load of it. -/
def wImage : List Byte :=
  beBytes 32 0x314b4c5201000200040000000102000009010000000000000400000000000000
    ++ List.replicate 240 0
    ++ beBytes 32 0x9f64a747e1b97f131fabb6b447296c9b6f0201e79fb3c5356e6c77e89b6a806a
    ++ List.replicate 128 0
    ++ beBytes 64 0x7cf27b188d034f7e8a52380304b51ac3c08969e277f21b35a60b48fc4766997807775510db8ed040293d9ac69f7430dbba7dade63ce982299e04b79d227873d1
    ++ beBytes 64 0x5ecbe4d1a6330a44c8f7ef951d4bf165e6c6b721efada985fb41661bc6e7fd6cf2db4842f6ae4bea660d2d63e1ccb1817208d874def5299d8d050b36d0d10ee7
    ++ List.replicate 16 0
    ++ beBytes 4 0x01020304
def wOwnerHash : List Byte := sha256 (beBytes 64 0x7cf27b188d034f7e8a52380304b51ac3c08969e277f21b35a60b48fc4766997807775510db8ed040293d9ac69f7430dbba7dade63ce982299e04b79d227873d1)
def wImg (install : Bool) : State :=
  let s := wNymIdle.sramSetBytes 0x20A00000 wImage
  { s with nym := { s.nym with
      owner := [some wOwnerHash, none, none, none], queue := [⟨1, .loadImage install, 0x20A00000, 580, none, none⟩] } }
/-- Structures of CO commands with a nonce of zeros, signed under a key made for these tests: the owner's ephemeral key, a wrapped key, a new
owner's key hash, and the commands. -/
def wOwnerEph : List Byte := beBytes 32 0x8e533b6fa0bf7b4625bb30667c01fb607ef9f8b8a80fef5b300628703187b2a3
    ++ beBytes 32 0x73eb1dbde03318366d069f83a6f5900053c73633cb041b21c55e1a86c1f400b4
def wWrapped : List Byte := beBytes 32 0x000000000000000000000000ed2298b0b16fa72bfbe05bb7e56b4ebbbae1517d
    ++ beBytes 28 0xea3930a24c366802a95e5fd701a36068f58d8fab9750ea7b69d99a05
def wNewOwner : List Byte := beBytes 32 0x97392b3eb9920a53a7a8be898ad0e3ffbdcb0c17f8afe719a94b77ebd3e0cfa8
def wCoTakeOwnership : List Byte :=
  List.replicate 36 0
    ++ beBytes 32 0x97392b3eb9920a53a7a8be898ad0e3ffbdcb0c17f8afe719a94b77ebd3e0cfa8
    ++ beBytes 32 0x01e2534a3532d08fbba02dde659ee62bd0031fe2db785596ef509302446b0308
    ++ beBytes 32 0x52e0f1575a4c633cc719dfee5fda862d764efc96c3f30ee0055c42c23f184ed8
    ++ beBytes 32 0xc65ecbe4d1a6330a44c8f7ef951d4bf165e6c6b721efada985fb41661bc6e7fd
    ++ beBytes 32 0x6c9ec37fa97342c3bf0b1977ec10ed0522945bc14d4b53ee0baf710a7c277d6b
    ++ beBytes 1 0xb8
def wCoRotateOwner : List Byte :=
  List.replicate 32 0
    ++ beBytes 32 0x0100000097392b3eb9920a53a7a8be898ad0e3ffbdcb0c17f8afe719a94b77eb
    ++ beBytes 32 0xd3e0cfa87cf27b188d034f7e8a52380304b51ac3c08969e277f21b35a60b48fc
    ++ beBytes 32 0x4766997807775510db8ed040293d9ac69f7430dbba7dade63ce982299e04b79d
    ++ beBytes 32 0x227873d15ecbe4d1a6330a44c8f7ef951d4bf165e6c6b721efada985fb41661b
    ++ beBytes 32 0xc6e7fd6cca9046199fd836c42236aec16f6140136012b503d8393ac2eec9bcec
    ++ beBytes 4 0xb7375f13
def wCoRma : List Byte :=
  List.replicate 32 0
    ++ beBytes 32 0x02000000007cf27b188d034f7e8a52380304b51ac3c08969e277f21b35a60b48
    ++ beBytes 32 0xfc4766997807775510db8ed040293d9ac69f7430dbba7dade63ce982299e04b7
    ++ beBytes 32 0x9d227873d15ecbe4d1a6330a44c8f7ef951d4bf165e6c6b721efada985fb4166
    ++ beBytes 32 0x1bc6e7fd6c9afcd22d27eb1d2a18e53d497456fe13f1ecd1a11ca5527ed76b5e
    ++ beBytes 5 0x2d90b8a13f
def wCoScrap : List Byte :=
  List.replicate 32 0
    ++ beBytes 32 0x03000000007cf27b188d034f7e8a52380304b51ac3c08969e277f21b35a60b48
    ++ beBytes 32 0xfc4766997807775510db8ed040293d9ac69f7430dbba7dade63ce982299e04b7
    ++ beBytes 32 0x9d227873d15ecbe4d1a6330a44c8f7ef951d4bf165e6c6b721efada985fb4166
    ++ beBytes 32 0x1bc6e7fd6cff0052878da8983efe66636dc3d48d2214f74065afdc2fa5daf857
    ++ beBytes 5 0x14d778b2df
def wCoDebugGrant : List Byte :=
  List.replicate 32 0
    ++ beBytes 32 0x040000007cf27b188d034f7e8a52380304b51ac3c08969e277f21b35a60b48fc
    ++ beBytes 32 0x4766997807775510db8ed040293d9ac69f7430dbba7dade63ce982299e04b79d
    ++ beBytes 32 0x227873d15ecbe4d1a6330a44c8f7ef951d4bf165e6c6b721efada985fb41661b
    ++ beBytes 32 0xc6e7fd6cccf88cecf5d6ec6dbb3be5b343b87139500890f1a7781d6fc2b3c1c3
    ++ beBytes 4 0x4d2c54f2
def wCoUserKey : List Byte :=
  List.replicate 32 0
    ++ beBytes 32 0x05000000018e533b6fa0bf7b4625bb30667c01fb607ef9f8b8a80fef5b300628
    ++ beBytes 32 0x703187b2a373eb1dbde03318366d069f83a6f5900053c73633cb041b21c55e1a
    ++ beBytes 32 0x86c1f400b4000000000000000000000000ed2298b0b16fa72bfbe05bb7e56b4e
    ++ beBytes 32 0xbbbae1517dea3930a24c366802a95e5fd701a36068f58d8fab9750ea7b69d99a
    ++ beBytes 32 0x057cf27b188d034f7e8a52380304b51ac3c08969e277f21b35a60b48fc476699
    ++ beBytes 32 0x7807775510db8ed040293d9ac69f7430dbba7dade63ce982299e04b79d227873
    ++ beBytes 32 0xd15ecbe4d1a6330a44c8f7ef951d4bf165e6c6b721efada985fb41661bc6e7fd
    ++ beBytes 32 0x6ce22c5090d56b23436f9f2f1baef3b19211878bc646d76cbd08c1efd3e501c1
    ++ beBytes 1 0xa4
def wCoPtpKey : List Byte :=
  List.replicate 32 0
    ++ beBytes 32 0x060000000103020000008e533b6fa0bf7b4625bb30667c01fb607ef9f8b8a80f
    ++ beBytes 32 0xef5b300628703187b2a373eb1dbde03318366d069f83a6f5900053c73633cb04
    ++ beBytes 32 0x1b21c55e1a86c1f400b4000000000000000000000000ed2298b0b16fa72bfbe0
    ++ beBytes 32 0x5bb7e56b4ebbbae1517dea3930a24c366802a95e5fd701a36068f58d8fab9750
    ++ beBytes 32 0xea7b69d99a057cf27b188d034f7e8a52380304b51ac3c08969e277f21b35a60b
    ++ beBytes 32 0x48fc4766997807775510db8ed040293d9ac69f7430dbba7dade63ce982299e04
    ++ beBytes 32 0xb79d227873d15ecbe4d1a6330a44c8f7ef951d4bf165e6c6b721efada985fb41
    ++ beBytes 32 0x661bc6e7fd6c0c30c249f0642c917bff537491802c874943c2a21f2cea727fca
    ++ beBytes 6 0xb85b59273957
def wCoZeroise : List Byte :=
  List.replicate 32 0
    ++ beBytes 32 0x070000007cf27b188d034f7e8a52380304b51ac3c08969e277f21b35a60b48fc
    ++ beBytes 32 0x4766997807775510db8ed040293d9ac69f7430dbba7dade63ce982299e04b79d
    ++ beBytes 32 0x227873d15ecbe4d1a6330a44c8f7ef951d4bf165e6c6b721efada985fb41661b
    ++ beBytes 32 0xc6e7fd6cc45e6ca154d0a8130f8a6c8235923939b928f796a0232793f9cddea8
    ++ beBytes 4 0x1dd599cc
def wCoPairBind : List Byte :=
  List.replicate 32 0
    ++ beBytes 5 0x0800000001
    ++ List.replicate 75 0
    ++ beBytes 32 0x7cf27b188d034f7e8a52380304b51ac3c08969e277f21b35a60b48fc47669978
    ++ beBytes 32 0x07775510db8ed040293d9ac69f7430dbba7dade63ce982299e04b79d227873d1
    ++ beBytes 32 0x5ecbe4d1a6330a44c8f7ef951d4bf165e6c6b721efada985fb41661bc6e7fd6c
    ++ beBytes 32 0x4f97e0acb2a99df3e693f674a5c11900da0d547222bc6a2982d3dcd8267a0fe4
def wCoServiceGrant : List Byte :=
  List.replicate 32 0
    ++ beBytes 32 0x090000007cf27b188d034f7e8a52380304b51ac3c08969e277f21b35a60b48fc
    ++ beBytes 32 0x4766997807775510db8ed040293d9ac69f7430dbba7dade63ce982299e04b79d
    ++ beBytes 32 0x227873d15ecbe4d1a6330a44c8f7ef951d4bf165e6c6b721efada985fb41661b
    ++ beBytes 32 0xc6e7fd6cf295b07c83e082db35f9f53929dd9eafa8a8bbb9a222bd5091eabd95
    ++ beBytes 4 0xf41ed798
def wCoOsnmaRoot : List Byte :=
  List.replicate 32 0
    ++ beBytes 1 0x0a
    ++ List.replicate 35 0
    ++ beBytes 32 0x7cf27b188d034f7e8a52380304b51ac3c08969e277f21b35a60b48fc47669978
    ++ beBytes 32 0x07775510db8ed040293d9ac69f7430dbba7dade63ce982299e04b79d227873d1
    ++ beBytes 32 0x5ecbe4d1a6330a44c8f7ef951d4bf165e6c6b721efada985fb41661bc6e7fd6c
    ++ beBytes 32 0xb50c04d65ff701c25c39fa655b19eefd81257420412de2797b63e5394ef31cf7
def wCoSetPolicy : List Byte :=
  List.replicate 32 0
    ++ beBytes 32 0x0b000000017cf27b188d034f7e8a52380304b51ac3c08969e277f21b35a60b48
    ++ beBytes 32 0xfc4766997807775510db8ed040293d9ac69f7430dbba7dade63ce982299e04b7
    ++ beBytes 32 0x9d227873d15ecbe4d1a6330a44c8f7ef951d4bf165e6c6b721efada985fb4166
    ++ beBytes 32 0x1bc6e7fd6c17ded34087a012c5bc576385583659340a89ece24cf031cb02e01e
    ++ beBytes 5 0xfc2a995359
/-- A device in lifecycle state `lc` with such a structure in bank 40 as the request of channel 1; the ephemeral key of Nymvis is 5. -/
def wCo (lc : Nat) (l : List Byte) : State :=
  let s := (wNymIdle.setFld F.NYM_STAT_LCS lc).sramSetBytes 0x20A00000 l
  { s with nym := { s.nym with
      owner := [some wOwnerHash, none, none, none], nonce := some (List.replicate 8 0), eph := some (5, []), rootKey := true
      queue := [⟨1, .co none, 0x20A00000, l.length, none, none⟩] } }

/-- An operating-point change stands at a step, with 700 mV commanded on both rails. -/
def wOpp (o : OppStep) : State :=
  { wBase with pmu := { wBase.pmu with opp := o, oppNext := 1, engCmd := some 705, procCmd := some 705 } }

/-- An exit from SLEEP is in phase RESTORE with a list in retention memory that nothing has disturbed. -/
def wExit : State :=
  let s := (wBase.setFld F.PMU_STAT_STATE 6).setFld F.PMU_STAT_PHASE 7
  ({ s with pmu := { s.pmu with power := .sleep } } : State).retHead 1 true true

/-- The PCIe link is up in D0 with bus mastering; the fetch engine may copy four bytes of bank 40. -/
def wPcie : State := (wBase.setFlag F.PCIE_STAT_LINK_UP true).setFlag F.PCIE_STAT_BME true
def wFetch : State :=
  (((wPcie.setFld (F.MEM_OWNER_OWNER 40) Init.HOST).setReg R.PCIE_FLADDR 0x20A00000).setReg R.PCIE_FHADDR0 0).setFld F.PCIE_FLEN_LEN 4
def wFetching (dir : Nat) : State := { wFetch with host := { wFetch.host with fetch := some (dir, 0x20A00000, 4, 0) } }
def wBar2 : State := wFetch.setFld F.PCIE_W2BASE_BANK 40

/-- Channel 0 of the DMA engine in a state; its descriptor at 0x20A00100 copies `n` elements of four bytes in bank 40. -/
def wDmaDesc : List Word := [0x80000002, 0x20A00000, 0x20A00010, 1, 1, 4, 4, 0, 0, 0, 0, 0, 0, 0, 0, 0]
def wDma (st left : Nat) : State :=
  let s := ((wCap.setFlag (F.MEM_OWNER_DMA_DELEGATE 40) true).setFld (F.CH_DESC_ADDR 0) 0x20A00100).setFld (F.CH_STAT_STATE 0) st
  s.chanSet 0 { DmaChan.reset with desc := wDmaDesc, left := left, stage := if st = 7 then .status else .data }
def wDmaFetch : State := (wDma 1 0).sramSetBytes 0x20A00100 (wordBytes wDmaDesc)

/-- MC serves the mailbox with a command in hand; the buffer of channel 1 lies in bank 40, which is MC's. -/
def wMbx (c : MbxCmd) : State :=
  let s := (wPcie.coreSet 10 { Core.reset with run := .running })
  let s := [18, 19, 20, 21].foldl (fun (t : State) b => (t.setFld (F.MEM_OWNER_OWNER b) Init.HOST).setFlag (F.MEM_OWNER_DMA_DELEGATE b) true) s
  { s with host := { s.host with taken := some c } }
def wMbxN (c : MbxCmd) : State :=
  ((wMbx c).setFld (F.MEM_OWNER_OWNER 40) Init.MC).setFld (F.NYM_BUF_ADDR 1) 0x20A00000
/-- A GET_STATUS waits in the command ring. -/
def wMbxRing : State :=
  let s := ((wMbx ⟨1, false, 0, [], 0⟩).sramSetBytes 0x20480000 [1]).setFld F.MBX_CMDPI_IDX 1
  { s with host := { s.host with taken := none } }
def wPtpCmd : MbxCmd := ⟨64, false, 0, List.replicate 23 0, 0⟩
def wPtpDev : State :=
  { wMbx wPtpCmd with rf := Sparse.insert (Sparse.insert (wMbx wPtpCmd).rf R.PTP_CLKID0 0) R.PTP_CLKID1 0 }
/-- A Graticule image of one temperature point a band, with the tags of the reset settings, in B20. -/
def wGratImg : List Byte :=
  beBytes 18 0x315452470100000000000000000000000101
    ++ List.replicate 42 0
    ++ beBytes 12 0x3d2e2b67040200000000b01f
    ++ List.replicate 144 0
    ++ beBytes 8 0x040200000000a018
    ++ List.replicate 144 0
def wGratCmd : MbxCmd := ⟨49, false, 0, leBytes 8 0x20500000 ++ leBytes 4 368 ++ leBytes 4 1, 0⟩
def wGrat : State := (wMbx wGratCmd).sramSetBytes 0x20500000 wGratImg

/-! ### The checks of WellFormed refuse -/

/-- 0x0D is no initiator of Table 2-2. -/
theorem test_wf_initiator : (Instr.registerWrite 0x0D 0x40001040 4 0).wellFormed = false := by decide +kernel
/-- A value of 33 bits. -/
theorem test_wf_word : (Instr.registerWrite Init.MC 0x40001040 4 (2 ^ 32)).wellFormed = false := by decide +kernel
/-- A page base that is not a multiple of 4 KiB. -/
theorem test_wf_page : (Instr.blockStopped 0x40001040).wellFormed = false := by decide +kernel
/-- There is no core 12. -/
theorem test_wf_core : (Instr.swNop 12 0).wellFormed = false := by decide +kernel
/-- A Merkle tree root of 31 octets (32 PRESUMED, log 32). -/
theorem test_wf_bytes : (Instr.osnmaRoot 1 0 (List.replicate 31 0)).wellFormed = false := by decide +kernel
/-- The DMA engine has 32 channels (DMAC page). -/
theorem test_wf_below : (Instr.dmaTrigger 32).wellFormed = false := by decide +kernel
/-- A well-formed command passes. -/
theorem test_wf_accepts : (Instr.registerWrite Init.MC 0x40001040 4 7).wellFormed = true := by decide +kernel

/-! ### Swiale words of the two worked examples of chapter 15 -/

/-- The complex dot product. -/
theorem test_words_of_the_dot_product :
    ([(0x5000, 0), (0x5080, 0), (0x1004, 0), (0x4340, 0), (0x4740, 0), (0xCC08, 0x0005), (0x3000, 0), (0x3250, 0), (0x3115, 0),
      (0x3145, 0), (0xD600, 0x001F)].map fun w => swDecode w.1 w.2) =
    [some (.clr 0), some (.clr 1), some (.pushi 4), some (.popa 5), some (.popm 5), some (.loop 128 5), some (.mac 0 0 4 0 4),
      some (.msu 0 1 5 0 4), some (.mac 1 0 5 1 5), some (.mac 1 1 4 1 5), some (.stacc 1 0 0 0 false 31)] := by
  decide +kernel

/-- The carrier loop filter. -/
theorem test_words_of_the_loop_filter :
    ([(0x2000, 0), (0x541F, 0), (0x0080, 0), (0xDA00, 0x0100), (0x5100, 0), (0xD480, 0x001F),
      (0xD400, 0x0027)].map fun w => swDecode w.1 w.2) =
    [some (.ld 0 0 0 false), some (.lda 0 31), some .dup, some (.ldx true 0 0x100), some (.macs 0), some (.stacc 0 1 0 0 false 31),
      some (.stacc 0 0 0 0 false 39)] := by
  decide +kernel

/-- The halfword 0x0000 is not an instruction (R378). -/
theorem test_cleared_memory_holds_no_instruction : swDecode 0 0 = none := by decide +kernel

/-! ### Small steps worked out from the rules -/

/-- Table 2-5 gives MEM the type 0x0303, and after reset the mode is SAFE (R23). -/
theorem test_reset_reads : (State.reset.readWord P.MEM).toNat / 2 ^ 16 = 0x0303 ∧ State.reset.mode = 0 := by decide +kernel

/-- The core's instruction memory holds one halfword at offset 0, and two operands are on the stack. -/
def wCode (h : Nat) (l : List Word) : State :=
  wBase.coreSet 0 { Core.reset with run := .running, imem := [(0, BitVec.ofNat 32 h)], stack := l }

/-- ADDS saturates (Table 15-3): the largest word and 1. -/
theorem test_adds_saturates :
    nextIs (exec (.swAdds 0 0) (wCode 0x0280 [1, 0x7FFFFFFF])) (fun t => decide ((t.coreGet 0).stack = [0x7FFFFFFF])) = true := by
  decide +kernel

/-- SUB ( a b → a − b ) takes T0 from the entry below it. -/
theorem test_sub_order :
    nextIs (exec (.swSub 0 0) (wCode 0x0240 [3, 10])) (fun t => decide ((t.coreGet 0).stack = [7])) = true := by decide +kernel

/-- ROT ( a b c → b c a ), T0 on the right in the table and first in the list. -/
theorem test_rot_order :
    nextIs (exec (.swRot 0 0) (wCode 0x0180 [3, 2, 1])) (fun t => decide ((t.coreGet 0).stack = [1, 3, 2])) = true := by
  decide +kernel

/-- A row whose instruction is not the one at the PC changes nothing. -/
theorem test_other_row_waits :
    nextIs (exec (.swAdd 0 0) (wCode 0x0240 [3, 10])) (fun t => decide ((t.coreGet 0).stack = [3, 10])) = true := by decide +kernel

/-! ### Worked examples of chapters 8 and 12 -/

/-- A one-step Sync over UDP/IPv6 without VLAN as chapter 12 builds it: its message of 44 octets begins at octet 62. -/
def wSync : List Byte := List.replicate 12 0 ++ [0x86, 0xDD, 0x60] ++ List.replicate 5 0 ++ [17] ++ List.replicate 33 0 ++
  [0, 0, 0x01, 0x3F, 0, 0, 0, 0, 0x00, 0x12, 0, 44] ++ List.replicate 42 0

/-- The one-step Sync: correctionField, originTimestamp and the compensation octets. -/
theorem test_one_step_sync :
    octAt (oneStepFrame wSync 1893456604 250000790 37683) 70 8 = [0, 0, 0, 0, 0, 0, 0x93, 0x33] ∧
    octAt (oneStepFrame wSync 1893456604 250000790 37683) 96 12 =
      [0, 0, 0x70, 0xDB, 0xDA, 0xDC, 0x0E, 0xE6, 0xB5, 0x96, 0x5C, 0x97] := by decide +kernel

/-- The E5a pilot slot: CARR_RATE, CODE_RATE and the code phase that the seeding event writes. -/
theorem test_seeded_image :
    ((wBase.setFld (F.XBAR_SRC_RATE 12) 2).seedImage
      (imgSet (imgSet (List.replicate 32 0) 0 0x0100C40A) 0x10 703000247) 37347542 ⟨0x40A, 891528, 34252, 1625, 0⟩ 75000000).take 7
      = [0x0100C40A, 0x00023EA7, 0, 0, 0x29E6F3B6, 0x88000000, 3482] := by decide +kernel

theorem witness_RegisterSpaceCommandsComplete :
    (((fun (s : State) (init addr value : Nat) => decide ((s.admits init addr = true))) (wBase) Init.MC R.ANT_EN 3) &&
    ((fun (s : State) (init addr : Nat) => decide ((s.serves init addr = true))) (wBase) Init.MC R.ANT_EN) &&
    ((fun (s : State) (init : Nat) => decide ((s.serves init R.TBU_NOW0 = true))) (wBase) Init.MC) &&
    ((fun (s : State) (init : Nat) => decide ((s.serves init R.RTC_CNT0 = true))) (wBase) Init.MC) &&
    ((fun (s : State) (init : Nat) => decide ((s.serves init R.RTC_CAL0 = true))) (wBase) Init.MC) &&
    ((fun (s : State) (init : Nat) => decide ((s.serves init R.AON_RAW0 = true))) (wBase) Init.MC) &&
    ((fun (s : State) (init : Nat) => decide ((s.serves init R.ACQ_CELLSLO = true))) (wBase) Init.MC) &&
    ((fun (s : State) (init u : Nat) => decide ((u < 2) ∧ (s.serves init (R.UART_DATA u) = true))) (wBase) Init.MC 1) &&
    ((fun (s : State) (init u value : Nat) => decide ((u < 2) ∧ (s.admits init (R.UART_DATA u) = true) ∧ ((s.host.uartTx.getD u []).length < 64))) (wBase) Init.MC 1 65) &&
    ((fun (s : State) (init value : Nat) => decide ((s.admits init R.QSPI_DATA = true))) (wBase) Init.MC 7) &&
    ((fun (s : State) (init value : Nat) => decide ((s.serves init R.QSPI_DATA = true))) (wBase) Init.MC 0) &&
    ((fun (s : State) (init : Nat) => decide ((s.serves init R.PTP_RXDATA = true))) (wBase) Init.MC)) = true := by decide +kernel

theorem witness_RegisterSpaceCommandsComplete_2 :
    (((fun (s : State) (init value : Nat) => decide ((s.admits init R.PMU_RETDATA = true))) (wBase) Init.MC 7) &&
    ((fun (s : State) (init value : Nat) => decide ((s.serves init R.PMU_RETDATA = true))) (wBase) Init.MC 0) &&
    ((fun (s : State) (init : Nat) => decide ((s.serves init R.CHS2_EVICT = true))) (wBase) Init.MC)) = true := by decide +kernel

theorem witness_PageCommandsComplete :
    (((fun (s : State) (init page : Nat) (on : Bool) => decide ((page % 4096 = 0) ∧ (s.admits init (R.PAGE_CTRL page) = true) ∧ (s.flag (F.LOCK_LOCK page) = false))) (wBase) Init.MC P.ANT true) &&
    ((fun (s : State) (page : Nat) => decide (((kindOf page).isSome = true) ∧ (page ≠ P.CORE 11) ∧ (s.enabled page = false) ∧ (s.running page = true) ∧ (s.drained page = true))) (wBase.setFlag (F.CTRL_ENABLE P.UART) false) P.UART) &&
    ((fun (s : State) (init page : Nat) => decide ((page % 4096 = 0) ∧ (s.admits init (R.PAGE_CTRL page) = true) ∧ (s.flag (F.LOCK_LOCK page) = false) ∧ (ctrlFixed page = false))) (wBase) Init.MC P.ANT) &&
    ((fun (s : State) (page : Nat) => decide (((kindOf page).isSome = true) ∧ (s.inReset page = true) ∧ ((((s.setFlag (F.CTRL_SOFT_RESET page) false).setFlag (F.STAT_IN_RESET page) false).enabled page) = false))) ((wBase.setFlag (F.CTRL_ENABLE P.UART) false).setFlag (F.STAT_IN_RESET P.UART) true) P.UART) &&
    ((fun (s : State) (page : Nat) => decide (((kindOf page).isSome = true) ∧ (s.inReset page = true) ∧ ((((s.setFlag (F.CTRL_SOFT_RESET page) false).setFlag (F.STAT_IN_RESET page) false).enabled page) = true))) (wBase.setFlag (F.STAT_IN_RESET P.UART) true) P.UART) &&
    ((fun (s : State) (init page : Nat) => decide ((page % 4096 = 0) ∧ (s.admits init (R.PAGE_COMMIT page) = true) ∧ (((kindOf page).any fun k => decide (k.1.commit = .commit)) = true))) (wBase) Init.MC P.ANT) &&
    ((fun (s : State) (init page : Nat) => decide ((page % 4096 = 0) ∧ (s.admits init (R.PAGE_LOCK page) = true) ∧ (s.flag (F.LOCK_LOCK page) = false))) (wBase) Init.MC P.ANT) &&
    ((fun (s : State) (init target : Nat) => decide ((init = Init.MC) ∧ (s.admits init R.SYS_MODECMD = true))) (wBase) Init.MC 3) &&
    ((fun (s : State) (n cur vout : Nat) => decide ((n < 8))) (wBase) 3 4 5)) = true := by decide +kernel

theorem witness_TimeCommandsComplete :
    (((fun (s : State) (dt ds : Nat) => decide ((3 ≤ (s.advance dt ds).qual) ∧ ((s.advance dt ds).tbu.lastSolq + 2 * tuSec ≤ (s.advance dt ds).tbu.time))) ({ wTime.setFld F.TBU_QUAL_QUAL 3 with tbu := { wTime.tbu with lastSolq := 0 } }) 0 0) &&
    ((fun (s : State) (dt ds : Nat) => decide (((s.advance dt ds).leapDue = true) ∧ ((s.advance dt ds).fld F.TBU_UTC_LEAP = 1))) (wTime.setFld F.TBU_UTC_LEAP 1) 0 0) &&
    ((fun (s : State) (edges : Nat) => decide ((s.flag F.TBU_QUAL_WAIT = true) ∧ (s.loaded = false) ∧ (s.tbuRefOk = true) ∧ (s.regBit (R.PAGE_CTRL P.TBU) 4 = false))) ((wBase.setFlag F.TBU_QUAL_WAIT true).setFld F.CLK_ROOTSTAT_REF 1) 0) &&
    ((fun (s : State) (dt ds : Nat) => decide (((s.advance dt ds).loaded = true) ∧ ((s.advance dt ds).tioRuns = true) ∧ (((s.advance dt ds).tio.second.all fun l => decide (l < (s.advance dt ds).nowSec)) = true))) (wTime) 0 0) &&
    ((fun (s : State) (dt ds : Nat) => decide (((s.advance dt ds).gated P.TIO = false))) (wTime) 0 0) &&
    ((fun (s : State) (dt ds m : Nat) (rise : Bool) (off : Nat) => decide ((m < 4) ∧ ((s.advance dt ds).loaded = true) ∧ ((s.advance dt ds).tioRuns = true) ∧ ((s.advance dt ds).fld (F.TIO_EVCFG_EDGE m) = 3) ∧ (((s.advance dt ds).evFifo m).length < 4) ∧ ((s.advance dt ds).tio.evLast.getD m none = none))) (wTime.setFld (F.TIO_EVCFG_EDGE 2) 3) 0 0 2 true 1) &&
    ((fun (s : State) (init m : Nat) => decide ((m < 4) ∧ (s.admits init (R.TIO_EVSEC1 m) = true))) (wBase) Init.SC0 2) &&
    ((fun (s : State) (init value : Nat) => decide ((s.admits init R.AUX_DACNEXT = true))) (wBase) Init.SC0 5) &&
    ((fun (s : State) (sums : List Nat) => decide ((s.adcLive = true) ∧ (s.flag F.AUX_ADCSTAT_BUSY = true))) (wBase.setFlag F.AUX_ADCSTAT_BUSY true) [])) = true := by decide +kernel

theorem witness_TimeCommandsComplete_e1 :
    (fun (s : State) (dt ds n i : Nat) (raw : List (List Iq)) (e : EpochIn) (s0 s2 s1 : State) => ((((List.range 32).filterMap fun n => (s0.trigDue n).map fun x => (n, x)) = [(n, i, false)]) ∧ (n ≠ s1.fld F.COR_CTL_EPOCH_DRL)) ∧ (s0 = (s.feed raw).advance dt ds) ∧ (s2 = s0.trigFire n i false e.off e.samp) ∧ (s1 = ({ s2 with tbu := { s2.tbu with stepSpan := none } } : State))) (wTrig) 0 0 3 0 [] ⟨0, 0, .missing, ⟨[], [], 0, 0, 0, 0, 0, []⟩⟩ (((wTrig).feed []).advance 0 0) ((((wTrig).feed []).advance 0 0).trigFire 3 0 false (⟨0, 0, .missing, ⟨[], [], 0, 0, 0, 0, 0, []⟩⟩ : EpochIn).off (⟨0, 0, .missing, ⟨[], [], 0, 0, 0, 0, 0, []⟩⟩ : EpochIn).samp) (({ ((((wTrig).feed []).advance 0 0).trigFire 3 0 false (⟨0, 0, .missing, ⟨[], [], 0, 0, 0, 0, 0, []⟩⟩ : EpochIn).off (⟨0, 0, .missing, ⟨[], [], 0, 0, 0, 0, 0, []⟩⟩ : EpochIn).samp) with tbu := { ((((wTrig).feed []).advance 0 0).trigFire 3 0 false (⟨0, 0, .missing, ⟨[], [], 0, 0, 0, 0, 0, []⟩⟩ : EpochIn).off (⟨0, 0, .missing, ⟨[], [], 0, 0, 0, 0, 0, []⟩⟩ : EpochIn).samp).tbu with stepSpan := none } } : State)) :=
  ⟨by decide +kernel, rfl, rfl, rfl⟩

theorem witness_TimeCommandsComplete_e2 :
    (fun (s : State) (edges : Nat) (s1 : State) (n unc : Nat) => ((s.flag F.TBU_SLPSTAT_PENDING = true) ∧ (s.tbuRefOk = true) ∧ (edges ≠ 0) ∧ (n = (s1.aon.raw + 2 ^ 48 - s1.tbu.snapC) % 2 ^ 48) ∧ (unc = (-(-(((n * (1000000000 * 2 ^ 16) : Nat) : Int) * ((2 ^ 25 : Int) + s1.aon.trim) * s1.fld F.RTC_UNCPPB_PPB * 1000 + (30517578 * 10 ^ 9 * 2 ^ 56 : Nat)) / ((10 ^ 12 * 2 ^ 56 : Nat) : Int))).toNat)) ∧ (s1 = s.aonRun edges)) ((wBase.setFlag F.TBU_SLPSTAT_PENDING true).setFld F.CLK_ROOTSTAT_REF 1) 1 (((wBase.setFlag F.TBU_SLPSTAT_PENDING true).setFld F.CLK_ROOTSTAT_REF 1).aonRun 1) (((((wBase.setFlag F.TBU_SLPSTAT_PENDING true).setFld F.CLK_ROOTSTAT_REF 1).aonRun 1).aon.raw + 2 ^ 48 - (((wBase.setFlag F.TBU_SLPSTAT_PENDING true).setFld F.CLK_ROOTSTAT_REF 1).aonRun 1).tbu.snapC) % 2 ^ 48) ((-(-((((((((wBase.setFlag F.TBU_SLPSTAT_PENDING true).setFld F.CLK_ROOTSTAT_REF 1).aonRun 1).aon.raw + 2 ^ 48 - (((wBase.setFlag F.TBU_SLPSTAT_PENDING true).setFld F.CLK_ROOTSTAT_REF 1).aonRun 1).tbu.snapC) % 2 ^ 48) * (1000000000 * 2 ^ 16) : Nat) : Int) * ((2 ^ 25 : Int) + (((wBase.setFlag F.TBU_SLPSTAT_PENDING true).setFld F.CLK_ROOTSTAT_REF 1).aonRun 1).aon.trim) * (((wBase.setFlag F.TBU_SLPSTAT_PENDING true).setFld F.CLK_ROOTSTAT_REF 1).aonRun 1).fld F.RTC_UNCPPB_PPB * 1000 + (30517578 * 10 ^ 9 * 2 ^ 56 : Nat)) / ((10 ^ 12 * 2 ^ 56 : Nat) : Int))).toNat) :=
  ⟨by decide +kernel, rfl⟩

theorem witness_SynthesiserCommandsComplete :
    (((fun (s : State) (b init : Nat) => decide ((b < 2) ∧ (s.admits init (R.SYN_CTRL b) = true) ∧ (s.shM = []) ∧ (s.synState b = .locked) ∧ (synInRange b (s.synWanted b) = true))) (wSyn) 0 Init.MC) &&
    ((fun (s : State) (b : Nat) (t : Int) => decide ((b < 2) ∧ ((s.setFldI (F.SYN_TEMP_NOW b) t).flag (F.SYN_TEMP_CAL_V b) = false))) (wBase) 1 40) &&
    ((fun (s : State) (b : Nat) => decide ((b < 2) ∧ (s.synState b = .unlocked) ∧ ((s.synGet b).retune = false))) (wSyn.setFlag (F.SYN_STAT_LOCK 0) false) 0) &&
    ((fun (s : State) (b : Nat) => decide ((b < 2) ∧ (s.synState b = .locked))) (wSyn) 0) &&
    ((fun (s : State) (b : Nat) => decide ((b < 2) ∧ (s.synState b = .cal))) ((wSyn.setFlag (F.SYN_STAT_LOCK 0) false).setFlag (F.SYN_STAT_CALIBRATING 0) true) 0) &&
    ((fun (s : State) (b : Nat) => decide ((b < 2) ∧ (s.synState b = .settle))) ((wSyn.setFlag (F.SYN_STAT_LOCK 0) false).setFlag (F.SYN_STAT_SETTLING 0) true) 0)) = true := by decide +kernel

theorem witness_AntennaCommandsComplete :
    (((fun (s : State) (n : Nat) => decide ((n < 8) ∧ (bit (s.fld F.ANT_STAT_ON) n = true) ∧ (10 < s.antIlim n) ∧ (s.rfs.blank.getD n false = false) ∧ (bit (s.fld F.ANT_STAT_FOLDED) n = false))) ((wBase.setFld F.ANT_STAT_ON 4).setFld (F.ANT_CFG_ILIM 2) 50) 2) &&
    ((fun (s : State) (n : Nat) => decide ((n < 8) ∧ (bit (s.fld F.ANT_STAT_ON) n = true))) (wBase.setFld F.ANT_STAT_ON 4) 2) &&
    ((fun (s : State) (n : Nat) => decide ((n < 8) ∧ (bit (s.fld F.ANT_STAT_FOLDED) n = true) ∧ (s.flag (F.ANT_CFG_AUTORETRY n) = true))) ((wBase.setFld F.ANT_STAT_FOLDED 4).setFlag (F.ANT_CFG_AUTORETRY 2) true) 2) &&
    ((fun (s : State) (init mask : Nat) => decide ((s.admits init R.ANT_REARM = true))) (wBase) Init.MC 4) &&
    ((fun (s : State) (n : Nat) => decide ((n < 8))) (wBase) 2)) = true := by decide +kernel

theorem witness_InjectorAndPathCommandsComplete :
    (((fun (s : State) (init : Nat) => decide ((s.admits init R.CAL_CMD = true) ∧ (s.calState = 0) ∧ (s.calRefuse = 0) ∧ (s.synState (s.fld F.CAL_CFG_SYN) = .locked))) (wCal) Init.MC) &&
    ((fun (s : State) (init : Nat) => decide ((s.admits init R.CAL_CMD = true) ∧ (s.calState = 3))) (wBase.setFld F.CAL_STAT_STATE 3) Init.MC) &&
    ((fun (s : State)  => decide ((s.calState = 1))) (wBase.setFld F.CAL_STAT_STATE 1) ) &&
    ((fun (s : State)  => decide ((s.calState = 2) ∧ (s.calLinesUp ≠ 3))) (wBase.setFld F.CAL_STAT_STATE 2) ) &&
    ((fun (s : State)  => decide ((s.calState = 4))) (wBase.setFld F.CAL_STAT_STATE 4) ) &&
    ((fun (s : State) (rl pwr : Nat) => decide ((s.calState = 3) ∧ (¬ rl < 5 * clampNat 8 40 (s.fld F.CAL_MATCH_RL_TH)))) (wBase.setFld F.CAL_STAT_STATE 3) 250 3) &&
    ((fun (s : State) (rl pwr : Nat) => decide ((s.calState = 3) ∧ (rl < 5 * clampNat 8 40 (s.fld F.CAL_MATCH_RL_TH)))) (wBase.setFld F.CAL_STAT_STATE 3) 39 3) &&
    ((fun (s : State)  => decide ((s.calState = 3))) (wBase.setFld F.CAL_STAT_STATE 3) ) &&
    ((fun (s : State)  => decide ((s.calState = 3))) (wBase.setFld F.CAL_STAT_STATE 3) ) &&
    ((fun (s : State) (p : Nat) (active : Bool) => decide ((p < 16) ∧ (active = true))) (wBase) 2 true) &&
    ((fun (s : State) (p : Nat) (active : Bool) => decide ((p < 16) ∧ (active = false))) (wBase) 2 false) &&
    ((fun (s : State) (p : Nat) => decide ((p < 16))) (wBase) 2)) = true := by decide +kernel

theorem witness_SignalBlockCommandsComplete :
    (((fun (s : State) (b : Nat) (job : SolveJob) (x : List Cx) => decide ((b < 2) ∧ (s.live (P.ARR b) = true) ∧ ((s.arrGet b).due = some job) ∧ (b0Mode job.cfg ≠ 2) ∧ (job.fresh = true) ∧ (solveWeights job = some x))) ({ wBase with arr := wBase.arr.set 0 { wBase.arrGet 0 with due := some wJob } }) 0 wJob ((solveWeights wJob).getD []))) = true := by decide +kernel

theorem witness_SignalBlockCommandsComplete_e1 :
    (fun (s : State) (raw rest : List (List Iq)) (s1 s2 s3 : State) => ((s1.sig.covDue = true) ∧ (s3.sig.tail ≠ some 0)) ∧ (s.feedTo raw = (s1, rest)) ∧ (s2 = (List.range 16).foldl State.showCoefs (((List.range 16).foldl State.dfePathEnd ((List.range 2).foldl State.bandBlockEnd s1.smBlockEnd)).notchChanges)) ∧ (s3 = ({ s2 with sig := { s2.sig with covDue := false, tail := some 72 } } : State).feed rest)) ({ wBase with sig := { wBase.sig with covDue := true } }) ([] : List (List Iq)) ([] : List (List Iq)) ((({ wBase with sig := { wBase.sig with covDue := true } }).feedTo ([] : List (List Iq))).1) ((List.range 16).foldl State.showCoefs (((List.range 16).foldl State.dfePathEnd ((List.range 2).foldl State.bandBlockEnd ((({ wBase with sig := { wBase.sig with covDue := true } }).feedTo ([] : List (List Iq))).1).smBlockEnd)).notchChanges)) (({ ((List.range 16).foldl State.showCoefs (((List.range 16).foldl State.dfePathEnd ((List.range 2).foldl State.bandBlockEnd ((({ wBase with sig := { wBase.sig with covDue := true } }).feedTo ([] : List (List Iq))).1).smBlockEnd)).notchChanges)) with sig := { ((List.range 16).foldl State.showCoefs (((List.range 16).foldl State.dfePathEnd ((List.range 2).foldl State.bandBlockEnd ((({ wBase with sig := { wBase.sig with covDue := true } }).feedTo ([] : List (List Iq))).1).smBlockEnd)).notchChanges)).sig with covDue := false, tail := some 72 } } : State).feed ([] : List (List Iq))) :=
  ⟨by decide +kernel, pairEq (by first | with_reducible rfl | decide +kernel), rfl, rfl⟩

theorem witness_SignalBlockCommandsComplete_e2 :
    (fun (s : State) (raw rest : List (List Iq)) (s1 s2 s3 : State) => ((s1.sig.covDue = false) ∧ (s2.sig.tail = some 0)) ∧ (s.feedTo raw = (s1, rest)) ∧ (s2 = s1.feed rest) ∧ (s3 = (List.range 2).foldl State.arrBlockEnd s2)) ({ wBase with sig := { wBase.sig with tail := some 0 } }) ([] : List (List Iq)) ([] : List (List Iq)) ((({ wBase with sig := { wBase.sig with tail := some 0 } }).feedTo ([] : List (List Iq))).1) (((({ wBase with sig := { wBase.sig with tail := some 0 } }).feedTo ([] : List (List Iq))).1).feed ([] : List (List Iq))) ((List.range 2).foldl State.arrBlockEnd (((({ wBase with sig := { wBase.sig with tail := some 0 } }).feedTo ([] : List (List Iq))).1).feed ([] : List (List Iq)))) :=
  ⟨by decide +kernel, pairEq (by first | with_reducible rfl | decide +kernel), rfl, rfl⟩

theorem witness_SignalBlockCommandsComplete_e3 :
    (fun (s : State) (b n : Nat) (job : SolveJob) (cand : List (Nat × List Iq)) (js : List (Nat × Option (Nat × Int × Nat))) (s2 : State) => ((b < 2) ∧ ((s.arrGet b).reportDue = some job) ∧ (cand = ((jamEigen (job.ravg.getD [])).2.filter fun v => aboveFloor (4 * v.1) (jamEigen (job.ravg.getD [])).1 (getBits job.cfg 16 8))) ∧ (js = ((cand.take 4).map fun v => (levelAbove (4 * v.1) (jamEigen (job.ravg.getD [])).1, if getBits job.ctl 1 1 = 1 then some ((jamDirection (elementPos job.pos) job.lo v.2).1, (jamDirection (elementPos job.pos) job.lo v.2).2, nullDepth (elementPos job.pos) job.lo ((List.range 8).map fun e => cxWord (s.reg (R.ARR_B0W b e))) (jamDirection (elementPos job.pos) job.lo v.2)) else none))) ∧ (n = min 7 cand.length) ∧ (((List.range 4).any fun k => s2.flag (F.ARR_JAMA_DIR_V b k) && decide (s2.fld (F.ARR_JAMB_DEPTH b k) < getBits job.cfg 24 8)) = false) ∧ (n = s.fld (F.ARR_NULL_NJAM b)) ∧ (s.jamMoved s2 b = false)) ∧ (s2 = (((((List.range 4).foldl (State.jamShow b js) (s.arrSet b { s.arrGet b with reportDue := none })).setFld (F.ARR_NULL_NJAM b) n).jamSupp b job)).irq (P.ARR b) 0)) ({ wBase with arr := wBase.arr.set 0 { wBase.arrGet 0 with reportDue := some wJob } }) 0 0 wJob ([] : List (Nat × List Iq)) ([] : List (Nat × Option (Nat × Int × Nat))) ((((((List.range 4).foldl (State.jamShow 0 ([] : List (Nat × Option (Nat × Int × Nat)))) (({ wBase with arr := wBase.arr.set 0 { wBase.arrGet 0 with reportDue := some wJob } }).arrSet 0 { ({ wBase with arr := wBase.arr.set 0 { wBase.arrGet 0 with reportDue := some wJob } }).arrGet 0 with reportDue := none })).setFld (F.ARR_NULL_NJAM 0) 0).jamSupp 0 wJob)).irq (P.ARR 0) 0) :=
  ⟨by decide +kernel, rfl⟩

theorem witness_SignalBlockCommandsComplete_e4 :
    (fun (s : State) (raw : List (List Iq)) (s1 s2 : State) => ((s1.sig.smDue = true)) ∧ (s1 = s.feed raw) ∧ (s2 = (List.range 16).foldl State.smPath s1)) ({ wBase with sig := { wBase.sig with smDue := true } }) ([] : List (List Iq)) (({ wBase with sig := { wBase.sig with smDue := true } }).feed ([] : List (List Iq))) ((List.range 16).foldl State.smPath (({ wBase with sig := { wBase.sig with smDue := true } }).feed ([] : List (List Iq)))) :=
  ⟨by decide +kernel, rfl, rfl⟩

theorem witness_SignalBlockCommandsComplete_e5 :
    (fun (s : State) (p used fl : Nat) (sum bins : List Nat) (pw : List Nat) (pk : List (Int × Nat)) (s1 s2 s3 s4 s5 : State) => ((p < 16) ∧ ((s.pathSig p).mon.report = some (sum, used)) ∧ (bins = byBin sum) ∧ (fl = (if 0 < used then floorPower (s.ifBw p) bins else 0)) ∧ (pk = (if 0 < used then reportPeaks (localMaxima (s.ifBw p) fl (s.fld (F.DFE_SMCFG_PK_TH p)) bins) else [])) ∧ (pw = (if 0 < used then (List.range 8).map (fun k => s.notchPower p k (s.pathSig p).mon.valid fl used) else []))) ∧ (s1 = s.pathSigSet p { s.pathSig p with notch := (s.pathSig p).notch.map (fun x => { x with removed := 0 }), mon := { (s.pathSig p).mon with report := none, valid := 0 } }) ∧ (s2 = (List.range 8).foldl (State.smShowPeak p fl pk) ((((if 0 < used then s1.setFld (F.DFE_SMSTAT_FLOOR p) (binLevel fl used) else s1).setFld (F.DFE_SMSTAT_NPEAK p) pk.length).setFlag (F.DFE_SMSTAT_VALID p) (decide (0 < used))).irq (P.DFE p) 0)) ∧ (s3 = s2.dfeSet p { s2.dfeGet p with peaks := pk.map (·.1) }) ∧ (s4 = (if s3.notchLeader p = p then (pk.foldl (State.notchAssign p fl) ((List.range 8).foldl (State.notchRelease p pw) s3)).notchShow (p % 2) else s3)) ∧ (s5 = (if 0 < used then (List.range 16).foldl (State.capSpectrum p (bins.map fun b => binLevel b used)) s4 else s4))) (wSmRep) 2 0 0 ([] : List Nat) ([] : List Nat) [] ([] : List (Int × Nat)) ((wSmRep).pathSigSet 2 { (wSmRep).pathSig 2 with notch := ((wSmRep).pathSig 2).notch.map (fun x => { x with removed := 0 }), mon := { ((wSmRep).pathSig 2).mon with report := none, valid := 0 } }) ((List.range 8).foldl (State.smShowPeak 2 0 ([] : List (Int × Nat))) ((((if 0 < 0 then ((wSmRep).pathSigSet 2 { (wSmRep).pathSig 2 with notch := ((wSmRep).pathSig 2).notch.map (fun x => { x with removed := 0 }), mon := { ((wSmRep).pathSig 2).mon with report := none, valid := 0 } }).setFld (F.DFE_SMSTAT_FLOOR 2) (binLevel 0 0) else ((wSmRep).pathSigSet 2 { (wSmRep).pathSig 2 with notch := ((wSmRep).pathSig 2).notch.map (fun x => { x with removed := 0 }), mon := { ((wSmRep).pathSig 2).mon with report := none, valid := 0 } })).setFld (F.DFE_SMSTAT_NPEAK 2) ([] : List (Int × Nat)).length).setFlag (F.DFE_SMSTAT_VALID 2) (decide (0 < 0))).irq (P.DFE 2) 0)) (((List.range 8).foldl (State.smShowPeak 2 0 ([] : List (Int × Nat))) ((((if 0 < 0 then ((wSmRep).pathSigSet 2 { (wSmRep).pathSig 2 with notch := ((wSmRep).pathSig 2).notch.map (fun x => { x with removed := 0 }), mon := { ((wSmRep).pathSig 2).mon with report := none, valid := 0 } }).setFld (F.DFE_SMSTAT_FLOOR 2) (binLevel 0 0) else ((wSmRep).pathSigSet 2 { (wSmRep).pathSig 2 with notch := ((wSmRep).pathSig 2).notch.map (fun x => { x with removed := 0 }), mon := { ((wSmRep).pathSig 2).mon with report := none, valid := 0 } })).setFld (F.DFE_SMSTAT_NPEAK 2) ([] : List (Int × Nat)).length).setFlag (F.DFE_SMSTAT_VALID 2) (decide (0 < 0))).irq (P.DFE 2) 0)).dfeSet 2 { ((List.range 8).foldl (State.smShowPeak 2 0 ([] : List (Int × Nat))) ((((if 0 < 0 then ((wSmRep).pathSigSet 2 { (wSmRep).pathSig 2 with notch := ((wSmRep).pathSig 2).notch.map (fun x => { x with removed := 0 }), mon := { ((wSmRep).pathSig 2).mon with report := none, valid := 0 } }).setFld (F.DFE_SMSTAT_FLOOR 2) (binLevel 0 0) else ((wSmRep).pathSigSet 2 { (wSmRep).pathSig 2 with notch := ((wSmRep).pathSig 2).notch.map (fun x => { x with removed := 0 }), mon := { ((wSmRep).pathSig 2).mon with report := none, valid := 0 } })).setFld (F.DFE_SMSTAT_NPEAK 2) ([] : List (Int × Nat)).length).setFlag (F.DFE_SMSTAT_VALID 2) (decide (0 < 0))).irq (P.DFE 2) 0)).dfeGet 2 with peaks := ([] : List (Int × Nat)).map (·.1) }) ((if (((List.range 8).foldl (State.smShowPeak 2 0 ([] : List (Int × Nat))) ((((if 0 < 0 then ((wSmRep).pathSigSet 2 { (wSmRep).pathSig 2 with notch := ((wSmRep).pathSig 2).notch.map (fun x => { x with removed := 0 }), mon := { ((wSmRep).pathSig 2).mon with report := none, valid := 0 } }).setFld (F.DFE_SMSTAT_FLOOR 2) (binLevel 0 0) else ((wSmRep).pathSigSet 2 { (wSmRep).pathSig 2 with notch := ((wSmRep).pathSig 2).notch.map (fun x => { x with removed := 0 }), mon := { ((wSmRep).pathSig 2).mon with report := none, valid := 0 } })).setFld (F.DFE_SMSTAT_NPEAK 2) ([] : List (Int × Nat)).length).setFlag (F.DFE_SMSTAT_VALID 2) (decide (0 < 0))).irq (P.DFE 2) 0)).dfeSet 2 { ((List.range 8).foldl (State.smShowPeak 2 0 ([] : List (Int × Nat))) ((((if 0 < 0 then ((wSmRep).pathSigSet 2 { (wSmRep).pathSig 2 with notch := ((wSmRep).pathSig 2).notch.map (fun x => { x with removed := 0 }), mon := { ((wSmRep).pathSig 2).mon with report := none, valid := 0 } }).setFld (F.DFE_SMSTAT_FLOOR 2) (binLevel 0 0) else ((wSmRep).pathSigSet 2 { (wSmRep).pathSig 2 with notch := ((wSmRep).pathSig 2).notch.map (fun x => { x with removed := 0 }), mon := { ((wSmRep).pathSig 2).mon with report := none, valid := 0 } })).setFld (F.DFE_SMSTAT_NPEAK 2) ([] : List (Int × Nat)).length).setFlag (F.DFE_SMSTAT_VALID 2) (decide (0 < 0))).irq (P.DFE 2) 0)).dfeGet 2 with peaks := ([] : List (Int × Nat)).map (·.1) }).notchLeader 2 = 2 then (([] : List (Int × Nat)).foldl (State.notchAssign 2 0) ((List.range 8).foldl (State.notchRelease 2 []) (((List.range 8).foldl (State.smShowPeak 2 0 ([] : List (Int × Nat))) ((((if 0 < 0 then ((wSmRep).pathSigSet 2 { (wSmRep).pathSig 2 with notch := ((wSmRep).pathSig 2).notch.map (fun x => { x with removed := 0 }), mon := { ((wSmRep).pathSig 2).mon with report := none, valid := 0 } }).setFld (F.DFE_SMSTAT_FLOOR 2) (binLevel 0 0) else ((wSmRep).pathSigSet 2 { (wSmRep).pathSig 2 with notch := ((wSmRep).pathSig 2).notch.map (fun x => { x with removed := 0 }), mon := { ((wSmRep).pathSig 2).mon with report := none, valid := 0 } })).setFld (F.DFE_SMSTAT_NPEAK 2) ([] : List (Int × Nat)).length).setFlag (F.DFE_SMSTAT_VALID 2) (decide (0 < 0))).irq (P.DFE 2) 0)).dfeSet 2 { ((List.range 8).foldl (State.smShowPeak 2 0 ([] : List (Int × Nat))) ((((if 0 < 0 then ((wSmRep).pathSigSet 2 { (wSmRep).pathSig 2 with notch := ((wSmRep).pathSig 2).notch.map (fun x => { x with removed := 0 }), mon := { ((wSmRep).pathSig 2).mon with report := none, valid := 0 } }).setFld (F.DFE_SMSTAT_FLOOR 2) (binLevel 0 0) else ((wSmRep).pathSigSet 2 { (wSmRep).pathSig 2 with notch := ((wSmRep).pathSig 2).notch.map (fun x => { x with removed := 0 }), mon := { ((wSmRep).pathSig 2).mon with report := none, valid := 0 } })).setFld (F.DFE_SMSTAT_NPEAK 2) ([] : List (Int × Nat)).length).setFlag (F.DFE_SMSTAT_VALID 2) (decide (0 < 0))).irq (P.DFE 2) 0)).dfeGet 2 with peaks := ([] : List (Int × Nat)).map (·.1) }))).notchShow (2 % 2) else (((List.range 8).foldl (State.smShowPeak 2 0 ([] : List (Int × Nat))) ((((if 0 < 0 then ((wSmRep).pathSigSet 2 { (wSmRep).pathSig 2 with notch := ((wSmRep).pathSig 2).notch.map (fun x => { x with removed := 0 }), mon := { ((wSmRep).pathSig 2).mon with report := none, valid := 0 } }).setFld (F.DFE_SMSTAT_FLOOR 2) (binLevel 0 0) else ((wSmRep).pathSigSet 2 { (wSmRep).pathSig 2 with notch := ((wSmRep).pathSig 2).notch.map (fun x => { x with removed := 0 }), mon := { ((wSmRep).pathSig 2).mon with report := none, valid := 0 } })).setFld (F.DFE_SMSTAT_NPEAK 2) ([] : List (Int × Nat)).length).setFlag (F.DFE_SMSTAT_VALID 2) (decide (0 < 0))).irq (P.DFE 2) 0)).dfeSet 2 { ((List.range 8).foldl (State.smShowPeak 2 0 ([] : List (Int × Nat))) ((((if 0 < 0 then ((wSmRep).pathSigSet 2 { (wSmRep).pathSig 2 with notch := ((wSmRep).pathSig 2).notch.map (fun x => { x with removed := 0 }), mon := { ((wSmRep).pathSig 2).mon with report := none, valid := 0 } }).setFld (F.DFE_SMSTAT_FLOOR 2) (binLevel 0 0) else ((wSmRep).pathSigSet 2 { (wSmRep).pathSig 2 with notch := ((wSmRep).pathSig 2).notch.map (fun x => { x with removed := 0 }), mon := { ((wSmRep).pathSig 2).mon with report := none, valid := 0 } })).setFld (F.DFE_SMSTAT_NPEAK 2) ([] : List (Int × Nat)).length).setFlag (F.DFE_SMSTAT_VALID 2) (decide (0 < 0))).irq (P.DFE 2) 0)).dfeGet 2 with peaks := ([] : List (Int × Nat)).map (·.1) }))) ((if 0 < 0 then (List.range 16).foldl (State.capSpectrum 2 (([] : List Nat).map fun b => binLevel b 0)) ((if (((List.range 8).foldl (State.smShowPeak 2 0 ([] : List (Int × Nat))) ((((if 0 < 0 then ((wSmRep).pathSigSet 2 { (wSmRep).pathSig 2 with notch := ((wSmRep).pathSig 2).notch.map (fun x => { x with removed := 0 }), mon := { ((wSmRep).pathSig 2).mon with report := none, valid := 0 } }).setFld (F.DFE_SMSTAT_FLOOR 2) (binLevel 0 0) else ((wSmRep).pathSigSet 2 { (wSmRep).pathSig 2 with notch := ((wSmRep).pathSig 2).notch.map (fun x => { x with removed := 0 }), mon := { ((wSmRep).pathSig 2).mon with report := none, valid := 0 } })).setFld (F.DFE_SMSTAT_NPEAK 2) ([] : List (Int × Nat)).length).setFlag (F.DFE_SMSTAT_VALID 2) (decide (0 < 0))).irq (P.DFE 2) 0)).dfeSet 2 { ((List.range 8).foldl (State.smShowPeak 2 0 ([] : List (Int × Nat))) ((((if 0 < 0 then ((wSmRep).pathSigSet 2 { (wSmRep).pathSig 2 with notch := ((wSmRep).pathSig 2).notch.map (fun x => { x with removed := 0 }), mon := { ((wSmRep).pathSig 2).mon with report := none, valid := 0 } }).setFld (F.DFE_SMSTAT_FLOOR 2) (binLevel 0 0) else ((wSmRep).pathSigSet 2 { (wSmRep).pathSig 2 with notch := ((wSmRep).pathSig 2).notch.map (fun x => { x with removed := 0 }), mon := { ((wSmRep).pathSig 2).mon with report := none, valid := 0 } })).setFld (F.DFE_SMSTAT_NPEAK 2) ([] : List (Int × Nat)).length).setFlag (F.DFE_SMSTAT_VALID 2) (decide (0 < 0))).irq (P.DFE 2) 0)).dfeGet 2 with peaks := ([] : List (Int × Nat)).map (·.1) }).notchLeader 2 = 2 then (([] : List (Int × Nat)).foldl (State.notchAssign 2 0) ((List.range 8).foldl (State.notchRelease 2 []) (((List.range 8).foldl (State.smShowPeak 2 0 ([] : List (Int × Nat))) ((((if 0 < 0 then ((wSmRep).pathSigSet 2 { (wSmRep).pathSig 2 with notch := ((wSmRep).pathSig 2).notch.map (fun x => { x with removed := 0 }), mon := { ((wSmRep).pathSig 2).mon with report := none, valid := 0 } }).setFld (F.DFE_SMSTAT_FLOOR 2) (binLevel 0 0) else ((wSmRep).pathSigSet 2 { (wSmRep).pathSig 2 with notch := ((wSmRep).pathSig 2).notch.map (fun x => { x with removed := 0 }), mon := { ((wSmRep).pathSig 2).mon with report := none, valid := 0 } })).setFld (F.DFE_SMSTAT_NPEAK 2) ([] : List (Int × Nat)).length).setFlag (F.DFE_SMSTAT_VALID 2) (decide (0 < 0))).irq (P.DFE 2) 0)).dfeSet 2 { ((List.range 8).foldl (State.smShowPeak 2 0 ([] : List (Int × Nat))) ((((if 0 < 0 then ((wSmRep).pathSigSet 2 { (wSmRep).pathSig 2 with notch := ((wSmRep).pathSig 2).notch.map (fun x => { x with removed := 0 }), mon := { ((wSmRep).pathSig 2).mon with report := none, valid := 0 } }).setFld (F.DFE_SMSTAT_FLOOR 2) (binLevel 0 0) else ((wSmRep).pathSigSet 2 { (wSmRep).pathSig 2 with notch := ((wSmRep).pathSig 2).notch.map (fun x => { x with removed := 0 }), mon := { ((wSmRep).pathSig 2).mon with report := none, valid := 0 } })).setFld (F.DFE_SMSTAT_NPEAK 2) ([] : List (Int × Nat)).length).setFlag (F.DFE_SMSTAT_VALID 2) (decide (0 < 0))).irq (P.DFE 2) 0)).dfeGet 2 with peaks := ([] : List (Int × Nat)).map (·.1) }))).notchShow (2 % 2) else (((List.range 8).foldl (State.smShowPeak 2 0 ([] : List (Int × Nat))) ((((if 0 < 0 then ((wSmRep).pathSigSet 2 { (wSmRep).pathSig 2 with notch := ((wSmRep).pathSig 2).notch.map (fun x => { x with removed := 0 }), mon := { ((wSmRep).pathSig 2).mon with report := none, valid := 0 } }).setFld (F.DFE_SMSTAT_FLOOR 2) (binLevel 0 0) else ((wSmRep).pathSigSet 2 { (wSmRep).pathSig 2 with notch := ((wSmRep).pathSig 2).notch.map (fun x => { x with removed := 0 }), mon := { ((wSmRep).pathSig 2).mon with report := none, valid := 0 } })).setFld (F.DFE_SMSTAT_NPEAK 2) ([] : List (Int × Nat)).length).setFlag (F.DFE_SMSTAT_VALID 2) (decide (0 < 0))).irq (P.DFE 2) 0)).dfeSet 2 { ((List.range 8).foldl (State.smShowPeak 2 0 ([] : List (Int × Nat))) ((((if 0 < 0 then ((wSmRep).pathSigSet 2 { (wSmRep).pathSig 2 with notch := ((wSmRep).pathSig 2).notch.map (fun x => { x with removed := 0 }), mon := { ((wSmRep).pathSig 2).mon with report := none, valid := 0 } }).setFld (F.DFE_SMSTAT_FLOOR 2) (binLevel 0 0) else ((wSmRep).pathSigSet 2 { (wSmRep).pathSig 2 with notch := ((wSmRep).pathSig 2).notch.map (fun x => { x with removed := 0 }), mon := { ((wSmRep).pathSig 2).mon with report := none, valid := 0 } })).setFld (F.DFE_SMSTAT_NPEAK 2) ([] : List (Int × Nat)).length).setFlag (F.DFE_SMSTAT_VALID 2) (decide (0 < 0))).irq (P.DFE 2) 0)).dfeGet 2 with peaks := ([] : List (Int × Nat)).map (·.1) }))) else ((if (((List.range 8).foldl (State.smShowPeak 2 0 ([] : List (Int × Nat))) ((((if 0 < 0 then ((wSmRep).pathSigSet 2 { (wSmRep).pathSig 2 with notch := ((wSmRep).pathSig 2).notch.map (fun x => { x with removed := 0 }), mon := { ((wSmRep).pathSig 2).mon with report := none, valid := 0 } }).setFld (F.DFE_SMSTAT_FLOOR 2) (binLevel 0 0) else ((wSmRep).pathSigSet 2 { (wSmRep).pathSig 2 with notch := ((wSmRep).pathSig 2).notch.map (fun x => { x with removed := 0 }), mon := { ((wSmRep).pathSig 2).mon with report := none, valid := 0 } })).setFld (F.DFE_SMSTAT_NPEAK 2) ([] : List (Int × Nat)).length).setFlag (F.DFE_SMSTAT_VALID 2) (decide (0 < 0))).irq (P.DFE 2) 0)).dfeSet 2 { ((List.range 8).foldl (State.smShowPeak 2 0 ([] : List (Int × Nat))) ((((if 0 < 0 then ((wSmRep).pathSigSet 2 { (wSmRep).pathSig 2 with notch := ((wSmRep).pathSig 2).notch.map (fun x => { x with removed := 0 }), mon := { ((wSmRep).pathSig 2).mon with report := none, valid := 0 } }).setFld (F.DFE_SMSTAT_FLOOR 2) (binLevel 0 0) else ((wSmRep).pathSigSet 2 { (wSmRep).pathSig 2 with notch := ((wSmRep).pathSig 2).notch.map (fun x => { x with removed := 0 }), mon := { ((wSmRep).pathSig 2).mon with report := none, valid := 0 } })).setFld (F.DFE_SMSTAT_NPEAK 2) ([] : List (Int × Nat)).length).setFlag (F.DFE_SMSTAT_VALID 2) (decide (0 < 0))).irq (P.DFE 2) 0)).dfeGet 2 with peaks := ([] : List (Int × Nat)).map (·.1) }).notchLeader 2 = 2 then (([] : List (Int × Nat)).foldl (State.notchAssign 2 0) ((List.range 8).foldl (State.notchRelease 2 []) (((List.range 8).foldl (State.smShowPeak 2 0 ([] : List (Int × Nat))) ((((if 0 < 0 then ((wSmRep).pathSigSet 2 { (wSmRep).pathSig 2 with notch := ((wSmRep).pathSig 2).notch.map (fun x => { x with removed := 0 }), mon := { ((wSmRep).pathSig 2).mon with report := none, valid := 0 } }).setFld (F.DFE_SMSTAT_FLOOR 2) (binLevel 0 0) else ((wSmRep).pathSigSet 2 { (wSmRep).pathSig 2 with notch := ((wSmRep).pathSig 2).notch.map (fun x => { x with removed := 0 }), mon := { ((wSmRep).pathSig 2).mon with report := none, valid := 0 } })).setFld (F.DFE_SMSTAT_NPEAK 2) ([] : List (Int × Nat)).length).setFlag (F.DFE_SMSTAT_VALID 2) (decide (0 < 0))).irq (P.DFE 2) 0)).dfeSet 2 { ((List.range 8).foldl (State.smShowPeak 2 0 ([] : List (Int × Nat))) ((((if 0 < 0 then ((wSmRep).pathSigSet 2 { (wSmRep).pathSig 2 with notch := ((wSmRep).pathSig 2).notch.map (fun x => { x with removed := 0 }), mon := { ((wSmRep).pathSig 2).mon with report := none, valid := 0 } }).setFld (F.DFE_SMSTAT_FLOOR 2) (binLevel 0 0) else ((wSmRep).pathSigSet 2 { (wSmRep).pathSig 2 with notch := ((wSmRep).pathSig 2).notch.map (fun x => { x with removed := 0 }), mon := { ((wSmRep).pathSig 2).mon with report := none, valid := 0 } })).setFld (F.DFE_SMSTAT_NPEAK 2) ([] : List (Int × Nat)).length).setFlag (F.DFE_SMSTAT_VALID 2) (decide (0 < 0))).irq (P.DFE 2) 0)).dfeGet 2 with peaks := ([] : List (Int × Nat)).map (·.1) }))).notchShow (2 % 2) else (((List.range 8).foldl (State.smShowPeak 2 0 ([] : List (Int × Nat))) ((((if 0 < 0 then ((wSmRep).pathSigSet 2 { (wSmRep).pathSig 2 with notch := ((wSmRep).pathSig 2).notch.map (fun x => { x with removed := 0 }), mon := { ((wSmRep).pathSig 2).mon with report := none, valid := 0 } }).setFld (F.DFE_SMSTAT_FLOOR 2) (binLevel 0 0) else ((wSmRep).pathSigSet 2 { (wSmRep).pathSig 2 with notch := ((wSmRep).pathSig 2).notch.map (fun x => { x with removed := 0 }), mon := { ((wSmRep).pathSig 2).mon with report := none, valid := 0 } })).setFld (F.DFE_SMSTAT_NPEAK 2) ([] : List (Int × Nat)).length).setFlag (F.DFE_SMSTAT_VALID 2) (decide (0 < 0))).irq (P.DFE 2) 0)).dfeSet 2 { ((List.range 8).foldl (State.smShowPeak 2 0 ([] : List (Int × Nat))) ((((if 0 < 0 then ((wSmRep).pathSigSet 2 { (wSmRep).pathSig 2 with notch := ((wSmRep).pathSig 2).notch.map (fun x => { x with removed := 0 }), mon := { ((wSmRep).pathSig 2).mon with report := none, valid := 0 } }).setFld (F.DFE_SMSTAT_FLOOR 2) (binLevel 0 0) else ((wSmRep).pathSigSet 2 { (wSmRep).pathSig 2 with notch := ((wSmRep).pathSig 2).notch.map (fun x => { x with removed := 0 }), mon := { ((wSmRep).pathSig 2).mon with report := none, valid := 0 } })).setFld (F.DFE_SMSTAT_NPEAK 2) ([] : List (Int × Nat)).length).setFlag (F.DFE_SMSTAT_VALID 2) (decide (0 < 0))).irq (P.DFE 2) 0)).dfeGet 2 with peaks := ([] : List (Int × Nat)).map (·.1) }))))) :=
  ⟨by decide +kernel, rfl, rfl, rfl, rfl, rfl⟩

theorem witness_CaptureCommandsComplete :
    (((fun (s : State) (n init : Nat) => decide ((n < 16) ∧ (s.admits init (R.DFE_CAPCMD n) = true) ∧ (s.capState n = 0) ∧ (s.capValid n = true))) (wCap) 2 Init.MC) &&
    ((fun (s : State) (n init : Nat) => decide ((n < 16) ∧ (s.admits init (R.DFE_CAPCMD n) = true) ∧ (s.capState n = 1))) (wBase.setFld (F.DFE_CAPSTAT_STATE 2) 1) 2 Init.MC) &&
    ((fun (s : State) (n : Nat) => decide ((n < 16) ∧ (s.capState n = 2) ∧ ((s.capGet n).closing = none))) (wBase.setFld (F.DFE_CAPSTAT_STATE 2) 2) 2) &&
    ((fun (s : State) (n : Nat) => decide ((n < 16) ∧ (s.capState n = 3))) (wBase.setFld (F.DFE_CAPSTAT_STATE 2) 3) 2)) = true := by decide +kernel

theorem witness_CaptureCommandsComplete_e1 :
    (fun (s : State) (n time : Nat) (raw : List (List Iq)) (s1 : State) => ((n < 16) ∧ (s1.capState n = 2) ∧ (s1.capRmsDue n = true)) ∧ (s1 = s.feed raw)) ((wBase.setFld (F.DFE_CAPSTAT_STATE 2) 2).capSet 2 { CapChan.reset with spectrum := true }) 2 0 ([] : List (List Iq)) (((wBase.setFld (F.DFE_CAPSTAT_STATE 2) 2).capSet 2 { CapChan.reset with spectrum := true }).feed ([] : List (List Iq))) :=
  ⟨by decide +kernel, rfl⟩

theorem witness_CaptureCommandsComplete_e2 :
    (fun (s : State) (n time : Nat) (raw : List (List Iq)) (s1 s2 : State) => ((n < 16) ∧ (s1.capState n = 1) ∧ (s1.capRmsDue n = true) ∧ ((s1.capGet n).mix.rms = none) ∧ (s1.fld (F.DFE_CAPTRIG_START n) = 0)) ∧ (s1 = s.feed raw) ∧ (s2 = s1.capSet n { s1.capGet n with mix := (s1.capGet n).mix.close, spectrum := false })) ((wBase.setFld (F.DFE_CAPSTAT_STATE 2) 1).capSet 2 { CapChan.reset with spectrum := true }) 2 0 ([] : List (List Iq)) (((wBase.setFld (F.DFE_CAPSTAT_STATE 2) 1).capSet 2 { CapChan.reset with spectrum := true }).feed ([] : List (List Iq))) ((((wBase.setFld (F.DFE_CAPSTAT_STATE 2) 1).capSet 2 { CapChan.reset with spectrum := true }).feed ([] : List (List Iq))).capSet 2 { (((wBase.setFld (F.DFE_CAPSTAT_STATE 2) 1).capSet 2 { CapChan.reset with spectrum := true }).feed ([] : List (List Iq))).capGet 2 with mix := ((((wBase.setFld (F.DFE_CAPSTAT_STATE 2) 1).capSet 2 { CapChan.reset with spectrum := true }).feed ([] : List (List Iq))).capGet 2).mix.close, spectrum := false }) :=
  ⟨by decide +kernel, rfl, rfl⟩

theorem witness_CaptureCommandsComplete_e3 :
    (fun (s : State) (n : Nat) (raw : List (List Iq)) (s1 : State) => ((n < 16) ∧ (s1.fld (F.DFE_CAPSRC_KIND n) ≠ 3) ∧ (s1.capState n = 2) ∧ ((s1.capGet n).closing = none) ∧ (s1.capFits n (s1.capGroup n) = false) ∧ (s1.capRing n = false)) ∧ (s1 = s.feed raw)) (wBase.setFld (F.DFE_CAPSTAT_STATE 2) 2) 2 ([] : List (List Iq)) ((wBase.setFld (F.DFE_CAPSTAT_STATE 2) 2).feed ([] : List (List Iq))) :=
  ⟨by decide +kernel, rfl⟩

theorem witness_CaptureCommandsComplete_e4 :
    (fun (s : State) (n : Nat) (raw : List (List Iq)) (s1 : State) => ((n < 16) ∧ (s1.capState n = 3) ∧ ((s1.capGet n).closing = none) ∧ ((s1.capGet n).postLeft = 0)) ∧ (s1 = s.feed raw)) (wBase.setFld (F.DFE_CAPSTAT_STATE 2) 3) 2 ([] : List (List Iq)) ((wBase.setFld (F.DFE_CAPSTAT_STATE 2) 3).feed ([] : List (List Iq))) :=
  ⟨by decide +kernel, rfl⟩

theorem witness_CaptureCommandsComplete_e5 :
    (fun (s : State) (n time st : Nat) (s1 s2 : State) => ((n < 16) ∧ ((s.capGet n).closing = some st) ∧ (s1.capState n ≠ 0) ∧ (s2.fld (F.DFE_CAPFMT_HANDTO n) = 0)) ∧ (s1 = s.capFlush n) ∧ (s1.portWrite Init.DFE (s1.capBase n) (s1.capHeader n (if s1.flag (F.DFE_CAPSTAT_WRAPPED n) then time else (s1.capGet n).t0.getD time) (st + b2n (s1.flag (F.DFE_CAPSTAT_WRAPPED n)))) = (s2, true))) ((wCap.setFld (F.DFE_CAPSTAT_STATE 2) 2).capClose 2 0) 2 0 0 (((wCap.setFld (F.DFE_CAPSTAT_STATE 2) 2).capClose 2 0).capFlush 2) (((((wCap.setFld (F.DFE_CAPSTAT_STATE 2) 2).capClose 2 0).capFlush 2).portWrite Init.DFE ((((wCap.setFld (F.DFE_CAPSTAT_STATE 2) 2).capClose 2 0).capFlush 2).capBase 2) ((((wCap.setFld (F.DFE_CAPSTAT_STATE 2) 2).capClose 2 0).capFlush 2).capHeader 2 (if (((wCap.setFld (F.DFE_CAPSTAT_STATE 2) 2).capClose 2 0).capFlush 2).flag (F.DFE_CAPSTAT_WRAPPED 2) then 0 else ((((wCap.setFld (F.DFE_CAPSTAT_STATE 2) 2).capClose 2 0).capFlush 2).capGet 2).t0.getD 0) (0 + b2n ((((wCap.setFld (F.DFE_CAPSTAT_STATE 2) 2).capClose 2 0).capFlush 2).flag (F.DFE_CAPSTAT_WRAPPED 2))))).1) :=
  ⟨by decide +kernel, rfl, pairEq (by first | with_reducible rfl | decide +kernel)⟩

theorem witness_AcquisitionCommandsComplete :
    (((fun (s : State) (init addr : Nat) => decide ((s.admits init R.ACQ_JOBPUSH = true) ∧ (init = Init.MC) ∧ (addr % 64 = 0) ∧ (s.acq.queue.length < 32))) (wBase) Init.MC 0x20A00000) &&
    ((fun (s : State) (a : Nat) (rest : List Nat) => decide ((s.acq.queue = a :: rest) ∧ (s.live P.ACQ = true) ∧ (s.acqClock = true) ∧ (s.acqOwns a 64 = false))) ({ wBase with acq := { wBase.acq with queue := [0x20A00000] } }) 0x20A00000 [])) = true := by decide +kernel

theorem witness_AcquisitionCommandsComplete_e1 :
    (fun (s : State) (a : Nat) (rest : List Nat) (s1 s2 : State) (bytes : List Byte) (j : AcqJob) => ((s.acq.queue = a :: rest) ∧ (s.live P.ACQ = true) ∧ (s.acqClock = true) ∧ (s.acqOwns a 64 = true) ∧ (getBits (BitVec.ofNat 32 (leValue (bytes.take 4))) 4 4 = 1) ∧ (1 ≤ s.acqFree.length) ∧ (j.status = 0)) ∧ (s.portRead Init.ACQ a 64 = (s1, some bytes)) ∧ (s1.acqCheck ⟨a, (List.range 16).map (fun k => BitVec.ofNat 32 (leValue (((bytes).drop (4 * k)).take 4))), [], s.flag F.ACQ_CFG_SEED_EN, 0, false, (0, 0), [], 0, 0, 0, [], 0⟩ = (s2, j))) (wAcq) 0x20A00000 [] (((wAcq).portRead Init.ACQ 0x20A00000 64).1) (((((wAcq).portRead Init.ACQ 0x20A00000 64).1).acqCheck ⟨0x20A00000, (List.range 16).map (fun k => BitVec.ofNat 32 (leValue (((wAcqBytes).drop (4 * k)).take 4))), [], (wAcq).flag F.ACQ_CFG_SEED_EN, 0, false, (0, 0), [], 0, 0, 0, [], 0⟩).1) wAcqBytes wAcqTaken :=
  ⟨by decide +kernel, pairEq (by first | with_reducible rfl | decide +kernel), pairEq (by first | with_reducible rfl | decide +kernel)⟩

theorem witness_AcquisitionCommandsComplete_e2 :
    (fun (s : State) (k : Nat) (j : AcqJob) (s1 : State) (ps : List AcqPeak) => ((s.acqClock = true) ∧ (s.acq.jobs[k]? = some j) ∧ (j.done = false) ∧ (j.type = 0)) ∧ (s.acqSearch j = (s1, .ok ps))) ({ wBase with acq := { wBase.acq with jobs := [⟨64, [], [0], true, 0, false, (0, 0), [], 0, 0, 0, [], 0⟩] } }) 0 ⟨64, [], [0], true, 0, false, (0, 0), [], 0, 0, 0, [], 0⟩ ((({ wBase with acq := { wBase.acq with jobs := [⟨64, [], [0], true, 0, false, (0, 0), [], 0, 0, 0, [], 0⟩] } }).acqSearch (⟨64, [], [0], true, 0, false, (0, 0), [], 0, 0, 0, [], 0⟩ : AcqJob)).1) ([] : List AcqPeak) :=
  ⟨by decide +kernel, pairOk (by first | with_reducible rfl | decide +kernel)⟩

theorem witness_AcquisitionCommandsComplete_e3 :
    (fun (s : State) (k : Nat) (j : AcqJob) (s1 : State) (ps : List AcqPeak) => ((s.acqClock = true) ∧ (s.acq.jobs[k]? = some j) ∧ (j.done = false) ∧ (j.type = 1)) ∧ (s.acqBuild j = (s1, .ok ps))) ({ wBase with acq := { wBase.acq with jobs := [⟨64, [0x11], [0], true, 0, false, (0, 0), [], 0, 0, 0, [], 0⟩] } }) 0 ⟨64, [0x11], [0], true, 0, false, (0, 0), [], 0, 0, 0, [], 0⟩ ((({ wBase with acq := { wBase.acq with jobs := [⟨64, [0x11], [0], true, 0, false, (0, 0), [], 0, 0, 0, [], 0⟩] } }).acqBuild (⟨64, [0x11], [0], true, 0, false, (0, 0), [], 0, 0, 0, [], 0⟩ : AcqJob)).1) ([] : List AcqPeak) :=
  ⟨by decide +kernel, pairOk (by first | with_reducible rfl | decide +kernel)⟩

theorem witness_AcquisitionCommandsComplete_e4 :
    (fun (s : State) (k e : Nat) (j : AcqJob) (s1 : State) => ((s.acqClock = true) ∧ (s.acq.jobs[k]? = some j) ∧ (j.done = false) ∧ (j.type = 0) ∧ (j.cells = 0)) ∧ (s.acqSearch j = (s1, .error e))) ({ wBase with acq := { wBase.acq with jobs := [⟨64, [0, 0, 0, 0, 1], [0], true, 0, false, (0, 0), [], 0, 0, 0, [], 0⟩] } }) 0 1 ⟨64, [0, 0, 0, 0, 1], [0], true, 0, false, (0, 0), [], 0, 0, 0, [], 0⟩ ((({ wBase with acq := { wBase.acq with jobs := [⟨64, [0, 0, 0, 0, 1], [0], true, 0, false, (0, 0), [], 0, 0, 0, [], 0⟩] } }).acqSearch (⟨64, [0, 0, 0, 0, 1], [0], true, 0, false, (0, 0), [], 0, 0, 0, [], 0⟩ : AcqJob)).1) :=
  ⟨by decide +kernel, pairError (by first | with_reducible rfl | decide +kernel)⟩

theorem witness_AcquisitionCommandsComplete_e5 :
    (fun (s : State) (j0 j1 j : AcqJob) (rest : List AcqJob) (s1 s2 s3 : State) => ((s.acqClock = true) ∧ (s.acq.jobs = j0 :: rest) ∧ (j0.done = true) ∧ (rest ≠ []) ∧ (j.status = 0)) ∧ (s.acqWriteHeader j0 = (s1, j1)) ∧ (s1.acqWriteStatus j1 = (s2, j)) ∧ (s3 = (s2.acqHandovers j).acqPut { (s2.acqHandovers j).acq with jobs := rest, seeds := (s2.acqHandovers j).acq.seeds ++ (if acqSeeds j then (acqDetections j).map fun (e : Nat × AcqPeak) => (⟨(j.vcbase + e.1) % 4096, e.2.code, e.2.doppler, e.2.ratioPk, j.t0⟩ : Seed) else []) })) ({ wAcq with acq := { wAcq.acq with jobs := [⟨0x20A00000, [0x11], [], true, 0, true, (0, 0), [], 0, 0, 0, [], 0⟩, ⟨0x20A00000, [0x11], [], true, 0, true, (0, 0), [], 0, 0, 0, [], 0⟩] } }) ⟨0x20A00000, [0x11], [], true, 0, true, (0, 0), [], 0, 0, 0, [], 0⟩ ⟨0x20A00000, [0x11], [], true, 0, true, (0, 0), [], 0, 0, 0, [], 0⟩ ⟨0x20A00000, [0x11], [], true, 0, true, (0, 0), [], 0, 0, 0, [], 0⟩ [⟨0x20A00000, [0x11], [], true, 0, true, (0, 0), [], 0, 0, 0, [], 0⟩] ((({ wAcq with acq := { wAcq.acq with jobs := [⟨0x20A00000, [0x11], [], true, 0, true, (0, 0), [], 0, 0, 0, [], 0⟩, ⟨0x20A00000, [0x11], [], true, 0, true, (0, 0), [], 0, 0, 0, [], 0⟩] } }).acqWriteHeader (⟨0x20A00000, [0x11], [], true, 0, true, (0, 0), [], 0, 0, 0, [], 0⟩ : AcqJob)).1) ((((({ wAcq with acq := { wAcq.acq with jobs := [⟨0x20A00000, [0x11], [], true, 0, true, (0, 0), [], 0, 0, 0, [], 0⟩, ⟨0x20A00000, [0x11], [], true, 0, true, (0, 0), [], 0, 0, 0, [], 0⟩] } }).acqWriteHeader (⟨0x20A00000, [0x11], [], true, 0, true, (0, 0), [], 0, 0, 0, [], 0⟩ : AcqJob)).1).acqWriteStatus (⟨0x20A00000, [0x11], [], true, 0, true, (0, 0), [], 0, 0, 0, [], 0⟩ : AcqJob)).1) ((((((({ wAcq with acq := { wAcq.acq with jobs := [⟨0x20A00000, [0x11], [], true, 0, true, (0, 0), [], 0, 0, 0, [], 0⟩, ⟨0x20A00000, [0x11], [], true, 0, true, (0, 0), [], 0, 0, 0, [], 0⟩] } }).acqWriteHeader (⟨0x20A00000, [0x11], [], true, 0, true, (0, 0), [], 0, 0, 0, [], 0⟩ : AcqJob)).1).acqWriteStatus (⟨0x20A00000, [0x11], [], true, 0, true, (0, 0), [], 0, 0, 0, [], 0⟩ : AcqJob)).1).acqHandovers (⟨0x20A00000, [0x11], [], true, 0, true, (0, 0), [], 0, 0, 0, [], 0⟩ : AcqJob)).acqPut { (((((({ wAcq with acq := { wAcq.acq with jobs := [⟨0x20A00000, [0x11], [], true, 0, true, (0, 0), [], 0, 0, 0, [], 0⟩, ⟨0x20A00000, [0x11], [], true, 0, true, (0, 0), [], 0, 0, 0, [], 0⟩] } }).acqWriteHeader (⟨0x20A00000, [0x11], [], true, 0, true, (0, 0), [], 0, 0, 0, [], 0⟩ : AcqJob)).1).acqWriteStatus (⟨0x20A00000, [0x11], [], true, 0, true, (0, 0), [], 0, 0, 0, [], 0⟩ : AcqJob)).1).acqHandovers (⟨0x20A00000, [0x11], [], true, 0, true, (0, 0), [], 0, 0, 0, [], 0⟩ : AcqJob)).acq with jobs := [⟨0x20A00000, [0x11], [], true, 0, true, (0, 0), [], 0, 0, 0, [], 0⟩], seeds := (((((({ wAcq with acq := { wAcq.acq with jobs := [⟨0x20A00000, [0x11], [], true, 0, true, (0, 0), [], 0, 0, 0, [], 0⟩, ⟨0x20A00000, [0x11], [], true, 0, true, (0, 0), [], 0, 0, 0, [], 0⟩] } }).acqWriteHeader (⟨0x20A00000, [0x11], [], true, 0, true, (0, 0), [], 0, 0, 0, [], 0⟩ : AcqJob)).1).acqWriteStatus (⟨0x20A00000, [0x11], [], true, 0, true, (0, 0), [], 0, 0, 0, [], 0⟩ : AcqJob)).1).acqHandovers (⟨0x20A00000, [0x11], [], true, 0, true, (0, 0), [], 0, 0, 0, [], 0⟩ : AcqJob)).acq.seeds ++ (if acqSeeds (⟨0x20A00000, [0x11], [], true, 0, true, (0, 0), [], 0, 0, 0, [], 0⟩ : AcqJob) then (acqDetections (⟨0x20A00000, [0x11], [], true, 0, true, (0, 0), [], 0, 0, 0, [], 0⟩ : AcqJob)).map fun (e : Nat × AcqPeak) => (⟨((⟨0x20A00000, [0x11], [], true, 0, true, (0, 0), [], 0, 0, 0, [], 0⟩ : AcqJob).vcbase + e.1) % 4096, e.2.code, e.2.doppler, e.2.ratioPk, (⟨0x20A00000, [0x11], [], true, 0, true, (0, 0), [], 0, 0, 0, [], 0⟩ : AcqJob).t0⟩ : Seed) else []) }) :=
  ⟨by decide +kernel, pairEq (by first | with_reducible rfl | decide +kernel), pairEq (by first | with_reducible rfl | decide +kernel), rfl⟩

theorem witness_AcquisitionCommandsComplete_e6 :
    (fun (s : State) (j0 j1 j : AcqJob) (rest : List AcqJob) (s1 s2 s3 : State) => ((s.acqClock = true) ∧ (s.acq.jobs = j0 :: rest) ∧ (j0.done = true) ∧ (rest ≠ []) ∧ (j.status ≠ 0)) ∧ (s.acqWriteHeader j0 = (s1, j1)) ∧ (s1.acqWriteStatus j1 = (s2, j)) ∧ (s3 = (s2.acqHandovers j).acqPut { (s2.acqHandovers j).acq with jobs := rest, seeds := (s2.acqHandovers j).acq.seeds ++ (if acqSeeds j then (acqDetections j).map fun (e : Nat × AcqPeak) => (⟨(j.vcbase + e.1) % 4096, e.2.code, e.2.doppler, e.2.ratioPk, j.t0⟩ : Seed) else []) })) ({ wBase with acq := { wBase.acq with jobs := [⟨64, [0x11], [], true, 2, true, (0, 0), [], 0, 0, 0, [], 0⟩, ⟨64, [0x11], [], true, 2, true, (0, 0), [], 0, 0, 0, [], 0⟩] } }) ⟨64, [0x11], [], true, 2, true, (0, 0), [], 0, 0, 0, [], 0⟩ ⟨64, [0x11], [], true, 2, true, (0, 0), [], 0, 0, 0, [], 0⟩ ⟨64, [0x11], [], true, 2, true, (0, 0), [], 0, 0, 0, [], 0⟩ [⟨64, [0x11], [], true, 2, true, (0, 0), [], 0, 0, 0, [], 0⟩] ((({ wBase with acq := { wBase.acq with jobs := [⟨64, [0x11], [], true, 2, true, (0, 0), [], 0, 0, 0, [], 0⟩, ⟨64, [0x11], [], true, 2, true, (0, 0), [], 0, 0, 0, [], 0⟩] } }).acqWriteHeader (⟨64, [0x11], [], true, 2, true, (0, 0), [], 0, 0, 0, [], 0⟩ : AcqJob)).1) ((((({ wBase with acq := { wBase.acq with jobs := [⟨64, [0x11], [], true, 2, true, (0, 0), [], 0, 0, 0, [], 0⟩, ⟨64, [0x11], [], true, 2, true, (0, 0), [], 0, 0, 0, [], 0⟩] } }).acqWriteHeader (⟨64, [0x11], [], true, 2, true, (0, 0), [], 0, 0, 0, [], 0⟩ : AcqJob)).1).acqWriteStatus (⟨64, [0x11], [], true, 2, true, (0, 0), [], 0, 0, 0, [], 0⟩ : AcqJob)).1) ((((((({ wBase with acq := { wBase.acq with jobs := [⟨64, [0x11], [], true, 2, true, (0, 0), [], 0, 0, 0, [], 0⟩, ⟨64, [0x11], [], true, 2, true, (0, 0), [], 0, 0, 0, [], 0⟩] } }).acqWriteHeader (⟨64, [0x11], [], true, 2, true, (0, 0), [], 0, 0, 0, [], 0⟩ : AcqJob)).1).acqWriteStatus (⟨64, [0x11], [], true, 2, true, (0, 0), [], 0, 0, 0, [], 0⟩ : AcqJob)).1).acqHandovers (⟨64, [0x11], [], true, 2, true, (0, 0), [], 0, 0, 0, [], 0⟩ : AcqJob)).acqPut { (((((({ wBase with acq := { wBase.acq with jobs := [⟨64, [0x11], [], true, 2, true, (0, 0), [], 0, 0, 0, [], 0⟩, ⟨64, [0x11], [], true, 2, true, (0, 0), [], 0, 0, 0, [], 0⟩] } }).acqWriteHeader (⟨64, [0x11], [], true, 2, true, (0, 0), [], 0, 0, 0, [], 0⟩ : AcqJob)).1).acqWriteStatus (⟨64, [0x11], [], true, 2, true, (0, 0), [], 0, 0, 0, [], 0⟩ : AcqJob)).1).acqHandovers (⟨64, [0x11], [], true, 2, true, (0, 0), [], 0, 0, 0, [], 0⟩ : AcqJob)).acq with jobs := [⟨64, [0x11], [], true, 2, true, (0, 0), [], 0, 0, 0, [], 0⟩], seeds := (((((({ wBase with acq := { wBase.acq with jobs := [⟨64, [0x11], [], true, 2, true, (0, 0), [], 0, 0, 0, [], 0⟩, ⟨64, [0x11], [], true, 2, true, (0, 0), [], 0, 0, 0, [], 0⟩] } }).acqWriteHeader (⟨64, [0x11], [], true, 2, true, (0, 0), [], 0, 0, 0, [], 0⟩ : AcqJob)).1).acqWriteStatus (⟨64, [0x11], [], true, 2, true, (0, 0), [], 0, 0, 0, [], 0⟩ : AcqJob)).1).acqHandovers (⟨64, [0x11], [], true, 2, true, (0, 0), [], 0, 0, 0, [], 0⟩ : AcqJob)).acq.seeds ++ (if acqSeeds (⟨64, [0x11], [], true, 2, true, (0, 0), [], 0, 0, 0, [], 0⟩ : AcqJob) then (acqDetections (⟨64, [0x11], [], true, 2, true, (0, 0), [], 0, 0, 0, [], 0⟩ : AcqJob)).map fun (e : Nat × AcqPeak) => (⟨((⟨64, [0x11], [], true, 2, true, (0, 0), [], 0, 0, 0, [], 0⟩ : AcqJob).vcbase + e.1) % 4096, e.2.code, e.2.doppler, e.2.ratioPk, (⟨64, [0x11], [], true, 2, true, (0, 0), [], 0, 0, 0, [], 0⟩ : AcqJob).t0⟩ : Seed) else []) }) :=
  ⟨by decide +kernel, pairEq (by first | with_reducible rfl | decide +kernel), pairEq (by first | with_reducible rfl | decide +kernel), rfl⟩

theorem witness_ChannelCommandsComplete :
    (((fun (s : State) (init v w : Nat) => decide ((v < 4096) ∧ (s.admits init R.CHS_VCCMD = true) ∧ (s.flag F.CHS_VCSTAT2_BUSY = false) ∧ (w ≤ 4) ∧ (((s.respond .served).vcWant v w).2 = true))) (wChs) Init.MC 5 2) &&
    ((fun (s : State) (init v cls prio : Nat) => decide ((v < 4096) ∧ (s.admits init R.CHS_VCCMD = true) ∧ (s.flag F.CHS_VCSTAT2_BUSY = false) ∧ ((cmdSetRank v cls prio (s.respond .served)).2 = 0))) (wChs) Init.MC 5 1 9) &&
    ((fun (s : State) (init v : Nat) => decide ((v < 4096) ∧ (s.admits init R.CHS_VCCMD = true) ∧ (s.flag F.CHS_VCSTAT2_BUSY = false) ∧ ((s.vcGet v).st ≠ 4) ∧ (((s.respond .served).ctxWrite v 0 (wordBytes (s.stage 0 32))).2 = true))) (wChs) Init.MC 5) &&
    ((fun (s : State) (init v : Nat) => decide ((v < 4096) ∧ (s.admits init R.CHS_VCCMD = true) ∧ (s.flag F.CHS_VCSTAT2_BUSY = false) ∧ ((cmdPutCb v (s.respond .served)).2 = 0))) (wChs) Init.MC 5) &&
    ((fun (s : State) (init v : Nat) => decide ((v < 4096) ∧ (s.admits init R.CHS_VCCMD = true) ∧ (s.flag F.CHS_VCSTAT2_BUSY = false) ∧ ((cmdGet v (s.respond .served)).2 = 0))) (wChs) Init.MC 5) &&
    ((fun (s : State)  => decide ((s.flag F.CHS_VCSTAT2_BUSY = true))) (wChs.setFlag F.CHS_VCSTAT2_BUSY true) )) = true := by decide +kernel

theorem witness_PlacementCommandsComplete :
    (((fun (s : State) (v : Nat) => decide ((s.chsRuns = true) ∧ (s.flag F.CHS_CTL_PLACE_EN = true) ∧ (s.vcsWith (fun x => x.pend) = []) ∧ (s.chs.replan = none) ∧ (s.vcsWith (fun x => decide (x.st = 3)) = [v]))) ((wChs.setFlag F.CHS_CTL_PLACE_EN true).vcSet 5 { wChs.vcGet 5 with st := 3 }) 5) &&
    ((fun (s : State) (v k : Nat) => decide ((v < 4096) ∧ ((s.vcGet v).loc = some k) ∧ ((s.vcGet v).st = 4) ∧ ((s.vcGet v).phys = none) ∧ (s.placeEmpty k (s.vcGet v).len = true) ∧ (s.pageOk (s.vcGet v).len = true))) (wChs.vcSet 5 { ChsVc.reset with st := 4, loc := some 8 }) 5 8) &&
    ((fun (s : State) (v : Nat) => decide ((v < 4096) ∧ ((s.vcGet v).held = true) ∧ ((s.vcGet v).out.isSome = true) ∧ (s.pageOk (s.vcGet v).len = true) ∧ (((s.pageBegin (s.vcGet v).len).writeBack v).2 = true))) (wChsHeld) 5) &&
    ((fun (s : State) (v k : Nat) => decide ((v < 4096) ∧ ((s.vcGet v).held = true) ∧ ((s.vcGet v).out = none) ∧ ((s.vcGet v).loc = some k) ∧ (s.pageOk (s.vcGet v).len = true) ∧ (((s.pageBegin (s.vcGet v).len).writeBack v).2 = true))) (wChsHeld.vcSet 5 { wChsHeld.vcGet 5 with out := none }) 5 8) &&
    ((fun (s : State)  => decide ((s.chs.busy = true) ∧ ((({ s with chs := { s.chs with busy := false } } : State).oppClearCheck).enabled P.CHS = true))) ({ wChs with chs := { wChs.chs with busy := true } }) ) &&
    ((fun (s : State) (x : Seed) (rest : List Seed) => decide ((s.acq.seeds = x :: rest) ∧ ((s.vcGet x.vc).st ≠ 2))) ({ wChs with acq := { wChs.acq with seeds := [⟨5, 0, 0, 0, 0⟩] } }) ⟨5, 0, 0, 0, 0⟩ []) &&
    ((fun (s : State) (v : Nat) (b : List Byte) => decide ((v < 4096) ∧ ((s.vcGet v).st = 5) ∧ ((s.ctxRead v 0x88 4).2 = some b) ∧ (max 1 (leValue b / 256 % 256) * 25000000 ≤ (s.tbu.samp + 2 ^ 48 - (s.vcGet v).inAt) % 2 ^ 48))) ({ wChs.vcSet 5 { ChsVc.reset with st := 5 } with tbu := { wChs.tbu with samp := 30000000 } }) 5 [0, 0, 0, 0])) = true := by decide +kernel

theorem witness_PlacementCommandsComplete_e1 :
    (fun (s : State) (k : Nat) (raw : List (List Iq)) (x : Slot) (s1 : State) (img : List Word) (members : List Nat) (upd : Bool) => ((k < 2048) ∧ (s1.slotGet k = some x) ∧ (s1.live P.COR = true) ∧ (s1.domRuns 3 = true) ∧ (x.held = false) ∧ (Img.chainPos x.img = 0) ∧ (s1.slotDue x = true) ∧ (img = Img.advance x.img x.taken (s1.streamDiv (Img.stream x.img))) ∧ (Img.dumpCnt img ≠ 0) ∧ (upd = (x.pendCarr.isSome || x.pendCode.isSome)) ∧ ((s1.chainSlots k x).1 = members) ∧ ((s1.chainSlots k x).2 = true)) ∧ (s1 = s.feed raw)) (wCodeDue) 8 ([] : List (List Iq)) wSlot ((wCodeDue).feed ([] : List (List Iq))) (Img.advance wSlot.img wSlot.taken (wCodeDue.streamDiv (Img.stream wSlot.img))) [8] false :=
  ⟨by decide +kernel, rfl⟩

theorem witness_PlacementCommandsComplete_e2 :
    (fun (s : State) (c : LatchCap) (s1 : State) => ((s.latchWrite.2 = some c) ∧ (s1.inReset P.CHS = false) ∧ (s1.domRuns 3 = true)) ∧ (s1 = s.latchWrite.1)) ({ ((wChs.setFld (F.MEM_OWNER_OWNER 70) 0x10).setFld F.COR_LATBASE_BANK 70) with cor := { wChs.cor with latches := [⟨3, 9, []⟩] } }) ⟨3, 9, []⟩ (({ ((wChs.setFld (F.MEM_OWNER_OWNER 70) 0x10).setFld F.COR_LATBASE_BANK 70) with cor := { wChs.cor with latches := [⟨3, 9, []⟩] } }).latchWrite.1) :=
  ⟨by decide +kernel, rfl⟩

theorem witness_PlacementCommandsComplete_e3 :
    (fun (s : State) (x : Seed) (rest : List Seed) (b : List Byte) (s0 s1 s2 s3 s4 : State) => ((s.acq.seeds = x :: rest) ∧ (s0.flag F.CHS_CTL_SEED_EN = true) ∧ ((s0.vcGet x.vc).st = 2) ∧ (s0.live P.CHS = true) ∧ (getBits ((toWords b).getD 35 0) 0 16 ≤ x.ratio) ∧ (s1.flag (F.XBAR_SRC_EN (Img.stream ((toWords b).take 32))) = true) ∧ (s1.nowFrac ≤ x.t0 + 2500000000 * 65536)) ∧ (s0 = s.acqPut { s.acq with seeds := rest }) ∧ (s0.ctxRead x.vc 0 144 = (s1, some b)) ∧ (s1.ctxWrite x.vc 0 (wordBytes (s1.seedImage ((toWords b).take 32) ((toWords b).getD 33 0).toNat x (s1.sampAt x.t0))) = (s2, true)) ∧ (s3 = (s2.ctxPutBits x.vc 0x80 (maskBits 0 3) 2).1) ∧ (s4 = s3.vcSet x.vc { s3.vcGet x.vc with want := 2, inForce := 2, pend := false })) (wSeed) ⟨5, 0, 0, 0, 0⟩ [] (((wSeed.acqPut { wSeed.acq with seeds := [] }).ctxRead 5 0 144).2.getD []) ((wSeed).acqPut { (wSeed).acq with seeds := [] }) ((((wSeed).acqPut { (wSeed).acq with seeds := [] }).ctxRead (⟨5, 0, 0, 0, 0⟩ : Seed).vc 0 144).1) ((((((wSeed).acqPut { (wSeed).acq with seeds := [] }).ctxRead (⟨5, 0, 0, 0, 0⟩ : Seed).vc 0 144).1).ctxWrite (⟨5, 0, 0, 0, 0⟩ : Seed).vc 0 (wordBytes (((((wSeed).acqPut { (wSeed).acq with seeds := [] }).ctxRead (⟨5, 0, 0, 0, 0⟩ : Seed).vc 0 144).1).seedImage ((toWords (((wSeed.acqPut { wSeed.acq with seeds := [] }).ctxRead 5 0 144).2.getD [])).take 32) ((toWords (((wSeed.acqPut { wSeed.acq with seeds := [] }).ctxRead 5 0 144).2.getD [])).getD 33 0).toNat (⟨5, 0, 0, 0, 0⟩ : Seed) (((((wSeed).acqPut { (wSeed).acq with seeds := [] }).ctxRead (⟨5, 0, 0, 0, 0⟩ : Seed).vc 0 144).1).sampAt (⟨5, 0, 0, 0, 0⟩ : Seed).t0)))).1) ((((((((wSeed).acqPut { (wSeed).acq with seeds := [] }).ctxRead (⟨5, 0, 0, 0, 0⟩ : Seed).vc 0 144).1).ctxWrite (⟨5, 0, 0, 0, 0⟩ : Seed).vc 0 (wordBytes (((((wSeed).acqPut { (wSeed).acq with seeds := [] }).ctxRead (⟨5, 0, 0, 0, 0⟩ : Seed).vc 0 144).1).seedImage ((toWords (((wSeed.acqPut { wSeed.acq with seeds := [] }).ctxRead 5 0 144).2.getD [])).take 32) ((toWords (((wSeed.acqPut { wSeed.acq with seeds := [] }).ctxRead 5 0 144).2.getD [])).getD 33 0).toNat (⟨5, 0, 0, 0, 0⟩ : Seed) (((((wSeed).acqPut { (wSeed).acq with seeds := [] }).ctxRead (⟨5, 0, 0, 0, 0⟩ : Seed).vc 0 144).1).sampAt (⟨5, 0, 0, 0, 0⟩ : Seed).t0)))).1).ctxPutBits (⟨5, 0, 0, 0, 0⟩ : Seed).vc 0x80 (maskBits 0 3) 2).1) (((((((((wSeed).acqPut { (wSeed).acq with seeds := [] }).ctxRead (⟨5, 0, 0, 0, 0⟩ : Seed).vc 0 144).1).ctxWrite (⟨5, 0, 0, 0, 0⟩ : Seed).vc 0 (wordBytes (((((wSeed).acqPut { (wSeed).acq with seeds := [] }).ctxRead (⟨5, 0, 0, 0, 0⟩ : Seed).vc 0 144).1).seedImage ((toWords (((wSeed.acqPut { wSeed.acq with seeds := [] }).ctxRead 5 0 144).2.getD [])).take 32) ((toWords (((wSeed.acqPut { wSeed.acq with seeds := [] }).ctxRead 5 0 144).2.getD [])).getD 33 0).toNat (⟨5, 0, 0, 0, 0⟩ : Seed) (((((wSeed).acqPut { (wSeed).acq with seeds := [] }).ctxRead (⟨5, 0, 0, 0, 0⟩ : Seed).vc 0 144).1).sampAt (⟨5, 0, 0, 0, 0⟩ : Seed).t0)))).1).ctxPutBits (⟨5, 0, 0, 0, 0⟩ : Seed).vc 0x80 (maskBits 0 3) 2).1).vcSet (⟨5, 0, 0, 0, 0⟩ : Seed).vc { ((((((((wSeed).acqPut { (wSeed).acq with seeds := [] }).ctxRead (⟨5, 0, 0, 0, 0⟩ : Seed).vc 0 144).1).ctxWrite (⟨5, 0, 0, 0, 0⟩ : Seed).vc 0 (wordBytes (((((wSeed).acqPut { (wSeed).acq with seeds := [] }).ctxRead (⟨5, 0, 0, 0, 0⟩ : Seed).vc 0 144).1).seedImage ((toWords (((wSeed.acqPut { wSeed.acq with seeds := [] }).ctxRead 5 0 144).2.getD [])).take 32) ((toWords (((wSeed.acqPut { wSeed.acq with seeds := [] }).ctxRead 5 0 144).2.getD [])).getD 33 0).toNat (⟨5, 0, 0, 0, 0⟩ : Seed) (((((wSeed).acqPut { (wSeed).acq with seeds := [] }).ctxRead (⟨5, 0, 0, 0, 0⟩ : Seed).vc 0 144).1).sampAt (⟨5, 0, 0, 0, 0⟩ : Seed).t0)))).1).ctxPutBits (⟨5, 0, 0, 0, 0⟩ : Seed).vc 0x80 (maskBits 0 3) 2).1).vcGet (⟨5, 0, 0, 0, 0⟩ : Seed).vc with want := 2, inForce := 2, pend := false }) :=
  ⟨by decide +kernel, rfl, pairSome (by first | with_reducible rfl | decide +kernel), pairEq (by first | with_reducible rfl | decide +kernel), rfl, rfl⟩

theorem witness_TaskCommandsComplete :
    (((fun (s : State) (r : OutRec) (rest : List OutRec) => decide ((s.cor.out = r :: rest) ∧ (s.chs.queue = []))) ({ wChs with cor := { wChs.cor with out := [⟨8, 5, 1, 77, []⟩] } }) ⟨8, 5, 1, 77, []⟩ []) &&
    ((fun (s : State) (v : Nat) (t : ChsTask) => decide ((s.chs.queue = [t]) ∧ (t.meas = false) ∧ (t.vc = v) ∧ (t.formed = false) ∧ (s.cor.out = []) ∧ (s.vcInFlight v = false))) ({ wChs with chs := { wChs.chs with queue := [⟨false, 5, 0, 7, 0, [], [], 0, false⟩] } }) 5 ⟨false, 5, 0, 7, 0, [], [], 0, false⟩) &&
    ((fun (s : State) (t : ChsTask) (i : Nat) => decide ((s.chsRuns = true) ∧ (s.chs.queue = [t]) ∧ (t.formed = true) ∧ (t.meas = true) ∧ (s.freeBuf = some i))) ({ wChs with chs := { wChs.chs with queue := [⟨true, 5, 0, 7, 0, [], [], 0, true⟩] } }) ⟨true, 5, 0, 7, 0, [], [], 0, true⟩ 0) &&
    ((fun (s : State) (i : Nat) (rest : List Nat) (b : ChsBuf) => decide ((s.chs.transit = i :: rest) ∧ (s.bufGet i = some b) ∧ (b.task.meas = true) ∧ (b.task.vcs = []))) ({ (wChs.bufSet 0 (some ⟨⟨true, 5, 0, 7, 0, [], [], 0, true⟩, 1, false⟩)) with chs := { (wChs.bufSet 0 (some ⟨⟨true, 5, 0, 7, 0, [], [], 0, true⟩, 1, false⟩)).chs with transit := [0] } }) 0 [] ⟨⟨true, 5, 0, 7, 0, [], [], 0, true⟩, 1, false⟩) &&
    ((fun (s : State) (init c ctl : Nat) (b : ChsBuf) => decide ((c < 8) ∧ (init = c + 1) ∧ (s.admits init (R.CHS_CMPL_CTL c) = true) ∧ (s.bufGet (2 * c + ctl % 2) = some b) ∧ (b.delivered = true) ∧ (b.task.meas = true))) (wChs.bufSet 0 (some ⟨⟨true, 5, 0, 7, 0, [], [], 0, true⟩, 1, true⟩)) 1 0 0 ⟨⟨true, 5, 0, 7, 0, [], [], 0, true⟩, 1, true⟩)) = true := by decide +kernel

theorem witness_TaskCommandsComplete_e1 :
    (fun (s : State) (init c ctl : Nat) (b : ChsBuf) (s1 s2 : State) => ((c < 8) ∧ (init = c + 1) ∧ (s.admits init (R.CHS_CMPL_CTL c) = true) ∧ (s.bufGet (2 * c + ctl % 2) = some b) ∧ (b.delivered = true) ∧ (b.task.meas = false)) ∧ (s1 = (if bit ctl 3 then ((s.respond .served).ctxWrite b.task.vc 0x90 (s.xmemBytes c ((0xF000 + 0x800 * (ctl % 2)) + 0x30) 368)).1 else (s.respond .served))) ∧ (s2 = s1.vcRates b.task.vc (if bit ctl 1 then some (s.reg (R.CHS_CMPL_CARR c)).toNat else none) (if bit ctl 2 then some (s.reg (R.CHS_CMPL_CODE c)).toNat else none))) (wChsTask) 1 0 0 wTaskBuf ((if bit 0 3 then (((wChsTask).respond .served).ctxWrite wTaskBuf.task.vc 0x90 ((wChsTask).xmemBytes 0 ((0xF000 + 0x800 * (0 % 2)) + 0x30) 368)).1 else ((wChsTask).respond .served))) (((if bit 0 3 then (((wChsTask).respond .served).ctxWrite wTaskBuf.task.vc 0x90 ((wChsTask).xmemBytes 0 ((0xF000 + 0x800 * (0 % 2)) + 0x30) 368)).1 else ((wChsTask).respond .served))).vcRates wTaskBuf.task.vc (if bit 0 1 then some ((wChsTask).reg (R.CHS_CMPL_CARR 0)).toNat else none) (if bit 0 2 then some ((wChsTask).reg (R.CHS_CMPL_CODE 0)).toNat else none)) :=
  ⟨by decide +kernel, rfl, rfl⟩

theorem witness_TaskCommandsComplete_e2 :
    (fun (s : State) (init c ctl : Nat) (same : Bool) (b : ChsBuf) (s1 s2 : State) => ((c < 8) ∧ (init = c + 1) ∧ (s.admits init (R.CHS_CMPL_CTL c) = true) ∧ (s.bufGet (2 * c + ctl % 2) = some b) ∧ (b.delivered = true) ∧ (b.task.meas = false)) ∧ (s1 = ((s.respond .served).ctxWrite b.task.vc 0x90 (s.xmemBytes c ((0xF000 + 0x800 * (ctl % 2)) + 0x30) 368)).1) ∧ (s2 = (s1.vcRates b.task.vc (if bit ctl 1 then some (s.reg (R.CHS_CMPL_CARR c)).toNat else none) (if bit ctl 2 then some (s.reg (R.CHS_CMPL_CODE c)).toNat else none)).vcAction b.task.vc (if same then 0 else ctl / 16 % 8) (toWords (s.xmemBytes c ((0xF000 + 0x800 * (ctl % 2)) + 0x1A0) 32)))) (wChsTask) 1 0 0 false wTaskBuf ((((wChsTask).respond .served).ctxWrite wTaskBuf.task.vc 0x90 ((wChsTask).xmemBytes 0 ((0xF000 + 0x800 * (0 % 2)) + 0x30) 368)).1) ((((((wChsTask).respond .served).ctxWrite wTaskBuf.task.vc 0x90 ((wChsTask).xmemBytes 0 ((0xF000 + 0x800 * (0 % 2)) + 0x30) 368)).1).vcRates wTaskBuf.task.vc (if bit 0 1 then some ((wChsTask).reg (R.CHS_CMPL_CARR 0)).toNat else none) (if bit 0 2 then some ((wChsTask).reg (R.CHS_CMPL_CODE 0)).toNat else none)).vcAction wTaskBuf.task.vc (if false then 0 else 0 / 16 % 8) (toWords ((wChsTask).xmemBytes 0 ((0xF000 + 0x800 * (0 % 2)) + 0x1A0) 32))) :=
  ⟨by decide +kernel, rfl, rfl⟩

theorem witness_TaskCommandsComplete_e3 :
    (fun (s : State) (init c ctl : Nat) (carr code same : Bool) (b : ChsBuf) (s1 s2 : State) => ((c < 8) ∧ (init = c + 1) ∧ (s.admits init (R.CHS_CMPL_CTL c) = true) ∧ (s.bufGet (2 * c + ctl % 2) = some b) ∧ (b.delivered = true) ∧ (b.task.meas = false)) ∧ (s1 = (if bit ctl 3 then ((s.respond .served).ctxWrite b.task.vc 0x90 (s.xmemBytes c ((0xF000 + 0x800 * (ctl % 2)) + 0x30) 368)).1 else (s.respond .served))) ∧ (s2 = (s1.vcRates b.task.vc (if carr || !code then some (s.reg (R.CHS_CMPL_CARR c)).toNat else none) (if code then some (s.reg (R.CHS_CMPL_CODE c)).toNat else none)).vcAction b.task.vc (if same then 0 else ctl / 16 % 8) (toWords (s.xmemBytes c ((0xF000 + 0x800 * (ctl % 2)) + 0x1A0) 32)))) (wChsTask) 1 0 0 true false false wTaskBuf ((if bit 0 3 then (((wChsTask).respond .served).ctxWrite wTaskBuf.task.vc 0x90 ((wChsTask).xmemBytes 0 ((0xF000 + 0x800 * (0 % 2)) + 0x30) 368)).1 else ((wChsTask).respond .served))) ((((if bit 0 3 then (((wChsTask).respond .served).ctxWrite wTaskBuf.task.vc 0x90 ((wChsTask).xmemBytes 0 ((0xF000 + 0x800 * (0 % 2)) + 0x30) 368)).1 else ((wChsTask).respond .served))).vcRates wTaskBuf.task.vc (if true || !false then some ((wChsTask).reg (R.CHS_CMPL_CARR 0)).toNat else none) (if false then some ((wChsTask).reg (R.CHS_CMPL_CODE 0)).toNat else none)).vcAction wTaskBuf.task.vc (if false then 0 else 0 / 16 % 8) (toWords ((wChsTask).xmemBytes 0 ((0xF000 + 0x800 * (0 % 2)) + 0x1A0) 32))) :=
  ⟨by decide +kernel, rfl, rfl⟩

theorem witness_TaskCommandsComplete_e4 :
    (fun (s : State) (init c ctl : Nat) (same : Bool) (b : ChsBuf) (s1 s2 : State) => ((c < 8) ∧ (init = c + 1) ∧ (s.admits init (R.CHS_CMPL_CTL c) = true) ∧ (s.bufGet (2 * c + ctl % 2) = some b) ∧ (b.delivered = true) ∧ (b.task.meas = false) ∧ (same = false)) ∧ (s1 = (if bit ctl 3 then ((s.respond .served).ctxWrite b.task.vc 0x90 (s.xmemBytes c ((0xF000 + 0x800 * (ctl % 2)) + 0x30) 368)).1 else (s.respond .served))) ∧ (s2 = ((s1.vcRates b.task.vc (if bit ctl 1 then some (s.reg (R.CHS_CMPL_CARR c)).toNat else none) (if bit ctl 2 then some (s.reg (R.CHS_CMPL_CODE c)).toNat else none)).vcWant b.task.vc 1).1)) (wChsTask) 1 0 0 false wTaskBuf ((if bit 0 3 then (((wChsTask).respond .served).ctxWrite wTaskBuf.task.vc 0x90 ((wChsTask).xmemBytes 0 ((0xF000 + 0x800 * (0 % 2)) + 0x30) 368)).1 else ((wChsTask).respond .served))) (((((if bit 0 3 then (((wChsTask).respond .served).ctxWrite wTaskBuf.task.vc 0x90 ((wChsTask).xmemBytes 0 ((0xF000 + 0x800 * (0 % 2)) + 0x30) 368)).1 else ((wChsTask).respond .served))).vcRates wTaskBuf.task.vc (if bit 0 1 then some ((wChsTask).reg (R.CHS_CMPL_CARR 0)).toNat else none) (if bit 0 2 then some ((wChsTask).reg (R.CHS_CMPL_CODE 0)).toNat else none)).vcWant wTaskBuf.task.vc 1).1) :=
  ⟨by decide +kernel, rfl, rfl⟩

theorem witness_TaskCommandsComplete_e5 :
    (fun (s : State) (init c ctl : Nat) (same : Bool) (b : ChsBuf) (s1 s2 : State) => ((c < 8) ∧ (init = c + 1) ∧ (s.admits init (R.CHS_CMPL_CTL c) = true) ∧ (s.bufGet (2 * c + ctl % 2) = some b) ∧ (b.delivered = true) ∧ (b.task.meas = false) ∧ (same = false)) ∧ (s1 = (if bit ctl 3 then ((s.respond .served).ctxWrite b.task.vc 0x90 (s.xmemBytes c ((0xF000 + 0x800 * (ctl % 2)) + 0x30) 368)).1 else (s.respond .served))) ∧ (s2 = ((s1.vcRates b.task.vc (if bit ctl 1 then some (s.reg (R.CHS_CMPL_CARR c)).toNat else none) (if bit ctl 2 then some (s.reg (R.CHS_CMPL_CODE c)).toNat else none)).vcWant b.task.vc 4).1)) (wChsTask) 1 0 0 false wTaskBuf ((if bit 0 3 then (((wChsTask).respond .served).ctxWrite wTaskBuf.task.vc 0x90 ((wChsTask).xmemBytes 0 ((0xF000 + 0x800 * (0 % 2)) + 0x30) 368)).1 else ((wChsTask).respond .served))) (((((if bit 0 3 then (((wChsTask).respond .served).ctxWrite wTaskBuf.task.vc 0x90 ((wChsTask).xmemBytes 0 ((0xF000 + 0x800 * (0 % 2)) + 0x30) 368)).1 else ((wChsTask).respond .served))).vcRates wTaskBuf.task.vc (if bit 0 1 then some ((wChsTask).reg (R.CHS_CMPL_CARR 0)).toNat else none) (if bit 0 2 then some ((wChsTask).reg (R.CHS_CMPL_CODE 0)).toNat else none)).vcWant wTaskBuf.task.vc 4).1) :=
  ⟨by decide +kernel, rfl, rfl⟩

theorem witness_TaskCommandsComplete_e6 :
    (fun (s : State) (init c ctl : Nat) (same : Bool) (b : ChsBuf) (s1 s2 : State) => ((c < 8) ∧ (init = c + 1) ∧ (s.admits init (R.CHS_CMPL_CTL c) = true) ∧ (s.bufGet (2 * c + ctl % 2) = some b) ∧ (b.delivered = true) ∧ (b.task.meas = false) ∧ (same = false)) ∧ (s1 = (if bit ctl 3 then ((s.respond .served).ctxWrite b.task.vc 0x90 (s.xmemBytes c ((0xF000 + 0x800 * (ctl % 2)) + 0x30) 368)).1 else (s.respond .served))) ∧ (s2 = ((s1.vcRates b.task.vc (if bit ctl 1 then some (s.reg (R.CHS_CMPL_CARR c)).toNat else none) (if bit ctl 2 then some (s.reg (R.CHS_CMPL_CODE c)).toNat else none)).vcWant b.task.vc 0).1)) (wChsTask) 1 0 0 false wTaskBuf ((if bit 0 3 then (((wChsTask).respond .served).ctxWrite wTaskBuf.task.vc 0x90 ((wChsTask).xmemBytes 0 ((0xF000 + 0x800 * (0 % 2)) + 0x30) 368)).1 else ((wChsTask).respond .served))) (((((if bit 0 3 then (((wChsTask).respond .served).ctxWrite wTaskBuf.task.vc 0x90 ((wChsTask).xmemBytes 0 ((0xF000 + 0x800 * (0 % 2)) + 0x30) 368)).1 else ((wChsTask).respond .served))).vcRates wTaskBuf.task.vc (if bit 0 1 then some ((wChsTask).reg (R.CHS_CMPL_CARR 0)).toNat else none) (if bit 0 2 then some ((wChsTask).reg (R.CHS_CMPL_CODE 0)).toNat else none)).vcWant wTaskBuf.task.vc 0).1) :=
  ⟨by decide +kernel, rfl, rfl⟩

theorem witness_TaskCommandsComplete_e7 :
    (fun (s : State) (init c ctl : Nat) (same : Bool) (b : ChsBuf) (s1 s2 : State) => ((c < 8) ∧ (init = c + 1) ∧ (s.admits init (R.CHS_CMPL_CTL c) = true) ∧ (s.bufGet (2 * c + ctl % 2) = some b) ∧ (b.delivered = true) ∧ (b.task.meas = false) ∧ (same = false)) ∧ (s1 = (if bit ctl 3 then ((s.respond .served).ctxWrite b.task.vc 0x90 (s.xmemBytes c ((0xF000 + 0x800 * (ctl % 2)) + 0x30) 368)).1 else (s.respond .served))) ∧ (s2 = (if ((s1.vcRates b.task.vc (if bit ctl 1 then some (s.reg (R.CHS_CMPL_CARR c)).toNat else none) (if bit ctl 2 then some (s.reg (R.CHS_CMPL_CODE c)).toNat else none)).vcGet b.task.vc).st = 4 then (s1.vcRates b.task.vc (if bit ctl 1 then some (s.reg (R.CHS_CMPL_CARR c)).toNat else none) (if bit ctl 2 then some (s.reg (R.CHS_CMPL_CODE c)).toNat else none)).vcSet b.task.vc { (s1.vcRates b.task.vc (if bit ctl 1 then some (s.reg (R.CHS_CMPL_CARR c)).toNat else none) (if bit ctl 2 then some (s.reg (R.CHS_CMPL_CODE c)).toNat else none)).vcGet b.task.vc with patch := some (toWords (s.xmemBytes c ((0xF000 + 0x800 * (ctl % 2)) + 0x1A0) 32)) } else s1.vcRates b.task.vc (if bit ctl 1 then some (s.reg (R.CHS_CMPL_CARR c)).toNat else none) (if bit ctl 2 then some (s.reg (R.CHS_CMPL_CODE c)).toNat else none)))) (wChsTask) 1 0 0 false wTaskBuf ((if bit 0 3 then (((wChsTask).respond .served).ctxWrite wTaskBuf.task.vc 0x90 ((wChsTask).xmemBytes 0 ((0xF000 + 0x800 * (0 % 2)) + 0x30) 368)).1 else ((wChsTask).respond .served))) ((if ((((if bit 0 3 then (((wChsTask).respond .served).ctxWrite wTaskBuf.task.vc 0x90 ((wChsTask).xmemBytes 0 ((0xF000 + 0x800 * (0 % 2)) + 0x30) 368)).1 else ((wChsTask).respond .served))).vcRates wTaskBuf.task.vc (if bit 0 1 then some ((wChsTask).reg (R.CHS_CMPL_CARR 0)).toNat else none) (if bit 0 2 then some ((wChsTask).reg (R.CHS_CMPL_CODE 0)).toNat else none)).vcGet wTaskBuf.task.vc).st = 4 then (((if bit 0 3 then (((wChsTask).respond .served).ctxWrite wTaskBuf.task.vc 0x90 ((wChsTask).xmemBytes 0 ((0xF000 + 0x800 * (0 % 2)) + 0x30) 368)).1 else ((wChsTask).respond .served))).vcRates wTaskBuf.task.vc (if bit 0 1 then some ((wChsTask).reg (R.CHS_CMPL_CARR 0)).toNat else none) (if bit 0 2 then some ((wChsTask).reg (R.CHS_CMPL_CODE 0)).toNat else none)).vcSet wTaskBuf.task.vc { (((if bit 0 3 then (((wChsTask).respond .served).ctxWrite wTaskBuf.task.vc 0x90 ((wChsTask).xmemBytes 0 ((0xF000 + 0x800 * (0 % 2)) + 0x30) 368)).1 else ((wChsTask).respond .served))).vcRates wTaskBuf.task.vc (if bit 0 1 then some ((wChsTask).reg (R.CHS_CMPL_CARR 0)).toNat else none) (if bit 0 2 then some ((wChsTask).reg (R.CHS_CMPL_CODE 0)).toNat else none)).vcGet wTaskBuf.task.vc with patch := some (toWords ((wChsTask).xmemBytes 0 ((0xF000 + 0x800 * (0 % 2)) + 0x1A0) 32)) } else ((if bit 0 3 then (((wChsTask).respond .served).ctxWrite wTaskBuf.task.vc 0x90 ((wChsTask).xmemBytes 0 ((0xF000 + 0x800 * (0 % 2)) + 0x30) 368)).1 else ((wChsTask).respond .served))).vcRates wTaskBuf.task.vc (if bit 0 1 then some ((wChsTask).reg (R.CHS_CMPL_CARR 0)).toNat else none) (if bit 0 2 then some ((wChsTask).reg (R.CHS_CMPL_CODE 0)).toNat else none))) :=
  ⟨by decide +kernel, rfl, rfl⟩

theorem witness_FrameReceiveCommandsComplete :
    (((fun (s : State) (n stat : Nat) => decide ((n < 4) ∧ (s.portRuns n = true) ∧ (s.flag (F.ETH_STAT_LINK n) = false) ∧ (((s.setFld ⟨R.ETH_STAT n, 0, 6⟩ stat).flag (F.ETH_STAT_LINK n)) = true) ∧ (((s.setFld ⟨R.ETH_STAT n, 0, 6⟩ stat).flag (F.ETH_SYNCE_RCLK_EN n)) = false))) (wPtp) 1 3)) = true := by decide +kernel

theorem witness_FrameReceiveCommandsComplete_e1 :
    (fun (s : State) (f : RxFrame) (s1 : State) => ((f.port < 4) ∧ (f.ptp = none) ∧ (s1.live P.PTP = true) ∧ (s1.ptp.rx.length < 1024)) ∧ (s.rxGate f = (s1, true))) (wPtp) wArp (((wPtp).rxGate wArp).1) :=
  ⟨by decide +kernel, pairEq (by first | with_reducible rfl | decide +kernel)⟩

theorem witness_FrameReceiveCommandsComplete_e2 :
    (fun (s : State) (f : RxFrame) (s1 s2 : State) => ((f.port < 4) ∧ (f.ptp.isSome = true) ∧ (f.toFifo = false) ∧ (s1.ptpRuns = true) ∧ (f.type = 1) ∧ (s2.masterMatch f = none) ∧ (s2.ptp.rx.length < 1024)) ∧ (s.rxGate f = (s1, true)) ∧ (s1.sesBanks = (s2, true))) (wPtp) (wMsg 1 9) (((wPtp).rxGate (wMsg 1 9)).1) (((((wPtp).rxGate (wMsg 1 9)).1).sesBanks).1) :=
  ⟨by decide +kernel, pairEq (by first | with_reducible rfl | decide +kernel), pairEq (by first | with_reducible rfl | decide +kernel)⟩

theorem witness_FrameReceiveCommandsComplete_e3 :
    (fun (s : State) (f : RxFrame) (s1 s2 s3 : State) (k : Nat) (ok : Bool) => ((f.port < 4) ∧ (f.ptp.isSome = true) ∧ (f.toFifo = false) ∧ (s1.ptpRuns = true) ∧ (f.type = 1) ∧ (s2.masterMatch f = some k) ∧ (s2.sesRuns (s2.sesPeek k) = true) ∧ (granted s3.nowSec (sesF (s2.sesPeek k) 0x34 4) = true) ∧ (s3.qualServes = true) ∧ ((s3.portQueue f.port).length < 8192)) ∧ (s.rxGate f = (s1, true)) ∧ (s1.sesBanks = (s2, true)) ∧ (s2.authCheck k f = (s3, some ok))) (wPtp) (wMsg 1 0) (((wPtp).rxGate (wMsg 1 0)).1) (((((wPtp).rxGate (wMsg 1 0)).1).sesBanks).1) (((((((wPtp).rxGate (wMsg 1 0)).1).sesBanks).1).authCheck 0 (wMsg 1 0)).1) 0 false :=
  ⟨by decide +kernel, pairEq (by first | with_reducible rfl | decide +kernel), pairEq (by first | with_reducible rfl | decide +kernel), pairEq (by first | with_reducible rfl | decide +kernel)⟩

theorem witness_FrameReceiveCommandsComplete_e4 :
    (fun (s : State) (f : RxFrame) (s1 s2 : State) => ((f.port < 4) ∧ (f.ptp.isSome = true) ∧ (f.toFifo = false) ∧ (s1.ptpRuns = true) ∧ (f.type = 2) ∧ (s2.flag (F.PTPP_CFG_PDRESP f.port) = true) ∧ ((f.dest.headD 0).toNat % 2 = 1) ∧ ((s2.portQueue f.port).length < 8192)) ∧ (s.rxGate f = (s1, true)) ∧ (s1.sesBanks = (s2, true))) (wPtp.setFlag (F.PTPP_CFG_PDRESP 1) true) (wMsg 2 0) (((wPtp.setFlag (F.PTPP_CFG_PDRESP 1) true).rxGate (wMsg 2 0)).1) (((((wPtp.setFlag (F.PTPP_CFG_PDRESP 1) true).rxGate (wMsg 2 0)).1).sesBanks).1) :=
  ⟨by decide +kernel, pairEq (by first | with_reducible rfl | decide +kernel), pairEq (by first | with_reducible rfl | decide +kernel)⟩

theorem witness_FrameReceiveCommandsComplete_e5 :
    (fun (s : State) (f : RxFrame) (s1 s2 : State) => ((f.port < 4) ∧ (f.ptp.isSome = true) ∧ (f.toFifo = false) ∧ (s1.ptpRuns = true) ∧ (f.type = 2) ∧ (s2.flag (F.PTPP_CFG_PDRESP f.port) = false) ∧ (s2.ptp.rx.length < 1024)) ∧ (s.rxGate f = (s1, true)) ∧ (s1.sesBanks = (s2, true))) (wPtp) (wMsg 2 0) (((wPtp).rxGate (wMsg 2 0)).1) (((((wPtp).rxGate (wMsg 2 0)).1).sesBanks).1) :=
  ⟨by decide +kernel, pairEq (by first | with_reducible rfl | decide +kernel), pairEq (by first | with_reducible rfl | decide +kernel)⟩

theorem witness_FrameReceiveCommandsComplete_e6 :
    (fun (s : State) (f : RxFrame) (s1 s2 : State) => ((f.port < 4) ∧ (f.ptp.isSome = true) ∧ (f.toFifo = false) ∧ (s1.ptpRuns = true) ∧ (f.type ≠ 1) ∧ (f.type ≠ 2) ∧ (s2.messageMatch f = none) ∧ (s2.ptp.rx.length < 1024)) ∧ (s.rxGate f = (s1, true)) ∧ (s1.sesBanks = (s2, true))) (wPtp) (wMsg 8 0) (((wPtp).rxGate (wMsg 8 0)).1) (((((wPtp).rxGate (wMsg 8 0)).1).sesBanks).1) :=
  ⟨by decide +kernel, pairEq (by first | with_reducible rfl | decide +kernel), pairEq (by first | with_reducible rfl | decide +kernel)⟩

theorem witness_FrameReceiveCommandsComplete_e7 :
    (fun (s : State) (f : RxFrame) (s1 s2 s3 : State) (k : Nat) (ok : Bool) => ((f.port < 4) ∧ (f.ptp.isSome = true) ∧ (f.toFifo = false) ∧ (s1.ptpRuns = true) ∧ (f.type ≠ 1) ∧ (f.type ≠ 2) ∧ (s2.messageMatch f = some k) ∧ (s2.sesRuns (s2.sesPeek k) = true) ∧ (s3.ptp.rx.length < 1024)) ∧ (s.rxGate f = (s1, true)) ∧ (s1.sesBanks = (s2, true)) ∧ (s2.authCheck k f = (s3, some ok))) (wPtpClient) (wMsg 8 0) (((wPtpClient).rxGate (wMsg 8 0)).1) (((((wPtpClient).rxGate (wMsg 8 0)).1).sesBanks).1) (((((((wPtpClient).rxGate (wMsg 8 0)).1).sesBanks).1).authCheck 0 (wMsg 8 0)).1) 0 false :=
  ⟨by decide +kernel, pairEq (by first | with_reducible rfl | decide +kernel), pairEq (by first | with_reducible rfl | decide +kernel), pairEq (by first | with_reducible rfl | decide +kernel)⟩

theorem witness_MessageTransmitCommandsComplete :
    (((fun (s : State) (init w : Nat) => decide ((s.admits init R.PTP_TXDATA = true))) (wPtp) Init.SC0 9) &&
    ((fun (s : State) (init : Nat) => decide ((s.admits init R.PTP_TXCMD = true) ∧ (s.ptp.staged = none) ∧ (14 ≤ s.fld F.PTP_TXDESC_LEN) ∧ (s.fld F.PTP_TXDESC_LEN ≤ 256))) (wPtp.setFld F.PTP_TXDESC_LEN 64) Init.SC0) &&
    ((fun (s : State) (init : Nat) => decide ((s.admits init R.PTP_RXPOP = true))) (wPtp) Init.SC0)) = true := by decide +kernel

theorem witness_MessageTransmitCommandsComplete_e1 :
    (fun (s : State) (n : Nat) (j : PtpJob) (s1 s2 : State) (e : List Byte) => ((n < 4) ∧ (s.portRuns n = true) ∧ (s.ptpRuns = true) ∧ (s2.sesRuns e = true) ∧ (sesAuth e = false) ∧ (s2.qualServes = true)) ∧ (s.portTake n .sync = some (j, s1)) ∧ (s1.sesRead j.session = (s2, some e))) (wTx .sync) 1 (wTxGot .sync).1 (wTxGot .sync).2 (wTxSes .sync).1 ((wTxSes .sync).2.getD []) :=
  ⟨by decide +kernel, somePair (by first | with_reducible rfl | decide +kernel), pairSome (by first | with_reducible rfl | decide +kernel)⟩

theorem witness_MessageTransmitCommandsComplete_e2 :
    (fun (s : State) (n : Nat) (j : PtpJob) (s1 s2 : State) (e : List Byte) => ((n < 4) ∧ (s.portRuns n = true) ∧ (s.ptpRuns = true) ∧ (s2.sesRuns e = true) ∧ (sesAuth e = false) ∧ (s2.qualServes = true)) ∧ (s.portTake n .followUp = some (j, s1)) ∧ (s1.sesRead j.session = (s2, some e))) (wTx .followUp) 1 (wTxGot .followUp).1 (wTxGot .followUp).2 (wTxSes .followUp).1 ((wTxSes .followUp).2.getD []) :=
  ⟨by decide +kernel, somePair (by first | with_reducible rfl | decide +kernel), pairSome (by first | with_reducible rfl | decide +kernel)⟩

theorem witness_MessageTransmitCommandsComplete_e3 :
    (fun (s : State) (n : Nat) (j : PtpJob) (s1 s2 : State) (e : List Byte) => ((n < 4) ∧ (s.portRuns n = true) ∧ (s.ptpRuns = true) ∧ (s2.sesRuns e = true) ∧ (sesAuth e = false)) ∧ (s.portTake n .announce = some (j, s1)) ∧ (s1.sesRead j.session = (s2, some e))) (wTx .announce) 1 (wTxGot .announce).1 (wTxGot .announce).2 (wTxSes .announce).1 ((wTxSes .announce).2.getD []) :=
  ⟨by decide +kernel, somePair (by first | with_reducible rfl | decide +kernel), pairSome (by first | with_reducible rfl | decide +kernel)⟩

theorem witness_MessageTransmitCommandsComplete_e4 :
    (fun (s : State) (n : Nat) (j : PtpJob) (s1 s2 : State) (e : List Byte) => ((n < 4) ∧ (s.portRuns n = true) ∧ (s.ptpRuns = true) ∧ (s2.sesRuns e = true) ∧ (sesAuth e = false)) ∧ (s.portTake n .delayReq = some (j, s1)) ∧ (s1.sesRead j.session = (s2, some e))) (wTx .delayReq) 1 (wTxGot .delayReq).1 (wTxGot .delayReq).2 (wTxSes .delayReq).1 ((wTxSes .delayReq).2.getD []) :=
  ⟨by decide +kernel, somePair (by first | with_reducible rfl | decide +kernel), pairSome (by first | with_reducible rfl | decide +kernel)⟩

theorem witness_MessageTransmitCommandsComplete_e5 :
    (fun (s : State) (n : Nat) (j : PtpJob) (s1 s2 : State) (e : List Byte) => ((n < 4) ∧ (s.portRuns n = true) ∧ (s.ptpRuns = true) ∧ (s2.sesRuns e = true) ∧ (sesAuth e = false) ∧ (s2.qualServes = true)) ∧ (s.portTake n .delayResp = some (j, s1)) ∧ (s1.sesRead j.session = (s2, some e))) (wTx .delayResp) 1 (wTxGot .delayResp).1 (wTxGot .delayResp).2 (wTxSes .delayResp).1 ((wTxSes .delayResp).2.getD []) :=
  ⟨by decide +kernel, somePair (by first | with_reducible rfl | decide +kernel), pairSome (by first | with_reducible rfl | decide +kernel)⟩

theorem witness_MessageTransmitCommandsComplete_e6 :
    (fun (s : State) (n : Nat) (j : PtpJob) (s1 : State) => ((n < 4) ∧ (s.portRuns n = true) ∧ (s.ptpRuns = true)) ∧ (s.portTake n .pdelayResp = some (j, s1))) (wTx .pdelayResp) 1 (wTxGot .pdelayResp).1 (wTxGot .pdelayResp).2 :=
  ⟨by decide +kernel, somePair (by first | with_reducible rfl | decide +kernel)⟩

theorem witness_MessageTransmitCommandsComplete_e7 :
    (fun (s : State) (n : Nat) (j : PtpJob) (s1 : State) => ((n < 4) ∧ (s.portRuns n = true) ∧ (s.live P.PTP = true)) ∧ (s.portTake n .frame = some (j, s1))) (wTx .frame) 1 (wTxGot .frame).1 (wTxGot .frame).2 :=
  ⟨by decide +kernel, somePair (by first | with_reducible rfl | decide +kernel)⟩

theorem witness_SessionCommandsComplete :
    (((fun (s : State) (ix : Nat) => decide ((ix < 4096) ∧ (s.ptpRuns = true) ∧ (s.grantsOf ix ||| grantMask s.nowSec (s.sesPeek ix) ≠ grantMask s.nowSec (s.sesPeek ix)))) (wPtp.grantsSet 9 7) 9) &&
    ((fun (s : State)  => decide ((s.flag F.PTP_SESSSTAT_BUSY = true) ∧ (s.pair.waitAck = false))) (wPtp.setFlag F.PTP_SESSSTAT_BUSY true) )) = true := by decide +kernel

theorem witness_SessionCommandsComplete_e1 :
    (fun (s : State) (init ix : Nat) (t : State) => ((ix < 4096) ∧ (s.admits init R.PTP_SESSCMD = true) ∧ (s.flag F.PTP_SESSSTAT_BUSY = false) ∧ (((t.setFlag F.PTP_SESSSTAT_BUSY true).setFld F.PTP_SESSSTAT_RESULT 0).pairPrimary = false)) ∧ (sesPutCmd ix false (s.respond .served) = (t, 0))) (wPtp) Init.SC0 3 (sesPutCmd 3 false (wPtp.respond .served)).1 :=
  ⟨by decide +kernel, pairEq (by first | with_reducible rfl | decide +kernel)⟩

theorem witness_SessionCommandsComplete_e2 :
    (fun (s : State) (init ix : Nat) (t : State) => ((ix < 4096) ∧ (s.admits init R.PTP_SESSCMD = true) ∧ (s.flag F.PTP_SESSSTAT_BUSY = false) ∧ (((t.setFlag F.PTP_SESSSTAT_BUSY true).setFld F.PTP_SESSSTAT_RESULT 0).pairPrimary = false)) ∧ (sesPutCmd ix true (s.respond .served) = (t, 0))) (wPtp) Init.SC0 3 (sesPutCmd 3 true (wPtp.respond .served)).1 :=
  ⟨by decide +kernel, pairEq (by first | with_reducible rfl | decide +kernel)⟩

theorem witness_SessionCommandsComplete_e3 :
    (fun (s : State) (init ix : Nat) (t : State) => ((ix < 4096) ∧ (s.admits init R.PTP_SESSCMD = true) ∧ (s.flag F.PTP_SESSSTAT_BUSY = false)) ∧ (sesGetCmd ix (s.respond .served) = (t, 0))) (wPtp) Init.SC0 0 (sesGetCmd 0 (wPtp.respond .served)).1 :=
  ⟨by decide +kernel, pairEq (by first | with_reducible rfl | decide +kernel)⟩

theorem witness_SessionCommandsComplete_e4 :
    (fun (s : State) (init ix : Nat) (t : State) => ((ix < 4096) ∧ (s.admits init R.PTP_SESSCMD = true) ∧ (s.flag F.PTP_SESSSTAT_BUSY = false) ∧ (((t.setFlag F.PTP_SESSSTAT_BUSY true).setFld F.PTP_SESSSTAT_RESULT 0).pairPrimary = false)) ∧ ((s.respond .served).sesWrite ix (List.replicate 64 0) = (t, true))) (wPtp) Init.SC0 0 ((wPtp.respond .served).sesWrite 0 (List.replicate 64 0)).1 :=
  ⟨by decide +kernel, pairEq (by first | with_reducible rfl | decide +kernel)⟩

theorem witness_SessionCommandsComplete_e5 :
    (fun (s : State) (init ix arg : Nat) (t : State) => ((ix < 4096) ∧ (s.admits init R.PTP_SESSCMD = true) ∧ (s.flag F.PTP_SESSSTAT_BUSY = false) ∧ (((t.setFlag F.PTP_SESSSTAT_BUSY true).setFld F.PTP_SESSSTAT_RESULT 0).pairPrimary = false)) ∧ (sesGrantCmd ix arg (s.respond .served) = (t, 0))) (wPtp) Init.SC0 0 7 (sesGrantCmd 0 7 (wPtp.respond .served)).1 :=
  ⟨by decide +kernel, pairEq (by first | with_reducible rfl | decide +kernel)⟩

theorem witness_PairRoleAndLinkCommandsComplete :
    (((fun (s : State) (init : Nat) => decide ((s.admits init R.PAIR_CMD = true) ∧ (s.recent s.pair.lastPulse 3000000 = false) ∧ (s.flag F.PAIR_CFG_EN = false))) (wBase) Init.MC) &&
    ((fun (s : State) (init : Nat) => decide ((s.admits init R.PAIR_CMD = true))) (wBase) Init.MC) &&
    ((fun (s : State) (init : Nat) => decide ((s.admits init R.PAIR_CMD = true))) (wBase) Init.MC) &&
    ((fun (s : State) (init : Nat) => decide ((s.admits init R.PAIR_CMD = true) ∧ (s.flag F.PAIR_STAT_LINK = true))) (wSec) Init.MC) &&
    ((fun (s : State)  => decide ((s.live P.PAIR = true) ∧ (s.flag F.PAIR_STAT_LINK = false))) (wBase) ) &&
    ((fun (s : State)  => decide ((s.flag F.PAIR_STAT_LINK = true) ∧ (((((s.setFlag F.PAIR_STAT_LINK false).irq P.PAIR 2).ackLost).recent (((s.setFlag F.PAIR_STAT_LINK false).irq P.PAIR 2).ackLost).pair.lastPulse 3000000) = false))) (wSec) ) &&
    ((fun (s : State) (chain sig : Bool) (id : List Byte) (peer : Bool) => decide ((s.fld F.PAIR_STAT_ATT = 1) ∧ (s.flag F.PAIR_STAT_LINK = true) ∧ ((s.attPeer chain sig id && peer) = false))) (wSec.setFld F.PAIR_STAT_ATT 1) true true [] false) &&
    ((fun (s : State)  => decide ((s.role = 1) ∧ (s.live P.PAIR = true) ∧ (s.loaded = true))) (wSec.setFld F.PAIR_STAT_ROLE 1) ) &&
    ((fun (s : State)  => decide ((s.flag F.PAIR_STAT_LINK = true) ∧ (s.live P.PAIR = true))) (wSec) ) &&
    ((fun (s : State) (t1 t4 : Nat) => decide ((s.flag F.PAIR_STAT_LINK = true) ∧ (s.live P.PAIR = true) ∧ (s.role = 2))) (wSec) 5 9) &&
    ((fun (s : State) (low : Bool) => decide ((low = true) ∧ (s.selfLow = false))) (wSec) true) &&
    ((fun (s : State) (low : Bool) => decide ((low = false))) (wSec) false)) = true := by decide +kernel

theorem witness_PairRoleAndLinkCommandsComplete_2 :
    (((fun (s : State)  => decide ((s.live P.PAIR = true) ∧ (s.selfLow = false) ∧ ((s.pair.released.any fun t => decide (t < s.nowNs / 1000000 * 1000000)) = true) ∧ (s.role ≠ 2))) (wSec.setFld F.PAIR_STAT_ROLE 1) )) = true := by decide +kernel

theorem witness_PairRoleAndLinkCommandsComplete_e1 :
    (fun (s : State) (chain sig : Bool) (id : List Byte) (peer : Bool) (x : PairRec) => ((s.fld F.PAIR_STAT_ATT = 1) ∧ (s.flag F.PAIR_STAT_LINK = true) ∧ (chain = true) ∧ (sig = true) ∧ (peer = true) ∧ (x.peer = id) ∧ (((s.setFld F.PAIR_STAT_ATT 2).irq P.PAIR 1).role ≠ 1)) ∧ (s.nym.pairRec = some x) ∧ (x.own = deviceKeyId)) ({ wSec.setFld F.PAIR_STAT_ATT 1 with nym := { wSec.nym with pairRec := some ⟨1, deviceKeyId, wSeven, []⟩ } }) true true wSeven true ⟨1, deviceKeyId, wSeven, []⟩ :=
  ⟨by decide +kernel, (by first | with_reducible rfl | decide +kernel), (by first | with_reducible rfl | decide +kernel)⟩

theorem witness_PairTakeoverAndMirrorCommandsComplete :
    (((fun (s : State) (init : Nat) => decide ((s.admits init R.PAIR_CMD = true) ∧ ((s.respond .served).mayTakeOver = true) ∧ (s.recent s.pair.lastPulse 3000000 = false) ∧ (s.recent s.pair.lastFrame 3000000 = false))) (wSec) Init.MC) &&
    ((fun (s : State) (init : Nat) => decide ((s.admits init R.PAIR_CMD = true) ∧ ((s.respond .served).mayTakeOver = true) ∧ (s.recent s.pair.lastPulse 3000000 = true))) ({ wSec with pair := { wSec.pair with lastPulse := some wSec.nowNs } }) Init.MC) &&
    ((fun (s : State) (t : Nat) => decide ((s.mayTakeOver = true) ∧ (s.flag F.PAIR_CFG_AUTO = true) ∧ (s.selfLow = false) ∧ (s.live P.PAIR = true) ∧ (s.pair.lowSince = some t) ∧ (t + 200000 ≤ s.nowNs))) ({ wSec with pair := { wSec.pair with lowSince := some 0 } }) 0) &&
    ((fun (s : State)  => decide ((s.mayTakeOver = true) ∧ (s.flag F.PAIR_CFG_AUTO = true) ∧ (s.selfLow = false) ∧ (s.live P.PAIR = true) ∧ (s.fld F.PAIR_STAT_MISS = 3))) (wSec.setFld F.PAIR_STAT_MISS 3) ) &&
    ((fun (s : State) (request : Bool) => decide ((s.role = 1) ∧ (request = false))) (wSec.setFld F.PAIR_STAT_ROLE 1) false) &&
    ((fun (s : State) (request : Bool) => decide ((s.role = 1) ∧ (request = true))) (wSec.setFld F.PAIR_STAT_ROLE 1) true) &&
    ((fun (s : State)  => decide ((s.pair.asked = true) ∧ (({ s with pair := { s.pair with asked := false } } : State).mayTakeOver = true))) ({ wSec with pair := { wSec.pair with asked := true } }) ) &&
    ((fun (s : State) (sec k : Nat) => decide ((s.pair.asked = true))) ({ wSec with pair := { wSec.pair with asked := true } }) 5 6) &&
    ((fun (s : State) (init : Nat) => decide ((s.admits init R.PAIR_MTXCMD = true) ∧ (s.mirrors = true) ∧ (s.role = 1) ∧ (1 ≤ s.fld F.PAIR_MTXDESC_LEN) ∧ (s.fld F.PAIR_MTXDESC_LEN ≤ 256))) ((wSec.setFld F.PAIR_STAT_ROLE 1).setFld F.PAIR_MTXDESC_LEN 8) Init.MC) &&
    ((fun (s : State) (init w : Nat) => decide ((s.admits init R.PAIR_MTXDATA = true))) (wSec) Init.MC 5) &&
    ((fun (s : State) (k : Nat) (bytes : List Byte) => decide ((s.mirrors = true) ∧ (s.role = 2) ∧ (k < 4096))) (wSec) 3 []) &&
    ((fun (s : State)  => decide ((s.pair.waitAck = true))) ({ wSec with pair := { wSec.pair with waitAck := true } }) )) = true := by decide +kernel

theorem witness_PairTakeoverAndMirrorCommandsComplete_e1 :
    (fun (s : State) (type : Nat) (octets : List Byte) (mode qual : Nat) (s2 s3 : State) => ((octets.length ≤ 256) ∧ (s.mirrors = true) ∧ (s.role = 2) ∧ (type ≠ 5)) ∧ (s.portWrite Init.PAIR (sramBase + bankSize * s.fld F.PAIR_MBASE_BANK + 64 + 320 * (s.pair.ringWr % 819)) (leBytes 4 (type % 256 + octets.length * 256) ++ leBytes 4 s.pair.ringWr ++ leBytes 4 (s.nowSec % 2 ^ 32) ++ leBytes 4 (s.nowNs % 1000000000) ++ (octets ++ List.replicate 256 0).take 256 ++ List.replicate 48 0) = (s2, true)) ∧ (s3 = (s2.portWrite Init.PAIR (sramBase + bankSize * s.fld F.PAIR_MBASE_BANK) (leBytes 4 0x524E4731 ++ leBytes 2 1 ++ leBytes 1 2 ++ leBytes 1 Init.PAIR ++ leBytes 4 320 ++ leBytes 4 819 ++ leBytes 4 ((s.pair.ringWr + 1) % 2 ^ 32) ++ leBytes 4 (s.fld F.COR_LATSTAT_EPOCHS % 256) ++ List.replicate 40 0)).1)) (wSec) 1 wSeven 2 5 (((wSec).portWrite Init.PAIR (sramBase + bankSize * (wSec).fld F.PAIR_MBASE_BANK + 64 + 320 * ((wSec).pair.ringWr % 819)) (leBytes 4 (1 % 256 + wSeven.length * 256) ++ leBytes 4 (wSec).pair.ringWr ++ leBytes 4 ((wSec).nowSec % 2 ^ 32) ++ leBytes 4 ((wSec).nowNs % 1000000000) ++ (wSeven ++ List.replicate 256 0).take 256 ++ List.replicate 48 0)).1) (((((wSec).portWrite Init.PAIR (sramBase + bankSize * (wSec).fld F.PAIR_MBASE_BANK + 64 + 320 * ((wSec).pair.ringWr % 819)) (leBytes 4 (1 % 256 + wSeven.length * 256) ++ leBytes 4 (wSec).pair.ringWr ++ leBytes 4 ((wSec).nowSec % 2 ^ 32) ++ leBytes 4 ((wSec).nowNs % 1000000000) ++ (wSeven ++ List.replicate 256 0).take 256 ++ List.replicate 48 0)).1).portWrite Init.PAIR (sramBase + bankSize * (wSec).fld F.PAIR_MBASE_BANK) (leBytes 4 0x524E4731 ++ leBytes 2 1 ++ leBytes 1 2 ++ leBytes 1 Init.PAIR ++ leBytes 4 320 ++ leBytes 4 819 ++ leBytes 4 (((wSec).pair.ringWr + 1) % 2 ^ 32) ++ leBytes 4 ((wSec).fld F.COR_LATSTAT_EPOCHS % 256) ++ List.replicate 40 0)).1) :=
  ⟨by decide +kernel, pairEq (by first | with_reducible rfl | decide +kernel), rfl⟩

theorem witness_PairTakeoverAndMirrorCommandsComplete_e2 :
    (fun (s : State) (type : Nat) (octets : List Byte) (mode qual : Nat) (s2 s3 s4 : State) => ((octets.length ≤ 256) ∧ (s.mirrors = true) ∧ (s.role = 2) ∧ (type = 5)) ∧ (s.portWrite Init.PAIR (sramBase + bankSize * s.fld F.PAIR_MBASE_BANK + 64 + 320 * (s.pair.ringWr % 819)) (leBytes 4 (type % 256 + octets.length * 256) ++ leBytes 4 s.pair.ringWr ++ leBytes 4 (s.nowSec % 2 ^ 32) ++ leBytes 4 (s.nowNs % 1000000000) ++ (octets ++ List.replicate 256 0).take 256 ++ List.replicate 48 0) = (s2, true)) ∧ (s3 = (s2.portWrite Init.PAIR (sramBase + bankSize * s.fld F.PAIR_MBASE_BANK) (leBytes 4 0x524E4731 ++ leBytes 2 1 ++ leBytes 1 2 ++ leBytes 1 Init.PAIR ++ leBytes 4 320 ++ leBytes 4 819 ++ leBytes 4 ((s.pair.ringWr + 1) % 2 ^ 32) ++ leBytes 4 (s.fld F.COR_LATSTAT_EPOCHS % 256) ++ List.replicate 40 0)).1) ∧ (s4 = ({ s3 with pair := { s3.pair with ringWr := (s.pair.ringWr + 1) % 2 ^ 32 } } : State).irq P.PAIR 3)) (wSec) 5 wSeven 2 5 (((wSec).portWrite Init.PAIR (sramBase + bankSize * (wSec).fld F.PAIR_MBASE_BANK + 64 + 320 * ((wSec).pair.ringWr % 819)) (leBytes 4 (5 % 256 + wSeven.length * 256) ++ leBytes 4 (wSec).pair.ringWr ++ leBytes 4 ((wSec).nowSec % 2 ^ 32) ++ leBytes 4 ((wSec).nowNs % 1000000000) ++ (wSeven ++ List.replicate 256 0).take 256 ++ List.replicate 48 0)).1) (((((wSec).portWrite Init.PAIR (sramBase + bankSize * (wSec).fld F.PAIR_MBASE_BANK + 64 + 320 * ((wSec).pair.ringWr % 819)) (leBytes 4 (5 % 256 + wSeven.length * 256) ++ leBytes 4 (wSec).pair.ringWr ++ leBytes 4 ((wSec).nowSec % 2 ^ 32) ++ leBytes 4 ((wSec).nowNs % 1000000000) ++ (wSeven ++ List.replicate 256 0).take 256 ++ List.replicate 48 0)).1).portWrite Init.PAIR (sramBase + bankSize * (wSec).fld F.PAIR_MBASE_BANK) (leBytes 4 0x524E4731 ++ leBytes 2 1 ++ leBytes 1 2 ++ leBytes 1 Init.PAIR ++ leBytes 4 320 ++ leBytes 4 819 ++ leBytes 4 (((wSec).pair.ringWr + 1) % 2 ^ 32) ++ leBytes 4 ((wSec).fld F.COR_LATSTAT_EPOCHS % 256) ++ List.replicate 40 0)).1) (({ (((((wSec).portWrite Init.PAIR (sramBase + bankSize * (wSec).fld F.PAIR_MBASE_BANK + 64 + 320 * ((wSec).pair.ringWr % 819)) (leBytes 4 (5 % 256 + wSeven.length * 256) ++ leBytes 4 (wSec).pair.ringWr ++ leBytes 4 ((wSec).nowSec % 2 ^ 32) ++ leBytes 4 ((wSec).nowNs % 1000000000) ++ (wSeven ++ List.replicate 256 0).take 256 ++ List.replicate 48 0)).1).portWrite Init.PAIR (sramBase + bankSize * (wSec).fld F.PAIR_MBASE_BANK) (leBytes 4 0x524E4731 ++ leBytes 2 1 ++ leBytes 1 2 ++ leBytes 1 Init.PAIR ++ leBytes 4 320 ++ leBytes 4 819 ++ leBytes 4 (((wSec).pair.ringWr + 1) % 2 ^ 32) ++ leBytes 4 ((wSec).fld F.COR_LATSTAT_EPOCHS % 256) ++ List.replicate 40 0)).1) with pair := { (((((wSec).portWrite Init.PAIR (sramBase + bankSize * (wSec).fld F.PAIR_MBASE_BANK + 64 + 320 * ((wSec).pair.ringWr % 819)) (leBytes 4 (5 % 256 + wSeven.length * 256) ++ leBytes 4 (wSec).pair.ringWr ++ leBytes 4 ((wSec).nowSec % 2 ^ 32) ++ leBytes 4 ((wSec).nowNs % 1000000000) ++ (wSeven ++ List.replicate 256 0).take 256 ++ List.replicate 48 0)).1).portWrite Init.PAIR (sramBase + bankSize * (wSec).fld F.PAIR_MBASE_BANK) (leBytes 4 0x524E4731 ++ leBytes 2 1 ++ leBytes 1 2 ++ leBytes 1 Init.PAIR ++ leBytes 4 320 ++ leBytes 4 819 ++ leBytes 4 (((wSec).pair.ringWr + 1) % 2 ^ 32) ++ leBytes 4 ((wSec).fld F.COR_LATSTAT_EPOCHS % 256) ++ List.replicate 40 0)).1).pair with ringWr := ((wSec).pair.ringWr + 1) % 2 ^ 32 } } : State).irq P.PAIR 3) :=
  ⟨by decide +kernel, pairEq (by first | with_reducible rfl | decide +kernel), rfl, rfl⟩

theorem witness_SwialeStackManipulationCompletes :
    (((fun (s : State) (c len : Nat) (k k1 : Core) (stall : Nat) => decide ((s.begins c none .nop len k = true) ∧ (k1 = k))) (wSw 0x40 []) 0 2 ((kOf (wSw 0x40 []))) ((kOf (wSw 0x40 []))) 1) &&
    ((fun (s : State) (c len : Nat) (k k1 : Core) (a : Word) (r : List Word) (k2 : Core) (stall : Nat) => decide ((s.begins c none .dup len k = true) ∧ (gives (k.need 1) k1 = true) ∧ (k1.stack = a :: r) ∧ (gives (k1.push a) k2 = true))) (wSw 0x80 [7, 9]) 0 2 ((kOf (wSw 0x80 [7, 9]))) ((kOf (wSw 0x80 [7, 9])))  7 [9] { (kOf (wSw 0x80 [7, 9])) with stack := [7, 7, 9] } 1) &&
    ((fun (s : State) (c len : Nat) (k k1 : Core) (a : Word) (r : List Word) (stall : Nat) => decide ((s.begins c none .drop len k = true) ∧ (gives (k.need 1) k1 = true) ∧ (k1.stack = a :: r))) (wSw 0xc0 [7, 9]) 0 2 ((kOf (wSw 0xc0 [7, 9]))) ((kOf (wSw 0xc0 [7, 9])))  7 [9] 1) &&
    ((fun (s : State) (c len : Nat) (k k1 : Core) (a b : Word) (r : List Word) (stall : Nat) => decide ((s.begins c none .swapT len k = true) ∧ (gives (k.need 2) k1 = true) ∧ (k1.stack = b :: a :: r))) (wSw 0x100 [7, 9]) 0 2 ((kOf (wSw 0x100 [7, 9]))) ((kOf (wSw 0x100 [7, 9])))  9 7 [] 1) &&
    ((fun (s : State) (c len : Nat) (k k1 : Core) (a b : Word) (r : List Word) (k2 : Core) (stall : Nat) => decide ((s.begins c none .overT len k = true) ∧ (gives (k.need 2) k1 = true) ∧ (k1.stack = b :: a :: r) ∧ (gives (k1.push a) k2 = true))) (wSw 0x140 [7, 9]) 0 2 ((kOf (wSw 0x140 [7, 9]))) ((kOf (wSw 0x140 [7, 9])))  9 7 [] { (kOf (wSw 0x140 [7, 9])) with stack := [9, 7, 9] } 1) &&
    ((fun (s : State) (c len : Nat) (k k1 : Core) (a b d : Word) (r : List Word) (stall : Nat) => decide ((s.begins c none .rot len k = true) ∧ (gives (k.need 3) k1 = true) ∧ (k1.stack = d :: b :: a :: r))) (wSw 0x180 [7, 9, 5]) 0 2 ((kOf (wSw 0x180 [7, 9, 5]))) ((kOf (wSw 0x180 [7, 9, 5])))  5 9 7 [] 1) &&
    ((fun (s : State) (c len : Nat) (k k1 : Core) (f : Nat) (k2 : Core) (stall : Nat) => decide ((s.begins c none (.pick f) len k = true) ∧ (gives (k.need (f + 1)) k1 = true) ∧ (gives (k1.push (k1.stack.getD f 0)) k2 = true))) (wSw 0x1c1 [7, 9]) 0 2 ((kOf (wSw 0x1c1 [7, 9]))) ((kOf (wSw 0x1c1 [7, 9]))) 1 { (kOf (wSw 0x1c1 [7, 9])) with stack := [9, 7, 9] } 1)) = true := by decide +kernel

theorem witness_SwialeTwoOperandInstructionsComplete :
    (((fun (s : State) (c len : Nat) (k k1 : Core) (a b : Word) (r : List Word) (stall : Nat) => decide ((s.begins c none .add len k = true) ∧ (gives (k.need 2) k1 = true) ∧ (k1.stack = b :: a :: r))) (wSw 0x200 [7, 9]) 0 2 ((kOf (wSw 0x200 [7, 9]))) ((kOf (wSw 0x200 [7, 9])))  9 7 [] 1) &&
    ((fun (s : State) (c len : Nat) (k k1 : Core) (a b : Word) (r : List Word) (stall : Nat) => decide ((s.begins c none .sub len k = true) ∧ (gives (k.need 2) k1 = true) ∧ (k1.stack = b :: a :: r))) (wSw 0x240 [7, 9]) 0 2 ((kOf (wSw 0x240 [7, 9]))) ((kOf (wSw 0x240 [7, 9])))  9 7 [] 1) &&
    ((fun (s : State) (c len : Nat) (k k1 : Core) (a b : Word) (r : List Word) (stall : Nat) => decide ((s.begins c none .and len k = true) ∧ (gives (k.need 2) k1 = true) ∧ (k1.stack = b :: a :: r))) (wSw 0x300 [7, 9]) 0 2 ((kOf (wSw 0x300 [7, 9]))) ((kOf (wSw 0x300 [7, 9])))  9 7 [] 1) &&
    ((fun (s : State) (c len : Nat) (k k1 : Core) (a b : Word) (r : List Word) (stall : Nat) => decide ((s.begins c none .or len k = true) ∧ (gives (k.need 2) k1 = true) ∧ (k1.stack = b :: a :: r))) (wSw 0x340 [7, 9]) 0 2 ((kOf (wSw 0x340 [7, 9]))) ((kOf (wSw 0x340 [7, 9])))  9 7 [] 1) &&
    ((fun (s : State) (c len : Nat) (k k1 : Core) (a b : Word) (r : List Word) (stall : Nat) => decide ((s.begins c none .xor len k = true) ∧ (gives (k.need 2) k1 = true) ∧ (k1.stack = b :: a :: r))) (wSw 0x380 [7, 9]) 0 2 ((kOf (wSw 0x380 [7, 9]))) ((kOf (wSw 0x380 [7, 9])))  9 7 [] 1) &&
    ((fun (s : State) (c len : Nat) (k k1 : Core) (a b : Word) (r : List Word) (stall : Nat) => decide ((s.begins c none .min len k = true) ∧ (gives (k.need 2) k1 = true) ∧ (k1.stack = b :: a :: r))) (wSw 0x480 [7, 9]) 0 2 ((kOf (wSw 0x480 [7, 9]))) ((kOf (wSw 0x480 [7, 9])))  9 7 [] 1) &&
    ((fun (s : State) (c len : Nat) (k k1 : Core) (a b : Word) (r : List Word) (stall : Nat) => decide ((s.begins c none .max len k = true) ∧ (gives (k.need 2) k1 = true) ∧ (k1.stack = b :: a :: r))) (wSw 0x4c0 [7, 9]) 0 2 ((kOf (wSw 0x4c0 [7, 9]))) ((kOf (wSw 0x4c0 [7, 9])))  9 7 [] 1) &&
    ((fun (s : State) (c len : Nat) (k k1 : Core) (a b : Word) (r : List Word) (stall : Nat) => decide ((s.begins c none .slt len k = true) ∧ (gives (k.need 2) k1 = true) ∧ (k1.stack = b :: a :: r))) (wSw 0x500 [7, 9]) 0 2 ((kOf (wSw 0x500 [7, 9]))) ((kOf (wSw 0x500 [7, 9])))  9 7 [] 1) &&
    ((fun (s : State) (c len : Nat) (k k1 : Core) (a b : Word) (r : List Word) (stall : Nat) => decide ((s.begins c none .sltu len k = true) ∧ (gives (k.need 2) k1 = true) ∧ (k1.stack = b :: a :: r))) (wSw 0x540 [7, 9]) 0 2 ((kOf (wSw 0x540 [7, 9]))) ((kOf (wSw 0x540 [7, 9])))  9 7 [] 1) &&
    ((fun (s : State) (c len : Nat) (k k1 : Core) (a b : Word) (r : List Word) (stall : Nat) => decide ((s.begins c none .mul len k = true) ∧ (gives (k.need 2) k1 = true) ∧ (k1.stack = b :: a :: r))) (wSw 0x580 [7, 9]) 0 2 ((kOf (wSw 0x580 [7, 9]))) ((kOf (wSw 0x580 [7, 9])))  9 7 [] 1) &&
    ((fun (s : State) (c len : Nat) (k k1 : Core) (a b : Word) (r : List Word) (stall : Nat) => decide ((s.begins c none .mulh len k = true) ∧ (gives (k.need 2) k1 = true) ∧ (k1.stack = b :: a :: r))) (wSw 0x5c0 [7, 9]) 0 2 ((kOf (wSw 0x5c0 [7, 9]))) ((kOf (wSw 0x5c0 [7, 9])))  9 7 [] 1) &&
    ((fun (s : State) (c len : Nat) (k k1 : Core) (a b : Word) (r : List Word) (stall : Nat) => decide ((s.begins c none .mulhu len k = true) ∧ (gives (k.need 2) k1 = true) ∧ (k1.stack = b :: a :: r))) (wSw 0x600 [7, 9]) 0 2 ((kOf (wSw 0x600 [7, 9]))) ((kOf (wSw 0x600 [7, 9])))  9 7 [] 1)) = true := by decide +kernel

theorem witness_SwialeTwoOperandInstructionsComplete_2 :
    (((fun (s : State) (c len : Nat) (k k1 : Core) (a b : Word) (r : List Word) (stall : Nat) => decide ((s.begins c none .shlv len k = true) ∧ (gives (k.need 2) k1 = true) ∧ (k1.stack = b :: a :: r))) (wSw 0x700 [7, 9]) 0 2 ((kOf (wSw 0x700 [7, 9]))) ((kOf (wSw 0x700 [7, 9])))  9 7 [] 1) &&
    ((fun (s : State) (c len : Nat) (k k1 : Core) (a b : Word) (r : List Word) (stall : Nat) => decide ((s.begins c none .shrv len k = true) ∧ (gives (k.need 2) k1 = true) ∧ (k1.stack = b :: a :: r))) (wSw 0x740 [7, 9]) 0 2 ((kOf (wSw 0x740 [7, 9]))) ((kOf (wSw 0x740 [7, 9])))  9 7 [] 1) &&
    ((fun (s : State) (c len : Nat) (k k1 : Core) (a b : Word) (r : List Word) (stall : Nat) => decide ((s.begins c none .sarv len k = true) ∧ (gives (k.need 2) k1 = true) ∧ (k1.stack = b :: a :: r))) (wSw 0x780 [7, 9]) 0 2 ((kOf (wSw 0x780 [7, 9]))) ((kOf (wSw 0x780 [7, 9])))  9 7 [] 1) &&
    ((fun (s : State) (c len : Nat) (k k1 : Core) (a b : Word) (r : List Word) (stall : Nat) => decide ((s.begins c none .adds len k = true) ∧ (gives (k.need 2) k1 = true) ∧ (k1.stack = b :: a :: r))) (wSw 0x280 [7, 9]) 0 2 ((kOf (wSw 0x280 [7, 9]))) ((kOf (wSw 0x280 [7, 9])))  9 7 [] 1) &&
    ((fun (s : State) (c len : Nat) (k k1 : Core) (a b : Word) (r : List Word) (stall : Nat) => decide ((s.begins c none .subs len k = true) ∧ (gives (k.need 2) k1 = true) ∧ (k1.stack = b :: a :: r))) (wSw 0x2c0 [7, 9]) 0 2 ((kOf (wSw 0x2c0 [7, 9]))) ((kOf (wSw 0x2c0 [7, 9])))  9 7 [] 1)) = true := by decide +kernel

theorem witness_SwialeOneOperandInstructionsComplete :
    (((fun (s : State) (c len : Nat) (k k1 : Core) (a : Word) (r : List Word) (stall : Nat) => decide ((s.begins c none .not len k = true) ∧ (gives (k.need 1) k1 = true) ∧ (k1.stack = a :: r))) (wSw 0x3c0 [7, 9]) 0 2 ((kOf (wSw 0x3c0 [7, 9]))) ((kOf (wSw 0x3c0 [7, 9])))  7 [9] 1) &&
    ((fun (s : State) (c len : Nat) (k k1 : Core) (a : Word) (r : List Word) (stall : Nat) => decide ((s.begins c none .neg len k = true) ∧ (gives (k.need 1) k1 = true) ∧ (k1.stack = a :: r))) (wSw 0x400 [7, 9]) 0 2 ((kOf (wSw 0x400 [7, 9]))) ((kOf (wSw 0x400 [7, 9])))  7 [9] 1) &&
    ((fun (s : State) (c len : Nat) (k k1 : Core) (f : Nat) (a : Word) (r : List Word) (stall : Nat) => decide ((s.begins c none (.shl f) len k = true) ∧ (gives (k.need 1) k1 = true) ∧ (k1.stack = a :: r))) (wSw 0x643 [7, 9]) 0 2 ((kOf (wSw 0x643 [7, 9]))) ((kOf (wSw 0x643 [7, 9]))) 3 7 [9] 1) &&
    ((fun (s : State) (c len : Nat) (k k1 : Core) (f : Nat) (a : Word) (r : List Word) (stall : Nat) => decide ((s.begins c none (.shr f) len k = true) ∧ (gives (k.need 1) k1 = true) ∧ (k1.stack = a :: r))) (wSw 0x683 [7, 9]) 0 2 ((kOf (wSw 0x683 [7, 9]))) ((kOf (wSw 0x683 [7, 9]))) 3 7 [9] 1) &&
    ((fun (s : State) (c len : Nat) (k k1 : Core) (f : Nat) (a : Word) (r : List Word) (stall : Nat) => decide ((s.begins c none (.sar f) len k = true) ∧ (gives (k.need 1) k1 = true) ∧ (k1.stack = a :: r))) (wSw 0x6c3 [7, 9]) 0 2 ((kOf (wSw 0x6c3 [7, 9]))) ((kOf (wSw 0x6c3 [7, 9]))) 3 7 [9] 1) &&
    ((fun (s : State) (c len : Nat) (k k1 : Core) (f : Nat) (a : Word) (r : List Word) (stall : Nat) => decide ((s.begins c none (.sext f) len k = true) ∧ (gives (k.need 1) k1 = true) ∧ (k1.stack = a :: r))) (wSw 0x7c3 [7, 9]) 0 2 ((kOf (wSw 0x7c3 [7, 9]))) ((kOf (wSw 0x7c3 [7, 9]))) 3 7 [9] 1) &&
    ((fun (s : State) (c len : Nat) (k k1 : Core) (a : Word) (r : List Word) (stall : Nat) => decide ((s.begins c none .exp len k = true) ∧ (gives (k.need 1) k1 = true) ∧ (k1.stack = a :: r))) (wSw 0x800 [7, 9]) 0 2 ((kOf (wSw 0x800 [7, 9]))) ((kOf (wSw 0x800 [7, 9])))  7 [9] 1) &&
    ((fun (s : State) (c len : Nat) (k k1 : Core) (a : Word) (r : List Word) (stall : Nat) => decide ((s.begins c none .abs len k = true) ∧ (gives (k.need 1) k1 = true) ∧ (k1.stack = a :: r))) (wSw 0x440 [7, 9]) 0 2 ((kOf (wSw 0x440 [7, 9]))) ((kOf (wSw 0x440 [7, 9])))  7 [9] 1) &&
    ((fun (s : State) (c len : Nat) (k k1 : Core) (a : Word) (r : List Word) (k2 : Core) (stall : Nat) => decide ((s.begins c none .norm len k = true) ∧ (gives (k.need 1) k1 = true) ∧ (k1.stack = a :: r) ∧ (gives (({ k1 with stack := (a <<< redundant 32 a.toInt) :: r } : Core).push (BitVec.ofNat 32 (redundant 32 a.toInt))) k2 = true))) (wSw 0x840 [7, 9]) 0 2 ((kOf (wSw 0x840 [7, 9]))) ((kOf (wSw 0x840 [7, 9])))  7 [9] { (kOf (wSw 0x840 [7, 9])) with stack := [28, 7 <<< 28, 9] } 1) &&
    ((fun (s : State) (c len : Nat) (k k1 : Core) (v : Int) (a : Word) (r : List Word) (stall : Nat) => decide ((s.begins c none (.addi v) len k = true) ∧ (gives (k.need 1) k1 = true) ∧ (k1.stack = a :: r))) (wSw 0x5c200 [7, 9]) 0 4 ((kOf (wSw 0x5c200 [7, 9]))) ((kOf (wSw 0x5c200 [7, 9]))) 5 7 [9] 1)) = true := by decide +kernel

theorem witness_SwialeLiteralAndRegisterInstructionsComplete :
    (((fun (s : State) (c len : Nat) (k k1 : Core) (v : Int) (k2 : Core) (stall : Nat) => decide ((s.begins c none (.pushi v) len k = true) ∧ (k1 = k) ∧ (gives (k1.push (BitVec.ofInt 32 v)) k2 = true))) (wSw 0x1005 [7, 9]) 0 2 ((kOf (wSw 0x1005 [7, 9]))) ((kOf (wSw 0x1005 [7, 9]))) 5 { (kOf (wSw 0x1005 [7, 9])) with stack := [5, 7, 9] } 1) &&
    ((fun (s : State) (c len : Nat) (k k1 : Core) (v : Int) (k2 : Core) (stall : Nat) => decide ((s.begins c none (.pushl24 v) len k = true) ∧ (k1 = k) ∧ (gives (k1.push (BitVec.ofInt 32 v)) k2 = true))) (wSw 0x5c000 [7, 9]) 0 4 ((kOf (wSw 0x5c000 [7, 9]))) ((kOf (wSw 0x5c000 [7, 9]))) 5 { (kOf (wSw 0x5c000 [7, 9])) with stack := [5, 7, 9] } 1) &&
    ((fun (s : State) (c len : Nat) (k k1 : Core) (v : Nat) (k2 : Core) (stall : Nat) => decide ((s.begins c none (.lui v) len k = true) ∧ (k1 = k) ∧ (gives (k1.push (BitVec.ofNat 32 (v * 256))) k2 = true))) (wSw 0x5c100 [7, 9]) 0 4 ((kOf (wSw 0x5c100 [7, 9]))) ((kOf (wSw 0x5c100 [7, 9]))) 5 { (kOf (wSw 0x5c100 [7, 9])) with stack := [1280, 7, 9] } 1) &&
    ((fun (s : State) (c len : Nat) (k k1 : Core) (n : Nat) (k2 : Core) (stall : Nat) => decide ((s.begins c none (.pusha n) len k = true) ∧ (k1 = k) ∧ (gives (k1.push (BitVec.ofNat 32 (k1.a.getD n 0))) k2 = true))) (wSw 0x40c0 [7, 9]) 0 2 ((kOf (wSw 0x40c0 [7, 9]))) ((kOf (wSw 0x40c0 [7, 9]))) 3 { (kOf (wSw 0x40c0 [7, 9])) with stack := [0, 7, 9] } 1) &&
    ((fun (s : State) (c len : Nat) (k k1 : Core) (n : Nat) (k2 : Core) (stall : Nat) => decide ((s.begins c none (.pushm n) len k = true) ∧ (k1 = k) ∧ (gives (k1.push (BitVec.ofInt 32 (signed 16 (k1.m.getD n 0)))) k2 = true))) (wSw 0x44c0 [7, 9]) 0 2 ((kOf (wSw 0x44c0 [7, 9]))) ((kOf (wSw 0x44c0 [7, 9]))) 3 { (kOf (wSw 0x44c0 [7, 9])) with stack := [0, 7, 9] } 1) &&
    ((fun (s : State) (c len : Nat) (k k1 : Core) (n : Nat) (k2 : Core) (stall : Nat) => decide ((s.begins c none (.pushl n) len k = true) ∧ (k1 = k) ∧ (gives (k1.push (BitVec.ofNat 32 (k1.l.getD n 0))) k2 = true))) (wSw 0x48c0 [7, 9]) 0 2 ((kOf (wSw 0x48c0 [7, 9]))) ((kOf (wSw 0x48c0 [7, 9]))) 3 { (kOf (wSw 0x48c0 [7, 9])) with stack := [0, 7, 9] } 1) &&
    ((fun (s : State) (c len : Nat) (k k1 : Core) (n : Nat) (w : Word) (r : List Word) (stall : Nat) => decide ((s.begins c none (.popa n) len k = true) ∧ (gives (k.need 1) k1 = true) ∧ (k1.stack = w :: r))) (wSw 0x42c0 [7, 9]) 0 2 ((kOf (wSw 0x42c0 [7, 9]))) ((kOf (wSw 0x42c0 [7, 9]))) 3 7 [9] 1) &&
    ((fun (s : State) (c len : Nat) (k k1 : Core) (n : Nat) (w : Word) (r : List Word) (stall : Nat) => decide ((s.begins c none (.popm n) len k = true) ∧ (gives (k.need 1) k1 = true) ∧ (k1.stack = w :: r))) (wSw 0x46c0 [7, 9]) 0 2 ((kOf (wSw 0x46c0 [7, 9]))) ((kOf (wSw 0x46c0 [7, 9]))) 3 7 [9] 1) &&
    ((fun (s : State) (c len : Nat) (k k1 : Core) (n : Nat) (w : Word) (r : List Word) (stall : Nat) => decide ((s.begins c none (.popl n) len k = true) ∧ (gives (k.need 1) k1 = true) ∧ (k1.stack = w :: r))) (wSw 0x4ac0 [7, 9]) 0 2 ((kOf (wSw 0x4ac0 [7, 9]))) ((kOf (wSw 0x4ac0 [7, 9]))) 3 7 [9] 1) &&
    ((fun (s : State) (c len : Nat) (k k1 : Core) (n : Nat) (v : Int) (stall : Nat) => decide ((s.begins c none (.adda n v) len k = true) ∧ (k1 = k))) (wSw 0x4cc5 [7, 9]) 0 2 ((kOf (wSw 0x4cc5 [7, 9]))) ((kOf (wSw 0x4cc5 [7, 9]))) 3 5 1) &&
    ((fun (s : State) (c len : Nat) (k k1 : Core) (n : Nat) (k2 : Core) (stall : Nat) => decide ((s.begins c none (.mfcr n) len k = true) ∧ (k1 = k) ∧ (gives (k1.push (k1.crRead (s.coreIpend c) (c + 1) n)) k2 = true))) (wSw 0x5d000 [7, 9]) 0 4 ((kOf (wSw 0x5d000 [7, 9]))) ((kOf (wSw 0x5d000 [7, 9]))) 5 { (kOf (wSw 0x5d000 [7, 9])) with stack := [0, 7, 9] } 1) &&
    ((fun (s : State) (c len : Nat) (k k1 : Core) (n : Nat) (w : Word) (r : List Word) (stall : Nat) => decide ((s.begins c none (.mtcr n) len k = true) ∧ (gives (k.need 1) k1 = true) ∧ (k1.stack = w :: r) ∧ (n = 0))) (wSw 0xd200 [7, 9]) 0 4 ((kOf (wSw 0xd200 [7, 9]))) ((kOf (wSw 0xd200 [7, 9]))) 0 7 [9] 1)) = true := by decide +kernel

theorem witness_SwialeLiteralAndRegisterInstructionsComplete_2 :
    (((fun (s : State) (c len : Nat) (k k1 : Core) (n : Nat) (w : Word) (r : List Word) (stall : Nat) => decide ((s.begins c none (.mtcr n) len k = true) ∧ (gives (k.need 1) k1 = true) ∧ (k1.stack = w :: r) ∧ (n = 5))) (wSw 0x5d200 [7, 9]) 0 4 ((kOf (wSw 0x5d200 [7, 9]))) ((kOf (wSw 0x5d200 [7, 9]))) 5 7 [9] 1) &&
    ((fun (s : State) (c len : Nat) (k k1 : Core) (n : Nat) (w : Word) (r : List Word) (stall : Nat) => decide ((s.begins c none (.mtcr n) len k = true) ∧ (gives (k.need 1) k1 = true) ∧ (k1.stack = w :: r) ∧ (n = 6))) (wSw 0x6d200 [7, 9]) 0 4 ((kOf (wSw 0x6d200 [7, 9]))) ((kOf (wSw 0x6d200 [7, 9]))) 6 7 [9] 1) &&
    ((fun (s : State) (c len : Nat) (k k1 : Core) (n : Nat) (w : Word) (r : List Word) (stall : Nat) => decide ((s.begins c none (.mtcr n) len k = true) ∧ (gives (k.need 1) k1 = true) ∧ (k1.stack = w :: r) ∧ (n = 9))) (wSw 0x9d200 [7, 9]) 0 4 ((kOf (wSw 0x9d200 [7, 9]))) ((kOf (wSw 0x9d200 [7, 9]))) 9 7 [9] 1) &&
    ((fun (s : State) (c len : Nat) (k k1 : Core) (n : Nat) (w : Word) (r : List Word) (stall : Nat) => decide ((s.begins c none (.mtcr n) len k = true) ∧ (gives (k.need 1) k1 = true) ∧ (k1.stack = w :: r) ∧ (n = 11))) (wSw 0xbd200 [7, 9]) 0 4 ((kOf (wSw 0xbd200 [7, 9]))) ((kOf (wSw 0xbd200 [7, 9]))) 11 7 [9] 1) &&
    ((fun (s : State) (c len : Nat) (k k1 : Core) (n : Nat) (w : Word) (r : List Word) (e : LoopEntry) (es : List LoopEntry) (stall : Nat) => decide ((s.begins c none (.mtcr n) len k = true) ∧ (gives (k.need 1) k1 = true) ∧ (k1.stack = w :: r) ∧ (n = 12) ∧ (k1.loops = e :: es))) (wSw 0xcd200 [7, 9] |> wLoop) 0 4 ((kOf (wSw 0xcd200 [7, 9] |> wLoop))) ((kOf (wSw 0xcd200 [7, 9] |> wLoop))) 12 7 [9] ⟨0x500, 0x600, 2⟩ [] 1) &&
    ((fun (s : State) (c len : Nat) (k k1 : Core) (n : Nat) (w : Word) (r : List Word) (e : LoopEntry) (es : List LoopEntry) (stall : Nat) => decide ((s.begins c none (.mtcr n) len k = true) ∧ (gives (k.need 1) k1 = true) ∧ (k1.stack = w :: r) ∧ (n = 13) ∧ (k1.loops = e :: es))) (wSw 0xdd200 [7, 9] |> wLoop) 0 4 ((kOf (wSw 0xdd200 [7, 9] |> wLoop))) ((kOf (wSw 0xdd200 [7, 9] |> wLoop))) 13 7 [9] ⟨0x500, 0x600, 2⟩ [] 1) &&
    ((fun (s : State) (c len : Nat) (k k1 : Core) (n : Nat) (w : Word) (r : List Word) (e : LoopEntry) (es : List LoopEntry) (stall : Nat) => decide ((s.begins c none (.mtcr n) len k = true) ∧ (gives (k.need 1) k1 = true) ∧ (k1.stack = w :: r) ∧ (n = 14) ∧ (k1.loops = e :: es))) (wSw 0xed200 [7, 9] |> wLoop) 0 4 ((kOf (wSw 0xed200 [7, 9] |> wLoop))) ((kOf (wSw 0xed200 [7, 9] |> wLoop))) 14 7 [9] ⟨0x500, 0x600, 2⟩ [] 1) &&
    ((fun (s : State) (c len : Nat) (k k1 : Core) (n : Nat) (w : Word) (r : List Word) (k2 : Core) (stall : Nat) => decide ((s.begins c none (.mtcr n) len k = true) ∧ (gives (k.need 1) k1 = true) ∧ (k1.stack = w :: r) ∧ (n = 1) ∧ (gives ({ k1 with stack := r } : Core).settle k2 = true))) (wSw 0x1d200 [7]) 0 4 ((kOf (wSw 0x1d200 [7]))) ((kOf (wSw 0x1d200 [7]))) 1 7 [] { (kOf (wSw 0x1d200 [7])) with stack := [] } 1) &&
    ((fun (s : State) (c len : Nat) (k k1 : Core) (n : Nat) (w : Word) (r : List Word) (k2 : Core) (stall : Nat) => decide ((s.begins c none (.mtcr n) len k = true) ∧ (gives (k.need 1) k1 = true) ∧ (k1.stack = w :: r) ∧ (n = 2) ∧ (gives ({ k1 with stack := r } : Core).settle k2 = true))) (wSw 0x2d200 [7]) 0 4 ((kOf (wSw 0x2d200 [7]))) ((kOf (wSw 0x2d200 [7]))) 2 7 [] { (kOf (wSw 0x2d200 [7])) with stack := [] } 1) &&
    ((fun (s : State) (c len : Nat) (k k1 : Core) (n : Nat) (w : Word) (r : List Word) (k2 : Core) (stall : Nat) => decide ((s.begins c none (.mtcr n) len k = true) ∧ (gives (k.need 1) k1 = true) ∧ (k1.stack = w :: r) ∧ (n = 3) ∧ (gives ({ k1 with stack := r } : Core).settle k2 = true))) (wSw 0x3d200 [7]) 0 4 ((kOf (wSw 0x3d200 [7]))) ((kOf (wSw 0x3d200 [7]))) 3 7 [] { (kOf (wSw 0x3d200 [7])) with stack := [] } 1) &&
    ((fun (s : State) (c len : Nat) (k k1 : Core) (n : Nat) (w : Word) (r : List Word) (k2 : Core) (stall : Nat) => decide ((s.begins c none (.mtcr n) len k = true) ∧ (gives (k.need 1) k1 = true) ∧ (k1.stack = w :: r) ∧ (n = 4) ∧ (gives ({ k1 with stack := r } : Core).settle k2 = true))) (wSw 0x4d200 [7]) 0 4 ((kOf (wSw 0x4d200 [7]))) ((kOf (wSw 0x4d200 [7]))) 4 7 [] { (kOf (wSw 0x4d200 [7])) with stack := [] } 1) &&
    ((fun (s : State) (c len : Nat) (k k1 : Core) (n : Nat) (w : Word) (r : List Word) (stall : Nat) => decide ((s.begins c none (.mtcr n) len k = true) ∧ (gives (k.need 1) k1 = true) ∧ (k1.stack = w :: r) ∧ (n = 17))) (wSw 0x11d200 [0x4B1C]) 0 4 ((kOf (wSw 0x11d200 [0x4B1C]))) ((kOf (wSw 0x11d200 [0x4B1C]))) 17 0x4B1C [] 1)) = true := by decide +kernel

theorem witness_SwialeMemoryInstructionsComplete :
    (((fun (s : State) (c len : Nat) (k k1 : Core) (sz a m : Nat) (k2 : Core) (ecc : Option (Nat × Bool)) (stall : Nat) => decide ((s.begins c ecc (.ld sz a m false) len k = true) ∧ (k1 = k) ∧ (gives (k1.loadAt (Core.aMem a) (k1.a.getD a 0) sz) k2 = true))) (wSw 0x2060 [7, 9]) 0 2 ((kOf (wSw 0x2060 [7, 9]))) ((kOf (wSw 0x2060 [7, 9]))) 0 3 0 { (kOf (wSw 0x2060 [7, 9])) with stack := [0, 7, 9] } none 1) &&
    ((fun (s : State) (c len : Nat) (k k1 : Core) (sz a m : Nat) (k2 : Core) (ecc : Option (Nat × Bool)) (stall : Nat) => decide ((s.begins c ecc (.ld sz a m true) len k = true) ∧ (k1 = k) ∧ (gives (k1.loadAt (Core.aMem a) (k1.a.getD a 0) sz) k2 = true))) (wSw 0x2066 [7, 9]) 0 2 ((kOf (wSw 0x2066 [7, 9]))) ((kOf (wSw 0x2066 [7, 9]))) 0 3 1 { (kOf (wSw 0x2066 [7, 9])) with stack := [0, 7, 9] } none 1) &&
    ((fun (s : State) (c len : Nat) (k k1 : Core) (sz a m : Nat) (w : Word) (r : List Word) (stall : Nat) => decide ((s.begins c none (.st sz a m false) len k = true) ∧ (gives (k.need 1) k1 = true) ∧ (k1.stack = w :: r) ∧ (k1.a.getD a 0 % swSize sz = 0))) (wSw 0x2860 [7, 9]) 0 2 ((kOf (wSw 0x2860 [7, 9]))) ((kOf (wSw 0x2860 [7, 9]))) 0 3 0 7 [9] 1) &&
    ((fun (s : State) (c len : Nat) (k k1 : Core) (sz a m : Nat) (w : Word) (r : List Word) (stall : Nat) => decide ((s.begins c none (.st sz a m true) len k = true) ∧ (gives (k.need 1) k1 = true) ∧ (k1.stack = w :: r) ∧ (k1.a.getD a 0 % swSize sz = 0))) (wSw 0x2866 [7, 9]) 0 2 ((kOf (wSw 0x2866 [7, 9]))) ((kOf (wSw 0x2866 [7, 9]))) 0 3 1 7 [9] 1) &&
    ((fun (s : State) (c len : Nat) (k k1 : Core) (y : Bool) (sz off : Nat) (k2 : Core) (ecc : Option (Nat × Bool)) (stall : Nat) => decide ((s.begins c ecc (.ldx y sz off) len k = true) ∧ (k1 = k) ∧ (gives (k1.loadAt (if y then .y else .x) off sz) k2 = true))) (wSw 0x10da00 [7, 9]) 0 4 ((kOf (wSw 0x10da00 [7, 9]))) ((kOf (wSw 0x10da00 [7, 9]))) true 0 16 { (kOf (wSw 0x10da00 [7, 9])) with stack := [0, 7, 9] } none 1) &&
    ((fun (s : State) (c len : Nat) (k k1 : Core) (y : Bool) (sz off : Nat) (w : Word) (r : List Word) (stall : Nat) => decide ((s.begins c none (.stx y sz off) len k = true) ∧ (gives (k.need 1) k1 = true) ∧ (k1.stack = w :: r) ∧ (off % swSize sz = 0))) (wSw 0x10db00 [7, 9]) 0 4 ((kOf (wSw 0x10db00 [7, 9]))) ((kOf (wSw 0x10db00 [7, 9]))) true 0 16 7 [9] 1) &&
    ((fun (s : State) (c len : Nat) (k k1 : Core) (sz : Nat) (disp : Int) (w : Word) (r : List Word) (ecc : Option (Nat × Bool)) (stall : Nat) => decide ((s.begins c ecc (.ldf sz disp) len k = true) ∧ (gives (k.need 1) k1 = true) ∧ (k1.stack = w :: r) ∧ (localOf ((w.toNat + disp) % 4294967296).toNat = none) ∧ (({ k1 with stack := r } : Core).loadWaits ((w.toNat + disp) % 4294967296).toNat = false))) (wSw 0x10dc00 [0x20A00000, 9]) 0 4 ((kOf (wSw 0x10dc00 [0x20A00000, 9]))) ((kOf (wSw 0x10dc00 [0x20A00000, 9]))) 0 16 0x20A00000 [9] none 1) &&
    ((fun (s : State) (c len : Nat) (k k1 : Core) (sz : Nat) (disp : Int) (w : Word) (r : List Word) (m : LocalMem) (off : Nat) (k2 : Core) (ecc : Option (Nat × Bool)) (stall : Nat) => decide ((s.begins c ecc (.ldf sz disp) len k = true) ∧ (gives (k.need 1) k1 = true) ∧ (k1.stack = w :: r) ∧ (localOf ((w.toNat + disp) % 4294967296).toNat = some (m, off)) ∧ (gives (({ k1 with stack := r } : Core).loadAt m off sz) k2 = true))) (wSw 0x10dc00 [0x10020000, 9]) 0 4 ((kOf (wSw 0x10dc00 [0x10020000, 9]))) ((kOf (wSw 0x10dc00 [0x10020000, 9]))) 0 16 0x10020000 [9] .x 16 { (kOf (wSw 0x10dc00 [0x10020000, 9])) with stack := [0, 9] } none 1) &&
    ((fun (s : State) (c len : Nat) (k k1 : Core) (sz : Nat) (disp : Int) (w v : Word) (r : List Word) (stall : Nat) => decide ((s.begins c none (.stf sz disp) len k = true) ∧ (gives (k.need 2) k1 = true) ∧ (k1.stack = w :: v :: r) ∧ (localOf ((w.toNat + disp) % 4294967296).toNat = none) ∧ (k1.wbuf.length < 4))) (wSw 0x10de00 [0x20A00000, 9, 3]) 0 4 ((kOf (wSw 0x10de00 [0x20A00000, 9, 3]))) ((kOf (wSw 0x10de00 [0x20A00000, 9, 3]))) 0 16 0x20A00000 9 [3] 0) &&
    ((fun (s : State) (c len : Nat) (k k1 : Core) (sz : Nat) (disp : Int) (w v : Word) (r : List Word) (m : LocalMem) (off : Nat) (stall : Nat) => decide ((s.begins c none (.stf sz disp) len k = true) ∧ (gives (k.need 2) k1 = true) ∧ (k1.stack = w :: v :: r) ∧ (localOf ((w.toNat + disp) % 4294967296).toNat = some (m, off)) ∧ (m ≠ .i) ∧ (off % swSize sz = 0))) (wSw 0x10de00 [0x10020000, 9, 3]) 0 4 ((kOf (wSw 0x10de00 [0x10020000, 9, 3]))) ((kOf (wSw 0x10de00 [0x10020000, 9, 3]))) 0 16 0x10020000 9 [3] .x 16 0)) = true := by decide +kernel

theorem witness_SwialeAccumulatorInstructionsComplete :
    (((fun (s : State) (c len : Nat) (k k1 : Core) (acc ax ay mx my : Nat) (xv yv : Nat) (x y : Int) (kx k2 : Core) (ecc : Option (Nat × Bool)) (stall : Nat) => decide ((s.begins c ecc (.mac acc ax ay mx my) len k = true) ∧ (k1 = k) ∧ (gives (k.readLocal .x (k.a.getD ax 0) 4) (xv, kx) = true) ∧ (gives (kx.readLocal .y (k.a.getD ay 0) 4) (yv, k2) = true) ∧ (x = signed 32 xv) ∧ (y = signed 32 yv))) (wSw 0x319e []) 0 2 ((kOf (wSw 0x319e []))) ((kOf (wSw 0x319e []))) 1 2 5 3 6 0 0 0 0 (kOf (wSw 0x319e [])) (kOf (wSw 0x319e [])) none 1) &&
    ((fun (s : State) (c len : Nat) (k k1 : Core) (acc ax ay mx my : Nat) (xv yv : Nat) (x y : Int) (kx k2 : Core) (ecc : Option (Nat × Bool)) (stall : Nat) => decide ((s.begins c ecc (.msu acc ax ay mx my) len k = true) ∧ (k1 = k) ∧ (gives (k.readLocal .x (k.a.getD ax 0) 4) (xv, kx) = true) ∧ (gives (kx.readLocal .y (k.a.getD ay 0) 4) (yv, k2) = true) ∧ (x = signed 32 xv) ∧ (y = signed 32 yv))) (wSw 0x339e []) 0 2 ((kOf (wSw 0x339e []))) ((kOf (wSw 0x339e []))) 1 2 5 3 6 0 0 0 0 (kOf (wSw 0x339e [])) (kOf (wSw 0x339e [])) none 1) &&
    ((fun (s : State) (c len : Nat) (k k1 : Core) (acc ax ay mx my : Nat) (xv yv : Nat) (x y : Int) (kx k2 : Core) (ecc : Option (Nat × Bool)) (stall : Nat) => decide ((s.begins c ecc (.mpy acc ax ay mx my) len k = true) ∧ (k1 = k) ∧ (gives (k.readLocal .x (k.a.getD ax 0) 4) (xv, kx) = true) ∧ (gives (kx.readLocal .y (k.a.getD ay 0) 4) (yv, k2) = true) ∧ (x = signed 32 xv) ∧ (y = signed 32 yv))) (wSw 0x359e []) 0 2 ((kOf (wSw 0x359e []))) ((kOf (wSw 0x359e []))) 1 2 5 3 6 0 0 0 0 (kOf (wSw 0x359e [])) (kOf (wSw 0x359e [])) none 1) &&
    ((fun (s : State) (c len : Nat) (k k1 : Core) (acc ax ay mx my : Nat) (xv yv : Nat) (x y : Int) (kx k2 : Core) (ecc : Option (Nat × Bool)) (stall : Nat) => decide ((s.begins c ecc (.mpyn acc ax ay mx my) len k = true) ∧ (k1 = k) ∧ (gives (k.readLocal .x (k.a.getD ax 0) 4) (xv, kx) = true) ∧ (gives (kx.readLocal .y (k.a.getD ay 0) 4) (yv, k2) = true) ∧ (x = signed 32 xv) ∧ (y = signed 32 yv))) (wSw 0x379e []) 0 2 ((kOf (wSw 0x379e []))) ((kOf (wSw 0x379e []))) 1 2 5 3 6 0 0 0 0 (kOf (wSw 0x379e [])) (kOf (wSw 0x379e [])) none 1) &&
    ((fun (s : State) (c len : Nat) (k k1 : Core) (acc : Nat) (a b : Word) (r : List Word) (stall : Nat) => decide ((s.begins c none (.macs acc) len k = true) ∧ (gives (k.need 2) k1 = true) ∧ (k1.stack = b :: a :: r))) (wSw 0x5180 [7, 9]) 0 2 ((kOf (wSw 0x5180 [7, 9]))) ((kOf (wSw 0x5180 [7, 9]))) 1 9 7 [] 1) &&
    ((fun (s : State) (c len : Nat) (k k1 : Core) (acc : Nat) (a b : Word) (r : List Word) (stall : Nat) => decide ((s.begins c none (.msus acc) len k = true) ∧ (gives (k.need 2) k1 = true) ∧ (k1.stack = b :: a :: r))) (wSw 0x5280 [7, 9]) 0 2 ((kOf (wSw 0x5280 [7, 9]))) ((kOf (wSw 0x5280 [7, 9]))) 1 9 7 [] 1) &&
    ((fun (s : State) (c len : Nat) (k k1 : Core) (acc : Nat) (a b : Word) (r : List Word) (stall : Nat) => decide ((s.begins c none (.mpys acc) len k = true) ∧ (gives (k.need 2) k1 = true) ∧ (k1.stack = b :: a :: r))) (wSw 0x5380 [7, 9]) 0 2 ((kOf (wSw 0x5380 [7, 9]))) ((kOf (wSw 0x5380 [7, 9]))) 1 9 7 [] 1) &&
    ((fun (s : State) (c len : Nat) (k k1 : Core) (acc sh : Nat) (a : Word) (r : List Word) (stall : Nat) => decide ((s.begins c none (.lda acc sh) len k = true) ∧ (gives (k.need 1) k1 = true) ∧ (k1.stack = a :: r))) (wSw 0x5483 [7, 9]) 0 2 ((kOf (wSw 0x5483 [7, 9]))) ((kOf (wSw 0x5483 [7, 9]))) 1 3 7 [9] 1) &&
    ((fun (s : State) (c len : Nat) (k k1 : Core) (acc sh : Nat) (a : Word) (r : List Word) (stall : Nat) => decide ((s.begins c none (.accadd acc sh) len k = true) ∧ (gives (k.need 1) k1 = true) ∧ (k1.stack = a :: r))) (wSw 0x5583 [7, 9]) 0 2 ((kOf (wSw 0x5583 [7, 9]))) ((kOf (wSw 0x5583 [7, 9]))) 1 3 7 [9] 1) &&
    ((fun (s : State) (c len : Nat) (k k1 : Core) (acc sh : Nat) (a : Word) (r : List Word) (stall : Nat) => decide ((s.begins c none (.accsub acc sh) len k = true) ∧ (gives (k.need 1) k1 = true) ∧ (k1.stack = a :: r))) (wSw 0x5683 [7, 9]) 0 2 ((kOf (wSw 0x5683 [7, 9]))) ((kOf (wSw 0x5683 [7, 9]))) 1 3 7 [9] 1) &&
    ((fun (s : State) (c len : Nat) (k k1 : Core) (acc : Nat) (stall : Nat) => decide ((s.begins c none (.clr acc) len k = true) ∧ (k1 = k))) (wSw 0x5080 []) 0 2 ((kOf (wSw 0x5080 []))) ((kOf (wSw 0x5080 []))) 1 1) &&
    ((fun (s : State) (c len : Nat) (k k1 : Core) (acc : Nat) (stall : Nat) => decide ((s.begins c none (.nega acc) len k = true) ∧ (k1 = k))) (wSw 0x5780 []) 0 2 ((kOf (wSw 0x5780 []))) ((kOf (wSw 0x5780 []))) 1 1)) = true := by decide +kernel

theorem witness_SwialeAccumulatorInstructionsComplete_2 :
    (((fun (s : State) (c len : Nat) (k k1 : Core) (acc : Nat) (stall : Nat) => decide ((s.begins c none (.mova acc) len k = true) ∧ (k1 = k))) (wSw 0x5880 []) 0 2 ((kOf (wSw 0x5880 []))) ((kOf (wSw 0x5880 []))) 1 1) &&
    ((fun (s : State) (c len : Nat) (k k1 : Core) (acc sh : Nat) (stall : Nat) => decide ((s.begins c none (.sra acc sh) len k = true) ∧ (k1 = k))) (wSw 0x5983 []) 0 2 ((kOf (wSw 0x5983 []))) ((kOf (wSw 0x5983 []))) 1 3 1) &&
    ((fun (s : State) (c len : Nat) (k k1 : Core) (acc : Nat) (k2 : Core) (stall : Nat) => decide ((s.begins c none (.expa acc) len k = true) ∧ (k1 = k) ∧ (gives (k1.push (BitVec.ofNat 32 (redundant 72 (k1.accOf acc)))) k2 = true))) (wSw 0x5a80 [7, 9]) 0 2 ((kOf (wSw 0x5a80 [7, 9]))) ((kOf (wSw 0x5a80 [7, 9]))) 1 { (kOf (wSw 0x5a80 [7, 9])) with stack := [71, 7, 9] } 1) &&
    ((fun (s : State) (c len : Nat) (k k1 : Core) (acc : Nat) (k2 : Core) (stall : Nat) => decide ((s.begins c none (.pushal acc) len k = true) ∧ (k1 = k) ∧ (gives (k1.push (BitVec.ofInt 32 (k1.accOf acc))) k2 = true))) (wSw 0x5c80 [7, 9]) 0 2 ((kOf (wSw 0x5c80 [7, 9]))) ((kOf (wSw 0x5c80 [7, 9]))) 1 { (kOf (wSw 0x5c80 [7, 9])) with stack := [0, 7, 9] } 1) &&
    ((fun (s : State) (c len : Nat) (k k1 : Core) (acc : Nat) (k2 : Core) (stall : Nat) => decide ((s.begins c none (.pushah acc) len k = true) ∧ (k1 = k) ∧ (gives (k1.push (BitVec.ofInt 32 (k1.accOf acc / 2 ^ 32))) k2 = true))) (wSw 0x5d80 [7, 9]) 0 2 ((kOf (wSw 0x5d80 [7, 9]))) ((kOf (wSw 0x5d80 [7, 9]))) 1 { (kOf (wSw 0x5d80 [7, 9])) with stack := [0, 7, 9] } 1) &&
    ((fun (s : State) (c len : Nat) (k k1 : Core) (acc : Nat) (k2 : Core) (stall : Nat) => decide ((s.begins c none (.pushag acc) len k = true) ∧ (k1 = k) ∧ (gives (k1.push (BitVec.ofInt 32 (k1.accOf acc / 2 ^ 64))) k2 = true))) (wSw 0x5e80 [7, 9]) 0 2 ((kOf (wSw 0x5e80 [7, 9]))) ((kOf (wSw 0x5e80 [7, 9]))) 1 { (kOf (wSw 0x5e80 [7, 9])) with stack := [0, 7, 9] } 1) &&
    ((fun (s : State) (c len : Nat) (k k1 : Core) (acc : Nat) (k2 : Core) (stall : Nat) => decide ((s.begins c none (.norma acc) len k = true) ∧ (k1 = k) ∧ (gives ((k1.setAcc acc (k1.accOf acc * 2 ^ redundant 72 (k1.accOf acc))).push (BitVec.ofNat 32 (redundant 72 (k1.accOf acc)))) k2 = true))) (wSw 0x5b80 []) 0 2 ((kOf (wSw 0x5b80 []))) ((kOf (wSw 0x5b80 []))) 1 { (kOf (wSw 0x5b80 [])) with stack := [71] } 1) &&
    ((fun (s : State) (c len : Nat) (k k1 : Core) (acc : Nat) (g h l : Word) (r : List Word) (stall : Nat) => decide ((s.begins c none (.popacc acc) len k = true) ∧ (gives (k.need 3) k1 = true) ∧ (k1.stack = l :: h :: g :: r))) (wSw 0x5f80 [5, 9, 7]) 0 2 ((kOf (wSw 0x5f80 [5, 9, 7]))) ((kOf (wSw 0x5f80 [5, 9, 7]))) 1 7 9 5 [] 1) &&
    ((fun (s : State) (c len : Nat) (k k1 : Core) (acc a m : Nat) (pm : Bool) (sh : Nat) (v : Word) (kv k2 : Core) (stall : Nat) => decide ((s.begins c none (.stacc acc 0 a m pm sh) len k = true) ∧ (k1 = k) ∧ (k.sat32 (roundEven (k.accOf acc) sh) = (v, kv)) ∧ (gives (kv.push v) k2 = true))) (wSw 0x4d600 [7]) 0 4 ((kOf (wSw 0x4d600 [7]))) ((kOf (wSw 0x4d600 [7]))) 1 0 0 false 4 0 (kOf (wSw 0x4d600 [7])) { (kOf (wSw 0x4d600 [7])) with stack := [0, 7] } 0) &&
    ((fun (s : State) (c len : Nat) (k k1 : Core) (acc a m : Nat) (pm : Bool) (sh : Nat) (v : Word) (kv : Core) (stall : Nat) => decide ((s.begins c none (.stacc acc 1 a m pm sh) len k = true) ∧ (k1 = k) ∧ (k.sat32 (roundEven (k.accOf acc) sh) = (v, kv)) ∧ (k.a.getD a 0 % 4 = 0))) (wSw 0x4d6b3 [7]) 0 4 ((kOf (wSw 0x4d6b3 [7]))) ((kOf (wSw 0x4d6b3 [7]))) 1 3 1 true 4 0 (kOf (wSw 0x4d6b3 [7])) 0) &&
    ((fun (s : State) (c len : Nat) (k k1 : Core) (acc a m : Nat) (pm : Bool) (sh : Nat) (v w : Word) (r : List Word) (kv k2 : Core) (stall : Nat) => decide ((s.begins c none (.stacc acc 2 a m pm sh) len k = true) ∧ (k1 = k) ∧ (k.sat32 (roundEven (k.accOf acc) sh) = (v, kv)) ∧ (gives (kv.need 1) k2 = true) ∧ (k2.stack = w :: r) ∧ (localOf w.toNat = none) ∧ (k2.wbuf.length < 4))) (wSw 0x4d700 [0x20A00000, 7]) 0 4 ((kOf (wSw 0x4d700 [0x20A00000, 7]))) ((kOf (wSw 0x4d700 [0x20A00000, 7]))) 1 0 0 false 4 0 0x20A00000 [7] (kOf (wSw 0x4d700 [0x20A00000, 7])) (kOf (wSw 0x4d700 [0x20A00000, 7])) 0)) = true := by decide +kernel

theorem witness_SwialeControlFlowInstructionsComplete :
    (((fun (s : State) (c len : Nat) (k k1 : Core) (off : Int) (a b : Word) (r : List Word) (tgt : Nat) (stall : Nat) => decide ((s.begins c none (.beq off) len k = true) ∧ (gives (k.need 2) k1 = true) ∧ (k1.stack = b :: a :: r) ∧ (a = b) ∧ ((tgt : Int) = k1.pc + 2 * off) ∧ (tgt ≤ 0x1FFFE) ∧ (tgt % 2 = 0))) (wSw 0x8c400 [7, 7]) 0 4 ((kOf (wSw 0x8c400 [7, 7]))) ((kOf (wSw 0x8c400 [7, 7]))) 8 7 7 [] 0x410 1) &&
    ((fun (s : State) (c len : Nat) (k k1 : Core) (off : Int) (a b : Word) (r : List Word) (stall : Nat) => decide ((s.begins c none (.beq off) len k = true) ∧ (gives (k.need 2) k1 = true) ∧ (k1.stack = b :: a :: r) ∧ (¬ (a = b)))) (wSw 0x8c400 [7, 9]) 0 4 ((kOf (wSw 0x8c400 [7, 9]))) ((kOf (wSw 0x8c400 [7, 9]))) 8 9 7 [] 1) &&
    ((fun (s : State) (c len : Nat) (k k1 : Core) (off : Int) (a b : Word) (r : List Word) (tgt : Nat) (stall : Nat) => decide ((s.begins c none (.bne off) len k = true) ∧ (gives (k.need 2) k1 = true) ∧ (k1.stack = b :: a :: r) ∧ (a ≠ b) ∧ ((tgt : Int) = k1.pc + 2 * off) ∧ (tgt ≤ 0x1FFFE) ∧ (tgt % 2 = 0))) (wSw 0x8c440 [7, 9]) 0 4 ((kOf (wSw 0x8c440 [7, 9]))) ((kOf (wSw 0x8c440 [7, 9]))) 8 9 7 [] 0x410 1) &&
    ((fun (s : State) (c len : Nat) (k k1 : Core) (off : Int) (a b : Word) (r : List Word) (stall : Nat) => decide ((s.begins c none (.bne off) len k = true) ∧ (gives (k.need 2) k1 = true) ∧ (k1.stack = b :: a :: r) ∧ (¬ (a ≠ b)))) (wSw 0x8c440 [7, 7]) 0 4 ((kOf (wSw 0x8c440 [7, 7]))) ((kOf (wSw 0x8c440 [7, 7]))) 8 7 7 [] 1) &&
    ((fun (s : State) (c len : Nat) (k k1 : Core) (off : Int) (a b : Word) (r : List Word) (tgt : Nat) (stall : Nat) => decide ((s.begins c none (.blt off) len k = true) ∧ (gives (k.need 2) k1 = true) ∧ (k1.stack = b :: a :: r) ∧ (a.toInt < b.toInt) ∧ ((tgt : Int) = k1.pc + 2 * off) ∧ (tgt ≤ 0x1FFFE) ∧ (tgt % 2 = 0))) (wSw 0x8c480 [9, 7]) 0 4 ((kOf (wSw 0x8c480 [9, 7]))) ((kOf (wSw 0x8c480 [9, 7]))) 8 7 9 [] 0x410 1) &&
    ((fun (s : State) (c len : Nat) (k k1 : Core) (off : Int) (a b : Word) (r : List Word) (stall : Nat) => decide ((s.begins c none (.blt off) len k = true) ∧ (gives (k.need 2) k1 = true) ∧ (k1.stack = b :: a :: r) ∧ (¬ (a.toInt < b.toInt)))) (wSw 0x8c480 [7, 9]) 0 4 ((kOf (wSw 0x8c480 [7, 9]))) ((kOf (wSw 0x8c480 [7, 9]))) 8 9 7 [] 1) &&
    ((fun (s : State) (c len : Nat) (k k1 : Core) (off : Int) (a b : Word) (r : List Word) (tgt : Nat) (stall : Nat) => decide ((s.begins c none (.bge off) len k = true) ∧ (gives (k.need 2) k1 = true) ∧ (k1.stack = b :: a :: r) ∧ (b.toInt ≤ a.toInt) ∧ ((tgt : Int) = k1.pc + 2 * off) ∧ (tgt ≤ 0x1FFFE) ∧ (tgt % 2 = 0))) (wSw 0x8c4c0 [7, 9]) 0 4 ((kOf (wSw 0x8c4c0 [7, 9]))) ((kOf (wSw 0x8c4c0 [7, 9]))) 8 9 7 [] 0x410 1) &&
    ((fun (s : State) (c len : Nat) (k k1 : Core) (off : Int) (a b : Word) (r : List Word) (stall : Nat) => decide ((s.begins c none (.bge off) len k = true) ∧ (gives (k.need 2) k1 = true) ∧ (k1.stack = b :: a :: r) ∧ (¬ (b.toInt ≤ a.toInt)))) (wSw 0x8c4c0 [9, 7]) 0 4 ((kOf (wSw 0x8c4c0 [9, 7]))) ((kOf (wSw 0x8c4c0 [9, 7]))) 8 7 9 [] 1) &&
    ((fun (s : State) (c len : Nat) (k k1 : Core) (off : Int) (a b : Word) (r : List Word) (tgt : Nat) (stall : Nat) => decide ((s.begins c none (.bltu off) len k = true) ∧ (gives (k.need 2) k1 = true) ∧ (k1.stack = b :: a :: r) ∧ (a.toNat < b.toNat) ∧ ((tgt : Int) = k1.pc + 2 * off) ∧ (tgt ≤ 0x1FFFE) ∧ (tgt % 2 = 0))) (wSw 0x8c500 [9, 7]) 0 4 ((kOf (wSw 0x8c500 [9, 7]))) ((kOf (wSw 0x8c500 [9, 7]))) 8 7 9 [] 0x410 1) &&
    ((fun (s : State) (c len : Nat) (k k1 : Core) (off : Int) (a b : Word) (r : List Word) (stall : Nat) => decide ((s.begins c none (.bltu off) len k = true) ∧ (gives (k.need 2) k1 = true) ∧ (k1.stack = b :: a :: r) ∧ (¬ (a.toNat < b.toNat)))) (wSw 0x8c500 [7, 9]) 0 4 ((kOf (wSw 0x8c500 [7, 9]))) ((kOf (wSw 0x8c500 [7, 9]))) 8 9 7 [] 1) &&
    ((fun (s : State) (c len : Nat) (k k1 : Core) (off : Int) (a b : Word) (r : List Word) (tgt : Nat) (stall : Nat) => decide ((s.begins c none (.bgeu off) len k = true) ∧ (gives (k.need 2) k1 = true) ∧ (k1.stack = b :: a :: r) ∧ (b.toNat ≤ a.toNat) ∧ ((tgt : Int) = k1.pc + 2 * off) ∧ (tgt ≤ 0x1FFFE) ∧ (tgt % 2 = 0))) (wSw 0x8c540 [7, 9]) 0 4 ((kOf (wSw 0x8c540 [7, 9]))) ((kOf (wSw 0x8c540 [7, 9]))) 8 9 7 [] 0x410 1) &&
    ((fun (s : State) (c len : Nat) (k k1 : Core) (off : Int) (a b : Word) (r : List Word) (stall : Nat) => decide ((s.begins c none (.bgeu off) len k = true) ∧ (gives (k.need 2) k1 = true) ∧ (k1.stack = b :: a :: r) ∧ (¬ (b.toNat ≤ a.toNat)))) (wSw 0x8c540 [9, 7]) 0 4 ((kOf (wSw 0x8c540 [9, 7]))) ((kOf (wSw 0x8c540 [9, 7]))) 8 7 9 [] 1)) = true := by decide +kernel

theorem witness_SwialeControlFlowInstructionsComplete_2 :
    (((fun (s : State) (c len : Nat) (k k1 : Core) (off : Int) (a : Word) (r : List Word) (tgt : Nat) (stall : Nat) => decide ((s.begins c none (.bz off) len k = true) ∧ (gives (k.need 1) k1 = true) ∧ (k1.stack = a :: r) ∧ (a = 0) ∧ ((tgt : Int) = k1.pc + 2 * off) ∧ (tgt ≤ 0x1FFFE) ∧ (tgt % 2 = 0))) (wSw 0x8c580 [0]) 0 4 ((kOf (wSw 0x8c580 [0]))) ((kOf (wSw 0x8c580 [0]))) 8 0 [] 0x410 1) &&
    ((fun (s : State) (c len : Nat) (k k1 : Core) (off : Int) (a : Word) (r : List Word) (stall : Nat) => decide ((s.begins c none (.bz off) len k = true) ∧ (gives (k.need 1) k1 = true) ∧ (k1.stack = a :: r) ∧ (¬ (a = 0)))) (wSw 0x8c580 [7]) 0 4 ((kOf (wSw 0x8c580 [7]))) ((kOf (wSw 0x8c580 [7]))) 8 7 [] 1) &&
    ((fun (s : State) (c len : Nat) (k k1 : Core) (off : Int) (a : Word) (r : List Word) (tgt : Nat) (stall : Nat) => decide ((s.begins c none (.bnz off) len k = true) ∧ (gives (k.need 1) k1 = true) ∧ (k1.stack = a :: r) ∧ (a ≠ 0) ∧ ((tgt : Int) = k1.pc + 2 * off) ∧ (tgt ≤ 0x1FFFE) ∧ (tgt % 2 = 0))) (wSw 0x8c5c0 [7]) 0 4 ((kOf (wSw 0x8c5c0 [7]))) ((kOf (wSw 0x8c5c0 [7]))) 8 7 [] 0x410 1) &&
    ((fun (s : State) (c len : Nat) (k k1 : Core) (off : Int) (a : Word) (r : List Word) (stall : Nat) => decide ((s.begins c none (.bnz off) len k = true) ∧ (gives (k.need 1) k1 = true) ∧ (k1.stack = a :: r) ∧ (¬ (a ≠ 0)))) (wSw 0x8c5c0 [0]) 0 4 ((kOf (wSw 0x8c5c0 [0]))) ((kOf (wSw 0x8c5c0 [0]))) 8 0 [] 1) &&
    ((fun (s : State) (c len : Nat) (k k1 : Core) (off : Int) (a : Word) (r : List Word) (tgt : Nat) (stall : Nat) => decide ((s.begins c none (.bneg off) len k = true) ∧ (gives (k.need 1) k1 = true) ∧ (k1.stack = a :: r) ∧ (a.toInt < 0) ∧ ((tgt : Int) = k1.pc + 2 * off) ∧ (tgt ≤ 0x1FFFE) ∧ (tgt % 2 = 0))) (wSw 0x8c600 [0xFFFFFFFF]) 0 4 ((kOf (wSw 0x8c600 [0xFFFFFFFF]))) ((kOf (wSw 0x8c600 [0xFFFFFFFF]))) 8 0xFFFFFFFF [] 0x410 1) &&
    ((fun (s : State) (c len : Nat) (k k1 : Core) (off : Int) (a : Word) (r : List Word) (stall : Nat) => decide ((s.begins c none (.bneg off) len k = true) ∧ (gives (k.need 1) k1 = true) ∧ (k1.stack = a :: r) ∧ (¬ (a.toInt < 0)))) (wSw 0x8c600 [7]) 0 4 ((kOf (wSw 0x8c600 [7]))) ((kOf (wSw 0x8c600 [7]))) 8 7 [] 1) &&
    ((fun (s : State) (c len : Nat) (k k1 : Core) (off : Int) (tgt : Nat) (stall : Nat) => decide ((s.begins c none (.br off) len k = true) ∧ (k1 = k) ∧ ((tgt : Int) = k1.pc + 2 * off) ∧ (tgt ≤ 0x1FFFE) ∧ (tgt % 2 = 0))) (wSw 0x8c640 []) 0 4 ((kOf (wSw 0x8c640 []))) ((kOf (wSw 0x8c640 []))) 8 0x410 1) &&
    ((fun (s : State) (c len : Nat) (k k1 : Core) (off : Int) (tgt : Nat) (k2 : Core) (stall : Nat) => decide ((s.begins c none (.call off) len k = true) ∧ (k1 = k) ∧ ((tgt : Int) = k1.pc + 2 * off) ∧ (tgt ≤ 0x1FFFE) ∧ (tgt % 2 = 0) ∧ (gives (k1.rpush (BitVec.ofNat 32 (k.pc + len + swLen (k.half (k.pc + len))))) k2 = true))) (wSw 0x8c800 []) 0 4 ((kOf (wSw 0x8c800 []))) ((kOf (wSw 0x8c800 []))) 8 0x410 { (kOf (wSw 0x8c800 [])) with rstack := [0x406] } 1) &&
    ((fun (s : State) (c len : Nat) (k k1 : Core) (w : Word) (r : List Word) (stall : Nat) => decide ((s.begins c none .jr len k = true) ∧ (gives (k.need 1) k1 = true) ∧ (k1.stack = w :: r) ∧ (w.toNat ≤ 0x1FFFE) ∧ (w.toNat % 2 = 0))) (wSw 0xc00 [0x600] |> wNop) 0 2 ((kOf (wSw 0xc00 [0x600] |> wNop))) ((kOf (wSw 0xc00 [0x600] |> wNop)))  0x600 [] 1) &&
    ((fun (s : State) (c len : Nat) (k k1 : Core) (w : Word) (r : List Word) (k2 : Core) (stall : Nat) => decide ((s.begins c none .callr len k = true) ∧ (gives (k.need 1) k1 = true) ∧ (k1.stack = w :: r) ∧ (w.toNat ≤ 0x1FFFE) ∧ (w.toNat % 2 = 0) ∧ (gives (({ k1 with stack := r } : Core).rpush (BitVec.ofNat 32 (k.pc + len + swLen (k.half (k.pc + len))))) k2 = true))) (wSw 0xc40 [0x600] |> wNop) 0 2 ((kOf (wSw 0xc40 [0x600] |> wNop))) ((kOf (wSw 0xc40 [0x600] |> wNop)))  0x600 [] { (kOf (wSw 0xc40 [0x600] |> wNop)) with stack := [], rstack := [0x404] } 1) &&
    ((fun (s : State) (c len : Nat) (k k1 : Core) (w : Word) (k2 : Core) (stall : Nat) => decide ((s.begins c none .ret len k = true) ∧ (k1 = k) ∧ (gives k1.rpop (w, k2) = true) ∧ (w.toNat ≤ 0x1FFFE) ∧ (w.toNat % 2 = 0))) (wSw 0xc80 [] |> wNop |> wRet) 0 2 ((kOf (wSw 0xc80 [] |> wNop |> wRet))) ((kOf (wSw 0xc80 [] |> wNop |> wRet)))  0x600 { (kOf (wSw 0xc80 [] |> wNop |> wRet)) with rstack := [] } 1) &&
    ((fun (s : State) (c len : Nat) (k k1 : Core) (st w : Word) (k2 k3 : Core) (stall : Nat) => decide ((s.begins c none .rti len k = true) ∧ (k1 = k) ∧ (gives k1.rpop (st, k2) = true) ∧ (gives k2.rpop (w, k3) = true))) (wSw 0xcc0 [] |> wRti) 0 2 ((kOf (wSw 0xcc0 [] |> wRti))) ((kOf (wSw 0xcc0 [] |> wRti)))  0x600 0x702 { (kOf (wSw 0xcc0 [] |> wRti)) with rstack := [0x702] } { (kOf (wSw 0xcc0 [] |> wRti)) with rstack := [] } 1)) = true := by decide +kernel

theorem witness_SwialeControlFlowInstructionsComplete_3 :
    (((fun (s : State) (c len : Nat) (k k1 : Core) (e : LoopEntry) (es : List LoopEntry) (stall : Nat) => decide ((s.begins c none .lpop len k = true) ∧ (k1 = k) ∧ (k1.loops = e :: es))) (wSw 0xdc0 [] |> wLoop) 0 2 ((kOf (wSw 0xdc0 [] |> wLoop))) ((kOf (wSw 0xdc0 [] |> wLoop)))  ⟨0x500, 0x600, 2⟩ [] 1) &&
    ((fun (s : State) (c len : Nat) (k k1 : Core) (n endOff : Nat) (stall : Nat) => decide ((s.begins c none (.loop n endOff) len k = true) ∧ (k1 = k) ∧ (2 ≤ endOff) ∧ (k1.pc + 2 * endOff ≤ 0x1FFFE) ∧ (n ≠ 0) ∧ (k1.loops.length < 4))) (wSw 0x5008cc00 []) 0 4 ((kOf (wSw 0x5008cc00 []))) ((kOf (wSw 0x5008cc00 []))) 5 8 1) &&
    ((fun (s : State) (c len : Nat) (k k1 : Core) (endOff : Nat) (stall : Nat) => decide ((s.begins c none (.loop 0 endOff) len k = true) ∧ (k1 = k) ∧ (2 ≤ endOff) ∧ (k1.pc + 2 * endOff ≤ 0x1FFFE))) (wSw 0x8cc00 []) 0 4 ((kOf (wSw 0x8cc00 []))) ((kOf (wSw 0x8cc00 []))) 8 1) &&
    ((fun (s : State) (c len : Nat) (k k1 : Core) (endOff : Nat) (w : Word) (r : List Word) (stall : Nat) => decide ((s.begins c none (.loopt endOff) len k = true) ∧ (gives (k.need 1) k1 = true) ∧ (2 ≤ endOff) ∧ (k.pc + 2 * endOff ≤ 0x1FFFE) ∧ (k1.stack = w :: r) ∧ (w.toNat ≠ 0) ∧ (k1.loops.length < 4))) (wSw 0x8cd00 [7]) 0 4 ((kOf (wSw 0x8cd00 [7]))) ((kOf (wSw 0x8cd00 [7]))) 8 7 [] 1) &&
    ((fun (s : State) (c len : Nat) (k k1 : Core) (endOff : Nat) (w : Word) (r : List Word) (stall : Nat) => decide ((s.begins c none (.loopt endOff) len k = true) ∧ (gives (k.need 1) k1 = true) ∧ (2 ≤ endOff) ∧ (k.pc + 2 * endOff ≤ 0x1FFFE) ∧ (k1.stack = w :: r) ∧ (w.toNat = 0))) (wSw 0x8cd00 [0]) 0 4 ((kOf (wSw 0x8cd00 [0]))) ((kOf (wSw 0x8cd00 [0]))) 8 0 [] 1) &&
    ((fun (s : State) (c len : Nat) (k k1 : Core) (n : Nat) (stall : Nat) => decide ((s.begins c none (.rep n) len k = true) ∧ (k1 = k) ∧ (n ≠ 0) ∧ (n ≤ k1.replim))) (wSw 0x5ce00 [] |> wNop4) 0 4 ((kOf (wSw 0x5ce00 [] |> wNop4))) ((kOf (wSw 0x5ce00 [] |> wNop4))) 5 1) &&
    ((fun (s : State) (c len : Nat) (k k1 : Core) (w : Word) (r : List Word) (stall : Nat) => decide ((s.begins c none .rept len k = true) ∧ (gives (k.need 1) k1 = true) ∧ (k1.stack = w :: r) ∧ (w.toNat ≠ 0) ∧ (w.toNat ≤ k1.replim))) (wSw 0xcf00 [5] |> wNop4) 0 4 ((kOf (wSw 0xcf00 [5] |> wNop4))) ((kOf (wSw 0xcf00 [5] |> wNop4)))  5 [] 1)) = true := by decide +kernel

theorem witness_SwialeSystemCommandsComplete :
    (((fun (s : State) (c len : Nat) (k k1 : Core)  (stall : Nat) => decide ((s.begins c none .fence len k = true) ∧ (k1 = k) ∧ (k1.wbuf = []) ∧ (k1.flight = []) ∧ (k1.hand = 0))) (wSw 0xd00 []) 0 2 ((kOf (wSw 0xd00 []))) ((kOf (wSw 0xd00 [])))   0) &&
    ((fun (s : State) (c len : Nat) (k k1 : Core) (stall : Nat) => decide ((s.begins c none .wait len k = true) ∧ (k1 = k) ∧ (s.waitOver c = false))) (wSw 0xd40 []) 0 2 ((kOf (wSw 0xd40 []))) ((kOf (wSw 0xd40 []))) 1) &&
    ((fun (s : State) (c len : Nat) (k k1 : Core) (stall : Nat) => decide ((s.begins c none .wait len k = true) ∧ (k1 = k) ∧ (s.waitOver c = true))) (wSw 0xd40 [] |> wIrqOff) 0 2 ((kOf (wSw 0xd40 [] |> wIrqOff))) ((kOf (wSw 0xd40 [] |> wIrqOff))) 1) &&
    ((fun (s : State) (c len : Nat) (k k1 : Core) (f : Nat) (stall : Nat) => decide ((s.begins c none (.trap f) len k = true) ∧ (k1 = k))) (wSw 0xd89 []) 0 2 ((kOf (wSw 0xd89 []))) ((kOf (wSw 0xd89 []))) 9 1) &&
    ((fun (s : State) (c : Nat) (ecc : Option (Nat × Bool)) (e : Exn) => decide ((s.coreReady c = true) ∧ (raises ((coreEcc (s.coreGet c) ecc).fetch (coreEcc (s.coreGet c) ecc).pc) e = true))) (wSw 0 []) 0 none ⟨1, none⟩) &&
    ((fun (s : State) (c n : Nat) (k : Core) => decide ((s.atBoundary c = true) ∧ (s.nmiPending c = false) ∧ ((s.coreGet c).stErr = []) ∧ (s.irqLine c = some n) ∧ (gives ((s.coreGet c).enter (s.coreGet c).pc (8 * n)) k = true))) (wIrq (wSw 0x40 [])) 0 4 (((((wIrq (wSw 0x40 [])).coreGet 0).enter 0x400 32).toOption).getD Core.reset)) &&
    ((fun (s : State) (k : Core) => decide ((s.atBoundary 10 = true) ∧ (s.nmiPending 10 = true) ∧ (gives ((s.coreGet 10).enter (s.coreGet 10).pc 0x100) k = true))) (wNmi) (((wNmi.coreGet 10).enter 0 0x100).toOption.getD Core.reset)) &&
    ((fun (s : State) (c : Nat) (r : StoreReq) (rs : List StoreReq) => decide ((c < 12) ∧ ((s.coreGet c).wbuf = r :: rs))) (wBuf) 0 ⟨0x20A00000, 4, 5⟩ []) &&
    ((fun (s : State) (c cycles : Nat) => decide ((c < 12) ∧ ((s.coreGet c).run = .wait) ∧ (s.waitOver c = true) ∧ (s.pmu.isolated = false))) ((wIrq (wSw 0x40 [])).coreSet 0 { (wIrq (wSw 0x40 [])).coreGet 0 with run := .wait }) 0 2)) = true := by decide +kernel

theorem witness_SwialeSystemCommandsComplete_e1 :
    (fun (s : State) (c edges : Nat) (t : State) => ((c < 11) ∧ ((t.coreGet c).run ≠ .held ∨ c = 10) ∧ (t.fld (F.CORE_WDT_PERIOD c) ≠ 0) ∧ (t.fld (F.CORE_WDT_PERIOD c) ≤ t.wdtCount c) ∧ ((t.coreGet c).wdtWarned = false)) ∧ (t = s.aonRun edges)) (wWdt 0 false) 0 0 ((wWdt 0 false).aonRun 0) :=
  ⟨by decide +kernel, rfl⟩

theorem witness_SwialeSystemCommandsComplete_e2 :
    (fun (s : State) (c edges : Nat) (t : State) => ((c < 11) ∧ ((t.coreGet c).run ≠ .held ∨ c = 10) ∧ (t.fld (F.CORE_WDT_PERIOD c) ≠ 0) ∧ (t.fld (F.CORE_WDT_PERIOD c) ≤ t.wdtCount c) ∧ ((t.coreGet c).wdtWarned = true) ∧ (c ≠ 10)) ∧ (t = s.aonRun edges)) (wWdt 0 true) 0 0 ((wWdt 0 true).aonRun 0) :=
  ⟨by decide +kernel, rfl⟩

theorem witness_SwialeSystemCommandsComplete_e3 :
    (fun (s : State) (c edges : Nat) (t : State) => ((c < 11) ∧ ((t.coreGet c).run ≠ .held ∨ c = 10) ∧ (t.fld (F.CORE_WDT_PERIOD c) ≠ 0) ∧ (t.fld (F.CORE_WDT_PERIOD c) ≤ t.wdtCount c) ∧ ((t.coreGet c).wdtWarned = true) ∧ (c = 10)) ∧ (t = s.aonRun edges)) (wWdt 10 true) 10 0 ((wWdt 10 true).aonRun 0) :=
  ⟨by decide +kernel, rfl⟩

theorem witness_FarAccessAndCoreCommandsComplete :
    (((fun (s : State) (c : Nat) (a : Nat) (r : List Nat) => decide ((c < 12) ∧ ((s.coreGet c).stErr = a :: r) ∧ (s.atBoundary c = true) ∧ (s.nmiPending c = false))) (wOn0 (fun k => { k with stErr := [0x20A00000] }) (wSw 0x40 [])) 0 0x20A00000 []) &&
    ((fun (s : State) (init c : Nat) => decide ((c < 12) ∧ (s.admits init (R.PAGE_CTRL (P.CORE c)) = true) ∧ (s.flag (F.LOCK_LOCK (P.CORE c)) = false))) (wSw 0x40 []) Init.MC 0) &&
    ((fun (s : State) (init c : Nat) => decide ((c < 12) ∧ (s.admits init (R.PAGE_CTRL (P.CORE c)) = true) ∧ (s.flag (F.LOCK_LOCK (P.CORE c)) = false))) (wBase) Init.MC 3) &&
    ((fun (s : State) (init c : Nat) => decide ((c < 12) ∧ (s.storesOpen init = false) ∧ (s.admits init (R.CORE_DOORBELL c) = true))) (wPage wBase (P.CORE 0)) Init.MC 0) &&
    ((fun (s : State) (init addr size v c off : Nat) (m : LocalMem) => decide ((s.windowOf init addr = some (c, m, off)) ∧ (size = 1 ∨ size = 2 ∨ size = 4) ∧ (s.held (P.CORE c) = false) ∧ ((s.coreGet c).run = .held) ∧ (off % size = 0))) (wBase) Init.MC 0x11000400 4 64 0 0x400 .i)) = true := by decide +kernel

theorem witness_FarAccessAndCoreCommandsComplete_e1 :
    (fun (s : State) (c n : Nat) (r : LoadReq) (t : State) (v len : Nat) (o : SwOp) (k2 k3 k4 : Core) (w x : Word) => ((c < 12) ∧ ((s.coreGet c).load = some r) ∧ (s.farWaits (c + 1) r.addr r.size false = false) ∧ (gives (({ t.coreGet c with load := none } : Core).fetch (t.coreGet c).pc) (o, len, k2) = true) ∧ (w = (if r.signExt then BitVec.ofInt 32 (signed (8 * r.size) v) else BitVec.ofNat 32 v)) ∧ (gives k2.pop (x, k3) = true) ∧ (gives (k3.push w) k4 = true)) ∧ (s.farRead (c + 1) r.addr r.size = (t, .served, v))) (wLoad) 0 3 ⟨0x20A00000, 4, false⟩ (((wLoad).farRead (0 + 1) (⟨0x20A00000, 4, false⟩ : LoadReq).addr (⟨0x20A00000, 4, false⟩ : LoadReq).size).1) 0 4 (.ldf 0 16) { wLoad.coreGet 0 with load := none } { wLoad.coreGet 0 with load := none, stack := [] } { wLoad.coreGet 0 with load := none, stack := [0] } 0 0x209FFFF0 :=
  ⟨by decide +kernel, pairEq (by first | with_reducible rfl | decide +kernel)⟩

theorem witness_FarAccessAndCoreCommandsComplete_e2 :
    (fun (s : State) (c n : Nat) (r : LoadReq) (rs : List LoadReq) (t : State) => ((c < 12) ∧ ((s.coreGet c).load = none) ∧ ((s.coreGet c).lost = r :: rs) ∧ (s.farWaits (c + 1) r.addr r.size false = false)) ∧ (t = (s.farRead (c + 1) r.addr r.size).1)) (wLost) 0 3 ⟨0x20A00000, 4, false⟩ [] (wLost.farRead 1 0x20A00000 4).1 :=
  ⟨by decide +kernel, rfl⟩

theorem witness_FarAccessAndCoreCommandsComplete_e3 :
    (fun (s : State) (c : Nat) (r : StoreReq) (rs : List StoreReq) (t : State) => ((c < 12) ∧ ((s.coreGet c).old = []) ∧ ((s.coreGet c).flight = r :: rs) ∧ (s.farWaits (c + 1) r.addr r.size true = false)) ∧ (s.corePerform c r = (t, .served))) (wFlight) 0 ⟨0x20A00000, 4, 5⟩ [] (wFlight.corePerform 0 ⟨0x20A00000, 4, 5⟩).1 :=
  ⟨by decide +kernel, pairEq (by first | with_reducible rfl | decide +kernel)⟩

theorem witness_FarAccessAndCoreCommandsComplete_e4 :
    (fun (s : State) (c : Nat) (r : StoreReq) (rs : List StoreReq) (t : State) => ((c < 12) ∧ ((s.coreGet c).old = r :: rs) ∧ (s.farWaits (c + 1) r.addr r.size true = false)) ∧ (s.coreSend c r = (t, .served, false))) (wOld) 0 ⟨0x20A00000, 4, 5⟩ [] (wOld.coreSend 0 ⟨0x20A00000, 4, 5⟩).1 :=
  ⟨by decide +kernel, pairEq (by first | with_reducible rfl | decide +kernel)⟩

theorem witness_MemoryCommandsComplete :
    (((fun (s : State) (init b w owner : Nat) => decide ((b < 96) ∧ (s.admits init (R.MEM_OWNER b) = true) ∧ (owner = getBits (BitVec.ofNat 32 w) 0 5) ∧ (owner ≠ s.bankOwner b) ∧ (validOwner owner = true) ∧ (getBits (BitVec.ofNat 32 w) 8 5 = s.bankOwner b ∨ getBits (BitVec.ofNat 32 w) 8 5 = 0x1F) ∧ (init = Init.MC ∨ init = Init.NYM ∨ (init = Init.HOST ∧ s.bankOwner b = Init.HOST)) ∧ (s.bankPending b = false) ∧ (s.handOf b = none))) (wBase) Init.MC 40 0x1F12 0x12) &&
    ((fun (s : State) (init b w : Nat) => decide ((b < 96) ∧ (s.admits init (R.MEM_OWNER b) = true) ∧ (getBits (BitVec.ofNat 32 w) 0 5 = s.bankOwner b) ∧ (init = Init.MC ∨ init = Init.NYM ∨ (init = Init.HOST ∧ s.bankOwner b = Init.HOST)) ∧ (s.bankPending b = false) ∧ (s.handOf b = none))) (wCap) Init.MC 40 0x10012) &&
    ((fun (s : State) (busy : List Nat) => decide ((s.fld F.MEM_SCRUB_PERIOD ≠ 0) ∧ (s.mem.eccUnc = []) ∧ (s.mem.eccCorr = []))) (wBase.setFld F.MEM_SCRUB_PERIOD 5) [])) = true := by decide +kernel

theorem witness_MemoryCommandsComplete_e1 :
    (fun (s : State) (b : Nat) (h : Handover) (s1 : State) => ((s.handOf b = some h) ∧ (h.started = true) ∧ (s.dmaCompletes b = false)) ∧ (s1 = (((((s.setFld (F.MEM_OWNER_OWNER b) h.owner).setFlag (F.MEM_OWNER_DMA_DELEGATE b) h.delegate).setFlag (F.MEM_OWNER_DMA_RDONLY b) h.rdonly).setFlag (F.MEM_OWNER_ROT b) h.rot).setFld (F.MEM_OWNER_PREV b) (s.bankOwner b)).setFlag (F.MEM_OWNER_PENDING b) false)) ({ wBase with mem := { wBase.mem with hand := [⟨40, 0x12, false, false, false, 11, true⟩] } }) 40 ⟨40, 0x12, false, false, false, 11, true⟩ ((((((({ wBase with mem := { wBase.mem with hand := [⟨40, 0x12, false, false, false, 11, true⟩] } }).setFld (F.MEM_OWNER_OWNER 40) (⟨40, 0x12, false, false, false, 11, true⟩ : Handover).owner).setFlag (F.MEM_OWNER_DMA_DELEGATE 40) (⟨40, 0x12, false, false, false, 11, true⟩ : Handover).delegate).setFlag (F.MEM_OWNER_DMA_RDONLY 40) (⟨40, 0x12, false, false, false, 11, true⟩ : Handover).rdonly).setFlag (F.MEM_OWNER_ROT 40) (⟨40, 0x12, false, false, false, 11, true⟩ : Handover).rot).setFld (F.MEM_OWNER_PREV 40) (({ wBase with mem := { wBase.mem with hand := [⟨40, 0x12, false, false, false, 11, true⟩] } }).bankOwner 40)).setFlag (F.MEM_OWNER_PENDING 40) false) :=
  ⟨by decide +kernel, rfl⟩

theorem witness_MemoryCommandsComplete_e2 :
    (fun (s : State) (x : BankReq) (t : State) (r : Resp) (v : Nat) => ((x.init ≠ Init.DMA) ∧ (s.bankHolds ⟨x.init, x.write, x.addr, x.size, x.value⟩ = false)) ∧ (s.bankAccess ⟨x.init, x.write, x.addr, x.size, x.value⟩ = (t, r, v))) (wCap) ⟨0x12, true, 0x20A00000, 4, 5⟩ (((wCap).bankAccess ⟨(⟨0x12, true, 0x20A00000, 4, 5⟩ : BankReq).init, (⟨0x12, true, 0x20A00000, 4, 5⟩ : BankReq).write, (⟨0x12, true, 0x20A00000, 4, 5⟩ : BankReq).addr, (⟨0x12, true, 0x20A00000, 4, 5⟩ : BankReq).size, (⟨0x12, true, 0x20A00000, 4, 5⟩ : BankReq).value⟩).1) .served 0 :=
  ⟨by decide +kernel, pairEq (by first | with_reducible rfl | decide +kernel)⟩

theorem witness_MemoryCommandsComplete_e3 :
    (fun (s : State) (x : BankReq) (t : State) (r : Resp) (v : Nat) => ((x.init = Init.DMA) ∧ (s.bankHolds ⟨x.init, x.write, x.addr, x.size, x.value⟩ = false)) ∧ (s.bankAccess ⟨x.init, x.write, x.addr, x.size, x.value⟩ = (t, r, v))) (wCap) ⟨Init.DMA, true, 0x20A00000, 4, 5⟩ (((wCap).bankAccess ⟨(⟨Init.DMA, true, 0x20A00000, 4, 5⟩ : BankReq).init, (⟨Init.DMA, true, 0x20A00000, 4, 5⟩ : BankReq).write, (⟨Init.DMA, true, 0x20A00000, 4, 5⟩ : BankReq).addr, (⟨Init.DMA, true, 0x20A00000, 4, 5⟩ : BankReq).size, (⟨Init.DMA, true, 0x20A00000, 4, 5⟩ : BankReq).value⟩).1) .own 0 :=
  ⟨by decide +kernel, pairEq (by first | with_reducible rfl | decide +kernel)⟩

theorem witness_NymvisRequestsComplete :
    (((fun (s : State) (init ch : Nat) => decide ((ch < 2) ∧ (s.admits init (R.NYM_CMD ch) = true) ∧ (s.flag (F.NYM_RSTAT_BUSY ch) = false))) (wNymIdle) Init.MC 1) &&
    ((fun (s : State) (init ch : Nat) => decide ((ch < 2) ∧ (s.admits init (R.NYM_CMD ch) = true) ∧ (s.flag (F.NYM_RSTAT_BUSY ch) = false))) (wNymIdle) Init.MC 1) &&
    ((fun (s : State) (init ch : Nat) => decide ((ch < 2) ∧ (s.admits init (R.NYM_CMD ch) = true) ∧ (s.flag (F.NYM_RSTAT_BUSY ch) = false))) (wNymIdle) Init.MC 1) &&
    ((fun (s : State) (init ch : Nat) (idx : Nat) => decide ((ch < 2) ∧ (s.admits init (R.NYM_CMD ch) = true) ∧ (s.flag (F.NYM_RSTAT_BUSY ch) = false))) (wNymIdle) Init.MC 1 1) &&
    ((fun (s : State) (init ch : Nat) => decide ((ch < 2) ∧ (s.admits init (R.NYM_CMD ch) = true) ∧ (s.flag (F.NYM_RSTAT_BUSY ch) = false))) (wNymIdle) Init.MC 1) &&
    ((fun (s : State) (init ch : Nat) => decide ((ch < 2) ∧ (s.admits init (R.NYM_CMD ch) = true) ∧ (s.flag (F.NYM_RSTAT_BUSY ch) = false))) (wNymIdle) Init.MC 1) &&
    ((fun (s : State) (init ch : Nat) => decide ((ch < 2) ∧ (s.admits init (R.NYM_CMD ch) = true) ∧ (s.flag (F.NYM_RSTAT_BUSY ch) = false))) (wNymIdle) Init.MC 1) &&
    ((fun (s : State) (init ch : Nat) => decide ((ch < 2) ∧ (s.admits init (R.NYM_CMD ch) = true) ∧ (s.flag (F.NYM_RSTAT_BUSY ch) = false))) (wNymIdle) Init.MC 1) &&
    ((fun (s : State) (init ch : Nat) => decide ((ch < 2) ∧ (s.admits init (R.NYM_CMD ch) = true) ∧ (s.flag (F.NYM_RSTAT_BUSY ch) = false))) (wNymIdle) Init.MC 1) &&
    ((fun (s : State) (init ch : Nat) (dec : Bool) (slot : Nat) (iv tag : List Byte) => decide ((ch < 2) ∧ (s.admits init (R.NYM_CMD ch) = true) ∧ (s.flag (F.NYM_RSTAT_BUSY ch) = false))) (wNymIdle) Init.MC 1 false 0 [] []) &&
    ((fun (s : State) (init ch : Nat) => decide ((ch < 2) ∧ (s.admits init (R.NYM_CMD ch) = true) ∧ (s.flag (F.NYM_RSTAT_BUSY ch) = false))) (wNymIdle) Init.MC 1) &&
    ((fun (s : State) (init ch : Nat) (count : Nat) => decide ((ch < 2) ∧ (s.admits init (R.NYM_CMD ch) = true) ∧ (s.flag (F.NYM_RSTAT_BUSY ch) = false))) (wNymIdle) Init.MC 1 8)) = true := by decide +kernel

theorem witness_NymvisRequestsComplete_2 :
    (((fun (s : State) (init ch : Nat) => decide ((ch < 2) ∧ (s.admits init (R.NYM_CMD ch) = true) ∧ (s.flag (F.NYM_RSTAT_BUSY ch) = false))) (wNymIdle) Init.MC 1) &&
    ((fun (s : State) (init ch : Nat) => decide ((ch < 2) ∧ (s.admits init (R.NYM_CMD ch) = true) ∧ (s.flag (F.NYM_RSTAT_BUSY ch) = false))) (wNymIdle) Init.MC 1) &&
    ((fun (s : State) (init ch : Nat) (cls : Nat) => decide ((ch < 2) ∧ (s.admits init (R.NYM_CMD ch) = true) ∧ (s.flag (F.NYM_RSTAT_BUSY ch) = false))) (wNymIdle) Init.MC 1 1) &&
    ((fun (s : State) (init ch : Nat) => decide ((ch < 2) ∧ (s.admits init (R.NYM_CMD ch) = true) ∧ (s.flag (F.NYM_RSTAT_BUSY ch) = false))) (wNymIdle) Init.MC 1) &&
    ((fun (s : State) (init ch : Nat) => decide ((ch < 2) ∧ (s.admits init (R.NYM_CMD ch) = true) ∧ (s.flag (F.NYM_RSTAT_BUSY ch) = false))) (wNymIdle) Init.MC 1) &&
    ((fun (s : State) (init ch : Nat) (keyHash : List Byte) (ownerReq : Bool) => decide ((ch < 2) ∧ (s.admits init (R.NYM_CMD ch) = true) ∧ (s.flag (F.NYM_RSTAT_BUSY ch) = false))) (wNymIdle) Init.MC 1 [] true) &&
    ((fun (s : State) (init ch : Nat) (keyHash : List Byte) => decide ((ch < 2) ∧ (s.admits init (R.NYM_CMD ch) = true) ∧ (s.flag (F.NYM_RSTAT_BUSY ch) = false))) (wNymIdle) Init.MC 1 []) &&
    ((fun (s : State) (init ch : Nat) (token : Bool) => decide ((ch < 2) ∧ (s.admits init (R.NYM_CMD ch) = true) ∧ (s.flag (F.NYM_RSTAT_BUSY ch) = false))) (wNymIdle) Init.MC 1 false) &&
    ((fun (s : State) (init ch : Nat) (token : Bool) => decide ((ch < 2) ∧ (s.admits init (R.NYM_CMD ch) = true) ∧ (s.flag (F.NYM_RSTAT_BUSY ch) = false))) (wNymIdle) Init.MC 1 false) &&
    ((fun (s : State) (init ch : Nat) => decide ((ch < 2) ∧ (s.admits init (R.NYM_CMD ch) = true) ∧ (s.flag (F.NYM_RSTAT_BUSY ch) = false))) (wNymIdle) Init.MC 1) &&
    ((fun (s : State) (init ch : Nat) (idx : Nat) (eph wrapped : List Byte) => decide ((ch < 2) ∧ (s.admits init (R.NYM_CMD ch) = true) ∧ (s.flag (F.NYM_RSTAT_BUSY ch) = false))) (wNymIdle) Init.MC 1 1 [] []) &&
    ((fun (s : State) (init ch : Nat) (slot : Nat) (eph wrapped : List Byte) (keyId spp : Nat) => decide ((ch < 2) ∧ (s.admits init (R.NYM_CMD ch) = true) ∧ (s.flag (F.NYM_RSTAT_BUSY ch) = false))) (wNymIdle) Init.MC 1 1 [] [] 1 1)) = true := by decide +kernel

theorem witness_NymvisRequestsComplete_3 :
    (((fun (s : State) (init ch : Nat) => decide ((ch < 2) ∧ (s.admits init (R.NYM_CMD ch) = true) ∧ (s.flag (F.NYM_RSTAT_BUSY ch) = false))) (wNymIdle) Init.MC 1) &&
    ((fun (s : State) (init ch : Nat) (version : Nat) (own peer clock : List Byte) => decide ((ch < 2) ∧ (s.admits init (R.NYM_CMD ch) = true) ∧ (s.flag (F.NYM_RSTAT_BUSY ch) = false))) (wNymIdle) Init.MC 1 1 [] [] []) &&
    ((fun (s : State) (init ch : Nat) => decide ((ch < 2) ∧ (s.admits init (R.NYM_CMD ch) = true) ∧ (s.flag (F.NYM_RSTAT_BUSY ch) = false))) (wNymIdle) Init.MC 1) &&
    ((fun (s : State) (init ch : Nat) (root : List Byte) => decide ((ch < 2) ∧ (s.admits init (R.NYM_CMD ch) = true) ∧ (s.flag (F.NYM_RSTAT_BUSY ch) = false))) (wNymIdle) Init.MC 1 []) &&
    ((fun (s : State) (init ch : Nat) (ownerReq : Bool) => decide ((ch < 2) ∧ (s.admits init (R.NYM_CMD ch) = true) ∧ (s.flag (F.NYM_RSTAT_BUSY ch) = false))) (wNymIdle) Init.MC 1 true) &&
    ((fun (s : State) (init ch : Nat) => decide ((ch < 2) ∧ (s.admits init (R.NYM_CMD ch) = true) ∧ (s.flag (F.NYM_RSTAT_BUSY ch) = false) ∧ (s.nym.queue = []))) (wNymIdle) Init.MC 1) &&
    ((fun (s : State) (init ch : Nat) (r : NymReq) (rs : List NymReq) => decide ((ch < 2) ∧ (s.admits init (R.NYM_CMD ch) = true) ∧ (s.flag (F.NYM_RSTAT_BUSY ch) = false) ∧ (s.nym.queue = r :: rs) ∧ (r.op ≠ .quote))) (wNym 0 .hash) Init.MC 1 ⟨0, .hash, 0x20A00000, 64, none, none⟩ [])) = true := by decide +kernel

theorem witness_NymvisServicesComplete :
    (((fun (s : State) (ch : Nat) (pass : Bool) (r : NymReq) (rs : List NymReq) => decide ((s.nym.queue = r :: rs) ∧ (r.ch = ch) ∧ (s.nym.starting = false) ∧ (s.flag F.NYM_STAT_ERROR = false) ∧ (r.fail = none) ∧ (r.op = .getInfo))) (wNym 1 (.getInfo)) 1 true ((wNym 1 (.getInfo)).nym.queue.headD ⟨0, .hash, 0, 0, none, none⟩) []) &&
    ((fun (s : State) (ch : Nat) (pass : Bool) (r : NymReq) (rs : List NymReq) => decide ((s.nym.queue = r :: rs) ∧ (r.ch = ch) ∧ (s.nym.starting = false) ∧ (s.flag F.NYM_STAT_ERROR = false) ∧ (r.fail = none) ∧ (r.op = .selfTest) ∧ (pass = true) ∧ (s.fld F.NYM_TAMPER_NOW = 0))) (wNym 1 (.selfTest)) 1 true ((wNym 1 (.selfTest)).nym.queue.headD ⟨0, .hash, 0, 0, none, none⟩) []) &&
    ((fun (s : State) (ch : Nat) (pass : Bool) (r : NymReq) (rs : List NymReq) (i : Nat) => decide ((s.nym.queue = r :: rs) ∧ (r.ch = ch) ∧ (s.nym.starting = false) ∧ (s.flag F.NYM_STAT_ERROR = false) ∧ (r.fail = none) ∧ (r.op = .authUser i) ∧ (s.authPass ch i = true))) (wAuth) 1 true (wAuth.nym.queue.headD ⟨0, .hash, 0, 0, none, none⟩) [] 1) &&
    ((fun (s : State) (ch : Nat) (pass : Bool) (r : NymReq) (rs : List NymReq) (i : Nat) => decide ((s.nym.queue = r :: rs) ∧ (r.ch = ch) ∧ (s.nym.starting = false) ∧ (s.flag F.NYM_STAT_ERROR = false) ∧ (r.fail = none) ∧ (r.op = .authUser i) ∧ (s.authPass ch i = false))) (wNym 1 (.authUser 0)) 1 true ((wNym 1 (.authUser 0)).nym.queue.headD ⟨0, .hash, 0, 0, none, none⟩) [] 0) &&
    ((fun (s : State) (ch : Nat) (pass : Bool) (r : NymReq) (rs : List NymReq) => decide ((s.nym.queue = r :: rs) ∧ (r.ch = ch) ∧ (s.nym.starting = false) ∧ (s.flag F.NYM_STAT_ERROR = false) ∧ (r.fail = none) ∧ (r.op = .authEnd))) (wNym 1 (.authEnd)) 1 true ((wNym 1 (.authEnd)).nym.queue.headD ⟨0, .hash, 0, 0, none, none⟩) []) &&
    ((fun (s : State) (ch : Nat) (pass : Bool) (r : NymReq) (rs : List NymReq) => decide ((s.nym.queue = r :: rs) ∧ (r.ch = ch) ∧ (s.nym.starting = false) ∧ (s.flag F.NYM_STAT_ERROR = false) ∧ (r.fail = none) ∧ (r.op = .getCartouche))) (wNym 1 (.getCartouche)) 1 true ((wNym 1 (.getCartouche)).nym.queue.headD ⟨0, .hash, 0, 0, none, none⟩) []) &&
    ((fun (s : State) (ch : Nat) (pass : Bool) (r : NymReq) (rs : List NymReq) (cls v : Nat) => decide ((s.nym.queue = r :: rs) ∧ (r.ch = ch) ∧ (s.nym.starting = false) ∧ (s.flag F.NYM_STAT_ERROR = false) ∧ (r.fail = none) ∧ (r.op = .advanceSvn cls) ∧ (cls < 4) ∧ (v = max (getBits (s.reg R.NYM_SVN) (8 * cls) 8) (s.nym.svns.getD cls 0)))) (wNym 1 (.advanceSvn 1)) 1 true ((wNym 1 (.advanceSvn 1)).nym.queue.headD ⟨0, .hash, 0, 0, none, none⟩) [] 1 0) &&
    ((fun (s : State) (ch : Nat) (pass : Bool) (r : NymReq) (rs : List NymReq) => decide ((s.nym.queue = r :: rs) ∧ (r.ch = ch) ∧ (s.nym.starting = false) ∧ (s.flag F.NYM_STAT_ERROR = false) ∧ (r.fail = none) ∧ (r.op = .zeroiseSession))) (wNym 1 (.zeroiseSession)) 1 true ((wNym 1 (.zeroiseSession)).nym.queue.headD ⟨0, .hash, 0, 0, none, none⟩) []) &&
    ((fun (s : State) (ch : Nat) (pass : Bool) (r : NymReq) (rs : List NymReq) => decide ((s.nym.queue = r :: rs) ∧ (r.ch = ch) ∧ (s.nym.starting = false) ∧ (s.flag F.NYM_STAT_ERROR = false) ∧ (r.fail = none) ∧ (tests r.op = true) ∧ (pass = false))) (wNym 1 .coNonce) 1 false ((wNym 1 .coNonce).nym.queue.headD ⟨0, .hash, 0, 0, none, none⟩) [])) = true := by decide +kernel

theorem witness_NymvisServicesComplete_e1 :
    (fun (s : State) (ch : Nat) (pass : Bool) (r : NymReq) (rs : List NymReq) (t : State) (ws : List Word) => ((s.nym.queue = r :: rs) ∧ (r.ch = ch) ∧ (s.nym.starting = false) ∧ (s.flag F.NYM_STAT_ERROR = false) ∧ (r.fail = none) ∧ (r.op = .coNonce) ∧ (pass = true) ∧ ((t.nym.certKey && t.nym.rootKey) = true)) ∧ (s.freshWords 24 = (t, ws))) (wNym 1 (.coNonce)) 1 true ((wNym 1 (.coNonce)).nym.queue.headD ⟨0, .hash, 0, 0, none, none⟩) [] (((wNym 1 (.coNonce)).freshWords 24).1) (((wNym 1 (.coNonce)).freshWords 24).2) :=
  ⟨by decide +kernel, pairEq (by first | with_reducible rfl | decide +kernel)⟩

theorem witness_NymvisServicesComplete_e2 :
    (fun (s : State) (ch : Nat) (pass : Bool) (r : NymReq) (rs : List NymReq) (t : State) (l : List Byte) => ((s.nym.queue = r :: rs) ∧ (r.ch = ch) ∧ (s.nym.starting = false) ∧ (s.flag F.NYM_STAT_ERROR = false) ∧ (r.fail = none) ∧ (r.op = .hash)) ∧ (s.portRead Init.NYM r.buf r.len = (t, some l))) (wNym 1 (.hash)) 1 true ((wNym 1 (.hash)).nym.queue.headD ⟨0, .hash, 0, 0, none, none⟩) [] (((wNym 1 (.hash)).portRead Init.NYM ((wNym 1 (.hash)).nym.queue.headD ⟨0, .hash, 0, 0, none, none⟩).buf ((wNym 1 (.hash)).nym.queue.headD ⟨0, .hash, 0, 0, none, none⟩).len).1) (List.replicate 64 0) :=
  ⟨by decide +kernel, pairEq (by first | with_reducible rfl | decide +kernel)⟩

theorem witness_NymvisServicesComplete_e3 :
    (fun (s : State) (ch : Nat) (pass : Bool) (r : NymReq) (rs : List NymReq) (t : State) (l : List Byte) => ((s.nym.queue = r :: rs) ∧ (r.ch = ch) ∧ (s.nym.starting = false) ∧ (s.flag F.NYM_STAT_ERROR = false) ∧ (r.fail = none) ∧ (r.op = .hmac)) ∧ (s.portRead Init.NYM r.buf r.len = (t, some l))) (wNym 1 (.hmac)) 1 true ((wNym 1 (.hmac)).nym.queue.headD ⟨0, .hash, 0, 0, none, none⟩) [] (((wNym 1 (.hmac)).portRead Init.NYM ((wNym 1 (.hmac)).nym.queue.headD ⟨0, .hash, 0, 0, none, none⟩).buf ((wNym 1 (.hmac)).nym.queue.headD ⟨0, .hash, 0, 0, none, none⟩).len).1) (List.replicate 64 0) :=
  ⟨by decide +kernel, pairEq (by first | with_reducible rfl | decide +kernel)⟩

theorem witness_NymvisServicesComplete_e4 :
    (fun (s : State) (ch : Nat) (pass : Bool) (r : NymReq) (rs : List NymReq) (t : State) (l : List Byte) => ((s.nym.queue = r :: rs) ∧ (r.ch = ch) ∧ (s.nym.starting = false) ∧ (s.flag F.NYM_STAT_ERROR = false) ∧ (r.fail = none) ∧ (r.op = .cmac)) ∧ (s.portRead Init.NYM r.buf r.len = (t, some l))) (wNym 1 (.cmac)) 1 true ((wNym 1 (.cmac)).nym.queue.headD ⟨0, .hash, 0, 0, none, none⟩) [] (((wNym 1 (.cmac)).portRead Init.NYM ((wNym 1 (.cmac)).nym.queue.headD ⟨0, .hash, 0, 0, none, none⟩).buf ((wNym 1 (.cmac)).nym.queue.headD ⟨0, .hash, 0, 0, none, none⟩).len).1) (List.replicate 64 0) :=
  ⟨by decide +kernel, pairEq (by first | with_reducible rfl | decide +kernel)⟩

theorem witness_NymvisServicesComplete_e5 :
    (fun (s : State) (ch : Nat) (pass : Bool) (r : NymReq) (rs : List NymReq) (t : State) (l : List Byte) (slot : Nat) (iv tag key : List Byte) => ((s.nym.queue = r :: rs) ∧ (r.ch = ch) ∧ (s.nym.starting = false) ∧ (s.flag F.NYM_STAT_ERROR = false) ∧ (r.fail = none) ∧ (r.op = .gcm false slot iv tag) ∧ (s.nym.userKeys.getD slot none = some key)) ∧ (s.portRead Init.NYM r.buf r.len = (t, some l))) (wNym 1 (.gcm false 1 [] [])) 1 true ((wNym 1 (.gcm false 1 [] [])).nym.queue.headD ⟨0, .hash, 0, 0, none, none⟩) [] (((wNym 1 (.gcm false 1 [] [])).portRead Init.NYM ((wNym 1 (.gcm false 1 [] [])).nym.queue.headD ⟨0, .hash, 0, 0, none, none⟩).buf ((wNym 1 (.gcm false 1 [] [])).nym.queue.headD ⟨0, .hash, 0, 0, none, none⟩).len).1) (List.replicate 64 0) 1 [] [] [7] :=
  ⟨by decide +kernel, pairEq (by first | with_reducible rfl | decide +kernel)⟩

theorem witness_NymvisServicesComplete_e6 :
    (fun (s : State) (ch : Nat) (pass : Bool) (r : NymReq) (rs : List NymReq) (t : State) (l : List Byte) (slot : Nat) (iv tag key : List Byte) => ((s.nym.queue = r :: rs) ∧ (r.ch = ch) ∧ (s.nym.starting = false) ∧ (s.flag F.NYM_STAT_ERROR = false) ∧ (r.fail = none) ∧ (r.op = .gcm true slot iv tag) ∧ (s.nym.userKeys.getD slot none = some key) ∧ (gcmTag key iv l ≠ tag)) ∧ (s.portRead Init.NYM r.buf r.len = (t, some l))) (wNym 1 (.gcm true 1 [] [1])) 1 true ((wNym 1 (.gcm true 1 [] [1])).nym.queue.headD ⟨0, .hash, 0, 0, none, none⟩) [] (((wNym 1 (.gcm true 1 [] [1])).portRead Init.NYM ((wNym 1 (.gcm true 1 [] [1])).nym.queue.headD ⟨0, .hash, 0, 0, none, none⟩).buf ((wNym 1 (.gcm true 1 [] [1])).nym.queue.headD ⟨0, .hash, 0, 0, none, none⟩).len).1) (List.replicate 64 0) 1 [] [1] [7] :=
  ⟨by decide +kernel, pairEq (by first | with_reducible rfl | decide +kernel)⟩

theorem witness_NymvisServicesComplete_e7 :
    (fun (s : State) (ch : Nat) (pass : Bool) (r : NymReq) (rs : List NymReq) (t : State) (l : List Byte) => ((s.nym.queue = r :: rs) ∧ (r.ch = ch) ∧ (s.nym.starting = false) ∧ (s.flag F.NYM_STAT_ERROR = false) ∧ (r.fail = none) ∧ (r.op = .verify)) ∧ (s.portRead Init.NYM r.buf r.len = (t, some l))) (wNym 1 (.verify)) 1 true ((wNym 1 (.verify)).nym.queue.headD ⟨0, .hash, 0, 0, none, none⟩) [] (((wNym 1 (.verify)).portRead Init.NYM ((wNym 1 (.verify)).nym.queue.headD ⟨0, .hash, 0, 0, none, none⟩).buf ((wNym 1 (.verify)).nym.queue.headD ⟨0, .hash, 0, 0, none, none⟩).len).1) (List.replicate 64 0) :=
  ⟨by decide +kernel, pairEq (by first | with_reducible rfl | decide +kernel)⟩

theorem witness_NymvisServicesComplete_e8 :
    (fun (s : State) (ch : Nat) (pass : Bool) (r : NymReq) (rs : List NymReq) (k : Nat) (t : State) (ws : List Word) => ((s.nym.queue = r :: rs) ∧ (r.ch = ch) ∧ (s.nym.starting = false) ∧ (s.flag F.NYM_STAT_ERROR = false) ∧ (r.fail = none) ∧ (r.op = .random k) ∧ (pass = true) ∧ (k ≤ 64)) ∧ (s.freshWords (ceilDiv k 4) = (t, ws))) (wNym 1 (.random 8)) 1 true ((wNym 1 (.random 8)).nym.queue.headD ⟨0, .hash, 0, 0, none, none⟩) [] 8 (((wNym 1 (.random 8)).freshWords (ceilDiv 8 4)).1) (((wNym 1 (.random 8)).freshWords (ceilDiv 8 4)).2) :=
  ⟨by decide +kernel, pairEq (by first | with_reducible rfl | decide +kernel)⟩

theorem witness_NymvisServicesComplete_e9 :
    (fun (s : State) (ch : Nat) (pass : Bool) (r : NymReq) (rs : List NymReq) (t : State) (ws : List Word) => ((s.nym.queue = r :: rs) ∧ (r.ch = ch) ∧ (s.nym.starting = false) ∧ (s.flag F.NYM_STAT_ERROR = false) ∧ (r.fail = none) ∧ (r.op = .quote) ∧ (s.nym.certKey = true) ∧ (s.nym.rootKey = true) ∧ (pass = true)) ∧ (s.freshWords 8 = (t, ws))) (wNym 1 (.quote)) 1 true ((wNym 1 (.quote)).nym.queue.headD ⟨0, .hash, 0, 0, none, none⟩) [] (((wNym 1 (.quote)).freshWords 8).1) (((wNym 1 (.quote)).freshWords 8).2) :=
  ⟨by decide +kernel, pairEq (by first | with_reducible rfl | decide +kernel)⟩

theorem witness_NymvisServicesComplete_e10 :
    (fun (s : State) (ch : Nat) (pass : Bool) (r : NymReq) (rs : List NymReq) (t : State) (l : List Byte) (v : Nat) => ((s.nym.queue = r :: rs) ∧ (r.ch = ch) ∧ (s.nym.starting = false) ∧ (s.flag F.NYM_STAT_ERROR = false) ∧ (r.fail = none) ∧ (r.op = .loadImage false) ∧ (t.imgVerdict l = v) ∧ (v ≠ 0)) ∧ (s.portRead Init.NYM r.buf r.len = (t, some l))) (wNym 1 (.loadImage false)) 1 true ((wNym 1 (.loadImage false)).nym.queue.headD ⟨0, .hash, 0, 0, none, none⟩) [] (((wNym 1 (.loadImage false)).portRead Init.NYM ((wNym 1 (.loadImage false)).nym.queue.headD ⟨0, .hash, 0, 0, none, none⟩).buf ((wNym 1 (.loadImage false)).nym.queue.headD ⟨0, .hash, 0, 0, none, none⟩).len).1) (List.replicate 64 0) 4 :=
  ⟨by decide +kernel, pairEq (by first | with_reducible rfl | decide +kernel)⟩

theorem witness_NymvisServicesComplete_e11 :
    (fun (s : State) (ch : Nat) (pass : Bool) (r : NymReq) (rs : List NymReq) (t : State) (l : List Byte) (v : Nat) => ((s.nym.queue = r :: rs) ∧ (r.ch = ch) ∧ (s.nym.starting = false) ∧ (s.flag F.NYM_STAT_ERROR = false) ∧ (r.fail = none) ∧ (r.op = .loadImage true) ∧ (t.imgVerdict l = v) ∧ (v ≠ 0)) ∧ (s.portRead Init.NYM r.buf r.len = (t, some l))) (wNym 1 (.loadImage true)) 1 true ((wNym 1 (.loadImage true)).nym.queue.headD ⟨0, .hash, 0, 0, none, none⟩) [] (((wNym 1 (.loadImage true)).portRead Init.NYM ((wNym 1 (.loadImage true)).nym.queue.headD ⟨0, .hash, 0, 0, none, none⟩).buf ((wNym 1 (.loadImage true)).nym.queue.headD ⟨0, .hash, 0, 0, none, none⟩).len).1) (List.replicate 64 0) 4 :=
  ⟨by decide +kernel, pairEq (by first | with_reducible rfl | decide +kernel)⟩

theorem witness_NymvisServicesComplete_e12 :
    (fun (s : State) (ch : Nat) (pass : Bool) (r : NymReq) (rs : List NymReq) (t : State) (l : List Byte) => ((s.nym.queue = r :: rs) ∧ (r.ch = ch) ∧ (s.nym.starting = false) ∧ (s.flag F.NYM_STAT_ERROR = false) ∧ (r.fail = none) ∧ (r.op = .loadImage false) ∧ (t.imgVerdict l = 0)) ∧ (s.portRead Init.NYM r.buf r.len = (t, some l))) (wImg false) 1 true ((wImg false).nym.queue.headD ⟨0, .hash, 0, 0, none, none⟩) [] (((wImg false).portRead Init.NYM ((wImg false).nym.queue.headD ⟨0, .hash, 0, 0, none, none⟩).buf ((wImg false).nym.queue.headD ⟨0, .hash, 0, 0, none, none⟩).len).1) wImage :=
  ⟨by decide +kernel, pairEq (by first | with_reducible rfl | decide +kernel)⟩

theorem witness_NymvisServicesComplete_e13 :
    (fun (s : State) (ch : Nat) (pass : Bool) (r : NymReq) (rs : List NymReq) (t : State) (l : List Byte) => ((s.nym.queue = r :: rs) ∧ (r.ch = ch) ∧ (s.nym.starting = false) ∧ (s.flag F.NYM_STAT_ERROR = false) ∧ (r.fail = none) ∧ (r.op = .loadImage true) ∧ (t.imgVerdict l = 0) ∧ ((imgSegs l).any (fun g => decide ((t.coreGet (g.target - 1)).run ≠ .held)) = false)) ∧ (s.portRead Init.NYM r.buf r.len = (t, some l))) (wImg true) 1 true ((wImg true).nym.queue.headD ⟨0, .hash, 0, 0, none, none⟩) [] (((wImg true).portRead Init.NYM ((wImg true).nym.queue.headD ⟨0, .hash, 0, 0, none, none⟩).buf ((wImg true).nym.queue.headD ⟨0, .hash, 0, 0, none, none⟩).len).1) wImage :=
  ⟨by decide +kernel, pairEq (by first | with_reducible rfl | decide +kernel)⟩

theorem witness_NymvisServicesComplete_e14 :
    (fun (s : State) (ch : Nat) (pass : Bool) (r : NymReq) (rs : List NymReq) (t : State) (l root : List Byte) (held : Option (Option (List Byte))) (key : Option (List Byte)) => ((s.nym.queue = r :: rs) ∧ (r.ch = ch) ∧ (s.nym.starting = false) ∧ (s.flag F.NYM_STAT_ERROR = false) ∧ (r.fail = none) ∧ (r.op = .osnmaKroot) ∧ (s.nym.osnmaRoot = some root) ∧ ((osnmaVerify root l).1 = held) ∧ ((osnmaVerify root l).2 = key)) ∧ (s.portRead Init.NYM r.buf r.len = (t, some l))) (wNym 1 .osnmaKroot) 1 true ((wNym 1 .osnmaKroot).nym.queue.headD ⟨0, .hash, 0, 0, none, none⟩) [] (((wNym 1 .osnmaKroot).portRead Init.NYM ((wNym 1 .osnmaKroot).nym.queue.headD ⟨0, .hash, 0, 0, none, none⟩).buf ((wNym 1 .osnmaKroot).nym.queue.headD ⟨0, .hash, 0, 0, none, none⟩).len).1) (List.replicate 64 0) [] none none :=
  ⟨by decide +kernel, pairEq (by first | with_reducible rfl | decide +kernel)⟩

theorem witness_NymvisOwnerCommandsComplete_e1 :
    (fun (s : State) (ch : Nat) (pass : Bool) (r : NymReq) (rs : List NymReq) (c : Option CoCmd) (t : State) (l : List Byte) (h : List Byte) (req : Bool) => ((s.nym.queue = r :: rs) ∧ (r.ch = ch) ∧ (s.nym.starting = false) ∧ (s.flag F.NYM_STAT_ERROR = false) ∧ (r.fail = none) ∧ (r.op = .co c) ∧ (s.nonceFresh = true) ∧ (coParse l = some ((.takeOwnership h req))) ∧ (c = none ∨ c = some ((.takeOwnership h req))) ∧ (t.coVerdict ((.takeOwnership h req)) l = 0)) ∧ (s.portRead Init.NYM r.buf r.len = (t, some l))) (wCo 1 wCoTakeOwnership) 1 true ⟨1, .co none, 0x20A00000, wCoTakeOwnership.length, none, none⟩ [] none (((wCo 1 wCoTakeOwnership).portRead Init.NYM (⟨1, .co none, 0x20A00000, wCoTakeOwnership.length, none, none⟩ : NymReq).buf (⟨1, .co none, 0x20A00000, wCoTakeOwnership.length, none, none⟩ : NymReq).len).1) wCoTakeOwnership wNewOwner true :=
  ⟨by decide +kernel, pairEq (by first | with_reducible rfl | decide +kernel)⟩

theorem witness_NymvisOwnerCommandsComplete_e2 :
    (fun (s : State) (ch : Nat) (pass : Bool) (r : NymReq) (rs : List NymReq) (c : Option CoCmd) (t : State) (l : List Byte) (h : List Byte) => ((s.nym.queue = r :: rs) ∧ (r.ch = ch) ∧ (s.nym.starting = false) ∧ (s.flag F.NYM_STAT_ERROR = false) ∧ (r.fail = none) ∧ (r.op = .co c) ∧ (s.nonceFresh = true) ∧ (coParse l = some ((.rotateOwner h))) ∧ (c = none ∨ c = some ((.rotateOwner h))) ∧ (t.coVerdict ((.rotateOwner h)) l = 0)) ∧ (s.portRead Init.NYM r.buf r.len = (t, some l))) (wCo 2 wCoRotateOwner) 1 true ⟨1, .co none, 0x20A00000, wCoRotateOwner.length, none, none⟩ [] none (((wCo 2 wCoRotateOwner).portRead Init.NYM (⟨1, .co none, 0x20A00000, wCoRotateOwner.length, none, none⟩ : NymReq).buf (⟨1, .co none, 0x20A00000, wCoRotateOwner.length, none, none⟩ : NymReq).len).1) wCoRotateOwner wNewOwner :=
  ⟨by decide +kernel, pairEq (by first | with_reducible rfl | decide +kernel)⟩

theorem witness_NymvisOwnerCommandsComplete_e3 :
    (fun (s : State) (ch : Nat) (pass : Bool) (r : NymReq) (rs : List NymReq) (c : Option CoCmd) (t : State) (l : List Byte) (k : Bool) => ((s.nym.queue = r :: rs) ∧ (r.ch = ch) ∧ (s.nym.starting = false) ∧ (s.flag F.NYM_STAT_ERROR = false) ∧ (r.fail = none) ∧ (r.op = .co c) ∧ (s.nonceFresh = true) ∧ (coParse l = some ((.rma k))) ∧ (c = none ∨ c = some ((.rma k))) ∧ (t.coVerdict ((.rma k)) l = 0)) ∧ (s.portRead Init.NYM r.buf r.len = (t, some l))) (wCo 2 wCoRma) 1 true ⟨1, .co none, 0x20A00000, wCoRma.length, none, none⟩ [] none (((wCo 2 wCoRma).portRead Init.NYM (⟨1, .co none, 0x20A00000, wCoRma.length, none, none⟩ : NymReq).buf (⟨1, .co none, 0x20A00000, wCoRma.length, none, none⟩ : NymReq).len).1) wCoRma false :=
  ⟨by decide +kernel, pairEq (by first | with_reducible rfl | decide +kernel)⟩

theorem witness_NymvisOwnerCommandsComplete_e4 :
    (fun (s : State) (ch : Nat) (pass : Bool) (r : NymReq) (rs : List NymReq) (c : Option CoCmd) (t : State) (l : List Byte) (k : Bool) => ((s.nym.queue = r :: rs) ∧ (r.ch = ch) ∧ (s.nym.starting = false) ∧ (s.flag F.NYM_STAT_ERROR = false) ∧ (r.fail = none) ∧ (r.op = .co c) ∧ (s.nonceFresh = true) ∧ (coParse l = some ((.scrap k))) ∧ (c = none ∨ c = some ((.scrap k))) ∧ (t.coVerdict ((.scrap k)) l = 0)) ∧ (s.portRead Init.NYM r.buf r.len = (t, some l))) (wCo 2 wCoScrap) 1 true ⟨1, .co none, 0x20A00000, wCoScrap.length, none, none⟩ [] none (((wCo 2 wCoScrap).portRead Init.NYM (⟨1, .co none, 0x20A00000, wCoScrap.length, none, none⟩ : NymReq).buf (⟨1, .co none, 0x20A00000, wCoScrap.length, none, none⟩ : NymReq).len).1) wCoScrap false :=
  ⟨by decide +kernel, pairEq (by first | with_reducible rfl | decide +kernel)⟩

theorem witness_NymvisOwnerCommandsComplete_e5 :
    (fun (s : State) (ch : Nat) (pass : Bool) (r : NymReq) (rs : List NymReq) (c : Option CoCmd) (t : State) (l : List Byte) => ((s.nym.queue = r :: rs) ∧ (r.ch = ch) ∧ (s.nym.starting = false) ∧ (s.flag F.NYM_STAT_ERROR = false) ∧ (r.fail = none) ∧ (r.op = .co c) ∧ (s.nonceFresh = true) ∧ (coParse l = some .debugGrant) ∧ (c = none ∨ c = some .debugGrant) ∧ (t.coVerdict .debugGrant l = 0)) ∧ (s.portRead Init.NYM r.buf r.len = (t, some l))) (wCo 2 wCoDebugGrant) 1 true ⟨1, .co none, 0x20A00000, wCoDebugGrant.length, none, none⟩ [] none (((wCo 2 wCoDebugGrant).portRead Init.NYM (⟨1, .co none, 0x20A00000, wCoDebugGrant.length, none, none⟩ : NymReq).buf (⟨1, .co none, 0x20A00000, wCoDebugGrant.length, none, none⟩ : NymReq).len).1) wCoDebugGrant :=
  ⟨by decide +kernel, pairEq (by first | with_reducible rfl | decide +kernel)⟩

theorem witness_NymvisOwnerCommandsComplete_e6 :
    (fun (s : State) (ch : Nat) (pass : Bool) (r : NymReq) (rs : List NymReq) (c : Option CoCmd) (t : State) (l : List Byte) (i : Nat) (e w k : List Byte) => ((s.nym.queue = r :: rs) ∧ (r.ch = ch) ∧ (s.nym.starting = false) ∧ (s.flag F.NYM_STAT_ERROR = false) ∧ (r.fail = none) ∧ (r.op = .co c) ∧ (s.nonceFresh = true) ∧ (coParse l = some ((.userKey i e w))) ∧ (c = none ∨ c = some ((.userKey i e w))) ∧ (t.coVerdict ((.userKey i e w)) l = 0) ∧ (i < 4) ∧ (t.nym.rootKey = true) ∧ (t.keyOpen e w = some k)) ∧ (s.portRead Init.NYM r.buf r.len = (t, some l))) (wCo 2 wCoUserKey) 1 true ⟨1, .co none, 0x20A00000, wCoUserKey.length, none, none⟩ [] none (((wCo 2 wCoUserKey).portRead Init.NYM (⟨1, .co none, 0x20A00000, wCoUserKey.length, none, none⟩ : NymReq).buf (⟨1, .co none, 0x20A00000, wCoUserKey.length, none, none⟩ : NymReq).len).1) wCoUserKey 1 wOwnerEph wWrapped (List.replicate 32 7) :=
  ⟨by decide +kernel, pairEq (by first | with_reducible rfl | decide +kernel)⟩

theorem witness_NymvisOwnerCommandsComplete_e7 :
    (fun (s : State) (ch : Nat) (pass : Bool) (r : NymReq) (rs : List NymReq) (c : Option CoCmd) (t : State) (l : List Byte) (i kid spp : Nat) (e w k : List Byte) => ((s.nym.queue = r :: rs) ∧ (r.ch = ch) ∧ (s.nym.starting = false) ∧ (s.flag F.NYM_STAT_ERROR = false) ∧ (r.fail = none) ∧ (r.op = .co c) ∧ (s.nonceFresh = true) ∧ (coParse l = some ((.ptpKey i e w kid spp))) ∧ (c = none ∨ c = some ((.ptpKey i e w kid spp))) ∧ (t.coVerdict ((.ptpKey i e w kid spp)) l = 0) ∧ (i < 16) ∧ (t.nym.rootKey = true) ∧ (t.keyOpen e w = some k)) ∧ (s.portRead Init.NYM r.buf r.len = (t, some l))) (wCo 2 wCoPtpKey) 1 true ⟨1, .co none, 0x20A00000, wCoPtpKey.length, none, none⟩ [] none (((wCo 2 wCoPtpKey).portRead Init.NYM (⟨1, .co none, 0x20A00000, wCoPtpKey.length, none, none⟩ : NymReq).buf (⟨1, .co none, 0x20A00000, wCoPtpKey.length, none, none⟩ : NymReq).len).1) wCoPtpKey 1 2 3 wOwnerEph wWrapped (List.replicate 32 7) :=
  ⟨by decide +kernel, pairEq (by first | with_reducible rfl | decide +kernel)⟩

theorem witness_NymvisOwnerCommandsComplete_e8 :
    (fun (s : State) (ch : Nat) (pass : Bool) (r : NymReq) (rs : List NymReq) (c : Option CoCmd) (t : State) (l : List Byte) => ((s.nym.queue = r :: rs) ∧ (r.ch = ch) ∧ (s.nym.starting = false) ∧ (s.flag F.NYM_STAT_ERROR = false) ∧ (r.fail = none) ∧ (r.op = .co c) ∧ (s.nonceFresh = true) ∧ (coParse l = some .zeroise) ∧ (c = none ∨ c = some .zeroise) ∧ (t.coVerdict .zeroise l = 0)) ∧ (s.portRead Init.NYM r.buf r.len = (t, some l))) (wCo 2 wCoZeroise) 1 true ⟨1, .co none, 0x20A00000, wCoZeroise.length, none, none⟩ [] none (((wCo 2 wCoZeroise).portRead Init.NYM (⟨1, .co none, 0x20A00000, wCoZeroise.length, none, none⟩ : NymReq).buf (⟨1, .co none, 0x20A00000, wCoZeroise.length, none, none⟩ : NymReq).len).1) wCoZeroise :=
  ⟨by decide +kernel, pairEq (by first | with_reducible rfl | decide +kernel)⟩

theorem witness_NymvisOwnerCommandsComplete_e9 :
    (fun (s : State) (ch : Nat) (pass : Bool) (r : NymReq) (rs : List NymReq) (c : Option CoCmd) (t : State) (l : List Byte) (v : Nat) (a b clk : List Byte) => ((s.nym.queue = r :: rs) ∧ (r.ch = ch) ∧ (s.nym.starting = false) ∧ (s.flag F.NYM_STAT_ERROR = false) ∧ (r.fail = none) ∧ (r.op = .co c) ∧ (s.nonceFresh = true) ∧ (coParse l = some ((.pairBind v a b clk))) ∧ (c = none ∨ c = some ((.pairBind v a b clk))) ∧ (t.coVerdict ((.pairBind v a b clk)) l = 0)) ∧ (s.portRead Init.NYM r.buf r.len = (t, some l)) ∧ (t.nym.pairRec = none)) (wCo 2 wCoPairBind) 1 true ⟨1, .co none, 0x20A00000, wCoPairBind.length, none, none⟩ [] none (((wCo 2 wCoPairBind).portRead Init.NYM (⟨1, .co none, 0x20A00000, wCoPairBind.length, none, none⟩ : NymReq).buf (⟨1, .co none, 0x20A00000, wCoPairBind.length, none, none⟩ : NymReq).len).1) wCoPairBind 1 (List.replicate 32 0) (List.replicate 32 0) (List.replicate 8 0) :=
  ⟨by decide +kernel, pairEq (by first | with_reducible rfl | decide +kernel), (by first | with_reducible rfl | decide +kernel)⟩

theorem witness_NymvisOwnerCommandsComplete_e10 :
    (fun (s : State) (ch : Nat) (pass : Bool) (r : NymReq) (rs : List NymReq) (c : Option CoCmd) (t : State) (l : List Byte) => ((s.nym.queue = r :: rs) ∧ (r.ch = ch) ∧ (s.nym.starting = false) ∧ (s.flag F.NYM_STAT_ERROR = false) ∧ (r.fail = none) ∧ (r.op = .co c) ∧ (s.nonceFresh = true) ∧ (coParse l = some .serviceGrant) ∧ (c = none ∨ c = some .serviceGrant) ∧ (t.coVerdict .serviceGrant l = 0)) ∧ (s.portRead Init.NYM r.buf r.len = (t, some l))) (wCo 2 wCoServiceGrant) 1 true ⟨1, .co none, 0x20A00000, wCoServiceGrant.length, none, none⟩ [] none (((wCo 2 wCoServiceGrant).portRead Init.NYM (⟨1, .co none, 0x20A00000, wCoServiceGrant.length, none, none⟩ : NymReq).buf (⟨1, .co none, 0x20A00000, wCoServiceGrant.length, none, none⟩ : NymReq).len).1) wCoServiceGrant :=
  ⟨by decide +kernel, pairEq (by first | with_reducible rfl | decide +kernel)⟩

theorem witness_NymvisOwnerCommandsComplete_e11 :
    (fun (s : State) (ch : Nat) (pass : Bool) (r : NymReq) (rs : List NymReq) (c : Option CoCmd) (t : State) (l : List Byte) (h : List Byte) => ((s.nym.queue = r :: rs) ∧ (r.ch = ch) ∧ (s.nym.starting = false) ∧ (s.flag F.NYM_STAT_ERROR = false) ∧ (r.fail = none) ∧ (r.op = .co c) ∧ (s.nonceFresh = true) ∧ (coParse l = some ((.osnmaRoot h))) ∧ (c = none ∨ c = some ((.osnmaRoot h))) ∧ (t.coVerdict ((.osnmaRoot h)) l = 0)) ∧ (s.portRead Init.NYM r.buf r.len = (t, some l))) (wCo 2 wCoOsnmaRoot) 1 true ⟨1, .co none, 0x20A00000, wCoOsnmaRoot.length, none, none⟩ [] none (((wCo 2 wCoOsnmaRoot).portRead Init.NYM (⟨1, .co none, 0x20A00000, wCoOsnmaRoot.length, none, none⟩ : NymReq).buf (⟨1, .co none, 0x20A00000, wCoOsnmaRoot.length, none, none⟩ : NymReq).len).1) wCoOsnmaRoot (List.replicate 32 0) :=
  ⟨by decide +kernel, pairEq (by first | with_reducible rfl | decide +kernel)⟩

theorem witness_NymvisOwnerCommandsComplete_e12 :
    (fun (s : State) (ch : Nat) (pass : Bool) (r : NymReq) (rs : List NymReq) (c : Option CoCmd) (t : State) (l : List Byte) (req : Bool) => ((s.nym.queue = r :: rs) ∧ (r.ch = ch) ∧ (s.nym.starting = false) ∧ (s.flag F.NYM_STAT_ERROR = false) ∧ (r.fail = none) ∧ (r.op = .co c) ∧ (s.nonceFresh = true) ∧ (coParse l = some ((.setPolicy req))) ∧ (c = none ∨ c = some ((.setPolicy req))) ∧ (t.coVerdict ((.setPolicy req)) l = 0)) ∧ (s.portRead Init.NYM r.buf r.len = (t, some l))) (wCo 2 wCoSetPolicy) 1 true ⟨1, .co none, 0x20A00000, wCoSetPolicy.length, none, none⟩ [] none (((wCo 2 wCoSetPolicy).portRead Init.NYM (⟨1, .co none, 0x20A00000, wCoSetPolicy.length, none, none⟩ : NymReq).buf (⟨1, .co none, 0x20A00000, wCoSetPolicy.length, none, none⟩ : NymReq).len).1) wCoSetPolicy true :=
  ⟨by decide +kernel, pairEq (by first | with_reducible rfl | decide +kernel)⟩

theorem witness_NymvisEventsComplete :
    (((fun (s : State) (ch : Nat) => decide (((s.nym.queue.any fun r => decide (r.ch = ch)) = false) ∧ (300 * 32768 ≤ s.rawSince (s.nym.reqAt.getD ch 0)))) ({ wNymIdle with aon := { wNymIdle.aon with raw := 300 * 32768 } }) 1) &&
    ((fun (s : State) (k : Nat) => decide ((k < 2))) (wBase) 1) &&
    ((fun (s : State) (k : Nat) => decide ((k < 3))) (wBase) 1) &&
    ((fun (s : State)  => decide ((s.fld F.NYM_STAT_BOOT = 2) ∧ (s.sramValue (sramBase + 22 * bankSize - 4) 4 = 0x424F4F54))) ((wBase.setFld F.NYM_STAT_BOOT 2).sramSetBytes (sramBase + 22 * bankSize - 4) [0x54, 0x4F, 0x4F, 0x42]) ) &&
    ((fun (s : State) (a b : List Byte) (ks : Bool) => decide ((s.flag F.NYM_STAT_ERROR = false) ∧ (s.fld F.NYM_STAT_BOOT = 1) ∧ (a ≠ []) ∧ (s.bundleOk a = false) ∧ (s.bundleOk b = false))) (wBase.setFld F.NYM_STAT_BOOT 1) [0] [] true) &&
    ((fun (s : State) (pass : Bool) => decide ((s.nym.starting = true) ∧ (pass = true) ∧ (s.flag F.NYM_STAT_ERROR = false) ∧ (s.fld F.NYM_STAT_BOOT = 0))) (({ wBase with nym := { wBase.nym with starting := true } } : State).setFld F.NYM_STAT_BOOT 0) true) &&
    ((fun (s : State) (pass : Bool) => decide ((s.nym.starting = true) ∧ (pass = false))) (({ wBase with nym := { wBase.nym with starting := true } } : State).setFld F.NYM_STAT_BOOT 0) false)) = true := by decide +kernel

theorem witness_NymvisEventsComplete_e1 :
    (fun (s : State) (edges : Nat) (t0 : Nat) (t : State) => ((t.nym.expiryAt = some t0) ∧ (t.rawSince t0 < 32768)) ∧ (t = s.aonRun edges)) ({ wBase with nym := { wBase.nym with expiryAt := some 0 } }) 0 0 (({ wBase with nym := { wBase.nym with expiryAt := some 0 } }).aonRun 0) :=
  ⟨by decide +kernel, rfl⟩

theorem witness_NymvisEventsComplete_e2 :
    (fun (s : State) (edges : Nat) (t : State) => ((t.nym.expiryAt = none)) ∧ (t = s.aonRun edges)) (wBase) 0 ((wBase).aonRun 0) :=
  ⟨by decide +kernel, rfl⟩

theorem witness_NymvisEventsComplete_e3 :
    (fun (s : State) (edges : Nat) (t0 : Nat) (t : State) => ((t.nym.expiryAt = some t0) ∧ (32768 ≤ t.rawSince t0)) ∧ (t = s.aonRun edges)) ({ wBase with nym := { wBase.nym with expiryAt := some 0 }, aon := { wBase.aon with raw := 40000 } }) 0 0 (({ wBase with nym := { wBase.nym with expiryAt := some 0 }, aon := { wBase.aon with raw := 40000 } }).aonRun 0) :=
  ⟨by decide +kernel, rfl⟩

theorem witness_PowerCommandsComplete :
    (((fun (s : State) (init : Nat) => decide ((s.admits init R.PMU_REQ = true) ∧ (s.inSequence = false) ∧ (s.pmuState ≠ 0))) (wBase.setFld F.PMU_STAT_STATE 1) Init.MC) &&
    ((fun (s : State) (init : Nat) => decide ((s.admits init R.PMU_REQ = true) ∧ (s.inSequence = false) ∧ (s.pmuState ≠ 1))) (wBase) Init.MC) &&
    ((fun (s : State) (init : Nat) => decide ((s.admits init R.PMU_REQ = true) ∧ (s.inSequence = false) ∧ (s.pmuState ≠ 2))) (wBase) Init.MC) &&
    ((fun (s : State) (init : Nat) => decide ((s.admits init R.PMU_REQ = true) ∧ (s.inSequence = false) ∧ (s.pmuState ≠ 3))) (wBase) Init.MC) &&
    ((fun (s : State) (init : Nat) => decide ((s.admits init R.PMU_REQ = true) ∧ (s.inSequence = false) ∧ (s.pmuState ≠ 4))) (wBase) Init.MC) &&
    ((fun (s : State) (init : Nat) => decide ((s.admits init R.PMU_REQ = true) ∧ (s.pmuState = 6))) (wBase.setFld F.PMU_STAT_STATE 6) Init.MC) &&
    ((fun (s : State) (init : Nat) => decide ((s.admits init R.PMU_REQ = true) ∧ (s.inSequence = false))) (wBase) Init.MC) &&
    ((fun (s : State)  => decide ((s.pmuState = 1) ∧ (s.allWait = true) ∧ (s.pmu.idleDomains = []))) (wBase.setFld F.PMU_STAT_STATE 1) ) &&
    ((fun (s : State) (c : Nat) => decide ((s.pmu.idleDomains ≠ []) ∧ (c < 12) ∧ ((s.coreGet c).run ≠ .held) ∧ (s.waitOver c = true))) ({ wIrq (wSw 0x40 []) with pmu := { wBase.pmu with idleDomains := [3] } }) 0) &&
    ((fun (s : State)  => decide ((s.pmuState = 5) ∧ (s.pmuPhase = 1) ∧ (s.allWait = true) ∧ (s.allDrained = true) ∧ (s.pmu.opp = .idle))) ((wBase.setFld F.PMU_STAT_STATE 5).setFld F.PMU_STAT_PHASE 1) ) &&
    ((fun (s : State)  => decide ((s.pmuState = 5) ∧ (s.pmuPhase = 1))) ((wBase.setFld F.PMU_STAT_STATE 5).setFld F.PMU_STAT_PHASE 1) ) &&
    ((fun (s : State) (edges : Nat) => decide ((s.pmuState = 5) ∧ (s.pmuPhase = 2) ∧ (0 < edges) ∧ ((s.aonRun edges).pmuState = 5) ∧ ((s.aonRun edges).pmuPhase = 2) ∧ ((s.aonRun edges).loaded = true) ∧ ((s.aonRun edges).pmuTarget ≤ 3))) (((wTime.setFld F.PMU_STAT_STATE 5).setFld F.PMU_STAT_PHASE 2).setFld F.PMU_STAT_TARGET 2) 1)) = true := by decide +kernel

theorem witness_PowerCommandsComplete_2 :
    (((fun (s : State)  => decide ((s.pmuState = 5) ∧ (s.pmuPhase = 4 - 1) ∧ (s.pmuTarget = 2))) (((wBase.setFld F.PMU_STAT_STATE 5).setFld F.PMU_STAT_PHASE 3).setFld F.PMU_STAT_TARGET 2) ) &&
    ((fun (s : State)  => decide ((s.pmuState = 5) ∧ (s.pmuPhase = 4 - 1) ∧ (s.pmuTarget = 3))) (((wBase.setFld F.PMU_STAT_STATE 5).setFld F.PMU_STAT_PHASE 3).setFld F.PMU_STAT_TARGET 3) ) &&
    ((fun (s : State)  => decide ((s.pmuState = 5) ∧ (s.pmuPhase = 4 - 1) ∧ (s.pmuTarget = 4))) (((wBase.setFld F.PMU_STAT_STATE 5).setFld F.PMU_STAT_PHASE 3).setFld F.PMU_STAT_TARGET 4) ) &&
    ((fun (s : State)  => decide ((s.flag F.PMU_CFG_WAKE_EN = true) ∧ (s.beforeIso = true))) (((wBase.setFlag F.PMU_CFG_WAKE_EN true).setFld F.PMU_STAT_STATE 5).setFld F.PMU_STAT_PHASE 1) ) &&
    ((fun (s : State)  => decide ((s.flag F.PMU_CFG_WAKE_EN = true) ∧ (s.pmuState = 5) ∧ (s.beforeIso = false) ∧ (s.pmu.power ≠ .run))) ({ (((wBase.setFlag F.PMU_CFG_WAKE_EN true).setFld F.PMU_STAT_STATE 5).setFld F.PMU_STAT_PHASE 5) with pmu := { wBase.pmu with power := .sleep } }) ) &&
    ((fun (s : State) (edges n : Nat) => decide (((s.aonRun edges).pmu.wakeCmp = some n) ∧ (n ≤ (s.aonRun edges).aon.raw))) ({ wBase with pmu := { wBase.pmu with wakeCmp := some 1 } }) 2 1) &&
    ((fun (s : State) (procAck engAck : Bool) => decide ((s.pmuState = 6) ∧ (s.pmuPhase = 6) ∧ (procAck = true) ∧ (engAck = true))) ((wBase.setFld F.PMU_STAT_STATE 6).setFld F.PMU_STAT_PHASE 6) true true)) = true := by decide +kernel

theorem witness_PowerCommandsComplete_e1 :
    (fun (s : State) (arm : Bool) (s0 s1 s2 : State) => ((s.pmuState = 5) ∧ (s.pmuPhase = 4) ∧ (arm = (s0.flag F.PMU_CFG_WTIMER && s0.flag F.PMU_WSHAD0_VALID && s0.loaded && decide (s0.pmuTarget ≤ 3) && s0.pmu.snapshot))) ∧ (s0 = (if s.pmuTarget ≤ 3 then (s.retNat 6 s.mode).retSeal else s)) ∧ (s1 = s0.padsHold.pmuPut { s0.pmu with isolated := true, poweredDown := true, wakeCmp := if arm then some s0.wakeCount else none }) ∧ (s2 = s1.cmonPut { Cmon.reset with iroFailed := s1.cmon.iroFailed })) ((wBase.setFld F.PMU_STAT_STATE 5).setFld F.PMU_STAT_PHASE 4) false ((if ((wBase.setFld F.PMU_STAT_STATE 5).setFld F.PMU_STAT_PHASE 4).pmuTarget ≤ 3 then (((wBase.setFld F.PMU_STAT_STATE 5).setFld F.PMU_STAT_PHASE 4).retNat 6 ((wBase.setFld F.PMU_STAT_STATE 5).setFld F.PMU_STAT_PHASE 4).mode).retSeal else ((wBase.setFld F.PMU_STAT_STATE 5).setFld F.PMU_STAT_PHASE 4))) (((if ((wBase.setFld F.PMU_STAT_STATE 5).setFld F.PMU_STAT_PHASE 4).pmuTarget ≤ 3 then (((wBase.setFld F.PMU_STAT_STATE 5).setFld F.PMU_STAT_PHASE 4).retNat 6 ((wBase.setFld F.PMU_STAT_STATE 5).setFld F.PMU_STAT_PHASE 4).mode).retSeal else ((wBase.setFld F.PMU_STAT_STATE 5).setFld F.PMU_STAT_PHASE 4))).padsHold.pmuPut { ((if ((wBase.setFld F.PMU_STAT_STATE 5).setFld F.PMU_STAT_PHASE 4).pmuTarget ≤ 3 then (((wBase.setFld F.PMU_STAT_STATE 5).setFld F.PMU_STAT_PHASE 4).retNat 6 ((wBase.setFld F.PMU_STAT_STATE 5).setFld F.PMU_STAT_PHASE 4).mode).retSeal else ((wBase.setFld F.PMU_STAT_STATE 5).setFld F.PMU_STAT_PHASE 4))).pmu with isolated := true, poweredDown := true, wakeCmp := if false then some ((if ((wBase.setFld F.PMU_STAT_STATE 5).setFld F.PMU_STAT_PHASE 4).pmuTarget ≤ 3 then (((wBase.setFld F.PMU_STAT_STATE 5).setFld F.PMU_STAT_PHASE 4).retNat 6 ((wBase.setFld F.PMU_STAT_STATE 5).setFld F.PMU_STAT_PHASE 4).mode).retSeal else ((wBase.setFld F.PMU_STAT_STATE 5).setFld F.PMU_STAT_PHASE 4))).wakeCount else none }) ((((if ((wBase.setFld F.PMU_STAT_STATE 5).setFld F.PMU_STAT_PHASE 4).pmuTarget ≤ 3 then (((wBase.setFld F.PMU_STAT_STATE 5).setFld F.PMU_STAT_PHASE 4).retNat 6 ((wBase.setFld F.PMU_STAT_STATE 5).setFld F.PMU_STAT_PHASE 4).mode).retSeal else ((wBase.setFld F.PMU_STAT_STATE 5).setFld F.PMU_STAT_PHASE 4))).padsHold.pmuPut { ((if ((wBase.setFld F.PMU_STAT_STATE 5).setFld F.PMU_STAT_PHASE 4).pmuTarget ≤ 3 then (((wBase.setFld F.PMU_STAT_STATE 5).setFld F.PMU_STAT_PHASE 4).retNat 6 ((wBase.setFld F.PMU_STAT_STATE 5).setFld F.PMU_STAT_PHASE 4).mode).retSeal else ((wBase.setFld F.PMU_STAT_STATE 5).setFld F.PMU_STAT_PHASE 4))).pmu with isolated := true, poweredDown := true, wakeCmp := if false then some ((if ((wBase.setFld F.PMU_STAT_STATE 5).setFld F.PMU_STAT_PHASE 4).pmuTarget ≤ 3 then (((wBase.setFld F.PMU_STAT_STATE 5).setFld F.PMU_STAT_PHASE 4).retNat 6 ((wBase.setFld F.PMU_STAT_STATE 5).setFld F.PMU_STAT_PHASE 4).mode).retSeal else ((wBase.setFld F.PMU_STAT_STATE 5).setFld F.PMU_STAT_PHASE 4))).wakeCount else none }).cmonPut { Cmon.reset with iroFailed := (((if ((wBase.setFld F.PMU_STAT_STATE 5).setFld F.PMU_STAT_PHASE 4).pmuTarget ≤ 3 then (((wBase.setFld F.PMU_STAT_STATE 5).setFld F.PMU_STAT_PHASE 4).retNat 6 ((wBase.setFld F.PMU_STAT_STATE 5).setFld F.PMU_STAT_PHASE 4).mode).retSeal else ((wBase.setFld F.PMU_STAT_STATE 5).setFld F.PMU_STAT_PHASE 4))).padsHold.pmuPut { ((if ((wBase.setFld F.PMU_STAT_STATE 5).setFld F.PMU_STAT_PHASE 4).pmuTarget ≤ 3 then (((wBase.setFld F.PMU_STAT_STATE 5).setFld F.PMU_STAT_PHASE 4).retNat 6 ((wBase.setFld F.PMU_STAT_STATE 5).setFld F.PMU_STAT_PHASE 4).mode).retSeal else ((wBase.setFld F.PMU_STAT_STATE 5).setFld F.PMU_STAT_PHASE 4))).pmu with isolated := true, poweredDown := true, wakeCmp := if false then some ((if ((wBase.setFld F.PMU_STAT_STATE 5).setFld F.PMU_STAT_PHASE 4).pmuTarget ≤ 3 then (((wBase.setFld F.PMU_STAT_STATE 5).setFld F.PMU_STAT_PHASE 4).retNat 6 ((wBase.setFld F.PMU_STAT_STATE 5).setFld F.PMU_STAT_PHASE 4).mode).retSeal else ((wBase.setFld F.PMU_STAT_STATE 5).setFld F.PMU_STAT_PHASE 4))).wakeCount else none }).cmon.iroFailed }) :=
  ⟨by decide +kernel, rfl, rfl, rfl⟩

theorem witness_PowerCommandsComplete_e2 :
    (fun (s : State) (s0 s1 s2 : State) => ((s.pmuState = 5) ∧ (s.pmuPhase = 5) ∧ (s.pmu.engBusy = false) ∧ (s.pmu.procBusy = false) ∧ (s.pmuTarget = 4) ∧ (s2.pmu.wakeAfterIso = none) ∧ (s2.flag F.PMU_STAT_PEND_V = false)) ∧ (s0 = (s.setFlag (F.STAT_RUNNING P.ANT) false).antApply) ∧ (s1 = (s0.lockChange false).setFlag F.CLK_ROOTSTAT_HOLD false) ∧ (s2 = (s1.sourcesStop false).pmuPut { s1.pmu with power := .off, engAck := none, wakeCmp := none })) (((wBase.setFld F.PMU_STAT_STATE 5).setFld F.PMU_STAT_PHASE 5).setFld F.PMU_STAT_TARGET 4) (((((wBase.setFld F.PMU_STAT_STATE 5).setFld F.PMU_STAT_PHASE 5).setFld F.PMU_STAT_TARGET 4).setFlag (F.STAT_RUNNING P.ANT) false).antApply) (((((((wBase.setFld F.PMU_STAT_STATE 5).setFld F.PMU_STAT_PHASE 5).setFld F.PMU_STAT_TARGET 4).setFlag (F.STAT_RUNNING P.ANT) false).antApply).lockChange false).setFlag F.CLK_ROOTSTAT_HOLD false) (((((((((wBase.setFld F.PMU_STAT_STATE 5).setFld F.PMU_STAT_PHASE 5).setFld F.PMU_STAT_TARGET 4).setFlag (F.STAT_RUNNING P.ANT) false).antApply).lockChange false).setFlag F.CLK_ROOTSTAT_HOLD false).sourcesStop false).pmuPut { (((((((wBase.setFld F.PMU_STAT_STATE 5).setFld F.PMU_STAT_PHASE 5).setFld F.PMU_STAT_TARGET 4).setFlag (F.STAT_RUNNING P.ANT) false).antApply).lockChange false).setFlag F.CLK_ROOTSTAT_HOLD false).pmu with power := .off, engAck := none, wakeCmp := none }) :=
  ⟨by decide +kernel, rfl, rfl, rfl⟩

set_option maxRecDepth 20000 in
theorem witness_PowerCommandsComplete_e3 :
    (fun (s : State) (upset : Option (Nat × Nat)) (t : State) => ((s.pmuState = 6) ∧ (s.pmuPhase = 7) ∧ (s.pmu.power = .sleep) ∧ (t.retValid = true)) ∧ (t = (s.wakeClear true).retUpset upset)) (wExit) none (((wExit).wakeClear true).retUpset none) :=
  ⟨by decide +kernel, rfl⟩

theorem witness_RegulatorAndOperatingPointCommandsComplete :
    (((fun (s : State) (init k : Nat) => decide ((s.admits init R.PMU_OPP = true) ∧ (k < 3) ∧ (s.pmu.opp = .idle) ∧ (s.inSequence = false))) (wBase) Init.MC 2) &&
    ((fun (s : State)  => decide ((s.pmu.opp = .waitClear) ∧ (s.flag F.CHS_OPP_REQ = false))) (wOpp .waitClear) ) &&
    ((fun (s : State)  => decide ((s.pmu.opp = .waitClear) ∧ (s.flag F.CHS_OPP_CLEAR = false))) (wOpp .waitClear) ) &&
    ((fun (s : State) (eng : Bool) (data : Nat) => decide ((eng = true))) (wBase) true 0x18) &&
    ((fun (s : State) (eng : Bool) (data : Nat) => decide ((eng = false))) (wBase) false 0x18) &&
    ((fun (s : State) (eng : Bool) => decide ((eng = true) ∧ (s.pmu.engAwait = true) ∧ (s.pmu.opp = .waitAckUp))) ({ wOpp .waitAckUp with pmu := { (wOpp .waitAckUp).pmu with engAwait := true } }) true) &&
    ((fun (s : State) (eng : Bool) => decide ((eng = false) ∧ (s.pmu.procAwait = true))) ({ wBase with pmu := { wBase.pmu with procAwait := true } }) false) &&
    ((fun (s : State)  => decide ((s.pmu.opp = .settle))) (wOpp .settle) ) &&
    ((fun (s : State) (low : Bool) (status : Nat) (proc : Bool) => decide ((low = true))) (wBase) true 5 false) &&
    ((fun (s : State) (init w : Nat) => decide ((s.admits init R.PMU_PROCV = true))) (wBase) Init.MC 700) &&
    ((fun (s : State)  => decide ((s.clk.divNext = none) ∧ (s.pmu.opp = .divUp))) (wOpp .divUp) ) &&
    ((fun (s : State) (c a : Nat) => decide ((s.pmu.opp = .idle) ∧ (s.clk.divNext = some (c, a)))) ({ wBase with clk := { wBase.clk with divNext := some (1, 2) } }) 1 2)) = true := by decide +kernel

theorem witness_RegulatorAndOperatingPointCommandsComplete_e1 :
    (fun (s : State) (eng : Bool) (mv v : Nat) (t : State) => ((eng = true) ∧ (s.pmu.engCmd = some v) ∧ (mv ≤ v + 10) ∧ (v ≤ mv + 10) ∧ (s.pmu.opp = .waitAckUp)) ∧ (t = s.pmuPut { s.pmu with pmbSent := [s.pmbTx true .readVout] })) (wOpp .waitAckUp) true 700 705 ((wOpp .waitAckUp).pmuPut { (wOpp .waitAckUp).pmu with pmbSent := [(wOpp .waitAckUp).pmbTx true .readVout] }) :=
  ⟨by decide +kernel, rfl⟩

theorem witness_RegulatorAndOperatingPointCommandsComplete_e2 :
    (fun (s : State) (eng : Bool) (mv v : Nat) (t : State) => ((eng = false) ∧ (s.pmu.procCmd = some v) ∧ (mv ≤ v + 10) ∧ (v ≤ mv + 10)) ∧ (t = s.pmuPut { s.pmu with pmbSent := [s.pmbTx false .readVout] })) (wOpp .waitAckUp) false 700 705 ((wOpp .waitAckUp).pmuPut { (wOpp .waitAckUp).pmu with pmbSent := [(wOpp .waitAckUp).pmbTx false .readVout] }) :=
  ⟨by decide +kernel, rfl⟩

theorem witness_ClockCommandsComplete :
    (((fun (s : State) (ref : Nat) => decide ((s.clk.pllOn = true) ∧ (s.flag F.CLK_ROOTSTAT_LOCK = false) ∧ (ref = s.clk.refWait.getD (s.fld F.CLK_ROOTSTAT_REF)) ∧ (s.refStable ref = true) ∧ (s.holdsForReturn = false) ∧ ((s.monGet 4).tripped = false))) ((wBase.setFlag F.CLK_ROOTSTAT_LOCK false).setFlag F.CLK_ROOTSTAT_XO_STABLE true) 0) &&
    ((fun (s : State)  => decide ((20 ≤ s.cmon.xoCount) ∧ (s.flag F.CLK_ROOTSTAT_XO_STABLE = false))) ({ wBase with cmon := { wBase.cmon with xoCount := 20 } }) ) &&
    ((fun (s : State)  => decide ((10 ≤ s.cmon.refCount) ∧ (s.flag F.CLK_ROOTSTAT_REFIN_STABLE = false))) ({ wBase with cmon := { wBase.cmon with refCount := 10 } }) ) &&
    ((fun (s : State) (init w : Nat) => decide ((s.admits init R.CLK_RUN = true))) (wBase) Init.MC 0x1FFC) &&
    ((fun (s : State) (init w : Nat) => decide ((s.admits init R.CLK_SRC = true))) (wBase) Init.MC 8) &&
    ((fun (s : State) (d iro : Nat) => decide ((d ≠ 5) ∧ (d ≠ 2) ∧ (iro ≠ 2) ∧ (s.clk.switching.find? (fun e => decide (e.1 = d)) = some (d, iro)) ∧ (s.newSourceRuns iro = true))) ({ wBase with clk := { wBase.clk with switching := [(3, 0)] } }) 3 0) &&
    ((fun (s : State) (d iro : Nat) => decide ((d ≠ 5) ∧ (s.clk.switching.find? (fun e => decide (e.1 = d)) = some (d, iro)) ∧ (s.newSourceRuns iro = true))) ({ wBase with clk := { wBase.clk with switching := [(3, 0)] } }) 3 0) &&
    ((fun (s : State) (m : Nat) (dev : Int) => decide ((m < 6) ∧ (2 ≤ m) ∧ (m ≠ 4) ∧ (s.pmu.isolated = false) ∧ (s.policy m ≠ 0) ∧ ((s.setFldI (F.CMON_MEAS_DEV m) dev).armed m = false))) (wBase) 3 40) &&
    ((fun (s : State)  => decide ((s.clk.pllOn = true) ∧ (s.flag F.CLK_ROOTSTAT_LOCK = true) ∧ (s.flag F.CLK_ROOTSTAT_HOLD = false) ∧ ((s.lockChange false).armed 4 = false))) (wBase) ) &&
    ((fun (s : State)  => decide (((s.cmon.mon.any fun m => m.fallback) = false))) (wBase) )) = true := by decide +kernel

theorem witness_ResetAndTocsinCommandsComplete :
    (((fun (s : State) (rails : Nat) => decide ((rails % 256 &&& s.railsNeeded ≠ s.railsNeeded))) (wBase) 0) &&
    ((fun (s : State) (rails : Nat) => decide ((rails % 256 &&& s.railsNeeded = s.railsNeeded) ∧ (s.pmu.porHeld = true))) ({ wBase with pmu := { wBase.pmu with porHeld := true } }) 255) &&
    ((fun (s : State)  => decide ((s.pmu.resetLow = false) ∧ (s.pmu.porHeld = false))) ({ wBase with pmu := { wBase.pmu with porHeld := false } }) ) &&
    ((fun (s : State)  => decide ((s.pmu.resetLow = true))) ({ wBase with pmu := { wBase.pmu with resetLow := true } }) ) &&
    ((fun (s : State) (b : TocBatch) (bs : List TocBatch) (e : StickyEvent) => decide ((s.pmu.isolated = false) ∧ (s.toc.inbox = b :: bs) ∧ (b.evs = [e]) ∧ (stickyClass e.page e.bit = 2) ∧ (s.flag F.TOC_STAT_NMI_ACTIVE = false))) ({ wBase with toc := { wBase.toc with inbox := [⟨1, 2, 0, [⟨P.TBU, 12, 0⟩]⟩] } }) ⟨1, 2, 0, [⟨P.TBU, 12, 0⟩]⟩ [] ⟨P.TBU, 12, 0⟩) &&
    ((fun (s : State) (init w : Nat) => decide ((s.admits init R.TOC_NMIACK = true) ∧ (w = 0xAC4B) ∧ ((s.flag F.TOC_STAT_MISSED) = false))) (wBase) Init.MC 0xAC4B) &&
    ((fun (s : State) (n d : Nat) => decide ((s.toc.window = some d) ∧ (s.pmu.isolated = false) ∧ (d ≤ s.aon.raw + n) ∧ (((s.aonRun n).flag F.TOC_STAT_NMI_ACTIVE) = false))) ({ wBase with toc := { wBase.toc with window := some 1 } }) 1 1) &&
    ((fun (s : State) (init : Nat) (keep : Bool) => decide ((s.admits init R.TOC_ESC = true) ∧ (s.flag F.TOC_STAT_ESC = true))) (wBase.setFlag F.TOC_STAT_ESC true) Init.NYM false) &&
    ((fun (s : State) (init : Nat) (keep : Bool) => decide ((s.admits init R.TOC_ESC = true) ∧ (s.flag F.TOC_STAT_ESC = true))) (wBase.setFlag F.TOC_STAT_ESC true) Init.NYM false) &&
    ((fun (s : State)  => decide ((s.toc.planeReset = true))) ({ wBase with toc := { wBase.toc with planeReset := true } }) ) &&
    ((fun (s : State) (n d : Nat) => decide ((s.toc.escTimer = some d) ∧ (d ≤ s.aon.raw + n))) ({ wBase with toc := { wBase.toc with escTimer := some 1 } }) 1 1) &&
    ((fun (s : State) (init w : Nat) => decide ((s.admits init R.TOC_LOGPOP = true) ∧ (w % 2 = 1))) (wBase) Init.MC 1)) = true := by decide +kernel

theorem witness_AlwaysOnCommandsComplete :
    (((fun (s : State) (n : Nat) => decide ((n ≠ 0) ∧ (s.aon.brown = false) ∧ ((s.aonRun (n - 1)).aon.sec = s.aon.sec) ∧ ((s.aonRun (n - 1)).aonEdge.aon.sec ≠ (s.aonRun (n - 1)).aon.sec))) ({ wBase with aon := { wBase.aon with sub := 32767, brown := false } }) 1) &&
    ((fun (s : State)  => decide ((s.aon.commit = true) ∧ (s.aon.brown = false))) ({ wBase with aon := { wBase.aon with commit := true, brown := false } }) ) &&
    ((fun (s : State) (init : Nat) => decide ((s.admits init R.RTC_CTL = true))) (wBase) Init.MC) &&
    ((fun (s : State)  => decide ((s.aon.setTbu = true) ∧ (s.aon.brown = false))) ({ wBase with aon := { wBase.aon with setTbu := true, brown := false } }) ) &&
    ((fun (s : State) (n : Nat) => decide (((s.aon.raw + n) % 33554432 = 0) ∧ (0 < n))) ({ wBase with aon := { wBase.aon with raw := 33554431, brown := false } }) 1) &&
    ((fun (s : State)  => decide ((s.aon.onVbat = false) ∧ (s.flag F.RTC_FIRSTSW1_VALID = false) ∧ (s.aon.swPend = false))) ({ wBase with aon := { wBase.aon with onVbat := false, brown := false } }) ) &&
    ((fun (s : State)  => decide ((s.aon.onVbat = false) ∧ (s.flag F.RTC_FIRSTSW1_VALID = true))) (({ wBase with aon := { wBase.aon with onVbat := false, brown := false } } : State).setFlag F.RTC_FIRSTSW1_VALID true) ) &&
    ((fun (s : State)  => decide ((s.aon.brown = false) ∧ (s.aon.powered = true))) ({ wBase with aon := { wBase.aon with onVbat := true, brown := false, powered := true } }) ) &&
    ((fun (s : State)  => decide ((s.aon.brown = true ∨ s.aon.powered = false))) ({ wBase with aon := { wBase.aon with onVbat := true, brown := true } }) ) &&
    ((fun (s : State)  => decide ((s.aon.onVbat = false) ∧ (s.flag F.AON_STAT_VBAT_LOW = false))) (wBase) ) &&
    ((fun (s : State)  => decide ((s.aon.onVbat = false) ∧ (s.flag F.AON_STAT_VBAT_LOW = true))) (wBase.setFlag F.AON_STAT_VBAT_LOW true) ) &&
    ((fun (s : State)  => decide ((s.aon.onVbat = true))) ({ wBase with aon := { wBase.aon with onVbat := true } }) )) = true := by decide +kernel

theorem witness_AlwaysOnCommandsComplete_2 :
    (((fun (s : State) (init : Nat) => decide ((s.admits init R.RTC_FIRSTSW1 = true))) (wBase) Init.MC) &&
    ((fun (s : State) (init : Nat) => decide ((s.admits init R.AON_FATCTL = true))) (wBase) Init.MC)) = true := by decide +kernel

theorem witness_DmaCommandsComplete :
    (((fun (s : State) (init n : Nat) => decide ((n < 32) ∧ (s.storesOpen init = false) ∧ (s.admits init (R.CH_CTRL n) = true) ∧ (s.chanState n = 0) ∧ (s.flag (F.CH_CTRL_PAUSE n) = false))) (wDma 0 0) Init.MC 0) &&
    ((fun (s : State) (init n : Nat) (on : Bool) => decide ((n < 32) ∧ (s.storesOpen init = false) ∧ (s.admits init (R.CH_CTRL n) = true) ∧ (s.chanState n = 3) ∧ (on = true))) (wDma 3 1) Init.MC 0 true) &&
    ((fun (s : State) (init n : Nat) (on : Bool) => decide ((n < 32) ∧ (s.storesOpen init = false) ∧ (s.admits init (R.CH_CTRL n) = true) ∧ (s.chanState n = 5) ∧ ((s.chanGet n).from_ = 3) ∧ (s.enabled P.DMA = true) ∧ (on = false))) ((wDma 5 1).chanSet 0 { (wDma 5 1).chanGet 0 with from_ := 3 }) Init.MC 0 false) &&
    ((fun (s : State) (init n : Nat) => decide ((n < 32) ∧ (s.storesOpen init = false) ∧ (s.admits init (R.CH_CTRL n) = true) ∧ (s.chanState n = 6) ∧ (s.flag (F.CH_CTRL_PAUSE n) = false))) (wDma 6 1) Init.MC 0) &&
    ((fun (s : State) (init n : Nat) => decide ((n < 32) ∧ (s.storesOpen init = false) ∧ (s.admits init (R.CH_CTRL n) = true) ∧ (s.chanState n = 6) ∧ (s.flag (F.CH_CTRL_PAUSE n) = false) ∧ ((s.chanGet n).stage = .data))) (wDma 6 1) Init.MC 0) &&
    ((fun (s : State) (init n k u : Nat) => decide ((n < 32) ∧ (s.storesOpen init = false) ∧ (s.admits init (R.CH_CTRL n) = true) ∧ (s.chanState n = 6) ∧ (s.flag (F.CH_CTRL_PAUSE n) = false) ∧ ((s.chanGet n).desc.isEmpty = false))) (wDma 6 1) Init.MC 0 0 0) &&
    ((fun (s : State) (n : Nat) => decide ((n < 32) ∧ (s.dmaRuns = true) ∧ (s.fld (F.CH_TRIG_SRC n) = 1) ∧ (s.chanState n = 3) ∧ (s.flag (F.CH_STAT_PEND n) = false))) ((wDma 3 1).setFld (F.CH_TRIG_SRC 0) 1) 0) &&
    ((fun (s : State) (n : Nat) => decide ((n < 32) ∧ (s.dmaRuns = true) ∧ (s.fld (F.CH_TRIG_SRC n) = 3) ∧ (s.chanState n = 2))) ((wDma 2 1).setFld (F.CH_TRIG_SRC 0) 3) 0) &&
    ((fun (s : State) (n : Nat) => decide ((n < 32) ∧ (s.dmaRuns = true) ∧ (s.fld (F.CH_TRIG_SRC n) = 2) ∧ (s.chanState n = 2))) ((wDma 2 1).setFld (F.CH_TRIG_SRC 0) 2) 0) &&
    ((fun (s : State) (n : Nat) (spi : Bool) => decide ((n < 32) ∧ (s.dmaRuns = true) ∧ (s.fld (F.CH_TRIG_SRC n) = 4) ∧ (s.chanState n = 2) ∧ (s.requestLine (s.fld (F.CH_TRIG_IDX n)) = true) ∧ (s.fld (F.CH_TRIG_IDX n) < 4))) (((wDma 2 1).setFld (F.CH_TRIG_SRC 0) 4).setFld (F.CH_TRIG_IDX 0) 1) 0 false)) = true := by decide +kernel

theorem witness_DmaCommandsComplete_e1 :
    (fun (s : State) (n : Nat) (t : State) (ws : List Word) => ((s.dmaRuns = true) ∧ (n < 32) ∧ (s.chanState n = 1) ∧ ((s.chanGet n).backoff = false) ∧ (({ DmaChan.reset with desc := ws } : DmaChan).own = true) ∧ (({ DmaChan.reset with desc := ws } : DmaChan).refused = false)) ∧ (s.descRead (s.descAddr n) 16 = (t, .inl ws))) (wDmaFetch) 0 (((wDmaFetch).descRead ((wDmaFetch).descAddr 0) 16).1) wDmaDesc :=
  ⟨by decide +kernel, pairEq (by first | with_reducible rfl | decide +kernel)⟩

theorem witness_DmaCommandsComplete_e2 :
    (fun (s : State) (n : Nat) (t : State) (ws : List Word) => ((s.dmaRuns = true) ∧ (n < 32) ∧ (s.chanState n = 1) ∧ ((s.chanGet n).backoff = false) ∧ (({ DmaChan.reset with desc := ws } : DmaChan).own = false) ∧ (s.flag (F.CH_CFG_POLL n) = false)) ∧ (s.descRead (s.descAddr n) 16 = (t, .inl ws))) (wDma 1 0) 0 (((wDma 1 0).descRead ((wDma 1 0).descAddr 0) 16).1) (List.replicate 16 0) :=
  ⟨by decide +kernel, pairEq (by first | with_reducible rfl | decide +kernel)⟩

theorem witness_DmaCommandsComplete_e3 :
    (fun (s : State) (n : Nat) (t : State) => ((s.dmaRuns = true) ∧ (n < 32) ∧ (s.chanState n = 3) ∧ ((s.chanGet n).backoff = false)) ∧ (s.dmaServe n = some t)) (wDma 3 1) 0 (((wDma 3 1).dmaServe 0).getD wBase) :=
  ⟨by decide +kernel, someEq (by first | with_reducible rfl | decide +kernel)⟩

theorem witness_DmaCommandsComplete_e4 :
    (fun (s : State) (n k : Nat) (t : State) => ((s.dmaRuns = true) ∧ (n < 32) ∧ (s.chanState n = 4) ∧ ((s.chanGet n).backoff = false) ∧ ((t.chanGet n).got = [])) ∧ (s.dataElems n k = some t)) (wDma 4 1) 0 1 (((wDma 4 1).dataElems 0 1).getD wBase) :=
  ⟨by decide +kernel, someEq (by first | with_reducible rfl | decide +kernel)⟩

theorem witness_DmaCommandsComplete_e5 :
    (fun (s : State) (n k u code : Nat) (collide : Bool) (t w : State) => ((s.dmaRuns = true) ∧ (n < 32) ∧ (s.chanState n = 3) ∧ ((s.chanGet n).backoff = false) ∧ ((t.chanGet n).left ≠ 0)) ∧ ((s.dataElems n k).bind (State.dataUnits n u) = some t) ∧ (t.dataUnit n collide = (w, .bad code))) (wDma 3 1) 0 0 1 5 true ((((wDma 3 1).dataElems 0 0).bind (State.dataUnits 0 1)).getD wBase) ((((((wDma 3 1).dataElems 0 0).bind (State.dataUnits 0 1)).getD wBase).dataUnit 0 true).1) :=
  ⟨by decide +kernel, someEq (by first | with_reducible rfl | decide +kernel), pairEq (by first | with_reducible rfl | decide +kernel)⟩

theorem witness_DmaCommandsComplete_e6 :
    (fun (s : State) (n : Nat) (collide : Bool) (t : State) (v : Nat) => ((s.dmaRuns = true) ∧ (n < 32) ∧ ((s.chanGet n).backoff = true) ∧ (s.chanState n = 3)) ∧ ((s.chanSet n { s.chanGet n with backoff := false }).dataUnit n collide = (t, .ok v))) ((wDma 3 1).chanSet 0 { (wDma 3 1).chanGet 0 with backoff := true }) 0 false (((((wDma 3 1).chanSet 0 { (wDma 3 1).chanGet 0 with backoff := true }).chanSet 0 { ((wDma 3 1).chanSet 0 { (wDma 3 1).chanGet 0 with backoff := true }).chanGet 0 with backoff := false }).dataUnit 0 false).1) 0 :=
  ⟨by decide +kernel, pairEq (by first | with_reducible rfl | decide +kernel)⟩

theorem witness_DmaCommandsComplete_e7 :
    (fun (s : State) (n : Nat) (t : State) => ((s.dmaRuns = true) ∧ (n < 32) ∧ (s.chanState n = 7) ∧ ((s.chanGet n).backoff = false)) ∧ (State.stagesRun n 3 s = some t)) (wDma 7 1) 0 ((State.stagesRun 0 3 (wDma 7 1)).getD wBase) :=
  ⟨by decide +kernel, someEq (by first | with_reducible rfl | decide +kernel)⟩

theorem witness_HostInterfaceCommandsComplete :
    (((fun (s : State) (init w h n : Nat) => decide ((s.admits init R.PCIE_FCMD = true) ∧ (w = 1) ∧ (h = (s.reg R.PCIE_FHADDR0).toNat + (s.reg R.PCIE_FHADDR1).toNat * 2 ^ 32) ∧ (n = s.fld F.PCIE_FLEN_LEN) ∧ (s.host.fetch = none) ∧ (s.live P.PCIE = true) ∧ ((((s.respond .served).setFld F.PCIE_FCMD_DIR 0)).fetchOk = true))) (wFetch) Init.MC 1 0 4) &&
    ((fun (s : State) (data : List Byte) (a n h : Nat) => decide ((s.host.fetch = some (1, a, n, h)))) (wFetching 1) [] 0x20A00000 4 0) &&
    ((fun (s : State) (data : List Byte) (a n h : Nat) => decide ((s.host.fetch = some (0, a, n, h)))) (wFetching 0) [] 0x20A00000 4 0) &&
    ((fun (s : State) (init v : Nat) => decide ((s.admits init R.PCIE_EOI = true))) (wBase) Init.HOST 3) &&
    ((fun (s : State) (up : Bool) (speed width : Nat) => decide ((s.live P.PCIE = true) ∧ (s.flag F.PCIE_STAT_LINK_UP = false) ∧ (up = true))) (wBase) true 2 1) &&
    ((fun (s : State) (up : Bool) (speed width : Nat) => decide ((s.live P.PCIE = true) ∧ (s.flag F.PCIE_STAT_LINK_UP = true) ∧ (up = false))) (wPcie) false 0 0) &&
    ((fun (s : State) (on : Bool) => decide ((s.live P.PCIE = true) ∧ (s.flag F.PCIE_STAT_LINK_UP = true))) (wPcie) true) &&
    ((fun (s : State) (d3hot : Bool) => decide ((s.live P.PCIE = true) ∧ (s.flag F.PCIE_STAT_LINK_UP = true))) (wPcie) true) &&
    ((fun (s : State) (en : Bool) (mask : Bool) => decide ((s.live P.PCIE = true) ∧ (s.flag F.PCIE_STAT_LINK_UP = true) ∧ (en = true))) (wPcie) true false) &&
    ((fun (s : State) (u : Nat) (b : Byte) => decide ((s.uartOn u = true) ∧ ((s.host.uartRx.getD u []).length < 64))) (wBase.setFlag (F.UART_CFG_EN 1) true) 1 65) &&
    ((fun (s : State) (u : Nat) (b : Byte) => decide ((s.uartOn u = true) ∧ (64 ≤ (s.host.uartRx.getD u []).length))) ({ wBase.setFlag (F.UART_CFG_EN 1) true with host := { wBase.host with uartRx := [[], List.replicate 64 0] } }) 1 65) &&
    ((fun (s : State) (u : Nat) => decide ((s.uartOn u = true))) (wBase.setFlag (F.UART_CFG_EN 1) true) 1)) = true := by decide +kernel

theorem witness_HostInterfaceCommandsComplete_2 :
    (((fun (s : State) (init w : Nat) => decide ((s.admits init R.QSPI_CMD = true) ∧ (getBits (BitVec.ofNat 32 w) 31 1 = 1) ∧ (s.host.qspiCmd = none) ∧ (s.live P.UART = true))) (wBase) Init.MC 0x80000003) &&
    ((fun (s : State) (data : List Byte) (v : Word) => decide ((s.host.qspiCmd = some v) ∧ (getBits v 23 1 = 1))) ({ wBase with host := { wBase.host with qspiCmd := some 0x00800000 } }) [] 0x00800000) &&
    ((fun (s : State) (data : List Byte) (v : Word) => decide ((s.host.qspiCmd = some v) ∧ (getBits v 23 1 = 0) ∧ (data.length = qspiLen v))) ({ wBase with host := { wBase.host with qspiCmd := some 0x00004000 } }) [7] 0x00004000) &&
    ((fun (s : State) (init w : Nat) => decide ((s.admits init R.MDIO_CMD = true) ∧ (s.host.mdio = none) ∧ (s.live P.UART = true))) (wBase) Init.MC 5) &&
    ((fun (s : State) (data : Nat) (v : Word) => decide ((s.host.mdio = some v) ∧ (mdioReads v = false))) ({ wBase with host := { wBase.host with mdio := some 0 } }) 5 0) &&
    ((fun (s : State) (data : Nat) (v : Word) => decide ((s.host.mdio = some v) ∧ (mdioReads v = true))) ({ wBase with host := { wBase.host with mdio := some 0x800 } }) 5 0x800) &&
    ((fun (s : State) (init w : Nat) => decide ((s.admits init R.GPIO_SET = true))) (wBase) Init.MC 5) &&
    ((fun (s : State) (init w : Nat) => decide ((s.admits init R.GPIO_CLR = true))) (wBase) Init.MC 5)) = true := by decide +kernel

theorem witness_HostInterfaceCommandsComplete_e1 :
    (fun (s : State) (data : List Byte) (a n h : Nat) (t : State) => ((s.host.fetch = some (0, a, n, h)) ∧ (s.pcieUp = true) ∧ (s.flag F.PCIE_STAT_BME = true) ∧ (data.length = n)) ∧ (s.portWrite Init.HOST a data = (t, true))) (wFetching 0) [1, 2, 3, 4] 0x20A00000 4 0 ((wFetching 0).portWrite Init.HOST 0x20A00000 [1, 2, 3, 4]).1 :=
  ⟨by decide +kernel, pairEq (by first | with_reducible rfl | decide +kernel)⟩

theorem witness_HostInterfaceCommandsComplete_e2 :
    (fun (s : State) (data l : List Byte) (a n h : Nat) (t : State) => ((s.host.fetch = some (1, a, n, h)) ∧ (s.pcieUp = true) ∧ (s.flag F.PCIE_STAT_BME = true)) ∧ (s.portRead Init.HOST a n = (t, some l))) (wFetching 1) [] [0, 0, 0, 0] 0x20A00000 4 0 (((wFetching 1).portRead Init.HOST 0x20A00000 4).1) :=
  ⟨by decide +kernel, pairEq (by first | with_reducible rfl | decide +kernel)⟩

theorem witness_HostInterfaceCommandsComplete_e3 :
    (fun (s : State) (n : Nat) (level held : Bool) (t : State) => ((n < 16) ∧ (held = true ∨ bit (s.fld F.GPIO_DEB_DEB) n = false) ∧ (bit t.gpioLevel n = level) ∧ (bit s.host.balls n ≠ level) ∧ (s.live P.GPIO = true) ∧ (bit (s.fld F.GPIO_EDGE_EDGE / 4 ^ n % 4) (if level then 0 else 1) = true)) ∧ (t = s.hostPut { s.host with ext := setBit s.host.ext n level })) ((wBase.setFld F.GPIO_EDGE_EDGE 4).setFld F.GPIO_DIR_DIR 0) 1 true true (((wBase.setFld F.GPIO_EDGE_EDGE 4).setFld F.GPIO_DIR_DIR 0).hostPut { ((wBase.setFld F.GPIO_EDGE_EDGE 4).setFld F.GPIO_DIR_DIR 0).host with ext := setBit ((wBase.setFld F.GPIO_EDGE_EDGE 4).setFld F.GPIO_DIR_DIR 0).host.ext 1 true }) :=
  ⟨by decide +kernel, rfl⟩

theorem witness_HostAccessAndMailboxIndexCommandsComplete :
    (((fun (s : State) (off v : Nat) => decide ((s.pcieUp = true) ∧ (off < 16777216) ∧ (s.admits Init.HOST (0x40000000 + off) = true) ∧ (((s.respond .served).regAct Init.HOST (0x40000000 + off) (BitVec.ofNat 32 v)).resp = .served))) (wPcie) (R.MBX_CMDPI - 0x40000000) 0) &&
    ((fun (s : State) (off v : Nat) => decide ((s.pcieUp = true) ∧ (off < 16777216) ∧ (s.serves Init.HOST (0x40000000 + off) = true))) (wPcie) (R.MBX_CMDPI - 0x40000000) 0) &&
    ((fun (s : State) (init v : Nat) => decide ((s.admits init R.MBX_CMDPI = true) ∧ (s.hostWriteHeld = false) ∧ (ringLen (v % 65536) (s.fld F.MBX_CMDCI_IDX) ≤ 1024))) (wBase) Init.HOST 1) &&
    ((fun (s : State) (init v : Nat) => decide ((s.admits init R.MBX_CMDCI = true))) (wBase) Init.MC 1) &&
    ((fun (s : State) (init v : Nat) => decide ((s.admits init R.MBX_RSPPI = true))) (wBase) Init.MC 1) &&
    ((fun (s : State) (init v : Nat) => decide ((s.admits init R.MBX_RSPCI = true))) (wBase) Init.HOST 1)) = true := by decide +kernel

theorem witness_HostAccessAndMailboxIndexCommandsComplete_e1 :
    (fun (s : State) (off v count : Nat) (t : State) => ((s.pcieUp = true) ∧ (off % 4 = 0) ∧ (off + 4 ≤ 4194304) ∧ (4 ≤ s.host.mps) ∧ (s.bankHolds ⟨Init.HOST, true, s.bar2Addr off, 4, v % 4294967296⟩ = false)) ∧ (s.farWrite Init.HOST (s.bar2Addr off) 4 (v % 4294967296) = (t, .served))) (wBar2) 0 5 0 (((wBar2).farWrite Init.HOST ((wBar2).bar2Addr 0) 4 (5 % 4294967296)).1) :=
  ⟨by decide +kernel, pairEq (by first | with_reducible rfl | decide +kernel)⟩

theorem witness_HostAccessAndMailboxIndexCommandsComplete_e2 :
    (fun (s : State) (off count : Nat) (words : List (Nat × Nat)) (t : State) (l : List (Option Word)) => ((s.pcieUp = true) ∧ (off % 4 = 0) ∧ (off + 4 * count ≤ 4194304) ∧ (((List.range count).any fun k => s.bankHolds ⟨Init.HOST, false, s.bar2Addr off + 4 * k, 4, 0⟩) = false) ∧ (l.contains none = false)) ∧ (State.hostReads s (s.bar2Addr off) count = (t, l))) (wBar2) 0 2 [] ((State.hostReads (wBar2) ((wBar2).bar2Addr 0) 2).1) [some 0, some 0] :=
  ⟨by decide +kernel, pairEq (by first | with_reducible rfl | decide +kernel)⟩

theorem witness_HostAccessAndMailboxIndexCommandsComplete_e3 :
    (fun (s : State) (addr count n : Nat) (fill : List Nat) (t u : State) (l : List (Option Word)) => ((s.spiUp = true) ∧ (n = count % 64 + 1) ∧ (s.flag F.SPIT_CFG_CRC = false) ∧ (t.readWaits ⟨true, addr % 2 ^ 32, n, true, fill⟩ = false)) ∧ (t = s.spiBegin) ∧ (State.hostReads t (addr % 2 ^ 32) n = (u, l))) (wBar2) 0x20A00000 0 1 [2] ((wBar2).spiBegin) ((State.hostReads ((wBar2).spiBegin) (0x20A00000 % 2 ^ 32) 1).1) [some 0] :=
  ⟨by decide +kernel, rfl, pairEq (by first | with_reducible rfl | decide +kernel)⟩

theorem witness_HostAccessAndMailboxIndexCommandsComplete_e4 :
    (fun (s : State) (addr count crc : Nat) (data : List Byte) (t u : State) (e : Bool) => ((s.spiUp = true) ∧ (s.flag F.SPIT_CFG_CRC = false) ∧ (data.length = 4 * (count % 64 + 1))) ∧ (t = s.spiBegin) ∧ (State.hostWrites t (addr % 2 ^ 32) (toWords data) = (u, e))) (wBar2) 0x20A00000 0 0 [1, 2, 3, 4] ((wBar2).spiBegin) ((State.hostWrites ((wBar2).spiBegin) (0x20A00000 % 2 ^ 32) (toWords [1, 2, 3, 4])).1) false :=
  ⟨by decide +kernel, rfl, pairEq (by first | with_reducible rfl | decide +kernel)⟩

theorem witness_MailboxCommandsComplete :
    (((fun (s : State) (c : MbxCmd) => decide ((s.mbxServes = true) ∧ (s.host.taken = none) ∧ (s.mbxTake.host.taken = some c) ∧ (c.op = 1) ∧ (c.step < 1000))) (wMbxRing) ⟨1, false, 0, [], 0⟩) &&
    ((fun (s : State) (c : MbxCmd) => decide ((s.mbxServes = true) ∧ (s.host.taken = some c) ∧ (c.op = 16) ∧ (c.step < 1000) ∧ (4 ≤ c.payload.length) ∧ (c.step = 0))) (wMbx ⟨16, false, 0, [3, 0, 0, 0], 0⟩) ⟨16, false, 0, [3, 0, 0, 0], 0⟩) &&
    ((fun (s : State) (c : MbxCmd) => decide ((s.mbxServes = true) ∧ (s.host.taken = some c) ∧ (c.op = 16) ∧ (c.step < 1000) ∧ (4 ≤ c.payload.length) ∧ (c.step ≠ 0) ∧ (s.flag F.SYS_MODE_CMD_PEND = false) ∧ (s.flag F.SYS_MODE_CMD_REFUSED = false) ∧ (s.flag F.SYS_MODE_CMD_DROPPED = false))) (wMbx ⟨16, false, 0, [3, 0, 0, 0], 1⟩) ⟨16, false, 0, [3, 0, 0, 0], 1⟩) &&
    ((fun (s : State) (c : MbxCmd) => decide ((s.mbxServes = true) ∧ (s.host.taken = some c) ∧ (c.op = 17) ∧ (c.step < 1000) ∧ (4 ≤ c.payload.length) ∧ (leAt c.payload 0 4 % 8 < 5))) (wMbx ⟨17, false, 0, [1, 0, 0, 0], 0⟩) ⟨17, false, 0, [1, 0, 0, 0], 0⟩) &&
    ((fun (s : State) (c : MbxCmd) => decide ((s.mbxServes = true) ∧ (s.host.taken = some c) ∧ (c.op = 32) ∧ (c.step < 1000) ∧ (8 ≤ c.payload.length))) (wMbx ⟨32, false, 0, List.replicate 8 1, 0⟩) ⟨32, false, 0, List.replicate 8 1, 0⟩) &&
    ((fun (s : State) (c : MbxCmd) => decide ((s.mbxServes = true) ∧ (s.host.taken = some c) ∧ (c.op = 33) ∧ (c.step < 1000) ∧ (24 ≤ c.payload.length))) (wMbx ⟨33, false, 0, List.replicate 24 1, 0⟩) ⟨33, false, 0, List.replicate 24 1, 0⟩) &&
    ((fun (s : State) (c : MbxCmd) => decide ((s.mbxServes = true) ∧ (s.host.taken = some c) ∧ (c.op = 65) ∧ (c.step < 1000) ∧ (72 ≤ c.payload.length) ∧ (c.step = 0) ∧ (s.flag F.PTP_SESSSTAT_BUSY = false))) (wMbx ⟨65, false, 0, List.replicate 72 1, 0⟩) ⟨65, false, 0, List.replicate 72 1, 0⟩) &&
    ((fun (s : State) (c : MbxCmd) => decide ((s.mbxServes = true) ∧ (s.host.taken = some c) ∧ (c.op = 65) ∧ (c.step < 1000) ∧ (72 ≤ c.payload.length) ∧ (c.step ≠ 0) ∧ (s.flag F.PTP_SESSSTAT_BUSY = false))) (wMbx ⟨65, false, 0, List.replicate 72 1, 1⟩) ⟨65, false, 0, List.replicate 72 1, 1⟩) &&
    ((fun (s : State) (c : MbxCmd) => decide ((s.mbxServes = true) ∧ (s.host.taken = some c) ∧ (c.op = 80) ∧ (c.step < 1000) ∧ (4 ≤ c.payload.length) ∧ (2 ≤ leAt c.payload 0 4) ∧ (leAt c.payload 0 4 ≤ 5))) (wMbx ⟨80, false, 0, [2, 0, 0, 0], 0⟩) ⟨80, false, 0, [2, 0, 0, 0], 0⟩) &&
    ((fun (s : State) (c : MbxCmd) => decide ((s.mbxServes = true) ∧ (s.host.taken = some c) ∧ (c.op = 96) ∧ (c.step < 1000) ∧ (32 ≤ c.payload.length) ∧ (c.step = 1) ∧ (s.flag (F.NYM_RSTAT_BUSY 1) = false) ∧ (s.nymBufOf 224 Init.NYM = true))) ((wMbxN ⟨96, false, 0, List.replicate 32 1, 1⟩).setFld (F.MEM_OWNER_OWNER 40) Init.NYM) ⟨96, false, 0, List.replicate 32 1, 1⟩) &&
    ((fun (s : State) (c : MbxCmd) => decide ((s.mbxServes = true) ∧ (s.host.taken = some c) ∧ (c.op = 112) ∧ (c.step < 1000) ∧ (16 ≤ c.payload.length) ∧ (c.hostmem = false) ∧ (leAt c.payload 0 4 % 256 < 4) ∧ (c.step = 1) ∧ (s.flag (F.NYM_RSTAT_BUSY 1) = false) ∧ (s.nymBufOf (leAt c.payload 12 4) Init.NYM = true))) ((wMbxN ⟨112, false, 0, leBytes 12 2 ++ leBytes 4 580, 1⟩).setFld (F.MEM_OWNER_OWNER 40) Init.NYM) ⟨112, false, 0, leBytes 12 2 ++ leBytes 4 580, 1⟩) &&
    ((fun (s : State) (c : MbxCmd) => decide ((s.mbxServes = true) ∧ (s.host.taken = some c) ∧ (c.op = 112) ∧ (c.step < 1000) ∧ (16 ≤ c.payload.length) ∧ (c.hostmem = false) ∧ (leAt c.payload 0 4 % 256 < 4) ∧ (c.step = 2) ∧ (s.flag (F.NYM_RSTAT_BUSY 1) = false) ∧ (s.nymBufOf (leAt c.payload 12 4) Init.MC = true) ∧ (s.fld (F.NYM_RSTAT_RESULT 1) = 0) ∧ (bit (leAt c.payload 0 4) 8 = false))) (wMbxN ⟨112, false, 0, leBytes 12 2 ++ leBytes 4 580, 2⟩) ⟨112, false, 0, leBytes 12 2 ++ leBytes 4 580, 2⟩)) = true := by decide +kernel

theorem witness_MailboxCommandsComplete_2 :
    (((fun (s : State) (c : MbxCmd) => decide ((s.mbxServes = true) ∧ (s.host.taken = some c) ∧ (c.op = 128) ∧ (c.step < 1000) ∧ (8 ≤ c.payload.length))) (wMbx ⟨128, false, 0, List.replicate 8 0, 0⟩) ⟨128, false, 0, List.replicate 8 0, 0⟩)) = true := by decide +kernel

theorem witness_MailboxCommandsComplete_e1 :
    (fun (s : State) (c : MbxCmd) (t : State) => ((s.mbxServes = true) ∧ (s.host.taken = some c) ∧ (c.op = 96) ∧ (c.step < 1000) ∧ (32 ≤ c.payload.length) ∧ (c.step = 0) ∧ (s.flag (F.NYM_RSTAT_BUSY 1) = false)) ∧ (s.nymGive 224 = some t)) (wMbxN ⟨96, false, 0, List.replicate 32 1, 0⟩) ⟨96, false, 0, List.replicate 32 1, 0⟩ (((wMbxN ⟨96, false, 0, List.replicate 32 1, 0⟩).nymGive 224).getD wBase) :=
  ⟨by decide +kernel, someEq (by first | with_reducible rfl | decide +kernel)⟩

theorem witness_MailboxCommandsComplete_e2 :
    (fun (s : State) (c : MbxCmd) (t : State) (l : List Byte) => ((s.mbxServes = true) ∧ (s.host.taken = some c) ∧ (c.op = 96) ∧ (c.step < 1000) ∧ (32 ≤ c.payload.length) ∧ (2 ≤ c.step) ∧ (s.flag (F.NYM_RSTAT_BUSY 1) = false) ∧ (s.nymBufOf 224 Init.MC = true) ∧ (s.fld (F.NYM_RSTAT_RESULT 1) = 0)) ∧ (s.portRead Init.MC (s.fld (F.NYM_BUF_ADDR 1)) 224 = (t, some l))) (wMbxN ⟨96, false, 0, List.replicate 32 1, 2⟩) ⟨96, false, 0, List.replicate 32 1, 2⟩ (((wMbxN ⟨96, false, 0, List.replicate 32 1, 2⟩).portRead Init.MC ((wMbxN ⟨96, false, 0, List.replicate 32 1, 2⟩).fld (F.NYM_BUF_ADDR 1)) 224).1) (List.replicate 224 0) :=
  ⟨by decide +kernel, pairEq (by first | with_reducible rfl | decide +kernel)⟩

theorem witness_MailboxCommandsComplete_e3 :
    (fun (s : State) (c : MbxCmd) (t : State) => ((s.mbxServes = true) ∧ (s.host.taken = some c) ∧ (c.op = 144) ∧ (c.step < 1000) ∧ (12 ≤ c.payload.length) ∧ (leAt c.payload 0 4 < 64) ∧ (leAt c.payload 4 4 < 8) ∧ (leAt c.payload 8 4 ≠ 0)) ∧ (s.mcWrites [(R.UART_CFG 1, leAt c.payload 4 4 + 8), (R.PAGE_COMMIT P.UART, 0xC0DE0001)] = t)) (wMbx ⟨144, false, 0, leBytes 4 1 ++ leBytes 4 3 ++ leBytes 4 1, 0⟩) ⟨144, false, 0, leBytes 4 1 ++ leBytes 4 3 ++ leBytes 4 1, 0⟩ ((wMbx ⟨144, false, 0, leBytes 4 1 ++ leBytes 4 3 ++ leBytes 4 1, 0⟩).mcWrites [(R.UART_CFG 1, 11), (R.PAGE_COMMIT P.UART, 0xC0DE0001)]) :=
  ⟨by decide +kernel, by rfl⟩

theorem witness_MailboxCommandsComplete_e4 :
    (fun (s : State) (c : MbxCmd) (band : Nat) (t u : State) => ((s.mbxServes = true) ∧ (s.host.taken = some c) ∧ (c.op = 48) ∧ (c.step < 1000) ∧ (60 ≤ c.payload.length) ∧ (leAt c.payload 0 4 = band) ∧ (band < 2)) ∧ (t = (List.range 8).foldl (fun (t : State) e => t.mcWrites [(R.ARR_POSXY band e, leAt c.payload (4 + 6 * e) 2 + leAt c.payload (6 + 6 * e) 2 * 65536), (R.ARR_POSZ band e, leAt c.payload (8 + 6 * e) 2)]) s) ∧ (u = t.mcWrite (R.ARR_CTL band) (putBits (BitVec.ofNat 32 (t.mcRead (R.ARR_CTL band))) 1 1 1).toNat)) (wMbx ⟨48, false, 0, List.replicate 60 0, 0⟩) ⟨48, false, 0, List.replicate 60 0, 0⟩ 0 ((List.range 8).foldl (fun (t : State) e => t.mcWrites [(R.ARR_POSXY 0 e, leAt (⟨48, false, 0, List.replicate 60 0, 0⟩ : MbxCmd).payload (4 + 6 * e) 2 + leAt (⟨48, false, 0, List.replicate 60 0, 0⟩ : MbxCmd).payload (6 + 6 * e) 2 * 65536), (R.ARR_POSZ 0 e, leAt (⟨48, false, 0, List.replicate 60 0, 0⟩ : MbxCmd).payload (8 + 6 * e) 2)]) (wMbx ⟨48, false, 0, List.replicate 60 0, 0⟩)) (((List.range 8).foldl (fun (t : State) e => t.mcWrites [(R.ARR_POSXY 0 e, leAt (⟨48, false, 0, List.replicate 60 0, 0⟩ : MbxCmd).payload (4 + 6 * e) 2 + leAt (⟨48, false, 0, List.replicate 60 0, 0⟩ : MbxCmd).payload (6 + 6 * e) 2 * 65536), (R.ARR_POSZ 0 e, leAt (⟨48, false, 0, List.replicate 60 0, 0⟩ : MbxCmd).payload (8 + 6 * e) 2)]) (wMbx ⟨48, false, 0, List.replicate 60 0, 0⟩)).mcWrite (R.ARR_CTL 0) (putBits (BitVec.ofNat 32 (((List.range 8).foldl (fun (t : State) e => t.mcWrites [(R.ARR_POSXY 0 e, leAt (⟨48, false, 0, List.replicate 60 0, 0⟩ : MbxCmd).payload (4 + 6 * e) 2 + leAt (⟨48, false, 0, List.replicate 60 0, 0⟩ : MbxCmd).payload (6 + 6 * e) 2 * 65536), (R.ARR_POSZ 0 e, leAt (⟨48, false, 0, List.replicate 60 0, 0⟩ : MbxCmd).payload (8 + 6 * e) 2)]) (wMbx ⟨48, false, 0, List.replicate 60 0, 0⟩)).mcRead (R.ARR_CTL 0))) 1 1 1).toNat) :=
  ⟨by decide +kernel, rfl, rfl⟩

set_option maxRecDepth 20000 in
theorem witness_MailboxCommandsComplete_e5 :
    (fun (s : State) (c : MbxCmd) (t v : State) (m : List Byte) => ((s.mbxServes = true) ∧ (s.host.taken = some c) ∧ (c.op = 49) ∧ (c.step < 1000) ∧ (16 ≤ c.payload.length) ∧ (c.hostmem = false) ∧ (sramBase + 20 * bankSize ≤ leAt c.payload 0 8) ∧ (leAt c.payload 0 8 + leAt c.payload 8 4 ≤ sramBase + 22 * bankSize) ∧ (leAt c.payload 8 4 ≠ 0) ∧ (gratForm m = true) ∧ (t.gratTag m 0 = true) ∧ (t.gratTag m 1 = true)) ∧ (s.portRead Init.DMA (leAt c.payload 0 8) (leAt c.payload 8 4) = (t, some m)) ∧ (v = ((t.gratWrites m 0).gratWrites m 1).fwPut { ((t.gratWrites m 0).gratWrites m 1).host.fw with graticule := some m })) (wGrat) wGratCmd (((wGrat).portRead Init.DMA (leAt wGratCmd.payload 0 8) (leAt wGratCmd.payload 8 4)).1) ((((((wGrat).portRead Init.DMA (leAt wGratCmd.payload 0 8) (leAt wGratCmd.payload 8 4)).1).gratWrites wGratImg 0).gratWrites wGratImg 1).fwPut { (((((wGrat).portRead Init.DMA (leAt wGratCmd.payload 0 8) (leAt wGratCmd.payload 8 4)).1).gratWrites wGratImg 0).gratWrites wGratImg 1).host.fw with graticule := some wGratImg }) wGratImg :=
  ⟨by decide +kernel, pairEq (by first | with_reducible rfl | decide +kernel), rfl⟩

theorem witness_MailboxCommandsComplete_e6 :
    (fun (s : State) (c : MbxCmd) (t u : State) => ((s.mbxServes = true) ∧ (s.host.taken = some c) ∧ (c.op = 64) ∧ (c.step < 1000) ∧ (23 ≤ c.payload.length) ∧ (beValue (slice c.payload 0 4) = s.mcRead R.PTP_CLKID1) ∧ (beValue (slice c.payload 4 4) = s.mcRead R.PTP_CLKID0) ∧ (leAt c.payload 21 1 ≤ 1) ∧ (leAt c.payload 20 1 ≤ 7) ∧ (leAt c.payload 22 1 ≤ 15)) ∧ (t = s.mcWrites [(R.PTP_ANN0, leAt c.payload 8 4), (R.PTP_ANN1, leAt c.payload 12 4), (R.PTP_ANN2, leAt c.payload 16 4), (R.PTP_CFG, s.mcRead R.PTP_CFG / 16 * 16 + leAt c.payload 20 1 * 2 + leAt c.payload 21 1), (R.PAGE_COMMIT P.PTP, 0xC0DE0001)]) ∧ (u = (List.range 4).foldl (fun (u : State) n => u.mcWrites [(R.PTPP_CFG n, (putBits (BitVec.ofNat 32 (u.mcRead (R.PTPP_CFG n))) 0 1 (leAt c.payload 22 1 / 2 ^ n)).toNat), (R.PAGE_COMMIT (P.PTPP n), 0xC0DE0001)]) t)) (wPtpDev) wPtpCmd ((wPtpDev).mcWrites [(R.PTP_ANN0, leAt wPtpCmd.payload 8 4), (R.PTP_ANN1, leAt wPtpCmd.payload 12 4), (R.PTP_ANN2, leAt wPtpCmd.payload 16 4), (R.PTP_CFG, (wPtpDev).mcRead R.PTP_CFG / 16 * 16 + leAt wPtpCmd.payload 20 1 * 2 + leAt wPtpCmd.payload 21 1), (R.PAGE_COMMIT P.PTP, 0xC0DE0001)]) ((List.range 4).foldl (fun (u : State) n => u.mcWrites [(R.PTPP_CFG n, (putBits (BitVec.ofNat 32 (u.mcRead (R.PTPP_CFG n))) 0 1 (leAt wPtpCmd.payload 22 1 / 2 ^ n)).toNat), (R.PAGE_COMMIT (P.PTPP n), 0xC0DE0001)]) ((wPtpDev).mcWrites [(R.PTP_ANN0, leAt wPtpCmd.payload 8 4), (R.PTP_ANN1, leAt wPtpCmd.payload 12 4), (R.PTP_ANN2, leAt wPtpCmd.payload 16 4), (R.PTP_CFG, (wPtpDev).mcRead R.PTP_CFG / 16 * 16 + leAt wPtpCmd.payload 20 1 * 2 + leAt wPtpCmd.payload 21 1), (R.PAGE_COMMIT P.PTP, 0xC0DE0001)])) :=
  ⟨by decide +kernel, rfl, rfl⟩

theorem witness_StepTakesTheFrontCommand : decide (({ State.reset with pending := [.swNop 0 0] } : State).pending = [.swNop 0 0]) = true := by decide +kernel

theorem witness_StepTakesTheFrontCommand_1 : decide (State.reset.pending = []) = true := by decide +kernel

theorem witness_EveryStepSettles : (wBase.settled && goesOn (step wBase)) = true := by decide +kernel

theorem witness_EveryStepSettles_1 : nextIs (exec (.swNop 0 0) wBase) fun t => t.settled = true := by decide +kernel

theorem witness_ModeCommandAndEarlyWritesAreRefused : (decide (Init.HOST ≠ Init.MC) && regSpace Init.HOST && decide (wBase.accessCheck R.SYS_MODECMD 4 = .served)) = true := by decide +kernel

theorem witness_ModeCommandAndEarlyWritesAreRefused_1 : (State.reset.beforeMc && decide (State.reset.accessCheck R.ANT_EN 4 = .served)) = true := by decide +kernel

theorem witness_MisshapenAccessesChangeNothing : (regSpace Init.MC && (kindOf (pageOf R.ANT_EN)).isSome && !(wBase.held (pageOf R.ANT_EN)) && !(wBase.gated (pageOf R.ANT_EN)) && decide (2 ≠ 4)) = true := by decide +kernel

theorem witness_MisshapenAccessesChangeNothing_1 : (regSpace Init.MC && (kindOf (pageOf 0x400C0041)).isSome && !(wBase.held (pageOf 0x400C0041)) && !(wBase.gated (pageOf 0x400C0041)) && decide (0x400C0041 % 4 ≠ 0)) = true := by decide +kernel

theorem witness_AbsentAddressesAnswerAlike : (kindOf (pageOf 0x40FF0000)).isNone = true := by decide +kernel

theorem witness_AbsentAddressesAnswerAlike_1 : (!(mapped 0x400C0800) && wBase.serves Init.MC 0x400C0800) = true := by decide +kernel

theorem witness_AbsentAddressesAnswerAlike_2 : (!(mapped 0x400C0800) && wBase.serves Init.HOST 0x400C0800 && !(wBase.beforeMc)) = true := by decide +kernel

theorem witness_TheFirstErrorIsFrozen : decide (3 < 32) = true := by decide +kernel

theorem witness_TheFirstErrorIsFrozen_1 : (decide (P.MEM % 4096 = 0) && wBase.admits Init.MC (R.ERR_STICKY P.MEM)) = true := by decide +kernel

theorem witness_ALockedPageRefusesItsControl : (decide (P.ANT % 4096 = 0) && (wBase.setReg (R.PAGE_LOCK P.ANT) 1).admits Init.MC (R.PAGE_CTRL P.ANT) && (wBase.setReg (R.PAGE_LOCK P.ANT) 1).flag (F.LOCK_LOCK P.ANT)) = true := by decide +kernel

theorem witness_ALockedPageRefusesItsControl_1 : (decide (P.ANT % 4096 = 0) && (wBase.setReg (R.PAGE_LOCK P.ANT) 1).admits Init.NYM (R.PAGE_LOCK P.ANT) && (wBase.setReg (R.PAGE_LOCK P.ANT) 1).flag (F.LOCK_LOCK P.ANT)) = true := by decide +kernel

theorem witness_ALockedPageRefusesItsControl_2 : (decide (P.ANT % 4096 = 0) && (wBase.setReg (R.PAGE_LOCK P.ANT) 1).admits Init.MC (R.PAGE_LOCK P.ANT) && (wBase.setReg (R.PAGE_LOCK P.ANT) 1).flag (F.LOCK_LOCK P.ANT)) = true := by decide +kernel

theorem witness_ATransferMovesEveryShadowAtOnce : ((fun a => decide (a = 0x40)) 0x44 == false) = true := by decide +kernel

theorem witness_ChannelFieldsAreJudgedByTheirChannel : (decide (3 < 32) && (wBase.admits Init.MC (R.CH_CFG 3)) && !(wBase.flag (F.LOCK_LOCK P.DMAC)) && decide (wBase.chanState 3 = 0)) = true := by decide +kernel

theorem witness_ChannelFieldsAreJudgedByTheirChannel_1 : (decide (0 < 32) && ((wDma 3 1).admits Init.MC (R.CH_TRIG 0)) && !((wDma 3 1).flag (F.LOCK_LOCK P.DMAC)) && decide ((wDma 3 1).chanState 0 ≠ 0)) = true := by decide +kernel

theorem witness_NmiReachesMcAlone : decide (3 ≠ mcCore) = true := by decide +kernel

theorem witness_SwialeInstructionsTouchTheirCoreAlone : (decide (swialeCore (.swNop 0 0) = some 0) && goesOn (exec (.swNop 0 0) wBase)) = true := by decide +kernel

theorem witness_CoreStacksKeepTheirDepth : (decide (swialeCore (.swAdd 0 0) = some 0) && wBase.cores.all State.depthsHold && goesOn (exec (.swAdd 0 0) wBase)) = true := by decide +kernel

theorem witness_SpillAndFillKeepTheStackExact : ((fun (k : Core) => decide (k.stack.length = 8) && decide (k.sp < 65536) && decide (k.sp ≤ k.spHi) && (match k.push 9 with | .ok _ => true | .error _ => false)) { Core.reset with stack := [1, 2, 3, 4, 5, 6, 7, 8], sp := 0x2000, spLo := 0x1000, spHi := 0x2000 }) = true := by decide +kernel

theorem witness_ExceptionEntrySavesTheInstruction : (decide (3 < wBase.cores.length) && decide ((wBase.coreGet 3).slot = none) && decide ((wBase.coreGet 3).rep = none) && !((wBase.coreGet 3).excAct) && !((wBase.coreGet 3).nmiAct) && decide ((wBase.coreGet 3).rstack.length + 2 ≤ 16)) = true := by decide +kernel

theorem witness_ExceptionEntrySavesTheInstruction_1 : (decide (3 < (wBase.coreSet 3 { Core.reset with excAct := true }).cores.length) && ((wBase.coreSet 3 { Core.reset with excAct := true }).coreGet 3).excAct) = true := by decide +kernel

theorem witness_BankAccessesWriteTheirBytesOnly : (decide (0x12 ≠ Init.DMA) && decide (40 = (bankOf 0x20A00000).getD 0) && !(wCap.bankHolds ⟨0x12, true, 0x20A00000, 4, 5⟩) && nextIs (exec (.bankAccess none (some ⟨0x12, true, 0x20A00000, 4, 5⟩) none) wCap) fun t => decide (t.resp = .served)) = true := by decide +kernel

theorem witness_BankAccessesWriteTheirBytesOnly_1 : (!((wCap.setFlag (F.MEM_OWNER_ROT 40) true).bankHolds ⟨0x12, true, 0x20A00101, 4, 5⟩) && nextIs (exec (.bankAccess none (some ⟨0x12, true, 0x20A00101, 4, 0xDDCCBBAA⟩) none) (wCap.setFlag (F.MEM_OWNER_ROT 40) true)) fun t => decide (t.resp = .served) && decide (t.sramBytes 0x20A00100 4 = [0xDD, 0xAA, 0xBB, 0xCC])) = true := by decide +kernel

theorem witness_BankAccessesWriteTheirBytesOnly_2 : (nextIs (exec (.bankAccess none (some ⟨0x12, false, 0x20A00100, 2, 0⟩) none) (wCap.sramSetBytes 0x20A00100 [1, 2])) fun t => decide (t.resp = .served) && decide (t.mem.rdataP = 0x201)) = true := by decide +kernel

theorem witness_BankAccessesWriteTheirBytesOnly_3 : (nextIs (exec (.bankAccess none (some ⟨0x12, false, 0x20A00101, 4, 0⟩) none) ((wCap.setFlag (F.MEM_OWNER_ROT 40) true).sramSetBytes 0x20A00100 [0x11, 0x22, 0x33, 0x44])) fun t => decide (t.resp = .served) && decide (t.mem.rdataP = 0x11443322)) = true := by decide +kernel

theorem witness_BankAccessesWriteTheirBytesOnly_4 : (nextIs (exec (.bankAccess none (some ⟨Init.MC, true, 0x20A00100, 4, 0⟩) none) wCap) fun t => decide (t.resp = .own)) = true := by decide +kernel

theorem witness_HandoversFollowTheOwner : (decide (40 < 96) && wCap.admits Init.HOST (R.MEM_OWNER 40) && decide (0x10B % 32 ≠ wCap.bankOwner 40)) = true := by decide +kernel

theorem witness_HandoversFollowTheOwner_1 : (decide (40 < 96) && wCap.admits Init.MC (R.MEM_OWNER 40) && decide (0x120B % 32 ≠ wCap.bankOwner 40) && decide (0x120B / 2 ^ 8 % 32 = wCap.bankOwner 40) && validOwner (0x120B % 32) && !(wCap.bankPending 40) && decide (wCap.handOf 40 = none) && !(wCap.storesOpen Init.MC)) = true := by decide +kernel

theorem witness_HandoversFollowTheOwner_2 : ((fun (s : State) => decide (s.handOf 40 = some ⟨40, 0x0B, true, false, true, Init.MC, true⟩) && !(s.dmaCompletes 40)) { wCap with mem := { wCap.mem with hand := [⟨40, 0x0B, true, false, true, Init.MC, true⟩] } }) = true := by decide +kernel

theorem witness_HandoversFollowTheOwner_3 : (decide (40 < 96) && (wDma 7 1).dmaCompletes 40) = true := by decide +kernel

theorem witness_DmaTriggersAreHeldOnce : ((fun (s : State) => s.dmaRuns && decide (s.fld (F.CH_TRIG_SRC 0) = 1) && decide (s.chanState 0 = 3) && !(s.flag (F.CH_STAT_PEND 0))) ((wDma 3 1).setFld (F.CH_TRIG_SRC 0) 1)) = true := by decide +kernel

theorem witness_DmaTriggersAreHeldOnce_1 : ((fun (s : State) => s.dmaRuns && decide (s.fld (F.CH_TRIG_SRC 0) = 2) && decide (s.chanState 0 = 5) && s.flag (F.CH_STAT_PEND 0)) (((wDma 5 1).setFld (F.CH_TRIG_SRC 0) 2).setFlag (F.CH_STAT_PEND 0) true)) = true := by decide +kernel

theorem witness_DmaTriggersAreHeldOnce_2 : ((fun (s : State) => s.dmaRuns && decide (s.fld (F.CH_TRIG_SRC 0) = 3) && decide (s.chanState 0 = 0)) ((wDma 0 1).setFld (F.CH_TRIG_SRC 0) 3)) = true := by decide +kernel

theorem witness_ATamperTripEntersTheErrorState : decide (2 < 3) = true := by decide +kernel

end Sys2Proof.Tests
end

