-- ==== Sys2Proof/Proofs/ReceiverOverview.lean ====
section
/-! PROOF. Refused writes of register space (R25): what recording an error changes, how a write that is refused ends, and the
obligation that mode commands from anyone but MC and early host writes are refused. -/

namespace Sys2Proof.Machine

/-- `t` differs from `s` in no shadow, not in the mode logic nor in shared SRAM, and in no register but ERR_STICKY and ERR_INFO
of page `p`. -/
structure ErrorFrame (p : Nat) (s t : State) : Prop where
  sys : t.sys = s.sys
  shM : t.shM = s.shM
  shV : t.shV = s.shV
  sram : ∀ a, t.sramByte a = s.sramByte a
  regs : ∀ a, a ≠ R.ERR_STICKY p → a ≠ R.ERR_INFO p → t.reg a = s.reg a

theorem ErrorFrame.trans {p : Nat} {s t u : State} (h : ErrorFrame p s t) (k : ErrorFrame p t u) : ErrorFrame p s u where
  sys := k.sys.trans h.sys
  shM := k.shM.trans h.shM
  shV := k.shV.trans h.shV
  sram a := (k.sram a).trans (h.sram a)
  regs a h1 h2 := (k.regs a h1 h2).trans (h.regs a h1 h2)

namespace State

theorem respond_errorFrame (p : Nat) (s : State) (r : Resp) : ErrorFrame p s (s.respond r) :=
  ⟨rfl, rfl, rfl, fun _ => rfl, fun _ _ _ => rfl⟩

theorem settle_errorFrame (p : Nat) (s : State) : ErrorFrame p s s.settle :=
  ⟨settle_sys s, settle_shM s, settle_shV s, settle_sramByte s, fun a _ _ => settle_reg s a⟩

theorem stickyAt_errorFrame (s : State) (p b off : Nat) (w : Bool) (i d : Nat) :
    ErrorFrame p s (s.stickyAt p b off w i d) :=
  ⟨stickyAt_sys .., stickyAt_shM .., stickyAt_shV .., stickyAt_sramByte s p b off w i d,
    fun _ => stickyAt_reg s p b off w i d⟩

/-- A transition clears no bit of ERR_STICKY. -/
theorem stickyAt_keeps_flag (s : State) (p b c off : Nat) (w : Bool) (i d : Nat) (hb : b < 32)
    (hc : s.flag ⟨R.ERR_STICKY p, c, 1⟩ = true) : (s.stickyAt p b off w i d).flag ⟨R.ERR_STICKY p, c, 1⟩ = true := by
  by_cases hbc : c = b
  · subst hbc
    exact stickyAt_flag s p c off w i d hb
  · obtain ⟨u, hu, e⟩ := stickyAt_rf s p b off w i d
    have hu' : u.reg (R.ERR_STICKY p) = s.reg (R.ERR_STICKY p) := hu _ (sticky_ne_info p)
    unfold flag fld at hc ⊢
    rw [e]
    split
    · rwa [hu']
    · unfold setRegBit
      rw [reg_setReg_same, hu']
      rcases Nat.lt_or_gt_of_ne hbc with h | h
      · rwa [getBits_putBits_below _ _ _ _ _ _ (by omega) h]
      · rwa [getBits_putBits_above _ _ _ _ _ _ (by omega) h]

/-! ### How a write of register space is refused -/

/-- A refused write of SYS_MODECMD is recorded in MODE_ACCESS of SYS (R25). -/
theorem refuseWrite_modecmd (s : State) (init : Nat) :
    s.refuseWrite init R.SYS_MODECMD = s.stickyAt P.SYS 8 (offOf R.SYS_MODECMD) true init 0 := if_pos rfl

/-- Of the writes refused before MC is released, one of SYS_MODECMD is refused as such first. -/
theorem refuseEarly_modecmd (s : State) : s.refuseEarly R.SYS_MODECMD =
    (s.refuseWrite Init.HOST R.SYS_MODECMD).stickyAt P.SYS 9 (offOf R.SYS_MODECMD) true Init.HOST 0 := rfl

theorem refuseEarly_errorFrame (s : State) (a : Nat) : ErrorFrame P.SYS s (s.refuseEarly a) := by
  unfold refuseEarly
  split
  · next h =>
    rw [h, refuseWrite_modecmd]
    exact (stickyAt_errorFrame ..).trans (stickyAt_errorFrame ..)
  · exact stickyAt_errorFrame ..

theorem refuseEarly_sets_earlyWrite (s : State) (a : Nat) :
    (s.refuseEarly a).flag ⟨R.ERR_STICKY P.SYS, 9, 1⟩ = true :=
  stickyAt_flag _ _ _ _ _ _ _ (by decide)

/-- A served write by HOST before MC is released is refused as early, whatever it addresses (R25, log entry 6). -/
theorem viaWidth_early {s : State} {a width : Nat} (hserved : s.accessCheck a width = .served) (hearly : s.beforeMc = true)
    (act : State → State) : s.viaWidth Init.HOST a width act = (s.respond .served).refuseEarly a := by
  have hspace : regSpace Init.HOST = true := by decide
  simp only [viaWidth, hspace, hserved, respond_beforeMc, hearly, and_self, if_true, Bool.not_true, Bool.false_eq_true,
    if_false]

/-- A served write of a register by an initiator that may not write it is refused, unless it is an early one. -/
theorem viaWidth_forbidden {s : State} {init a width : Nat} (hspace : regSpace init = true)
    (hserved : s.accessCheck a width = .served) (hearly : ¬ (init = Init.HOST ∧ s.beforeMc = true))
    (hmapped : mapped a = true) (hwrite : s.mayWrite init a = false) (act : State → State) :
    s.viaWidth init a width act = (s.respond .served).refuseWrite init a := by
  simp only [viaWidth, hspace, hserved, respond_beforeMc, hearly, hmapped, respond_mayWrite, hwrite, Bool.not_true,
    Bool.false_eq_true, if_false]

/-! ### The mode command (R25) -/

theorem mapped_modecmd : mapped R.SYS_MODECMD = true := by decide

/-- MC is the one initiator that the chapter names for SYS_MODECMD. -/
theorem mayWrite_modecmd_of_ne_mc (s : State) {init : Nat} (h : init ≠ Init.MC) :
    s.mayWrite init R.SYS_MODECMD = false := by
  have hwriters : writersOf R.SYS_MODECMD = some [Init.MC] := by simp [writersOf]
  simp [mayWrite, hwriters, h]

/-- A served mode command from anyone but MC sets MODE_ACCESS and changes the error registers of SYS alone. -/
theorem via_modecmd_refused {s : State} {init : Nat} (hmc : init ≠ Init.MC) (hspace : regSpace init = true)
    (hserved : s.accessCheck R.SYS_MODECMD 4 = .served) (act : State → State) :
    (s.via init R.SYS_MODECMD act).flag ⟨R.ERR_STICKY P.SYS, 8, 1⟩ = true ∧
      ErrorFrame P.SYS s (s.via init R.SYS_MODECMD act) := by
  have hresp := respond_errorFrame P.SYS s .served
  unfold via
  by_cases hearly : init = Init.HOST ∧ s.beforeMc = true
  · obtain ⟨rfl, hb⟩ := hearly
    rw [viaWidth_early hserved hb]
    refine ⟨?_, hresp.trans (refuseEarly_errorFrame ..)⟩
    rw [refuseEarly_modecmd, refuseWrite_modecmd]
    exact stickyAt_keeps_flag _ _ _ _ _ _ _ _ (by decide) (stickyAt_flag _ _ _ _ _ _ _ (by decide))
  · rw [viaWidth_forbidden hspace hserved hearly mapped_modecmd (mayWrite_modecmd_of_ne_mc s hmc), refuseWrite_modecmd]
    exact ⟨stickyAt_flag _ _ _ _ _ _ _ (by decide), hresp.trans (stickyAt_errorFrame ..)⟩

/-- A served write by HOST before MC is released sets EARLY_WRITE and changes the error registers of SYS alone. -/
theorem busWrite_early_refused {s : State} {a width : Nat} (hearly : s.beforeMc = true)
    (hserved : s.accessCheck a width = .served) (v : Word) :
    (s.busWrite Init.HOST a width v).flag ⟨R.ERR_STICKY P.SYS, 9, 1⟩ = true ∧
      ErrorFrame P.SYS s (s.busWrite Init.HOST a width v) := by
  unfold busWrite
  rw [viaWidth_early hserved hearly]
  exact ⟨refuseEarly_sets_earlyWrite .., (respond_errorFrame ..).trans (refuseEarly_errorFrame ..)⟩

/-! ### The commands that carry these writes -/

theorem exec_modeCommand (init target : Nat) (s : State) : exec (.modeCommand init target) s =
    .next (s.via init R.SYS_MODECMD fun t => t.modeCommand (target % 8)).settle := rfl

theorem exec_registerWrite (init addr width value : Nat) (s : State) : exec (.registerWrite init addr width value) s =
    .next (s.busWrite init addr width (BitVec.ofNat 32 value)).settle := rfl

/-- A command that ends by settling a recorded error of page `p`, in the form of the statements. -/
theorem next_settle_recorded {p b : Nat} {s t : State} {o : Host.Outcome State Fault Refusal} (ho : o = .next t.settle)
    (h : t.flag ⟨R.ERR_STICKY p, b, 1⟩ = true ∧ ErrorFrame p s t) :
    ∃ u : State, o = .next u ∧ u.flag ⟨R.ERR_STICKY p, b, 1⟩ = true ∧ u.sys = s.sys ∧ u.shM = s.shM ∧ u.shV = s.shV ∧
      (∀ a, u.sramByte a = s.sramByte a) ∧
      ∀ a, a ≠ R.ERR_STICKY p → a ≠ R.ERR_INFO p → u.reg a = s.reg a := by
  obtain ⟨hflag, hframe⟩ := h
  obtain ⟨hsys, hshM, hshV, hsram, hregs⟩ := hframe.trans (settle_errorFrame p t)
  exact ⟨t.settle, ho, (settle_flag ..).trans hflag, hsys, hshM, hshV, hsram, hregs⟩

/-- Settles O45: each write ends in a refusal that only records errors of SYS. That an early host write of SYS_MODECMD sets
both bits, and that EARLY_WRITE is judged before UNMAPPED and ACCESS, is the model's reading (log entry 6). -/
theorem modeCommandAndEarlyWritesAreRefused : Obligations.ModeCommandAndEarlyWritesAreRefused := by
  unfold Obligations.ModeCommandAndEarlyWritesAreRefused
  constructor
  · intro s init target hmc hspace hserved
    exact next_settle_recorded (exec_modeCommand init target s) (via_modecmd_refused hmc hspace hserved _)
  · intro s addr width value hearly hserved
    exact next_settle_recorded (exec_registerWrite Init.HOST addr width value s) (busWrite_early_refused hearly hserved _)

end State
end Sys2Proof.Machine
end

