-- ==== Sys2Proof/Proofs/RegisterPages.lean ====
section
/-! PROOF. Register space as a whole (chapter 2): every run goes on, what misshapen and unmapped accesses answer, what a
transfer of the shadows leaves, the H fields of the DMA channels, and the commands of register space and of the common header
that complete. -/

namespace Sys2Proof.Machine

/-! ### Every command answers a next state -/

/-- No command faults or is refused: each answers a settled next state. -/
theorem exec_next_settle (c : Instr) (s : State) : ∃ t : State, exec c s = .next t.settle := by
  cases c <;> exact ⟨_, rfl⟩

/-- A step goes on, whether it idles or takes the command at the front of the queue. -/
theorem step_next (s : State) : ∃ t, step s = .next t := by
  unfold step
  split
  · exact ⟨s, rfl⟩
  · next c rest _ =>
    obtain ⟨t, ht⟩ := exec_next_settle c { s with pending := rest }
    exact ⟨t.settle, ht⟩

/-- Settles O42, by induction on the number of steps. That an error response is a result in the state and no stop, and that an
empty queue idles, are the model's choices (log entries 4 and 1). -/
theorem everyRunGoesOn : Obligations.EveryRunGoesOn := by
  unfold Obligations.EveryRunGoesOn
  intro n
  induction n with
  | zero => exact fun _ => rfl
  | succ n ih =>
    intro s
    obtain ⟨t, ht⟩ := step_next s
    simp only [safeRun, ht, ih]

/-! ### The register map: where no register lies -/

/-- No block-specific register of any page lies in the common header (R44). -/
theorem row_beyond_header : ∀ k ∈ pageKinds, ∀ r ∈ k.regs, 0x040 ≤ r.off := by decide

theorem findKind_mem {p : Nat} {ks : List PageKind} {k : PageKind} {n : Nat} (h : findKind p ks = some (k, n)) :
    k ∈ ks := by
  induction ks with
  | nil => exact absurd h (by simp [findKind])
  | cons x xs ih =>
    rw [findKind] at h
    split at h
    · obtain ⟨rfl, -⟩ := Prod.mk.inj (Option.some.inj h)
      exact List.mem_cons_self
    · exact List.mem_cons_of_mem _ (ih h)

theorem findRow_eq_none_of_below {o : Nat} {rs : List RegRow} (h : ∀ r ∈ rs, o < r.off) : findRow o rs = none := by
  induction rs with
  | nil => rfl
  | cons r rs ih =>
    have hmiss : r.hit o = false := by simp [RegRow.hit, h r List.mem_cons_self]
    rw [findRow, hmiss, if_neg Bool.false_ne_true, ih fun x hx => h x (List.mem_cons_of_mem _ hx)]

theorem fieldsAt_header {a : Nat} (h : offOf a < 0x040) : fieldsAt a = none := by
  unfold fieldsAt
  split
  · rfl
  · next k n hk =>
    have hrows := row_beyond_header k (findKind_mem hk)
    rw [findRow_eq_none_of_below fun r hr => Nat.lt_of_lt_of_le h (hrows r hr), Option.map_none]

namespace State

theorem fieldsAt_unmapped {a : Nat} (h : mapped a = false) : fieldsAt a = none := by
  by_cases ho : offOf a < 0x040
  · exact fieldsAt_header ho
  · rw [mapped, if_neg ho] at h
    exact Option.not_isSome_iff_eq_none.1 (by rw [h]; exact Bool.false_ne_true)

theorem ne_of_unmapped {a r : Nat} (h : mapped a = false) (hr : mapped r = true) : a ≠ r := by
  rintro rfl
  exact absurd hr (by rw [h]; exact Bool.false_ne_true)

/-- An offset that holds no register reads 0 (R40). -/
theorem readWord_unmapped (s : State) {a : Nat} (h : mapped a = false) : s.readWord a = 0 := by
  rw [readWord, h]
  rfl

/-- A read of an offset that holds no register does nothing: every register with a read effect is mapped. -/
theorem readEffect_unmapped (s : State) {a : Nat} (h : mapped a = false) : s.readEffect a = s := by
  have hne : ∀ r, mapped r = true → ¬ a = r := fun r hr => ne_of_unmapped h hr
  simp only [readEffect, hne R.TBU_NOW0 (by decide), hne R.RTC_CNT0 (by decide), hne R.RTC_CAL0 (by decide),
    hne R.AON_RAW0 (by decide), hne R.ACQ_CELLSLO (by decide), hne (R.UART_DATA 0) (by decide),
    hne (R.UART_DATA 1) (by decide), hne R.QSPI_DATA (by decide), hne R.PTP_RXDATA (by decide),
    hne R.PMU_RETDATA (by decide), hne R.CHS2_EVICT (by decide), if_false]
  rw [fieldsAt_unmapped h]

/-! ### How an access of register space ends -/

theorem exec_rcFieldRead (init addr width : Nat) (s : State) :
    exec (.rcFieldRead init addr width) s = .next (s.busRead init addr width).settle := rfl

theorem accessCheck_misshapen {s : State} {a width : Nat} (hpage : (kindOf (pageOf a)).isSome = true)
    (hheld : s.held (pageOf a) = false) (hgated : s.gated (pageOf a) = false) (hshape : width ≠ 4 ∨ a % 4 ≠ 0) :
    s.accessCheck a width = .align := by
  have hsome : (kindOf (pageOf a)).isNone = false := by rw [← Option.not_isSome, hpage]; rfl
  simp only [accessCheck, hsome, hheld, hgated, if_pos hshape, Bool.false_eq_true, if_false]

theorem accessCheck_absent {s : State} {a width : Nat} (hpage : (kindOf (pageOf a)).isNone = true) :
    s.accessCheck a width = .decode := if_pos hpage

/-- A write that fails the check of its shape sets WIDTH of the page (R39). -/
theorem busWrite_align {s : State} {init a width : Nat} (hspace : regSpace init = true)
    (hcheck : s.accessCheck a width = .align) (v : Word) :
    s.busWrite init a width v = (s.respond .align).stickyAt (pageOf a) 4 (offOf a) true init 0 := by
  simp only [busWrite, viaWidth, hspace, hcheck, Bool.not_true, Bool.false_eq_true, if_false]

/-- A read that fails the check of its shape sets WIDTH of the page (R39). -/
theorem busRead_align {s : State} {init a width : Nat} (hspace : regSpace init = true)
    (hcheck : s.accessCheck a width = .align) :
    s.busRead init a width = (s.respond .align).stickyAt (pageOf a) 4 (offOf a) false init 0 := by
  simp only [busRead, hspace, hcheck, Bool.not_true, Bool.false_eq_true, if_false]

/-- A write outside every page answers the decode error, from whatever initiator (R40, R62). -/
theorem busWrite_absent {s : State} {init a width : Nat} (hpage : (kindOf (pageOf a)).isNone = true) (v : Word) :
    s.busWrite init a width v = s.respond .decode := by
  simp only [busWrite, viaWidth, accessCheck_absent hpage, ite_self]

/-- A read outside every page answers the decode error, from whatever initiator (R40, R62). -/
theorem busRead_absent {s : State} {init a width : Nat} (hpage : (kindOf (pageOf a)).isNone = true) :
    s.busRead init a width = s.respond .decode := by
  simp only [busRead, accessCheck_absent hpage, ite_self]

/-- A served write that is not an early one sets UNMAPPED where no register lies (R40). -/
theorem busWrite_unmapped {s : State} {init a : Nat} (hserves : s.serves init a = true)
    (hearly : ¬ (init = Init.HOST ∧ s.beforeMc = true)) (hmapped : mapped a = false) (v : Word) :
    s.busWrite init a 4 v = (s.respond .served).stickyAt (pageOf a) 5 (offOf a) true init 0 := by
  rw [serves, Bool.and_eq_true, decide_eq_true_eq] at hserves
  obtain ⟨hspace, hserved⟩ := hserves
  simp only [busWrite, viaWidth, hspace, hserved, respond_beforeMc, hearly, hmapped, Bool.not_true, Bool.not_false,
    Bool.false_eq_true, if_true, if_false]

/-- A command that ends by recording a misshapen access, in the form of the statement. -/
theorem next_settle_align {s : State} {o : Host.Outcome State Fault Refusal} {p off init : Nat} {w : Bool}
    (ho : o = .next ((s.respond .align).stickyAt p 4 off w init 0).settle) :
    ∃ t : State, o = .next t ∧ t.resp = .align ∧ t.flag ⟨R.ERR_STICKY p, 4, 1⟩ = true ∧ t.rdata = s.rdata ∧
      t.shM = s.shM ∧ t.shV = s.shV ∧ (∀ a, t.sramByte a = s.sramByte a) ∧
      ∀ a, a ≠ R.ERR_STICKY p → a ≠ R.ERR_INFO p → t.reg a = s.reg a := by
  obtain ⟨-, hshM, hshV, hsram, hregs⟩ := ((respond_errorFrame p s .align).trans
    (stickyAt_errorFrame _ p 4 off w init 0)).trans (settle_errorFrame p _)
  refine ⟨_, ho, ?_, ?_, ?_, hshM, hshV, hsram, hregs⟩
  · rw [settle_resp, stickyAt_resp]
    rfl
  · rw [settle_flag]
    exact stickyAt_flag _ _ _ _ _ _ _ (by decide)
  · rw [settle_rdata, stickyAt_rdata]
    rfl

/-- Settles O46: the access fails the check of its shape, and all that follows is the record in WIDTH. The shape is judged
before R25, so an early host write sets WIDTH alone, which is the model's reading (log entry 6). -/
theorem misshapenAccessesChangeNothing : Obligations.MisshapenAccessesChangeNothing := by
  unfold Obligations.MisshapenAccessesChangeNothing
  intro s init addr width value hspace hpage hheld hgated hshape c hc
  have hcheck := accessCheck_misshapen hpage hheld hgated hshape
  rcases hc with rfl | rfl
  · exact next_settle_align (by rw [exec_registerWrite, busWrite_align hspace hcheck])
  · exact next_settle_align (by rw [exec_rcFieldRead, busRead_align hspace hcheck])

/-- Settles O47. That the block-specific area of DBG and the production test registers count as undescribed is the model's
choice (log entry 10). -/
theorem absentAddressesAnswerAlike : Obligations.AbsentAddressesAnswerAlike := by
  unfold Obligations.AbsentAddressesAnswerAlike
  refine ⟨?_, ?_, ?_⟩
  · intro s init addr width value hpage c hc
    have ho : exec c s = .next (s.respond .decode).settle := by
      rcases hc with rfl | rfl
      · rw [exec_registerWrite, busWrite_absent hpage]
      · rw [exec_rcFieldRead, busRead_absent hpage]
    exact ⟨_, ho, settle_resp _, settle_rdata _, fun a => settle_reg _ a⟩
  · intro s init addr hmapped hserves
    refine ⟨_, exec_rcFieldRead init addr 4 s, ?_⟩
    rw [busRead_serves hserves, readDone, readEffect_unmapped s hmapped, readWord_unmapped s hmapped]
    exact ⟨settle_resp _, settle_rdata _, fun a => settle_reg _ a⟩
  · intro s init addr value hmapped hserves hreleased
    have hearly : ¬ (init = Init.HOST ∧ s.beforeMc = true) := by
      rintro ⟨hhost, hbefore⟩
      exact absurd hbefore (by rw [hreleased hhost]; exact Bool.false_ne_true)
    obtain ⟨t, ht, hflag, -, hshM, -, -, hregs⟩ := next_settle_recorded
      (exec_registerWrite init addr 4 value s)
      (p := pageOf addr) (b := 5) (s := s) (by
        rw [busWrite_unmapped hserves hearly hmapped]
        exact ⟨stickyAt_flag _ _ _ _ _ _ _ (by decide), (respond_errorFrame ..).trans (stickyAt_errorFrame ..)⟩)
    exact ⟨t, ht, hflag, hshM, hregs⟩

end State

/-! ### Transfer of the shadows (R51, R52) -/

/-- A key that a table does not list reads the default. -/
theorem Sparse.get_of_notMem_keys {α : Type} (d : Nat → α) {m : List (Nat × α)} {k : Nat} (h : k ∉ m.map (·.1)) :
    Sparse.get d m k = d k := by
  induction m with
  | nil => rfl
  | cons e m ih =>
    obtain ⟨i, v⟩ := e
    rw [List.map_cons, List.mem_cons, not_or] at h
    obtain ⟨hki, hkm⟩ := h
    rw [Sparse.get, if_neg (Ne.symm hki), ih hkm]

namespace State

theorem transferOne_reg (s : State) (a b : Nat) :
    (s.transferOne a).reg b = if b = a then s.written a else s.reg b := Sparse.get_set ..

theorem transferOne_shadowMask (s : State) (a b : Nat) :
    (s.transferOne a).shadowMask b = if b = a then 0 else s.shadowMask b := by
  unfold shadowMask
  exact Sparse.get_set _ s.shM a b 0

theorem transferOne_shadowVal (s : State) (a b : Nat) :
    (s.transferOne a).shadowVal b = if b = a then 0 else s.shadowVal b := by
  unfold shadowVal
  exact Sparse.get_set _ s.shV a b 0

/-- A word of which no bit is replaced. -/
theorem merge_no_bits (w v : Word) : (w &&& ~~~0) ||| (v &&& 0) = w := by
  rw [show (0 : Word) = 0#32 from rfl, BitVec.not_zero, BitVec.and_allOnes, BitVec.and_zero, BitVec.or_zero]

/-- A register with nothing in the shadow reads the value in force. -/
theorem written_of_shadowMask_zero {s : State} {a : Nat} (h : s.shadowMask a = 0) : s.written a = s.reg a := by
  rw [written, h, merge_no_bits]

/-- A transfer does not change what a read shows: the last value written (R51). -/
theorem transferOne_written (s : State) (a b : Nat) : (s.transferOne a).written b = s.written b := by
  by_cases h : b = a
  · rw [written_of_shadowMask_zero (by rw [transferOne_shadowMask, if_pos h]), transferOne_reg, if_pos h, h]
  · simp only [written, transferOne_reg, transferOne_shadowMask, transferOne_shadowVal, if_neg h]

theorem transferList_reg (s : State) (l : List Nat) (b : Nat) :
    (s.transferList l).reg b = if b ∈ l then s.written b else s.reg b := by
  induction l generalizing s with
  | nil => rfl
  | cons a as ih =>
    rw [transferList, ih, transferOne_written, transferOne_reg]
    by_cases hba : b = a <;> simp [hba]

theorem transferList_shadowMask (s : State) (l : List Nat) (b : Nat) :
    (s.transferList l).shadowMask b = if b ∈ l then 0 else s.shadowMask b := by
  induction l generalizing s with
  | nil => rfl
  | cons a as ih =>
    rw [transferList, ih, transferOne_shadowMask]
    by_cases hba : b = a <;> simp [hba]

theorem transferList_shadowVal (s : State) (l : List Nat) (b : Nat) :
    (s.transferList l).shadowVal b = if b ∈ l then 0 else s.shadowVal b := by
  induction l generalizing s with
  | nil => rfl
  | cons a as ih =>
    rw [transferList, ih, transferOne_shadowVal]
    by_cases hba : b = a <;> simp [hba]

/-- A chosen register that a transfer does not reach has nothing in the shadow. -/
theorem shadowMask_of_not_shadowed {s : State} {sel : Nat → Bool} {a : Nat} (hsel : sel a = true)
    (h : a ∉ s.shadowed sel) : s.shadowMask a = 0 :=
  Sparse.get_of_notMem_keys _ fun hkey => h (List.mem_filter.2 ⟨hkey, hsel⟩)

theorem not_shadowed_of_not_selected {s : State} {sel : Nat → Bool} {a : Nat} (hsel : sel a = false) :
    a ∉ s.shadowed sel := fun h => Bool.false_ne_true (hsel.symm.trans (List.mem_filter.1 h).2)

/-- Settles O50: register by register, along the list of shadowed registers that the choice selects. -/
theorem aTransferMovesEveryShadowAtOnce : Obligations.ATransferMovesEveryShadowAtOnce := by
  unfold Obligations.ATransferMovesEveryShadowAtOnce
  intro s sel a
  rw [transfer, transferList_reg, transferList_shadowMask, transferList_shadowVal]
  cases hsel : sel a with
  | false => simp [not_shadowed_of_not_selected hsel]
  | true =>
    by_cases hmem : a ∈ s.shadowed sel
    · simp [hmem]
    · have hmask := shadowMask_of_not_shadowed hsel hmem
      simp [hmem, hmask, written_of_shadowMask_zero hmask]

/-! ### The H fields of a DMA channel (R50, R55) -/

/-- The register at `a` holds nothing but H fields, in the bits `m`. -/
def onlyHalted (a : Nat) (m : Word) : Bool :=
  (fieldsAt a).any fun fs =>
    decide (fieldMask (fun f => f.acc = .rw && f.upd = .live) fs = 0) &&
    decide (fieldMask (fun f => f.acc = .rw && f.upd = .shadow) fs = 0) &&
    decide (fieldMask (fun f => f.acc = .rw && f.upd = .halted) fs = m) &&
    decide (fieldMask (fun f => f.acc = .w1c) fs = 0)

/-- `a` is a register of channel `n` that holds nothing but H fields, in the bits `m`, and is not CH_CTRL. -/
def channelHalted (n a : Nat) (m : Word) : Bool :=
  decide (pageOf a = P.DMAC) && decide (0x040 ≤ offOf a) && decide (offOf a % 0x80 ≠ 0x40) &&
    decide (offOf a / 0x80 = n) && onlyHalted a m

/-- The four registers of each channel that R55 speaks of hold nothing but H fields. -/
theorem channelHalted_registers : ∀ n < 32,
    ∀ am ∈ [(R.CH_CFG n, (0xFFFF000F : Word)), (R.CH_DESC n, 0xFFFFFFFF), (R.CH_TRIG n, 0x1F7), (R.CH_PERIOD n, 0xFFFFFF)],
      channelHalted n am.1 am.2 = true := by
  decide

/-- A register of DMAC other than a CH_CTRL has no command of its own: every other command's register lies on another page. -/
theorem commands_none_of_dmac (s : State) (init : Nat) {a : Nat} (v : Word) (hpage : pageOf a = P.DMAC)
    (hctrl : offOf a % 0x80 ≠ 0x40) :
    (((s.mgmtCommand init a v <|> s.dataCommand init a v) <|> s.timeCommand init a v) <|> s.hostCommand a v) = none := by
  have hne : ∀ r, pageOf r ≠ P.DMAC → ¬ a = r := by
    rintro r hr rfl
    exact hr hpage
  have hmgmt : s.mgmtCommand init a v = none := by
    simp only [mgmtCommand, hne R.PMU_REQ (by decide), hne R.PMU_OPP (by decide), hne R.PMU_PROCV (by decide),
      hne R.PMU_RETDATA (by decide), hne R.CLK_RUN (by decide), hne R.CLK_SRC (by decide), hne R.CLK_DIV (by decide),
      hne R.CLK_GATE0 (by decide), hne R.CLK_GATE1 (by decide), hne R.RTC_CTL (by decide), hne R.RTC_FIRSTSW1 (by decide),
      hne R.AON_FATCTL (by decide), hne R.TOC_NMIACK (by decide), hne R.TOC_ESC (by decide), hne R.TOC_LOGPOP (by decide),
      hne (R.NYM_CMD 0) (by decide), hne (R.NYM_CMD 1) (by decide), if_false]
  have hcmpl : ¬ (R.CHS_CMPL_CTL 0 ≤ a ∧ a ≤ R.CHS_CMPL_CTL 7 ∧ a % 16 = 8) := by
    unfold pageOf P.DMAC at hpage
    unfold R.CHS_CMPL_CTL
    omega
  have hdata : s.dataCommand init a v = none := by
    simp only [dataCommand, hpage, show ¬ (P.DMAC = P.SYN 0 ∨ P.DMAC = P.SYN 1) by decide, hne R.CAL_CMD (by decide),
      hne R.ANT_REARM (by decide), hne R.ANT_EN (by decide), show ¬ (P.DFE 0 ≤ P.DMAC ∧ P.DMAC ≤ P.DFE 15) by decide,
      hne R.ACQ_JOBPUSH (by decide), hne R.CHS_VCCMD (by decide), hcmpl, if_false]
  have htime : s.timeCommand init a v = none := by
    simp only [timeCommand, hpage, hne R.PTP_SESSCMD (by decide), hne R.PTP_TXDATA (by decide), hne R.PTP_TXCMD (by decide),
      hne R.PTP_RXPOP (by decide), hne R.AUX_DACNEXT (by decide), hne R.PAIR_CMD (by decide),
      hne R.PAIR_MTXDATA (by decide), hne R.PAIR_MTXCMD (by decide), hctrl, show ¬ P.DMAC = P.MEM by decide,
      and_false, false_and, if_false]
    rw [if_neg fun h => absurd h.1 (by decide)]
  have hhost : s.hostCommand a v = none := by
    simp only [hostCommand, hne R.PCIE_EOI (by decide), hne R.PCIE_FCMD (by decide), hne (R.UART_DATA 0) (by decide),
      hne (R.UART_DATA 1) (by decide), hne R.QSPI_CMD (by decide), hne R.QSPI_DATA (by decide), hne R.MDIO_CMD (by decide),
      hne R.GPIO_SET (by decide), hne R.GPIO_CLR (by decide), hne R.MBX_CMDPI (by decide), if_false]
  simp [hmgmt, hdata, htime, hhost]

/-- DMAC acts on none of its fields at the write. -/
theorem directApply_dmac (old s : State) {a : Nat} (hpage : pageOf a = P.DMAC) : directApply old s a = s := by
  simp only [directApply, hpage]
  rfl

/-- On DMAC a write of a register that holds fields is that of its fields alone. -/
theorem fieldWrite_dmac (s : State) (init : Nat) {a : Nat} (fs : List FieldRow) (v : Word) (hpage : pageOf a = P.DMAC) :
    s.fieldWrite init a fs v = s.writeFields init a fs v := by
  have hcfg : ¬ a = R.PMU_CFG := by
    rintro rfl
    exact absurd hpage (by decide)
  have hmode : ¬ a = R.SYS_MODECMD := by
    rintro rfl
    exact absurd hpage (by decide)
  simp only [fieldWrite, directApply_dmac _ _ hpage, ite_self, hcfg, hmode, hpage, if_false]
  rfl

theorem putMasked_no_bits (s : State) (a : Nat) (v : Word) (b : Nat) : (s.putMasked a 0 v).reg b = s.reg b := by
  rw [putMasked, merge_no_bits]
  by_cases h : b = a
  · rw [h, reg_setReg_same]
  · exact reg_setReg_other s _ h

theorem setReg_clear_no_bits (s : State) (a : Nat) (v : Word) (b : Nat) :
    (s.setReg a (s.reg a &&& ~~~(v &&& 0))).reg b = s.reg b := by
  have h := putMasked_no_bits s a 0 b
  rwa [putMasked, show (0 : Word) &&& 0 = 0 from rfl, show ∀ w : Word, w ||| 0 = w from fun _ => BitVec.or_zero,
    show (0 : Word) = v &&& 0 from BitVec.and_zero.symm] at h

/-- Whether a block counts as running is read from the registers alone. -/
theorem haltedBusy_congr {s t : State} (h : ∀ b, t.reg b = s.reg b) (a : Nat) : t.haltedBusy a = s.haltedBusy a := by
  simp only [haltedBusy, running, flag, fld, h]
  rfl

theorem errRegs_in_header {a p : Nat} (hblock : 0x040 ≤ offOf a) (hp : p % 4096 = 0) :
    a ≠ R.ERR_STICKY p ∧ a ≠ R.ERR_INFO p := by
  unfold offOf at hblock
  unfold R.ERR_STICKY R.ERR_INFO
  omega

theorem pageOf_aligned (a : Nat) : pageOf a % 4096 = 0 := Nat.mul_mod_left ..

/-- What a write leaves of an unlocked register that holds nothing but H fields: the value where the block does not count as
running, and else the register as it was (R50). -/
theorem writeFields_onlyHalted {s : State} {a : Nat} {fs : List FieldRow} {m : Word} (init : Nat) (v : Word)
    (hlock : s.flag (F.LOCK_LOCK (pageOf a)) = false) (hblock : 0x040 ≤ offOf a)
    (hL : fieldMask (fun f => f.acc = .rw && f.upd = .live) fs = 0)
    (hS : fieldMask (fun f => f.acc = .rw && f.upd = .shadow) fs = 0)
    (hH : fieldMask (fun f => f.acc = .rw && f.upd = .halted) fs = m)
    (hC : fieldMask (fun f => f.acc = .w1c) fs = 0) :
    (s.writeFields init a fs v).reg a =
      if s.haltedBusy a then s.reg a else (s.reg a &&& ~~~m) ||| (v &&& m) := by
  have hreg : ∀ b, ((s.putMasked a 0 v).setReg a ((s.putMasked a 0 v).reg a &&& ~~~(v &&& 0))).reg b = s.reg b :=
    fun b => (setReg_clear_no_bits ..).trans (putMasked_no_bits ..)
  obtain ⟨hsticky, hinfo⟩ := errRegs_in_header hblock (pageOf_aligned a)
  simp only [writeFields, hL, hS, hH, hC, hlock, Bool.false_eq_true, false_and, if_false, if_true,
    haltedBusy_congr hreg a]
  by_cases hm : m = 0
  · rw [if_pos hm, hreg, hm, merge_no_bits, ite_self]
  · rw [if_neg hm]
    cases s.haltedBusy a with
    | false =>
      simp only [Bool.false_eq_true, if_false]
      rw [putMasked, reg_setReg_same, hreg]
    | true =>
      simp only [if_true]
      split
      · exact hreg a
      · rw [stickyAt_reg _ _ _ _ _ _ _ hsticky hinfo, hreg]

/-- A write of a register of a DMA channel that holds nothing but H fields: that channel's state alone decides (R55). -/
theorem regAct_channelHalted {s : State} {n a : Nat} {m : Word} (init : Nat) (v : Word)
    (h : channelHalted n a m = true) (hlock : s.flag (F.LOCK_LOCK P.DMAC) = false) :
    (s.regAct init a v).reg a = if s.chanState n = 0 then (s.reg a &&& ~~~m) ||| (v &&& m) else s.reg a := by
  simp only [channelHalted, onlyHalted, Option.any_eq_true, Bool.and_eq_true, decide_eq_true_eq] at h
  obtain ⟨⟨⟨⟨hpage, hblock⟩, hctrl⟩, hchan⟩, fs, hfs, ⟨⟨hL, hS⟩, hH⟩, hC⟩ := h
  have hact : s.regAct init a v = s.writeFields init a fs v := by
    rw [regAct, if_neg (Nat.not_lt.2 hblock), commands_none_of_dmac s init v hpage hctrl, hfs]
    exact fieldWrite_dmac s init fs v hpage
  have hbusy : s.haltedBusy a = decide (s.chanState n ≠ 0) := by
    simp only [haltedBusy, hpage, hchan, if_true]
    rfl
  rw [hact, writeFields_onlyHalted init v (hpage ▸ hlock) hblock hL hS hH hC, hbusy]
  by_cases hst : s.chanState n = 0 <;> simp [hst]

/-- Settles O51: each of the four registers of a channel holds nothing but H fields. -/
theorem channelFieldsAreJudgedByTheirChannel : Obligations.ChannelFieldsAreJudgedByTheirChannel := by
  unfold Obligations.ChannelFieldsAreJudgedByTheirChannel
  intro s init n value am hn ham hadmits hlock
  have hreg := regAct_channelHalted (s := s.respond .served) init (BitVec.ofNat 32 value)
    (channelHalted_registers n hn am ham) hlock
  refine ⟨_, exec_registerWrite init am.1 4 value s, ?_⟩
  rw [busWrite_admits hadmits, settle_reg, hreg]
  exact ⟨fun hidle => if_pos hidle, fun hbusy => if_neg hbusy⟩

/-! ### The commands of register space -/

/-- A command that is a served word read of `a`. -/
theorem next_read_serves {s : State} {init a : Nat} {o : Host.Outcome State Fault Refusal}
    (ho : o = .next (s.busRead init a 4).settle) (h : s.serves init a = true) : o = .next (s.readDone a).settle := by
  rw [ho, busRead_serves h]

/-- A command that is an accepted word write of `a`. -/
theorem next_via_admits {s : State} {init a : Nat} {act : State → State} {o : Host.Outcome State Fault Refusal}
    (ho : o = .next (s.via init a act).settle) (h : s.admits init a = true) :
    o = .next (act (s.respond .served)).settle := by
  rw [ho, via_admits h]

/-- A command that first checks an operand, where the check holds. -/
theorem next_settle_if_pos {p : Prop} [Decidable p] (hp : p) (t u : State) :
    (.next (settle (if p then t else u)) : Host.Outcome State Fault Refusal) = .next t.settle := by rw [if_pos hp]

/-- The end of a command that acted as the rule says. -/
theorem next_settle_of_eq {s t u : State} {c : Instr} (hc : exec c s = .next t.settle) (h : t = u) :
    exec c s = .next u.settle := h ▸ hc

theorem readEffect_uart (s : State) {u : Nat} (hu : u < 2) : s.readEffect (R.UART_DATA u) = (s.uartPop u).1 := by
  interval_cases u <;> rfl

theorem exec_uartDataRead (s : State) (init : Nat) {u : Nat} (hu : u < 2) :
    exec (.uartDataRead init u) s = .next (s.busRead init (R.UART_DATA u) 4).settle :=
  next_settle_if_pos hu _ _

theorem exec_uartDataWrite (s : State) (init value : Nat) {u : Nat} (hu : u < 2) :
    exec (.uartDataWrite init u value) s = .next (s.via init (R.UART_DATA u) fun t => t.uartPush u value).settle :=
  next_settle_if_pos hu _ _

theorem uartPush_room {s : State} {u : Nat} (h : (s.host.uartTx.getD u []).length < 64) (w : Nat) : s.uartPush u w =
    s.hostPut { s.host with uartTx := s.host.uartTx.set u (s.host.uartTx.getD u [] ++ [BitVec.ofNat 8 w]) } :=
  if_neg (Nat.not_le.2 h)

/-- Settles O1. That a transfer through QSPI_DATA holds 256 octets at most is the model's choice (log entry 55). -/
theorem registerSpaceCommandsComplete : Obligations.RegisterSpaceCommandsComplete := by
  unfold Obligations.RegisterSpaceCommandsComplete
  refine ⟨fun _ _ a _ h => next_via_admits (a := a) rfl h, fun _ _ a h => next_read_serves (a := a) rfl h,
    fun _ _ h => next_read_serves (a := R.TBU_NOW0) rfl h, fun _ _ h => next_read_serves (a := R.RTC_CNT0) rfl h,
    fun _ _ h => next_read_serves (a := R.RTC_CAL0) rfl h, fun _ _ h => next_read_serves (a := R.AON_RAW0) rfl h,
    fun _ _ h => next_read_serves (a := R.ACQ_CELLSLO) rfl h, ?uartRead, ?uartWrite,
    fun _ _ _ h => next_via_admits (a := R.QSPI_DATA) rfl h, fun _ _ _ h => next_read_serves (a := R.QSPI_DATA) rfl h,
    fun _ _ h => next_read_serves (a := R.PTP_RXDATA) rfl h, fun _ _ _ h => next_via_admits (a := R.PMU_RETDATA) rfl h,
    fun _ _ _ h => next_read_serves (a := R.PMU_RETDATA) rfl h, fun _ _ h => next_read_serves (a := R.CHS2_EVICT) rfl h⟩
  case uartRead =>
    intro s init u hu h
    rw [← readEffect_uart s hu]
    exact next_read_serves (exec_uartDataRead s init hu) h
  case uartWrite =>
    intro s init u value hu h hroom
    exact next_settle_of_eq (next_via_admits (exec_uartDataWrite s init value hu) h)
      (uartPush_room (s := s.respond .served) hroom value)

/-! ### The commands of the common header, the mode command and measured fields -/

/-- A register of the common header lies on its page, at its offset. -/
theorem header_address {p o : Nat} (hp : p % 4096 = 0) (ho : o < 4096) : pageOf (p + o) = p ∧ offOf (p + o) = o := by
  unfold pageOf offOf
  omega

theorem busWrite_ctrl {s : State} {init p : Nat} (hp : p % 4096 = 0) (h : s.admits init (R.PAGE_CTRL p) = true) (v : Word) :
    s.busWrite init (R.PAGE_CTRL p) 4 v = (s.respond .served).ctrlWrite init p v := by
  obtain ⟨hpage, hoff⟩ := header_address hp (show 0x008 < 4096 by decide)
  rw [busWrite_admits h]
  simp only [R.PAGE_CTRL, regAct, headerWrite, hpage, hoff]
  rfl

theorem busWrite_commit {s : State} {init p : Nat} (hp : p % 4096 = 0) (h : s.admits init (R.PAGE_COMMIT p) = true)
    (v : Word) : s.busWrite init (R.PAGE_COMMIT p) 4 v = (s.respond .served).commitWrite init p v := by
  obtain ⟨hpage, hoff⟩ := header_address hp (show 0x024 < 4096 by decide)
  rw [busWrite_admits h]
  simp only [R.PAGE_COMMIT, regAct, headerWrite, hpage, hoff]
  rfl

theorem busWrite_lock {s : State} {init p : Nat} (hp : p % 4096 = 0) (h : s.admits init (R.PAGE_LOCK p) = true)
    (v : Word) : s.busWrite init (R.PAGE_LOCK p) 4 v = (s.respond .served).lockWrite init p v := by
  obtain ⟨hpage, hoff⟩ := header_address hp (show 0x028 < 4096 by decide)
  rw [busWrite_admits h]
  simp only [R.PAGE_LOCK, regAct, headerWrite, hpage, hoff]
  rfl

/-- The transfer word transfers a page whose commit point is PAGE_COMMIT (R54). -/
theorem commitWrite_transfers {s : State} {init p : Nat}
    (h : ((kindOf p).any fun k => decide (k.1.commit = .commit)) = true) :
    s.commitWrite init p 0xC0DE0001 = s.pageTransfer p := by
  rw [Option.any_eq_true] at h
  obtain ⟨⟨k, n⟩, hk, hcommit⟩ := h
  rw [decide_eq_true_eq] at hcommit
  simp only [commitWrite, ne_eq, not_true_eq_false, if_false, hk]
  rw [hcommit]

/-- A write of 1 locks a page that is not locked, and names the locker (R56). -/
theorem lockWrite_locks {s : State} {p : Nat} (init : Nat) (h : s.flag (F.LOCK_LOCK p) = false) :
    s.lockWrite init p 1 = s.setReg (R.PAGE_LOCK p) (BitVec.ofNat 32 (1 + init % 32 * 256)) := by
  rw [lockWrite, if_pos (by decide), h, if_neg Bool.false_ne_true]

theorem blockStopped_drained {s : State} {p : Nat} (hpage : (kindOf p).isSome = true) (hnyc : p ≠ P.CORE 11)
    (hstop : s.enabled p = false) (hrun : s.running p = true) (hdrain : s.drained p = true) :
    s.blockStopped p = s.setFlag (F.STAT_RUNNING p) false := by
  simp [blockStopped, hpage, hnyc, hstop, hrun, hdrain]

/-- The page once its soft reset has ended, before a block enabled meanwhile starts. -/
def resetEnded (s : State) (p : Nat) : State := (s.setFlag (F.CTRL_SOFT_RESET p) false).setFlag (F.STAT_IN_RESET p) false

theorem softDone_inReset {s : State} {p : Nat} (hpage : (kindOf p).isSome = true) (hreset : s.inReset p = true) :
    s.softDone p = if (s.resetEnded p).enabled p then (s.resetEnded p).blockStart p else s.resetEnded p := by
  simp only [softDone, hpage, hreset, Bool.and_self, if_true]
  rfl

theorem exec_enableWrite (s : State) (init : Nat) {p : Nat} (on : Bool) (hp : p % 4096 = 0) : exec (.enableWrite init p on) s =
    .next (s.busWrite init (R.PAGE_CTRL p) 4 (putBits (s.reg (R.PAGE_CTRL p) &&& ~~~2) 0 1 (b2n on))).settle :=
  next_settle_if_pos hp _ _

theorem exec_softReset (s : State) (init : Nat) {p : Nat} (hp : p % 4096 = 0) : exec (.softReset init p) s =
    .next (s.busWrite init (R.PAGE_CTRL p) 4 (s.reg (R.PAGE_CTRL p) ||| 2)).settle :=
  next_settle_if_pos hp _ _

theorem exec_pageCommit (s : State) (init value : Nat) {p : Nat} (hp : p % 4096 = 0) : exec (.pageCommit init p value) s =
    .next (s.busWrite init (R.PAGE_COMMIT p) 4 (BitVec.ofNat 32 value)).settle :=
  next_settle_if_pos hp _ _

theorem exec_pageLock (s : State) (init value : Nat) {p : Nat} (hp : p % 4096 = 0) : exec (.pageLock init p value) s =
    .next (s.busWrite init (R.PAGE_LOCK p) 4 (BitVec.ofNat 32 value)).settle :=
  next_settle_if_pos hp _ _

/-- Settles O2. That a block enabled during its soft reset starts at the end of it is the model's reading (log entry 14). -/
theorem pageCommandsComplete : Obligations.PageCommandsComplete := by
  unfold Obligations.PageCommandsComplete
  refine ⟨?enable, ?stopped, ?softReset, ?doneStopped, ?doneEnabled, ?commit, ?lock, ?mode, fun _ _ => rfl, ?feed,
    fun _ _ => rfl⟩
  case enable =>
    intro s init p on hp h _
    exact next_settle_of_eq (exec_enableWrite s init on hp) (busWrite_ctrl hp h _)
  case stopped =>
    intro s p hpage hnyc hstop hrun hdrain
    exact next_settle_of_eq rfl (blockStopped_drained hpage hnyc hstop hrun hdrain)
  case softReset =>
    intro s init p hp h _ _
    exact next_settle_of_eq (exec_softReset s init hp) (busWrite_ctrl hp h _)
  case doneStopped =>
    intro s p hpage hreset henabled
    exact next_settle_of_eq rfl ((softDone_inReset hpage hreset).trans
      (if_neg (by rw [resetEnded, henabled]; exact Bool.false_ne_true)))
  case doneEnabled =>
    intro s p hpage hreset henabled
    exact next_settle_of_eq rfl ((softDone_inReset hpage hreset).trans (if_pos henabled))
  case commit =>
    intro s init p hp h hcommit
    exact next_settle_of_eq (exec_pageCommit s init _ hp) ((busWrite_commit hp h _).trans (commitWrite_transfers hcommit))
  case lock =>
    intro s init p hp h hlock
    exact next_settle_of_eq (exec_pageLock s init 1 hp) ((busWrite_lock hp h _).trans (lockWrite_locks init hlock))
  case mode =>
    intro s init target _ h
    exact next_via_admits rfl h
  case feed =>
    intro s n cur vout hn
    exact next_settle_of_eq rfl (if_pos hn)

end State
end Sys2Proof.Machine
end

