-- ==== Sys2Proof/Proofs/AntennaRf.lean ====
section
/-! PROOF. The antenna feeds (R85 to R92): when an event of a feed acts on it, and the obligation that the commands of the feeds
and of their supply monitor complete. -/

namespace Sys2Proof.Machine
namespace State

/-- A short folds back a switch that is on, not folded and outside its blanking, with ILIM above 10 mA (R85, R86). -/
theorem antShort_folds {s : State} {n : Nat} (hn : n < 8) (hon : bit (s.fld F.ANT_STAT_ON) n = true)
    (hilim : 10 < s.antIlim n) (hblank : s.rfs.blank.getD n false = false)
    (hfold : bit (s.fld F.ANT_STAT_FOLDED) n = false) : s.antShort n =
    ((s.setFld F.ANT_STAT_FOLDED (setBit (s.fld F.ANT_STAT_FOLDED) n true)).setFld F.ANT_STAT_LIMITING
      (setBit (s.fld F.ANT_STAT_LIMITING) n false)).sticky P.ANT (8 + n) n :=
  if_pos ⟨hn, hon, hilim, by rw [hblank, Bool.not_false], by rw [hfold, Bool.not_false]⟩

/-- An open feed is recorded while its switch is on (R85). -/
theorem antOpen_on {s : State} {n : Nat} (hn : n < 8) (hon : bit (s.fld F.ANT_STAT_ON) n = true) : s.antOpen n =
    (s.setFld F.ANT_STAT_OPEN (setBit (s.fld F.ANT_STAT_OPEN) n true)).sticky P.ANT (16 + n) n :=
  if_pos ⟨hn, hon⟩

/-- A folded switch with AUTORETRY returns to normal by itself (R87). -/
theorem antAutoretry_folded {s : State} {n : Nat} (hn : n < 8) (hfold : bit (s.fld F.ANT_STAT_FOLDED) n = true)
    (hretry : s.flag (F.ANT_CFG_AUTORETRY n) = true) : s.antAutoretry n =
    s.setFld F.ANT_STAT_FOLDED (setBit (s.fld F.ANT_STAT_FOLDED) n false) :=
  if_pos ⟨hn, hfold, hretry⟩

/-- A switch that is too hot turns off, ends its blanking and sets HOT (R87). -/
theorem antOvertemp_turns_off (s : State) {n : Nat} (hn : n < 8) : s.antOvertemp n =
    (((s.antClear n).blankSet n false).setFld F.ANT_STAT2_HOT (setBit (s.fld F.ANT_STAT2_HOT) n true)).sticky P.ANT 26 n :=
  if_pos hn

/-- Settles O5: each event of a feed meets the condition under which it acts, and the others act always. That a fold-back
clears LIMITING, and that LIMITING, FOLDED and OPEN of a switch clear when it turns off, is the model's reading (log entry 17). -/
theorem antennaCommandsComplete : Obligations.AntennaCommandsComplete := by
  unfold Obligations.AntennaCommandsComplete
  refine ⟨?short, ?opened, fun _ _ => rfl, ?autoretry, ?rearm, ?overtemp, fun _ => rfl, fun _ => rfl, fun _ => rfl⟩
  case short =>
    intro s n hn hon hilim hblank hfold
    exact next_settle_of_eq rfl (antShort_folds hn hon hilim hblank hfold)
  case opened =>
    intro s n hn hon
    exact next_settle_of_eq rfl (antOpen_on hn hon)
  case autoretry =>
    intro s n hn hfold hretry
    exact next_settle_of_eq rfl (antAutoretry_folded hn hfold hretry)
  case rearm =>
    intro s init mask h
    exact next_via_admits rfl h
  case overtemp =>
    intro s n hn
    exact next_settle_of_eq rfl (antOvertemp_turns_off s hn)

end State
end Sys2Proof.Machine
end

