-- ==== Sys2Proof/Proofs/CalibrationInjector.lean ====
section
/-! PROOF. The calibration injector (R93 to R103) and the LNA protection of the paths (R67, R73): when a command or an event acts
on them, and the obligation that these commands complete. -/

namespace Sys2Proof.Machine
namespace State

@[simp] theorem respond_calState (s : State) (r : Resp) : (s.respond r).calState = s.calState := respond_fld s r _

@[simp] theorem respond_calRefuse (s : State) (r : Resp) : (s.respond r).calRefuse = s.calRefuse := rfl

@[simp] theorem respond_synState (s : State) (r : Resp) (b : Nat) : (s.respond r).synState b = s.synState b := by
  simp only [synState, respond_flag]

/-- Only in IDLE and SEQ_OFF does a stop cause find another state than the injector's own: the one that a stop of the same cycle
left (R98). -/
theorem calWas_eq {s : State} (hidle : s.calState ≠ 0) (hoff : s.calState ≠ 4) : s.calWas = s.calState := by
  unfold calWas
  split
  · rfl
  · exact if_neg fun ⟨_, _, hnow⟩ => hnow.elim hidle hoff

theorem calWas_radiate {s : State} (h : s.calState = 3) : s.calWas = 3 :=
  (calWas_eq (by rw [h]; decide) (by rw [h]; decide)).trans h

/-- A stop cause in RADIATE takes the injector to SEQ_OFF and leaves its mark (Table 4-1). -/
theorem calEnd_radiate {s : State} (h : s.calState = 3) (mark : State → State) : s.calEnd mark = mark s.calStopNow := by
  simp only [calEnd, calWas_radiate h, h, if_true]

/-- GO of an idle injector whose conditions hold, its synthesiser LOCKED, starts the injector at once (R96). -/
theorem calGo_starts {s : State} (init : Nat) (hidle : s.calState = 0) (hok : s.calRefuse = 0)
    (hlock : s.synState (s.fld F.CAL_CFG_SYN) = .locked) : s.calGo init = s.calStart := by
  simp only [calGo, hidle, hok, hlock, ne_eq, not_true_eq_false, if_false, if_true]

theorem calHoldTimeout_held {s : State} (h : s.calState = 1) : s.calHoldTimeout =
    ((s.setCalState 0).setFlag F.CAL_STAT_GO_TIMEOUT true).sticky P.CAL 9 :=
  if_pos h

/-- Before the last line of the sequence, a step only asserts the next one (R99). -/
theorem calSeqStep_asserts {s : State} (h : s.calState = 2) (hlines : s.calLinesUp ≠ 3) : s.calSeqStep =
    s.setFld F.CAL_STAT_LINES (setBit (s.fld F.CAL_STAT_LINES) s.calLinesUp true) :=
  (if_pos h).trans (if_neg hlines)

theorem calReleaseStep_off {s : State} (h : s.calState = 4) : s.calReleaseStep =
    ({ s with rfs := { s.rfs with calStop := none } } : State).calReleaseOne :=
  if_pos h

/-- CAL_RL shows the measurement of the last return-loss window (R101). -/
def returnLossShown (s : State) (rl pwr : Nat) : State := (s.setFld F.CAL_RL_RL rl).setFld F.CAL_RL_PWR pwr

@[simp] theorem returnLossShown_calState (s : State) (rl pwr : Nat) : (s.returnLossShown rl pwr).calState = s.calState :=
  (fld_setFld_addr _ _ _ _ (by decide)).trans (fld_setFld_addr _ _ _ _ (by decide))

theorem calRlWindow_matched {s : State} {rl : Nat} (pwr : Nat) (h : s.calState = 3)
    (hrl : ¬ rl < 5 * clampNat 8 40 (s.fld F.CAL_MATCH_RL_TH)) : s.calRlWindow rl pwr = s.returnLossShown rl pwr :=
  (if_pos (calWas_radiate h)).trans (if_neg hrl)

/-- A return loss worse than RL_TH is shown and stops the injector (R101). -/
theorem calRlWindow_mismatch {s : State} {rl : Nat} (pwr : Nat) (h : s.calState = 3)
    (hrl : rl < 5 * clampNat 8 40 (s.fld F.CAL_MATCH_RL_TH)) : s.calRlWindow rl pwr =
    ((s.returnLossShown rl pwr).calStopNow.setFlag F.CAL_STAT_MISMATCH_STOP true).sticky P.CAL 8 :=
  calc s.calRlWindow rl pwr
    _ = (s.returnLossShown rl pwr).calEnd fun t => (t.setFlag F.CAL_STAT_MISMATCH_STOP true).sticky P.CAL 8 :=
      (if_pos (calWas_radiate h)).trans (if_pos hrl)
    _ = ((s.returnLossShown rl pwr).calStopNow.setFlag F.CAL_STAT_MISMATCH_STOP true).sticky P.CAL 8 :=
      calEnd_radiate ((returnLossShown_calState s rl pwr).trans h) _

theorem exec_lnaOverload (s : State) {p : Nat} (active : Bool) (hp : p < 16) :
    exec (.lnaOverload p active) s = .next (s.lnaOverload p active).settle :=
  next_settle_if_pos hp _ _

/-- Settles O6: GO and STOP are accepted writes of CAL_CMD, and every other event meets the state in which it acts. That a stop
clears LEVEL_OK, that LEVEL_OK stays through an excursion of the level, that a GO is judged with SYN_ACT as f_LO, and which stop
causes fall in one cycle, is the model's choice (log entry 75). -/
theorem injectorAndPathCommandsComplete : Obligations.InjectorAndPathCommandsComplete := by
  unfold Obligations.InjectorAndPathCommandsComplete
  refine ⟨?go, ?stop, ?holdTimeout, ?seqStep, ?releaseStep, ?matched, ?mismatch, ?levelOk, ?levelFail, ?overload,
    ?overloadEnds, ?windowEnd⟩
  case go =>
    intro s init hadmits hidle hok hlock
    exact next_settle_of_eq (next_via_admits rfl hadmits) (calGo_starts init (by simpa using hidle) (by simpa using hok)
      (by simpa using hlock))
  case stop =>
    intro s init hadmits h
    exact next_settle_of_eq (next_via_admits rfl hadmits) (calEnd_radiate (by simpa using h) id)
  case holdTimeout =>
    intro s h
    exact next_settle_of_eq rfl (calHoldTimeout_held h)
  case seqStep =>
    intro s h hlines
    exact next_settle_of_eq rfl (calSeqStep_asserts h hlines)
  case releaseStep =>
    intro s h
    exact next_settle_of_eq rfl (calReleaseStep_off h)
  case matched =>
    intro s rl pwr h hrl
    exact next_settle_of_eq rfl (calRlWindow_matched pwr h hrl)
  case mismatch =>
    intro s rl pwr h hrl
    exact next_settle_of_eq rfl (calRlWindow_mismatch pwr h hrl)
  case levelOk =>
    intro s h
    exact next_settle_of_eq rfl (if_pos h)
  case levelFail =>
    intro s h
    exact next_settle_of_eq rfl (if_pos h)
  case overload =>
    rintro s p _ hp rfl
    exact exec_lnaOverload s true hp
  case overloadEnds =>
    rintro s p _ hp rfl
    exact exec_lnaOverload s false hp
  case windowEnd =>
    intro s p hp
    exact next_settle_if_pos hp _ _

end State
end Sys2Proof.Machine
end

