-- ==== Sys2Proof/Proofs/CapturePort.lean ====
section
/-! PROOF. The capture port (R129 to R134, Table 5-4): when a command or an event acts on a channel, and the obligation that these
commands complete. -/

namespace Sys2Proof.Machine
namespace State

/-! ### What an answer leaves of a channel -/

@[simp] theorem respond_capState (s : State) (r : Resp) (n : Nat) : (s.respond r).capState n = s.capState n :=
  respond_fld s r _

@[simp] theorem respond_capValid (s : State) (r : Resp) (n : Nat) : (s.respond r).capValid n = s.capValid n := rfl

/-! ### When a channel's commands and events act (Table 5-4) -/

theorem capArm_idle {s : State} {n : Nat} (init : Nat) (hidle : s.capState n = 0) (hvalid : s.capValid n = true) :
    s.capArm n init =
      (((s.capSet n CapChan.reset).setFld (F.DFE_CAPSTAT_STATE n) 1).setFlag (F.DFE_CAPSTAT_WRAPPED n) false).capShow n :=
  (if_pos (.inl hidle)).trans (if_pos hvalid)

/-- STOP of a channel that has not started writes nothing. -/
theorem capStop_armed {s : State} {n : Nat} (h : s.capState n = 1) : s.capStop n = s.setFld (F.DFE_CAPSTAT_STATE n) 0 :=
  if_pos h

/-- The channel once its rms block has closed, before that block starts a run. -/
def capRmsClosed (s : State) (n : Nat) : State :=
  s.capSet n { s.capGet n with mix := (s.capGet n).mix.close, spectrum := false }

/-- An rms block ends in a channel from ARM on (R129); the first one of an ARMED channel starts a ring, and a snapshot that
waits for no other event (R132). -/
theorem capRmsBlock_due {s : State} {n : Nat} (t : Nat) (hstate : s.capState n ≠ 0 ∧ s.capState n ≠ 4)
    (hdue : s.capRmsDue n = true) : s.capRmsBlock n t =
      if s.capState n = 1 ∧ (s.capGet n).mix.rms.isNone ∧ (s.capRing n ∨ s.fld (F.DFE_CAPTRIG_START n) = 0) then
        (s.capRmsClosed n).capRun n 0 (some t)
      else s.capRmsClosed n :=
  if_neg (by simp [hstate, hdue])

theorem capRmsBlock_running {s : State} {n : Nat} (t : Nat) (hrun : s.capState n = 2) (hdue : s.capRmsDue n = true) :
    s.capRmsBlock n t = s.capRmsClosed n :=
  (capRmsBlock_due t (by simp [hrun]) hdue).trans (if_neg (by simp [hrun]))

theorem capRmsBlock_first {s : State} {n : Nat} (t : Nat) (harmed : s.capState n = 1) (hdue : s.capRmsDue n = true)
    (hrms : (s.capGet n).mix.rms = none) (hstart : s.fld (F.DFE_CAPTRIG_START n) = 0) :
    s.capRmsBlock n t = (s.capRmsClosed n).capRun n 0 (some t) :=
  (capRmsBlock_due t (by simp [harmed]) hdue).trans (if_pos ⟨harmed, by rw [hrms]; rfl, .inr hstart⟩)

/-- A snapshot of samples completes once the next group of 32 does not fit (log entry 29). -/
theorem capBufferFull_snapshot {s : State} {n : Nat} (hkind : s.fld (F.DFE_CAPSRC_KIND n) ≠ 3) (hrun : s.capState n = 2)
    (hopen : (s.capGet n).closing = none) (hfull : s.capFits n (s.capGroup n) = false) (hlinear : s.capRing n = false) :
    s.capBufferFull n = s.capClose n 0 := by
  simp [capBufferFull, hkind, hrun, hopen, hfull, hlinear]

theorem capPostDone_counted {s : State} {n : Nat} (hpost : s.capState n = 3) (hopen : (s.capGet n).closing = none)
    (hcount : (s.capGet n).postLeft = 0) : s.capPostDone n = s.capClose n 0 :=
  if_pos ⟨hpost, hopen, hcount⟩

/-- An overflow closes a capture that writes, in RUN and in POST (R134). -/
theorem capOverflow_writing {s : State} {n : Nat} (hstate : s.capState n = 2 ∨ s.capState n = 3)
    (hopen : (s.capGet n).closing = none) : s.capOverflow n =
      ((s.capClose n 2).setFlag (F.DFE_CAPSTAT_OVERRUN n) true).sticky (P.DFE n) 10 (s.capState n) :=
  if_pos ⟨hstate, hopen⟩

/-- An ownership error ends a capture at once, in RUN and in POST: no header and no handover. -/
theorem capOwnErr_writing {s : State} {n : Nat} (hstate : s.capState n = 2 ∨ s.capState n = 3) : s.capOwnErr n =
    (((s.setFld (F.DFE_CAPSTAT_STATE n) 0).setFlag (F.DFE_CAPSTAT_OWN_ERR n) true).sticky (P.DFE n) 11 (s.capState n)).irq
      (P.DFE n) 4 :=
  if_pos hstate

/-- The header that completes a capture: the time of sample 0 is `t` after a wrap, and the STATUS `st` then tells the wrap. -/
def capFinalHeader (s : State) (n t st : Nat) : List Byte :=
  s.capHeader n (if s.flag (F.DFE_CAPSTAT_WRAPPED n) then t else (s.capGet n).t0.getD t)
    (st + b2n (s.flag (F.DFE_CAPSTAT_WRAPPED n)))

/-- A closed capture whose header is written, and that hands its banks to nobody, is DONE (R133). -/
theorem capComplete_kept {s s2 : State} {n st : Nat} (t : Nat) (hclosed : (s.capGet n).closing = some st)
    (hstate : (s.capFlush n).capState n ≠ 0)
    (hwrite : (s.capFlush n).portWrite Init.DFE ((s.capFlush n).capBase n) ((s.capFlush n).capFinalHeader n t st) = (s2, true))
    (hkept : s2.fld (F.DFE_CAPFMT_HANDTO n) = 0) : s.capComplete n t =
      ((s2.capSet n { s2.capGet n with closing := none }).setFld (F.DFE_CAPSTAT_STATE n) 4).irq (P.DFE n) 3 := by
  rw [capFinalHeader] at hwrite
  simp only [capComplete, hclosed, hstate, hwrite, hkept, if_true, if_false]

/-! ### The commands of the capture port -/

theorem exec_capArm (s : State) {n : Nat} (init : Nat) (hn : n < 16) : exec (.capArm n init) s =
    .next (s.via init (R.DFE_CAPCMD n) fun t => t.capArm n init).settle :=
  next_settle_if_pos hn _ _

theorem exec_capStop (s : State) {n : Nat} (init : Nat) (hn : n < 16) : exec (.capStop n init) s =
    .next (s.via init (R.DFE_CAPCMD n) fun t => t.capStop n).settle :=
  next_settle_if_pos hn _ _

/-- An event of one of the sixteen channels, where the channel acts as the rule says. -/
theorem next_channel_event {n : Nat} {s t u v : State} {c : Instr} (hc : exec c s = .next (if n < 16 then t else v).settle)
    (hn : n < 16) (h : t = u) : exec c s = .next u.settle :=
  next_settle_of_eq (hc.trans (next_settle_if_pos hn t v)) h

/-- Settles O8: ARM and STOP are accepted writes of CAPCMD, and every other event meets the state of Table 5-4 in which it acts.
When a buffer is full, that POST counts whole groups, and that the time of sample 0 is an operand of the completion, is the
model's reading (log entry 29); the rms blocks are those of R129. -/
theorem captureCommandsComplete : Obligations.CaptureCommandsComplete := by
  unfold Obligations.CaptureCommandsComplete
  refine ⟨?arm, ?stop, ?rmsRunning, ?rmsFirst, ?bufferFull, ?postDone, ?overflow, ?ownError, ?complete⟩
  case arm =>
    intro s n init hn hadmits hidle hvalid
    exact next_settle_of_eq (next_via_admits (exec_capArm s init hn) hadmits)
      (capArm_idle init (by simpa using hidle) (by simpa using hvalid))
  case stop =>
    intro s n init hn hadmits harmed
    exact next_settle_of_eq (next_via_admits (exec_capStop s init hn) hadmits) (capStop_armed (by simpa using harmed))
  case rmsRunning =>
    rintro s n time raw _ hn rfl hrun hdue
    exact next_channel_event rfl hn (capRmsBlock_running time hrun hdue)
  case rmsFirst =>
    rintro s n time raw _ _ hn rfl harmed hdue hrms hstart rfl
    exact next_channel_event rfl hn (capRmsBlock_first time harmed hdue hrms hstart)
  case bufferFull =>
    rintro s n raw _ hn rfl hkind hrun hopen hfull hlinear
    exact next_channel_event rfl hn (capBufferFull_snapshot hkind hrun hopen hfull hlinear)
  case postDone =>
    rintro s n raw _ hn rfl hpost hopen hcount
    exact next_channel_event rfl hn (capPostDone_counted hpost hopen hcount)
  case overflow =>
    intro s n hn hrun hopen
    have hact := capOverflow_writing (.inl hrun) hopen
    rw [hrun] at hact
    exact next_channel_event rfl hn hact
  case ownError =>
    intro s n hn hpost
    have hact := capOwnErr_writing (.inr hpost)
    rw [hpost] at hact
    exact next_channel_event rfl hn hact
  case complete =>
    rintro s n time st _ s2 hn hclosed rfl hstate hwrite hkept
    exact next_channel_event rfl hn (capComplete_kept time hclosed hstate hwrite hkept)

end State
end Sys2Proof.Machine
end

