-- ==== Sys2Proof/Proofs/SignalBlocks.lean ====
section
/-! PROOF. Block ends, solves and reports of the front end and the array processors (R120, R125, R126, R142, R149 to R157): what
each event does to a path or band on which it is due, and the obligation that these commands complete. -/

namespace Sys2Proof.Machine
namespace State

/-! ### Covariance and monitor block ends -/

/-- When a block's last sample leaves the front end, the front end's part of the block end takes effect; the samples after it
are taken up to what falls due next. -/
theorem covBlockEnd_due {s s1 : State} {raw rest : List (List Iq)} (hfeed : s.feedTo raw = (s1, rest))
    (hdue : s1.sig.covDue = true) (htail : (s1.covFront.feed rest).sig.tail ≠ some 0) :
    s.covBlockEnd raw = s1.covFront.feed rest := by
  simp only [covBlockEnd, hfeed, hdue, if_true, htail, if_false]

/-- When the block's last sample has passed the array processors, their part of the block end takes effect. -/
theorem covBlockEnd_tail {s s1 : State} {raw rest : List (List Iq)} (hfeed : s.feedTo raw = (s1, rest))
    (hdone : s1.sig.covDue = false) (htail : (s1.feed rest).sig.tail = some 0) :
    s.covBlockEnd raw = (s1.feed rest).covArray := by
  simp only [covBlockEnd, hfeed, hdone, Bool.false_eq_true, if_false, htail, if_true]

/-- A due monitor block ends on every path, and the S fields of the front end transfer (R125, R136). -/
theorem smBlockEnd_due {s t : State} (hdue : s.sig.smDue = true) (ht : (List.range 16).foldl smPath s = t) :
    s.smBlockEnd = ({ t with sig := { t.sig with smDue := false } } : State).dfeBoundary t.sig.covDue := by
  subst ht
  exact if_neg (by simp [hdue])

/-! ### The B0 solve -/

/-- Band b once the weights of a solve are published and WEPOCH has advanced (R150, R153), before its report falls due. -/
def arrSolved (s : State) (b : Nat) (x : List Cx) : State :=
  ((arrPublish b (s.arrSet b { s.arrGet b with due := none }) 0 x).addFld (F.ARR_WSTAT_WEPOCH b) 1).setFld (F.ARR_WSTAT_LAST b) 1

/-- A solve from a new covariance whose system is regular publishes its weights, and its report falls due. -/
theorem arrSolve_regular {s : State} {b : Nat} {job : SolveJob} {x : List Cx} (hlive : s.live (P.ARR b) = true)
    (hdue : (s.arrGet b).due = some job) (hmode : b0Mode job.cfg ≠ 2) (hfresh : job.fresh = true)
    (hsolve : solveWeights job = some x) : s.arrSolve b =
      (s.arrSolved b x).arrSet b { (s.arrSolved b x).arrGet b with reportDue := some job } := by
  simp [arrSolve, hdue, hmode, hlive, hfresh, hsolve, arrSolved]

/-! ### The jammer report -/

/-- The eigenvalues of a solve's average that are jammers, the strongest first, with their eigenvectors (R154). -/
def jamCandidates (job : SolveJob) : List (Nat × List Iq) :=
  (jamEigen (job.ravg.getD [])).2.filter fun v =>
    aboveFloor (4 * v.1) (jamEigen (job.ravg.getD [])).1 (getBits job.cfg 16 8)

/-- The entries of the four strongest jammers: power above the floor, and where GEOM_V is 1 the direction with the depth of its
null (R154 to R156). -/
def jamEntries (s : State) (b : Nat) (job : SolveJob) : List (Nat × Option (Nat × Int × Nat)) :=
  ((jamCandidates job).take 4).map fun v =>
    (levelAbove (4 * v.1) (jamEigen (job.ravg.getD [])).1,
      if getBits job.ctl 1 1 = 1 then
        let d := jamDirection (elementPos job.pos) job.lo v.2
        some (d.1, d.2, nullDepth (elementPos job.pos) job.lo ((List.range 8).map fun e => cxWord (s.reg (R.ARR_B0W b e))) d)
      else none)

/-- Band b once the report of a solve is shown and SOLVED raised, before the report is compared with the last one. -/
def jamReported (s : State) (b : Nat) (job : SolveJob) : State :=
  ((((List.range 4).foldl (jamShow b (s.jamEntries b job)) (s.arrSet b { s.arrGet b with reportDue := none })).setFld
    (F.ARR_NULL_NJAM b) (min 7 (jamCandidates job).length)).jamSupp b job).irq (P.ARR b) 0

/-- Some jammer's null is shallower than NULL_MIN in its direction (R156). -/
def jamShallow (s : State) (b : Nat) (job : SolveJob) : Bool :=
  (List.range 4).any fun k => s.flag (F.ARR_JAMA_DIR_V b k) && s.fld (F.ARR_JAMB_DEPTH b k) < getBits job.cfg 24 8

/-- Band b once JAM_CHANGE is raised where the number of jammers has changed or a direction has moved (R154). -/
def jamCompared (s : State) (b : Nat) (job : SolveJob) : State :=
  if min 7 (jamCandidates job).length ≠ s.fld (F.ARR_NULL_NJAM b) ∨ s.jamMoved (s.jamReported b job) b then
    (s.jamReported b job).irq (P.ARR b) 1
  else s.jamReported b job

theorem jamReport_due {s : State} {b : Nat} {job : SolveJob} (hdue : (s.arrGet b).reportDue = some job) : s.jamReport b =
    if (s.jamCompared b job).jamShallow b job then (s.jamCompared b job).sticky (P.ARR b) 10 else s.jamCompared b job := by
  simp only [jamReport, hdue]
  rfl

/-- A report like the last one, all of whose nulls are deep enough, raises SOLVED alone. -/
theorem jamReport_unchanged {s : State} {b : Nat} {job : SolveJob} (hdue : (s.arrGet b).reportDue = some job)
    (hcount : min 7 (jamCandidates job).length = s.fld (F.ARR_NULL_NJAM b))
    (hmoved : s.jamMoved (s.jamReported b job) b = false) (hdeep : (s.jamReported b job).jamShallow b job = false) :
    s.jamReport b = s.jamReported b job := by
  have hsame : s.jamCompared b job = s.jamReported b job := if_neg (by simp [hcount, hmoved])
  rw [jamReport_due hdue, hsame, hdeep]
  exact if_neg Bool.false_ne_true

/-! ### The spectrum report -/

/-- The floor of the average of `used` blocks, over which levels are told; 0 where every block was left out (R126). -/
def spectrumFloor (s : State) (p used : Nat) (sum : List Nat) : Nat :=
  if 0 < used then floorPower (s.ifBw p) (byBin sum) else 0

/-- The peaks of the average, in descending level (R126, log entry 66). -/
def spectrumPeaks (s : State) (p used : Nat) (sum : List Nat) : List (Int × Nat) :=
  if 0 < used then
    reportPeaks (localMaxima (s.ifBw p) (s.spectrumFloor p used sum) (s.fld (F.DFE_SMCFG_PK_TH p)) (byBin sum))
  else []

/-- The powers that the notches of path p took away over the interval (log entry 66). -/
def spectrumRemoved (s : State) (p used : Nat) (sum : List Nat) : List Nat :=
  if 0 < used then
    (List.range 8).map fun k => s.notchPower p k (s.pathSig p).mon.valid (s.spectrumFloor p used sum) used
  else []

/-- Path p once its report is taken: the counts of the interval begin anew. -/
def spectrumTaken (s : State) (p : Nat) : State :=
  s.pathSigSet p { s.pathSig p with
    notch := (s.pathSig p).notch.map fun x => { x with removed := 0 }
    mon := { (s.pathSig p).mon with report := none, valid := 0 } }

/-- SMSTAT and the peak registers show the report, and REPORT is raised; FLOOR keeps its value where the interval has none (log
entry 28). -/
def spectrumShown (s : State) (p used : Nat) (sum : List Nat) : State :=
  let floor := s.spectrumFloor p used sum
  let peaks := s.spectrumPeaks p used sum
  let s1 := if 0 < used then (s.spectrumTaken p).setFld (F.DFE_SMSTAT_FLOOR p) (binLevel floor used) else s.spectrumTaken p
  let s2 := (List.range 8).foldl (smShowPeak p floor peaks)
    (((s1.setFld (F.DFE_SMSTAT_NPEAK p) peaks.length).setFlag (F.DFE_SMSTAT_VALID p) (decide (0 < used))).irq (P.DFE p) 0)
  s2.dfeSet p { s2.dfeGet p with peaks := peaks.map (·.1) }

/-- The leader of a band, or an independent path, releases and assigns its auto notches by the report (R120). -/
def spectrumNotched (s : State) (p used : Nat) (sum : List Nat) : State :=
  let t := s.spectrumShown p used sum
  if t.notchLeader p = p then
    ((s.spectrumPeaks p used sum).foldl (notchAssign p (s.spectrumFloor p used sum))
      ((List.range 8).foldl (notchRelease p (s.spectrumRemoved p used sum)) t)).notchShow (p % 2)
  else t

/-- The captures of path p's spectrum take the average (R130, log entry 85). -/
def spectrumCaptured (s : State) (p used : Nat) (sum : List Nat) : State :=
  let t := s.spectrumNotched p used sum
  if 0 < used then (List.range 16).foldl (capSpectrum p ((byBin sum).map fun b => binLevel b used)) t else t

/-- The report of an ended interval raises NEW_PEAK, and triggers the captures that wait for interference, where a peak lies more
than 3 bins from every peak of the report before (R126). The interval has used a block or has left all of them out. -/
theorem smReport_interval {s : State} {p used : Nat} {sum : List Nat} (h : (s.pathSig p).mon.report = some (sum, used)) :
    s.smReport p =
      if (s.spectrumPeaks p used sum).any fun m => (s.dfeGet p).peaks.all fun o => 3 < (o - m.1).natAbs then
        ((s.spectrumCaptured p used sum).irq (P.DFE p) 1).capInterference (p % 2)
      else s.spectrumCaptured p used sum := by
  simp only [smReport, h]
  cases used with
  | zero => rfl
  | succ used => rfl

/-! ### The commands -/

theorem exec_b0Solve (s : State) {b : Nat} (hb : b < 2) : exec (.b0Solve b) s = .next (s.arrSolve b).settle :=
  next_settle_if_pos hb _ _

theorem exec_jamReportDone (s : State) {b : Nat} (hb : b < 2) : exec (.jamReportDone b) s = .next (s.jamReport b).settle :=
  next_settle_if_pos hb _ _

theorem exec_smReport (s : State) {p : Nat} (hp : p < 16) : exec (.smReport p) s = .next (s.smReport p).settle :=
  next_settle_if_pos hp _ _

/-- Settles O7: each event meets the state in which it acts. That the array processors end a block 72 samples after the front end,
which peaks and notch powers a report gives, and what stands at a boundary are the model's reading (log entries 28, 63, 66 and
85); so are the rounding of the weights and which state a solve and its report speak of (log entries 69 and 70). -/
theorem signalBlockCommandsComplete : Obligations.SignalBlockCommandsComplete := by
  unfold Obligations.SignalBlockCommandsComplete
  refine ⟨?front, ?arrays, ?solve, ?jammers, ?monitor, ?spectrum⟩
  case front =>
    rintro s raw rest s1 _ _ hfeed hdue rfl rfl htail
    exact next_settle_of_eq rfl (covBlockEnd_due hfeed hdue htail)
  case arrays =>
    rintro s raw rest s1 _ _ hfeed hdone rfl htail rfl
    exact next_settle_of_eq rfl (covBlockEnd_tail hfeed hdone htail)
  case solve =>
    intro s b job x hb hlive hdue hmode hfresh hsolve
    exact next_settle_of_eq (exec_b0Solve s hb) (arrSolve_regular hlive hdue hmode hfresh hsolve)
  case jammers =>
    rintro s b _ job _ _ _ hb hdue rfl rfl rfl rfl hdeep hcount hmoved
    exact next_settle_of_eq (exec_jamReportDone s hb) (jamReport_unchanged hdue hcount hmoved hdeep)
  case monitor =>
    rintro s raw s1 _ rfl hdue rfl
    exact next_settle_of_eq rfl (smBlockEnd_due hdue rfl)
  case spectrum =>
    rintro s p used _ sum _ _ _ _ _ _ _ _ hp hreport rfl rfl rfl rfl rfl rfl rfl rfl rfl
    exact next_settle_of_eq (exec_smReport s hp) (smReport_interval hreport)

end State
end Sys2Proof.Machine
end

