-- ==== Sys2Proof/Proofs/ChannelScheduler.lean ====
section
/-! PROOF. The commands of CHS_VCCMD (R217, R218, R242): how a command that nothing refuses ends, what SET_WANT and PUT_HW do to
a channel whose context can be reached, and the obligation that these commands complete. -/

namespace Sys2Proof.Machine
namespace State

/-! ### What an answer leaves of a channel -/

@[simp] theorem respond_vcGet (s : State) (r : Resp) (v : Nat) : (s.respond r).vcGet v = s.vcGet v := rfl

@[simp] theorem respond_stage (s : State) (r : Resp) (k n : Nat) : (s.respond r).stage k n = s.stage k n :=
  List.map_congr_left fun j _ => respond_reg s r (R.CHS2_STAGE (k + j))

/-! ### What a command does to a channel (R242) -/

/-- A command that finds no other in progress shows its result, and BUSY until CMD_DONE. -/
theorem vcCmd_idle {s t : State} {r : Nat} {run : State → State × Nat} (init : Nat)
    (hidle : s.flag F.CHS_VCSTAT2_BUSY = false) (hrun : run s = (t, r)) :
    s.vcCmd init run = ((t.setFlag F.CHS_VCSTAT2_BUSY true).setFld F.CHS_VCSTAT2_RESULT r).chsShow := by
  simp only [vcCmd, hidle, Bool.false_eq_true, if_false, hrun]

theorem cmdSetWant_reached {s : State} {v w : Nat} (hw : w ≤ 4) (hreached : (s.vcWant v w).2 = true) :
    cmdSetWant v w s = ((s.vcWant v w).1, 0) := by
  have hwant : s.vcWant v w = ((s.vcWant v w).1, true) := Prod.ext rfl hreached
  rw [cmdSetWant, if_neg (Nat.not_lt.2 hw), hwant]

/-- PUT_HW writes the hardware part of a channel that is not LIVE. -/
theorem cmdPutHw_reached {s : State} {v : Nat} (hlive : (s.vcGet v).st ≠ 4)
    (hreached : (s.ctxWrite v 0 (wordBytes (s.stage 0 32))).2 = true) :
    cmdPutHw v s = ((s.ctxWrite v 0 (wordBytes (s.stage 0 32))).1, 0) := by
  have hwrite : s.ctxWrite v 0 (wordBytes (s.stage 0 32)) = ((s.ctxWrite v 0 (wordBytes (s.stage 0 32))).1, true) :=
    Prod.ext rfl hreached
  rw [cmdPutHw, if_neg hlive, hwrite]

theorem cmdDone_busy {s : State} (hbusy : s.flag F.CHS_VCSTAT2_BUSY = true) :
    s.cmdDone = (s.setFlag F.CHS_VCSTAT2_BUSY false).irq P.CHS 2 := if_pos hbusy

/-! ### The commands -/

/-- A command for one of the 4096 channels whose write is accepted, and that nothing refuses, leaves RESULT 0. -/
theorem next_channel_command {s t : State} {init v : Nat} {run : State → State × Nat} {c : Instr}
    (hc : exec c s = .next (if v < 4096 then s.via init R.CHS_VCCMD fun t => t.vcCmd init run else s).settle) (hv : v < 4096)
    (hadmits : s.admits init R.CHS_VCCMD = true) (hidle : s.flag F.CHS_VCSTAT2_BUSY = false)
    (hrun : run (s.respond .served) = (t, 0)) :
    exec c s = .next ((t.setFlag F.CHS_VCSTAT2_BUSY true).setFld F.CHS_VCSTAT2_RESULT 0).chsShow.settle :=
  next_settle_of_eq (next_via_admits (hc.trans (next_settle_if_pos hv _ _)) hadmits)
    (vcCmd_idle init ((respond_flag ..).trans hidle) hrun)

/-- Settles O10: each command is an accepted write of CHS_VCCMD that meets what its rule asks for. That the change happens at
the write, and that BUSY stands from there until CMD_DONE, is the model's reading (log entry 44). -/
theorem channelCommandsComplete : Obligations.ChannelCommandsComplete := by
  unfold Obligations.ChannelCommandsComplete
  refine ⟨?setWant, ?setRank, ?putHw, ?putCb, ?get, ?cmdDone⟩
  case setWant =>
    intro s init v w hv hadmits hidle hw hreached
    exact next_channel_command rfl hv hadmits hidle (cmdSetWant_reached hw hreached)
  case setRank =>
    intro s init v cls prio hv hadmits hidle hdone
    exact next_channel_command (run := cmdSetRank v cls prio) rfl hv hadmits hidle (Prod.ext rfl hdone)
  case putHw =>
    intro s init v hv hadmits hidle hlive hreached
    rw [← respond_stage s .served] at hreached ⊢
    exact next_channel_command rfl hv hadmits hidle (cmdPutHw_reached (by simpa using hlive) hreached)
  case putCb =>
    intro s init v hv hadmits hidle hdone
    exact next_channel_command (run := cmdPutCb v) rfl hv hadmits hidle (Prod.ext rfl hdone)
  case get =>
    intro s init v hv hadmits hidle hdone
    exact next_channel_command (run := cmdGet v) rfl hv hadmits hidle (Prod.ext rfl hdone)
  case cmdDone =>
    intro s hbusy
    exact next_settle_of_eq rfl (cmdDone_busy hbusy)

end State
end Sys2Proof.Machine
end

