-- ==== Sys2Proof/Proofs/TimeBase.lean ====
section
/-! PROOF. The time base, Drumline, the time outputs and the auxiliary converters (R273, R278 to R297, R545): when an event acts
and what it does then, and the obligation that these events complete. -/

namespace Sys2Proof.Machine
namespace State

/-! ### Drumline (R287, R288) -/

/-- The triggers whose instant time has reached or passed, each with the instant that it fires for and whether that is a SKIP
firing. -/
def dueTriggers (s : State) : List (Nat × Nat × Bool) :=
  (List.range 32).filterMap fun n => (s.trigDue n).map fun x => (n, x)

/-- After the firings of a cycle no step of that cycle is left to judge them by. -/
def firingsDone (s : State) : State := { s with tbu := { s.tbu with stepSpan := none } }

/-- The state in which every due trigger has fired. -/
def allFired (s : State) (e : EpochIn) : State :=
  (s.dueTriggers.foldl (fun (t : State) x => t.trigFire x.1 x.2.1 x.2.2 e.off e.samp) s).firingsDone

/-- The epoch acts at the instant of its trigger when that is among those due (R275). -/
def epochIfDue (s : State) (due : List (Nat × Nat × Bool)) (mode0 : Nat) (e : EpochIn) : State :=
  match due.find? fun x => x.1 = s.fld F.COR_CTL_EPOCH_DRL with
  | some x => s.epochAct x.2.1 mode0 e
  | none => s

theorem epochIfDue_other {s : State} {n i : Nat} {skip : Bool} (hepoch : n ≠ s.fld F.COR_CTL_EPOCH_DRL) (mode0 : Nat)
    (e : EpochIn) : s.epochIfDue [(n, i, skip)] mode0 e = s := by
  have hnone : [(n, i, skip)].find? (fun x => x.1 = s.fld F.COR_CTL_EPOCH_DRL) = none := by simpa using hepoch
  rw [epochIfDue, hnone]

/-- The due triggers fire, the epoch acts if its trigger is one of them, and then each of them arms again. -/
theorem triggerFire_eq (s : State) (dt ds : Nat) (e : EpochIn) : s.triggerFire dt ds e =
    ((s.advance dt ds).dueTriggers.foldl (fun (t : State) x => t.trigRearm x.1 x.2.1)
      (((s.advance dt ds).allFired e).epochIfDue (s.advance dt ds).dueTriggers (s.advance dt ds).mode e)).wakeShadow := rfl

/-- A single due trigger that is not the epoch's fires and arms again, and the epoch does not act. -/
theorem triggerFire_single {s t : State} {dt ds n i : Nat} {skip : Bool} {e : EpochIn}
    (hdue : (s.advance dt ds).dueTriggers = [(n, i, skip)])
    (hfired : t = ((s.advance dt ds).trigFire n i skip e.off e.samp).firingsDone) (hepoch : n ≠ t.fld F.COR_CTL_EPOCH_DRL) :
    s.triggerFire dt ds e = (t.trigRearm n i).wakeShadow := by
  have hall : (s.advance dt ds).allFired e = t := by rw [allFired, hdue, hfired]; rfl
  rw [triggerFire_eq, hall, hdue, epochIfDue_other hepoch]
  rfl

/-! ### The TBU (R273, R279, R280, R284) -/

theorem solStale_locked {s : State} (hqual : 3 ≤ s.qual) (hstale : s.tbu.lastSolq + 2 * tuSec ≤ s.tbu.time) :
    s.solStale = (((s.setFld F.TBU_QUAL_SOLQ 2).irq P.TBU 3).sticky P.TBU 10).qualUpdate :=
  if_pos ⟨hqual, hstale⟩

/-- A due leap adds its second to OFFSET, or takes it away, and clears LEAP. -/
theorem leapAct_due {s : State} (hdue : s.leapDue = true) : s.leapAct =
    ((s.setFldI F.TBU_UTC_OFFSET (if s.fld F.TBU_UTC_LEAP = 1 then s.fldI F.TBU_UTC_OFFSET + 1
      else s.fldI F.TBU_UTC_OFFSET - 1)).setFld F.TBU_UTC_LEAP 0).irq P.TBU 1 :=
  if_pos hdue

/-- A waiting TBU with a reference and LD_RTC = 0 loads the time of TBU_LD, NS clamped, with the largest uncertainty. -/
theorem tbuLoad_registers {s : State} (edges : Nat) (hwait : s.flag F.TBU_QUAL_WAIT = true) (hload : s.loaded = false)
    (href : s.tbuRefOk = true) (hsource : s.regBit (R.PAGE_CTRL P.TBU) 4 = false) : s.tbuLoad edges =
    s.tbuLoadAt (((s.reg R.TBU_LD0).toNat + s.fld F.TBU_LD1_SEC * 2 ^ 32) * tuSec
      + min 999999999 (s.fld F.TBU_LD2_NS) * tuNs) 0 uncMax := by
  simp only [tbuLoad, hwait, hload, href, hsource, Bool.not_true, Bool.false_eq_true, or_self, if_false]

/-- RTC cycles from the snapshot to the edge at which the TBU reloads. -/
def sleepCycles (s : State) : Nat := (s.aon.raw + 2 ^ 48 - s.tbu.snapC) % 2 ^ 48

/-- The time that `n` RTC cycles of the trimmed period take, in 2^-56 ns. -/
def sleepSpan (s : State) (n : Nat) : Int := (n * (1000000000 * 2 ^ 16) : Nat) * ((2 ^ 25 : Int) + s.aon.trim)

/-- The uncertainty after `n` RTC cycles of sleep, rounded up to whole ns. -/
def sleepUnc (s : State) (n : Nat) : Nat :=
  (-(-(s.sleepSpan n * s.fld F.RTC_UNCPPB_PPB * 1000 + (30517578 * 10 ^ 9 * 2 ^ 56 : Nat))
    / ((10 ^ 12 * 2 ^ 56 : Nat) : Int))).toNat

/-- A pending reload at an RTC edge takes the rate and the time of the snapshot and the cycles slept. -/
theorem tbuReload_pending {s t : State} {edges n : Nat} (hpending : s.flag F.TBU_SLPSTAT_PENDING = true)
    (href : s.tbuRefOk = true) (hedges : edges ≠ 0) (hrun : t = s.aonRun edges) (hcycles : n = t.sleepCycles) :
    s.tbuReload edges =
      (((((((t.setReg R.TBU_RATE0 (BitVec.ofNat 32 t.tbu.snapRate)).setFld F.TBU_RATE1_RATE (t.tbu.snapRate / 2 ^ 32)).tbuLoadAt
        ((t.tbu.snapT + roundDiv (t.sleepSpan n) (2 ^ 40)).toNat * tuFrac) 1 (t.sleepUnc n)).setFld F.TBU_SLPCYC0_CYC n).setFld
        F.TBU_SLPCYC1_CYC (n / 2 ^ 32)).setFlag F.TBU_SLPSTAT_PENDING false).setFlag F.TBU_SLPSTAT_RELOADED true) := by
  have hacts : ¬ ((!s.flag F.TBU_SLPSTAT_PENDING) = true ∨ (!s.tbuRefOk) = true ∨ edges = 0) := by
    simp [hpending, href, hedges]
  subst hcycles hrun
  exact if_neg hacts

/-! ### The time outputs and the event inputs (R290, R292, R293, R545) -/

/-- A whole second that TIO has not acted on gives SECOND, the commit point and the starts of the next PPS edges. -/
theorem tioSecond_fresh {s : State} (hload : s.loaded = true) (hruns : s.tioRuns = true)
    (hfresh : s.tio.second.all (fun l => decide (l < s.nowSec)) = true) : s.tioSecond =
    (((((({ s with tio := { s.tio with second := some s.nowSec } } : State).irq P.TIO 4).ppsKeepPol).commitPoint
      P.TIO).toutFit).ppsNext (s.nowSec + 1)).pinsDue := by
  unfold tioSecond
  cases hlast : s.tio.second with
  | none => exact if_pos ⟨hload, hruns, rfl⟩
  | some l =>
    rw [hlast] at hfresh
    exact if_pos ⟨hload, hruns, hfresh⟩

theorem pulseEnd_clocked {s : State} (hclock : s.gated P.TIO = false) : s.pulseEnd =
    { s with tio := { s.tio with pps := s.tio.pps.map s.pinEnd, tout := s.tio.tout.map s.pinEnd } } :=
  if_neg (by rw [hclock]; exact Bool.false_ne_true)

/-- The TBU time of an edge `off` steps of 25 ps into the present TIME cycle, in 2^-16 ns. -/
def edgeTime (s : State) (off : Nat) : Nat := (s.tbu.time + off * tu25) / tuFrac

/-- With EDGE = 3 either edge is wanted; the first one since the load enters a FIFO with room. -/
theorem evCapture_room {s : State} {m : Nat} (rise : Bool) (off : Nat) (hm : m < 4) (hload : s.loaded = true)
    (hruns : s.tioRuns = true) (hedge : s.fld (F.TIO_EVCFG_EDGE m) = 3) (hroom : (s.evFifo m).length < 4)
    (hfirst : s.tio.evLast.getD m none = none) : s.evCapture m rise off =
    ({ s with tio := { s.tio with ev := s.tio.ev.set m (s.evFifo m ++ [⟨s.edgeTime off, rise, s.qual⟩])
                                  evLast := s.tio.evLast.set m (some (s.edgeTime off)) } } : State).irq P.TIO m := by
  have hwanted : (if rise then s.fld (F.TIO_EVCFG_EDGE m) = 1 || s.fld (F.TIO_EVCFG_EDGE m) = 3
      else s.fld (F.TIO_EVCFG_EDGE m) = 2 || s.fld (F.TIO_EVCFG_EDGE m) = 3 : Bool) = true := by
    rw [hedge]
    cases rise <;> rfl
  have hkept : ¬ (4 ≤ (s.evFifo m).length ∨ false = true) := by simpa using hroom
  unfold evCapture
  rw [hfirst]
  exact (if_pos ⟨hload, hruns, hwanted, hm⟩).trans (if_neg hkept)

theorem exec_evinCapture (s : State) (dt ds : Nat) {m : Nat} (rise : Bool) (off : Nat) (hm : m < 4) :
    exec (.evinCapture dt ds m rise off) s = .next ((s.advance dt ds).evCapture m rise off).settle :=
  next_settle_if_pos hm _ _

theorem exec_eventPop (s : State) (init : Nat) {m : Nat} (hm : m < 4) :
    exec (.eventPop init m) s = .next (s.via init (R.TIO_EVSEC1 m) fun t => t.evPop m).settle :=
  next_settle_if_pos hm _ _

/-! ### The auxiliary converters (R297) -/

/-- A running scan writes its results and, with FREE = 1, is followed by the next. -/
theorem adcDone_busy {s : State} (sums : List Nat) (hlive : s.adcLive = true) (hbusy : s.flag F.AUX_ADCSTAT_BUSY = true) :
    s.adcDone sums = (((List.range 8).foldl (adcResult sums) (s.addFld F.AUX_ADCSTAT_SCANS 1)).setFlag F.AUX_ADCSTAT_BUSY
      (s.flag F.AUX_ADCCFG_FREE)).irq P.AUX 0 :=
  if_pos ⟨hlive, .inl hbusy⟩

/-! ### The commands -/

/-- Settles O3: each event meets the condition under which it acts (R273, R279, R280, R284, R287, R290, R292, R293, R297), the
growth of TBU_UNC acts always (R278), and the steering target is an accepted write of AUX_DACNEXT (R295). What a load resets in
TIO and when an output takes its settings is the model's reading (log entry 45), and so is it that an event carries the TIME and
SAMP cycles that have passed (log entry 46). -/
theorem timeCommandsComplete : Obligations.TimeCommandsComplete := by
  unfold Obligations.TimeCommandsComplete
  refine ⟨?trigger, ?stale, ?leap, ?load, fun _ _ _ => rfl, ?reload, ?second, ?pulse, ?capture, ?pop, ?dac, ?adc⟩
  case trigger =>
    rintro s dt ds n i raw e _ _ t rfl hdue rfl hfired hepoch
    exact next_settle_of_eq rfl (triggerFire_single hdue hfired hepoch)
  case stale =>
    intro s dt ds hqual hstale
    exact next_settle_of_eq rfl (solStale_locked hqual hstale)
  case leap =>
    intro s dt ds hdue hleap
    have hact := leapAct_due hdue
    rw [if_pos hleap] at hact
    exact next_settle_of_eq rfl hact
  case load =>
    intro s edges hwait hload href hsource
    exact next_settle_of_eq rfl (tbuLoad_registers edges hwait hload href hsource)
  case reload =>
    rintro s edges t n _ hpending href hedges hrun hcycles rfl
    exact next_settle_of_eq rfl (tbuReload_pending hpending href hedges hrun hcycles)
  case second =>
    intro s dt ds hload hruns hfresh
    exact next_settle_of_eq rfl (tioSecond_fresh hload hruns hfresh)
  case pulse =>
    intro s dt ds hclock
    exact next_settle_of_eq rfl (pulseEnd_clocked hclock)
  case capture =>
    intro s dt ds m rise off hm hload hruns hedge hroom hfirst
    exact next_settle_of_eq (exec_evinCapture s dt ds rise off hm) (evCapture_room rise off hm hload hruns hedge hroom hfirst)
  case pop =>
    intro s init m hm hadmits
    exact next_via_admits (exec_eventPop s init hm) hadmits
  case dac =>
    intro s init value hadmits
    exact next_via_admits rfl hadmits
  case adc =>
    intro s sums hlive hbusy
    exact next_settle_of_eq rfl (adcDone_busy sums hlive hbusy)

end State
end Sys2Proof.Machine
end

