-- ==== Sys2Proof/Proofs/NetworkTime.lean ====
section
/-! PROOF. The Ethernet ports and the PTP session engine (R305 to R328, R338): what a frame that its port accepts meets, how a
message of a running session and firmware's frames leave, how a session command ends that nothing refuses, and the obligations
that these complete. -/

namespace Sys2Proof.Machine
namespace State

theorem ptpRuns_live {s : State} (hruns : s.ptpRuns = true) : s.live P.PTP = true := by
  simp only [ptpRuns, Bool.and_eq_true] at hruns
  exact hruns.1.1

/-! ### What a frame meets that its port accepts (R309, R321) -/

/-- An entry that finds room enters the receive FIFO. -/
theorem rxPush_room {s : State} (hroom : s.ptp.rx.length < 1024) (x : RxEntry) :
    s.rxPush x = { s with ptp := { s.ptp with rx := s.ptp.rx ++ [x] } } :=
  if_neg (Nat.not_le.2 hroom)

/-- A response that finds room joins its port queue. -/
theorem respond0_room {s : State} {n : Nat} (hroom : (s.portQueue n).length < 8192) (j : PtpJob) :
    s.respond0 n j = (s.enqueue n j, true) :=
  if_neg (Nat.not_le.2 hroom)

/-- A frame that is no PTP message goes to the FIFO. -/
theorem receive_frame {s s1 : State} {f : RxFrame} (hgate : s.rxGate f = (s1, true)) (hptp : f.ptp = none)
    (hlive : s1.live P.PTP = true) : s.receive f = s1.rxPush (s1.rxEntry f f.kind false false false 0) := by
  simp only [receive, hgate, hlive, hptp, Bool.not_true, Bool.false_eq_true, if_false, Option.isNone_none, Bool.true_or,
    if_true]

/-- A PTP message to the running engine, whose banks are its own, goes by its type. -/
theorem receive_message {s s1 s2 : State} {f : RxFrame} (hgate : s.rxGate f = (s1, true)) (hptp : f.ptp.isSome = true)
    (hengine : f.toFifo = false) (hruns : s1.ptpRuns = true) (hbanks : s1.sesBanks = (s2, true)) : s.receive f =
    if f.type = 1 then s2.delayReqIn f else if f.type = 2 then s2.pdelayReqIn f else s2.messageIn f := by
  have hmessage : f.ptp.isNone = false := Option.isNone_eq_false_iff.2 hptp
  simp only [receive, hgate, ptpRuns_live hruns, hmessage, hengine, hruns, hbanks, Bool.not_true, Bool.false_eq_true, if_false,
    Bool.or_self]

/-! ### Delay_Req, Pdelay_Req and the other messages (R307, R314, R315) -/

/-- The Delay_Resp that answers `f` in session `i`. -/
def delayAnswer (s : State) (f : RxFrame) (i : Nat) : PtpJob :=
  { blankJob .delayResp i (s.ingressTime f.port) with
    seq := f.seq, identity := f.identity, corr := f.corr, dest := f.srcMac, destIp := f.srcIp, map := f.map
    domain := f.domain }

/-- The Pdelay_Resp that answers `f`, to the group that `f` was sent to. -/
def groupAnswer (s : State) (f : RxFrame) : PtpJob :=
  { blankJob .pdelayResp 0 (s.ingressTime f.port) with
    seq := f.seq, identity := f.identity, corr := f.corr, dest := f.dest, destIp := f.destIp, map := f.map
    domain := f.domain }

theorem delayReqIn_unmatched {s : State} {f : RxFrame} (hmatch : s.masterMatch f = none) :
    s.delayReqIn f = s.rxPush (s.rxEntry f 1 true false false 0) := by
  simp only [delayReqIn, hmatch]

/-- A verified Delay_Req of a running session whose grant holds is answered and counted. -/
theorem delayReqIn_granted {s t : State} {f : RxFrame} {i : Nat} {ok : Bool} (hmatch : s.masterMatch f = some i)
    (hses : s.sesRuns (s.sesPeek i) = true) (hauth : s.authCheck i f = (t, some ok))
    (hgrant : granted t.nowSec (sesF (s.sesPeek i) 0x34 4) = true) (hqual : t.qualServes = true)
    (hroom : (t.portQueue f.port).length < 8192) :
    s.delayReqIn f = (t.enqueue f.port (t.delayAnswer f i)).addFld (F.PTPP_RXCNT_COUNT f.port) 1 := by
  simp only [delayReqIn, hmatch, hses, hauth, hgrant, hqual, respond0_room hroom, Bool.not_true, Bool.false_eq_true, if_false]
  rfl

theorem pdelayReqIn_group {s : State} {f : RxFrame} (hanswers : s.flag (F.PTPP_CFG_PDRESP f.port) = true)
    (hgroup : (f.dest.headD 0).toNat % 2 = 1) (hroom : (s.portQueue f.port).length < 8192) :
    s.pdelayReqIn f = s.enqueue f.port (s.groupAnswer f) := by
  simp only [pdelayReqIn, hanswers, hgroup, respond0_room hroom, if_true]
  rfl

theorem pdelayReqIn_unanswered {s : State} {f : RxFrame} (hanswers : s.flag (F.PTPP_CFG_PDRESP f.port) = false) :
    s.pdelayReqIn f = s.rxPush (s.rxEntry f 1 false false false 0) :=
  if_neg (by rw [hanswers]; exact Bool.false_ne_true)

theorem messageIn_unmatched {s : State} {f : RxFrame} (hmatch : s.messageMatch f = none) :
    s.messageIn f = s.rxPush (s.rxEntry f f.kind true false false 0) := by
  simp only [messageIn, hmatch]

/-- A verified message of a running session goes to the FIFO with its session. -/
theorem messageIn_session {s t : State} {f : RxFrame} {i : Nat} {ok : Bool} (hmatch : s.messageMatch f = some i)
    (hses : s.sesRuns (s.sesPeek i) = true) (hauth : s.authCheck i f = (t, some ok)) :
    s.messageIn f = t.rxPush (t.rxEntry f f.kind false false ok i) := by
  simp only [messageIn, hmatch, hses, hauth, Bool.not_true, Bool.false_eq_true, if_false]

/-- A frame that arrives at one of the four ports, whatever its row is called. -/
theorem next_received {s t : State} {f : RxFrame} {c : Instr}
    (hc : exec c s = .next (if f.port < 4 then s.receive f else s).settle) (hport : f.port < 4) (h : s.receive f = t) :
    exec c s = .next t.settle :=
  next_settle_of_eq (hc.trans (next_settle_if_pos hport _ _)) h

/-! ### The link of a port (R323, R326) -/

/-- A running port that had no link records the change; with RCLK_EN = 0 it offers no recovered clock. -/
theorem linkChange_gained {s : State} {n stat : Nat} (hruns : s.portRuns n = true) (hwas : s.flag (F.ETH_STAT_LINK n) = false)
    (hclock : (s.setFld ⟨R.ETH_STAT n, 0, 6⟩ stat).flag (F.ETH_SYNCE_RCLK_EN n) = false) : s.linkChange n stat =
    ((s.setFld ⟨R.ETH_STAT n, 0, 6⟩ stat).setFlag (F.ETH_STAT_RCLK_V n) false).irq (P.ETH n) 0 := by
  simp only [linkChange, rclkShow, hruns, hwas, hclock, Bool.not_true, Bool.false_eq_true, if_false, Bool.false_and,
    Bool.and_false]

theorem exec_linkChange (s : State) {n : Nat} (stat : Nat) (hn : n < 4) :
    exec (.linkChange n stat) s = .next (s.linkChange n stat).rclkWatch.settle :=
  next_settle_if_pos hn _ _

/-- Settles O13: each frame passes its port and goes where R314, R315 and R321 say, and a link that comes up is recorded (R326).
That a Pdelay_Req is answered to the group it came to, and which sessions a message is matched with, is the model's reading (log
entry 47); what the octets of a frame say is presumed from the named standards (log entry 78). -/
theorem frameReceiveCommandsComplete : Obligations.FrameReceiveCommandsComplete := by
  unfold Obligations.FrameReceiveCommandsComplete
  refine ⟨?frame, ?delayUnmatched, ?delayGranted, ?pdelayGroup, ?pdelayUnanswered, ?unmatched, ?session, ?link⟩
  case frame =>
    intro s f s1 hport hgate hptp hlive hroom
    exact next_received rfl hport ((receive_frame hgate hptp hlive).trans (rxPush_room hroom _))
  case delayUnmatched =>
    intro s f s1 s2 hport hgate hptp hengine hruns hbanks htype hmatch hroom
    have hin := (receive_message hgate hptp hengine hruns hbanks).trans (if_pos htype)
    exact next_received rfl hport (hin.trans ((delayReqIn_unmatched hmatch).trans (rxPush_room hroom _)))
  case delayGranted =>
    intro s f s1 s2 s3 k ok hport hgate hptp hengine hruns hbanks htype hmatch hses hauth hgrant hqual hroom
    have hin := (receive_message hgate hptp hengine hruns hbanks).trans (if_pos htype)
    exact next_received rfl hport (hin.trans (delayReqIn_granted hmatch hses hauth hgrant hqual hroom))
  case pdelayGroup =>
    intro s f s1 s2 hport hgate hptp hengine hruns hbanks htype hanswers hgroup hroom
    have hin := (receive_message hgate hptp hengine hruns hbanks).trans ((if_neg (by omega)).trans (if_pos htype))
    exact next_received rfl hport (hin.trans (pdelayReqIn_group hanswers hgroup hroom))
  case pdelayUnanswered =>
    intro s f s1 s2 hport hgate hptp hengine hruns hbanks htype hanswers hroom
    have hin := (receive_message hgate hptp hengine hruns hbanks).trans ((if_neg (by omega)).trans (if_pos htype))
    exact next_received rfl hport (hin.trans ((pdelayReqIn_unanswered hanswers).trans (rxPush_room hroom _)))
  case unmatched =>
    intro s f s1 s2 hport hgate hptp hengine hruns hbanks hdelay hpdelay hmatch hroom
    have hin := (receive_message hgate hptp hengine hruns hbanks).trans ((if_neg hdelay).trans (if_neg hpdelay))
    exact next_received rfl hport (hin.trans ((messageIn_unmatched hmatch).trans (rxPush_room hroom _)))
  case session =>
    intro s f s1 s2 s3 k ok hport hgate hptp hengine hruns hbanks hdelay hpdelay hmatch hses hauth hroom
    have hin := (receive_message hgate hptp hengine hruns hbanks).trans ((if_neg hdelay).trans (if_neg hpdelay))
    exact next_received rfl hport (hin.trans ((messageIn_session hmatch hses hauth).trans (rxPush_room hroom _)))
  case link =>
    intro s n stat hn hruns hwas _ hclock
    exact next_settle_of_eq (exec_linkChange s stat hn) (congrArg rclkWatch (linkChange_gained hruns hwas hclock))

/-! ### How a message leaves its port (R307, R308, R313) -/

/-- The message taken off a port queue is of the kind asked for. -/
theorem portTake_kind {s t : State} {n : Nat} {k : MsgKind} {j : PtpJob} (htake : s.portTake n k = some (j, t)) :
    j.kind = k := by
  unfold portTake at htake
  split at htake
  · contradiction
  · next x _ =>
    split at htake
    · next hkind =>
      obtain ⟨rfl, _⟩ := Prod.mk.inj (Option.some.inj htake)
      exact hkind
    · contradiction

/-- A message of a running session without authentication is sent, where QUAL allows its kind. -/
theorem sesSend_running {s t : State} {j : PtpJob} {e : List Byte} (hread : s.sesRead j.session = (t, some e))
    (hses : t.sesRuns e = true) (hopen : sesAuth e = false) (hqual : j.kind.needsQual = true → t.qualServes = true)
    (send : State → PtpJob → List Byte → State) : s.sesSend j send = send t j e := by
  have hserves : ¬ (j.kind.needsQual && !t.qualServes) = true := by simpa using hqual
  simp only [sesSend, hread, hses, hopen, hserves, Bool.not_true, Bool.false_and, Bool.false_eq_true, if_false]

/-- The next message of a running port leaves it, and a staged frame may take its room. -/
theorem txSession_running {s s1 s2 : State} {n : Nat} {k : MsgKind} {j : PtpJob} {e : List Byte} (hport : s.portRuns n = true)
    (hruns : s.ptpRuns = true) (htake : s.portTake n k = some (j, s1)) (hread : s1.sesRead j.session = (s2, some e))
    (hses : s2.sesRuns e = true) (hopen : sesAuth e = false) (hqual : k.needsQual = true → s2.qualServes = true)
    (send : State → PtpJob → List Byte → State) : s.txSession n k send = (send s2 j e).unstage := by
  have hsent := sesSend_running hread hses hopen (portTake_kind htake ▸ hqual) send
  simp only [txSession, hport, hruns, htake, hsent, Bool.not_true, Bool.or_self, Bool.false_eq_true, if_false]

/-- The transmission of a session's message of kind `k`. -/
theorem next_message_sent {s s1 s2 : State} {n : Nat} {k : MsgKind} {j : PtpJob} {e : List Byte} {c : Instr}
    {send : State → PtpJob → List Byte → State} (hc : exec c s = .next (if n < 4 then s.txSession n k send else s).settle)
    (hn : n < 4) (hport : s.portRuns n = true) (hruns : s.ptpRuns = true) (htake : s.portTake n k = some (j, s1))
    (hread : s1.sesRead j.session = (s2, some e)) (hses : s2.sesRuns e = true) (hopen : sesAuth e = false)
    (hqual : k.needsQual = true → s2.qualServes = true) : exec c s = .next (send s2 j e).unstage.settle :=
  next_settle_of_eq (hc.trans (next_settle_if_pos hn _ _)) (txSession_running hport hruns htake hread hses hopen hqual send)

theorem pdelayRespTx_running {s t : State} {n : Nat} {j : PtpJob} (hport : s.portRuns n = true) (hruns : s.ptpRuns = true)
    (htake : s.portTake n .pdelayResp = some (j, t)) : s.pdelayRespTx n = (pdelaySend n t j).unstage := by
  simp only [pdelayRespTx, hport, hruns, htake, Bool.not_true, Bool.or_self, Bool.false_eq_true, if_false]

/-- A frame of firmware's belongs to no session: it leaves while the engine is live (R322). -/
theorem frameTx_live {s t : State} {n : Nat} {j : PtpJob} (hport : s.portRuns n = true) (hlive : s.live P.PTP = true)
    (htake : s.portTake n .frame = some (j, t)) : s.frameTx n = (frameSend n t j).unstage := by
  simp only [frameTx, hport, hlive, htake, Bool.not_true, Bool.or_self, Bool.false_eq_true, if_false]

theorem exec_pdelayRespTransmit (s : State) {n : Nat} (hn : n < 4) :
    exec (.pdelayRespTransmit n) s = .next (s.pdelayRespTx n).settle :=
  next_settle_if_pos hn _ _

theorem exec_firmwareFrameTransmit (s : State) {n : Nat} (hn : n < 4) :
    exec (.firmwareFrameTransmit n) s = .next (s.frameTx n).settle :=
  next_settle_if_pos hn _ _

/-! ### Firmware's frames in the staging (R322) -/

/-- The descriptor and the first LEN octets pushed, with zeros where fewer were. -/
def pushedFrame (s : State) : Word × List Byte :=
  (s.reg R.PTP_TXDESC, (s.ptp.stage ++ List.replicate 256 0).take (s.fld F.PTP_TXDESC_LEN))

@[simp] theorem respond_pushedFrame (s : State) (r : Resp) : (s.respond r).pushedFrame = s.pushedFrame := by
  simp only [pushedFrame, respond_reg, respond_ptp, respond_fld]

/-- A GO with the staging free and LEN in range stages the frame, and moves it on where its port queue has room. -/
theorem txGo_free {s : State} (hfree : s.ptp.staged = none) (hmin : 14 ≤ s.fld F.PTP_TXDESC_LEN)
    (hmax : s.fld F.PTP_TXDESC_LEN ≤ 256) : s.txGo =
    ((s.ptpPut { s.ptp with stage := [], staged := some s.pushedFrame }).setFlag F.PTP_TXSTAT_BUSY true).unstage := by
  have hlen : ¬ (s.fld F.PTP_TXDESC_LEN < 14 ∨ 256 < s.fld F.PTP_TXDESC_LEN) := by omega
  simp only [txGo, hfree, hlen, Option.isSome_none, Bool.false_eq_true, if_false]
  rfl

/-- Settles O14: each message is the next of its running port and session, and each register write is accepted. That a LEN out
of range sends nothing is the model's reading (log entry 22), and so is it that a frame leaves whole at its transmission, where
a message that finds its session held or QUAL too low is dropped (log entry 47). -/
theorem messageTransmitCommandsComplete : Obligations.MessageTransmitCommandsComplete := by
  unfold Obligations.MessageTransmitCommandsComplete
  refine ⟨?sync, ?followUp, ?announce, ?delayReq, ?delayResp, ?pdelayResp, ?frame, ?push, ?go, ?pop⟩
  case sync =>
    intro s n j s1 s2 e hn hport hruns htake hread hses hopen hqual
    exact next_message_sent (send := syncSend n) rfl hn hport hruns htake hread hses hopen fun _ => hqual
  case followUp =>
    intro s n j s1 s2 e hn hport hruns htake hread hses hopen hqual
    exact next_message_sent (send := followUpSend n) rfl hn hport hruns htake hread hses hopen fun _ => hqual
  case announce =>
    intro s n j s1 s2 e hn hport hruns htake hread hses hopen
    exact next_message_sent (send := announceSend n) rfl hn hport hruns htake hread hses hopen nofun
  case delayReq =>
    intro s n j s1 s2 e hn hport hruns htake hread hses hopen
    exact next_message_sent (send := delayReqSend n) rfl hn hport hruns htake hread hses hopen nofun
  case delayResp =>
    intro s n j s1 s2 e hn hport hruns htake hread hses hopen hqual
    exact next_message_sent (send := delayRespSend n) rfl hn hport hruns htake hread hses hopen fun _ => hqual
  case pdelayResp =>
    intro s n j s1 hn hport hruns htake
    exact next_settle_of_eq (exec_pdelayRespTransmit s hn) (pdelayRespTx_running hport hruns htake)
  case frame =>
    intro s n j s1 hn hport hlive htake
    exact next_settle_of_eq (exec_firmwareFrameTransmit s hn) (frameTx_live hport hlive htake)
  case push =>
    intro s init w hadmits
    exact next_via_admits (a := R.PTP_TXDATA) rfl hadmits
  case go =>
    intro s init hadmits hfree hmin hmax
    have hgo : (s.respond .served).txGo = _ :=
      txGo_free hfree (hmin.trans_eq (respond_fld ..).symm) ((respond_fld ..).trans_le hmax)
    rw [respond_pushedFrame] at hgo
    exact next_settle_of_eq (next_via_admits (a := R.PTP_TXCMD) rfl hadmits) hgo
  case pop =>
    intro s init hadmits
    exact next_via_admits (a := R.PTP_RXPOP) rfl hadmits

/-! ### The operations of the session table (R311, R338) -/

/-- An operation that finds no other in progress shows its result, and BUSY until SESS_DONE; a change waits for no
acknowledgement where the device is no pairing primary. -/
theorem sessCmd_idle {s t : State} {r : Nat} {change : Bool} {run : State → State × Nat} (init i : Nat)
    (hidle : s.flag F.PTP_SESSSTAT_BUSY = false) (hrun : run s = (t, r))
    (hpair : change = true → ((t.setFlag F.PTP_SESSSTAT_BUSY true).setFld F.PTP_SESSSTAT_RESULT r).pairPrimary = false) :
    s.sessCmd init i change run = (t.setFlag F.PTP_SESSSTAT_BUSY true).setFld F.PTP_SESSSTAT_RESULT r := by
  simp only [sessCmd, hidle, Bool.false_eq_true, if_false, hrun]
  refine if_neg ?_
  rintro ⟨hchange, -, hprimary⟩
  exact Bool.false_ne_true ((hpair hchange).symm.trans hprimary)

/-- An operation on one of the 4096 entries whose write is accepted, and that nothing refuses, leaves RESULT 0. -/
theorem next_session_command {s t : State} {init ix : Nat} {change : Bool} {run : State → State × Nat} {c : Instr}
    (hc : exec c s =
      .next (if ix < 4096 then s.via init R.PTP_SESSCMD fun t => t.sessCmd init ix change run else s).settle)
    (hix : ix < 4096) (hadmits : s.admits init R.PTP_SESSCMD = true) (hidle : s.flag F.PTP_SESSSTAT_BUSY = false)
    (hrun : run (s.respond .served) = (t, 0))
    (hpair : change = true → ((t.setFlag F.PTP_SESSSTAT_BUSY true).setFld F.PTP_SESSSTAT_RESULT 0).pairPrimary = false) :
    exec c s = .next ((t.setFlag F.PTP_SESSSTAT_BUSY true).setFld F.PTP_SESSSTAT_RESULT 0).settle :=
  next_settle_of_eq (next_via_admits (hc.trans (next_settle_if_pos hix _ _)) hadmits)
    (sessCmd_idle init ix ((respond_flag ..).trans hidle) hrun hpair)

/-- CLEAR writes an all-zero entry. -/
theorem sesClearCmd_written {s t : State} {i : Nat} (hwrite : s.sesWrite i (List.replicate 64 0) = (t, true)) :
    sesClearCmd i s = (t, 0) := by
  simp only [sesClearCmd, hwrite]

/-- Grants that were open and hold no longer close with GRANT_END. -/
theorem grantEnd_ended {s : State} {i : Nat} (hruns : s.ptpRuns = true)
    (hended : s.grantsOf i ||| grantMask s.nowSec (s.sesPeek i) ≠ grantMask s.nowSec (s.sesPeek i)) :
    s.grantEnd i = (s.grantsSet i (grantMask s.nowSec (s.sesPeek i))).irq P.PTP 3 :=
  if_pos (by rw [hruns, Bool.true_and, decide_eq_true_eq]; exact hended)

theorem sessDone_local {s : State} (hbusy : s.flag F.PTP_SESSSTAT_BUSY = true) (hack : s.pair.waitAck = false) :
    s.sessDone = (s.setFlag F.PTP_SESSSTAT_BUSY false).irq P.PTP 2 :=
  if_pos (by rw [hbusy, hack]; rfl)

theorem exec_grantEnd (s : State) {ix : Nat} (hix : ix < 4096) : exec (.grantEnd ix) s = .next (s.grantEnd ix).settle :=
  next_settle_if_pos hix _ _

/-- Settles O15: each operation is an accepted write of PTP_SESSCMD that nothing refuses and that waits for no secondary. That
the change happens at the write, and that BUSY stands from there until SESS_DONE, is the model's reading (log entry 44), and so
is it which grant has ended (log entry 47). -/
theorem sessionCommandsComplete : Obligations.SessionCommandsComplete := by
  unfold Obligations.SessionCommandsComplete
  refine ⟨?put, ?putKeep, ?get, ?clear, ?grant, ?grantEnd, ?done⟩
  case put =>
    intro s init ix t hix hadmits hidle hrun hpair
    exact next_session_command rfl hix hadmits hidle hrun fun _ => hpair
  case putKeep =>
    intro s init ix t hix hadmits hidle hrun hpair
    exact next_session_command rfl hix hadmits hidle hrun fun _ => hpair
  case get =>
    intro s init ix t hix hadmits hidle hrun
    exact next_session_command (change := false) rfl hix hadmits hidle hrun nofun
  case clear =>
    intro s init ix t hix hadmits hidle hwrite hpair
    exact next_session_command rfl hix hadmits hidle (sesClearCmd_written hwrite) fun _ => hpair
  case grant =>
    intro s init ix arg t hix hadmits hidle hrun hpair
    exact next_session_command rfl hix hadmits hidle hrun fun _ => hpair
  case grantEnd =>
    intro s ix hix hruns hended
    exact next_settle_of_eq (exec_grantEnd s hix) (grantEnd_ended hruns hended)
  case done =>
    intro s hbusy hack
    exact next_settle_of_eq rfl (sessDone_local hbusy hack)

end State
end Sys2Proof.Machine
end

