-- ==== Sys2Proof/Proofs/RedundantPair.lean ====
section
/-! PROOF. The redundant pair (R330 to R348): when a command of the roles, of attestation, of the link, of the heartbeat line
and of the timing frames acts, when a secondary takes over and a primary fences, how a mirrored block or session is stored, and
the obligations that these complete. -/

namespace Sys2Proof.Machine
namespace State

/-! ### What an answer leaves of the pair -/

@[simp] theorem respond_recent (s : State) (r : Resp) (t : Option Nat) (ns : Nat) :
    (s.respond r).recent t ns = s.recent t ns := rfl

@[simp] theorem respond_role (s : State) (r : Resp) : (s.respond r).role = s.role := respond_fld s r _

@[simp] theorem respond_mirrors (s : State) (r : Resp) : (s.respond r).mirrors = s.mirrors := rfl

/-! ### Roles, attestation and the link (R332 to R334, R441) -/

/-- With the peer silent, and pairing out of service, nothing refuses PRIMARY. -/
theorem rolePrimary_unrefused {s : State} (init : Nat) (hsilent : s.recent s.pair.lastPulse 3000000 = false)
    (hpairing : s.flag F.PAIR_CFG_EN = false) : s.rolePrimary init = s.setFld F.PAIR_STAT_ROLE 1 :=
  if_neg (by simp [hsilent, hpairing])

theorem reAttest_linked {s : State} (hlink : s.flag F.PAIR_STAT_LINK = true) :
    s.reAttest = s.setFld F.PAIR_STAT_ATT 1 :=
  if_pos hlink

theorem pairLinkUp_down {s : State} (hlive : s.live P.PAIR = true) (hlink : s.flag F.PAIR_STAT_LINK = false) :
    s.pairLinkUp = ((s.setFlag F.PAIR_STAT_LINK true).setFld F.PAIR_STAT_ATT 1).irq P.PAIR 2 :=
  if_pos (by rw [hlive, hlink]; rfl)

theorem pairLinkDown_up {s : State} (hlink : s.flag F.PAIR_STAT_LINK = true) :
    s.pairLinkDown = ((s.setFlag F.PAIR_STAT_LINK false).irq P.PAIR 2).ackLost :=
  if_pos hlink

/-- A peer with a verified chain and signature passes where the binding record names it beside this device. -/
theorem attPeer_bound {s : State} {x : PairRec} (hrecord : s.nym.pairRec = some x) (hown : x.own = deviceKeyId) :
    s.attPeer true true x.peer = true := by
  simp only [attPeer, hrecord, hown, decide_true, Bool.and_self, Bool.true_or]

/-- Attestation passes when both checks do; a device that is no primary has no table to send. -/
theorem attDone_passed {s : State} (hrunning : s.fld F.PAIR_STAT_ATT = 1) (hlink : s.flag F.PAIR_STAT_LINK = true)
    (hrole : ((s.setFld F.PAIR_STAT_ATT 2).irq P.PAIR 1).role ≠ 1) :
    s.attDone true = (s.setFld F.PAIR_STAT_ATT 2).irq P.PAIR 1 :=
  (if_pos ⟨hrunning, hlink⟩).trans (if_neg hrole)

theorem attDone_failed {s : State} (hrunning : s.fld F.PAIR_STAT_ATT = 1) (hlink : s.flag F.PAIR_STAT_LINK = true) :
    s.attDone false = ((s.setFld F.PAIR_STAT_ATT 3).irq P.PAIR 1).sticky P.PAIR 9 :=
  if_pos ⟨hrunning, hlink⟩

/-! ### The heartbeat line (R331, R340, R341) -/

theorem heartbeatPulse_primary {s : State} (hrole : s.role = 1) (hlive : s.live P.PAIR = true) (hload : s.loaded = true) :
    s.heartbeatPulse = s.pairPut { s.pair with pulseEnd := some (s.nowNs / 1000000 * 1000000 + 50000) } :=
  if_pos (by rw [hrole, hlive, hload]; rfl)

/-- A peer's pulse counts where this device releases the line itself. -/
theorem pairHbEdge_fall {s : State} (hself : s.selfLow = false) : s.pairHbEdge true =
    (s.pairPut { s.pair with
      peerLow := true, lowSince := some (s.pair.lowSince.getD s.nowNs), lastPulse := some s.nowNs
      pulse := s.pair.pulse || decide (s.nowNs % 1000000 ≤ 100000) }).setFlag F.PAIR_STAT_HB_OK true := by
  simp only [pairHbEdge, hself, Bool.not_true, Bool.false_eq_true, if_false]

theorem pairHbEdge_rise (s : State) :
    s.pairHbEdge false = s.pairPut { s.pair with peerLow := false, lowSince := none } := rfl

/-- A device that is no secondary, and that has released the line for a whole millisecond, counts no missed heartbeat. -/
theorem heartbeatWindow_unwatched {s : State} (hlive : s.live P.PAIR = true) (hself : s.selfLow = false)
    (hreleased : (s.pair.released.any fun t => decide (t < s.nowNs / 1000000 * 1000000)) = true) (hrole : s.role ≠ 2) :
    s.heartbeatWindow = ((s.pairPut { s.pair with pulse := false, frame := false }).setFlag F.PAIR_STAT_HB_OK
      (s.recent s.pair.lastPulse 3000000)).setFld F.PAIR_STAT_MISS 0 := by
  obtain ⟨t, ht, hbefore⟩ := (Option.any_eq_true _ _).1 hreleased
  have hpast : ¬ s.nowNs / 1000000 * 1000000 ≤ t := Nat.not_le.2 (of_decide_eq_true hbefore)
  simp only [heartbeatWindow, hlive, hself, ht, hpast, hrole, Bool.not_true, Bool.false_eq_true, decide_false, if_false, ne_eq,
    not_false_eq_true, if_true]

/-! ### Timing frames (R335) -/

theorem timingSend_linked {s : State} (hlink : s.flag F.PAIR_STAT_LINK = true) (hlive : s.live P.PAIR = true) :
    s.timingSend = s.pairPut { s.pair with
      t3 := s.planeTime 0, frameOut := if s.role = 1 then some (s.planeTime 0, s.pair.ingress) else none } :=
  if_pos (by rw [hlink, hlive]; rfl)

/-- t2 - t1 of R335, in 25 ps: from the egress of the primary's frame to its arrival now. -/
def outward (s : State) (t1 : Nat) : Int := ((s.planeTime 0 : Nat) : Int) - t1

/-- t4 - t3 of R335, in 25 ps: from the egress of this device's last frame to its arrival. -/
def homeward (s : State) (t4 : Nat) : Int := (t4 : Int) - s.pair.t3

/-- A frame of the primary gives the secondary its offset and the round trip. -/
theorem timingReceive_secondary {s : State} (t1 t4 : Nat) (hlink : s.flag F.PAIR_STAT_LINK = true)
    (hlive : s.live P.PAIR = true) (hrole : s.role = 2) : s.timingReceive t1 t4 =
    ((s.pairPut { s.pair with frame := true, lastFrame := some s.nowNs, ingress := s.planeTime 0 }).setFldI F.PAIR_OFFSET_PS
      (roundDiv ((s.outward t1 - s.homeward t4) * 25) 2 - s.fldI F.PAIR_ASYM_PS)).setFldI F.PAIR_RTT_PS
        ((s.outward t1 + s.homeward t4) * 25) :=
  (if_pos (by rw [hlink, hlive]; rfl)).trans (if_pos hrole)

/-- Settles O16: each command finds the role, the link and the block that its rule asks for (R331 to R335, R340). The rounding
of OFFSET, the check of the peer by the two key names of the binding record, and the 100 µs in which a pulse counts for its
window are the model's reading (log entry 48). -/
theorem pairRoleAndLinkCommandsComplete : Obligations.PairRoleAndLinkCommandsComplete := by
  unfold Obligations.PairRoleAndLinkCommandsComplete
  refine ⟨?primary, ?secondary, ?noRole, ?reAttest, ?linkUp, ?linkDown, ?passed, ?failed, ?pulse, ?send, ?receive, ?fall,
    ?rise, ?window⟩
  case primary =>
    intro s init hadmits hsilent hpairing
    exact next_settle_of_eq (next_via_admits (a := R.PAIR_CMD) rfl hadmits)
      (rolePrimary_unrefused init ((respond_recent ..).trans hsilent) ((respond_flag ..).trans hpairing))
  case secondary =>
    intro s init hadmits
    exact next_via_admits (a := R.PAIR_CMD) rfl hadmits
  case noRole =>
    intro s init hadmits
    exact next_via_admits (a := R.PAIR_CMD) rfl hadmits
  case reAttest =>
    intro s init hadmits hlink
    exact next_settle_of_eq (next_via_admits (a := R.PAIR_CMD) rfl hadmits) (reAttest_linked ((respond_flag ..).trans hlink))
  case linkUp =>
    intro s hlive hlink
    exact next_settle_of_eq rfl (pairLinkUp_down hlive hlink)
  case linkDown =>
    intro s hlink _
    exact next_settle_of_eq rfl (pairLinkDown_up hlink)
  case passed =>
    rintro s chain sig id peer x hrunning hlink rfl rfl rfl hrecord hown rfl hrole
    have hpass : (s.attPeer true true x.peer && true) = true := by rw [attPeer_bound hrecord hown]; rfl
    exact next_settle_of_eq rfl ((congrArg s.attDone hpass).trans (attDone_passed hrunning hlink hrole))
  case failed =>
    intro s chain sig id peer hrunning hlink hfail
    exact next_settle_of_eq rfl ((congrArg s.attDone hfail).trans (attDone_failed hrunning hlink))
  case pulse =>
    intro s hrole hlive hload
    exact next_settle_of_eq rfl (heartbeatPulse_primary hrole hlive hload)
  case send =>
    intro s hlink hlive
    exact next_settle_of_eq rfl (timingSend_linked hlink hlive)
  case receive =>
    intro s t1 t4 hlink hlive hrole
    exact next_settle_of_eq rfl (timingReceive_secondary t1 t4 hlink hlive hrole)
  case fall =>
    rintro s low rfl hself
    exact next_settle_of_eq rfl (pairHbEdge_fall hself)
  case rise =>
    rintro s low rfl
    exact next_settle_of_eq rfl (pairHbEdge_rise s)
  case window =>
    intro s hlive hself hreleased hrole
    exact next_settle_of_eq rfl (heartbeatWindow_unwatched hlive hself hreleased hrole)

/-! ### Takeover and fence (R340 to R346) -/

/-- A low line counts as fail-fast 200 µs after it fell, where this device releases it itself (R341). -/
theorem failFastNow_held {s : State} {t : Nat} (hauto : s.flag F.PAIR_CFG_AUTO = true) (hself : s.selfLow = false)
    (hlive : s.live P.PAIR = true) (hlow : s.pair.lowSince = some t) (hlong : t + 200000 ≤ s.nowNs) :
    s.failFastNow = true := by
  simp only [failFastNow, hauto, hself, hlive, hlow, hlong, decide_true, Bool.not_false, Bool.and_self]

theorem missedNow_three {s : State} (hauto : s.flag F.PAIR_CFG_AUTO = true) (hself : s.selfLow = false)
    (hlive : s.live P.PAIR = true) (hmiss : s.fld F.PAIR_STAT_MISS = 3) : s.missedNow = true := by
  simp only [missedNow, hauto, hself, hlive, hmiss, decide_true, Bool.not_false, Bool.and_self]

theorem failFast_takes {s : State} (hmay : s.mayTakeOver = true) (hnow : s.failFastNow = true) :
    s.failFast = s.takeover 1 :=
  if_pos (by rw [hmay, hnow]; rfl)

theorem missedHeartbeat_takes {s : State} (hmay : s.mayTakeOver = true) (hnow : s.missedNow = true) :
    s.missedHeartbeat = s.takeover 2 :=
  if_pos (by rw [hmay, hnow]; rfl)

/-- With the primary silent on line and lanes the command takes over. -/
theorem takeoverCommand_silent {s : State} (hmay : s.mayTakeOver = true)
    (hpulse : s.recent s.pair.lastPulse 3000000 = false) (hframe : s.recent s.pair.lastFrame 3000000 = false) :
    s.takeoverCommand = s.takeover 3 :=
  (if_pos hmay).trans (if_neg (by rw [hpulse, hframe]; exact Bool.false_ne_true))

/-- A primary whose pulses arrive is asked. -/
theorem takeoverCommand_pulsing {s : State} (hmay : s.mayTakeOver = true)
    (hpulse : s.recent s.pair.lastPulse 3000000 = true) :
    s.takeoverCommand = s.pairPut { s.pair with asked := true } :=
  (if_pos hmay).trans (if_pos (by rw [hpulse]; rfl))

theorem takeoverTimeout_asked {s : State} (hasked : s.pair.asked = true)
    (hmay : (s.pairPut { s.pair with asked := false }).mayTakeOver = true) :
    s.takeoverTimeout = (s.pairPut { s.pair with asked := false }).takeover 3 :=
  (if_pos hasked).trans (if_pos hmay)

theorem takeoverReply_asked {s : State} (sec k : Nat) (hasked : s.pair.asked = true) :
    s.takeoverReply sec k = s.pairPut { s.pair with asked := false, handTick := some (sec * 128 + k) } :=
  if_pos hasked

/-- The first scheduling tick that begins at least 1 ms from now. -/
def nextHandover (s : State) : Nat :=
  tickOf (s.nowNs + 1000000) + b2n ((s.nowNs + 1000000) % 1000000000 % 7812500 ≠ 0)

/-- A primary that hears an announcement fences at once. -/
theorem pairFence_announced {s : State} (hrole : s.role = 1) : s.pairFence false = s.fence :=
  if_pos hrole

/-- A primary that is asked names the handover tick. -/
theorem pairFence_requested {s : State} (hrole : s.role = 1) :
    s.pairFence true = s.pairPut { s.pair with handTick := some s.nextHandover } :=
  if_pos hrole

/-! ### Mirroring (R250, R337, R338) -/

/-- TYPE and the first LEN octets pushed, with zeros where fewer were. -/
def pushedBlock (s : State) : Nat × List Byte :=
  (s.fld F.PAIR_MTXDESC_TYPE, (s.pair.stage ++ List.replicate 256 0).take (s.fld F.PAIR_MTXDESC_LEN))

@[simp] theorem respond_pushedBlock (s : State) (r : Resp) : (s.respond r).pushedBlock = s.pushedBlock := by
  simp only [pushedBlock, respond_pair, respond_fld]

/-- A mirroring primary sends a block with LEN in range. -/
theorem mirrorSend_primary {s : State} (hmirrors : s.mirrors = true) (hrole : s.role = 1)
    (hmin : 1 ≤ s.fld F.PAIR_MTXDESC_LEN) (hmax : s.fld F.PAIR_MTXDESC_LEN ≤ 256) :
    s.mirrorSend = s.pairPut { s.pair with stage := [], sent := some s.pushedBlock } :=
  if_pos ⟨hmirrors, hrole, hmin, hmax⟩

/-- A secondary that mirrors stops at neither of the two conditions. -/
theorem mirroring_secondary {s : State} (hmirrors : s.mirrors = true) (hrole : s.role = 2) :
    ¬ ((!s.mirrors) = true ∨ s.role ≠ 2) := by
  simp [hmirrors, hrole]

/-- The address of the mirror ring: the bank of PAIR_MBASE. -/
def mirrorBase (s : State) : Nat := sramBase + bankSize * s.fld F.PAIR_MBASE_BANK

/-- WR of the mirror ring after the next record. -/
def mirrorNext (s : State) : Nat := (s.pair.ringWr + 1) % 2 ^ 32

/-- The ring of `s` published with the record that `t` holds in its slot: header, WR and interrupt. -/
def mirrorPublish (s t : State) : State :=
  let u := (t.portWrite Init.PAIR s.mirrorBase (s.mirrorHead s.mirrorNext)).1
  (u.pairPut { u.pair with ringWr := s.mirrorNext }).irq P.PAIR 3

/-- A block that its slot takes is published; type 5 also tells the primary's mode. -/
theorem mirrorReceive_stored {s t : State} {type : Nat} {octets : List Byte} (mode qual : Nat)
    (hmirrors : s.mirrors = true) (hrole : s.role = 2)
    (hslot : s.portWrite Init.PAIR (s.mirrorBase + 64 + 320 * (s.pair.ringWr % 819)) (s.mirrorSlot type octets) = (t, true)) :
    s.mirrorReceive type octets mode qual =
      if type = 5 then (s.mirrorPublish t).mirrorMode mode qual else s.mirrorPublish t := by
  unfold mirrorBase at hslot
  simp only [mirrorReceive, if_neg (mirroring_secondary hmirrors hrole), hslot]
  rfl

theorem exec_mirrorReceive (s : State) (type : Nat) {octets : List Byte} (mode qual : Nat) (hlen : octets.length ≤ 256) :
    exec (.mirrorReceive type octets mode qual) s = .next (s.mirrorReceive type octets mode qual).settle :=
  next_settle_if_pos hlen _ _

/-- A mirrored entry goes to its place in the secondary's own table. -/
theorem sessionMirror_entry {s : State} {i : Nat} (bytes : List Byte) (hmirrors : s.mirrors = true) (hrole : s.role = 2)
    (hi : i < 4096) :
    s.sessionMirror (.entry i bytes) = (s.sesWrite i ((bytes ++ List.replicate 64 0).take 64)).1 :=
  (if_neg (mirroring_secondary hmirrors hrole)).trans (if_pos hi)

theorem mirrorAck_waiting {s : State} (hwait : s.pair.waitAck = true) :
    s.mirrorAck = ((s.pairPut { s.pair with waitAck := false }).setFlag F.PTP_SESSSTAT_BUSY false).irq P.PTP 2 :=
  if_pos hwait

/-- Settles O17: each takeover finds a secondary that may take over and the cause of R340, each fence a primary, and each block
or entry a pair that mirrors (R337, R338, R344). That the lowest of several causes is recorded, and that the mode and the
quality of a type-5 block are operands of the command, is the model's reading (log entry 48); that a LEN out of range sends
nothing is its reading too (log entry 22). -/
theorem pairTakeoverAndMirrorCommandsComplete : Obligations.PairTakeoverAndMirrorCommandsComplete := by
  unfold Obligations.PairTakeoverAndMirrorCommandsComplete
  refine ⟨?commandSilent, ?commandPulsing, ?failFast, ?missed, ?announced, ?requested, ?timeout, ?reply, ?send, ?push, ?block,
    ?modeBlock, ?entry, ?ack⟩
  case commandSilent =>
    intro s init hadmits hmay hpulse hframe
    exact next_settle_of_eq (next_via_admits (a := R.PAIR_CMD) rfl hadmits)
      (takeoverCommand_silent hmay ((respond_recent ..).trans hpulse) ((respond_recent ..).trans hframe))
  case commandPulsing =>
    intro s init hadmits hmay hpulse
    exact next_settle_of_eq (next_via_admits (a := R.PAIR_CMD) rfl hadmits)
      (takeoverCommand_pulsing hmay ((respond_recent ..).trans hpulse))
  case failFast =>
    intro s t hmay hauto hself hlive hlow hlong
    exact next_settle_of_eq rfl (failFast_takes hmay (failFastNow_held hauto hself hlive hlow hlong))
  case missed =>
    intro s hmay hauto hself hlive hmiss
    exact next_settle_of_eq rfl (missedHeartbeat_takes hmay (missedNow_three hauto hself hlive hmiss))
  case announced =>
    rintro s request hrole rfl
    exact next_settle_of_eq rfl (pairFence_announced hrole)
  case requested =>
    rintro s request hrole rfl
    exact next_settle_of_eq rfl (pairFence_requested hrole)
  case timeout =>
    intro s hasked hmay
    exact next_settle_of_eq rfl (takeoverTimeout_asked hasked hmay)
  case reply =>
    intro s sec k hasked
    exact next_settle_of_eq rfl (takeoverReply_asked sec k hasked)
  case send =>
    intro s init hadmits hmirrors hrole hmin hmax
    have hsend : (s.respond .served).mirrorSend = _ :=
      mirrorSend_primary ((respond_mirrors ..).trans hmirrors) ((respond_role ..).trans hrole)
        (hmin.trans_eq (respond_fld ..).symm) ((respond_fld ..).trans_le hmax)
    rw [respond_pushedBlock] at hsend
    exact next_settle_of_eq (next_via_admits (a := R.PAIR_MTXCMD) rfl hadmits) hsend
  case push =>
    intro s init w hadmits
    exact next_via_admits (a := R.PAIR_MTXDATA) rfl hadmits
  case block =>
    rintro s type octets mode qual s2 s3 hlen hmirrors hrole htype hslot rfl
    have hstored := (mirrorReceive_stored mode qual hmirrors hrole hslot).trans (if_neg htype)
    exact next_settle_of_eq (exec_mirrorReceive s type mode qual hlen) hstored
  case modeBlock =>
    rintro s type octets mode qual s2 s3 s4 hlen hmirrors hrole htype hslot rfl rfl
    have hstored := (mirrorReceive_stored mode qual hmirrors hrole hslot).trans (if_pos htype)
    exact next_settle_of_eq (exec_mirrorReceive s type mode qual hlen) hstored
  case entry =>
    intro s k bytes hmirrors hrole hk
    exact next_settle_of_eq rfl (sessionMirror_entry bytes hmirrors hrole hk)
  case ack =>
    intro s hwait
    exact next_settle_of_eq rfl (mirrorAck_waiting hwait)

end State
end Sys2Proof.Machine
end

