-- ==== Sys2Proof/Proofs/SwialeCores.lean ====
section
/-! PROOF. The Swiale cores (chapter 14): which core Tocsin's NMI reaches, what an instruction of a core can change, what
taking an exception leaves, how far accesses, doorbells and window writes end, and the obligations that these complete. -/

namespace Sys2Proof.Machine

/-! ### Tocsin's NMI (R367) -/

namespace State

/-- Settles O52. That no NMI is pending on MC while MC is in one is R368. -/
theorem nmiReachesMcAlone : Obligations.NmiReachesMcAlone := by
  unfold Obligations.NmiReachesMcAlone
  refine ⟨fun s c hc => ?_, fun s => ?_⟩
  · rw [nmiPending, decide_eq_false hc, Bool.false_and, Bool.false_and]
  · rw [nmiPending, decide_eq_true rfl, Bool.true_and]

end State

/-! ### What an instruction of a core can change (R351, R355) -/

/-- Every row of the Swiale instruction set is the instruction step of its core, with its own selection of instructions. -/
theorem exec_of_swialeCore {i : Instr} {c : Nat} (h : swialeCore i = some c) :
    ∃ (is : SwOp → Bool) (ecc : Option (Nat × Bool)) (stall : Nat),
      ∀ s, exec i s = .next (s.coreStep c is ecc stall).settle := by
  cases i <;> cases h <;> exact ⟨_, _, _, fun _ => rfl⟩

namespace State

/-- A settled frame differs from the state before in the core, its page's records and what `settle` hands on. -/
theorem coreFrame_settle_shape {c : Nat} {s t : State} (h : CoreFrame c s t) :
    ∃ rf tp cs toc host, t.settle = { s with rf := rf, tocPend := tp, cores := cs, toc := toc, host := host } := by
  obtain ⟨rf, _, cs, ht⟩ := h.shape
  obtain ⟨tp, toc, host, hsettle⟩ := settle_shape t
  refine ⟨rf, tp, cs, toc, host, ?_⟩
  rw [hsettle, ht]

/-- Settles O53: every row is an instruction step, and the frame of the step outlives the end of the command. -/
theorem swialeInstructionsTouchTheirCoreAlone : Obligations.SwialeInstructionsTouchTheirCoreAlone := by
  unfold Obligations.SwialeInstructionsTouchTheirCoreAlone
  intro i s t c hi ht
  obtain ⟨is, ecc, stall, hexec⟩ := exec_of_swialeCore hi
  have hframe := coreStep_frame s c is ecc stall
  obtain rfl : (s.coreStep c is ecc stall).settle = t := Host.Outcome.next.inj ((hexec s).symm.trans ht)
  refine ⟨fun d hd => (settle_coreGet ..).trans (hframe.other d hd),
    fun a => (settle_sramByte ..).trans (coreFrame_sramByte hframe a),
    fun a hsticky hinfo hraw => (settle_reg ..).trans (hframe.regs a hsticky hinfo hraw), ?_⟩
  obtain ⟨rf, tp, cs, toc, host, hshape⟩ := coreFrame_settle_shape hframe
  simp only [hshape, and_self]

end State

/-! ### What an entry and an exception leave of a core (R368, R371) -/

namespace Core

theorem rpush_room {k : Core} (w : Word) (h : k.rstack.length < 16) :
    k.rpush w = .ok { k with rstack := w :: k.rstack } := if_pos h

/-- An entry with room on the return stack spills nothing. -/
theorem enter_room {k : Core} (ret vector : Nat) (h : k.rstack.length + 2 ≤ 16) :
    k.enter ret vector = .ok { k with
      rstack := k.status :: BitVec.ofNat 32 ret :: k.rstack, ie := false, pc := k.vbar + vector, cycle := k.cycle + 4,
      windowEnded := false } := by
  have hfirst := rpush_room (k := k) (BitVec.ofNat 32 ret) (by omega)
  have hsecond := rpush_room (k := { k with rstack := BitVec.ofNat 32 ret :: k.rstack }) k.status
    (by simp only [List.length_cons]; omega)
  simp only [enter, hfirst, hsecond, bind, Except.bind, pure, Except.pure]

/-- An exception outside a delay slot and a REP writes the three exception registers alone. -/
theorem noteExn_plain {k : Core} (e : Exn) (hslot : k.slot = none) (hrep : k.rep = none) :
    k.noteExn e = { k with ecause := e.code, eaddr := e.addr.getD k.eaddr, epc := k.pc } := by
  simp only [noteExn, undoTransfer, causeWord, hslot, hrep]

theorem undoTransfer_excAct (k : Core) : k.undoTransfer.excAct = k.excAct := by
  unfold undoTransfer
  split
  · rfl
  · next d _ => cases d.spilledY <;> rfl

theorem undoTransfer_nmiAct (k : Core) : k.undoTransfer.nmiAct = k.nmiAct := by
  unfold undoTransfer
  split
  · rfl
  · next d _ => cases d.spilledY <;> rfl

@[simp] theorem noteExn_excAct (k : Core) (e : Exn) : (k.noteExn e).excAct = k.excAct := undoTransfer_excAct k

@[simp] theorem noteExn_nmiAct (k : Core) (e : Exn) : (k.noteExn e).nmiAct = k.nmiAct := undoTransfer_nmiAct k

end Core

namespace State

@[simp] theorem irq_coreGet (s : State) (p b c : Nat) : (s.irq p b).coreGet c = s.coreGet c := rfl

@[simp] theorem sticky_coreGet (s : State) (p b d c : Nat) : (s.sticky p b d).coreGet c = s.coreGet c := by
  rw [coreGet, sticky_cores, coreGet]

/-- After its event a page interrupt bit is set. -/
theorem irq_flag (s : State) (p b : Nat) (h : b < 32) : (s.irq p b).flag ⟨R.IRQ_RAW p, b, 1⟩ = true := by
  unfold flag fld irq setRegBit
  rw [reg_setReg_same, getBits_putBits_same _ _ _ _ (by omega)]
  rfl

/-- A page interrupt leaves the page's ERR_STICKY. -/
theorem irq_flag_sticky (s : State) (p b i : Nat) :
    (s.irq p b).flag ⟨R.ERR_STICKY p, i, 1⟩ = s.flag ⟨R.ERR_STICKY p, i, 1⟩ := by
  have hne : R.ERR_STICKY p ≠ R.IRQ_RAW p := by unfold R.ERR_STICKY R.IRQ_RAW; omega
  unfold flag fld irq setRegBit
  rw [reg_setReg_other _ _ hne]

/-- A core record as `corePut` stores it: a corrected error and a kick have been acted on. -/
theorem coreGet_corePut_same (s : State) {c : Nat} (k : Core) (h : c < s.cores.length) : (s.corePut c k).coreGet c =
    { k with corrSeen := false, wdtKick := false, wdtAt := if k.wdtKick then s.aon.raw else k.wdtAt } := by
  unfold corePut
  cases k.corrSeen
  · exact coreGet_coreSet_same s _ h
  · exact (sticky_coreGet ..).trans (coreGet_coreSet_same s _ h)

/-- The page's record of exception `e` before the core acts on it: ECC sets its sticky bit (R375). -/
def exnRecorded (s : State) (c : Nat) (e : Exn) : State := if e.code = 12 then s.sticky (P.CORE c) 10 else s

@[simp] theorem exnRecorded_cores (s : State) (c : Nat) (e : Exn) : (s.exnRecorded c e).cores = s.cores := by
  unfold exnRecorded
  split
  · exact sticky_cores ..
  · rfl

/-- An exception while the core is in an exception or an NMI halts it. -/
theorem coreRaise_double {s : State} {c : Nat} (e : Exn) (h : ((s.coreGet c).excAct || (s.coreGet c).nmiAct) = true) :
    s.coreRaise c e = (((s.exnRecorded c e).corePut c { (s.coreGet c).noteExn e with run := .halted }).sticky
      (P.CORE c) 8).irq (P.CORE c) 0 := by
  unfold coreRaise
  simp only [Core.noteExn_excAct, Core.noteExn_nmiAct, h, if_true]
  rfl

/-- An exception of a core outside any is taken where its entry succeeds. -/
theorem coreRaise_taken {s : State} {c : Nat} {e : Exn} {k : Core} (hexc : (s.coreGet c).excAct = false)
    (hnmi : (s.coreGet c).nmiAct = false)
    (hk : ((s.coreGet c).noteExn e).enter ((s.coreGet c).noteExn e).pc 0x108 = .ok k) :
    s.coreRaise c e = ((s.exnRecorded c e).corePut c { k with excAct := true }).irq (P.CORE c) 2 := by
  unfold coreRaise
  simp only [Core.noteExn_excAct, Core.noteExn_nmiAct, hexc, hnmi, hk, Bool.or_self, Bool.false_eq_true, if_false]
  rfl

/-- The core after an exception that it took outside a delay slot and a REP, with room on its return stack. -/
theorem coreGet_coreRaise_taken {s : State} {c : Nat} (e : Exn) (hc : c < s.cores.length) (hslot : (s.coreGet c).slot = none)
    (hrep : (s.coreGet c).rep = none) (hexc : (s.coreGet c).excAct = false) (hnmi : (s.coreGet c).nmiAct = false)
    (hroom : (s.coreGet c).rstack.length + 2 ≤ 16) : (s.coreRaise c e).coreGet c = { s.coreGet c with
      ecause := e.code, eaddr := e.addr.getD (s.coreGet c).eaddr, epc := (s.coreGet c).pc, excAct := true, ie := false
      rstack := (s.coreGet c).status :: BitVec.ofNat 32 (s.coreGet c).pc :: (s.coreGet c).rstack
      pc := (s.coreGet c).vbar + 0x108, cycle := (s.coreGet c).cycle + 4, windowEnded := false, corrSeen := false
      wdtKick := false, wdtAt := if (s.coreGet c).wdtKick then (s.exnRecorded c e).aon.raw else (s.coreGet c).wdtAt } := by
  have hnote := Core.noteExn_plain e hslot hrep
  have henter := Core.enter_room (k := (s.coreGet c).noteExn e) ((s.coreGet c).noteExn e).pc 0x108
    (by rw [hnote]; exact hroom)
  rw [coreRaise_taken hexc hnmi henter, irq_coreGet, coreGet_corePut_same _ _ (by rwa [exnRecorded_cores]), hnote]
  rfl

/-- Settles O56. That EADDR keeps its value where the exception states no address, that the return address is EPC, and how a
double exception halts are the model's readings (log entries 30, 38 and 39). -/
theorem exceptionEntrySavesTheInstruction : Obligations.ExceptionEntrySavesTheInstruction := by
  unfold Obligations.ExceptionEntrySavesTheInstruction
  refine ⟨?taken, ?double⟩
  case taken =>
    intro s c e hc hslot hrep hexc hnmi hroom
    have hcore := coreGet_coreRaise_taken e hc hslot hrep hexc hnmi hroom
    simp only [hcore, and_self]
  case double =>
    intro s c e hc hactive
    rw [coreRaise_double e hactive]
    refine ⟨?_, ?_, irq_flag _ _ 0 (by decide)⟩
    · rw [irq_coreGet, sticky_coreGet, coreGet_corePut_same _ _ (by rwa [exnRecorded_cores])]
    · rw [irq_flag_sticky]
      exact stickyAt_flag _ _ 8 _ _ _ _ (by decide)

/-! ### How far accesses end (R355, R356, R371, R523) -/

/-- The value that a served far load pushes: sign-extended where its request says so. -/
def loadedWord (r : LoadReq) (v : Nat) : Word :=
  if r.signExt then BitVec.ofInt 32 (signed (8 * r.size) v) else BitVec.ofNat 32 v

/-- A served load that its bank does not hold completes the waiting instruction with its value. -/
theorem loadResponse_served {s t : State} {c v len : Nat} {r : LoadReq} {o : SwOp} {k2 k3 k4 : Core} {x : Word} (n : Nat)
    (hc : c < 12) (hload : (s.coreGet c).load = some r) (hfree : s.farWaits (c + 1) r.addr r.size false = false)
    (hread : s.farRead (c + 1) r.addr r.size = (t, .served, v))
    (hfetch : ({ t.coreGet c with load := none } : Core).fetch (t.coreGet c).pc = .ok (o, len, k2))
    (hpop : k2.pop = .ok (x, k3)) (hpush : k3.push (loadedWord r v) = .ok k4) :
    s.loadResponse c n =
      t.corePut c { Core.complete k2 k4 o len .next with cycle := (Core.complete k2 k4 o len .next).cycle + n } := by
  have hpushed : (k2.pop >>= fun y => y.2.push (loadedWord r v)) = .ok k4 := by rw [hpop]; exact hpush
  unfold loadedWord at hpushed
  simp only [loadResponse, hload, hfree, hread, hfetch, wOf, hpushed, Nat.not_le.2 hc, Bool.false_eq_true, or_self, ne_eq,
    not_true_eq_false, if_false]

/-- The reply of a load from before the core was last held is discarded and counted. -/
theorem loadResponse_lost {s : State} {c : Nat} {r : LoadReq} {rs : List LoadReq} (n : Nat) (hc : c < 12)
    (hload : (s.coreGet c).load = none) (hlost : (s.coreGet c).lost = r :: rs)
    (hfree : s.farWaits (c + 1) r.addr r.size false = false) {t : State} (ht : t = (s.farRead (c + 1) r.addr r.size).1) :
    s.loadResponse c n = ({ t.coreSet c { t.coreGet c with lost := (t.coreGet c).lost.drop 1 } with
      resp := s.resp, rdata := s.rdata } : State).nocDiscard := by
  subst ht
  simp only [loadResponse, hload, lostResponse, hlost, hfree, Nat.not_le.2 hc, Bool.false_eq_true, or_self, if_false]

/-- A served store leaves what the core performed, and the handovers that waited for it may begin. -/
theorem storeComplete_served {s t : State} {c : Nat} {r : StoreReq} {rs : List StoreReq} (hc : c < 12)
    (hold : (s.coreGet c).old = []) (hflight : (s.coreGet c).flight = r :: rs)
    (hfree : s.farWaits (c + 1) r.addr r.size true = false) (hperform : s.corePerform c r = (t, .served)) :
    s.storeComplete c = t.handStart := by
  simp only [storeComplete, hold, hflight, hfree, hperform, Nat.not_le.2 hc, Bool.false_eq_true, or_self, if_false, true_or,
    if_true]

/-- The reply of a store from before the core was last held, of no handover, is discarded and counted. -/
theorem storeComplete_old {s t : State} {c : Nat} {r : StoreReq} {rs : List StoreReq} {resp : Resp} (hc : c < 12)
    (hold : (s.coreGet c).old = r :: rs) (hfree : s.farWaits (c + 1) r.addr r.size true = false)
    (hsend : s.coreSend c r = (t, resp, false)) :
    s.storeComplete c = (t.coreSet c { t.coreGet c with old := (t.coreGet c).old.drop 1 }).nocDiscard.handStart := by
  simp only [storeComplete, oldPerform, hold, hfree, hsend, Nat.not_le.2 hc, Bool.false_eq_true, or_self, if_false]
  rfl

/-- An error response that has arrived raises ST_ERR at the boundary. -/
theorem storeError_arrived {s : State} {c a : Nat} {r : List Nat} (herr : (s.coreGet c).stErr = a :: r)
    (hboundary : s.atBoundary c = true) (hnmi : s.nmiPending c = false) :
    s.storeError c = (s.coreSet c { s.coreGet c with stErr := r }).coreRaise c ⟨11, some a⟩ := by
  simp only [storeError, coreStErr, herr, hboundary, hnmi, Bool.not_false, Bool.and_self, if_true]

/-! ### Hold, release, doorbells and window writes (R373, R374) -/

theorem corePage_aligned (c : Nat) : P.CORE c % 4096 = 0 := by
  unfold P.CORE
  omega

/-- A doorbell whose writer has no store under way is a write of its register. -/
theorem doorbell_drained {s : State} {init : Nat} (c : Nat) (h : s.storesOpen init = false) :
    s.doorbell init c = s.via init (R.CORE_DOORBELL c) fun t => t.coreLine c 5 := by
  rw [doorbell, h, if_neg Bool.false_ne_true]

/-- A store into a memory of core `c`; one of MC's into I memory unmakes the core's measurement (R438). -/
def windowStored (s : State) (init c : Nat) (m : LocalMem) (off size v : Nat) : State :=
  if init = Init.MC ∧ m = .i then (s.coreSet c ((s.coreGet c).putLocal m off size v)).unmeasure c
  else s.coreSet c ((s.coreGet c).putLocal m off size v)

theorem windowWrite_held {s : State} {c off size : Nat} (init : Nat) (m : LocalMem) (v : Nat)
    (hpage : s.held (P.CORE c) = false) (hrun : (s.coreGet c).run = .held) (halign : off % size = 0) :
    s.windowWrite init c m off size v = (s.windowStored init c m off size v, .served) := by
  simp only [windowWrite, windowStored, hpage, hrun, halign, Bool.false_eq_true, ne_eq, not_true_eq_false, if_false]

/-- An aligned window write of 1, 2 or 4 bytes into a held core is served. -/
theorem windowCommand_held {s : State} {init addr size c off : Nat} {m : LocalMem} (v : Nat)
    (hwindow : s.windowOf init addr = some (c, m, off)) (hsize : size = 1 ∨ size = 2 ∨ size = 4)
    (hpage : s.held (P.CORE c) = false) (hrun : (s.coreGet c).run = .held) (halign : off % size = 0) :
    s.windowCommand init addr size v = (s.windowStored init c m off size (v % 2 ^ (8 * size))).respond .served := by
  have hwide : ¬ (size ≠ 1 ∧ size ≠ 2 ∧ size ≠ 4) := by omega
  simp only [windowCommand, hwindow, if_neg hwide, windowWrite_held init m _ hpage hrun halign, ne_eq, not_true_eq_false,
    and_false, if_false]

/-- Settles O26. That a far access takes effect at its response row, that a reply from before a hold is discarded after the
release too, and that a doorbell waits for the writer's stores are the model's readings (log entry 50). -/
theorem farAccessAndCoreCommandsComplete : Obligations.FarAccessAndCoreCommandsComplete := by
  unfold Obligations.FarAccessAndCoreCommandsComplete
  refine ⟨?load, ?lost, ?store, ?oldStore, ?storeError, ?hold, ?release, ?doorbell, ?window⟩
  case load =>
    rintro s c n r t v len o k2 k3 k4 w x hc hload hfree hread hfetch rfl hpop hpush
    exact next_settle_of_eq rfl (loadResponse_served n hc hload hfree hread (gives_iff.1 hfetch) (gives_iff.1 hpop)
      (gives_iff.1 hpush))
  case lost =>
    intro s c n r rs t hc hload hlost hfree ht
    exact next_settle_of_eq rfl (loadResponse_lost n hc hload hlost hfree ht)
  case store =>
    intro s c r rs t hc hold hflight hfree hperform
    exact next_settle_of_eq rfl (storeComplete_served hc hold hflight hfree hperform)
  case oldStore =>
    intro s c r rs t hc hold hfree hsend
    exact next_settle_of_eq rfl (storeComplete_old hc hold hfree hsend)
  case storeError =>
    intro s c a r hc herr hboundary hnmi
    exact next_settle_of_eq (next_settle_if_pos hc ..) (storeError_arrived herr hboundary hnmi)
  case hold =>
    intro s init c hc hadmits _
    exact next_settle_of_eq (next_settle_if_pos hc ..) (busWrite_ctrl (corePage_aligned c) hadmits _)
  case release =>
    intro s init c hc hadmits _
    exact next_settle_of_eq (next_settle_if_pos hc ..) (busWrite_ctrl (corePage_aligned c) hadmits _)
  case doorbell =>
    intro s init c hc hdrained hadmits
    exact next_settle_of_eq (next_settle_if_pos hc ..) ((doorbell_drained c hdrained).trans (via_admits hadmits _))
  case window =>
    intro s init addr size v c off m hwindow hsize hpage hrun halign
    exact next_settle_of_eq rfl (windowCommand_held v hwindow hsize hpage hrun halign)

end State
end Sys2Proof.Machine
end

