-- ==== Sys2Proof/Proofs/EveryStep.lean ====
section
/-! PROOF. What every step keeps: a step takes the front command, a command leaves the fault records with Tocsin and every
MSI-X vector in line with its source (R497, R513), and the state after reset meets the invariants. -/

namespace Sys2Proof.Machine

/-- Settles O41. That an empty queue idles is the model's choice (log entry 1). -/
theorem stepTakesTheFrontCommand : Obligations.StepTakesTheFrontCommand := by
  unfold Obligations.StepTakesTheFrontCommand
  refine ⟨fun s c rest h => ?_, fun s h => ?_⟩
  · rw [step, h]
  · rw [step, h]

namespace State

/-! ### One vector follows its source (R497) -/

/-- Vector `v` of the MSI-X record `h` stands as R497 leaves it, by the sources and masks of `s`. -/
def vectorFollows (s : State) (h : HostIf) (v : Nat) : Bool :=
  (!(bit h.pba v) || s.vecMasked v || !s.msixOpen) &&
    (s.vectorSource v || bit h.pba v || !(bit h.vecWait v)) &&
    (!(s.vectorSource v && s.msixOpen && !(s.vecMasked v)) || bit h.vecWait v)

theorem vectorsFollow_eq (s : State) :
    s.vectorsFollow = (!s.host.msixEn || (List.range 32).all (s.vectorFollows s.host)) := rfl

/-- A pending vector waits while it cannot send; then it sends, or its pending bit falls with its source. -/
theorem vecStep_pending {s : State} {h : HostIf} {v : Nat} (hp : bit h.pba v = true) : s.vecStep h v =
    if s.vecMasked v || !s.msixOpen then h
    else if s.vectorSource v then
      { h with vecSent := h.vecSent.set v ((h.vecSent.getD v 0 + 1) % 2 ^ 32), vecWait := setBit h.vecWait v true
               pba := setBit h.pba v false }
    else { h with pba := setBit h.pba v false, vecWait := setBit h.vecWait v false } := if_pos hp

/-- A vector that is not pending acts on a rise of its source: where masked it becomes pending, else it sends if it can. -/
theorem vecStep_idle {s : State} {h : HostIf} {v : Nat} (hp : bit h.pba v = false) : s.vecStep h v =
    if !s.vectorSource v then { h with vecWait := setBit h.vecWait v false }
    else if bit h.vecWait v then h
    else if s.vecMasked v then { h with pba := setBit h.pba v true, vecWait := setBit h.vecWait v true }
    else if s.msixOpen then
      { h with vecSent := h.vecSent.set v ((h.vecSent.getD v 0 + 1) % 2 ^ 32), vecWait := setBit h.vecWait v true
               pba := setBit h.pba v false }
    else h := if_neg (by simp [hp])

theorem vecStep_follows (s : State) (h : HostIf) (v : Nat) : s.vectorFollows (s.vecStep h v) v = true := by
  cases hp : bit h.pba v with
  | true =>
    rw [vecStep_pending hp]
    split
    · next hblocked =>
      rw [Bool.or_eq_true, Bool.not_eq_true'] at hblocked
      rcases hblocked with hm | ho
      · simp [vectorFollows, hp, hm]
      · simp [vectorFollows, hp, ho]
    · cases hs : s.vectorSource v <;> simp [vectorFollows, hs]
  | false =>
    rw [vecStep_idle hp]
    cases hs : s.vectorSource v with
    | false => simp [vectorFollows, hp, hs]
    | true =>
      cases hw : bit h.vecWait v with
      | true => simp [vectorFollows, hp, hs, hw]
      | false => cases hm : s.vecMasked v <;> cases ho : s.msixOpen <;> simp [vectorFollows, hp, hs, hm, ho]

/-- A vector's turn leaves the pending bits and the remembered edges of the others. -/
theorem vecStep_other (s : State) (h : HostIf) {v w : Nat} (hne : w ≠ v) :
    bit (s.vecStep h v).pba w = bit h.pba w ∧ bit (s.vecStep h v).vecWait w = bit h.vecWait w := by
  have hpba := fun b => bit_setBit_other h.pba v w b hne
  have hwait := fun b => bit_setBit_other h.vecWait v w b hne
  unfold vecStep
  dsimp only
  split_ifs <;> simp only [hpba, hwait, and_self]

/-- The turn of any vector keeps a vector that follows. -/
theorem vecStep_keeps_follows {s : State} {h : HostIf} {w : Nat} (v : Nat) (hw : s.vectorFollows h w = true) :
    s.vectorFollows (s.vecStep h v) w = true := by
  by_cases hne : w = v
  · subst hne
    exact vecStep_follows s h w
  · obtain ⟨hpba, hwait⟩ := vecStep_other s h hne
    rwa [vectorFollows, hpba, hwait]

theorem vecFold_keeps_follows {s : State} {w : Nat} (vs : List Nat) {h : HostIf} (hw : s.vectorFollows h w = true) :
    s.vectorFollows (vs.foldl s.vecStep h) w = true :=
  List.foldlRecOn (motive := fun h : HostIf => s.vectorFollows h w = true) vs s.vecStep hw
    fun _ ht v _ => vecStep_keeps_follows v ht

/-- After the turns of some vectors each of them follows. -/
theorem vecFold_follows (s : State) (vs : List Nat) (h : HostIf) :
    ∀ w ∈ vs, s.vectorFollows (vs.foldl s.vecStep h) w = true := by
  induction vs generalizing h with
  | nil => exact fun _ hw => absurd hw List.not_mem_nil
  | cons v vs ih =>
    intro w hw
    rcases List.mem_cons.1 hw with rfl | hw
    · exact vecFold_keeps_follows vs (vecStep_follows s h w)
    · exact ih (s.vecStep h v) w hw

/-! ### The end of a command leaves a settled state (R513) -/

/-- A turn changes no part of the host interface but the vectors' own records. -/
theorem vecFold_masks (s : State) (vs : List Nat) (h : HostIf) :
    (vs.foldl s.vecStep h).msixEn = h.msixEn ∧ (vs.foldl s.vecStep h).msixMask = h.msixMask := by
  refine List.foldlRecOn (motive := fun k : HostIf => k.msixEn = h.msixEn ∧ k.msixMask = h.msixMask) vs s.vecStep ⟨rfl, rfl⟩
    fun k hk v _ => ?_
  unfold vecStep
  dsimp only
  split_ifs <;> exact hk

/-- What a vector follows does not depend on the vectors' own records. -/
theorem vectorFollows_congr_host {s : State} {k : HostIf} (hmask : k.msixMask = s.host.msixMask) (h : HostIf) (v : Nat) :
    ({ s with host := k } : State).vectorFollows h v = s.vectorFollows h v := by
  have hvec : ({ s with host := k } : State).vecMasked v = s.vecMasked v := congrArg (· || _) hmask
  rw [vectorFollows, hvec]
  rfl

theorem msixStep_vectorsFollow (s : State) : s.msixStep.vectorsFollow = true := by
  unfold msixStep
  by_cases hen : s.host.msixEn = true
  · obtain ⟨-, hmask⟩ := vecFold_masks s (List.range 32) s.host
    rw [if_pos hen, vectorsFollow_eq, Bool.or_eq_true, List.all_eq_true]
    exact .inr fun v hv => (vectorFollows_congr_host hmask _ v).trans (vecFold_follows s _ _ v hv)
  · rw [if_neg hen, vectorsFollow_eq, Bool.eq_false_iff.2 hen]
    rfl

theorem msixStep_tocPend (s : State) : s.msixStep.tocPend = s.tocPend := by
  unfold msixStep
  split <;> rfl

theorem toTocsin_tocPend (s : State) : s.toTocsin.tocPend = [] := by
  unfold toTocsin
  split
  · assumption
  · rfl

theorem settle_settled (s : State) : s.settle.settled = true := by
  rw [settled, settle, msixStep_tocPend, toTocsin_tocPend, msixStep_vectorsFollow]
  rfl

theorem exec_settled {c : Instr} {s t : State} (h : exec c s = .next t) : t.settled = true := by
  obtain ⟨u, hu⟩ := exec_next_settle c s
  obtain rfl := Host.Outcome.next.inj (hu.symm.trans h)
  exact settle_settled u

/-- Settles O43: every command ends in `settle`, and the idle step changes nothing. -/
theorem everyStepSettles : Obligations.EveryStepSettles := by
  unfold Obligations.EveryStepSettles
  refine ⟨fun c s t => exec_settled, fun s t hs ht => ?_⟩
  unfold step at ht
  split at ht
  · obtain rfl := Host.Outcome.next.inj ht
    exact hs
  · exact exec_settled ht

/-! ### The state after reset -/

/-- Settles O44. -/
theorem resetMeetsTheInvariants : Obligations.ResetMeetsTheInvariants := by
  unfold Obligations.ResetMeetsTheInvariants
  refine ⟨?_, reset_wf, ?_, ?_⟩
  · decide
  · rfl
  · intro d
    have hcore : State.reset.coreGet d = Core.reset := by
      rw [coreGet, List.getD_eq_getElem?_getD]
      cases h : State.reset.cores[d]? with
      | none => rfl
      | some k => exact List.eq_of_mem_replicate (List.mem_of_getElem? h)
    rw [hcore]
    rfl

end State
end Sys2Proof.Machine
end

