-- ==== Sys2Proof/Proofs/SwialeInstructions.lean ====
section
/-! PROOF. The instructions of the Swiale cores (chapter 15): what each shape of instruction leaves of its core once its
operands are there, how an instruction about to execute completes, and the obligations that these complete. -/

namespace Sys2Proof.Machine

/-! ### Words -/

theorem wInt_eq_toInt (w : Word) : wInt w = w.toInt := (BitVec.toInt_eq_toNat_cond w).symm

/-- Beyond its width a word shifted to the right keeps its sign alone. -/
theorem sshiftRight_beyond (w : Word) {n : Nat} (h : 32 ≤ n) :
    w.sshiftRight n = if w.toInt < 0 then BitVec.allOnes 32 else 0 := by
  by_cases hneg : w.toInt < 0
  · rw [if_pos hneg, BitVec.sshiftRight_eq_of_msb_true (by rw [BitVec.msb_eq_toInt, decide_eq_true hneg]),
      BitVec.ushiftRight_eq_zero h]
    rfl
  · rw [if_neg hneg, BitVec.sshiftRight_eq_of_msb_false (by rw [BitVec.msb_eq_toInt, decide_eq_false hneg]),
      BitVec.ushiftRight_eq_zero h]
    rfl

namespace Core

/-! ### The shapes of instructions, once their operands are there -/

/-- Filling up to 8 operands leaves a core that held its depth within it. -/
theorem depth_of_need {k k1 : Core} {n : Nat} {l r : List Word} (h : k.need n = .ok k1) (hs : k1.stack = l ++ r)
    (hn : n ≤ 8) (hd : k.stack.length ≤ 8) : l.length + r.length ≤ 8 := by
  have hlen := need_length n k k1 h
  rw [hs, List.length_append] at hlen
  omega

theorem bin_of_need {k k1 : Core} {a b : Word} {r : List Word} (f : Word → Word → Word) (hd : k.stack.length ≤ 8)
    (hn : k.need 2 = .ok k1) (hs : k1.stack = b :: a :: r) :
    k.bin f = .ok ({ k1 with stack := f a b :: r }, .next) := by
  have hdepth : 2 + r.length ≤ 8 := depth_of_need (l := [b, a]) hn hs (by decide) hd
  have hroom : r.length < 8 := by omega
  simp [bin, pops_need hn, hs, bind, Except.bind, pure, Except.pure, push_room (k := { k1 with stack := r }) _ hroom]

theorem binSat_of_need {k k1 : Core} {a b : Word} {r : List Word} (f : Int → Int → Int) (hd : k.stack.length ≤ 8)
    (hn : k.need 2 = .ok k1) (hs : k1.stack = b :: a :: r) : k.binSat f = .ok ({ k1 with
      stack := BitVec.ofInt 32 (clampInt (-(2 ^ 31)) (2 ^ 31 - 1) (f a.toInt b.toInt)) :: r
      sat := k1.sat || decide (clampInt (-(2 ^ 31)) (2 ^ 31 - 1) (f a.toInt b.toInt) ≠ f a.toInt b.toInt) }, .next) := by
  have hdepth : 2 + r.length ≤ 8 := depth_of_need (l := [b, a]) hn hs (by decide) hd
  have hroom : r.length < 8 := by omega
  simp [binSat, pops_need hn, hs, bind, Except.bind, pure, Except.pure, sat32, wInt_eq_toInt, push, hroom, wOf]

theorem un_of_need {k k1 : Core} {a : Word} {r : List Word} (f : Word → Word) (hd : k.stack.length ≤ 8)
    (hn : k.need 1 = .ok k1) (hs : k1.stack = a :: r) : k.un f = .ok ({ k1 with stack := f a :: r }, .next) := by
  have hdepth : 1 + r.length ≤ 8 := depth_of_need (l := [a]) hn hs (by decide) hd
  have hroom : r.length < 8 := by omega
  simp [un, pop_need hn hs, bind, Except.bind, pure, Except.pure, push_room (k := { k1 with stack := r }) _ hroom]

theorem take_of_need {k k1 : Core} {a : Word} {r : List Word} (f : Word → Core → Core) (hn : k.need 1 = .ok k1)
    (hs : k1.stack = a :: r) : k.take f = .ok (f a { k1 with stack := r }, .next) := by
  simp [Core.take, pop_need hn hs, bind, Except.bind, pure, Except.pure]

theorem give_of_push {k k2 : Core} {w : Word} (h : k.push w = .ok k2) : k.give w = .ok (k2, .next) := by
  simp [give, h, bind, Except.bind, pure, Except.pure]

/-- A rearrangement takes its `n` operands off the stack and pushes others. -/
theorem shuffle_of_need {k k1 k2 : Core} {n : Nat} {l r : List Word} (f : List Word → List Word) (hn : k.need n = .ok k1)
    (hs : k1.stack = l ++ r) (hl : l.length = n) (hp : ({ k1 with stack := r } : Core).pushes (f l) = .ok k2) :
    k.shuffle n f = .ok (k2, .next) := by
  simp [shuffle, pops_need hn, hs, List.take_left' hl, List.drop_left' hl, hp, bind, Except.bind, pure, Except.pure]

/-- Values pushed on a stack with room for all of them spill nothing. -/
theorem pushes_room {k : Core} (ws : List Word) (h : k.stack.length + ws.length ≤ 8) :
    k.pushes ws = .ok { k with stack := ws.reverse ++ k.stack } := by
  induction ws generalizing k with
  | nil => rfl
  | cons w ws ih =>
    rw [List.length_cons] at h
    rw [pushes, push_room w (by omega)]
    exact (ih (by simp only [List.length_cons]; omega)).trans (by simp)

/-- A push follows pushes for which there is room. -/
theorem pushes_last {k k2 : Core} (ws : List Word) (w : Word) (h : k.stack.length + ws.length ≤ 8)
    (hp : ({ k with stack := ws.reverse ++ k.stack } : Core).push w = .ok k2) : k.pushes (ws ++ [w]) = .ok k2 := by
  induction ws generalizing k with
  | nil =>
    have hpush : k.push w = .ok k2 := hp
    simp [pushes, hpush, bind, Except.bind]
  | cons v ws ih =>
    rw [List.length_cons] at h
    rw [List.cons_append, pushes, push_room v (by omega)]
    refine ih (by simp only [List.length_cons]; omega) ?_
    simpa using hp

end Core

namespace Core

theorem stack_eta {k : Core} {l : List Word} (h : k.stack = l) : { k with stack := l } = k := by
  subst h
  rfl

/-! ### What a fill and a local access leave of a core -/

/-- A local read can do no more to the core than see a corrected error. -/
theorem readLocal_shape {k k1 : Core} {m : LocalMem} {off size v : Nat} (h : k.readLocal m off size = .ok (v, k1)) :
    ∃ seen, k1 = { k with corrSeen := seen } := by
  unfold readLocal at h
  dsimp only at h
  split at h
  · exact absurd h nofun
  · split at h
    · exact absurd h nofun
    · obtain ⟨-, rfl⟩ := Prod.mk.inj (Except.ok.inj h)
      split
      · exact ⟨true, rfl⟩
      · exact ⟨k.corrSeen, rfl⟩

theorem fill_shape {k k1 : Core} (h : k.fill = .ok k1) :
    ∃ st sp cy seen, k1 = { k with stack := st, sp := sp, cycle := cy, corrSeen := seen } := by
  unfold fill at h
  split at h
  · exact absurd h nofun
  · cases hread : k.readLocal .x (k.sp % 65536) 4 with
    | error e => simp [hread, bind, Except.bind] at h
    | ok x =>
      obtain ⟨v, k2⟩ := x
      obtain ⟨seen, rfl⟩ := readLocal_shape hread
      simp only [hread, bind, Except.bind, pure, Except.pure, Except.ok.injEq] at h
      exact ⟨_, _, _, _, h.symm⟩

/-- Filling the operand stack changes the stack, its pointer and the cycle count, and may see a corrected error. -/
theorem need_shape {k k1 : Core} {n : Nat} (h : k.need n = .ok k1) :
    ∃ st sp cy seen, k1 = { k with stack := st, sp := sp, cycle := cy, corrSeen := seen } := by
  induction n generalizing k1 with
  | zero => exact ⟨k.stack, k.sp, k.cycle, k.corrSeen, (Except.ok.inj h).symm⟩
  | succ n ih =>
    rw [need] at h
    cases hk : k.need n with
    | error e => simp [hk, bind, Except.bind] at h
    | ok k2 =>
      obtain ⟨st, sp, cy, seen, rfl⟩ := ih hk
      simp only [hk, bind, Except.bind] at h
      split at h
      · obtain ⟨st2, sp2, cy2, seen2, rfl⟩ := fill_shape h
        exact ⟨st2, sp2, cy2, seen2, rfl⟩
      · exact ⟨st, sp, cy, seen, (Except.ok.inj h).symm⟩

theorem writeLocal_aligned {k : Core} {m : LocalMem} {off size : Nat} (v : Nat) (hm : m ≠ .i) (h : off % size = 0) :
    k.writeLocal m off size v = .ok (k.putLocal m off size v) := by
  simp [writeLocal, hm, h]

theorem writeLocal_shape {k k1 : Core} {m : LocalMem} {off size v : Nat} (h : k.writeLocal m off size v = .ok k1) :
    k1 = k.putLocal m off size v := by
  unfold writeLocal at h
  dsimp only at h
  split at h
  · exact absurd h nofun
  · split at h
    · exact absurd h nofun
    · exact (Except.ok.inj h).symm

theorem aMem_ne_i (a : Nat) : aMem a ≠ .i := by
  unfold aMem
  split <;> nofun

/-- A local store changes a memory and its errors alone, so no pointer register. -/
theorem putLocal_pointers (k : Core) (m : LocalMem) (off size v : Nat) :
    (k.putLocal m off size v).a = k.a ∧ (k.putLocal m off size v).l = k.l ∧ (k.putLocal m off size v).m = k.m := by
  unfold putLocal setWord setMem
  dsimp only
  split <;> cases m <;> exact ⟨rfl, rfl, rfl⟩

theorem pick_of_need {k k1 k2 : Core} {f ipend id len : Nat} {wake : Bool} (hn : k.need (f + 1) = .ok k1)
    (hp : k1.push (k1.stack.getD f 0) = .ok k2) : k.operate ipend id wake (.pick f) len = .ok (k2, .next) := by
  simp only [operate, hn, bind, Except.bind]
  exact give_of_push hp

theorem norm_of_push {k k1 k2 : Core} {a : Word} {r : List Word} {ipend id len : Nat} {wake : Bool}
    (hd : k.stack.length ≤ 8) (hn : k.need 1 = .ok k1) (hs : k1.stack = a :: r)
    (hp : ({ k1 with stack := (a <<< redundant 32 a.toInt) :: r } : Core).push (BitVec.ofNat 32 (redundant 32 a.toInt)) =
      .ok k2) : k.operate ipend id wake .norm len = .ok (k2, .next) := by
  have hdepth : 1 + r.length ≤ 8 := depth_of_need (l := [a]) hn hs (by decide) hd
  rw [← wInt_eq_toInt] at hp
  exact shuffle_of_need (l := [a])
    (fun l => [l.getD 0 0 <<< redundant 32 (wInt (l.getD 0 0)), BitVec.ofNat 32 (redundant 32 (wInt (l.getD 0 0)))])
    hn hs rfl (pushes_last [a <<< redundant 32 (wInt a)] (BitVec.ofNat 32 (redundant 32 (wInt a)))
      (by simpa [Nat.add_comm] using hdepth) hp)

/-! ### Far accesses -/

theorem unblocked_of_ne {k k1 : Core} {f : Flow} (h : f ≠ .blocked) : k.unblocked (k1, f) = (k1, f) := if_neg h

/-- The address of a far form: T0 plus its displacement, modulo 2^32 (R383). -/
def farAddr (w : Word) (disp : Int) : Nat := ((w.toNat + disp) % 4294967296).toNat

theorem farLoad_remote {k k1 : Core} {w : Word} {r : List Word} {sz : Nat} {disp : Int} (hn : k.need 1 = .ok k1)
    (hs : k1.stack = w :: r) (hremote : localOf (farAddr w disp) = none)
    (hfree : ({ k1 with stack := r } : Core).loadWaits (farAddr w disp) = false) :
    k.farLoad sz disp = .ok (k, .far ⟨farAddr w disp, swSize sz, swSigned sz⟩) := by
  obtain ⟨st, sp, cy, seen, rfl⟩ := need_shape hn
  have hwaits : k.loadWaits (farAddr w disp) = false := hfree
  unfold farAddr at *
  simp [farLoad, pop_need hn hs, bind, Except.bind, pure, Except.pure, hremote, hwaits]

theorem farLoad_local {k k1 k2 : Core} {w : Word} {r : List Word} {sz off : Nat} {disp : Int} {m : LocalMem}
    (hn : k.need 1 = .ok k1) (hs : k1.stack = w :: r) (hlocal : localOf (farAddr w disp) = some (m, off))
    (hload : ({ k1 with stack := r } : Core).loadAt m off sz = .ok k2) :
    k.farLoad sz disp = .ok ({ k2 with cycle := k2.cycle + 1 }, .next) := by
  unfold farAddr at *
  simp [farLoad, pop_need hn hs, bind, Except.bind, pure, Except.pure, hlocal, hload]

theorem farStore_remote {k : Core} {a size : Nat} (v : Nat) (hremote : localOf a = none) (hroom : k.wbuf.length < 4) :
    k.farStore a size v = .ok ({ k with wbuf := k.wbuf ++ [⟨a, size, v % 2 ^ (8 * size)⟩] }, .next) := by
  simp [farStore, hremote, hroom]

theorem farStore_local {k : Core} {a size off : Nat} {m : LocalMem} (v : Nat) (hlocal : localOf a = some (m, off))
    (hm : m ≠ .i) (halign : off % size = 0) : k.farStore a size v =
      .ok ({ k.putLocal m off size v with cycle := (k.putLocal m off size v).cycle + 1 }, .next) := by
  simp [farStore, hlocal, writeLocal_aligned v hm halign, bind, Except.bind, pure, Except.pure]

/-! ### Accumulators -/

theorem macForm_of_reads {k kx k2 : Core} {acc ax ay mx my xv yv : Nat} (f : Int → Int → Int)
    (hx : k.readLocal .x (k.a.getD ax 0) 4 = .ok (xv, kx)) (hy : kx.readLocal .y (k.a.getD ay 0) 4 = .ok (yv, k2)) :
    k.macForm acc ax ay mx my f = .ok
      (((k2.setAcc acc (f (k.accOf acc) (signed 32 xv * signed 32 yv))).modA ax (k.mOf mx)).modA ay (k.mOf my), .next) := by
  simp only [macForm, hx, hy, bind, Except.bind, pure, Except.pure]

theorem accMul_of_need {k k1 : Core} {acc : Nat} {a b : Word} {r : List Word} (f : Int → Int → Int)
    (hn : k.need 2 = .ok k1) (hs : k1.stack = b :: a :: r) : k.accMul acc f =
      .ok (({ k1 with stack := r } : Core).setAcc acc (f (k.accOf acc) (a.toInt * b.toInt)), .next) := by
  simp [accMul, pops_need hn, hs, bind, Except.bind, pure, Except.pure, wInt_eq_toInt]

theorem accShift_of_need {k k1 : Core} {acc sh : Nat} {a : Word} {r : List Word} (f : Int → Int → Int)
    (hn : k.need 1 = .ok k1) (hs : k1.stack = a :: r) : k.accShift acc sh f =
      .ok (({ k1 with stack := r } : Core).setAcc acc (f (k.accOf acc) (a.toInt * 2 ^ sh)), .next) := by
  simp [accShift, pop_need hn hs, bind, Except.bind, pure, Except.pure, wInt_eq_toInt]

/-! ### Control registers (R393) -/

/-- The core once `w` is written to control register `n`. -/
def crPut (k : Core) (n : Nat) (w : Word) : Core :=
  match n with
  | 0 => k.setStatus w
  | 1 => { k with sp := w.toNat % 65536 }
  | 2 => { k with spLo := w.toNat % 65536, spHi := w.toNat / 65536 }
  | 3 => { k with rsp := w.toNat % 65536 }
  | 4 => { k with rspLo := w.toNat % 65536, rspHi := w.toNat / 65536 }
  | 5 => { k with vbar := w.toNat / 512 * 512 }
  | 6 => { k with epc := w.toNat }
  | 9 => { k with imask := w.toNat }
  | 11 => { k with replim := clampNat 1 4096 w.toNat }
  | 12 => k.setTop fun e => { e with ls := w.toNat }
  | 13 => k.setTop fun e => { e with le := w.toNat }
  | 14 => k.setTop fun e => { e with lc := w.toNat }
  | 17 => if w.toNat = 0x4B1C then { k with wdtWarned := false, wdtKick := true } else k
  | _ => k

/-- MTCR may write control register `n`: it is writable, and a loop register needs a loop. -/
def crWritable (k : Core) (n : Nat) : Prop :=
  ¬ (n = 7 ∨ n = 8 ∨ n = 10 ∨ n = 15 ∨ n = 16 ∨ ((n = 12 ∨ n = 13 ∨ n = 14) ∧ k.loops = []))

/-- MTCR of a register that places no stack. -/
theorem crWrite_plain {k k1 : Core} {n : Nat} {w : Word} {r : List Word} (hw : k.crWritable n) (hplain : ¬ (1 ≤ n ∧ n ≤ 4))
    (hn : k.need 1 = .ok k1) (hs : k1.stack = w :: r) :
    k.crWrite n = .ok (({ k1 with stack := r } : Core).crPut n w, .next) := by
  unfold crWrite
  rw [if_neg hw]
  simp only [pop_need hn hs, bind, Except.bind, pure, Except.pure, if_neg hplain]
  rfl

/-- MTCR of a register that places a stack brings both stacks to memory first (log entry 31). -/
theorem crWrite_placing {k k1 k2 : Core} {n : Nat} {w : Word} {r : List Word} (hplace : 1 ≤ n ∧ n ≤ 4)
    (hn : k.need 1 = .ok k1) (hs : k1.stack = w :: r) (hk : ({ k1 with stack := r } : Core).settle = .ok k2) :
    k.crWrite n = .ok (k2.crPut n w, .next) := by
  unfold crWrite
  rw [if_neg (by omega)]
  simp only [pop_need hn hs, bind, Except.bind, pure, Except.pure, if_pos hplace, hk]
  rfl

/-- A core that has a loop may write the loop registers. Filling the stack takes none away. -/
theorem crWritable_of_loop {k k1 : Core} {n : Nat} {e : LoopEntry} {es : List LoopEntry} (hn : gives (k.need 1) k1 = true)
    (hloops : k1.loops = e :: es) (hloop : n = 12 ∨ n = 13 ∨ n = 14 := by decide) : k.crWritable n := by
  obtain ⟨st, sp, cy, seen, rfl⟩ := need_shape (gives_iff.1 hn)
  have hk : k.loops = e :: es := hloops
  simp only [crWritable, hk, reduceCtorEq, and_false, or_false]
  omega

/-- A write of a loop register changes the top loop. -/
theorem setTop_cons {k : Core} {e : LoopEntry} {es : List LoopEntry} {f : LoopEntry → LoopEntry} (h : k.loops = e :: es) :
    k.setTop f = { k with loops := f e :: es } := by
  rw [setTop, h]

/-- A kick of the watchdog counts with its value alone (R372). -/
theorem crPut_wdkick (k : Core) (w : Word) : k.crPut 17 w = { k with
    wdtWarned := if w = 0x4B1C then false else k.wdtWarned, wdtKick := if w = 0x4B1C then true else k.wdtKick } := by
  have hw : w.toNat = 0x4B1C ↔ w = 0x4B1C := BitVec.toNat_inj (y := 0x4B1C#32)
  simp only [crPut, hw]
  split <;> rfl

/-! ### Control flow -/

theorem okTarget_of_eq {t : Int} {tgt : Nat} (h : (tgt : Int) = t) (hle : tgt ≤ 0x1FFFE) (heven : tgt % 2 = 0) :
    okTarget t = true ∧ t.toNat = tgt := by
  subst h
  refine ⟨?_, Int.toNat_natCast tgt⟩
  simp only [okTarget, Bool.and_eq_true, decide_eq_true_eq]
  omega

/-- A taken branch to a legal target. The target counts from the branch, which filling the stack does not move. -/
theorem branch_taken {k k1 : Core} {n tgt : Nat} {off : Int} {l r : List Word} {c : List Word → Bool}
    (hn : k.need n = .ok k1) (hs : k1.stack = l ++ r) (hl : l.length = n) (hc : c l = true)
    (ht : (tgt : Int) = k1.pc + 2 * off) (hle : tgt ≤ 0x1FFFE) (heven : tgt % 2 = 0) :
    k.branch n off c = .ok ({ k1 with stack := r }, .transfer (some tgt)) := by
  obtain ⟨st, sp, cy, seen, hk1⟩ := need_shape hn
  have hpc : k1.pc = k.pc := by rw [hk1]
  obtain ⟨hok, hnat⟩ := okTarget_of_eq (hpc ▸ ht) hle heven
  simp [branch, pops_need hn, hs, List.take_left' hl, List.drop_left' hl, hc, hok, hnat, bind, Except.bind, pure,
    Except.pure]

theorem branch_untaken {k k1 : Core} {n : Nat} {l r : List Word} {c : List Word → Bool} (off : Int)
    (hn : k.need n = .ok k1) (hs : k1.stack = l ++ r) (hl : l.length = n) (hc : c l = false) :
    k.branch n off c = .ok ({ k1 with stack := r }, .transfer none) := by
  simp [branch, pops_need hn, hs, List.take_left' hl, List.drop_left' hl, hc, bind, Except.bind, pure, Except.pure]

theorem loopCheck_legal {k : Core} {endOff : Nat} (h2 : 2 ≤ endOff) (hle : k.pc + 2 * endOff ≤ 0x1FFFE) :
    k.loopCheck endOff = .ok () := if_neg (by omega)

theorem loopSet_counted {k : Core} {n : Nat} (endOff : Nat) (hn : n ≠ 0) (hroom : k.loops.length < 4) :
    k.loopSet n endOff = .ok ({ k with loops := ⟨k.pc + 4, k.pc + 2 * endOff, n⟩ :: k.loops }, .next) := by
  simp [loopSet, hn, hroom]

theorem loopSet_zero (k : Core) (endOff : Nat) :
    k.loopSet 0 endOff = .ok (k, .goto (k.pc + 2 * endOff + swLen (k.half (k.pc + 2 * endOff)))) := by
  simp [loopSet]

theorem repSet_within {k : Core} {n : Nat} (hn : n ≠ 0) (hle : n ≤ k.replim) :
    k.repSet n = .ok ({ k with rep := some (n, 0) }, .next) := if_neg (by omega)

/-! ### ABS -/

theorem abs_word (a : Word) :
    BitVec.ofInt 32 (clampInt (-(2 ^ 31)) (2 ^ 31 - 1) (if a.toInt < 0 then -a.toInt else a.toInt)) =
    if a.toInt = -(2 ^ 31) then 0x7FFFFFFF else if a.toInt < 0 then 0 - a else a := by
  have hlt : a.toInt < 2 ^ 31 := BitVec.toInt_lt
  have hle : -(2 ^ 31) ≤ a.toInt := BitVec.le_toInt a
  by_cases hmin : a.toInt = -(2 ^ 31)
  · rw [if_pos hmin, hmin]
    rfl
  · rw [if_neg hmin]
    by_cases hneg : a.toInt < 0
    · have hclamp : clampInt (-(2 ^ 31)) (2 ^ 31 - 1) (-a.toInt) = -a.toInt := by unfold clampInt; omega
      rw [if_pos hneg, if_pos hneg, hclamp, BitVec.ofInt_neg, BitVec.ofInt_toInt]
      simp
    · have hclamp : clampInt (-(2 ^ 31)) (2 ^ 31 - 1) a.toInt = a.toInt := by unfold clampInt; omega
      rw [if_neg hneg, if_neg hneg, hclamp, BitVec.ofInt_toInt]

/-- The absolute value leaves the range of a word for the minimum alone. -/
theorem abs_saturates_iff (a : Word) : clampInt (-(2 ^ 31)) (2 ^ 31 - 1) (if a.toInt < 0 then -a.toInt else a.toInt) ≠
    (if a.toInt < 0 then -a.toInt else a.toInt) ↔ a.toInt = -(2 ^ 31) := by
  have hlt : a.toInt < 2 ^ 31 := BitVec.toInt_lt
  have hle : -(2 ^ 31) ≤ a.toInt := BitVec.le_toInt a
  unfold clampInt
  split <;> omega

theorem abs_of_need {k k1 : Core} {a : Word} {r : List Word} (ipend id : Nat) (wake : Bool) (len : Nat)
    (hd : k.stack.length ≤ 8) (hn : k.need 1 = .ok k1) (hs : k1.stack = a :: r) : k.operate ipend id wake .abs len =
      .ok ({ k1 with
        stack := (if a.toInt = -(2 ^ 31) then 0x7FFFFFFF else if a.toInt < 0 then 0 - a else a) :: r
        sat := k1.sat || decide (a.toInt = -(2 ^ 31)) }, .next) := by
  have hdepth : 1 + r.length ≤ 8 := depth_of_need (l := [a]) hn hs (by decide) hd
  have hroom : r.length < 8 := by omega
  simp only [operate, pop_need hn hs, bind, Except.bind, sat32, wInt_eq_toInt, wOf, give, push, hroom, if_true, pure,
    Except.pure, abs_word, abs_saturates_iff]

end Core

namespace Core

variable {k k1 k2 k3 : Core} {ipend id len : Nat} {wake : Bool} {w : Word} {r : List Word}

/-! ### Loads and stores (Table 15-5) -/

theorem push_m (h : k.push w = .ok k1) : k1.m = k.m := by
  unfold push at h
  split at h
  · rw [← Except.ok.inj h]
  · split at h
    · exact absurd h nofun
    · cases hwrite : k.writeLocal .x (k.sp - 4) 4 (k.stack.getLastD 0).toNat with
      | error e => simp only [hwrite, bind, Except.bind, reduceCtorEq] at h
      | ok kw =>
        simp only [hwrite, bind, Except.bind, pure, Except.pure, Except.ok.injEq] at h
        rw [← h, writeLocal_shape hwrite]
        exact (putLocal_pointers ..).2.2

theorem loadAt_m {m : LocalMem} {off sz : Nat} (h : k.loadAt m off sz = .ok k1) : k1.m = k.m := by
  unfold loadAt at h
  cases hread : k.readLocal m off (swSize sz) with
  | error e => simp [hread, bind, Except.bind] at h
  | ok x =>
    obtain ⟨v, kr⟩ := x
    simp only [hread, bind, Except.bind] at h
    obtain ⟨seen, hkr⟩ := readLocal_shape hread
    exact (push_m h).trans (by rw [hkr])

/-- A local load with the pointer modified where PM is set; the modifier is what it was before the load. -/
theorem ld_of_load {sz a m : Nat} (pm : Bool) (h : k.loadAt (aMem a) (k.a.getD a 0) sz = .ok k2) :
    k.operate ipend id wake (.ld sz a m pm) len = .ok (if pm then k2.modA a (k2.mOf m) else k2, .next) := by
  simp only [operate, h, bind, Except.bind, pure, Except.pure, mOf, loadAt_m h]

theorem ldx_of_load {y : Bool} {sz off : Nat} (h : k.loadAt (if y then .y else .x) off sz = .ok k2) :
    k.operate ipend id wake (.ldx y sz off) len = .ok (k2, .next) := by
  simp only [operate, h, bind, Except.bind, pure, Except.pure]

theorem st_of_need {sz a m : Nat} (pm : Bool) (hn : k.need 1 = .ok k1) (hs : k1.stack = w :: r)
    (halign : k1.a.getD a 0 % swSize sz = 0) : k.operate ipend id wake (.st sz a m pm) len = .ok
      (if pm then (({ k1 with stack := r } : Core).putLocal (aMem a) (k1.a.getD a 0) (swSize sz) w.toNat).modA a (k1.mOf m)
      else ({ k1 with stack := r } : Core).putLocal (aMem a) (k1.a.getD a 0) (swSize sz) w.toNat, .next) := by
  have hwrite := writeLocal_aligned (k := { k1 with stack := r }) w.toNat (aMem_ne_i a) halign
  simp only [operate, pop_need hn hs, bind, Except.bind, pure, Except.pure]
  obtain ⟨st, sp, cy, seen, rfl⟩ := need_shape hn
  simp only [hwrite]
  rfl

theorem stx_of_need {y : Bool} {sz off : Nat} (hn : k.need 1 = .ok k1) (hs : k1.stack = w :: r)
    (halign : off % swSize sz = 0) : k.operate ipend id wake (.stx y sz off) len = .ok
      (({ k1 with stack := r } : Core).putLocal (if y then .y else .x) off (swSize sz) w.toNat, .next) := by
  have hm : (if y then LocalMem.y else .x) ≠ .i := by cases y <;> nofun
  simp only [operate, pop_need hn hs, bind, Except.bind, pure, Except.pure, writeLocal_aligned _ hm halign]

/-- A pointer modified after a local store counts from what it was before. -/
theorem modA_putLocal (k : Core) (m : LocalMem) (off size v n : Nat) (by_ : Int) : (k.putLocal m off size v).modA n by_ =
    { k.putLocal m off size v with a := k.a.set n (circular (k.a.getD n 0) (min 32768 (k.l.getD n 0)) by_) } := by
  obtain ⟨ha, hl, -⟩ := putLocal_pointers k m off size v
  simp only [modA, ha, hl]

theorem ldf_of_farLoad {sz : Nat} {disp : Int} {f : Flow} (hf : f ≠ .blocked) (h : k.farLoad sz disp = .ok (k2, f)) :
    k.operate ipend id wake (.ldf sz disp) len = .ok (k2, f) := by
  simp only [operate, h, bind, Except.bind, pure, Except.pure, unblocked_of_ne hf]

theorem stf_of_farStore {v : Word} {sz : Nat} {disp : Int} {f : Flow} (hf : f ≠ .blocked) (hn : k.need 2 = .ok k1)
    (hs : k1.stack = w :: v :: r)
    (h : ({ k1 with stack := r } : Core).farStore (farAddr w disp) (swSize sz) v.toNat = .ok (k2, f)) :
    k.operate ipend id wake (.stf sz disp) len = .ok (k2, f) := by
  unfold farAddr at h
  simp [operate, pops_need hn, hs, bind, Except.bind, pure, Except.pure, h, unblocked_of_ne hf]

/-! ### Accumulators (Table 15-6) -/

theorem norma_of_push {acc : Nat}
    (h : (k.setAcc acc (k.accOf acc * 2 ^ redundant 72 (k.accOf acc))).push (BitVec.ofNat 32 (redundant 72 (k.accOf acc))) =
      .ok k2) : k.operate ipend id wake (.norma acc) len = .ok (k2, .next) := by
  rw [← Nat.cast_ofNat, ← Int.natCast_pow] at h
  exact give_of_push h

theorem popacc_of_need {acc : Nat} {g h l : Word} (hn : k.need 3 = .ok k1) (hs : k1.stack = l :: h :: g :: r) :
    k.operate ipend id wake (.popacc acc) len = .ok (({ k1 with stack := r } : Core).setAcc acc
      (signed 72 (g.toNat % 256 * 2 ^ 64 + h.toNat * 2 ^ 32 + l.toNat)), .next) := by
  simp [operate, pops_need hn, hs, bind, Except.bind, pure, Except.pure]

section
variable {acc a m sh : Nat} {pm : Bool} {v : Word} {kv : Core}

/-- STACC to the stack. -/
theorem stacc_push (hsat : k.sat32 (roundEven (k.accOf acc) sh) = (v, kv)) (hp : kv.push v = .ok k2) :
    k.operate ipend id wake (.stacc acc 0 a m pm sh) len = .ok (k2, .next) := by
  simp only [operate, hsat]
  exact give_of_push hp

/-- STACC through a pointer. -/
theorem stacc_store (hsat : k.sat32 (roundEven (k.accOf acc) sh) = (v, kv)) (halign : k.a.getD a 0 % 4 = 0) :
    k.operate ipend id wake (.stacc acc 1 a m pm sh) len = .ok
      (if pm then (kv.putLocal (aMem a) (kv.a.getD a 0) 4 v.toNat).modA a (kv.mOf m)
      else kv.putLocal (aMem a) (kv.a.getD a 0) 4 v.toNat, .next) := by
  simp only [operate, hsat, writeLocal_aligned v.toNat (aMem_ne_i a) halign, bind, Except.bind, pure, Except.pure]
  obtain ⟨-, rfl⟩ := Prod.mk.inj hsat
  rfl

/-- STACC to a far address. -/
theorem stacc_far (hsat : k.sat32 (roundEven (k.accOf acc) sh) = (v, kv)) (hn : kv.need 1 = .ok k2) (hs : k2.stack = w :: r)
    (hremote : localOf w.toNat = none) (hroom : k2.wbuf.length < 4) :
    k.operate ipend id wake (.stacc acc 2 a m pm sh) len = .ok
      ({ k2 with stack := r, wbuf := k2.wbuf ++ [⟨w.toNat, 4, v.toNat % 2 ^ 32⟩] }, .next) := by
  simp only [operate, hsat, pop_need hn hs, farStore_remote (k := { k2 with stack := r }) _ hremote hroom, bind, Except.bind,
    pure, Except.pure, unblocked_of_ne (f := .next) nofun]

end

/-! ### Transfers, loops and REP (Table 15-7) -/

theorem call_legal {off : Int} {tgt : Nat} (ht : (tgt : Int) = k.pc + 2 * off) (hle : tgt ≤ 0x1FFFE) (heven : tgt % 2 = 0)
    (h : k.rpush (k.afterSlot (k.pc + len)) = .ok k2) :
    k.operate ipend id wake (.call off) len = .ok (k2, .transfer (some tgt)) := by
  obtain ⟨hok, hnat⟩ := okTarget_of_eq ht hle heven
  simp only [operate, hok, hnat, h, bind, Except.bind, pure, Except.pure, if_true]

theorem okTarget_word (hle : w.toNat ≤ 0x1FFFE) (heven : w.toNat % 2 = 0) : okTarget w.toNat = true :=
  (okTarget_of_eq rfl hle heven).1

theorem jr_legal (hn : k.need 1 = .ok k1) (hs : k1.stack = w :: r) (hle : w.toNat ≤ 0x1FFFE) (heven : w.toNat % 2 = 0) :
    k.operate ipend id wake .jr len = .ok ({ k1 with stack := r }, .transfer (some w.toNat)) := by
  simp only [operate, pop_need hn hs, okTarget_word hle heven, bind, Except.bind, pure, Except.pure, if_true]

theorem callr_legal (hn : k.need 1 = .ok k1) (hs : k1.stack = w :: r) (hle : w.toNat ≤ 0x1FFFE) (heven : w.toNat % 2 = 0)
    (h : ({ k1 with stack := r } : Core).rpush (k.afterSlot (k.pc + len)) = .ok k2) :
    k.operate ipend id wake .callr len = .ok (k2, .transfer (some w.toNat)) := by
  simp only [operate, pop_need hn hs, okTarget_word hle heven, h, bind, Except.bind, pure, Except.pure, if_true]

theorem ret_legal (h : k.rpop = .ok (w, k2)) (hle : w.toNat ≤ 0x1FFFE) (heven : w.toNat % 2 = 0) :
    k.operate ipend id wake .ret len = .ok (k2, .transfer (some w.toNat)) := by
  simp only [operate, h, okTarget_word hle heven, bind, Except.bind, pure, Except.pure, if_true]

theorem rti_of_rpops {st : Word} (hst : k.rpop = .ok (st, k2)) (hra : k2.rpop = .ok (w, k3)) :
    k.operate ipend id wake .rti len = .ok (k3.setStatus st, .goto w.toNat) := by
  simp only [operate, hst, hra, bind, Except.bind, pure, Except.pure]

theorem lpop_cons {e : LoopEntry} {es : List LoopEntry} (h : k.loops = e :: es) :
    k.operate ipend id wake .lpop len = .ok ({ k with loops := es }, .next) := by
  simp only [operate, h]

theorem loop_legal {n endOff : Nat} {f : Flow} (h2 : 2 ≤ endOff) (hle : k.pc + 2 * endOff ≤ 0x1FFFE)
    (h : k.loopSet n endOff = .ok (k2, f)) : k.operate ipend id wake (.loop n endOff) len = .ok (k2, f) := by
  simp only [operate, loopCheck_legal h2 hle, h, bind, Except.bind]

theorem loopt_legal {endOff : Nat} {f : Flow} (h2 : 2 ≤ endOff) (hle : k.pc + 2 * endOff ≤ 0x1FFFE)
    (hn : k.need 1 = .ok k1) (hs : k1.stack = w :: r)
    (h : ({ k1 with stack := r } : Core).loopSet w.toNat endOff = .ok (k2, f)) :
    k.operate ipend id wake (.loopt endOff) len = .ok (k2, f) := by
  simp only [operate, loopCheck_legal h2 hle, pop_need hn hs, h, bind, Except.bind]

theorem rept_of_need {f : Flow} (hn : k.need 1 = .ok k1) (hs : k1.stack = w :: r)
    (h : ({ k1 with stack := r } : Core).repSet w.toNat = .ok (k2, f)) :
    k.operate ipend id wake .rept len = .ok (k2, f) := by
  simp only [operate, pop_need hn hs, h, bind, Except.bind]

end Core

namespace State

/-! ### How an instruction that is about to execute completes -/

/-- An instruction that its core is about to execute finishes where its own effect succeeds and stays in the core. -/
theorem next_finishes {s : State} {c len stall : Nat} {is : SwOp → Bool} {ecc : Option (Nat × Bool)} {o : SwOp}
    {k k2 : Core} {f : Flow} {i : Instr} (hexec : exec i s = .next (s.coreStep c is ecc stall).settle)
    (hbegins : s.begins c ecc o len k = true) (his : is o = true)
    (hop : k.operate (s.coreIpend c) (c + 1) (s.waitOver c) o len = .ok (k2, f)) (hblocked : f ≠ .blocked := by nofun)
    (hfar : ∀ r, f ≠ .far r := by nofun) : exec i s = .next (s.finishes c k k2 o len f stall).settle :=
  next_settle_of_eq hexec (coreStep_finishes hbegins his hop hblocked hfar)

theorem begins_stack {s : State} {c len : Nat} {ecc : Option (Nat × Bool)} {o : SwOp} {k : Core}
    (h : s.begins c ecc o len k = true) : k.stack.length ≤ 8 := (begins_depths h).1

/-- An instruction that replaces its two operands by a result completes with it. -/
theorem next_bin {s : State} {c len stall : Nat} {is : SwOp → Bool} {o : SwOp} {k k1 : Core} {a b w : Word} {r : List Word}
    {i : Instr} (f : Word → Word → Word) (hexec : exec i s = .next (s.coreStep c is none stall).settle)
    (hbegins : s.begins c none o len k = true) (his : is o = true) (hshape : ∀ p d wake, k.operate p d wake o len = k.bin f)
    (hneed : gives (k.need 2) k1 = true) (hs : k1.stack = b :: a :: r) (hw : f a b = w) :
    exec i s = .next (s.finishes c k { k1 with stack := w :: r } o len .next stall).settle := by
  subst hw
  exact next_finishes hexec hbegins his
    ((hshape ..).trans (Core.bin_of_need f (begins_stack hbegins) (gives_iff.1 hneed) hs))

/-- An instruction that replaces its operand by a result completes with it. -/
theorem next_un {s : State} {c len stall : Nat} {is : SwOp → Bool} {o : SwOp} {k k1 : Core} {a w : Word} {r : List Word}
    {i : Instr} (f : Word → Word) (hexec : exec i s = .next (s.coreStep c is none stall).settle)
    (hbegins : s.begins c none o len k = true) (his : is o = true) (hshape : ∀ p d wake, k.operate p d wake o len = k.un f)
    (hneed : gives (k.need 1) k1 = true) (hs : k1.stack = a :: r) (hw : f a = w) :
    exec i s = .next (s.finishes c k { k1 with stack := w :: r } o len .next stall).settle := by
  subst hw
  exact next_finishes hexec hbegins his
    ((hshape ..).trans (Core.un_of_need f (begins_stack hbegins) (gives_iff.1 hneed) hs))

/-- Settles O18. -/
theorem swialeStackManipulationCompletes : Obligations.SwialeStackManipulationCompletes := by
  unfold Obligations.SwialeStackManipulationCompletes
  refine ⟨?nop, ?dup, ?drop, ?swap, ?overT, ?rot, ?pick⟩
  case nop =>
    rintro s c len k _ stall h rfl
    exact next_finishes rfl h rfl rfl
  case dup =>
    intro s c len k k1 a r k2 stall h hn hs hp
    have hdepth := Core.depth_of_need (l := [a]) (gives_iff.1 hn) hs (by decide) (begins_stack h)
    rw [← Core.stack_eta hs, gives_iff] at hp
    exact next_finishes rfl h rfl
      (Core.shuffle_of_need (l := [a]) (fun l => [l.getD 0 0, l.getD 0 0]) (gives_iff.1 hn) hs rfl
      (Core.pushes_last [a] a (by simpa [Nat.add_comm] using hdepth) hp))
  case drop =>
    intro s c len k k1 a r stall h hn hs
    exact next_finishes rfl h rfl (Core.shuffle_of_need (l := [a]) (fun _ => []) (gives_iff.1 hn) hs rfl rfl)
  case swap =>
    intro s c len k k1 a b r stall h hn hs
    have hdepth := Core.depth_of_need (l := [b, a]) (gives_iff.1 hn) hs (by decide) (begins_stack h)
    exact next_finishes rfl h rfl
      (Core.shuffle_of_need (l := [b, a]) (fun l => [l.getD 0 0, l.getD 1 0]) (gives_iff.1 hn) hs rfl
      (Core.pushes_room [b, a] (by simpa [Nat.add_comm] using hdepth)))
  case overT =>
    intro s c len k k1 a b r k2 stall h hn hs hp
    have hdepth := Core.depth_of_need (l := [b, a]) (gives_iff.1 hn) hs (by decide) (begins_stack h)
    rw [← Core.stack_eta hs, gives_iff] at hp
    exact next_finishes rfl h rfl
      (Core.shuffle_of_need (l := [b, a]) (fun l => [l.getD 1 0, l.getD 0 0, l.getD 1 0]) (gives_iff.1 hn) hs rfl
      (Core.pushes_last [a, b] a (by simpa [Nat.add_comm] using hdepth) hp))
  case rot =>
    intro s c len k k1 a b d r stall h hn hs
    have hdepth := Core.depth_of_need (l := [d, b, a]) (gives_iff.1 hn) hs (by decide) (begins_stack h)
    exact next_finishes rfl h rfl
      (Core.shuffle_of_need (l := [d, b, a]) (fun l => [l.getD 1 0, l.getD 0 0, l.getD 2 0]) (gives_iff.1 hn) hs rfl
      (Core.pushes_room [b, d, a] (by simpa [Nat.add_comm] using hdepth)))
  case pick =>
    intro s c len k k1 f k2 stall h hn hp
    exact next_finishes rfl h rfl (Core.pick_of_need (gives_iff.1 hn) (gives_iff.1 hp))

/-- Settles O19: each instruction has the two-operand shape, with the function that its row of Table 15-3 gives. -/
theorem swialeTwoOperandInstructionsComplete : Obligations.SwialeTwoOperandInstructionsComplete := by
  unfold Obligations.SwialeTwoOperandInstructionsComplete
  refine ⟨?add, ?sub, ?and, ?or, ?xor, ?min, ?max, ?slt, ?sltu, ?mul, ?mulh, ?mulhu, ?shlv, ?shrv, ?sarv, ?adds, ?subs⟩
  case add =>
    intro s c len k k1 a b r stall h hn hs
    exact next_bin (· + ·) rfl h rfl (fun _ _ _ => rfl) hn hs rfl
  case sub =>
    intro s c len k k1 a b r stall h hn hs
    exact next_bin (· - ·) rfl h rfl (fun _ _ _ => rfl) hn hs rfl
  case and =>
    intro s c len k k1 a b r stall h hn hs
    exact next_bin (· &&& ·) rfl h rfl (fun _ _ _ => rfl) hn hs rfl
  case or =>
    intro s c len k k1 a b r stall h hn hs
    exact next_bin (· ||| ·) rfl h rfl (fun _ _ _ => rfl) hn hs rfl
  case xor =>
    intro s c len k k1 a b r stall h hn hs
    exact next_bin (· ^^^ ·) rfl h rfl (fun _ _ _ => rfl) hn hs rfl
  case min =>
    intro s c len k k1 a b r stall h hn hs
    exact next_bin (fun a b => if wInt a ≤ wInt b then a else b) rfl h rfl (fun _ _ _ => rfl) hn hs
      (by simp only [wInt_eq_toInt])
  case max =>
    intro s c len k k1 a b r stall h hn hs
    exact next_bin (fun a b => if wInt a ≤ wInt b then b else a) rfl h rfl (fun _ _ _ => rfl) hn hs
      (by simp only [wInt_eq_toInt])
  case slt =>
    intro s c len k k1 a b r stall h hn hs
    exact next_bin (fun a b => if wInt a < wInt b then 1 else 0) rfl h rfl (fun _ _ _ => rfl) hn hs
      (by simp only [wInt_eq_toInt])
  case sltu =>
    intro s c len k k1 a b r stall h hn hs
    exact next_bin (fun a b => if a.toNat < b.toNat then 1 else 0) rfl h rfl (fun _ _ _ => rfl) hn hs rfl
  case mul =>
    intro s c len k k1 a b r stall h hn hs
    exact next_bin (· * ·) rfl h rfl (fun _ _ _ => rfl) hn hs
      (by rw [BitVec.ofInt_mul, BitVec.ofInt_toInt, BitVec.ofInt_toInt])
  case mulh =>
    intro s c len k k1 a b r stall h hn hs
    exact next_bin (fun a b => wOf (wInt a * wInt b / ((2 ^ 32 : Nat) : Int))) rfl h rfl (fun _ _ _ => rfl) hn hs
      (by simp only [wInt_eq_toInt]; rfl)
  case mulhu =>
    intro s c len k k1 a b r stall h hn hs
    exact next_bin (fun a b => BitVec.ofNat 32 (a.toNat * b.toNat / 2 ^ 32)) rfl h rfl (fun _ _ _ => rfl) hn hs rfl
  case shlv =>
    intro s c len k k1 a b r stall h hn hs
    refine next_bin (fun a b => a <<< (b.toNat % 64)) rfl h rfl (fun _ _ _ => rfl) hn hs ?_
    split
    · rfl
    · exact BitVec.shiftLeft_eq_zero (by omega)
  case shrv =>
    intro s c len k k1 a b r stall h hn hs
    refine next_bin (fun a b => a >>> (b.toNat % 64)) rfl h rfl (fun _ _ _ => rfl) hn hs ?_
    split
    · rfl
    · exact BitVec.ushiftRight_eq_zero (by omega)
  case sarv =>
    intro s c len k k1 a b r stall h hn hs
    refine next_bin (fun a b => a.sshiftRight (b.toNat % 64)) rfl h rfl (fun _ _ _ => rfl) hn hs ?_
    split
    · rfl
    · exact sshiftRight_beyond a (by omega)
  case adds =>
    intro s c len k k1 a b r stall h hn hs
    exact next_finishes rfl h rfl (Core.binSat_of_need (· + ·) (begins_stack h) (gives_iff.1 hn) hs)
  case subs =>
    intro s c len k k1 a b r stall h hn hs
    exact next_finishes rfl h rfl (Core.binSat_of_need (· - ·) (begins_stack h) (gives_iff.1 hn) hs)

/-- Settles O20: but for ABS and NORM each instruction has the one-operand shape. -/
theorem swialeOneOperandInstructionsComplete : Obligations.SwialeOneOperandInstructionsComplete := by
  unfold Obligations.SwialeOneOperandInstructionsComplete
  refine ⟨?not, ?neg, ?shl, ?shr, ?sar, ?sext, ?exp, ?abs, ?norm, ?addi⟩
  case not =>
    intro s c len k k1 a r stall h hn hs
    exact next_un (~~~ ·) rfl h rfl (fun _ _ _ => rfl) hn hs rfl
  case neg =>
    intro s c len k k1 a r stall h hn hs
    exact next_un (- ·) rfl h rfl (fun _ _ _ => rfl) hn hs (by simp)
  case shl =>
    intro s c len k k1 f a r stall h hn hs
    exact next_un (· <<< f) rfl h rfl (fun _ _ _ => rfl) hn hs rfl
  case shr =>
    intro s c len k k1 f a r stall h hn hs
    exact next_un (· >>> f) rfl h rfl (fun _ _ _ => rfl) hn hs rfl
  case sar =>
    intro s c len k k1 f a r stall h hn hs
    exact next_un (·.sshiftRight f) rfl h rfl (fun _ _ _ => rfl) hn hs rfl
  case sext =>
    intro s c len k k1 f a r stall h hn hs
    exact next_un (fun a => wOf (signed (f + 1) (a.toNat % 2 ^ (f + 1)))) rfl h rfl (fun _ _ _ => rfl) hn hs rfl
  case exp =>
    intro s c len k k1 a r stall h hn hs
    exact next_un (fun a => BitVec.ofNat 32 (redundant 32 (wInt a))) rfl h rfl (fun _ _ _ => rfl) hn hs
      (by rw [wInt_eq_toInt])
  case abs =>
    intro s c len k k1 a r stall h hn hs
    exact next_finishes rfl h rfl (Core.abs_of_need _ _ _ len (begins_stack h) (gives_iff.1 hn) hs)
  case norm =>
    intro s c len k k1 a r k2 stall h hn hs hp
    exact next_finishes rfl h rfl (Core.norm_of_push (begins_stack h) (gives_iff.1 hn) hs (gives_iff.1 hp))
  case addi =>
    intro s c len k k1 v a r stall h hn hs
    exact next_un (· + wOf v) rfl h rfl (fun _ _ _ => rfl) hn hs rfl


/-! ### Literals, registers and control registers -/

/-- An instruction that pushes one value completes with it. -/
theorem next_give {s : State} {c len stall : Nat} {is : SwOp → Bool} {o : SwOp} {k k2 : Core} {i : Instr} (w : Word)
    (hexec : exec i s = .next (s.coreStep c is none stall).settle) (hbegins : s.begins c none o len k = true)
    (his : is o = true) (hshape : k.operate (s.coreIpend c) (c + 1) (s.waitOver c) o len = k.give w)
    (hpush : gives (k.push w) k2 = true) : exec i s = .next (s.finishes c k k2 o len .next stall).settle :=
  next_finishes hexec hbegins his (hshape.trans (Core.give_of_push (gives_iff.1 hpush)))

/-- An instruction that pops its operand into the core completes with the core it gives. -/
theorem next_take {s : State} {c len stall : Nat} {is : SwOp → Bool} {o : SwOp} {k k1 k2 : Core} {w : Word} {r : List Word}
    {i : Instr} (f : Word → Core → Core) (hexec : exec i s = .next (s.coreStep c is none stall).settle)
    (hbegins : s.begins c none o len k = true) (his : is o = true) (hshape : ∀ p d wake, k.operate p d wake o len = k.take f)
    (hneed : gives (k.need 1) k1 = true) (hs : k1.stack = w :: r) (hk : f w { k1 with stack := r } = k2) :
    exec i s = .next (s.finishes c k k2 o len .next stall).settle := by
  subst hk
  exact next_finishes hexec hbegins his ((hshape ..).trans (Core.take_of_need f (gives_iff.1 hneed) hs))

/-- MTCR of a writable register that places no stack completes with the register written. -/
theorem next_mtcr_plain {s : State} {c len stall n : Nat} {k k1 k2 : Core} {w : Word} {r : List Word}
    (hbegins : s.begins c none (.mtcr n) len k = true) (hneed : gives (k.need 1) k1 = true) (hs : k1.stack = w :: r)
    (hw : k.crWritable n) (hplain : ¬ (1 ≤ n ∧ n ≤ 4)) (hput : ({ k1 with stack := r } : Core).crPut n w = k2) :
    exec (.swMtcr c stall) s = .next (s.finishes c k k2 (.mtcr n) len .next stall).settle := by
  subst hput
  exact next_finishes rfl hbegins rfl (Core.crWrite_plain hw hplain (gives_iff.1 hneed) hs)

/-- MTCR of a register that places a stack completes with the register written once both stacks are in memory. -/
theorem next_mtcr_placing {s : State} {c len stall n : Nat} {k k1 k2 k3 : Core} {w : Word} {r : List Word}
    (hbegins : s.begins c none (.mtcr n) len k = true) (hneed : gives (k.need 1) k1 = true) (hs : k1.stack = w :: r)
    (hplace : 1 ≤ n ∧ n ≤ 4) (hsettle : gives ({ k1 with stack := r } : Core).settle k2 = true) (hput : k2.crPut n w = k3) :
    exec (.swMtcr c stall) s = .next (s.finishes c k k3 (.mtcr n) len .next stall).settle := by
  subst hput
  exact next_finishes rfl hbegins rfl (Core.crWrite_placing hplace (gives_iff.1 hneed) hs (gives_iff.1 hsettle))

/-- Settles O21. That a register that places a stack is written after both stacks are brought to memory, and that REPLIM is
clamped, are the model's choices (log entries 31 and 38). -/
theorem swialeLiteralAndRegisterInstructionsComplete : Obligations.SwialeLiteralAndRegisterInstructionsComplete := by
  unfold Obligations.SwialeLiteralAndRegisterInstructionsComplete
  refine ⟨?pushi, ?pushl24, ?lui, ?pusha, ?pushm, ?pushl, ?popa, ?popm, ?popl, ?adda, ?mfcr, ?status, ?vbar, ?epc, ?imask,
    ?replim, ?loopStart, ?loopEnd, ?loopCount, ?sp, ?splim, ?rsp, ?rsplim, ?wdkick⟩
  case pushi =>
    rintro s c len _ k v k2 stall h rfl hp
    exact next_give (wOf v) rfl h rfl rfl hp
  case pushl24 =>
    rintro s c len _ k v k2 stall h rfl hp
    exact next_give (wOf v) rfl h rfl rfl hp
  case lui =>
    rintro s c len _ k v k2 stall h rfl hp
    exact next_give (BitVec.ofNat 32 (v * 256)) rfl h rfl rfl hp
  case pusha =>
    rintro s c len _ k n k2 stall h rfl hp
    exact next_give (BitVec.ofNat 32 (k.a.getD n 0)) rfl h rfl rfl hp
  case pushm =>
    rintro s c len _ k n k2 stall h rfl hp
    exact next_give (wOf (signed 16 (k.m.getD n 0))) rfl h rfl rfl hp
  case pushl =>
    rintro s c len _ k n k2 stall h rfl hp
    exact next_give (BitVec.ofNat 32 (k.l.getD n 0)) rfl h rfl rfl hp
  case popa =>
    intro s c len k k1 n w r stall h hn hs
    exact next_take (fun w t => { t with a := t.a.set n (w.toNat % 65536) }) rfl h rfl (fun _ _ _ => rfl) hn hs rfl
  case popm =>
    intro s c len k k1 n w r stall h hn hs
    exact next_take (fun w t => { t with m := t.m.set n (w.toNat % 65536) }) rfl h rfl (fun _ _ _ => rfl) hn hs rfl
  case popl =>
    intro s c len k k1 n w r stall h hn hs
    exact next_take (fun w t => { t with l := t.l.set n (w.toNat % 65536 / 4 * 4) }) rfl h rfl (fun _ _ _ => rfl) hn hs rfl
  case adda =>
    rintro s c len k _ n v stall h rfl
    exact next_finishes rfl h rfl rfl
  case mfcr =>
    rintro s c len _ k n k2 stall h rfl hp
    exact next_give (k.crRead (s.coreIpend c) (c + 1) n) rfl h rfl rfl hp
  case status =>
    rintro s c len k k1 _ w r stall h hn hs rfl
    exact next_mtcr_plain h hn hs (by simp [Core.crWritable]) (by decide) rfl
  case vbar =>
    rintro s c len k k1 _ w r stall h hn hs rfl
    exact next_mtcr_plain h hn hs (by simp [Core.crWritable]) (by decide) rfl
  case epc =>
    rintro s c len k k1 _ w r stall h hn hs rfl
    exact next_mtcr_plain h hn hs (by simp [Core.crWritable]) (by decide) rfl
  case imask =>
    rintro s c len k k1 _ w r stall h hn hs rfl
    exact next_mtcr_plain h hn hs (by simp [Core.crWritable]) (by decide) rfl
  case replim =>
    rintro s c len k k1 _ w r stall h hn hs rfl
    exact next_mtcr_plain h hn hs (by simp [Core.crWritable]) (by decide) rfl
  case loopStart =>
    rintro s c len k k1 _ w r e es stall h hn hs rfl hloops
    exact next_mtcr_plain h hn hs (Core.crWritable_of_loop hn hloops) (by decide) (Core.setTop_cons hloops)
  case loopEnd =>
    rintro s c len k k1 _ w r e es stall h hn hs rfl hloops
    exact next_mtcr_plain h hn hs (Core.crWritable_of_loop hn hloops) (by decide) (Core.setTop_cons hloops)
  case loopCount =>
    rintro s c len k k1 _ w r e es stall h hn hs rfl hloops
    exact next_mtcr_plain h hn hs (Core.crWritable_of_loop hn hloops) (by decide) (Core.setTop_cons hloops)
  case sp =>
    rintro s c len k k1 _ w r k2 stall h hn hs rfl hk
    exact next_mtcr_placing h hn hs (by decide) hk rfl
  case splim =>
    rintro s c len k k1 _ w r k2 stall h hn hs rfl hk
    exact next_mtcr_placing h hn hs (by decide) hk rfl
  case rsp =>
    rintro s c len k k1 _ w r k2 stall h hn hs rfl hk
    exact next_mtcr_placing h hn hs (by decide) hk rfl
  case rsplim =>
    rintro s c len k k1 _ w r k2 stall h hn hs rfl hk
    exact next_mtcr_placing h hn hs (by decide) hk rfl
  case wdkick =>
    rintro s c len k k1 _ w r stall h hn hs rfl
    exact next_mtcr_plain h hn hs (by simp [Core.crWritable]) (by decide) (Core.crPut_wdkick ..)

/-! ### Loads and stores -/

/-- Settles O22. -/
theorem swialeMemoryInstructionsComplete : Obligations.SwialeMemoryInstructionsComplete := by
  unfold Obligations.SwialeMemoryInstructionsComplete
  refine ⟨?load, ?loadModify, ?store, ?storeModify, ?loadAbsolute, ?storeAbsolute, ?farLoad, ?nearLoad, ?farStore,
    ?nearStore⟩
  case load =>
    rintro s c len _ k sz a m k2 ecc stall h rfl hload
    exact next_finishes rfl h rfl (Core.ld_of_load false (gives_iff.1 hload))
  case loadModify =>
    rintro s c len _ k sz a m k2 ecc stall h rfl hload
    exact next_finishes rfl h rfl (Core.ld_of_load true (gives_iff.1 hload))
  case store =>
    intro s c len k k1 sz a m w r stall h hn hs halign
    exact next_finishes rfl h rfl (Core.st_of_need false (gives_iff.1 hn) hs halign)
  case storeModify =>
    intro s c len k k1 sz a m w r stall h hn hs halign
    exact next_finishes rfl h rfl ((Core.st_of_need true (gives_iff.1 hn) hs halign).trans
      (by rw [if_pos rfl, Core.modA_putLocal]; rfl))
  case loadAbsolute =>
    rintro s c len _ k y sz off k2 ecc stall h rfl hload
    exact next_finishes rfl h rfl (Core.ldx_of_load (gives_iff.1 hload))
  case storeAbsolute =>
    intro s c len k k1 y sz off w r stall h hn hs halign
    exact next_finishes rfl h rfl (Core.stx_of_need (gives_iff.1 hn) hs halign)
  case farLoad =>
    intro s c len k k1 sz disp w r ecc stall h hn hs hremote hfree
    exact next_settle_of_eq rfl (coreStep_far h rfl (Core.ldf_of_farLoad nofun
      (Core.farLoad_remote (gives_iff.1 hn) hs hremote hfree)))
  case nearLoad =>
    intro s c len k k1 sz disp w r m off k2 ecc stall h hn hs hlocal hload
    exact next_finishes rfl h rfl (Core.ldf_of_farLoad nofun
      (Core.farLoad_local (gives_iff.1 hn) hs hlocal (gives_iff.1 hload)))
  case farStore =>
    intro s c len k k1 sz disp w v r stall h hn hs hremote hroom
    exact next_finishes rfl h rfl (Core.stf_of_farStore nofun (gives_iff.1 hn) hs
      (Core.farStore_remote (k := { k1 with stack := r }) _ hremote hroom))
  case nearStore =>
    intro s c len k k1 sz disp w v r m off stall h hn hs hlocal hm halign
    exact next_finishes rfl h rfl
      (Core.stf_of_farStore nofun (gives_iff.1 hn) hs (Core.farStore_local _ hlocal hm halign))

/-! ### Accumulators -/

/-- Settles O23. -/
theorem swialeAccumulatorInstructionsComplete : Obligations.SwialeAccumulatorInstructionsComplete := by
  unfold Obligations.SwialeAccumulatorInstructionsComplete
  refine ⟨?mac, ?msu, ?mpy, ?mpyn, ?macs, ?msus, ?mpys, ?lda, ?accadd, ?accsub, ?clr, ?nega, ?mova, ?sra, ?expa, ?pushal,
    ?pushah, ?pushag, ?norma, ?popacc, ?staccPush, ?staccStore, ?staccFar⟩
  case mac =>
    rintro s c len k _ acc ax ay mx my xv yv _ _ kx k2 ecc stall h - hx hy rfl rfl
    exact next_finishes rfl h rfl (Core.macForm_of_reads (· + ·) (gives_iff.1 hx) (gives_iff.1 hy))
  case msu =>
    rintro s c len k _ acc ax ay mx my xv yv _ _ kx k2 ecc stall h - hx hy rfl rfl
    exact next_finishes rfl h rfl (Core.macForm_of_reads (· - ·) (gives_iff.1 hx) (gives_iff.1 hy))
  case mpy =>
    rintro s c len k _ acc ax ay mx my xv yv _ _ kx k2 ecc stall h - hx hy rfl rfl
    exact next_finishes rfl h rfl (Core.macForm_of_reads (fun _ p => p) (gives_iff.1 hx) (gives_iff.1 hy))
  case mpyn =>
    rintro s c len k _ acc ax ay mx my xv yv _ _ kx k2 ecc stall h - hx hy rfl rfl
    exact next_finishes rfl h rfl (Core.macForm_of_reads (fun _ p => -p) (gives_iff.1 hx) (gives_iff.1 hy))
  case macs =>
    intro s c len k k1 acc a b r stall h hn hs
    exact next_finishes rfl h rfl (Core.accMul_of_need (· + ·) (gives_iff.1 hn) hs)
  case msus =>
    intro s c len k k1 acc a b r stall h hn hs
    exact next_finishes rfl h rfl (Core.accMul_of_need (· - ·) (gives_iff.1 hn) hs)
  case mpys =>
    intro s c len k k1 acc a b r stall h hn hs
    exact next_finishes rfl h rfl (Core.accMul_of_need (fun _ p => p) (gives_iff.1 hn) hs)
  case lda =>
    intro s c len k k1 acc sh a r stall h hn hs
    exact next_finishes rfl h rfl (Core.accShift_of_need (fun _ v => v) (gives_iff.1 hn) hs)
  case accadd =>
    intro s c len k k1 acc sh a r stall h hn hs
    exact next_finishes rfl h rfl (Core.accShift_of_need (· + ·) (gives_iff.1 hn) hs)
  case accsub =>
    intro s c len k k1 acc sh a r stall h hn hs
    exact next_finishes rfl h rfl (Core.accShift_of_need (· - ·) (gives_iff.1 hn) hs)
  case clr =>
    rintro s c len _ k acc stall h rfl
    exact next_finishes rfl h rfl rfl
  case nega =>
    rintro s c len _ k acc stall h rfl
    exact next_finishes rfl h rfl rfl
  case mova =>
    rintro s c len _ k acc stall h rfl
    exact next_finishes rfl h rfl rfl
  case sra =>
    rintro s c len _ k acc sh stall h rfl
    exact next_finishes rfl h rfl (by rw [Core.operate, Int.natCast_pow]; rfl)
  case expa =>
    rintro s c len _ k acc k2 stall h rfl hp
    exact next_give (BitVec.ofNat 32 (redundant 72 (k.accOf acc))) rfl h rfl rfl hp
  case pushal =>
    rintro s c len _ k acc k2 stall h rfl hp
    exact next_give (wOf (k.accOf acc)) rfl h rfl rfl hp
  case pushah =>
    rintro s c len _ k acc k2 stall h rfl hp
    exact next_give (wOf (k.accOf acc / ((2 ^ 32 : Nat) : Int))) rfl h rfl rfl hp
  case pushag =>
    rintro s c len _ k acc k2 stall h rfl hp
    exact next_give (wOf (k.accOf acc / ((2 ^ 64 : Nat) : Int))) rfl h rfl rfl hp
  case norma =>
    rintro s c len _ k acc k2 stall h rfl hp
    exact next_finishes rfl h rfl (Core.norma_of_push (gives_iff.1 hp))
  case popacc =>
    intro s c len k k1 acc g h l r stall hbegins hn hs
    exact next_finishes rfl hbegins rfl (Core.popacc_of_need (gives_iff.1 hn) hs)
  case staccPush =>
    rintro s c len _ k acc a m pm sh v kv k2 stall h rfl hsat hp
    exact next_finishes rfl h rfl (Core.stacc_push hsat (gives_iff.1 hp))
  case staccStore =>
    rintro s c len _ k acc a m pm sh v kv stall h rfl hsat halign
    exact next_finishes rfl h rfl (Core.stacc_store hsat halign)
  case staccFar =>
    rintro s c len _ k acc a m pm sh v w r kv k2 stall h rfl hsat hn hs hremote hroom
    exact next_finishes rfl h rfl (Core.stacc_far hsat (gives_iff.1 hn) hs hremote hroom)

/-! ### Control flow -/

/-- Settles O24. -/
theorem swialeControlFlowInstructionsComplete : Obligations.SwialeControlFlowInstructionsComplete := by
  unfold Obligations.SwialeControlFlowInstructionsComplete
  refine ⟨?beq, ?beqNot, ?bne, ?bneNot, ?blt, ?bltNot, ?bge, ?bgeNot, ?bltu, ?bltuNot, ?bgeu, ?bgeuNot, ?bz, ?bzNot, ?bnz,
    ?bnzNot, ?bneg, ?bnegNot, ?br, ?call, ?jr, ?callr, ?ret, ?rti, ?lpop, ?loop, ?loopZero, ?loopt, ?looptZero, ?rep, ?rept⟩
  case beq =>
    intro s c len k k1 off a b r tgt stall h hn hs hrel ht hle heven
    exact next_finishes rfl h rfl (Core.branch_taken (c := Core.cmp2 (· = ·)) (l := [b, a]) (gives_iff.1 hn) hs rfl
      (by simpa [Core.cmp2] using hrel) ht hle heven)
  case beqNot =>
    intro s c len k k1 off a b r stall h hn hs hrel
    exact next_finishes rfl h rfl (Core.branch_untaken (c := Core.cmp2 (· = ·)) (l := [b, a]) off (gives_iff.1 hn) hs rfl
      (by simpa [Core.cmp2] using hrel))
  case bne =>
    intro s c len k k1 off a b r tgt stall h hn hs hrel ht hle heven
    exact next_finishes rfl h rfl (Core.branch_taken (c := Core.cmp2 (· ≠ ·)) (l := [b, a]) (gives_iff.1 hn) hs rfl
      (by simpa [Core.cmp2] using hrel) ht hle heven)
  case bneNot =>
    intro s c len k k1 off a b r stall h hn hs hrel
    exact next_finishes rfl h rfl (Core.branch_untaken (c := Core.cmp2 (· ≠ ·)) (l := [b, a]) off (gives_iff.1 hn) hs rfl
      (by simpa [Core.cmp2] using hrel))
  case blt =>
    intro s c len k k1 off a b r tgt stall h hn hs hrel ht hle heven
    exact next_finishes rfl h rfl
      (Core.branch_taken (c := Core.cmp2 (fun a b => wInt a < wInt b)) (l := [b, a]) (gives_iff.1 hn) hs rfl
      (by simpa [Core.cmp2, wInt_eq_toInt] using hrel) ht hle heven)
  case bltNot =>
    intro s c len k k1 off a b r stall h hn hs hrel
    exact next_finishes rfl h rfl
      (Core.branch_untaken (c := Core.cmp2 (fun a b => wInt a < wInt b)) (l := [b, a]) off (gives_iff.1 hn) hs rfl
      (by simpa [Core.cmp2, wInt_eq_toInt] using hrel))
  case bge =>
    intro s c len k k1 off a b r tgt stall h hn hs hrel ht hle heven
    exact next_finishes rfl h rfl
      (Core.branch_taken (c := Core.cmp2 (fun a b => wInt a ≥ wInt b)) (l := [b, a]) (gives_iff.1 hn) hs rfl
      (by simpa [Core.cmp2, wInt_eq_toInt] using hrel) ht hle heven)
  case bgeNot =>
    intro s c len k k1 off a b r stall h hn hs hrel
    exact next_finishes rfl h rfl
      (Core.branch_untaken (c := Core.cmp2 (fun a b => wInt a ≥ wInt b)) (l := [b, a]) off (gives_iff.1 hn) hs rfl
      (by simpa [Core.cmp2, wInt_eq_toInt] using hrel))
  case bltu =>
    intro s c len k k1 off a b r tgt stall h hn hs hrel ht hle heven
    exact next_finishes rfl h rfl
      (Core.branch_taken (c := Core.cmp2 (fun a b => a.toNat < b.toNat)) (l := [b, a]) (gives_iff.1 hn) hs rfl
      (by simpa [Core.cmp2] using hrel) ht hle heven)
  case bltuNot =>
    intro s c len k k1 off a b r stall h hn hs hrel
    exact next_finishes rfl h rfl
      (Core.branch_untaken (c := Core.cmp2 (fun a b => a.toNat < b.toNat)) (l := [b, a]) off (gives_iff.1 hn) hs rfl
      (by simpa [Core.cmp2] using hrel))
  case bgeu =>
    intro s c len k k1 off a b r tgt stall h hn hs hrel ht hle heven
    exact next_finishes rfl h rfl
      (Core.branch_taken (c := Core.cmp2 (fun a b => a.toNat ≥ b.toNat)) (l := [b, a]) (gives_iff.1 hn) hs rfl
      (by simpa [Core.cmp2] using hrel) ht hle heven)
  case bgeuNot =>
    intro s c len k k1 off a b r stall h hn hs hrel
    exact next_finishes rfl h rfl
      (Core.branch_untaken (c := Core.cmp2 (fun a b => a.toNat ≥ b.toNat)) (l := [b, a]) off (gives_iff.1 hn) hs rfl
      (by simpa [Core.cmp2] using hrel))
  case bz =>
    intro s c len k k1 off a r tgt stall h hn hs hrel ht hle heven
    exact next_finishes rfl h rfl (Core.branch_taken (c := fun l => l.getD 0 0 = 0) (l := [a]) (gives_iff.1 hn) hs rfl
      (by simpa using hrel) ht hle heven)
  case bzNot =>
    intro s c len k k1 off a r stall h hn hs hrel
    exact next_finishes rfl h rfl
      (Core.branch_untaken (c := fun l => l.getD 0 0 = 0) (l := [a]) off (gives_iff.1 hn) hs rfl
      (by simpa using hrel))
  case bnz =>
    intro s c len k k1 off a r tgt stall h hn hs hrel ht hle heven
    exact next_finishes rfl h rfl (Core.branch_taken (c := fun l => l.getD 0 0 ≠ 0) (l := [a]) (gives_iff.1 hn) hs rfl
      (by simpa using hrel) ht hle heven)
  case bnzNot =>
    intro s c len k k1 off a r stall h hn hs hrel
    exact next_finishes rfl h rfl
      (Core.branch_untaken (c := fun l => l.getD 0 0 ≠ 0) (l := [a]) off (gives_iff.1 hn) hs rfl
      (by simpa using hrel))
  case bneg =>
    intro s c len k k1 off a r tgt stall h hn hs hrel ht hle heven
    exact next_finishes rfl h rfl
      (Core.branch_taken (c := fun l => wInt (l.getD 0 0) < 0) (l := [a]) (gives_iff.1 hn) hs rfl
      (by simpa [wInt_eq_toInt] using hrel) ht hle heven)
  case bnegNot =>
    intro s c len k k1 off a r stall h hn hs hrel
    exact next_finishes rfl h rfl
      (Core.branch_untaken (c := fun l => wInt (l.getD 0 0) < 0) (l := [a]) off (gives_iff.1 hn) hs rfl
      (by simpa [wInt_eq_toInt] using hrel))
  case br =>
    rintro s c len _ k off tgt stall h rfl ht hle heven
    exact next_finishes rfl h rfl (Core.branch_taken (c := fun _ => true) (n := 0) (l := []) rfl rfl rfl rfl ht hle heven)
  case call =>
    rintro s c len _ k off tgt k2 stall h rfl ht hle heven hp
    exact next_finishes rfl h rfl (Core.call_legal ht hle heven (gives_iff.1 hp))
  case jr =>
    intro s c len k k1 w r stall h hn hs hle heven
    exact next_finishes rfl h rfl (Core.jr_legal (gives_iff.1 hn) hs hle heven)
  case callr =>
    intro s c len k k1 w r k2 stall h hn hs hle heven hp
    exact next_finishes rfl h rfl (Core.callr_legal (gives_iff.1 hn) hs hle heven (gives_iff.1 hp))
  case ret =>
    rintro s c len _ k w k2 stall h rfl hp hle heven
    exact next_finishes rfl h rfl (Core.ret_legal (gives_iff.1 hp) hle heven)
  case rti =>
    rintro s c len _ k st w k2 k3 stall h rfl hst hp
    exact next_finishes rfl h rfl (Core.rti_of_rpops (gives_iff.1 hst) (gives_iff.1 hp))
  case lpop =>
    rintro s c len _ k e es stall h rfl hloops
    exact next_finishes rfl h rfl (Core.lpop_cons hloops)
  case loop =>
    rintro s c len _ k n endOff stall h rfl h2 hle hn hroom
    exact next_finishes rfl h rfl (Core.loop_legal h2 hle (Core.loopSet_counted endOff hn hroom))
  case loopZero =>
    rintro s c len _ k endOff stall h rfl h2 hle
    exact next_finishes rfl h rfl (Core.loop_legal h2 hle (Core.loopSet_zero k endOff))
  case loopt =>
    intro s c len k k1 endOff w r stall h hn h2 hle hs hw hroom
    exact next_finishes rfl h rfl (Core.loopt_legal h2 hle (gives_iff.1 hn) hs
      (Core.loopSet_counted (k := { k1 with stack := r }) endOff hw hroom))
  case looptZero =>
    intro s c len k k1 endOff w r stall h hn h2 hle hs hw
    exact next_finishes rfl h rfl (Core.loopt_legal h2 hle (gives_iff.1 hn) hs
      (by rw [hw]; exact Core.loopSet_zero ..))
  case rep =>
    rintro s c len _ k n stall h rfl hn hle
    exact next_finishes rfl h rfl (Core.repSet_within hn hle)
  case rept =>
    intro s c len k k1 w r stall h hn hs hw hle
    exact next_finishes rfl h rfl (Core.rept_of_need (gives_iff.1 hn) hs
      (Core.repSet_within (k := { k1 with stack := r }) hw hle))

/-! ### Waiting, entries, the write buffer and the watchdog (R355, R368, R371, R372) -/

/-- A fetch that raises an exception raises it in the core (R376, R378). -/
theorem coreBadFetch_raises {s : State} {c : Nat} {ecc : Option (Nat × Bool)} {e : Exn} (hready : s.coreReady c = true)
    (hfetch : raises ((coreEcc (s.coreGet c) ecc).fetch (coreEcc (s.coreGet c) ecc).pc) e = true) :
    s.coreBadFetch c ecc = (s.coreSet c (coreEcc (s.coreGet c) ecc)).coreRaise c e := by
  simp only [coreBadFetch, hready, raises_iff.1 hfetch, Bool.not_true, Bool.false_eq_true, if_false]

theorem coreEnter_taken {s : State} {c vector : Nat} {k k1 : Core} (f : Core → Core) (h : k.enter k.pc vector = .ok k1) :
    s.coreEnter c k vector f = s.corePut c (f k1) := by
  simp only [coreEnter, h]

theorem coreInterrupt_due {s : State} {c n : Nat} {k : Core} (hboundary : s.atBoundary c = true)
    (hnmi : s.nmiPending c = false) (herr : (s.coreGet c).stErr = []) (hline : s.irqLine c = some n)
    (henter : (s.coreGet c).enter (s.coreGet c).pc (8 * n) = .ok k) : s.coreInterrupt c =
      s.corePut c { k with events := if n < 8 then setBit k.events n false else k.events } := by
  simp only [coreInterrupt, hboundary, hnmi, herr, hline, List.isEmpty_nil, Bool.not_true, Bool.or_self, Bool.false_eq_true,
    if_false]
  exact coreEnter_taken _ henter

theorem coreNmi_due {s : State} {k : Core} (hboundary : s.atBoundary 10 = true) (hnmi : s.nmiPending 10 = true)
    (henter : (s.coreGet 10).enter (s.coreGet 10).pc 0x100 = .ok k) :
    s.coreNmi = s.corePut 10 { k with nmiAct := true } := by
  simp only [coreNmi, mcCore, hboundary, hnmi, Bool.and_self, if_true]
  exact coreEnter_taken _ henter

theorem bufferIssue_oldest {s : State} {c : Nat} {r : StoreReq} {rs : List StoreReq} (hc : c < 12)
    (hwbuf : (s.coreGet c).wbuf = r :: rs) : s.bufferIssue c =
      s.coreSet c { s.coreGet c with wbuf := rs, flight := (s.coreGet c).flight ++ [r] } := by
  simp only [bufferIssue, hwbuf, hc, if_true]

theorem waitWake_over {s : State} {c : Nat} (n : Nat) (hc : c < 12) (hrun : (s.coreGet c).run = .wait)
    (hover : s.waitOver c = true) (hpower : s.pmu.isolated = false) : s.waitWake c n =
      s.coreSet c { s.coreGet c with run := .running, cycle := (s.coreGet c).cycle + n } := by
  simp only [waitWake, hc, hrun, hover, hpower, Bool.not_false, and_self, if_true]

/-- The watchdog of core `c` counts and has counted its period. -/
structure WatchdogDue (s : State) (c : Nat) : Prop where
  counted : c < 11
  counts : (s.coreGet c).run ≠ .held ∨ c = 10
  period : s.fld (F.CORE_WDT_PERIOD c) ≠ 0
  elapsed : s.fld (F.CORE_WDT_PERIOD c) ≤ s.wdtCount c

theorem WatchdogDue.not_idle {s : State} {c : Nat} (h : WatchdogDue s c) :
    ¬ (11 ≤ c ∨ ((s.coreGet c).run = .held ∧ c ≠ mcCore) ∨ s.fld (F.CORE_WDT_PERIOD c) = 0 ∨
      s.wdtCount c < s.fld (F.CORE_WDT_PERIOD c)) := by
  obtain ⟨hc, hcounts, hperiod, helapsed⟩ := h
  unfold mcCore
  rintro (hc' | ⟨hheld, hmc⟩ | hzero | hearly)
  · omega
  · exact hcounts.elim (fun hrun => hrun hheld) hmc
  · exact hperiod hzero
  · omega

theorem coreWatchdog_warns {s : State} {c : Nat} (h : WatchdogDue s c) (hwarned : (s.coreGet c).wdtWarned = false) :
    s.coreWatchdog c =
      ((s.coreSet c { s.coreGet c with wdtAt := s.aon.raw, wdtWarned := true }).coreLine c 3).irq (P.CORE c) 1 := by
  unfold coreWatchdog
  simp only [if_neg h.not_idle, hwarned, Bool.false_eq_true, if_false]

/-- A second expiry is recorded; then every core but MC is held and disabled. -/
theorem coreWatchdog_again {s : State} {c : Nat} (h : WatchdogDue s c) (hwarned : (s.coreGet c).wdtWarned = true) :
    s.coreWatchdog c =
      if c = mcCore then (s.coreSet c { s.coreGet c with wdtAt := s.aon.raw, wdtWarned := false }).sticky (P.CORE c) 9
      else (((s.coreSet c { s.coreGet c with wdtAt := s.aon.raw, wdtWarned := false }).sticky (P.CORE c) 9).coreHold
        c).setFlag (F.CTRL_ENABLE (P.CORE c)) false := by
  unfold coreWatchdog
  simp only [if_neg h.not_idle, hwarned, if_true]

theorem drained_of_empty {k : Core} (hwbuf : k.wbuf = []) (hflight : k.flight = []) (hhand : k.hand = 0) :
    k.drained = true := by
  simp [Core.drained, hwbuf, hflight, hhand]

/-- Settles O25. That a second expiry also clears ENABLE of the core's page is the model's reading (log entry 39). -/
theorem swialeSystemCommandsComplete : Obligations.SwialeSystemCommandsComplete := by
  unfold Obligations.SwialeSystemCommandsComplete
  refine ⟨?fence, ?wait, ?waitOver, ?trap, ?undefined, ?interrupt, ?nmi, ?issue, ?wake, ?warns, ?holds, ?flagsMc⟩
  case fence =>
    rintro s c len _ k stall h rfl hwbuf hflight hhand
    exact next_finishes rfl h rfl (if_pos (drained_of_empty hwbuf hflight hhand))
  case wait =>
    rintro s c len _ k stall h rfl hover
    exact next_finishes rfl h rfl (by rw [Core.operate, hover]; rfl)
  case waitOver =>
    rintro s c len _ k stall h rfl hover
    exact next_finishes rfl h rfl (by rw [Core.operate, hover]; rfl)
  case trap =>
    rintro s c len _ k f stall h rfl
    exact next_settle_of_eq rfl (coreStep_raises h rfl rfl)
  case undefined =>
    intro s c ecc e hready hfetch
    exact next_settle_of_eq rfl (coreBadFetch_raises hready hfetch)
  case interrupt =>
    intro s c n k hboundary hnmi herr hline henter
    exact next_settle_of_eq rfl (coreInterrupt_due hboundary hnmi herr hline (gives_iff.1 henter))
  case nmi =>
    intro s k hboundary hnmi henter
    exact next_settle_of_eq rfl (coreNmi_due hboundary hnmi (gives_iff.1 henter))
  case issue =>
    intro s c r rs hc hwbuf
    exact next_settle_of_eq rfl (bufferIssue_oldest hc hwbuf)
  case wake =>
    intro s c cycles hc hrun hover hpower
    exact next_settle_of_eq rfl (waitWake_over cycles hc hrun hover hpower)
  case warns =>
    rintro s c edges _ rfl hc hcounts hperiod helapsed hwarned
    exact next_settle_of_eq rfl (coreWatchdog_warns ⟨hc, hcounts, hperiod, helapsed⟩ hwarned)
  case holds =>
    rintro s c edges _ rfl hc hcounts hperiod helapsed hwarned hmc
    exact next_settle_of_eq rfl ((coreWatchdog_again ⟨hc, hcounts, hperiod, helapsed⟩ hwarned).trans (if_neg hmc))
  case flagsMc =>
    rintro s c edges _ rfl hc hcounts hperiod helapsed hwarned hmc
    exact next_settle_of_eq rfl ((coreWatchdog_again ⟨hc, hcounts, hperiod, helapsed⟩ hwarned).trans (if_pos hmc))

end State
end Sys2Proof.Machine
end

