-- ==== Sys2Proof/Proofs/MemoryDma.lean ====
section
/-! PROOF. Shared SRAM, its handovers and the DMA engine (chapter 16): what a bank access, a handover and an event of a
channel do and leave unchanged (R397 to R403, R411 to R418, R542). -/

namespace Sys2Proof.Machine

/-! ### The bytes of a value (R403) -/

theorem leBytes_getD (n v j : Nat) (hj : j < n) : (leBytes n v).getD j 0 = BitVec.ofNat 8 (v / 2 ^ (8 * j)) := by
  induction n generalizing v j with
  | zero => exact absurd hj (Nat.not_lt_zero j)
  | succ n ih =>
    cases j with
    | zero => simp [leBytes]
    | succ j =>
      rw [leBytes, List.getD_cons_succ, ih _ _ (Nat.lt_of_succ_lt_succ hj), Nat.div_div_eq_div_mul, Nat.mul_succ, Nat.pow_add,
        Nat.mul_comm 256]

theorem leValue_byte (l : List Byte) (j : Nat) : leValue l / 2 ^ (8 * j) % 256 = (l.getD j 0).toNat := by
  induction l generalizing j with
  | nil => simp [leValue]
  | cons b l ih =>
    have hb : b.toNat < 256 := b.isLt
    cases j with
    | zero =>
      rw [leValue, List.getD_cons_zero, Nat.mul_zero, Nat.pow_zero, Nat.div_one]
      omega
    | succ j =>
      have hshift : leValue (b :: l) / 256 = leValue l := by
        rw [leValue]
        omega
      rw [List.getD_cons_succ, ← ih, Nat.mul_succ, Nat.add_comm, Nat.pow_add, ← Nat.div_div_eq_div_mul]
      exact congrArg (· / 2 ^ (8 * j) % 256) hshift

/-- The number of four bytes and a rest above them. -/
def quad (b0 b1 b2 b3 r : Nat) : Nat := b0 + 256 * b1 + 65536 * b2 + 16777216 * b3 + 4294967296 * r

theorem exists_quad (v : Nat) : ∃ b0 b1 b2 b3 r : Nat, b0 < 256 ∧ b1 < 256 ∧ b2 < 256 ∧ b3 < 256 ∧ v = quad b0 b1 b2 b3 r :=
  ⟨v % 256, v / 256 % 256, v / 65536 % 256, v / 16777216 % 256, v / 4294967296, by unfold quad; omega⟩

section
variable {b0 b1 b2 b3 : Nat} (h0 : b0 < 256) (h1 : b1 < 256) (h2 : b2 < 256) (h3 : b3 < 256)
include h0 h1 h2 h3

theorem quad_byte (r : Nat) {j : Nat} (hj : j < 4) : quad b0 b1 b2 b3 r / 2 ^ (8 * j) % 256 = [b0, b1, b2, b3].getD j 0 := by
  unfold quad
  interval_cases j
  · show _ / 1 % 256 = b0
    omega
  · show _ / 256 % 256 = b1
    omega
  · show _ / 65536 % 256 = b2
    omega
  · show _ / 16777216 % 256 = b3
    omega

theorem rotLeft_zero_quad (r : Nat) : rotLeft (quad b0 b1 b2 b3 r) 0 = quad b0 b1 b2 b3 0 := by
  unfold rotLeft quad
  norm_num
  omega

theorem rotLeft_one_quad (r : Nat) : rotLeft (quad b0 b1 b2 b3 r) 1 = quad b3 b0 b1 b2 0 := by
  have hup : quad b0 b1 b2 b3 r * 256 % 4294967296 = quad 0 b0 b1 b2 0 := by unfold quad; omega
  have hdown : quad b0 b1 b2 b3 r % 4294967296 / 16777216 = b3 := by unfold quad; omega
  show quad b0 b1 b2 b3 r * 256 % 4294967296 + quad b0 b1 b2 b3 r % 4294967296 / 16777216 = _
  rw [hup, hdown]
  unfold quad
  omega

theorem rotLeft_two_quad (r : Nat) : rotLeft (quad b0 b1 b2 b3 r) 2 = quad b2 b3 b0 b1 0 := by
  have hup : quad b0 b1 b2 b3 r * 65536 % 4294967296 = quad 0 0 b0 b1 0 := by unfold quad; omega
  have hdown : quad b0 b1 b2 b3 r % 4294967296 / 65536 = quad b2 b3 0 0 0 := by unfold quad; omega
  show quad b0 b1 b2 b3 r * 65536 % 4294967296 + quad b0 b1 b2 b3 r % 4294967296 / 65536 = _
  rw [hup, hdown]
  unfold quad
  omega

theorem rotLeft_three_quad (r : Nat) : rotLeft (quad b0 b1 b2 b3 r) 3 = quad b1 b2 b3 b0 0 := by
  have hup : quad b0 b1 b2 b3 r * 16777216 % 4294967296 = quad 0 0 0 b0 0 := by unfold quad; omega
  have hdown : quad b0 b1 b2 b3 r % 4294967296 / 256 = quad b1 b2 b3 0 0 := by unfold quad; omega
  show quad b0 b1 b2 b3 r * 16777216 % 4294967296 + quad b0 b1 b2 b3 r % 4294967296 / 256 = _
  rw [hup, hdown]
  unfold quad
  omega

end

/-- A rotation by `k` lanes brings byte `j` to lane `k + j` modulo 4. -/
theorem rotLeft_byte (v : Nat) {k j : Nat} (hk : k < 4) (hj : j < 4) :
    rotLeft v k / 2 ^ (8 * ((k + j) % 4)) % 256 = v / 2 ^ (8 * j) % 256 := by
  obtain ⟨b0, b1, b2, b3, r, h0, h1, h2, h3, rfl⟩ := exists_quad v
  have hlane : (k + j) % 4 < 4 := Nat.mod_lt _ (by decide)
  rw [quad_byte h0 h1 h2 h3 r hj]
  interval_cases k
  · rw [rotLeft_zero_quad h0 h1 h2 h3, quad_byte h0 h1 h2 h3 0 hlane]
    interval_cases j <;> rfl
  · rw [rotLeft_one_quad h0 h1 h2 h3, quad_byte h3 h0 h1 h2 0 hlane]
    interval_cases j <;> rfl
  · rw [rotLeft_two_quad h0 h1 h2 h3, quad_byte h2 h3 h0 h1 0 hlane]
    interval_cases j <;> rfl
  · rw [rotLeft_three_quad h0 h1 h2 h3, quad_byte h1 h2 h3 h0 0 hlane]
    interval_cases j <;> rfl

namespace State

theorem sramBytes_getD (s : State) (a n j : Nat) (hj : j < n) : (s.sramBytes a n).getD j 0 = s.sramByte (a + j) := by
  induction n generalizing a j with
  | zero => exact absurd hj (Nat.not_lt_zero j)
  | succ n ih =>
    cases j with
    | zero => rfl
    | succ j => rw [sramBytes, List.getD_cons_succ, ih _ _ (Nat.lt_of_succ_lt_succ hj), Nat.add_assoc, Nat.add_comm 1]

theorem sramValue_byte (s : State) (a n j : Nat) (hj : j < n) :
    s.sramValue a n / 2 ^ (8 * j) % 256 = (s.sramByte (a + j)).toNat :=
  (leValue_byte _ j).trans (congrArg _ (sramBytes_getD s a n j hj))

theorem sramByte_sramSetValue_in (s : State) (a n v j : Nat) (hj : j < n) :
    (s.sramSetValue a n v).sramByte (a + j) = BitVec.ofNat 8 (v / 2 ^ (8 * j)) := by
  rw [sramSetValue, sramByte_sramSetBytes_in _ _ _ (Nat.le_add_right a j) (by rw [leBytes_length]; omega),
    Nat.add_sub_cancel_left, leBytes_getD n v j hj]

theorem sramByte_sramSetValue_out (s : State) (a n v : Nat) {y : Nat} (h : y < a ∨ a + n ≤ y) :
    (s.sramSetValue a n v).sramByte y = s.sramByte y :=
  sramByte_sramSetBytes_out _ _ _ (by rwa [leBytes_length])

/-! ### One access of a bank (R397, R403, R542) -/

theorem bankAccess_served {s : State} {x : Access} (h : s.bankCheck x = .served) :
    s.bankAccess x = ((s.bankDo x).1, .served, (s.bankDo x).2) := by
  unfold bankAccess
  rw [h]

theorem bankAccess_refused {s : State} {x : Access} (h : s.bankCheck x ≠ .served) :
    s.bankAccess x = (s.bankFail x (s.bankCheck x), s.bankCheck x, 0) := by
  unfold bankAccess
  split
  · contradiction
  · rfl

theorem sramByte_of_sram {s t : State} (h : t.mem.sram = s.mem.sram) (y : Nat) : t.sramByte y = s.sramByte y := by
  unfold sramByte
  rw [h]

/-- A write outside rotate mode stores its bytes at its address. -/
theorem bankDo_write (s : State) {x : Access} (hw : x.write = true)
    (hr : (s.bankRot ((bankOf x.addr).getD 0) && decide (x.size = 4)) = false) :
    (s.bankDo x).1.mem.sram = (s.sramSetValue x.addr x.size x.value).mem.sram := by
  unfold bankDo
  dsimp only
  rw [if_pos hw]
  split
  · exact congrArg (fun m => Sparse.setRange 0 m x.addr (leBytes x.size x.value))
      ((eccClear_sram ..).trans (congrArg Mem.sram (eccCount_mem ..)))
  · split
    · next h => simp [h.1, h.2.1] at hr
    · rfl

/-- A word write in rotate mode stores its bytes in the lanes of the aligned word, byte `j` in the lane of its address. -/
theorem bankDo_write_rot (s : State) {x : Access} (hw : x.write = true)
    (hr : (s.bankRot ((bankOf x.addr).getD 0) && decide (x.size = 4)) = true) :
    ∃ v, (s.bankDo x).1.mem.sram = (s.sramSetValue (x.addr / 4 * 4) 4 v).mem.sram ∧
      ∀ j < 4, v / 2 ^ (8 * ((x.addr + j) % 4)) % 256 = x.value / 2 ^ (8 * j) % 256 := by
  obtain ⟨hrot, hsize⟩ := Bool.and_eq_true_iff.1 hr
  have hsize : x.size = 4 := of_decide_eq_true hsize
  unfold bankDo
  dsimp only
  rw [if_pos hw, if_neg (by omega : ¬ x.size < 4)]
  by_cases hk : x.addr % 4 = 0
  · rw [if_neg (fun h => h.2.2 hk)]
    refine ⟨x.value, ?_, fun j hj => ?_⟩
    · rw [hsize, show x.addr / 4 * 4 = x.addr by omega]
      rfl
    · rw [show (x.addr + j) % 4 = j by omega]
  · rw [if_pos ⟨hrot, hsize, hk⟩]
    refine ⟨rotLeft x.value (x.addr % 4), rfl, fun j hj => ?_⟩
    rw [show (x.addr + j) % 4 = (x.addr % 4 + j) % 4 by omega]
    exact rotLeft_byte _ (Nat.mod_lt _ (by decide)) hj

theorem bankDo_read_sram (s : State) {x : Access} (hw : x.write = false) : (s.bankDo x).1.mem.sram = s.mem.sram := by
  have hw' : ¬ x.write = true := by simp [hw]
  unfold bankDo
  dsimp only
  rw [if_neg hw']
  split
  · exact congrArg Mem.sram (eccCount_mem ..)
  · exact congrArg Mem.sram (eccCount_mem ..)

theorem bankDo_read (s : State) {x : Access} (hw : x.write = false)
    (hr : (s.bankRot ((bankOf x.addr).getD 0) && decide (x.size = 4)) = false) :
    (s.bankDo x).2 = s.sramValue x.addr x.size := by
  have hw' : ¬ x.write = true := by simp [hw]
  unfold bankDo
  dsimp only
  rw [if_neg hw']
  split
  · next h => simp [h.1, h.2.1] at hr
  · rfl

/-- A word read in rotate mode returns the bytes of the aligned word from the lane of its address on. -/
theorem bankDo_read_rot (s : State) {x : Access} (hw : x.write = false)
    (hr : (s.bankRot ((bankOf x.addr).getD 0) && decide (x.size = 4)) = true) {j : Nat} (hj : j < 4) :
    (s.bankDo x).2 / 2 ^ (8 * j) % 256 = (s.sramByte (x.addr / 4 * 4 + (x.addr + j) % 4)).toNat := by
  obtain ⟨hrot, hsize⟩ := Bool.and_eq_true_iff.1 hr
  have hsize : x.size = 4 := of_decide_eq_true hsize
  have hw' : ¬ x.write = true := by simp [hw]
  unfold bankDo
  dsimp only
  rw [if_neg hw']
  by_cases hk : x.addr % 4 = 0
  · rw [if_neg (fun h => h.2.2 hk), hsize, sramValue_byte _ _ _ _ hj,
      show x.addr / 4 * 4 + (x.addr + j) % 4 = x.addr + j by omega]
  · rw [if_pos ⟨hrot, hsize, hk⟩]
    have hlane : (x.addr + j) % 4 < 4 := Nat.mod_lt _ (by decide)
    have hrotate := rotLeft_byte (s.sramValue (x.addr / 4 * 4) 4) (k := 4 - x.addr % 4) (by omega) hlane
    rw [show (4 - x.addr % 4 + (x.addr + j) % 4) % 4 = j by omega] at hrotate
    exact hrotate.trans (sramValue_byte _ _ _ _ hlane)

/-- A bank access alone on port P, which no handover holds, ends with the response and the data of its checks. -/
theorem next_portAccess {s : State} {x : BankReq} {t : State} {r : Resp} {v : Nat} (hx : x.init ≠ Init.DMA)
    (hheld : s.bankHolds ⟨x.init, x.write, x.addr, x.size, x.value⟩ = false)
    (ha : s.bankAccess ⟨x.init, x.write, x.addr, x.size, x.value⟩ = (t, r, v)) :
    exec (.bankAccess none (some x) none) s =
      .next (settle { t with resp := r, rdata := BitVec.ofNat 32 v, mem := { t.mem with rdataP := v } }) := by
  refine next_settle_of_eq rfl ?_
  have hport : portReq false (some x) = some ⟨x.init, x.write, x.addr, x.size, x.value⟩ := if_pos (by simp [hx])
  show s.bankPresentSlot (portReq false (some x)) none = _
  rw [hport]
  show s.bankPresent _ = _
  rw [bankPresent, hheld, ha]
  simp [bankRecord, hx]

/-- The same access on port D. -/
theorem next_dmaAccess {s : State} {x : BankReq} {t : State} {r : Resp} {v : Nat} (hx : x.init = Init.DMA)
    (hheld : s.bankHolds ⟨x.init, x.write, x.addr, x.size, x.value⟩ = false)
    (ha : s.bankAccess ⟨x.init, x.write, x.addr, x.size, x.value⟩ = (t, r, v)) :
    exec (.bankAccess none none (some x)) s =
      .next (settle { t with mem := { t.mem with respD := r, rdataD := v } }) := by
  refine next_settle_of_eq rfl ?_
  have hport : portReq true (some x) = some ⟨x.init, x.write, x.addr, x.size, x.value⟩ := if_pos (by simp [hx])
  show s.bankPresentSlot none (portReq true (some x)) = _
  rw [hport]
  show s.bankPresent _ = _
  rw [bankPresent, hheld, ha]
  simp [bankRecord, hx]

/-- Settles O57: the access is refused by a check, a read, or a write, and in rotate mode or not. -/
theorem bankAccessesWriteTheirBytesOnly : Obligations.BankAccessesWriteTheirBytesOnly := by
  unfold Obligations.BankAccessesWriteTheirBytesOnly
  rintro s x b hx rfl hheld
  set y : Access := ⟨x.init, x.write, x.addr, x.size, x.value⟩
  by_cases hc : s.bankCheck y = .served
  · refine ⟨_, next_portAccess hx hheld (bankAccess_served hc), ?_⟩
    simp only [settle_resp, settle_sramByte, settle_mem]
    refine ⟨hc.symm, fun _ hw hr => ?write, fun _ hw hr => ?writeRot, fun _ hw hr j hj => ?read, fun _ hw hr j hj => ?readRot,
      fun h => ?kept⟩
    case write =>
      have hstored (a : Nat) := sramByte_of_sram (bankDo_write s (x := y) hw hr) a
      exact ⟨fun j hj => (hstored _).trans (sramByte_sramSetValue_in _ _ _ _ _ hj),
        fun a ha => (hstored a).trans (sramByte_sramSetValue_out _ _ _ _ ha)⟩
    case writeRot =>
      obtain ⟨v, e, hv⟩ := bankDo_write_rot s (x := y) hw hr
      have hstored (a : Nat) := sramByte_of_sram e a
      refine ⟨fun j hj => ?_, fun a ha => (hstored a).trans (sramByte_sramSetValue_out _ _ _ _ ha)⟩
      refine ((hstored _).trans (sramByte_sramSetValue_in _ _ _ _ _ (Nat.mod_lt _ (by decide)))).trans ?_
      exact BitVec.eq_of_toNat_eq (by simpa only [BitVec.toNat_ofNat] using hv j hj)
    case read =>
      rw [bankDo_read s (x := y) hw hr]
      exact sramValue_byte _ _ _ _ hj
    case readRot => exact bankDo_read_rot s (x := y) hw hr hj
    case kept =>
      have hw : y.write = false := h.resolve_left (fun h => h rfl)
      exact fun a => sramByte_of_sram (bankDo_read_sram s hw) a
  · refine ⟨_, next_portAccess hx hheld (bankAccess_refused hc), ?_⟩
    simp only [settle_resp, settle_sramByte, settle_mem]
    refine ⟨rfl, fun h => absurd h hc, fun h => absurd h hc, fun h => absurd h hc, fun h => absurd h hc, fun _ a => ?_⟩
    exact sramByte_of_sram (congrArg Mem.sram (bankFail_mem s y _)) a

/-! ### Handovers, flag writes and scrub ticks (R398, R399, R402, R417) -/

/-- MC has handed bank 1 to the host, which is not complete yet, and has no store under way. -/
def firstHandoverOpen : State :=
  { State.reset with
    rf := [(R.CLK_ROOTSTAT, 0x81), (R.CLK_RUN, 0x1FFC), (R.CLK_SRC, 0), (R.CLK_GATE0, 0xFFFFFFFF), (R.CLK_GATE1, 0xFFFFFFFF),
      (R.NYM_STAT, 0x401), (R.MEM_OWNER 1, 0x0100000C)]
    clk := { State.reset.clk with pllOn := true }
    mem := { State.reset.mem with hand := [⟨1, Init.HOST, false, false, false, Init.MC, true⟩] } }

/-- A second handover of the same writer waits for the first, so PENDING of its bank stays 0. -/
theorem secondHandover_not_pending :
    (firstHandoverOpen.ownerCommand Init.MC 0 (0x1F14 % 2 ^ 32) true).settle.bankPending 0 = false := by decide +kernel

/-- Refutes O58: MC gives bank 0 to the host while its handover of bank 1 is open. It has no store under way, the write is
accepted, and PENDING of bank 0 is not 1 at once: an earlier handover write of the same writer delays it (R399). -/
theorem not_handoversFollowTheOwner : ¬ Obligations.HandoversFollowTheOwner := by
  unfold Obligations.HandoversFollowTheOwner
  rintro ⟨-, haccepted, -⟩
  obtain ⟨t, h, hexec, -, -, -, -, -, hpending⟩ := haccepted firstHandoverOpen Init.MC 0 0x1F14 (by decide) (by decide +kernel)
    (by decide +kernel) (.inl rfl) (.inr rfl) rfl (by decide +kernel) (by decide +kernel)
  obtain rfl : settle _ = t := Host.Outcome.next.inj hexec
  exact Bool.noConfusion (secondHandover_not_pending.symm.trans (hpending (by decide +kernel)))

/-- The writers that R398 permits. -/
theorem ownerWriter_permitted {s : State} {init b : Nat}
    (h : init = Init.MC ∨ init = Init.NYM ∨ (init = Init.HOST ∧ s.bankOwner b = Init.HOST)) :
    (init = Init.MC || init = Init.NYM || (init = Init.HOST && s.bankOwner b = Init.HOST)) = true := by
  simpa [or_assoc] using h

section
variable {s : State} {init b w : Nat} (hwriter : init = Init.MC ∨ init = Init.NYM ∨ (init = Init.HOST ∧ s.bankOwner b = Init.HOST))
  (hpending : s.bankPending b = false) (hnone : s.handOf b = none)
include hwriter hpending hnone

/-- A write of a new owner that R398 accepts is recorded with its writer. -/
theorem memOwnerWrite_handover (hne : getBits (BitVec.ofNat 32 w) 0 5 ≠ s.bankOwner b)
    (hvalid : validOwner (getBits (BitVec.ofNat 32 w) 0 5) = true)
    (hexpect : getBits (BitVec.ofNat 32 w) 8 5 = s.bankOwner b ∨ getBits (BitVec.ofNat 32 w) 8 5 = 0x1F) :
    s.memOwnerWrite init b w = s.handAccept b (getBits (BitVec.ofNat 32 w) 0 5) (decide (getBits (BitVec.ofNat 32 w) 16 1 = 1))
      (decide (getBits (BitVec.ofNat 32 w) 17 1 = 1)) (decide (getBits (BitVec.ofNat 32 w) 18 1 = 1)) init := by
  unfold memOwnerWrite
  dsimp only
  rw [if_neg (by simp [ownerWriter_permitted hwriter, hpending, hnone]), if_neg hne, if_pos ⟨hexpect, hvalid⟩]

/-- A write of the owner in force changes the three flags at once. -/
theorem memOwnerWrite_flags (heq : getBits (BitVec.ofNat 32 w) 0 5 = s.bankOwner b) :
    s.memOwnerWrite init b w = ((s.setFlag (F.MEM_OWNER_DMA_DELEGATE b) (decide (getBits (BitVec.ofNat 32 w) 16 1 = 1))).setFlag
      (F.MEM_OWNER_DMA_RDONLY b) (decide (getBits (BitVec.ofNat 32 w) 17 1 = 1))).setFlag (F.MEM_OWNER_ROT b)
      (decide (getBits (BitVec.ofNat 32 w) 18 1 = 1)) := by
  unfold memOwnerWrite
  dsimp only
  rw [if_neg (by simp [ownerWriter_permitted hwriter, hpending, hnone]), if_pos heq]

end

theorem ownerCommand_admits {s : State} {init b w : Nat} {new : Bool} (hb : b < 96) (ha : s.admits init (R.MEM_OWNER b) = true)
    (hnew : new = decide (getBits (BitVec.ofNat 32 w) 0 5 ≠ s.bankOwner b)) :
    s.ownerCommand init b w new = (s.respond .served).memOwnerWrite init b w :=
  (if_pos ⟨hb, hnew⟩).trans (via_admits ha _)

/-- Steps 4 and 5 of R399. -/
theorem handComplete_started {s : State} {b : Nat} {h : Handover} (hh : s.handOf b = some h) (hs : h.started = true)
    (hd : s.dmaCompletes b = false) {s1 : State}
    (h1 : s1 = (((((s.setFld (F.MEM_OWNER_OWNER b) h.owner).setFlag (F.MEM_OWNER_DMA_DELEGATE b) h.delegate).setFlag
      (F.MEM_OWNER_DMA_RDONLY b) h.rdonly).setFlag (F.MEM_OWNER_ROT b) h.rot).setFld (F.MEM_OWNER_PREV b)
      (s.bankOwner b)).setFlag (F.MEM_OWNER_PENDING b) false) :
    s.handComplete b = (((({ s1 with mem := { s1.mem with hand := s1.mem.hand.filter fun g => decide (g.bank ≠ b) } }
      : State).irq P.MEM 0).handRelease b).handRespond h.writer).handStart := by
  subst h1
  unfold handComplete
  rw [hh]
  exact if_pos ⟨hs, by rw [hd]; rfl⟩

/-- Where no word holds an error, a scrub tick moves on by one word of every bank. -/
theorem scrubTick_clean {s : State} (busy : List Nat) (hperiod : s.fld F.MEM_SCRUB_PERIOD ≠ 0) (hunc : s.mem.eccUnc = [])
    (hcorr : s.mem.eccCorr = []) :
    s.scrubTick busy = { s with mem := { s.mem with scrubWord := (s.mem.scrubWord + 1) % 65536 } } := by
  have hfold (f : State → Nat → State) (hf : ∀ b, f s b = s) : (List.range 96).foldl f s = s :=
    List.foldlRecOn (motive := fun t => t = s) _ f rfl fun t ht b _ => ht ▸ hf b
  unfold scrubTick
  rw [if_neg hperiod]
  dsimp only
  rw [hfold _ fun b => by simp [hunc, hcorr]]

/-- Settles O27. That a block's own access is judged and carried out at once, the answer to an access of no bytes and the end
of a bank are the model's reading (log entries 40 and 49). -/
theorem memoryCommandsComplete : Obligations.MemoryCommandsComplete := by
  unfold Obligations.MemoryCommandsComplete
  refine ⟨?handover, ?flags, ?complete, ?port, ?dma, ?scrub⟩
  case handover =>
    rintro s init b w owner hb ha rfl hne hvalid hexpect hwriter hpending hnone
    exact next_settle_of_eq rfl ((ownerCommand_admits hb ha (decide_eq_true hne).symm).trans
      (memOwnerWrite_handover (s := s.respond .served) hwriter hpending hnone hne hvalid hexpect))
  case flags =>
    intro s init b w hb ha heq hwriter hpending hnone
    exact next_settle_of_eq rfl ((ownerCommand_admits hb ha (decide_eq_false (not_not.2 heq)).symm).trans
      (memOwnerWrite_flags (s := s.respond .served) hwriter hpending hnone heq))
  case complete =>
    intro s b h s1 hh hs hd h1
    exact next_settle_of_eq rfl (congrArg (fun t : State => t.cmdpiRelease.hostResume) (handComplete_started hh hs hd h1))
  case port => exact fun s x t r v => next_portAccess
  case dma => exact fun s x t r v => next_dmaAccess
  case scrub => exact fun s busy hperiod hunc hcorr => next_settle_of_eq rfl (scrubTick_clean busy hperiod hunc hcorr)

/-! ### Fields beside a written one -/

theorem flag_setFlag_addr (s : State) (f g : Fld) (v : Bool) (h : g.addr ≠ f.addr) : (s.setFlag f v).flag g = s.flag g :=
  congrArg (fun x => decide (x = 1)) (fld_setFld_addr s f g _ h)

/-- Another field of the written register keeps its value: the two places are compared as numerals. -/
theorem fld_setFlag_bits (s : State) {f g : Fld} (v : Bool) (ha : g.addr = f.addr := by rfl)
    (h : f.lsb + f.width ≤ 32 := by exact of_decide_eq_true rfl)
    (hd : f.lsb + f.width ≤ g.lsb ∨ g.lsb + g.width ≤ f.lsb := by exact of_decide_eq_true rfl) :
    (s.setFlag f v).fld g = s.fld g := fld_setFld_bits s f g _ h hd ha

theorem flag_setFlag_bits (s : State) {f g : Fld} (v : Bool) (ha : g.addr = f.addr := by rfl)
    (h : f.lsb + f.width ≤ 32 := by exact of_decide_eq_true rfl)
    (hd : f.lsb + f.width ≤ g.lsb ∨ g.lsb + g.width ≤ f.lsb := by exact of_decide_eq_true rfl) :
    (s.setFlag f v).flag g = s.flag g := congrArg (fun x => decide (x = 1)) (fld_setFlag_bits s v ha h hd)

theorem setFlag_sramByte (s : State) (f : Fld) (v : Bool) (a : Nat) : (s.setFlag f v).sramByte a = s.sramByte a :=
  congrArg (fun m : Mem => Sparse.get (fun _ => 0) m.sram a) (setFlag_mem s f v)

theorem sticky_fld (s : State) (p b d : Nat) (f : Fld) (h1 : f.addr ≠ R.ERR_STICKY p) (h2 : f.addr ≠ R.ERR_INFO p) :
    (s.sticky p b d).fld f = s.fld f :=
  congrArg (fun w => getBits w f.lsb f.width) (stickyAt_reg s p b _ _ _ d h1 h2)

theorem sticky_flag (s : State) (p b d : Nat) (f : Fld) (h1 : f.addr ≠ R.ERR_STICKY p) (h2 : f.addr ≠ R.ERR_INFO p) :
    (s.sticky p b d).flag f = s.flag f :=
  congrArg (fun x => decide (x = 1)) (sticky_fld s p b d f h1 h2)

/-! ### Trigger events of a channel (R411, R412) -/

theorem chStat_ne_sticky (n : Nat) : R.CH_STAT n ≠ R.ERR_STICKY P.DMA := by
  unfold R.CH_STAT R.ERR_STICKY P.DMA
  omega

theorem chStat_ne_info (n : Nat) : R.CH_STAT n ≠ R.ERR_INFO P.DMA := by
  unfold R.CH_STAT R.ERR_INFO P.DMA
  omega

/-- With no event held, an event that meets a channel at work is held. -/
theorem dmaEvent_held {s : State} {n : Nat} (hn : n < 32) (hrun : s.dmaRuns = true) (h0 : s.chanState n ≠ 0)
    (h2 : s.chanState n ≠ 2) (hp : s.flag (F.CH_STAT_PEND n) = false) :
    s.dmaEvent n = s.setFlag (F.CH_STAT_PEND n) true := by
  simp [dmaEvent, hrun, h0, h2, hp, Nat.not_le.2 hn]

/-- With an event held, the next is dropped and recorded. -/
theorem dmaEvent_dropped {s : State} {n : Nat} (hn : n < 32) (hrun : s.dmaRuns = true) (h0 : s.chanState n ≠ 0)
    (h2 : s.chanState n ≠ 2) (hp : s.flag (F.CH_STAT_PEND n) = true) :
    s.dmaEvent n = (s.setFlag (F.CH_STAT_TRIG_OVR n) true).sticky P.DMA 9 n := by
  simp [dmaEvent, hrun, h0, h2, hp, Nat.not_le.2 hn]

theorem dmaEvent_idle {s : State} {n : Nat} (h0 : s.chanState n = 0) : s.dmaEvent n = s := by
  simp [dmaEvent, h0]

theorem dmaEvent_waiting {s : State} {n : Nat} (hn : n < 32) (hrun : s.dmaRuns = true) (h2 : s.chanState n = 2) :
    s.dmaEvent n = s.waitGo n := by
  simp [dmaEvent, hrun, h2, Nat.not_le.2 hn]

/-- An event of the source that CH_TRIG selects acts on the channel. -/
theorem next_dmaEvent {s : State} {n : Nat} {c : Instr} (hn : n < 32)
    (hc : c = .dmaTrigger n ∧ (s.fld (F.CH_TRIG_SRC n) = 1 ∨ s.fld (F.CH_TRIG_SRC n) = 3) ∨
      c = .dmaTimer n ∧ s.fld (F.CH_TRIG_SRC n) = 2) : exec c s = .next (s.dmaEvent n).settle := by
  rcases hc with ⟨rfl, hsrc⟩ | ⟨rfl, hsrc⟩
  · exact next_settle_of_eq rfl ((if_pos hn).trans (if_pos hsrc))
  · exact next_settle_of_eq rfl ((if_pos hn).trans (if_pos hsrc))

/-- Settles O59: the channel is idle, holds no event, or holds one. That an event met in FETCH and COMPLETE is held as well is
the model's reading (log entry 49). -/
theorem dmaTriggersAreHeldOnce : Obligations.DmaTriggersAreHeldOnce := by
  unfold Obligations.DmaTriggersAreHeldOnce
  intro s n c hn hrun hc h2
  refine ⟨_, next_dmaEvent hn hc, ?_⟩
  by_cases h0 : s.chanState n = 0
  · rw [dmaEvent_idle h0]
    exact ⟨settle_fld .., settle_dma .., settle_sramByte s, fun _ => ⟨settle_flag .., settle_flag ..⟩, fun h => absurd h0 h⟩
  cases hp : s.flag (F.CH_STAT_PEND n) with
  | false =>
    rw [dmaEvent_held hn hrun h0 h2 hp]
    refine ⟨?state, by simp, ?bytes, fun h => absurd h h0, fun _ => ⟨?pend, fun _ => ?overrun, nofun⟩⟩
    case state => exact (settle_fld ..).trans (fld_setFlag_bits s _)
    case bytes => exact fun a => (settle_sramByte ..).trans (setFlag_sramByte ..)
    case pend => exact (settle_flag ..).trans (flag_setFlag_same s _ _ (of_decide_eq_true rfl) rfl)
    case overrun => exact (settle_flag ..).trans (flag_setFlag_bits s _)
  | true =>
    rw [dmaEvent_dropped hn hrun h0 h2 hp]
    have hfld (f : Fld) (hf : f.addr = R.CH_STAT n) := (settle_fld ((s.setFlag (F.CH_STAT_TRIG_OVR n) true).sticky
      P.DMA 9 n) f).trans (sticky_fld _ _ _ _ f (hf ▸ chStat_ne_sticky n) (hf ▸ chStat_ne_info n))
    have hflag (f : Fld) (hf : f.addr = R.CH_STAT n) := congrArg (fun x => decide (x = 1)) (hfld f hf)
    refine ⟨?state, by simp, ?bytes, fun h => absurd h h0, fun _ => ⟨?pend, nofun, fun _ => ⟨?overrun, ?recorded⟩⟩⟩
    case state => exact (hfld _ rfl).trans (fld_setFlag_bits s _)
    case bytes =>
      exact fun a => (settle_sramByte ..).trans ((stickyAt_sramByte ..).trans (setFlag_sramByte ..))
    case pend => exact (hflag _ rfl).trans ((flag_setFlag_bits s _).trans hp)
    case overrun => exact (hflag _ rfl).trans (flag_setFlag_same s _ _ (of_decide_eq_true rfl) rfl)
    case recorded => exact (settle_flag ..).trans (stickyAt_flag _ _ _ _ _ _ _ (by decide))

/-! ### Commands of a channel (R413, R415) -/

theorem chanState_setPause (s : State) (n : Nat) (v : Bool) : (s.setFlag (F.CH_CTRL_PAUSE n) v).chanState n = s.chanState n :=
  fld_setFld_addr _ _ _ _ (by unfold F.CH_STAT_STATE F.CH_CTRL_PAUSE R.CH_STAT R.CH_CTRL; dsimp only; omega)

theorem enabled_setPause (s : State) (n : Nat) (v : Bool) : (s.setFlag (F.CH_CTRL_PAUSE n) v).enabled P.DMA = s.enabled P.DMA :=
  flag_setFlag_addr _ _ _ _ (by
    show R.PAGE_CTRL P.DMA ≠ R.CH_CTRL n
    unfold R.PAGE_CTRL R.CH_CTRL P.DMA
    omega)

theorem chanGet_setFlag (s : State) (n : Nat) (f : Fld) (v : Bool) : (s.setFlag f v).chanGet n = s.chanGet n := by
  unfold chanGet
  rw [setFlag_dma]

theorem chanCommand_admits {s : State} {init n : Nat} (w : Nat) (hn : n < 32) (hopen : s.storesOpen init = false)
    (ha : s.admits init (R.CH_CTRL n) = true) (hp : s.flag (F.CH_CTRL_PAUSE n) = false) :
    s.chanCommand init n w = (s.respond .served).chanCtrl n w := by
  have hguard : ¬ (32 ≤ n ∨ s.storesOpen init = true) := by simp [hn, hopen]
  rw [chanCommand, if_neg hguard, via_admits ha, respond_flag, hp]
  rfl

theorem chanPauseWrite_admits {s : State} {init n : Nat} (on : Bool) (hn : n < 32) (hopen : s.storesOpen init = false)
    (ha : s.admits init (R.CH_CTRL n) = true) :
    s.chanPauseWrite init n on = (s.respond .served).chanCtrl n (2 * b2n on) := by
  have hguard : ¬ (32 ≤ n ∨ s.storesOpen init = true) := by simp [hn, hopen]
  rw [chanPauseWrite, if_neg hguard, via_admits ha]

/-- A change of PAUSE leaves a channel that is idle or halted. -/
theorem chanPauseStep_stays {s : State} {n : Nat} (h : s.chanState n = 0 ∨ s.chanState n = 6) : s.chanPauseStep n = s := by
  unfold chanPauseStep
  rcases h with h | h
  · simp [h]
  · simp [h]

/-- A write of CH_CTRL with PAUSE 0 acts on an idle or halted channel by its first command bit, in the order of R413. -/
theorem chanCtrl_resting {s : State} {n w : Nat} (h : s.chanState n = 0 ∨ s.chanState n = 6)
    (hw : getBits (BitVec.ofNat 32 w) 1 1 = 0) : s.chanCtrl n w =
      if getBits (BitVec.ofNat 32 w) 4 1 = 1 ∧ s.chanState n ≠ 0 then (s.setFlag (F.CH_CTRL_PAUSE n) false).chanAbort n
      else if getBits (BitVec.ofNat 32 w) 3 1 = 1 ∧ s.chanState n = 6 then (s.setFlag (F.CH_CTRL_PAUSE n) false).chanSkip n
      else if getBits (BitVec.ofNat 32 w) 2 1 = 1 ∧ s.chanState n = 6 then (s.setFlag (F.CH_CTRL_PAUSE n) false).haltLeave n
      else if getBits (BitVec.ofNat 32 w) 0 1 = 1 ∧ s.chanState n = 0 then (s.setFlag (F.CH_CTRL_PAUSE n) false).chanStart n
      else s.setFlag (F.CH_CTRL_PAUSE n) false := by
  have hstate := chanState_setPause s n false
  have hstep := chanPauseStep_stays (hstate.symm ▸ h)
  unfold chanCtrl
  dsimp only
  rw [hw, decide_eq_false (by decide), hstep, hstate]

theorem chanCtrl_start {s : State} {n : Nat} (h : s.chanState n = 0) :
    s.chanCtrl n 1 = (s.setFlag (F.CH_CTRL_PAUSE n) false).chanStart n := by
  rw [chanCtrl_resting (.inl h) (by decide)]
  simp [getBits, h]

theorem chanCtrl_resume {s : State} {n : Nat} (h : s.chanState n = 6) :
    s.chanCtrl n 4 = (s.setFlag (F.CH_CTRL_PAUSE n) false).haltLeave n := by
  rw [chanCtrl_resting (.inr h) (by decide)]
  simp [getBits, h]

theorem chanCtrl_skip {s : State} {n : Nat} (h : s.chanState n = 6) :
    s.chanCtrl n 8 = (s.setFlag (F.CH_CTRL_PAUSE n) false).chanSkip n := by
  rw [chanCtrl_resting (.inr h) (by decide)]
  simp [getBits, h]

theorem chanCtrl_abort {s : State} {n : Nat} (h : s.chanState n = 6) :
    s.chanCtrl n 16 = (s.setFlag (F.CH_CTRL_PAUSE n) false).chanAbort n := by
  rw [chanCtrl_resting (.inr h) (by decide)]
  simp [getBits, h]

/-- PAUSE takes a channel in RUN to PAUSING. -/
theorem chanCtrl_pause {s : State} {n : Nat} (h : s.chanState n = 3) :
    s.chanCtrl n 2 = (s.setFlag (F.CH_CTRL_PAUSE n) true).chanGo n 4 := by
  have hstate := (chanState_setPause s n true).trans h
  have hpause : (s.setFlag (F.CH_CTRL_PAUSE n) true).chanPause n = true := by
    rw [chanPause, flag_setFlag_same _ _ _ (of_decide_eq_true rfl) rfl, Bool.true_or]
  unfold chanCtrl
  simp [getBits, chanPauseStep, hpause, hstate]

/-- A cleared PAUSE takes a channel that was paused in RUN back there, while the engine is enabled. -/
theorem chanCtrl_unpause {s : State} {n : Nat} (h : s.chanState n = 5) (hf : (s.chanGet n).from_ = 3)
    (he : s.enabled P.DMA = true) : s.chanCtrl n 0 = (s.setFlag (F.CH_CTRL_PAUSE n) false).chanGo n 3 := by
  have hstate := (chanState_setPause s n false).trans h
  have hpause : (s.setFlag (F.CH_CTRL_PAUSE n) false).chanPause n = false := by
    rw [chanPause, flag_setFlag_same _ _ _ (of_decide_eq_true rfl) rfl, enabled_setPause, he]
    rfl
  unfold chanCtrl
  simp [getBits, chanPauseStep, hpause, hstate, chanGet_setFlag, hf]

theorem chanSkip_data {s : State} {n : Nat} (h : (s.chanGet n).stage = .data) :
    s.chanSkip n = ((s.chanSet n { (s.chanGet n).next with skipped := true }).haltLeave n).chanShow n := by
  unfold chanSkip
  dsimp only
  rw [h]

theorem chanAbort_fetched {s : State} {n : Nat} (h : (s.chanGet n).desc.isEmpty = false) : s.chanAbort n = s.completeEnter n 9 :=
  if_neg (by simp [h])

theorem abortCommand_halted {s : State} {init n : Nat} (k u : Nat) (hn : n < 32) (hopen : s.storesOpen init = false)
    (h : s.chanState n = 6) : s.abortCommand init n k u = s.chanCommand init n 16 := by
  unfold abortCommand
  simp [hopen, h, Nat.not_le.2 hn]

/-! ### Events of a channel (R407, R411 to R417) -/

/-- The guard of the engine's events: it runs and the channel works without a backoff. -/
theorem channelWorks {s : State} {n st : Nat} (hrun : s.dmaRuns = true) (hn : n < 32) (hst : s.chanState n = st)
    (hb : (s.chanGet n).backoff = false) : s.dmaRuns = true ∧ n < 32 ∧ s.chanState n = st ∧ (!(s.chanGet n).backoff) = true :=
  ⟨hrun, hn, hst, by rw [hb]; rfl⟩

section
variable {s t : State} {n : Nat} (hrun : s.dmaRuns = true) (hn : n < 32)
include hrun hn

theorem descFetched_accepted {ws : List Word} (hst : s.chanState n = 1) (hb : (s.chanGet n).backoff = false)
    (hread : s.descRead (s.descAddr n) 16 = (t, .inl ws)) (hown : ({ DmaChan.reset with desc := ws } : DmaChan).own = true)
    (hok : ({ DmaChan.reset with desc := ws } : DmaChan).refused = false) :
    s.descFetched n =
      (((t.chanSet n { DmaChan.reset with desc := ws }).setFld (F.CH_BYTES_COUNT n) 0).chanShow n).waitEnter n := by
  unfold descFetched
  rw [if_pos (channelWorks hrun hn hst hb), hread]
  simp only [hown, hok, Bool.not_true, Bool.false_eq_true, if_false]

theorem descFetched_empty {ws : List Word} (hst : s.chanState n = 1) (hb : (s.chanGet n).backoff = false)
    (hread : s.descRead (s.descAddr n) 16 = (t, .inl ws)) (hown : ({ DmaChan.reset with desc := ws } : DmaChan).own = false)
    (hpoll : s.flag (F.CH_CFG_POLL n) = false) :
    s.descFetched n = (((((t.chanSet n { DmaChan.reset with desc := ws }).setFld (F.CH_BYTES_COUNT n) 0).chanShow n).setFlag
      (F.CH_STAT_EMPTY n) true).irq P.DMA n).chanGo n 0 := by
  unfold descFetched
  rw [if_pos (channelWorks hrun hn hst hb), hread]
  simp only [hown, hpoll, Bool.not_false, Bool.false_eq_true, if_false, if_true]

theorem dmaRequest_waiting (spi : Bool) (hsrc : s.fld (F.CH_TRIG_SRC n) = 4) (hst : s.chanState n = 2)
    (hline : s.requestLine (s.fld (F.CH_TRIG_IDX n)) = true) (hidx : s.fld (F.CH_TRIG_IDX n) < 4) :
    s.dmaRequest n spi = s.waitGo n := by
  have hspi : ¬ (s.fld (F.CH_TRIG_IDX n) = 4 ∨ s.fld (F.CH_TRIG_IDX n) = 5) := by omega
  unfold dmaRequest
  dsimp only
  rw [if_neg hspi, if_pos ⟨hrun, hn, hsrc, hst, hline⟩]

theorem burstEnd_served (hst : s.chanState n = 3) (hb : (s.chanGet n).backoff = false) (h : s.dmaServe n = some t) :
    s.burstEnd n = t.burstOver n := by
  unfold burstEnd
  rw [if_pos (channelWorks hrun hn hst hb), h]

theorem dmaPaused_stops {k : Nat} (hst : s.chanState n = 4) (hb : (s.chanGet n).backoff = false)
    (h : s.dataElems n k = some t) (hgot : (t.chanGet n).got = []) :
    s.dmaPaused n k = ((t.chanSet n { t.chanGet n with from_ := 3 }).chanGo n 5).chanPauseStep n := by
  unfold dmaPaused
  rw [if_pos (channelWorks hrun hn hst hb), h]
  exact if_pos (by rw [hgot]; rfl)

theorem dmaError_data {k u code : Nat} {collide : Bool} {w : State} (hst : s.chanState n = 3)
    (hb : (s.chanGet n).backoff = false) (h : (s.dataElems n k).bind (dataUnits n u) = some t) (hleft : (t.chanGet n).left ≠ 0)
    (hbad : t.dataUnit n collide = (w, .bad code)) :
    s.dmaError n k u collide = w.chanFail n .data code (t.chanGet n).nextAccess.2 (t.chanGet n).nextAccess.1 := by
  have hworks : s.dmaRuns = true ∧ n < 32 ∧ (!(s.chanGet n).backoff) = true := ⟨hrun, hn, by rw [hb]; rfl⟩
  unfold dmaError
  rw [if_pos hworks, hst]
  simp only [h, hleft, hbad, true_or, if_true, if_false]

theorem dmaRetry_data {collide : Bool} {v : Nat} (hb : (s.chanGet n).backoff = true) (hst : s.chanState n = 3)
    (h : (s.chanSet n { s.chanGet n with backoff := false }).dataUnit n collide = (t, .ok v)) :
    s.dmaRetry n collide = t := by
  unfold dmaRetry
  dsimp only
  rw [if_pos ⟨hrun, hn, hb⟩, hst]
  simp only [h]

theorem dmaComplete_served (hst : s.chanState n = 7) (hb : (s.chanGet n).backoff = false)
    (h : stagesRun n 3 s = some t) : s.dmaComplete n = t.dmaFinish n := by
  unfold dmaComplete
  rw [if_pos (channelWorks hrun hn hst hb), h]

end

/-- Settles O37. That data moves at the event that ends a burst or a pause, the stage to which a halted channel returns and the
operands of ABORT are the model's reading (log entries 40 and 49). -/
theorem dmaCommandsComplete : Obligations.DmaCommandsComplete := by
  unfold Obligations.DmaCommandsComplete
  refine ⟨?start, ?pause, ?unpause, ?resume, ?skip, ?abort, ?fetched, ?empty, ?held, ?chained, ?timer, ?request, ?burst,
    ?paused, ?error, ?retry, ?complete⟩
  case start =>
    intro s init n hn hopen ha hst hp
    exact next_settle_of_eq rfl ((chanCommand_admits 1 hn hopen ha hp).trans (chanCtrl_start (s := s.respond .served) hst))
  case pause =>
    rintro s init n on hn hopen ha hst rfl
    exact next_settle_of_eq rfl ((chanPauseWrite_admits true hn hopen ha).trans (chanCtrl_pause (s := s.respond .served) hst))
  case unpause =>
    rintro s init n on hn hopen ha hst hf he rfl
    exact next_settle_of_eq rfl
      ((chanPauseWrite_admits false hn hopen ha).trans (chanCtrl_unpause (s := s.respond .served) hst hf he))
  case resume =>
    intro s init n hn hopen ha hst hp
    exact next_settle_of_eq rfl ((chanCommand_admits 4 hn hopen ha hp).trans (chanCtrl_resume (s := s.respond .served) hst))
  case skip =>
    intro s init n hn hopen ha hst hp hstage
    have hget := chanGet_setFlag (s.respond .served) n (F.CH_CTRL_PAUSE n) false
    refine next_settle_of_eq rfl (((chanCommand_admits 8 hn hopen ha hp).trans
      (chanCtrl_skip (s := s.respond .served) hst)).trans ((chanSkip_data (hget ▸ hstage)).trans ?_))
    rw [hget]
    rfl
  case abort =>
    intro s init n k u hn hopen ha hst hp hdesc
    have hget := chanGet_setFlag (s.respond .served) n (F.CH_CTRL_PAUSE n) false
    exact next_settle_of_eq rfl ((abortCommand_halted k u hn hopen hst).trans ((chanCommand_admits 16 hn hopen ha hp).trans
      ((chanCtrl_abort (s := s.respond .served) hst).trans (chanAbort_fetched (hget ▸ hdesc)))))
  case fetched =>
    intro s n t ws hrun hn hst hb hread hown hok
    exact next_settle_of_eq rfl (descFetched_accepted hrun hn hst hb hread hown hok)
  case empty =>
    intro s n t ws hrun hn hst hb hread hown hpoll
    exact next_settle_of_eq rfl (descFetched_empty hrun hn hst hb hread hown hpoll)
  case held =>
    intro s n hn hrun hsrc hst hp
    exact (next_dmaEvent hn (.inl ⟨rfl, .inl hsrc⟩)).trans
      (congrArg (fun t : State => Host.Outcome.next t.settle) (dmaEvent_held hn hrun (by omega) (by omega) hp))
  case chained =>
    intro s n hn hrun hsrc hst
    exact (next_dmaEvent hn (.inl ⟨rfl, .inr hsrc⟩)).trans
      (congrArg (fun t : State => Host.Outcome.next t.settle) (dmaEvent_waiting hn hrun hst))
  case timer =>
    intro s n hn hrun hsrc hst
    exact (next_dmaEvent hn (.inr ⟨rfl, hsrc⟩)).trans
      (congrArg (fun t : State => Host.Outcome.next t.settle) (dmaEvent_waiting hn hrun hst))
  case request =>
    intro s n spi hn hrun hsrc hst hline hidx
    exact next_settle_of_eq rfl ((if_pos hn).trans (dmaRequest_waiting hrun hn spi hsrc hst hline hidx))
  case burst =>
    intro s n t hrun hn hst hb h
    exact next_settle_of_eq rfl (burstEnd_served hrun hn hst hb h)
  case paused =>
    intro s n k t hrun hn hst hb h hgot
    exact next_settle_of_eq rfl (dmaPaused_stops hrun hn hst hb h hgot)
  case error =>
    intro s n k u code collide t w hrun hn hst hb h hleft hbad
    exact next_settle_of_eq rfl (dmaError_data hrun hn hst hb h hleft hbad)
  case retry =>
    intro s n collide t v hrun hn hb hst h
    exact next_settle_of_eq rfl (dmaRetry_data hrun hn hb hst h)
  case complete =>
    intro s n t hrun hn hst hb h
    exact next_settle_of_eq rfl (dmaComplete_served hrun hn hst hb h)

end State
end Sys2Proof.Machine
end

