-- ==== Sys2Proof/Proofs/NymvisSecurity.lean ====
section
/-! PROOF. Nymvis (chapter 17): what a request, its end and the events of its start, its sensors and its watchdog do (R422 to
R446). -/

namespace Sys2Proof.Machine

/-- A bit beyond the word cannot be set. -/
theorem putBits_beyond (w : Word) (l v : Nat) (h : 32 ≤ l) : putBits w l 1 v = w := by
  have hw : w.toNat / 2 ^ l = 0 := Nat.div_eq_of_lt (w.isLt.trans_le (Nat.pow_le_pow_right (by decide) h))
  have hpow : 2 ^ l = 2 ^ (l - 32) * 2 ^ 32 := by rw [← Nat.pow_add, Nat.sub_add_cancel h]
  apply BitVec.eq_of_toNat_eq
  rw [putBits, BitVec.toNat_ofNat, getBits, hw, Nat.zero_mod, Nat.zero_mul, Nat.sub_zero, hpow, ← Nat.mul_assoc,
    Nat.add_mul_mod_self_right, Nat.mod_eq_of_lt w.isLt]

/-- What an end of a request keeps: Nymvis but for its queue, the PTP keys, shared SRAM, the registers below the channels' own
except IRQ_RAW of NYM, and the interrupt of the tamper sensors there. -/
structure RequestFrame (s t : State) : Prop where
  nym : ∃ q, t.nym = { s.nym with queue := q }
  ptp : t.ptp = s.ptp
  sram : t.mem.sram = s.mem.sram
  regs : ∀ a, a < 0x40008080 → a ≠ R.IRQ_RAW P.NYM → t.reg a = s.reg a
  raised : s.flag ⟨R.IRQ_RAW P.NYM, 2, 1⟩ = true → t.flag ⟨R.IRQ_RAW P.NYM, 2, 1⟩ = true

namespace RequestFrame

theorem refl (s : State) : RequestFrame s s := ⟨⟨s.nym.queue, rfl⟩, rfl, rfl, fun _ _ _ => rfl, id⟩

theorem trans {s t u : State} (h : RequestFrame s t) (k : RequestFrame t u) : RequestFrame s u := by
  obtain ⟨⟨_, hnym⟩, hptp, hsram, hregs, hraised⟩ := h
  obtain ⟨⟨q, knym⟩, kptp, ksram, kregs, kraised⟩ := k
  exact ⟨⟨q, by rw [knym, hnym]⟩, kptp.trans hptp, ksram.trans hsram, fun a h1 h2 => (kregs a h1 h2).trans (hregs a h1 h2),
    fun h => kraised (hraised h)⟩

/-- A write of a register beyond NYM's own. -/
theorem setReg (s : State) {a : Nat} (w : Word) (ha : 0x40008080 ≤ a) : RequestFrame s (s.setReg a w) := by
  have hother (b : Nat) (hb : b < 0x40008080) : (s.setReg a w).reg b = s.reg b := State.reg_setReg_other s w (by omega)
  refine ⟨⟨s.nym.queue, rfl⟩, rfl, rfl, fun b hb _ => hother b hb, fun h => ?_⟩
  rw [State.flag, State.fld, hother _ (by decide)]
  exact h

theorem setFlag (s : State) {f : Fld} (v : Bool) (ha : 0x40008080 ≤ f.addr) : RequestFrame s (s.setFlag f v) := setReg s _ ha

/-- A step that changes no register, and of the rest only shared SRAM's handovers and the queue. -/
theorem of_rf {s t : State} (hrf : t.rf = s.rf) (hnym : ∃ q, t.nym = { s.nym with queue := q }) (hptp : t.ptp = s.ptp)
    (hsram : t.mem.sram = s.mem.sram) : RequestFrame s t := by
  have hreg (a : Nat) : t.reg a = s.reg a := congrArg (fun m => Sparse.get resetWord m a) hrf
  refine ⟨hnym, hptp, hsram, fun a _ _ => hreg a, fun h => ?_⟩
  rwa [State.flag, State.fld, hreg]

theorem queue (s : State) (q : List NymReq) : RequestFrame s (s.nymPut { s.nym with queue := q }) := of_rf rfl ⟨q, rfl⟩ rfl rfl

theorem foldl {α : Type} {f : State → α → State} (l : List α) (s : State) (h : ∀ t x, RequestFrame t (f t x)) :
    RequestFrame s (l.foldl f s) :=
  List.foldlRecOn (motive := RequestFrame s) l f (refl s) fun _ ht x _ => ht.trans (h _ x)

/-- A page interrupt of NYM. -/
theorem irq (s : State) (b : Nat) : RequestFrame s (s.irq P.NYM b) := by
  refine ⟨⟨s.nym.queue, rfl⟩, rfl, rfl, fun a _ h => State.reg_setReg_other s _ h, fun h => ?_⟩
  rw [State.flag, State.fld] at h ⊢
  rw [State.irq, State.setRegBit, State.reg_setReg_same]
  rcases Nat.lt_trichotomy b 2 with hb | rfl | hb
  · rwa [getBits_putBits_above _ _ _ _ _ _ (by omega) hb]
  · rw [getBits_putBits_same _ _ _ _ (by decide)]
    rfl
  · by_cases h32 : b < 32
    · rwa [getBits_putBits_below _ _ _ _ _ _ h32 hb]
    · rwa [putBits_beyond _ _ _ (Nat.le_of_not_lt h32)]

/-- MEM_OWNER of a bank stands beyond NYM's own registers. -/
theorem owner_beyond (b : Nat) : 0x40008080 ≤ R.MEM_OWNER b := by
  unfold R.MEM_OWNER
  omega

theorem handStart (s : State) : RequestFrame s s.handStart :=
  (foldl _ s fun t h => setFlag t true (owner_beyond h.bank)).trans (of_rf rfl ⟨_, rfl⟩ rfl rfl)

theorem handAccept (s : State) (b owner : Nat) (del ro rot : Bool) (writer : Nat) :
    RequestFrame s (s.handAccept b owner del ro rot writer) := by
  unfold State.handAccept
  dsimp only
  exact trans (by exact of_rf rfl ⟨s.nym.queue, rfl⟩ rfl rfl) (handStart _)

theorem nymHand (s : State) (b dest : Nat) : RequestFrame s (s.nymHand b dest) := by
  unfold State.nymHand
  split
  · exact refl s
  · exact handAccept ..

theorem tbuNow (s : State) : RequestFrame s s.tbuNow := by
  have hbase (k : Nat) : 0x40008080 ≤ R.TBU_NOW0 + 4 * k := by unfold R.TBU_NOW0; omega
  unfold State.tbuNow State.captureTime
  exact ((((((setReg _ _ (hbase 0)).trans (setReg _ _ (hbase 1))).trans (setReg _ _ (hbase 2))).trans
    (setReg _ _ (hbase 3))).trans (setReg _ _ (hbase 4))).trans (setReg _ _ (hbase 5)))

theorem nymBegin (s : State) : RequestFrame s s.nymBegin := by
  unfold State.nymBegin
  split
  · exact refl s
  · split
    · exact (tbuNow s).trans (of_rf rfl ⟨_, rfl⟩ rfl rfl)
    · exact refl s

/-- A request that ends without output. -/
theorem nymEnd (s : State) (result : Nat) : RequestFrame s (s.nymEnd result []) := by
  unfold State.nymEnd
  split
  · exact refl s
  · next r rs _ =>
    have hstat : 0x40008080 ≤ R.NYM_RSTAT r.ch := by unfold R.NYM_RSTAT; omega
    simp only [ite_self, State.nymWords, List.zipIdx_nil, List.foldl_nil]
    refine RequestFrame.trans ?_ (nymBegin _)
    have hdone (w : Word) := ((setReg s w hstat).trans (queue _ rs)).trans (irq _ r.ch)
    split
    · refine (hdone _).trans (foldl _ _ fun t b => ?_)
      split
      · exact handAccept ..
      · exact refl t
    · exact hdone _

theorem nymAbort (s : State) (result : Nat) : RequestFrame s (s.nymAbort result) := by
  unfold State.nymAbort
  split
  · exact refl s
  · exact nymEnd s result

theorem fld_eq {s t : State} (h : RequestFrame s t) {f : Fld} (hf : f.addr < 0x40008080)
    (hne : f.addr ≠ R.IRQ_RAW P.NYM) : t.fld f = s.fld f :=
  congrArg (fun w => getBits w f.lsb f.width) (h.regs f.addr hf hne)

theorem flag_eq {s t : State} (h : RequestFrame s t) {f : Fld} (hf : f.addr < 0x40008080)
    (hne : f.addr ≠ R.IRQ_RAW P.NYM) : t.flag f = s.flag f :=
  congrArg (fun x => decide (x = 1)) (h.fld_eq hf hne)

end RequestFrame

namespace State

/-! ### The error state and the tamper sensors (R429, R445) -/

theorem irq_fld (s : State) (p b : Nat) (f : Fld) (h : f.addr ≠ R.IRQ_RAW p) : (s.irq p b).fld f = s.fld f :=
  congrArg (fun w => getBits w f.lsb f.width) (reg_setReg_other s _ h)

theorem irq_flag_other (s : State) (p b : Nat) (f : Fld) (h : f.addr ≠ R.IRQ_RAW p) : (s.irq p b).flag f = s.flag f :=
  congrArg (fun x => decide (x = 1)) (irq_fld s p b f h)

/-- What entry into the error state does before it ends the request being served. -/
def nymFail (s : State) : State :=
  let s1 := (s.setFlag F.NYM_STAT_ERROR true).setFlag F.NYM_STAT_APPROVED false
  let s2 := if s1.fld F.NYM_STAT_BOOT < 4 then s1.setFld F.NYM_STAT_BOOT 5 else s1
  s2.nymPut { s2.nym with drbg := false }

theorem nymError_eq (s : State) : s.nymError = s.nymFail.nymAbort 5 := rfl

theorem nymFail_nym (s : State) : s.nymFail.nym = { s.nym with drbg := false } := by
  unfold nymFail
  dsimp only
  split <;> simp

theorem nymFail_ptp (s : State) : s.nymFail.ptp = s.ptp := by
  unfold nymFail
  dsimp only
  split <;> simp

theorem nymFail_mem (s : State) : s.nymFail.mem = s.mem := by
  unfold nymFail
  dsimp only
  split <;> simp

theorem nymFail_error (s : State) : s.nymFail.flag F.NYM_STAT_ERROR = true ∧ s.nymFail.flag F.NYM_STAT_APPROVED = false := by
  have hb : ((s.setFlag F.NYM_STAT_ERROR true).setFlag F.NYM_STAT_APPROVED false).flag F.NYM_STAT_ERROR = true :=
    (flag_setFlag_bits _ _).trans (flag_setFlag_same _ _ _ (by decide) rfl)
  have hc : ((s.setFlag F.NYM_STAT_ERROR true).setFlag F.NYM_STAT_APPROVED false).flag F.NYM_STAT_APPROVED = false :=
    flag_setFlag_same _ _ _ (by decide) rfl
  have hboot (t : State) (f : Fld) (ha : f.addr = R.NYM_STAT) (hl : f.lsb + f.width ≤ 8) :
      (t.setFld F.NYM_STAT_BOOT 5).flag f = t.flag f :=
    congrArg (fun x => decide (x = 1)) (fld_setFld_bits t F.NYM_STAT_BOOT f 5 (by decide) (.inr hl) ha)
  unfold nymFail
  dsimp only
  split
  · simp only [nymPut_flag, hboot _ F.NYM_STAT_ERROR rfl (by decide), hboot _ F.NYM_STAT_APPROVED rfl (by decide), hb, hc,
      and_self]
  · simp only [nymPut_flag, hb, hc, and_self]

/-- Entry into the error state leaves every field outside BOOT, ERROR and APPROVED. -/
theorem nymFail_fld (s : State) (f : Fld) (h : f.addr ≠ R.NYM_STAT ∨ f.lsb + f.width ≤ 3) : s.nymFail.fld f = s.fld f := by
  have hset (t : State) (g : Fld) (v : Nat) (ha : g.addr = R.NYM_STAT) (hg : 3 ≤ g.lsb) (hw : g.lsb + g.width ≤ 32) :
      (t.setFld g v).fld f = t.fld f := by
    by_cases hf : f.addr = g.addr
    · exact fld_setFld_bits t g f v hw (.inr ((h.resolve_left (not_not.2 (hf.trans ha))).trans hg)) hf
    · exact fld_setFld_addr t g f v hf
  have hflags : ((s.setFlag F.NYM_STAT_ERROR true).setFlag F.NYM_STAT_APPROVED false).fld f = s.fld f :=
    (hset _ F.NYM_STAT_APPROVED _ rfl (by decide) (by decide)).trans (hset _ F.NYM_STAT_ERROR _ rfl (by decide) (by decide))
  unfold nymFail
  dsimp only
  split
  · exact (nymPut_fld ..).trans ((hset _ F.NYM_STAT_BOOT 5 rfl (by decide) (by decide)).trans hflags)
  · exact (nymPut_fld ..).trans hflags

theorem zeroiseRam_fld (s : State) (f : Fld) : s.zeroiseRam.fld f = s.fld f := nymPut_fld ..
theorem zeroiseRam_flag (s : State) (f : Fld) : s.zeroiseRam.flag f = s.flag f := nymPut_flag ..
theorem zeroiseRam_ptp (s : State) : s.zeroiseRam.ptp = s.ptp := rfl
theorem zeroiseRam_mem (s : State) : s.zeroiseRam.mem = s.mem := rfl
theorem zeroiseRam_nym (s : State) : s.zeroiseRam.nym = { s.nym with
    rootKey := false, eph := none, userKeys := List.replicate 4 none, ptpKeys := List.replicate 16 none, transport := [] } := rfl

/-- The record of a tripped sensor: NOW, SEEN and the count, TAMPER in ERR_STICKY and the interrupt (R445). -/
def tamperRecord (s : State) (k : Nat) : State :=
  ((((s.setFld F.NYM_TAMPER_NOW (setBit (s.fld F.NYM_TAMPER_NOW) k true)).setFld F.NYM_TAMPER_SEEN
    (setBit (s.fld F.NYM_TAMPER_SEEN) k true)).satFld F.NYM_TAMPER_COUNT 1).sticky P.NYM 10).irq P.NYM 2

theorem tamperTrip_eq {s : State} {k : Nat} (hk : k < 3) :
    s.tamperTrip k = if k = 2 then (s.tamperRecord k).zeroiseRam.nymError.rtcSuspect else (s.tamperRecord k).zeroiseRam.nymError :=
  if_neg (Nat.not_le.2 hk)

theorem tamperRecord_nym (s : State) (k : Nat) : (s.tamperRecord k).nym = s.nym := by simp [tamperRecord]
theorem tamperRecord_ptp (s : State) (k : Nat) : (s.tamperRecord k).ptp = s.ptp := by simp [tamperRecord]
theorem tamperRecord_mem (s : State) (k : Nat) : (s.tamperRecord k).mem = s.mem := by simp [tamperRecord]

theorem tamperRecord_lcs (s : State) (k : Nat) : (s.tamperRecord k).lcs = s.lcs := by
  unfold tamperRecord lcs satFld
  rw [irq_fld _ _ _ _ (by decide), sticky_fld _ _ _ _ _ (by decide) (by decide), fld_setFld_addr _ _ _ _ (by decide),
    fld_setFld_addr _ _ _ _ (by decide), fld_setFld_addr _ _ _ _ (by decide)]

/-- A bit set in a field of three bits reads back. -/
theorem bit_setBit_mod (v : Nat) {k : Nat} (hk : k < 3) : bit (setBit v k true % 2 ^ 3) k = true := by
  have hlow (x : Nat) : x % 2 ^ 3 / 2 ^ k % 2 = x / 2 ^ k % 2 := by
    interval_cases k <;> norm_num <;> omega
  exact (congrArg (fun n => decide (n = 1)) (hlow _)).trans (bit_setBit_same v k true)

theorem tamperRecord_now (s : State) {k : Nat} (hk : k < 3) : bit ((s.tamperRecord k).fld F.NYM_TAMPER_NOW) k = true := by
  unfold tamperRecord satFld
  rw [irq_fld _ _ _ _ (by decide), sticky_fld _ _ _ _ _ (by decide) (by decide),
    fld_setFld_bits _ _ _ _ (by decide) (by decide) (by decide), fld_setFld_bits _ _ _ _ (by decide) (by decide) (by decide),
    fld_setFld_same _ _ _ (by decide)]
  exact bit_setBit_mod _ hk

theorem tamperRecord_seen (s : State) {k : Nat} (hk : k < 3) : bit ((s.tamperRecord k).fld F.NYM_TAMPER_SEEN) k = true := by
  unfold tamperRecord satFld
  rw [irq_fld _ _ _ _ (by decide), sticky_fld _ _ _ _ _ (by decide) (by decide),
    fld_setFld_bits _ _ _ _ (by decide) (by decide) (by decide), fld_setFld_same _ _ _ (by decide)]
  exact bit_setBit_mod _ hk

theorem tamperRecord_sticky (s : State) (k : Nat) : (s.tamperRecord k).flag ⟨R.ERR_STICKY P.NYM, 10, 1⟩ = true :=
  (irq_flag_sticky ..).trans (stickyAt_flag _ _ _ _ _ _ _ (by decide))

theorem tamperRecord_irq (s : State) (k : Nat) : (s.tamperRecord k).flag ⟨R.IRQ_RAW P.NYM, 2, 1⟩ = true :=
  irq_flag _ _ _ (by decide)

/-- What a trip leaves, as R445 says it. -/
structure TamperTripped (s t : State) (k : Nat) : Prop where
  nym : ∃ q, t.nym = { s.nym with
    rootKey := false, eph := none, userKeys := List.replicate 4 none, ptpKeys := List.replicate 16 none, transport := []
    drbg := false, queue := q }
  error : t.flag F.NYM_STAT_ERROR = true
  approved : t.flag F.NYM_STAT_APPROVED = false
  now : bit (t.fld F.NYM_TAMPER_NOW) k = true
  seen : bit (t.fld F.NYM_TAMPER_SEEN) k = true
  recorded : t.flag ⟨R.ERR_STICKY P.NYM, 10, 1⟩ = true
  raised : t.flag ⟨R.IRQ_RAW P.NYM, 2, 1⟩ = true
  ptp : t.ptp = s.ptp
  lcs : t.lcs = s.lcs
  sram : t.mem.sram = s.mem.sram

theorem nymError_tripped (s : State) {k : Nat} (hk : k < 3) : TamperTripped s (s.tamperRecord k).zeroiseRam.nymError k := by
  rw [nymError_eq]
  have hend := RequestFrame.nymAbort (s.tamperRecord k).zeroiseRam.nymFail 5
  obtain ⟨herror, happroved⟩ := nymFail_error (s.tamperRecord k).zeroiseRam
  have hfld (f : Fld) (hlow : f.addr < 0x40008080) (hirq : f.addr ≠ R.IRQ_RAW P.NYM)
      (h : f.addr ≠ R.NYM_STAT ∨ f.lsb + f.width ≤ 3) :
      ((s.tamperRecord k).zeroiseRam.nymFail.nymAbort 5).fld f = (s.tamperRecord k).fld f :=
    (hend.fld_eq hlow hirq).trans ((nymFail_fld _ f h).trans (zeroiseRam_fld _ f))
  refine ⟨?nym, ?error, ?approved, ?now, ?seen, ?recorded, ?raised, ?ptp, ?lcs, ?sram⟩
  case nym =>
    obtain ⟨q, hq⟩ := hend.nym
    exact ⟨q, by rw [hq, nymFail_nym, zeroiseRam_nym, tamperRecord_nym]⟩
  case error => exact (hend.flag_eq (by decide) (by decide)).trans herror
  case approved => exact (hend.flag_eq (by decide) (by decide)).trans happroved
  case now => exact (congrArg (bit · k) (hfld _ (by decide) (by decide) (by decide))).trans (tamperRecord_now s hk)
  case seen => exact (congrArg (bit · k) (hfld _ (by decide) (by decide) (by decide))).trans (tamperRecord_seen s hk)
  case recorded =>
    exact (congrArg (fun x => decide (x = 1)) (hfld ⟨R.ERR_STICKY P.NYM, 10, 1⟩ (by decide) (by decide) (by decide))).trans
      (tamperRecord_sticky s k)
  case raised =>
    refine hend.raised ?_
    exact (congrArg (fun x => decide (x = 1)) (nymFail_fld _ _ (.inl (by decide)))).trans
      ((zeroiseRam_flag ..).trans (tamperRecord_irq s k))
  case ptp => exact hend.ptp.trans ((nymFail_ptp _).trans ((zeroiseRam_ptp _).trans (tamperRecord_ptp s k)))
  case lcs => exact (hfld _ (by decide) (by decide) (by decide)).trans (tamperRecord_lcs s k)
  case sram => exact hend.sram.trans (congrArg Mem.sram ((nymFail_mem _).trans ((zeroiseRam_mem _).trans (tamperRecord_mem s k))))

/-- The report of a suspect RTC changes nothing of it. -/
theorem rtcSuspect_tripped {s t : State} {k : Nat} (h : TamperTripped s t k) : TamperTripped s t.rtcSuspect k := by
  obtain ⟨hnym, herror, happroved, hnow, hseen, hrecorded, hraised, hptp, hlcs, hsram⟩ := h
  have hfld (f : Fld) (h1 : f.addr ≠ R.ERR_STICKY P.RTC) (h2 : f.addr ≠ R.ERR_INFO P.RTC)
      (h3 : f.addr ≠ F.RTC_STAT_SUSPECT.addr) : t.rtcSuspect.fld f = t.fld f :=
    (sticky_fld _ _ _ _ f h1 h2).trans (fld_setFld_addr _ _ _ _ h3)
  have hflag (f : Fld) (h1 : f.addr ≠ R.ERR_STICKY P.RTC) (h2 : f.addr ≠ R.ERR_INFO P.RTC)
      (h3 : f.addr ≠ F.RTC_STAT_SUSPECT.addr) : t.rtcSuspect.flag f = t.flag f :=
    congrArg (fun x => decide (x = 1)) (hfld f h1 h2 h3)
  have hkeep : t.rtcSuspect.nym = t.nym ∧ t.rtcSuspect.ptp = t.ptp ∧ t.rtcSuspect.mem = t.mem := by simp [rtcSuspect]
  obtain ⟨knym, kptp, kmem⟩ := hkeep
  refine ⟨knym ▸ hnym, ?_, ?_, ?_, ?_, ?_, ?_, kptp.trans hptp, ?_, (congrArg Mem.sram kmem).trans hsram⟩
  · rwa [hflag _ (by decide) (by decide) (by decide)]
  · rwa [hflag _ (by decide) (by decide) (by decide)]
  · rwa [hfld _ (by decide) (by decide) (by decide)]
  · rwa [hfld _ (by decide) (by decide) (by decide)]
  · rwa [hflag _ (by decide) (by decide) (by decide)]
  · rwa [hflag _ (by decide) (by decide) (by decide)]
  · exact (hfld _ (by decide) (by decide) (by decide)).trans hlcs

theorem tamperTrip_tripped (s : State) {k : Nat} (hk : k < 3) : TamperTripped s (s.tamperTrip k) k := by
  rw [tamperTrip_eq hk]
  split
  · exact rtcSuspect_tripped (nymError_tripped s hk)
  · exact nymError_tripped s hk

/-- Settles O60: the record of the trip, the zeroisation and the entry into the error state each keep what the others left. -/
theorem aTamperTripEntersTheErrorState : Obligations.ATamperTripEntersTheErrorState := by
  unfold Obligations.ATamperTripEntersTheErrorState
  intro s k hk
  obtain ⟨⟨q, hnym⟩, herror, happroved, hnow, hseen, hrecorded, hraised, hptp, hlcs, hsram⟩ := tamperTrip_tripped s hk
  refine ⟨(s.tamperTrip k).settle, rfl, ?_⟩
  rw [lcs, settle_fld, settle_fld, settle_fld, settle_flag, settle_flag, settle_flag, settle_flag, settle_nym, settle_ptp,
    settle_mem, hnym]
  exact ⟨rfl, rfl, herror, happroved, hnow, hseen, hrecorded, hraised, rfl, rfl, rfl, rfl, congrArg Ptp.keys hptp, hlcs, hsram⟩

/-! ### Requests (R424 to R426, R442) -/

/-- MC may write NYM_CMD1, channel 1 is not busy, no request waits, and TBU time stands at 100 s. -/
def quoteReady : State :=
  { State.reset with
    rf := [(R.CLK_ROOTSTAT, 0x81), (R.CLK_RUN, 0x1FFC), (R.CLK_SRC, 0), (R.CLK_GATE0, 0xFFFFFFFF), (R.CLK_GATE1, 0xFFFFFFFF),
      (R.NYM_STAT, 0x401)]
    clk := { State.reset.clk with pllOn := true }
    tbu := { State.reset.tbu with time := 100 * tuSec } }

/-- The quote is served at once; its read of time leaves TBU_NOW2 at 100 s. -/
theorem quote_reads_time : (quoteReady.nymStart Init.MC 1 .quote).settle.reg R.TBU_NOW2 = 100 := by decide +kernel

theorem nymQueued_keeps_time : (quoteReady.nymQueued
    (quoteReady.nymRequest 1 .quote (some (quoteReady.nowFrac, quoteReady.qual, quoteReady.fld F.TBU_UNC_UNC)))).settle.reg
      R.TBU_NOW2 = 0 := by decide +kernel

/-- Refutes O28: a quote that is served at once captures its time with one read of TBU_NOW (R442), which leaves that time in
TBU_NOW1 to TBU_NOW5; the state of the statement keeps those registers. -/
theorem not_nymvisRequestsComplete : ¬ Obligations.NymvisRequestsComplete := by
  unfold Obligations.NymvisRequestsComplete
  rintro ⟨-, -, -, -, -, -, -, -, -, -, -, -, -, -, -, -, -, -, -, -, -, -, -, -, -, -, -, -, -, hquote, -⟩
  have hexec : Host.Outcome.next (quoteReady.nymStart Init.MC 1 .quote).settle = _ :=
    hquote quoteReady Init.MC 1 (by decide) (by decide +kernel) (by decide +kernel) rfl
  have htime := congrArg (fun t : State => t.reg R.TBU_NOW2) (Host.Outcome.next.inj hexec)
  exact absurd (quote_reads_time.symm.trans (htime.trans nymQueued_keeps_time)) (by decide)

/-! ### The end of a service (R424, R425, R428, R436 to R444) -/

/-- A request with its tests passed, or that runs none, is carried out at its end. -/
theorem nymDone_runs {s : State} {ch : Nat} {pass : Bool} {r : NymReq} {rs : List NymReq} (hq : s.nym.queue = r :: rs)
    (hch : r.ch = ch) (hstart : s.nym.starting = false) (herr : s.flag F.NYM_STAT_ERROR = false) (hfail : r.fail = none)
    (htest : (tests r.op && !pass) = false) :
    s.nymDone ch pass = (s.nymRun r).1.nymEnd (s.nymRun r).2.1 (s.nymRun r).2.2 := by
  have h1 : ¬ (r.ch ≠ ch ∨ s.nym.starting = true) := by simp [hch, hstart]
  have h2 : ¬ (s.flag F.NYM_STAT_ERROR = true ∧ (!errorAdmits r.op) = true) := by simp [herr]
  have h3 : ¬ (tests r.op = true ∧ (!pass) = true) := by simpa using htest
  unfold nymDone
  rw [hq]
  dsimp only
  rw [if_neg h1, if_neg h2, hfail]
  exact if_neg h3

/-- The end of a service whose work gives state, RESULT and output. -/
theorem next_serviceDone {s t : State} {ch v : Nat} {pass : Bool} {r : NymReq} {rs : List NymReq} {ws : List Word}
    (hq : s.nym.queue = r :: rs) (hch : r.ch = ch) (hstart : s.nym.starting = false)
    (herr : s.flag F.NYM_STAT_ERROR = false) (hfail : r.fail = none) (htest : (tests r.op && !pass) = false)
    (hrun : s.nymRun r = (t, v, ws)) : exec (.nymRequestDone ch pass) s = .next (t.nymEnd v ws).settle := by
  refine next_settle_of_eq rfl ((nymDone_runs hq hch hstart herr hfail htest).trans ?_)
  rw [hrun]

/-- A failed self-test puts the module in the error state. -/
theorem nymDone_fails {s : State} {ch : Nat} {r : NymReq} {rs : List NymReq} (hq : s.nym.queue = r :: rs) (hch : r.ch = ch)
    (hstart : s.nym.starting = false) (herr : s.flag F.NYM_STAT_ERROR = false) (hfail : r.fail = none)
    (htest : tests r.op = true) : s.nymDone ch false = s.selfTestFail := by
  have h1 : ¬ (r.ch ≠ ch ∨ s.nym.starting = true) := by simp [hch, hstart]
  have h2 : ¬ (s.flag F.NYM_STAT_ERROR = true ∧ (!errorAdmits r.op) = true) := by simp [herr]
  unfold nymDone
  rw [hq]
  dsimp only
  rw [if_neg h1, if_neg h2, hfail]
  exact if_pos ⟨htest, rfl⟩

section
variable {s : State} {r : NymReq}

theorem nymRun_getInfo (h : r.op = .getInfo) : s.nymRun r = (s, 0,
    [BitVec.ofNat 32 s.lcs, Config.moduleVersion, BitVec.ofNat 32 (b2n (s.flag F.NYM_STAT_APPROVED)), s.reg R.NYM_SVN]) := by
  unfold nymRun
  rw [h]

theorem nymRun_selfTest (h : r.op = .selfTest) (hnow : s.fld F.NYM_TAMPER_NOW = 0) : s.nymRun r =
    (((s.setFlag F.NYM_STAT_ERROR false).setFlag F.NYM_STAT_APPROVED true).nymPut { s.nym with drbg := true }, 0, []) := by
  unfold nymRun
  rw [h]
  exact if_pos (.inl hnow)

theorem nymRun_coNonce {t : State} {ws : List Word} (h : r.op = .coNonce) (hws : s.freshWords 24 = (t, ws))
    (hkey : (t.nym.certKey && t.nym.rootKey) = true) : s.nymRun r =
      (t.nymPut { t.nym with
        nonce := some (ws.take 8), nonceAt := t.aon.raw
        eph := some (keyFrom ((ws.drop 8).take 8), deviceSign (ws.drop 16) (ecPublic (keyFrom ((ws.drop 8).take 8))))
        drbg := true }, 0, ws.take 8) := by
  unfold nymRun
  rw [h]
  dsimp only
  rw [hws]
  dsimp only
  rw [hkey]
  rfl

theorem nymRun_authUser {i : Nat} (h : r.op = .authUser i) : s.nymRun r =
    (s.nymPut { s.nym with nonce := none, auth := if s.authPass r.ch i then s.nym.auth.set r.ch true else s.nym.auth },
      if s.authPass r.ch i then 0 else 4, []) := by
  unfold nymRun
  rw [h]

theorem nymRun_authEnd (h : r.op = .authEnd) :
    s.nymRun r = (s.nymPut { s.nym with auth := s.nym.auth.set r.ch false }, 0, []) := by
  unfold nymRun
  rw [h]

theorem nymRun_getCartouche (h : r.op = .getCartouche) : s.nymRun r =
    ((s.portWrite Init.NYM r.buf cartouche).1, if (s.portWrite Init.NYM r.buf cartouche).2 then 0 else 7, []) := by
  unfold nymRun
  rw [h]

theorem nymRun_random {k : Nat} {t : State} {ws : List Word} (h : r.op = .random k) (hk : k ≤ 64)
    (hws : s.freshWords (ceilDiv k 4) = (t, ws)) : s.nymRun r = (t.nymPut { t.nym with drbg := true }, 0, ws) := by
  unfold nymRun
  rw [h]
  dsimp only
  rw [if_neg (Nat.not_lt.2 hk), hws]

/-- A quote is written to its buffer and counted, whether or not the write succeeds. -/
theorem nymRun_quote {t : State} {ws : List Word} (h : r.op = .quote) (hcert : s.nym.certKey = true)
    (hroot : s.nym.rootKey = true) (hws : s.freshWords 8 = (t, ws)) {w : State × Bool}
    (hw : t.portWrite Init.NYM r.buf (t.quoteBytes r ++ deviceSign ws (t.quoteBytes r)) = w) :
    s.nymRun r = (w.1.nymPut { w.1.nym with quotes := w.1.nym.quotes + 1 }, if w.2 then 0 else 7, []) := by
  unfold nymRun
  rw [h]
  dsimp only
  rw [hcert, hroot, hws]
  dsimp only
  rw [hw]
  rfl

theorem nymRun_advanceSvn {cls : Nat} (h : r.op = .advanceSvn cls) (hcls : cls < 4) : s.nymRun r =
    (s.setReg R.NYM_SVN (putBits (s.reg R.NYM_SVN) (8 * cls) 8
        (max (getBits (s.reg R.NYM_SVN) (8 * cls) 8) (s.nym.svns.getD cls 0))), 0,
      [BitVec.ofNat 32 (max (getBits (s.reg R.NYM_SVN) (8 * cls) 8) (s.nym.svns.getD cls 0))]) := by
  unfold nymRun
  rw [h]
  exact if_neg (Nat.not_le.2 hcls)

theorem nymRun_zeroiseSession (h : r.op = .zeroiseSession) : s.nymRun r = (s.nymPut { s.nym with drbg := false }, 0, []) := by
  unfold nymRun
  rw [h]

/-! The services on the buffer, where it is read. -/

variable {t : State} {l : List Byte} (hread : s.portRead Init.NYM r.buf r.len = (t, some l))
include hread

theorem onBuffer_read (f : State → List Byte → State × Nat × List Word) : s.onBuffer r f = f t l := by
  unfold onBuffer
  rw [hread]

theorem nymRun_hash (h : r.op = .hash) : s.nymRun r = (t, 0, toWords (sha256 l)) := by
  unfold nymRun
  rw [h]
  exact onBuffer_read hread _

theorem nymRun_hmac (h : r.op = .hmac) : s.nymRun r = (t, 0, toWords (hmac256 (t.dataBytes r.ch 16) l)) := by
  unfold nymRun
  rw [h]
  exact onBuffer_read hread _

theorem nymRun_cmac (h : r.op = .cmac) : s.nymRun r = (t, 0, toWords (aesCmac (t.dataBytes r.ch 8) l)) := by
  unfold nymRun
  rw [h]
  exact onBuffer_read hread _

theorem nymRun_encrypt {slot : Nat} {iv tag key : List Byte} (h : r.op = .gcm false slot iv tag)
    (hkey : s.nym.userKeys.getD slot none = some key) : s.nymRun r =
      ((t.portWrite Init.NYM r.buf (gcmStream key iv l)).1,
        if (t.portWrite Init.NYM r.buf (gcmStream key iv l)).2 then 0 else 7,
        toWords (gcmTag key iv (gcmStream key iv l))) := by
  unfold nymRun
  rw [h]
  dsimp only
  rw [hkey]
  exact (onBuffer_read hread _).trans (if_neg fun h => Bool.noConfusion h.1)

/-- A decryption whose tag does not verify writes nothing. -/
theorem nymRun_decrypt_bad {slot : Nat} {iv tag key : List Byte} (h : r.op = .gcm true slot iv tag)
    (hkey : s.nym.userKeys.getD slot none = some key) (htag : gcmTag key iv l ≠ tag) : s.nymRun r = (t, 4, []) := by
  unfold nymRun
  rw [h]
  dsimp only
  rw [hkey]
  exact (onBuffer_read hread _).trans (if_pos ⟨rfl, htag⟩)

theorem nymRun_verify (h : r.op = .verify) :
    s.nymRun r = (t, if ecdsaVerify (slice l 0 64) (slice l 64 32) (slice l 96 64) then 0 else 4, []) := by
  unfold nymRun
  rw [h]
  exact onBuffer_read hread _

theorem nymRun_loadImage_bad {install : Bool} (h : r.op = .loadImage install) (hv : t.imgVerdict l ≠ 0) :
    s.nymRun r = (t, t.imgVerdict l, []) := by
  unfold nymRun
  rw [h]
  exact (onBuffer_read hread _).trans (if_pos hv)

theorem nymRun_loadImage (h : r.op = .loadImage false) (hv : t.imgVerdict l = 0) : s.nymRun r =
    (t, 0, toWords (sha256 ((t.nym.digests.set (imgClass l) (imgDigest l)).flatten))) := by
  unfold nymRun
  rw [h]
  exact (onBuffer_read hread _).trans (if_neg (not_not.2 hv))

theorem nymRun_installImage (h : r.op = .loadImage true) (hv : t.imgVerdict l = 0)
    (hheld : (imgSegs l).any (fun g => decide ((t.coreGet (g.target - 1)).run ≠ .held)) = false) :
    s.nymRun r = (t.imgInstall l, 0, toWords (t.imgInstall l).measurement) := by
  unfold nymRun
  rw [h]
  refine (onBuffer_read hread _).trans ((if_neg (not_not.2 hv)).trans ?_)
  exact if_neg fun hany => Bool.noConfusion (hheld.symm.trans hany)

theorem nymRun_osnmaKroot {root : List Byte} (h : r.op = .osnmaKroot) (hroot : s.nym.osnmaRoot = some root) :
    s.nymRun r = (((osnmaVerify root l).1.map fun k => t.nymPut { t.nym with osnmaKey := k }).getD t,
      if (osnmaVerify root l).2.isSome then 0 else 4, toWords ((osnmaVerify root l).2.getD [])) := by
  unfold nymRun
  rw [h]
  dsimp only
  rw [hroot]
  refine (onBuffer_read hread _).trans ?_
  rcases osnmaVerify root l with ⟨held, key⟩
  cases held <;> cases key <;> rfl

end

/-- Settles O29. The word order of GET_INFO, the inputs in NYM_DATA and the layout of an image are the model's choice (log
entries 33, 51 and 76). -/
theorem nymvisServicesComplete : Obligations.NymvisServicesComplete := by
  unfold Obligations.NymvisServicesComplete
  refine ⟨?getInfo, ?selfTest, ?coNonce, ?authPass, ?authFail, ?authEnd, ?getCartouche, ?hash, ?hmac, ?cmac, ?encrypt, ?decrypt,
    ?verify, ?random, ?quote, ?loadBad, ?installBad, ?load, ?install, ?advance, ?kroot, ?session, ?failed⟩
  case getInfo =>
    intro s ch pass r rs hq hch hstart herr hfail hop
    exact next_serviceDone hq hch hstart herr hfail (by rw [hop]; rfl) (nymRun_getInfo hop)
  case selfTest =>
    rintro s ch pass r rs hq hch hstart herr hfail hop rfl hnow
    exact next_serviceDone hq hch hstart herr hfail (Bool.and_false _) (nymRun_selfTest hop hnow)
  case coNonce =>
    rintro s ch pass r rs t ws hq hch hstart herr hfail hop rfl hws hkey
    exact next_serviceDone hq hch hstart herr hfail (Bool.and_false _) (nymRun_coNonce hop hws hkey)
  case authPass =>
    rintro s ch pass r rs i hq rfl hstart herr hfail hop hauth
    refine next_serviceDone hq rfl hstart herr hfail (by rw [hop]; rfl) ((nymRun_authUser hop).trans ?_)
    rw [hauth]
    rfl
  case authFail =>
    rintro s ch pass r rs i hq rfl hstart herr hfail hop hauth
    refine next_serviceDone hq rfl hstart herr hfail (by rw [hop]; rfl) ((nymRun_authUser hop).trans ?_)
    rw [hauth]
    rfl
  case authEnd =>
    rintro s ch pass r rs hq rfl hstart herr hfail hop
    exact next_serviceDone hq rfl hstart herr hfail (by rw [hop]; rfl) (nymRun_authEnd hop)
  case getCartouche =>
    intro s ch pass r rs hq hch hstart herr hfail hop
    exact next_serviceDone hq hch hstart herr hfail (by rw [hop]; rfl) (nymRun_getCartouche hop)
  case hash =>
    intro s ch pass r rs t l hq hch hstart herr hfail hop hread
    exact next_serviceDone hq hch hstart herr hfail (by rw [hop]; rfl) (nymRun_hash hread hop)
  case hmac =>
    rintro s ch pass r rs t l hq rfl hstart herr hfail hop hread
    exact next_serviceDone hq rfl hstart herr hfail (by rw [hop]; rfl) (nymRun_hmac hread hop)
  case cmac =>
    rintro s ch pass r rs t l hq rfl hstart herr hfail hop hread
    exact next_serviceDone hq rfl hstart herr hfail (by rw [hop]; rfl) (nymRun_cmac hread hop)
  case encrypt =>
    intro s ch pass r rs t l slot iv tag key hq hch hstart herr hfail hop hread hkey
    exact next_serviceDone hq hch hstart herr hfail (by rw [hop]; rfl) (nymRun_encrypt hread hop hkey)
  case decrypt =>
    intro s ch pass r rs t l slot iv tag key hq hch hstart herr hfail hop hread hkey htag
    exact next_serviceDone hq hch hstart herr hfail (by rw [hop]; rfl) (nymRun_decrypt_bad hread hop hkey htag)
  case verify =>
    intro s ch pass r rs t l hq hch hstart herr hfail hop hread
    exact next_serviceDone hq hch hstart herr hfail (by rw [hop]; rfl) (nymRun_verify hread hop)
  case random =>
    rintro s ch pass r rs k t ws hq hch hstart herr hfail hop rfl hk hws
    exact next_serviceDone hq hch hstart herr hfail (Bool.and_false _) (nymRun_random hop hk hws)
  case quote =>
    rintro s ch pass r rs t ws hq hch hstart herr hfail hop hcert hroot rfl hws
    exact next_serviceDone hq hch hstart herr hfail (Bool.and_false _) (nymRun_quote hop hcert hroot hws rfl)
  case loadBad =>
    rintro s ch pass r rs t l v hq hch hstart herr hfail hop hread rfl hv
    exact next_serviceDone hq hch hstart herr hfail (by rw [hop]; rfl) (nymRun_loadImage_bad hread hop hv)
  case installBad =>
    rintro s ch pass r rs t l v hq hch hstart herr hfail hop hread rfl hv
    exact next_serviceDone hq hch hstart herr hfail (by rw [hop]; rfl) (nymRun_loadImage_bad hread hop hv)
  case load =>
    intro s ch pass r rs t l hq hch hstart herr hfail hop hread hv
    exact next_serviceDone hq hch hstart herr hfail (by rw [hop]; rfl) (nymRun_loadImage hread hop hv)
  case install =>
    intro s ch pass r rs t l hq hch hstart herr hfail hop hread hv hheld
    exact next_serviceDone hq hch hstart herr hfail (by rw [hop]; rfl) (nymRun_installImage hread hop hv hheld)
  case advance =>
    rintro s ch pass r rs cls v hq hch hstart herr hfail hop hcls rfl
    exact next_serviceDone hq hch hstart herr hfail (by rw [hop]; rfl) (nymRun_advanceSvn hop hcls)
  case kroot =>
    rintro s ch pass r rs t l root held key hq hch hstart herr hfail hop hroot hread rfl rfl
    exact next_serviceDone hq hch hstart herr hfail (by rw [hop]; rfl) (nymRun_osnmaKroot hread hop hroot)
  case session =>
    intro s ch pass r rs hq hch hstart herr hfail hop
    exact next_serviceDone hq hch hstart herr hfail (by rw [hop]; rfl) (nymRun_zeroiseSession hop)
  case failed =>
    rintro s ch pass r rs hq hch hstart herr hfail htest rfl
    exact next_settle_of_eq rfl (nymDone_fails hq hch hstart herr hfail htest)

/-! ### Owner commands (R423, R430, R432, R433, R440, R441, R443) -/

/-- A command whose structure in the buffer is admitted has its effect, and the nonce is used. -/
theorem nymRun_co {s t : State} {r : NymReq} {c : Option CoCmd} {x : CoCmd} {l : List Byte} (h : r.op = .co c)
    (hfresh : s.nonceFresh = true) (hread : s.portRead Init.NYM r.buf r.len = (t, some l)) (hparse : coParse l = some x)
    (hc : c = none ∨ c = some x) (hv : t.coVerdict x l = 0) : s.nymRun r = ((t.coRun x).1.coEnd, (t.coRun x).2, []) := by
  have hsame : ¬ (c.isSome = true ∧ c ≠ some x) := by
    rcases hc with rfl | rfl
    · simp
    · simp
  have hco : t.coOf c l = t.coRun x := by
    unfold coOf
    rw [hparse]
    exact (if_neg hsame).trans (if_pos hv)
  unfold nymRun
  rw [h]
  dsimp only
  rw [hfresh, hread]
  dsimp only
  rw [hco]
  rfl

theorem keyEnter_opens {s : State} {e w k : List Byte} (f : List Byte → State) (hroot : s.nym.rootKey = true)
    (hopen : s.keyOpen e w = some k) : s.keyEnter e w f = (f k, 0) := by
  unfold keyEnter
  rw [hroot, hopen]
  rfl

theorem coRun_userKey {s : State} {i : Nat} {e w k : List Byte} (hi : i < 4) (hroot : s.nym.rootKey = true)
    (hopen : s.keyOpen e w = some k) : s.coRun (.userKey i e w) = (s.nymPut { s.nym with
      userKeys := s.nym.userKeys.set i (some k), store := { s.nym.store with user := s.nym.store.user.set i (some k) } }, 0) :=
  (if_neg (Nat.not_le.2 hi)).trans (keyEnter_opens _ hroot hopen)

theorem coRun_ptpKey {s : State} {i kid spp : Nat} {e w k : List Byte} (hi : i < 16) (hroot : s.nym.rootKey = true)
    (hopen : s.keyOpen e w = some k) : s.coRun (.ptpKey i e w kid spp) = ((s.nymPut { s.nym with
      ptpKeys := s.nym.ptpKeys.set i (some ⟨k, kid, spp⟩)
      store := { s.nym.store with ptp := s.nym.store.ptp.set i (some ⟨k, kid, spp⟩) } }).keyInstall i (some ⟨k, kid, spp⟩), 0) :=
  (if_neg (Nat.not_le.2 hi)).trans (keyEnter_opens _ hroot hopen)

theorem coRun_pairBind {s : State} {v : Nat} {a b clk : List Byte} (h : s.nym.pairRec = none) :
    s.coRun (.pairBind v a b clk) = (s.nymPut { s.nym with pairRec := some ⟨v, a, b, clk⟩ }, 0) := if_pos (.inr h)

/-- The end of an admitted owner command. -/
theorem next_ownerDone {s t u : State} {ch : Nat} {pass : Bool} {r : NymReq} {rs : List NymReq} {c : Option CoCmd} {x : CoCmd}
    {l : List Byte} (hq : s.nym.queue = r :: rs) (hch : r.ch = ch) (hstart : s.nym.starting = false)
    (herr : s.flag F.NYM_STAT_ERROR = false) (hfail : r.fail = none) (hop : r.op = .co c) (hfresh : s.nonceFresh = true)
    (hread : s.portRead Init.NYM r.buf r.len = (t, some l)) (hparse : coParse l = some x) (hc : c = none ∨ c = some x)
    (hv : t.coVerdict x l = 0) (hrun : t.coRun x = (u, 0)) :
    exec (.nymRequestDone ch pass) s = .next (u.coEnd.nymEnd 0 []).settle := by
  refine next_serviceDone hq hch hstart herr hfail (by rw [hop]; rfl) ((nymRun_co hop hfresh hread hparse hc hv).trans ?_)
  rw [hrun]

/-- Settles O30. The layout of an owner command and the order of its checks are the model's choice (log entries 33 and 51). -/
theorem nymvisOwnerCommandsComplete : Obligations.NymvisOwnerCommandsComplete := by
  unfold Obligations.NymvisOwnerCommandsComplete
  refine ⟨?take, ?rotate, ?rma, ?scrap, ?openDebug, ?userKey, ?ptpKey, ?zeroise, ?pairBind, ?grant, ?root, ?policy⟩
  case take =>
    intro s ch pass r rs c t l h req hq hch hstart herr hfail hop hfresh hread hparse hc hv
    exact next_ownerDone hq hch hstart herr hfail hop hfresh hread hparse hc hv rfl
  case rotate =>
    intro s ch pass r rs c t l h hq hch hstart herr hfail hop hfresh hread hparse hc hv
    exact next_ownerDone hq hch hstart herr hfail hop hfresh hread hparse hc hv rfl
  case rma =>
    intro s ch pass r rs c t l k hq hch hstart herr hfail hop hfresh hread hparse hc hv
    exact next_ownerDone hq hch hstart herr hfail hop hfresh hread hparse hc hv rfl
  case scrap =>
    intro s ch pass r rs c t l k hq hch hstart herr hfail hop hfresh hread hparse hc hv
    exact next_ownerDone hq hch hstart herr hfail hop hfresh hread hparse hc hv rfl
  case openDebug =>
    intro s ch pass r rs c t l hq hch hstart herr hfail hop hfresh hread hparse hc hv
    exact next_ownerDone hq hch hstart herr hfail hop hfresh hread hparse hc hv rfl
  case userKey =>
    intro s ch pass r rs c t l i e w k hq hch hstart herr hfail hop hfresh hread hparse hc hv hi hroot hopen
    exact next_ownerDone hq hch hstart herr hfail hop hfresh hread hparse hc hv (coRun_userKey hi hroot hopen)
  case ptpKey =>
    intro s ch pass r rs c t l i kid spp e w k hq hch hstart herr hfail hop hfresh hread hparse hc hv hi hroot hopen
    exact next_ownerDone hq hch hstart herr hfail hop hfresh hread hparse hc hv (coRun_ptpKey hi hroot hopen)
  case zeroise =>
    intro s ch pass r rs c t l hq hch hstart herr hfail hop hfresh hread hparse hc hv
    exact next_ownerDone hq hch hstart herr hfail hop hfresh hread hparse hc hv rfl
  case pairBind =>
    intro s ch pass r rs c t l v a b clk hq hch hstart herr hfail hop hfresh hread hparse hc hv hnone
    exact next_ownerDone hq hch hstart herr hfail hop hfresh hread hparse hc hv (coRun_pairBind hnone)
  case grant =>
    intro s ch pass r rs c t l hq hch hstart herr hfail hop hfresh hread hparse hc hv
    exact next_ownerDone hq hch hstart herr hfail hop hfresh hread hparse hc hv rfl
  case root =>
    intro s ch pass r rs c t l h hq hch hstart herr hfail hop hfresh hread hparse hc hv
    exact next_ownerDone hq hch hstart herr hfail hop hfresh hread hparse hc hv rfl
  case policy =>
    intro s ch pass r rs c t l req hq hch hstart herr hfail hop hfresh hread hparse hc hv
    exact next_ownerDone hq hch hstart herr hfail hop hfresh hread hparse hc hv rfl

/-! ### Start, boot, time-out and watchdog (R423, R428, R434, R436, R446) -/

theorem authTimeout_idle {s : State} {ch : Nat} (hnone : (s.nym.queue.any fun r => decide (r.ch = ch)) = false)
    (hlate : 300 * 32768 ≤ s.rawSince (s.nym.reqAt.getD ch 0)) :
    s.authTimeout ch = s.nymPut { s.nym with auth := s.nym.auth.set ch false } :=
  if_neg fun h => h.elim (fun hany => Bool.noConfusion (hnone.symm.trans hany)) (Nat.not_lt.2 hlate)

theorem tamperClear_eq {s : State} {k : Nat} (hk : k < 3) :
    s.tamperClear k = s.setFld F.NYM_TAMPER_NOW (setBit (s.fld F.NYM_TAMPER_NOW) k false) := if_neg (Nat.not_le.2 hk)

/-- The banks of the host bundle go to one owner, and Nymvis's registers stay. -/
theorem bundleBanks_frame (s : State) (dest : Nat) :
    RequestFrame s ([18, 19, 20, 21].foldl (fun (t : State) b => t.nymHand b dest) s) :=
  RequestFrame.foldl _ s fun t b => RequestFrame.nymHand t b dest

/-- No flash slot holds a valid bundle: it is the host's turn (R434). -/
theorem bundleVerified_rejected {s : State} {a b : List Byte} (ks : Bool) (herr : s.flag F.NYM_STAT_ERROR = false)
    (hboot : s.fld F.NYM_STAT_BOOT = 1) (ha : a ≠ []) (hokA : s.bundleOk a = false) (hokB : s.bundleOk b = false) :
    s.bundleVerified a b ks = [18, 19, 20, 21].foldl (fun (t : State) b => t.nymHand b Init.HOST)
      ((s.sticky P.NYM 11).setFld F.NYM_STAT_BOOT 2) := by
  have hne : a.isEmpty = false := by cases a <;> trivial
  have herr' : ¬ s.flag F.NYM_STAT_ERROR = true := by simp [herr]
  unfold bundleVerified
  rw [if_neg herr', if_pos hboot]
  simp only [hokA, hokB, hne, Bool.or_self, Bool.false_and, Bool.false_eq_true, false_and, if_false]

/-- A boot that goes on with the host's bundle has not released MC. -/
theorem bootVerified_rejected {s : State} {a b : List Byte} (ks : Bool) (herr : s.flag F.NYM_STAT_ERROR = false)
    (hboot : s.fld F.NYM_STAT_BOOT = 1) (ha : a ≠ []) (hokA : s.bundleOk a = false) (hokB : s.bundleOk b = false) :
    s.bootVerified a b ks = [18, 19, 20, 21].foldl (fun (t : State) b => t.nymHand b Init.HOST)
      ((s.sticky P.NYM 11).setFld F.NYM_STAT_BOOT 2) := by
  have hstill : ([18, 19, 20, 21].foldl (fun (t : State) b => t.nymHand b Init.HOST)
      ((s.sticky P.NYM 11).setFld F.NYM_STAT_BOOT 2)).beforeMc = true := by
    have hboot2 : ((s.sticky P.NYM 11).setFld F.NYM_STAT_BOOT 2).fld F.NYM_STAT_BOOT = 2 :=
      fld_setFld_same _ _ _ (by decide)
    rw [beforeMc, (bundleBanks_frame _ Init.HOST).fld_eq (by decide) (by decide), hboot2]
    rfl
  unfold bootVerified
  rw [bundleVerified_rejected ks herr hboot ha hokA hokB]
  dsimp only
  rw [hstill, Bool.not_true, Bool.and_false]
  rfl

/-- Passed self-tests approve the module and begin the bundle fetch. -/
theorem nymStarted_passed {s : State} (hstart : s.nym.starting = true) (herr : s.flag F.NYM_STAT_ERROR = false)
    (hboot : s.fld F.NYM_STAT_BOOT = 0) : s.nymStarted true =
      ((s.nymPut { s.nym with starting := false, rootKey := s.nym.puf, drbg := true }).setFlag F.NYM_STAT_APPROVED true).setFld
        F.NYM_STAT_BOOT 1 := by
  have hstill (t : State) (v : Bool) : (t.setFlag F.NYM_STAT_APPROVED v).fld F.NYM_STAT_BOOT = t.fld F.NYM_STAT_BOOT :=
    fld_setFlag_bits t v
  unfold nymStarted
  simp only [hstart, herr, hboot, hstill, nymPut_flag, nymPut_fld, Bool.not_true, Bool.not_false, Bool.true_and,
    Bool.false_eq_true, and_self, if_true, if_false]

theorem nymStarted_failed {s : State} (hstart : s.nym.starting = true) : s.nymStarted false =
    (s.nymPut { s.nym with starting := false, rootKey := false, drbg := false }).selfTestFail := by
  unfold nymStarted
  simp only [hstart, Bool.not_true, Bool.not_false, Bool.false_and, Bool.false_eq_true, if_true, if_false]

/-- A second expiry of the Nymvis watchdog within 1 s resets the device. -/
theorem nymExpiry_second {s : State} {t0 : Nat} (hat : s.nym.expiryAt = some t0) (hsoon : s.rawSince t0 < 32768) :
    s.nymExpiry = (({ s with nym := { s.nym with expiryAt := some s.aon.raw } } : State).sticky P.NYM 13).warmReset 4 := by
  unfold nymExpiry
  rw [hat]
  exact if_pos (decide_eq_true hsoon)

/-- Another expiry restarts NYC in the error state. -/
theorem nymExpiry_first {s : State} (h : ∀ t0, s.nym.expiryAt = some t0 → 32768 ≤ s.rawSince t0) :
    s.nymExpiry = ({ s with nym := { s.nym with expiryAt := some s.aon.raw } } : State).nymWatchdog := by
  unfold nymExpiry
  cases hat : s.nym.expiryAt with
  | none => rfl
  | some t0 => exact if_neg (by simpa using h t0 hat)

/-- Settles O31. What a rejected bundle leaves and the restart by the watchdog are the model's reading (log entry 51). -/
theorem nymvisEventsComplete : Obligations.NymvisEventsComplete := by
  unfold Obligations.NymvisEventsComplete
  refine ⟨?timeout, ?trip, ?clock, ?cleared, ?host, ?rejected, ?passed, ?failed, ?second, ?first, ?late⟩
  case timeout => exact fun s ch hnone hlate => next_settle_of_eq rfl (authTimeout_idle hnone hlate)
  case trip =>
    intro s k hk
    exact next_settle_of_eq rfl ((tamperTrip_eq (by omega)).trans (if_neg (by omega)))
  case clock => exact fun s => next_settle_of_eq rfl ((tamperTrip_eq (by omega)).trans (if_pos rfl))
  case cleared => exact fun s k hk => next_settle_of_eq rfl (tamperClear_eq hk)
  case host => exact fun s hboot hword => next_settle_of_eq rfl (if_pos ⟨hboot, hword⟩)
  case rejected =>
    exact fun s a b ks herr hboot ha hokA hokB => next_settle_of_eq rfl (bootVerified_rejected ks herr hboot ha hokA hokB)
  case passed =>
    rintro s pass hstart rfl herr hboot
    exact next_settle_of_eq rfl (nymStarted_passed hstart herr hboot)
  case failed =>
    rintro s pass hstart rfl
    exact next_settle_of_eq rfl (nymStarted_failed hstart)
  case second =>
    rintro s edges t0 t rfl hat hsoon
    exact next_settle_of_eq rfl (nymExpiry_second hat hsoon)
  case first =>
    rintro s edges t rfl hat
    exact next_settle_of_eq rfl (nymExpiry_first fun t0 h => nomatch hat.symm.trans h)
  case late =>
    rintro s edges t0 t rfl hat hlate
    exact next_settle_of_eq rfl (nymExpiry_first fun t1 h => Option.some.inj (hat.symm.trans h) ▸ hlate)

end State
end Sys2Proof.Machine
end

