-- ==== Sys2Proof/Proofs/PowerClocks.lean ====
section
/-! PROOF. The regulators and the operating points (chapter 18; R239, R450, R459 to R461): each step under its own
condition. -/

namespace Sys2Proof.Machine
namespace State

/-! ### A change of the correlator's clock leaves the PMU (R185) -/

theorem foldl_pmu {α : Type} {f : State → α → State} (l : List α) (s : State) (h : ∀ t x, (f t x).pmu = t.pmu) :
    (l.foldl f s).pmu = s.pmu :=
  List.foldlRecOn (motive := fun t : State => t.pmu = s.pmu) l f rfl fun t ht x _ => (h t x).trans ht

theorem corShow_pmu (s : State) (u : Nat) : (s.corShow u).pmu = s.pmu := by simp [corShow, corTotals]

theorem corFitUnit_pmu (s : State) (u : Nat) : (s.corFitUnit u).pmu = s.pmu := by
  unfold corFitUnit
  dsimp only
  split
  · exact corShow_pmu s u
  · rw [sticky_pmu, corShow_pmu]
    refine foldl_pmu _ s fun t k => ?_
    split
    · exact corPut_pmu ..
    · rfl

theorem divSet_pmu (s : State) (c a : Nat) : (s.divSet c a).pmu = s.pmu := by
  unfold divSet corFit
  rw [foldl_pmu _ _ fun t u => corFitUnit_pmu t u, clkPut_pmu, setFld_pmu, setFld_pmu]

/-! ### Operating-point changes (R239, R460, R461) -/

theorem inSequence_setTarget (s : State) (k : Nat) : (s.setFld F.PMU_OPP_TARGET k).inSequence = s.inSequence :=
  congrArg (fun v => decide (5 ≤ v)) (fld_setFld_addr s F.PMU_OPP_TARGET F.PMU_STAT_STATE k (by decide))

theorem oppChange_starts {s : State} {init k : Nat} (hk : k < 3) (hidle : s.pmu.opp = .idle) (hseq : s.inSequence = false) :
    s.oppChange init k = (s.setFld F.PMU_OPP_TARGET k).oppStart k := by
  have hfree : ¬ ((s.setFld F.PMU_OPP_TARGET k).pmu.opp ≠ .idle ∨ (s.setFld F.PMU_OPP_TARGET k).inSequence = true) := by
    rw [setFld_pmu, inSequence_setTarget, hidle, hseq]
    decide
  exact (if_neg (Nat.not_le.2 hk)).trans (if_neg hfree)

theorem oppAnnounceAgain_waiting {s : State} (hw : s.pmu.opp = .waitClear) (hreq : s.flag F.CHS_OPP_REQ = false) :
    s.oppAnnounceAgain = s.oppAnnounce s.pmu.oppNext := if_pos ⟨hw, by rw [hreq]; rfl⟩

theorem oppClearTimeout_waiting {s : State} (hw : s.pmu.opp = .waitClear) (hclear : s.flag F.CHS_OPP_CLEAR = false) :
    s.oppClearTimeout = (s.sticky P.CHS 15).pmuPut { s.pmu with opp := .divDown } := if_pos ⟨hw, by rw [hclear]; rfl⟩

theorem dividerApply_raised {s : State} (hnext : s.clk.divNext = none) (hup : s.pmu.opp = .divUp) : s.dividerApply =
    (((s.divSet s.pmu.oppNext s.pmu.oppNext).setFld F.PMU_OPP_CUR s.pmu.oppNext).chsShow).oppEnd := by
  unfold dividerApply divNextApply
  rw [hnext]
  dsimp only
  rw [hup]

theorem dividerApply_direct {s : State} {c a : Nat} (hidle : s.pmu.opp = .idle) (hnext : s.clk.divNext = some (c, a)) :
    s.dividerApply = s.divSet c a := by
  unfold dividerApply divNextApply
  rw [hnext]
  dsimp only
  rw [divSet_pmu, hidle]

/-! ### The regulators (R450, R459) -/

/-- An acknowledgement of VDD_ENG lets a raise go on to its settling. -/
theorem pmbusAck_raised {s : State} {mv v : Nat} (hcmd : s.pmu.engCmd = some v) (hlow : mv ≤ v + 10) (hhigh : v ≤ mv + 10)
    (hup : s.pmu.opp = .waitAckUp) {t : State} (ht : t = s.pmuPut { s.pmu with pmbSent := [s.pmbTx true .readVout] }) :
    s.pmbusAck true mv = t.pmuPut { t.pmu with engAck := some v, engAwait := false, engHold := false, opp := .settle } := by
  have hnear : (decide (mv ≤ v + 10) && decide (v ≤ mv + 10)) = true := by simp [hlow, hhigh]
  subst ht
  unfold pmbusAck
  simp only [pmuPut, hcmd, hnear, hup, if_true]

theorem pmbusAck_proc {s : State} {mv v : Nat} (hcmd : s.pmu.procCmd = some v) (hlow : mv ≤ v + 10) (hhigh : v ≤ mv + 10)
    {t : State} (ht : t = s.pmuPut { s.pmu with pmbSent := [s.pmbTx false .readVout] }) :
    s.pmbusAck false mv = t.pmuPut { t.pmu with procAck := some v, procAwait := false } := by
  have hnear : (decide (mv ≤ v + 10) && decide (v ≤ mv + 10)) = true := by simp [hlow, hhigh]
  subst ht
  unfold pmbusAck
  simp only [pmuPut, hcmd, hnear, Bool.false_eq_true, if_true, if_false]

/-- A raise whose acknowledgement does not come is abandoned. -/
theorem pmbusTimeout_raise {s : State} (hawait : s.pmu.engAwait = true) (hup : s.pmu.opp = .waitAckUp) : s.pmbusTimeout true =
    (((s.sticky P.PMU 9).pmuPut { s.pmu with engAwait := false }).setFlag F.PMU_OPP_FAILED true).oppEnd := by
  unfold pmbusTimeout
  simp only [hawait, pmuPut, hup, if_true, Bool.not_true, Bool.false_eq_true, if_false]

theorem pmbusTimeout_proc {s : State} (hawait : s.pmu.procAwait = true) :
    s.pmbusTimeout false = (s.sticky P.PMU 9).pmuPut { s.pmu with procAwait := false } := by
  unfold pmbusTimeout
  simp only [hawait, Bool.not_true, Bool.not_false, Bool.false_eq_true, if_true, if_false]

theorem pmbAlert_low (s : State) (status : Nat) (proc : Bool) : s.pmbAlert true status proc =
    ((((s.pmuPut { s.pmu with alertN := false, pmbSent := [s.pmbTx (!proc) .statusWord] }).setFlag F.PMU_PMBSTAT_ALERT true).setFld
      F.PMU_PMBSTAT_STATUS_WORD status).setFlag F.PMU_PMBSTAT_SOURCE proc).sticky P.PMU 10 := by
  simp only [pmbAlert, if_true, Bool.not_true]

/-- Settles O33. The transactions of the regulators, their acknowledgement and the order of an announcement are the model's
reading (log entries 52 and 82). -/
theorem regulatorAndOperatingPointCommandsComplete : Obligations.RegulatorAndOperatingPointCommandsComplete := by
  unfold Obligations.RegulatorAndOperatingPointCommandsComplete
  refine ⟨?change, ?announce, ?clear, ?doneEng, ?doneProc, ?ackEng, ?ackProc, ?lateEng, ?lateProc, ?settled, ?alert, ?procv,
    ?raised, ?direct⟩
  case change =>
    intro s init k ha hk hidle hseq
    exact next_settle_of_eq rfl ((via_admits ha _).trans (oppChange_starts (s := s.respond .served) hk hidle hseq))
  case announce => exact fun s hw hreq => next_settle_of_eq rfl (oppAnnounceAgain_waiting hw hreq)
  case clear => exact fun s hw hclear => next_settle_of_eq rfl (oppClearTimeout_waiting hw hclear)
  case doneEng =>
    rintro s eng data rfl
    exact next_settle_of_eq rfl rfl
  case doneProc =>
    rintro s eng data rfl
    exact next_settle_of_eq rfl rfl
  case ackEng =>
    rintro s eng mv v t rfl ht hcmd hlow hhigh hup
    exact next_settle_of_eq rfl (pmbusAck_raised hcmd hlow hhigh hup ht)
  case ackProc =>
    rintro s eng mv v t rfl ht hcmd hlow hhigh
    exact next_settle_of_eq rfl (pmbusAck_proc hcmd hlow hhigh ht)
  case lateEng =>
    rintro s eng rfl hawait hup
    exact next_settle_of_eq rfl (pmbusTimeout_raise hawait hup)
  case lateProc =>
    rintro s eng rfl hawait
    exact next_settle_of_eq rfl (pmbusTimeout_proc hawait)
  case settled => exact fun s h => next_settle_of_eq rfl (if_pos h)
  case alert =>
    rintro s low status proc rfl
    exact next_settle_of_eq rfl (pmbAlert_low s status proc)
  case procv => exact fun s init w ha => next_via_admits rfl ha
  case raised => exact fun s hnext hup => next_settle_of_eq rfl (dividerApply_raised hnext hup)
  case direct => exact fun s c a hidle hnext => next_settle_of_eq rfl (dividerApply_direct hidle hnext)

end State
end Sys2Proof.Machine
end

