-- ==== Sys2Proof/Proofs/RtcBackup.lean ====
section
/-! PROOF. The always-on domain (chapter 19): what a brown-out ends. -/

namespace Sys2Proof.Machine
namespace State

/-- The device is in reset, its output stage of OCXO_CV holds level 0, and AON runs from VBAT. -/
def backupSupply : State :=
  { State.reset with
    aon := { State.reset.aon with onVbat := true, cv := some 0 }
    pmu := { State.reset.pmu with deviceReset := true } }

/-- Refutes O36: a brown-out on VBAT ends the level that OCXO_CV holds while the device is in reset (R296, R529); the statement
keeps it. -/
theorem not_alwaysOnCommandsComplete : ¬ Obligations.AlwaysOnCommandsComplete := by
  unfold Obligations.AlwaysOnCommandsComplete
  rintro ⟨-, -, -, -, -, -, -, -, -, -, -, hbrown, -⟩
  have hexec : Host.Outcome.next backupSupply.aonBrownOut.settle = _ := hbrown backupSupply rfl
  have haon := congrArg State.aon (Host.Outcome.next.inj hexec)
  rw [settle_aon, settle_aon] at haon
  exact nomatch congrArg Aon.cv haon

end State
end Sys2Proof.Machine
end

