-- ==== Sys2Proof/Proofs/HostInterface.lean ====
section
/-! PROOF. The host interface (chapter 20): the fetch engine, the PCI Express link, UARTs, QSPI, MDIO and GPIO, the accesses of
the host and the mailbox indices (R494 to R508). -/

namespace Sys2Proof.Machine
namespace State

/-! ### The fetch engine (R496) -/

/-- GO with good parameters starts a copy from host memory. -/
theorem fetchStart_reads {s : State} (hidle : s.host.fetch = none) (hlive : s.live P.PCIE = true)
    (hok : (s.setFld F.PCIE_FCMD_DIR 0).fetchOk = true) : s.fetchStart 1 =
      (((s.setFld F.PCIE_FCMD_DIR 0).setFlag F.PCIE_FSTAT_BUSY true).setFld F.PCIE_FSTAT_RESULT 0).hostPut { s.host with
        fetch := some (0, (s.reg R.PCIE_FLADDR).toNat, s.fld F.PCIE_FLEN_LEN,
          (s.reg R.PCIE_FHADDR0).toNat + (s.reg R.PCIE_FHADDR1).toNat * 2 ^ 32)
        fetchReq := tlpReads s.host.mrrs (s.fld F.PCIE_FLEN_LEN / s.host.mrrs + 1)
          ((s.reg R.PCIE_FHADDR0).toNat + (s.reg R.PCIE_FHADDR1).toNat * 2 ^ 32) (s.fld F.PCIE_FLEN_LEN) } := by
  have hdir : getBits (BitVec.ofNat 32 1) 1 1 = 0 := by decide
  have hgo : getBits (BitVec.ofNat 32 1) 0 1 = 1 := by decide
  unfold fetchStart
  simp only [hdir, hgo, hidle, hlive, hok, setFld_host, Option.isSome_none, Bool.not_true, Bool.false_eq_true, or_self,
    Nat.one_ne_zero, if_true, if_false]

theorem fetchDone_read {s t : State} {data : List Byte} {a n h : Nat} (hf : s.host.fetch = some (0, a, n, h))
    (hup : s.pcieUp = true) (hbme : s.flag F.PCIE_STAT_BME = true) (hlen : data.length = n)
    (hw : s.portWrite Init.HOST a data = (t, true)) : s.fetchDone data = (t.fetchEnd 0).irq P.PCIE 0 := by
  have hgo : ¬ ((!s.pcieUp) = true ∨ (!s.flag F.PCIE_STAT_BME) = true ∨ (0 = 0 ∧ data.length ≠ n)) := by
    simp [hup, hbme, hlen]
  unfold fetchDone
  rw [hf]
  dsimp only
  rw [if_neg hgo, if_pos rfl, hw]

theorem fetchDone_write {s t : State} (data : List Byte) {l : List Byte} {a n h : Nat} (hf : s.host.fetch = some (1, a, n, h))
    (hup : s.pcieUp = true) (hbme : s.flag F.PCIE_STAT_BME = true) (hr : s.portRead Init.HOST a n = (t, some l)) :
    s.fetchDone data = ((t.hostPut { t.host with fetchOut := tlpWrites s.host.mps (n / s.host.mps + 1) h l }).fetchEnd 0).irq
      P.PCIE 0 := by
  have hgo : ¬ ((!s.pcieUp) = true ∨ (!s.flag F.PCIE_STAT_BME) = true ∨ (1 = 0 ∧ data.length ≠ n)) := by simp [hup, hbme]
  unfold fetchDone
  rw [hf]
  dsimp only
  rw [if_neg hgo, if_neg Nat.one_ne_zero, hr]

theorem fetchTimeout_write {s : State} (data : List Byte) {a n h : Nat} (hf : s.host.fetch = some (1, a, n, h)) :
    s.fetchTimeout data = (s.fetchEnd 2).sticky P.PCIE 10 := by
  unfold fetchTimeout
  rw [hf]
  rfl

theorem fetchTimeout_read {s : State} (data : List Byte) {a n h : Nat} (hf : s.host.fetch = some (0, a, n, h)) :
    s.fetchTimeout data = ((s.portWrite Init.HOST a (data.take n)).1.fetchEnd 2).sticky P.PCIE 10 := by
  unfold fetchTimeout
  rw [hf]
  rfl

/-! ### The PCI Express link (R493, R498) -/

theorem pcieLink_up {s : State} {speed width : Nat} (hlive : s.live P.PCIE = true) (hdown : s.flag F.PCIE_STAT_LINK_UP = false) :
    s.pcieLink true speed width = (((s.setFlag F.PCIE_STAT_LINK_UP true).setFld F.PCIE_STAT_SPEED (clampNat 1 3 speed)).setFld
      F.PCIE_STAT_WIDTH (clampNat 1 2 width)).irq P.PCIE 1 := by
  unfold pcieLink
  simp only [hlive, hdown, Bool.not_true, Bool.false_eq_true, or_self, if_true, if_false]

theorem pcieLink_down {s : State} {speed width : Nat} (hlive : s.live P.PCIE = true) (hup : s.flag F.PCIE_STAT_LINK_UP = true) :
    s.pcieLink false speed width = (((((s.setFlag F.PCIE_STAT_LINK_UP false).setFld F.PCIE_STAT_SPEED 0).setFld
      F.PCIE_STAT_WIDTH 0).irq P.PCIE 1).sticky P.PCIE 9).hostPut { s.host with waiting := s.host.waiting.filter (·.spi) } := by
  unfold pcieLink
  simp only [hlive, hup, Bool.not_true, Bool.false_eq_true, Bool.true_eq_false, or_self, if_false, irq_host, setFld_host,
    setFlag_host]

/-! ### UARTs, QSPI and MDIO (R501, R503, R504) -/

theorem uartReceive_free {s : State} {u : Nat} (b : Byte) (hon : s.uartOn u = true)
    (hfree : (s.host.uartRx.getD u []).length < 64) : s.uartReceive u b =
      s.hostPut { s.host with uartRx := s.host.uartRx.set u (s.host.uartRx.getD u [] ++ [b]) } :=
  (if_neg (by simp [hon])).trans (if_neg (Nat.not_le.2 hfree))

theorem uartReceive_full {s : State} {u : Nat} (b : Byte) (hon : s.uartOn u = true)
    (hfull : 64 ≤ (s.host.uartRx.getD u []).length) :
    s.uartReceive u b = (s.setFlag (F.UART_STAT_RXOVR u) true).sticky P.UART 8 u :=
  (if_neg (by simp [hon])).trans (if_pos hfull)

theorem uartSent_on {s : State} {u : Nat} (hon : s.uartOn u = true) : s.uartSent u =
    s.hostPut { s.host with uartTx := s.host.uartTx.set u ((s.host.uartTx.getD u []).drop 1) } := if_pos hon

theorem qspiCommand_starts {s : State} {w : Nat} (hgo : getBits (BitVec.ofNat 32 w) 31 1 = 1) (hidle : s.host.qspiCmd = none)
    (hlive : s.live P.UART = true) : s.qspiCommand w =
      ((s.setReg R.QSPI_CMD (BitVec.ofNat 32 w &&& 0x00FFFFFF)).hostPut { s.host with
        qspiCmd := some (BitVec.ofNat 32 w) }).setFlag F.QSPI_STAT_BUSY true :=
  if_pos ⟨hgo, by rw [hidle]; rfl, hlive⟩

/-- A write to the flash has taken its bytes from the FIFO. -/
theorem qspiDone_write {s : State} (data : List Byte) {v : Word} (hc : s.host.qspiCmd = some v) (hw : getBits v 23 1 = 1) :
    s.qspiDone data =
      (s.hostPut { s.host with qspi := s.host.qspi.drop (qspiLen v), qspiCmd := none }).setFlag F.QSPI_STAT_BUSY false := by
  unfold qspiDone
  rw [hc]
  dsimp only
  rw [if_pos hw]

/-- A read from the flash has brought its bytes into the FIFO. -/
theorem qspiDone_read {s : State} {data : List Byte} {v : Word} (hc : s.host.qspiCmd = some v) (hr : getBits v 23 1 = 0)
    (hlen : data.length = qspiLen v) : s.qspiDone data =
      (s.hostPut { s.host with qspi := (s.host.qspi ++ data).take 256, qspiCmd := none }).setFlag F.QSPI_STAT_BUSY false := by
  have hread : ¬ getBits v 23 1 = 1 := by omega
  unfold qspiDone
  rw [hc]
  dsimp only
  rw [if_neg hread, List.take_left' hlen]

theorem mdioCommand_starts {s : State} {w : Nat} (hidle : s.host.mdio = none) (hlive : s.live P.UART = true) :
    s.mdioCommand w = ((s.setReg R.MDIO_CMD (BitVec.ofNat 32 w &&& 0xFFFF3FFF)).hostPut { s.host with
      mdio := some (BitVec.ofNat 32 w) }).setFlag F.MDIO_STAT_BUSY true :=
  (if_neg (by simp [hidle])).trans (if_pos hlive)

theorem mdioDone_write {s : State} (data : Nat) {v : Word} (hc : s.host.mdio = some v) (hw : mdioReads v = false) :
    s.mdioDone data = (s.hostPut { s.host with mdio := none }).setFlag F.MDIO_STAT_BUSY false := by
  unfold mdioDone
  rw [hc]
  exact if_neg (by simp [hw])

theorem mdioDone_read {s : State} (data : Nat) {v : Word} (hc : s.host.mdio = some v) (hr : mdioReads v = true) :
    s.mdioDone data = ((s.hostPut { s.host with mdio := none }).setFlag F.MDIO_STAT_BUSY false).setFld F.MDIO_STAT_DATA data := by
  unfold mdioDone
  rw [hc]
  exact if_pos hr

/-! ### GPIO (R505) -/

/-- A ball whose present level is a selected edge raises its interrupt. -/
theorem gpioCount_edge {s : State} {n : Nat} {level : Bool} (hlevel : bit s.gpioLevel n = level)
    (hnew : bit s.host.balls n ≠ level) (hlive : s.live P.GPIO = true)
    (hsel : bit (s.fld F.GPIO_EDGE_EDGE / 4 ^ n % 4) (if level then 0 else 1) = true) :
    s.gpioCount n = (s.hostPut { s.host with balls := setBit s.host.balls n level }).irq P.GPIO n := by
  have hboth : (s.live P.GPIO && bit (s.fld F.GPIO_EDGE_EDGE / 4 ^ n % 4) (if level then 0 else 1)) = true := by
    rw [hlive, hsel]
    rfl
  unfold gpioCount
  dsimp only
  rw [hlevel, if_neg hnew]
  exact if_pos hboth

theorem gpioEdge_counts {s : State} {n : Nat} {level held : Bool} (hn : n < 16)
    (hheld : held = true ∨ bit (s.fld F.GPIO_DEB_DEB) n = false) : s.gpioEdge n level held =
      (s.hostPut { s.host with ext := setBit s.host.ext n level }).gpioCount n := by
  have hcount : held = true ∨ (!bit (s.fld F.GPIO_DEB_DEB) n) = true := hheld.imp id fun h => by rw [h]; rfl
  exact (if_neg (Nat.not_le.2 hn)).trans (if_pos hcount)

/-- Settles O38. The limit of a QSPI transfer and the frames that read are the model's choice (log entries 55 and 56). -/
theorem hostInterfaceCommandsComplete : Obligations.HostInterfaceCommandsComplete := by
  unfold Obligations.HostInterfaceCommandsComplete
  refine ⟨?fetchStart, ?fetchRead, ?fetchWrite, ?lateWrite, ?lateRead, ?eoi, ?linkUp, ?linkDown, ?busMaster, ?power, ?msix, ?rx,
    ?overrun, ?tx, ?qspi, ?qspiWrite, ?qspiRead, ?mdio, ?mdioWrite, ?mdioRead, ?gpioSet, ?gpioClr, ?edge⟩
  case fetchStart =>
    rintro s init w h n ha rfl rfl rfl hidle hlive hok
    exact next_settle_of_eq rfl ((via_admits ha _).trans (fetchStart_reads (s := s.respond .served) hidle hlive hok))
  case fetchRead => exact fun s data a n h t hf hup hbme hlen hw => next_settle_of_eq rfl (fetchDone_read hf hup hbme hlen hw)
  case fetchWrite => exact fun s data l a n h t hf hup hbme hr => next_settle_of_eq rfl (fetchDone_write data hf hup hbme hr)
  case lateWrite => exact fun s data a n h hf => next_settle_of_eq rfl (fetchTimeout_write data hf)
  case lateRead => exact fun s data a n h hf => next_settle_of_eq rfl (fetchTimeout_read data hf)
  case eoi => exact fun s init v ha => next_via_admits rfl ha
  case linkUp =>
    rintro s up speed width hlive hdown rfl
    exact next_settle_of_eq rfl (pcieLink_up hlive hdown)
  case linkDown =>
    rintro s up speed width hlive hup rfl
    exact next_settle_of_eq rfl (pcieLink_down hlive hup)
  case busMaster => exact fun s on hlive hup => next_settle_of_eq rfl (if_pos (by rw [hlive, hup]; rfl))
  case power => exact fun s d3hot hlive hup => next_settle_of_eq rfl (if_pos (by rw [hlive, hup]; rfl))
  case msix =>
    rintro s en mask hlive hup rfl
    exact next_settle_of_eq rfl (if_pos (by rw [hlive, hup]; rfl))
  case rx => exact fun s u b hon hfree => next_settle_of_eq rfl (uartReceive_free b hon hfree)
  case overrun => exact fun s u b hon hfull => next_settle_of_eq rfl (uartReceive_full b hon hfull)
  case tx => exact fun s u hon => next_settle_of_eq rfl (congrArg nmeaDrain (uartSent_on hon))
  case qspi =>
    intro s init w ha hgo hidle hlive
    exact next_settle_of_eq rfl ((via_admits ha _).trans (qspiCommand_starts (s := s.respond .served) hgo hidle hlive))
  case qspiWrite => exact fun s data v hc hw => next_settle_of_eq rfl (qspiDone_write data hc hw)
  case qspiRead => exact fun s data v hc hr hlen => next_settle_of_eq rfl (qspiDone_read hc hr hlen)
  case mdio =>
    intro s init w ha hidle hlive
    exact next_settle_of_eq rfl ((via_admits ha _).trans (mdioCommand_starts (s := s.respond .served) hidle hlive))
  case mdioWrite => exact fun s data v hc hw => next_settle_of_eq rfl (mdioDone_write data hc hw)
  case mdioRead => exact fun s data v hc hr => next_settle_of_eq rfl (mdioDone_read data hc hr)
  case gpioSet => exact fun s init w ha => next_via_admits rfl ha
  case gpioClr => exact fun s init w ha => next_via_admits rfl ha
  case edge =>
    rintro s n level held t hn rfl hheld hlevel hnew hlive hsel
    exact next_settle_of_eq rfl ((gpioEdge_counts hn hheld).trans (gpioCount_edge hlevel hnew hlive hsel))

/-! ### Accesses of the host (R494, R495, R500) -/

theorem bar0Access_write {s : State} {off v : Nat} (hup : s.pcieUp = true) (hoff : off < 16777216)
    (ha : s.admits Init.HOST (0x40000000 + off) = true)
    (hserved : ((s.respond .served).regAct Init.HOST (0x40000000 + off) (BitVec.ofNat 32 v)).resp = .served) :
    s.bar0Access off 4 true v = (s.respond .served).regAct Init.HOST (0x40000000 + off) (BitVec.ofNat 32 v) := by
  have hin : ¬ ((!s.pcieUp) = true ∨ 2 ^ 24 ≤ off) := by simpa [hup] using hoff
  unfold bar0Access
  rw [if_neg hin, if_pos rfl]
  dsimp only
  rw [busWrite_admits ha, if_pos hserved]

theorem bar0Access_read {s : State} {off : Nat} (v : Nat) (hup : s.pcieUp = true) (hoff : off < 16777216)
    (ha : s.serves Init.HOST (0x40000000 + off) = true) : s.bar0Access off 4 false v =
      (s.readDone (0x40000000 + off)).hostPut { (s.readDone (0x40000000 + off)).host with
        words := [some (s.readWord (0x40000000 + off))] } := by
  have hin : ¬ ((!s.pcieUp) = true ∨ 2 ^ 24 ≤ off) := by simpa [hup] using hoff
  unfold bar0Access
  rw [if_neg hin, if_neg Bool.false_ne_true]
  dsimp only
  rw [busRead_serves ha]
  rfl

/-- A whole word that no handover holds reaches its bank. -/
theorem bar2Words_word {s t : State} {a v : Nat} (hheld : s.bankHolds ⟨Init.HOST, true, a, 4, v % 4294967296⟩ = false)
    (hw : s.farWrite Init.HOST a 4 (v % 4294967296) = (t, .served)) : bar2Words s a [(15, v)] = t.respond .served := by
  have hfree : ¬ s.bankHolds ⟨Init.HOST, true, a, 4, v % 2 ^ 32⟩ = true := by simp [hheld]
  have hw' : s.farWrite Init.HOST a 4 (v % 2 ^ 32) = (t, .served) := hw
  show s.bar2Put a 4 (v % 2 ^ 32) = _
  rw [bar2Put, if_neg hfree, hw']
  rfl

theorem bar2Access_write {s t : State} {off v : Nat} (count : Nat) (hup : s.pcieUp = true) (halign : off % 4 = 0)
    (hoff : off + 4 ≤ 4194304) (hmps : 4 ≤ s.host.mps)
    (hheld : s.bankHolds ⟨Init.HOST, true, s.bar2Addr off, 4, v % 4294967296⟩ = false)
    (hw : s.farWrite Init.HOST (s.bar2Addr off) 4 (v % 4294967296) = (t, .served)) :
    s.bar2Access off true [(15, v)] count = t.respond .served := by
  have hin : ¬ ((!s.pcieUp) = true ∨ off % 4 ≠ 0 ∨ 2 ^ 22 < off + 4 * 1) := by
    simp [hup, halign]
    omega
  have hsize : ¬ s.host.mps < 4 * 1 := Nat.not_lt.2 hmps
  exact (if_neg hin).trans ((if_pos rfl).trans ((if_neg hsize).trans (bar2Words_word hheld hw)))

theorem bar2Access_read {s t : State} {off count : Nat} (words : List (Nat × Nat)) {l : List (Option Word)}
    (hup : s.pcieUp = true) (halign : off % 4 = 0) (hoff : off + 4 * count ≤ 4194304)
    (hheld : ((List.range count).any fun k => s.bankHolds ⟨Init.HOST, false, s.bar2Addr off + 4 * k, 4, 0⟩) = false)
    (hr : hostReads s (s.bar2Addr off) count = (t, l)) (hl : l.contains none = false) :
    s.bar2Access off false words count = t.hostPut { t.host with words := l } := by
  have hin : ¬ ((!s.pcieUp) = true ∨ off % 4 ≠ 0 ∨ 2 ^ 22 < off + 4 * count) := by
    simp [hup, halign]
    omega
  have hserve : s.readServe ⟨false, s.bar2Addr off, count, true, []⟩ = t.hostPut { t.host with words := l } := by
    unfold readServe
    simp only [hr, hl, Bool.false_eq_true, if_false]
  refine (if_neg hin).trans ((if_neg Bool.false_ne_true).trans ((if_neg ?_).trans hserve))
  exact fun hwait => Bool.noConfusion (hheld.symm.trans hwait)

/-- A whole read frame without CRC sends its words after their markers. -/
theorem readServe_frame {s u : State} {a n : Nat} {fill : List Nat} {l : List (Option Word)}
    (hcrc : s.flag F.SPIT_CFG_CRC = false) (hr : hostReads s a n = (u, l)) : s.readServe ⟨true, a, n, true, fill⟩ =
      u.hostPut { u.host with
        words := l, spiErr := l.contains none, spiCrc := false
        miso := if s.pinsForced then [] else u.host.miso ++ spiWords l fill } := by
  unfold readServe
  simp only [hr, hcrc, Bool.false_and, Bool.false_eq_true, if_true, if_false, List.append_nil]

theorem spiReadFrame_whole {s t u : State} {addr count : Nat} {fill : List Nat} {l : List (Option Word)} (hup : s.spiUp = true)
    (hcrc : s.flag F.SPIT_CFG_CRC = false) (ht : t = s.spiBegin)
    (hwait : t.readWaits ⟨true, addr % 2 ^ 32, count % 64 + 1, true, fill⟩ = false)
    (hr : hostReads t (addr % 2 ^ 32) (count % 64 + 1) = (u, l)) :
    s.spiReadFrame 3 addr count (count % 64 + 1) fill = u.hostPut { u.host with
      words := l, spiErr := l.contains none, spiCrc := false
      miso := if t.pinsForced then [] else u.host.miso ++ spiWords l fill } := by
  subst ht
  have hwait' : ¬ s.spiBegin.readWaits ⟨true, addr % 2 ^ 32, count % 64 + 1, true, fill⟩ = true :=
    fun h => Bool.noConfusion (hwait.symm.trans h)
  have hframe : s.spiReadFrame 3 addr count (count % 64 + 1) fill =
      s.spiBegin.hostRead ⟨true, addr % 2 ^ 32, count % 64 + 1, true, fill⟩ := by
    simp [spiReadFrame, hup]
  exact hframe.trans ((if_neg hwait').trans (readServe_frame hcrc hr))

theorem spiWriteFrame_whole {s t u : State} {addr count : Nat} (crc : Nat) {data : List Byte} {e : Bool} (hup : s.spiUp = true)
    (hcrc : s.flag F.SPIT_CFG_CRC = false) (hlen : data.length = 4 * (count % 64 + 1)) (ht : t = s.spiBegin)
    (hw : hostWrites t (addr % 2 ^ 32) (toWords data) = (u, e)) :
    s.spiWriteFrame 2 addr count data crc = u.hostPut { u.host with spiErr := e, spiCrc := false } := by
  subst ht
  have hcrc' : s.spiBegin.flag F.SPIT_CFG_CRC = false := hcrc
  have hbody : data.take (4 * (count % 64 + 1)) = data := List.take_of_length_le hlen.le
  have hwords : data.take (data.length / 4 * 4) = data := List.take_of_length_le (by omega)
  unfold spiWriteFrame
  simp only [hup, hcrc', hbody, hwords, hw, Bool.not_true, Bool.false_eq_true, false_and, if_false, ne_eq,
    not_true_eq_false]
  rfl

/-! ### The mailbox indices (R508) -/

theorem cmdpiWrite_rings {s : State} {v : Nat} (hheld : s.hostWriteHeld = false)
    (hring : ringLen (v % 65536) (s.fld F.MBX_CMDCI_IDX) ≤ 1024) :
    s.cmdpiWrite v = ((s.setFld F.MBX_CMDPI_IDX (v % 65536)).irq P.MBX 1).coreLine 10 4 :=
  (if_neg (by simp [hheld])).trans (if_neg (Nat.not_lt.2 hring))

/-- Settles O39. How an access of the host meets the FIFOs and the responses that a handover holds is the model's reading (log
entry 55). -/
theorem hostAccessAndMailboxIndexCommandsComplete : Obligations.HostAccessAndMailboxIndexCommandsComplete := by
  unfold Obligations.HostAccessAndMailboxIndexCommandsComplete
  refine ⟨?bar0Write, ?bar0Read, ?bar2Write, ?bar2Read, ?spiRead, ?spiWrite, ?cmdpi, ?cmdci, ?rsppi, ?rspci⟩
  case bar0Write => exact fun s off v hup hoff ha hserved => next_settle_of_eq rfl (bar0Access_write hup hoff ha hserved)
  case bar0Read => exact fun s off v hup hoff ha => next_settle_of_eq rfl (bar0Access_read v hup hoff ha)
  case bar2Write =>
    intro s off v count t hup halign hoff hmps hheld hw
    exact next_settle_of_eq rfl (bar2Access_write count hup halign hoff hmps hheld hw)
  case bar2Read =>
    intro s off count words t l hup halign hoff hheld hr hl
    exact next_settle_of_eq rfl (bar2Access_read words hup halign hoff hheld hr hl)
  case spiRead =>
    rintro s addr count n fill t u l hup rfl hcrc ht hwait hr
    exact next_settle_of_eq rfl (spiReadFrame_whole hup hcrc ht hwait hr)
  case spiWrite =>
    intro s addr count crc data t u e hup hcrc hlen ht hw
    exact next_settle_of_eq rfl (spiWriteFrame_whole crc hup hcrc hlen ht hw)
  case cmdpi =>
    intro s init v ha hheld hring
    exact next_settle_of_eq rfl ((via_admits ha _).trans (cmdpiWrite_rings (s := s.respond .served) hheld hring))
  case cmdci => exact fun s init v ha => next_via_admits rfl ha
  case rsppi => exact fun s init v ha => next_via_admits rfl ha
  case rspci => exact fun s init v ha => next_via_admits rfl ha

end State
end Sys2Proof.Machine
end

