-- ==== Sys2Proof/Proofs/Mailbox.lean ====
section
/-! PROOF. The mailbox commands (chapter 20, Table 20-4): what MC does with a command in hand, and the work of each row
(R502, R507 to R510, R265, R266, R107). -/

namespace Sys2Proof.Machine
namespace State

/-! ### MC and a command in hand (R508) -/

/-- A command of Table 20-4 that MC can work on: its OP is `op` and its payload holds the `need` bytes of that row. -/
structure MbxFits (c : MbxCmd) (op need : Nat) : Prop where
  known : mbxOps.contains op = true
  op_eq : c.op = op
  step_lt : c.step < 1000
  long : need ≤ c.payload.length

theorem MbxFits.not_short {c : MbxCmd} {op need : Nat} (h : MbxFits c op need) :
    ¬ (1000 ≤ c.step ∨ c.payload.length < need) := by
  obtain ⟨_, _, hstep, hlong⟩ := h
  omega

/-- A stage of the work leaves the command in hand at its next step. -/
theorem mbxStep_go {s t : State} {c : MbxCmd} {op need : Nat} {work : MbxCmd → State → MbxRes} (h : MbxFits c op need)
    (hwork : work c s = .go t) :
    s.mbxStep c op need work = t.hostPut { t.host with taken := some { c with step := c.step + 1 } } := by
  have hshort := h.not_short
  unfold mbxStep
  simp only [h.op_eq, h.known, hshort, hwork, Bool.not_true, Bool.false_eq_true, ne_eq, not_true_eq_false, if_false]

/-- The end of the work writes the response. -/
theorem mbxStep_done {s t : State} {c : MbxCmd} {op need status : Nat} {payload : List Byte}
    {work : MbxCmd → State → MbxRes} (h : MbxFits c op need) (hwork : work c s = .done t status payload) :
    s.mbxStep c op need work = t.mbxAnswer c status payload := by
  have hshort := h.not_short
  unfold mbxStep
  simp only [h.op_eq, h.known, hshort, hwork, Bool.not_true, Bool.false_eq_true, ne_eq, not_true_eq_false, if_false]

theorem mbxWork_inHand {s : State} {c : MbxCmd} (op need : Nat) (work : MbxCmd → State → MbxRes) (hserves : s.mbxServes = true)
    (htaken : s.host.taken = some c) : s.mbxWork op need work = s.mbxStep c op need work := by
  unfold mbxWork
  rw [hserves, htaken]
  rfl

/-- With no command in hand, MC takes the entry at the head of the ring and begins its work. -/
theorem mbxWork_takes {s : State} {c : MbxCmd} {op : Nat} (need : Nat) (work : MbxCmd → State → MbxRes)
    (hserves : s.mbxServes = true) (hnone : s.host.taken = none) (htaken : s.mbxTake.host.taken = some c) (hop : c.op = op) :
    s.mbxWork op need work = s.mbxTake.mbxStep c op need work := by
  have hown : ¬ (mbxOps.contains c.op && decide (c.op ≠ op)) = true := by simp [hop]
  unfold mbxWork
  rw [hserves, hnone]
  dsimp only
  rw [htaken]
  exact if_neg hown

theorem mbxWork_go {s t : State} {c : MbxCmd} {op need : Nat} {work : MbxCmd → State → MbxRes} (hserves : s.mbxServes = true)
    (htaken : s.host.taken = some c) (h : MbxFits c op need) (hwork : work c s = .go t) :
    s.mbxWork op need work = t.hostPut { t.host with taken := some { c with step := c.step + 1 } } :=
  (mbxWork_inHand op need work hserves htaken).trans (mbxStep_go h hwork)

theorem mbxWork_done {s t : State} {c : MbxCmd} {op need status : Nat} {payload : List Byte}
    {work : MbxCmd → State → MbxRes} (hserves : s.mbxServes = true) (htaken : s.host.taken = some c) (h : MbxFits c op need)
    (hwork : work c s = .done t status payload) : s.mbxWork op need work = t.mbxAnswer c status payload :=
  (mbxWork_inHand op need work hserves htaken).trans (mbxStep_done h hwork)

/-! ### Mode and power (Table 20-4: SET_MODE, POWER) -/

theorem mbxSetMode_posts {c : MbxCmd} (s : State) (hstep : c.step = 0) :
    mbxSetMode c s = .go (s.mcWrites [(R.SYS_MODE, 196608),
      (R.SYS_MODECMD, leAt c.payload 0 4 % 8 + leAt c.payload 0 4 / 256 % 2 * 65536 + 2147483648)]) :=
  if_pos hstep

theorem mbxSetMode_judged {s : State} {c : MbxCmd} (hstep : c.step ≠ 0) (hpend : s.flag F.SYS_MODE_CMD_PEND = false)
    (hrefused : s.flag F.SYS_MODE_CMD_REFUSED = false) (hdropped : s.flag F.SYS_MODE_CMD_DROPPED = false) :
    mbxSetMode c s = .done s 0 (leBytes 4 (s.mcRead R.SYS_MODE)) := by
  unfold mbxSetMode
  simp only [hstep, hpend, hrefused, hdropped, Bool.or_self, Bool.false_eq_true, if_false]

theorem mbxPower_asks {c : MbxCmd} (s : State) (hstate : leAt c.payload 0 4 % 8 < 5) :
    mbxPower c s = .done (s.mcWrite R.PMU_REQ (leAt c.payload 0 4 % 8 + 2147483648)) 0
      (leBytes 4 ((s.mcWrite R.PMU_REQ (leAt c.payload 0 4 % 8 + 2147483648)).mcRead R.PMU_STAT)) :=
  if_neg (Nat.not_le.2 hstate)

/-! ### Geometry and Graticule (R155, R107) -/

theorem mbxSetGeometry_loads {s t u : State} {c : MbxCmd} {band : Nat} (hband : leAt c.payload 0 4 = band) (hlt : band < 2)
    (ht : t = (List.range 8).foldl (fun (t : State) e => t.mcWrites
      [(R.ARR_POSXY band e, leAt c.payload (4 + 6 * e) 2 + leAt c.payload (6 + 6 * e) 2 * 65536),
       (R.ARR_POSZ band e, leAt c.payload (8 + 6 * e) 2)]) s)
    (hu : u = t.mcWrite (R.ARR_CTL band) (putBits (BitVec.ofNat 32 (t.mcRead (R.ARR_CTL band))) 1 1 1).toNat) :
    mbxSetGeometry c s = .done (u.fwPut { u.host.fw with
      geometry := u.host.fw.geometry.set band (some ((List.range 24).map fun k => signed 16 (leAt c.payload (4 + 2 * k) 2),
        signed 32 (leAt c.payload 52 4), signed 32 (leAt c.payload 56 4))) }) 0 [] := by
  have hx (e : Nat) : 4 + 2 * (3 * e) = 4 + 6 * e := by omega
  have hy (e : Nat) : 4 + 2 * (3 * e + 1) = 6 + 6 * e := by omega
  have hz (e : Nat) : 4 + 2 * (3 * e + 2) = 8 + 6 * e := by omega
  have hhalf : 2 ^ 16 = 65536 := rfl
  subst hband ht hu
  unfold mbxSetGeometry
  simp only [Nat.not_le.2 hlt, if_false, hx, hy, hz, hhalf]

theorem bulkLocal_reads {s t : State} {a n : Nat} {m : List Byte} (hlow : sramBase + 20 * bankSize ≤ a)
    (hhigh : a + n ≤ sramBase + 22 * bankSize) (hn : n ≠ 0) (hr : s.portRead Init.DMA a n = (t, some m)) :
    s.bulkLocal a n = .data t m := by
  have hin : ¬ (n = 0 ∨ a < sramBase + 20 * bankSize ∨ sramBase + 22 * bankSize < a + n) := by omega
  unfold bulkLocal
  rw [if_neg hin, hr]

theorem bulkGet_local {c : MbxCmd} (s : State) (a n : Nat) (hlocal : c.hostmem = false) :
    s.bulkGet c a n = s.bulkLocal a n := by
  unfold bulkGet
  rw [hlocal]
  rfl

/-- An image that is whole and whose tags fit both bands is used on both. -/
theorem mbxLoadGraticule_uses {s t v : State} {c : MbxCmd} {m : List Byte}
    (hget : s.bulkGet c (leAt c.payload 0 8) (leAt c.payload 8 4) = .data t m) (hform : gratForm m = true)
    (htag0 : t.gratTag m 0 = true) (htag1 : t.gratTag m 1 = true)
    (hv : v = ((t.gratWrites m 0).gratWrites m 1).fwPut
      { ((t.gratWrites m 0).gratWrites m 1).host.fw with graticule := some m }) :
    mbxLoadGraticule c s =
      .done (if bit (leAt c.payload 12 4) 0 then v.hostPut { v.host with flash := some m } else v) 0 [] := by
  subst hv
  unfold mbxLoadGraticule
  rw [hget]
  simp only [hform, htag0, htag1, Bool.and_self, if_true]

/-! ### Network time and pairing (Table 20-4: PTP_CONFIG, PTP_SESSION, PAIR) -/

/-- PTP_CONFIG with the clock identity in force writes the Announce data, the configuration and the port enables. -/
theorem mbxPtpConfig_sameIdentity {s t u : State} {c : MbxCmd} (hid1 : beValue (slice c.payload 0 4) = s.mcRead R.PTP_CLKID1)
    (hid0 : beValue (slice c.payload 4 4) = s.mcRead R.PTP_CLKID0) (hbool : leAt c.payload 21 1 ≤ 1)
    (hprofile : leAt c.payload 20 1 ≤ 7) (hports : leAt c.payload 22 1 ≤ 15)
    (ht : t = s.mcWrites [(R.PTP_ANN0, leAt c.payload 8 4), (R.PTP_ANN1, leAt c.payload 12 4),
      (R.PTP_ANN2, leAt c.payload 16 4),
      (R.PTP_CFG, s.mcRead R.PTP_CFG / 16 * 16 + leAt c.payload 20 1 * 2 + leAt c.payload 21 1),
      (R.PAGE_COMMIT P.PTP, 0xC0DE0001)])
    (hu : u = (List.range 4).foldl (fun (u : State) n => u.mcWrites
      [(R.PTPP_CFG n, (putBits (BitVec.ofNat 32 (u.mcRead (R.PTPP_CFG n))) 0 1 (leAt c.payload 22 1 / 2 ^ n)).toNat),
       (R.PAGE_COMMIT (P.PTPP n), 0xC0DE0001)]) t) :
    mbxPtpConfig c s = .done u 0 [] := by
  have hrange : ¬ (1 < leAt c.payload 21 1 ∨ 7 < leAt c.payload 20 1 ∨ 15 < leAt c.payload 22 1) := by omega
  subst ht hu
  unfold mbxPtpConfig
  simp only [hid1, hid0, hrange, ne_eq, not_true_eq_false, decide_false, Bool.or_self, Bool.false_and, Bool.false_eq_true,
    if_false, List.nil_append]

theorem mbxPtpSession_starts {s : State} {c : MbxCmd} (hstep : c.step = 0) (hidle : s.flag F.PTP_SESSSTAT_BUSY = false) :
    mbxPtpSession c s = .go (((List.range 16).foldl
      (fun (t : State) k => t.mcWrite (R.PTP_STAGE k) (leAt c.payload (8 + 4 * k) 4)) s).mcWrite R.PTP_SESSCMD
        (leAt c.payload 0 2 % 4096 + leAt c.payload 2 2 % 16 * 4096 + leAt c.payload 4 4 % 65536 * 65536)) :=
  (if_pos hstep).trans (if_neg fun h => Bool.noConfusion (hidle.symm.trans h))

theorem mbxPtpSession_ends {s : State} {c : MbxCmd} (hstep : c.step ≠ 0) (hidle : s.flag F.PTP_SESSSTAT_BUSY = false) :
    mbxPtpSession c s = .done s 0 (leBytes 4 (s.mcRead R.PTP_SESSSTAT) ++
      (if leAt c.payload 2 2 % 16 = 3 then wordBytes ((List.range 16).map fun k => s.reg (R.PTP_STAGE k)) else [])) :=
  (if_neg hstep).trans (if_neg fun h => Bool.noConfusion (hidle.symm.trans h))

/-- A PAIR_CMD operation other than the role command 1 is answered with STATUS 0. -/
theorem mbxPair_operates {c : MbxCmd} (s : State) (hlow : 2 ≤ leAt c.payload 0 4) (hhigh : leAt c.payload 0 4 ≤ 5) :
    mbxPair c s = .done (s.mcWrite R.PAIR_CMD (leAt c.payload 0 4)) 0
      (leBytes 4 ((s.mcWrite R.PAIR_CMD (leAt c.payload 0 4)).mcRead R.PAIR_STAT)) := by
  have hvalid : ¬ (leAt c.payload 0 4 = 0 ∨ 5 < leAt c.payload 0 4) := by omega
  have hrole : leAt c.payload 0 4 ≠ 1 := by omega
  unfold mbxPair
  simp only [hvalid, hrole, false_and, if_false]

/-! ### Nymvis (R436, R442) -/

/-- QUOTE begins: the nonce goes to NYM_DATA1 and the buffer to Nymvis. -/
theorem mbxQuote_gives {s t : State} {c : MbxCmd} (hstep : c.step = 0) (hidle : s.flag (F.NYM_RSTAT_BUSY 1) = false)
    (hgive : s.nymGive 224 = some t) : mbxQuote c s = .go ((List.range 8).foldl
      (fun (u : State) k => u.mcWrite (R.NYM_DATA 1 k) (leAt c.payload (4 * k) 4)) t) := by
  unfold mbxQuote
  simp only [hstep, hidle, hgive, Bool.false_eq_true, if_false]

theorem mbxQuote_requests {s : State} {c : MbxCmd} (hstep : c.step = 1) (hidle : s.flag (F.NYM_RSTAT_BUSY 1) = false)
    (hbuf : s.nymBufOf 224 Init.NYM = true) :
    mbxQuote c s = .go ((s.mcWrite (R.NYM_LEN 1) 224).mcWrite (R.NYM_CMD 1) 0x20) := by
  unfold mbxQuote
  simp only [hstep, hidle, hbuf, Bool.not_true, Bool.or_self, Bool.false_eq_true, if_false]

/-- QUOTE ends: once the buffer is back with RESULT 0, its 224 bytes are the response. -/
theorem mbxQuote_returns {s t : State} {c : MbxCmd} {l : List Byte} (hstep : 2 ≤ c.step)
    (hidle : s.flag (F.NYM_RSTAT_BUSY 1) = false) (hbuf : s.nymBufOf 224 Init.MC = true)
    (hresult : s.fld (F.NYM_RSTAT_RESULT 1) = 0) (hr : s.portRead Init.MC (s.fld (F.NYM_BUF_ADDR 1)) 224 = (t, some l)) :
    mbxQuote c s = .done t 0 l := by
  obtain ⟨k, hk⟩ : ∃ k, c.step = k + 2 := ⟨c.step - 2, by omega⟩
  unfold mbxQuote
  simp only [hk, hidle, hbuf, hresult, hr, Bool.not_true, Bool.or_self, Bool.false_eq_true, if_false, ne_eq,
    not_true_eq_false]

/-- The stage of FW_UPDATE after its image lies in the buffer: LOAD_IMAGE with installation. -/
theorem mbxFwUpdate_requests {s : State} {c : MbxCmd} (hlocal : c.hostmem = false) (hcls : leAt c.payload 0 4 % 256 < 4)
    (hstep : c.step = 1) (hidle : s.flag (F.NYM_RSTAT_BUSY 1) = false)
    (hbuf : s.nymBufOf (leAt c.payload 12 4) Init.NYM = true) :
    mbxFwUpdate c s = .go ((s.mcWrite (R.NYM_LEN 1) (leAt c.payload 12 4)).mcWrite (R.NYM_CMD 1) (0x30 + 2 ^ 8)) := by
  have hclass : ¬ 4 ≤ leAt c.payload 0 4 % 2 ^ 8 := Nat.not_le.2 hcls
  unfold mbxFwUpdate
  simp only [hlocal, hclass, hstep, hidle, hbuf, Bool.false_eq_true, if_false, if_true, Nat.not_succ_le_self, Nat.zero_add,
    Bool.not_true, Bool.or_self]

/-- Without ADVANCE, the end of LOAD_IMAGE is the answer. -/
theorem mbxFwUpdate_answers {s : State} {c : MbxCmd} (hlocal : c.hostmem = false) (hcls : leAt c.payload 0 4 % 256 < 4)
    (hstep : c.step = 2) (hidle : s.flag (F.NYM_RSTAT_BUSY 1) = false)
    (hbuf : s.nymBufOf (leAt c.payload 12 4) Init.MC = true) (hresult : s.fld (F.NYM_RSTAT_RESULT 1) = 0)
    (hadvance : bit (leAt c.payload 0 4) 8 = false) :
    mbxFwUpdate c s = .done s 0
      (leBytes 4 0 ++ leBytes 4 (getBits (s.reg R.NYM_SVN) (8 * (leAt c.payload 0 4 % 256)) 8)) := by
  have hwait : ¬ (s.flag (F.NYM_RSTAT_BUSY 1) || !(s.nymBufOf (leAt c.payload 12 4) Init.MC)) = true := by simp [hidle, hbuf]
  have hload : (if c.hostmem = true then 1 else 0) = 0 := if_neg (by simp [hlocal])
  have hend : ¬ (s.fld (F.NYM_RSTAT_RESULT 1) = 0 ∧ bit (leAt c.payload 0 4) 8 = true) := by simp [hadvance]
  have hanswer : s.fwAnswer (leAt c.payload 0 4 % 256) = .done s 0
      (leBytes 4 0 ++ leBytes 4 (getBits (s.reg R.NYM_SVN) (8 * (leAt c.payload 0 4 % 256)) 8)) := by
    unfold fwAnswer
    simp only [hresult, if_true]
  unfold mbxFwUpdate
  rw [hload, hstep]
  exact (if_neg (Nat.not_le.2 hcls)).trans ((if_neg (by decide)).trans ((if_neg (by decide)).trans
    ((if_pos rfl).trans ((if_neg hwait).trans ((if_neg hend).trans hanswer)))))

/-! ### NMEA (R502) -/

theorem mbxNmeaConfig_sets {s t : State} {c : MbxCmd} (hmask : leAt c.payload 0 4 < 64) (hrate : leAt c.payload 4 4 < 8)
    (hdiv : leAt c.payload 8 4 ≠ 0)
    (ht : s.mcWrites [(R.UART_CFG 1, leAt c.payload 4 4 + 8), (R.PAGE_COMMIT P.UART, 0xC0DE0001)] = t) :
    mbxNmeaConfig c s = .done (t.fwPut { t.host.fw with
      nmea := some (leAt c.payload 0 4, leAt c.payload 4 4, leAt c.payload 8 4) }) 0 [] := by
  have hvalid : ¬ (64 ≤ leAt c.payload 0 4 ∨ 8 ≤ leAt c.payload 4 4 ∨ leAt c.payload 8 4 = 0) := by omega
  subst ht
  exact if_neg hvalid

/-- Settles O40, a clause per command: MC has the command in hand (or takes it, GET_STATUS), and the work of its row gives
the next stage or the response (log entries 41, 77, 84). -/
theorem mailboxCommandsComplete : Obligations.MailboxCommandsComplete := by
  unfold Obligations.MailboxCommandsComplete
  refine ⟨?status, ?modePosts, ?modeJudged, ?power, ?survey, ?position, ?sessionStarts, ?sessionEnds, ?pair, ?quoteGives,
    ?quoteRequests, ?quoteReturns, ?fwRequests, ?fwAnswers, ?log, ?nmea, ?geometry, ?graticule, ?ptpConfig⟩
  case status =>
    intro s c hserves hnone htaken hop hstep
    have hfits : MbxFits c 0x0001 0 := ⟨by decide, hop, hstep, Nat.zero_le _⟩
    exact next_settle_of_eq rfl ((mbxWork_takes 0 mbxGetStatus hserves hnone htaken hop).trans (mbxStep_done hfits rfl))
  case modePosts =>
    intro s c hserves htaken hop hstep hlong hfirst
    exact next_settle_of_eq rfl (mbxWork_go hserves htaken ⟨by decide, hop, hstep, hlong⟩ (mbxSetMode_posts s hfirst))
  case modeJudged =>
    intro s c hserves htaken hop hstep hlong hlater hpend hrefused hdropped
    exact next_settle_of_eq rfl (mbxWork_done hserves htaken ⟨by decide, hop, hstep, hlong⟩
      (mbxSetMode_judged hlater hpend hrefused hdropped))
  case power =>
    intro s c hserves htaken hop hstep hlong hstate
    exact next_settle_of_eq rfl (mbxWork_done hserves htaken ⟨by decide, hop, hstep, hlong⟩ (mbxPower_asks s hstate))
  case survey =>
    intro s c hserves htaken hop hstep hlong
    exact next_settle_of_eq rfl (mbxWork_done (work := mbxSurvey) hserves htaken ⟨by decide, hop, hstep, hlong⟩ rfl)
  case position =>
    intro s c hserves htaken hop hstep hlong
    exact next_settle_of_eq rfl (mbxWork_done (work := mbxSetPosition) hserves htaken ⟨by decide, hop, hstep, hlong⟩ rfl)
  case sessionStarts =>
    intro s c hserves htaken hop hstep hlong hfirst hidle
    exact next_settle_of_eq rfl (mbxWork_go hserves htaken ⟨by decide, hop, hstep, hlong⟩ (mbxPtpSession_starts hfirst hidle))
  case sessionEnds =>
    intro s c hserves htaken hop hstep hlong hlater hidle
    exact next_settle_of_eq rfl (mbxWork_done hserves htaken ⟨by decide, hop, hstep, hlong⟩ (mbxPtpSession_ends hlater hidle))
  case pair =>
    intro s c hserves htaken hop hstep hlong hlow hhigh
    exact next_settle_of_eq rfl (mbxWork_done hserves htaken ⟨by decide, hop, hstep, hlong⟩ (mbxPair_operates s hlow hhigh))
  case quoteGives =>
    intro s c t hserves htaken hop hstep hlong hfirst hidle hgive
    exact next_settle_of_eq rfl (mbxWork_go hserves htaken ⟨by decide, hop, hstep, hlong⟩ (mbxQuote_gives hfirst hidle hgive))
  case quoteRequests =>
    intro s c hserves htaken hop hstep hlong hsecond hidle hbuf
    exact next_settle_of_eq rfl (mbxWork_go hserves htaken ⟨by decide, hop, hstep, hlong⟩
      (mbxQuote_requests hsecond hidle hbuf))
  case quoteReturns =>
    intro s c t l hserves htaken hop hstep hlong hlast hidle hbuf hresult hr
    exact next_settle_of_eq rfl (mbxWork_done hserves htaken ⟨by decide, hop, hstep, hlong⟩
      (mbxQuote_returns hlast hidle hbuf hresult hr))
  case fwRequests =>
    intro s c hserves htaken hop hstep hlong hlocal hcls hsecond hidle hbuf
    exact next_settle_of_eq rfl (mbxWork_go hserves htaken ⟨by decide, hop, hstep, hlong⟩
      (mbxFwUpdate_requests hlocal hcls hsecond hidle hbuf))
  case fwAnswers =>
    intro s c hserves htaken hop hstep hlong hlocal hcls hthird hidle hbuf hresult hadvance
    exact next_settle_of_eq rfl (mbxWork_done hserves htaken ⟨by decide, hop, hstep, hlong⟩
      (mbxFwUpdate_answers hlocal hcls hthird hidle hbuf hresult hadvance))
  case log =>
    intro s c hserves htaken hop hstep hlong
    exact next_settle_of_eq rfl (mbxWork_done (work := mbxGetLog) hserves htaken ⟨by decide, hop, hstep, hlong⟩ rfl)
  case nmea =>
    intro s c t hserves htaken hop hstep hlong hmask hrate hdiv ht
    exact next_settle_of_eq rfl (mbxWork_done hserves htaken ⟨by decide, hop, hstep, hlong⟩
      (mbxNmeaConfig_sets hmask hrate hdiv ht))
  case geometry =>
    intro s c band t u hserves htaken hop hstep hlong hband hlt ht hu
    exact next_settle_of_eq rfl (mbxWork_done hserves htaken ⟨by decide, hop, hstep, hlong⟩
      (mbxSetGeometry_loads hband hlt ht hu))
  case graticule =>
    intro s c t v m hserves htaken hop hstep hlong hlocal hlow hhigh hn hr hform htag0 htag1 hv
    have hget : s.bulkGet c (leAt c.payload 0 8) (leAt c.payload 8 4) = .data t m :=
      (bulkGet_local s _ _ hlocal).trans (bulkLocal_reads hlow hhigh hn hr)
    exact next_settle_of_eq rfl (mbxWork_done hserves htaken ⟨by decide, hop, hstep, hlong⟩
      (mbxLoadGraticule_uses hget hform htag0 htag1 hv))
  case ptpConfig =>
    intro s c t u hserves htaken hop hstep hlong hid1 hid0 hbool hprofile hports ht hu
    exact next_settle_of_eq rfl (mbxWork_done hserves htaken ⟨by decide, hop, hstep, hlong⟩
      (mbxPtpConfig_sameIdentity hid1 hid0 hbool hprofile hports ht hu))

end State
end Sys2Proof.Machine
end
